-- ==== Sys2Proof/Word.lean ====
section
/-! DEFINITION. The words the VAI computes with (00_scope.md R6, R12): all multi-byte values are little-endian. -/

namespace Sys2Proof

/-- One byte of storage. -/
abbrev Byte := BitVec 8
/-- A 32-bit register or entry word. -/
abbrev W32 := BitVec 32
/-- A 64-bit register, constant word or scalar register. -/
abbrev W64 := BitVec 64
/-- A route word (05 R132). -/
abbrev W128 := BitVec 128

end Sys2Proof
end

