-- ==== Sys2Proof/Machine/PathCode.lean ====
section
/-! DEFINITION. The Path Code (01 R34): the check bits of a 256-bit word, and what the check at a memory read or a port
crossing finds (01 R35, R36). -/

namespace Sys2Proof.Machine

/-- Multiplication by α = 0x02 in GF(2^8) with x^8 + x^4 + x^3 + x^2 + 1. -/
def pcAlpha (a : Byte) : Byte := if a.msb then (a <<< 1) ^^^ 0x1D#8 else a <<< 1

/-- `b` times the power of α of the `k`-th bit, summed over the low `n` bits of `a`. -/
def pcMulFrom (a : Byte) : Nat → Byte → Byte
  | 0, _ => 0
  | n + 1, b => (if a.getLsbD (7 - n) then b else 0) ^^^ pcMulFrom a n (pcAlpha b)

/-- gf_mul of R34. -/
def pcMul (a b : Byte) : Byte := pcMulFrom a 8 b

/-- The coefficients g0, g1, g2 of g(x) = (x + 1)(x + α)(x + α²), which is x³ + g2 x² + g1 x + g0. -/
def pcG : Byte × Byte × Byte :=
  let r0 := 1#8
  let r1 := pcAlpha r0
  let r2 := pcAlpha r1
  (pcMul r0 (pcMul r1 r2), pcMul r0 r1 ^^^ pcMul r0 r2 ^^^ pcMul r1 r2, r0 ^^^ r1 ^^^ r2)

/-- One round of pathcode_check: the remainder takes in the symbol `d`. -/
def pcRound (r : Byte × Byte × Byte) (d : Byte) : Byte × Byte × Byte :=
  let f := d ^^^ r.2.2
  (pcMul f pcG.1, r.1 ^^^ pcMul f pcG.2.1, r.2.1 ^^^ pcMul f pcG.2.2)

/-- pathcode_check of R34 over the symbols d_0 to d_31, the highest first; symbols left out at the top are zero. -/
def pathcodeCheck (d : List Byte) : Byte × Byte × Byte := d.reverse.foldl pcRound (0, 0, 0)

/-- A codeword received: its data symbols and its three check symbols. -/
structure Codeword where
  data : List Byte
  chk  : Byte × Byte × Byte
  deriving DecidableEq, Repr

/-- The codeword of a word. -/
def pcEncode (d : List Byte) : Codeword := ⟨d, pathcodeCheck d⟩

/-- Add `e` to symbol `k` of a codeword: k = 0 to 2 are the check symbols, k + 3 is data symbol k. -/
def Codeword.flip (c : Codeword) (k : Nat) (e : Byte) : Codeword := match k with
  | 0 => { c with chk := (c.chk.1 ^^^ e, c.chk.2) }
  | 1 => { c with chk := (c.chk.1, c.chk.2.1 ^^^ e, c.chk.2.2) }
  | 2 => { c with chk := (c.chk.1, c.chk.2.1, c.chk.2.2 ^^^ e) }
  | k + 3 => { c with data := c.data.modify k (· ^^^ e) }

/-- Add several errors, each to its symbol. -/
def Codeword.upset (c : Codeword) (l : List (Nat × Byte)) : Codeword := l.foldl (fun c e => c.flip e.1 e.2) c

/-- The codeword's polynomial at `z`, by Horner's rule from the highest symbol. -/
def Codeword.evalAt (c : Codeword) (z : Byte) : Byte :=
  ([c.chk.1, c.chk.2.1, c.chk.2.2] ++ c.data).foldr (fun d a => d ^^^ pcMul a z) 0

/-- What the check of a codeword finds (01 R36). -/
inductive PathResult where
  /-- No symbol is in error. -/
  | clean
  /-- One symbol was in error; the word is re-encoded. -/
  | corrected (c : Codeword)
  /-- More than one symbol is in error. -/
  | uncorrectable
  deriving DecidableEq, Repr

/-- The position of the one symbol whose error `e` gives the values `s1` at α and `s2` at α², among `n` symbols from
position `k` on; `p` is α to the k. -/
def pcLocate (e s1 s2 : Byte) : Nat → Nat → Byte → Option Nat
  | 0, _, _ => none
  | n + 1, k, p => if pcMul e p = s1 ∧ pcMul s1 p = s2 then some k else pcLocate e s1 s2 n (k + 1) (pcAlpha p)

/-- The check of a codeword at a read or a crossing: the code has distance 4, so one erroneous symbol is corrected and
two are detected (01 R34). -/
def pathCheck (c : Codeword) : PathResult :=
  let s0 := c.evalAt 1
  let s1 := c.evalAt 2
  let s2 := c.evalAt 4
  if s0 = 0 ∧ s1 = 0 ∧ s2 = 0 then .clean
  else if s0 = 0 then .uncorrectable
  else match pcLocate s0 s1 s2 (c.data.length + 3) 0 1 with
    | some k => .corrected (c.flip k s0)
    | none => .uncorrectable

end Sys2Proof.Machine
end

