-- ==== Sys2Proof/Syntax.lean ====
section
/-! DEFINITION. The commands of the VAI: one constructor of `Instr` per row of spec/opcode_table.json, with the
operands its event or access carries, and the plain types of those operands. -/

namespace Sys2Proof

/-- A register window (17_register_map.md R445, R447): PF `p`'s BAR0, BAR0 of local VF `i` of PF `p`, or the
root-of-trust port. -/
inductive Window where
  | pf (p : Nat)
  | vf (p i : Nat)
  | rot
  deriving DecidableEq, Repr

/-- The standard PCIe configuration fields that the manual names (02 R44; 11 R317, R318, R320; 17 R445): the SR-IOV
control and capability, ATS and PRI, the BARs (`vfBar` those of the SR-IOV capability), the expansion ROM BAR, and the
BAR that the MSI-X capability names for its table and its pending-bit array. -/
inductive CfgReg where
  | vfEnable | numVfs | atsEnable | priEnable | priAlloc
  | totalVfs | vfStride | smallestTranslationUnit | invalidateQueueDepth | pageAlignedRequest
  | bar (i : Nat) | vfBar (i : Nat) | expansionRom | msixTableBir | msixPbaBir
  deriving DecidableEq, Repr

/-- What a register access names: a window, a byte offset and an access size in bytes; or a configuration field. -/
inductive Target where
  | mmio (w : Window) (off size : Nat)
  | cfg (w : Window) (r : CfgReg)
  deriving DecidableEq, Repr

/-- The tags a return message echoes (07 R197). -/
structure Tag where
  pgen : Nat
  egen : Nat
  dtag : Nat
  deriving DecidableEq, Repr

/-- The Page Request Group Responses of 11 R320. -/
inductive PriCode where
  | success | invalid | failure
  deriving DecidableEq, Repr

/-- What a completion at a host port carries (11 R317, 13 R362, R373): read data, a translation with its
permissions and the translated page, an Unsupported Request or Completer Abort, or poisoned data. -/
inductive HostCpl where
  | data (bytes : List Byte)
  | xlat (r w : Bool) (page : Nat)
  | refused
  | poisoned
  deriving DecidableEq, Repr

/-- A stored word that is found uncorrectable (13 R362, R368): a Task Table record, a waypoint record, an object's entry, the
entry of the extent that holds a page of it, a function's queue, a GEQ entry by ring position, or a 32-byte word of a Waystation bank by address, with the
symbols of its codeword that have been upset since it was last written. -/
inductive StoredWord where
  | record (r : Nat)
  | waypoint (i : Nat)
  | object (n : Nat)
  | extent (n pg : Nat)
  | queue (f q : Nat)
  | geq (k : Nat)
  | bank (a : Nat) (e : List (Nat × Byte))
  deriving DecidableEq, Repr

/-- The transfer that a fault concerns (13 R363): none of a task, a read for a task or for no task, another transfer of a
task, by record index, or the read of a host port that holds a PCIe tag. -/
inductive Transfer where
  | none
  | read (r : Option Nat)
  | write (r : Nat)
  | tag (t : Nat)
  deriving DecidableEq, Repr

/-- What a sample of a bundled-data path meets (14 R396): the margin of its replica, and the transfer that the path carries,
which a fault of its channel detours (13 R362). -/
structure PathSample where
  margin : Nat
  carries : Transfer := .none
  deriving DecidableEq, Repr

/-- The faults of 13 R362 that CHANNEL_FAULT reports: a word as it arrives at a crossing with its check symbols, whose check
decides (01 R35, R36); a dual-rail bit with both rails asserted; a completion with poisoned data; a stored word. -/
inductive FaultWhat where
  | word (c : Machine.Codeword)
  | bothRails | poisonedCompletion
  | stored (w : StoredWord)
  deriving DecidableEq, Repr

/-- An engine memory request (11 R298, R322). -/
inductive MemKind where
  | read | write | atomic
  deriving DecidableEq, Repr

/-- A 256-bit key (15 R411). -/
abbrev KeyBits := BitVec 256

/-- What the root of trust finds in a package (15 R423): its signature and version hold, its digests are the
manifest's, and its security version. -/
structure StageAnswer where
  imageOk : Bool
  digestsOk : Bool
  version : Nat
  deriving DecidableEq, Repr

/-- The data object types a host writes (15 R416). -/
inductive DoeKind where
  | discovery | spdm | other
  deriving DecidableEq, Repr

/-- The commands: one constructor per row of the table. -/
inductive Instr where
  /-- POWER_ON (R381): Power-on sets every register to its reset value and leaves every feature inert. Identity, calibration, the loops, the lamplighter path and the mailboxes start running, and dim mode begins. -/
  | powerOn
  /-- CALIBRATION_WINDOW_END (R391): A candle calibration window of 65,536 reference cycles completes, which sets CANDLE_CAL on the first window and moves running timers to the calibrated rate without a step in their count. -/
  | calibrationWindowEnd
  /-- REFERENCE_CLOCK_STOP (R29): The host port 0 reference clock stops, so every candle timer keeps its last calibration and NO_REF is set. -/
  | referenceClockStop
  /-- REFERENCE_CLOCK_START (R392): The host port 0 reference clock appears, so NO_REF clears and calibration begins. -/
  | referenceClockStart
  /-- VOLTAGE_SAMPLE (R393): Every 10 us of candle time the voltage loop takes a sample, applies the cap, emergency and set-point rules, updates V_CONV and sends V_REQ. -/
  | voltageSample (pace : Nat)
  /-- TRIM_SAMPLE (R396): Every 1 us each bundled-data path samples its replica margin, adjusts its trim code and updates TRIM_CONV, or counts a channel fault when the trim is already at 63. -/
  | trimSample (path : Nat) (x : PathSample)
  /-- TRIM_APPLY (R25): A new trim value reaches a live path at its next moment with no handshake in flight. -/
  | trimApply (path : Nat)
  /-- DIM_LATE (R390): Dim mode has lasted 1 s of candle time, so DIM_LATE is set and an informational device-scoped 0x10 record is posted. -/
  | dimLate
  /-- V_GRANT (R399): The chip power manager reports the code the rail is moving to. -/
  | vGrant (code : Nat)
  /-- P_REPORT (R399): The chip power manager reports rail power and junction temperature, which updates PWR_STATUS and HOT. -/
  | pReport (power temp : Nat)
  /-- P_STATE (R400): The chip power manager sends NORMAL, CAPPED with a limit, or EMERGENCY, which changes the effective cap or forces request code 0. -/
  | pState (st limit : Nat)
  /-- VAI_ENABLE_RUN (R384): A write of the RUN bit of VAI_ENABLE sets RUN if FW_READY holds, and records the bit in REFUSED otherwise. -/
  | vaiEnableRun (p : Nat)
  /-- VAI_ENABLE_ENGINES (R385): A write of the ENGINES bit sets ENGINES if RUN holds, then sends IDENT_REQ to each enabled engine port. -/
  | vaiEnableEngines (p : Nat)
  /-- VAI_ENABLE_QUEUES (R384): A write of the QUEUES bit sets QUEUES if RUN holds, and from then on queue CREATE is accepted. -/
  | vaiEnableQueues (p : Nat)
  /-- VAI_ENABLE_IRQ (R386): A write of the IRQ bit sets IRQ if QUEUES holds, then sends every pending unmasked MSI-X vector once. -/
  | vaiEnableIrq (p : Nat)
  /-- REGISTER_WRITE (R9): A write to a register that has no row of its own applies the access code, the authority checks and the range checks, and records any refusal in CFG_RESULT or AUTH_DENIED. -/
  | registerWrite (t : Target) (v : W64)
  /-- VF_BIND_WRITE (R45): A write to VF_BIND binds or unbinds a VF and sets its queue quota after the range, partition, busy and capacity checks, and increments BIND_GEN on a change. -/
  | vfBindWrite (p n : Nat) (v : W64)
  /-- VF_RANGE_WRITE (R44): A write to VF_RANGE sets a host port's global VF range after the overlap, range and SR-IOV checks. -/
  | vfRangeWrite (p port : Nat) (v : W64)
  /-- PARTITION_ENABLE (R53): A write that sets PART_CFG.ENABLE enables the partition after the empty, overlap, capacity and retired checks, and restarts its loop history. -/
  | partitionEnable (p n : Nat) (v : W64)
  /-- PARTITION_DISABLE (R54): A write that clears PART_CFG.ENABLE disables the partition unless a VF is bound to it, and withdraws its key slots. -/
  | partitionDisable (p n : Nat) (v : W64)
  /-- RESIZE_GO (R58): A write of GO in RESIZE_CTRL runs the start checks and begins a resize in phase 1, or records a refusal code. -/
  | resizeGo (p : Nat) (v : W64)
  /-- RESIZE_CANCEL (R61): A write of CANCEL in RESIZE_CTRL ends a resize that is still in phase 1, with RESULT 0x02. -/
  | resizeCancel (p : Nat) (v : W64)
  /-- RESIZE_SOURCE_STEP (R59): At a source slice boundary where no moving bank holds units, the moving resources leave the source, their credits move to the destination, and scrub and engine clear begin. -/
  | resizeSourceStep
  /-- SCRUB_COMPLETE (R60): The zero overwrite of a moving Waystation bank ends. -/
  | scrubComplete (bank : Nat)
  /-- RESIZE_DESTINATION_STEP (R59): At a destination slice boundary after scrub and clear, the resources join the destination (or become unassigned), STEP_NS is recomputed and RESULT becomes 0x01. -/
  | resizeDestinationStep
  /-- EPORT_ENABLE (R200): A write of EPORT_CTRL.ENABLE enables an engine port, which sends IDENT_REQ once ENGINES is set. -/
  | eportEnable (p k : Nat) (v : W64)
  /-- EPORT_RESET (R208): A write of EPORT_CTRL.RESET resets the port: dispatches using it are killed, its 16 credits return, EGEN increments and CLEAR is sent. -/
  | eportReset (p k : Nat) (v : W64)
  /-- END_NOW (R219): A write of PART_SLICE.END_NOW ends the running slice at once; it has no effect during a drain or when no slice runs. -/
  | endNow (p n : Nat) (v : W64)
  /-- LOOP_RESTART (R243): A write of RESTART in ADPT_CVY_CFG marks the placement-loop history for first use. -/
  | loopRestart (p n : Nat) (v : W64)
  /-- VF_FLR (R48): A function-level reset of a VF destroys every queue of the VF with status 0x16, resets its configurable registers and disarms its export slots. -/
  | vfFlr (vf : Nat)
  /-- PF_FLR_WRITE (R49): A write of Initiate FLR to a PF is ignored and counted in AUTH_DENIED. -/
  | pfFlrWrite (p : Nat)
  /-- HOST_LINK_LOSS (R68): Loss of link, or a hot reset, on host port p applies FLR handling to every enabled VF of PF p and destroys PF p's admin queues. -/
  | hostLinkLoss (p : Nat)
  /-- HOST_LINK_RETURN (R68): The link of host port p returns, and an Operator PF on that port uses its rights again. -/
  | hostLinkReturn (p : Nat)
  /-- DOORBELL (R83): A doorbell write checks the generation, the queue state and the occupancy, then moves TAIL, or drops the doorbell with a count and a notice. -/
  | doorbell (w : Window) (q : Nat) (v : W32)
  /-- RING_SLOT_CREDIT_DRAW (R246): The Doorbell Unit draws ring-slot credits for waiting slots, in index order, by deficit round-robin among VFs and admin participants. -/
  | ringSlotCreditDraw
  /-- DESCRIPTOR_FETCH (R85): The Descriptor Fetch Unit reads a credited submission into the shadow, advances HEAD and SEQ, checks it under R80, and admits a task or retires it as malformed. -/
  | descriptorFetch (data : List Byte)
  /-- SLOT_READ_RETRY (R85): 1 ms of candle time after an untranslatable slot read, or at a doorbell, the fetch of that slot is tried again. -/
  | slotReadRetry (f q : Nat)
  /-- QUEUE_CREATE (R76): The CREATE queue command checks the queue, allocates the shadow and a pool index, increments GEN and zeroes the indices. -/
  | queueCreate (w : Window) (q : Nat)
  /-- QUEUE_ENABLE (R76): The ENABLE queue command moves a CREATED or QUIESCED queue to ENABLED, so doorbells are accepted. -/
  | queueEnable (w : Window) (q : Nat)
  /-- QUEUE_QUIESCE (R76): The QUIESCE queue command moves the queue to QUIESCING and refuses further doorbells. -/
  | queueQuiesce (w : Window) (q : Nat)
  /-- QUEUE_DESTROY (R96): The DESTROY queue command moves the queue to DESTROYING, discards unfetched slots, kills uncommitted work with 0x16 and kills enqueued tasks. -/
  | queueDestroy (w : Window) (q : Nat)
  /-- QUEUE_QUIESCED (R76): A quiescing queue has no unretired entry left and every ring-slot credit free, so it becomes QUIESCED. -/
  | queueQuiesced (f q : Nat)
  /-- QUEUE_ABSENT (R96): A destroying queue has every credit free and its shadow released, so it becomes ABSENT and returns its pool index. -/
  | queueAbsent (f q : Nat)
  /-- Q_CPL_HEAD_WRITE (R91): A write to Q_CPL_HEAD frees completion-ring space, letting a waiting record write; an over-advance is discarded and counted. -/
  | qCplHeadWrite (w : Window) (q : Nat) (v : W64)
  /-- HELD_CLEAR (R95): Writing 1 to Q_UNDELIVERED_CTL.HELD empties the undelivered slot. -/
  | heldClear (w : Window) (q : Nat)
  /-- TASK_START (R98): A free route thread of the partition takes the oldest ADMITTED task of the running job, which moves the task to RUNNING. -/
  | taskStart (n thread : Nat)
  /-- TASK_PARK (R102): A thread stalled for 256 route steps on JOIN, COMMIT, YIELD or an occupied slot saves its 1 KiB context into task state and frees the thread. -/
  | taskPark (r : Nat)
  /-- TASK_RESUME (R102): A parked task whose condition a lantern has made true resumes with its context on the next free thread of its partition. -/
  | taskResume (r thread : Nat)
  /-- ADD (R139): Writes (a + b) mod 2^64 to s[RD]. -/
  | add (r : Nat)
  /-- SUB (R139): Writes (a - b) mod 2^64 to s[RD]. -/
  | sub (r : Nat)
  /-- MULLO (R139): Writes the low 64 bits of a x b to s[RD]. -/
  | mullo (r : Nat)
  /-- MULHU (R139): Writes the high 64 bits of the unsigned product a x b to s[RD]. -/
  | mulhu (r : Nat)
  /-- AND (R139): Writes the bitwise AND of a and b to s[RD]. -/
  | and (r : Nat)
  /-- OR (R139): Writes the bitwise OR of a and b to s[RD]. -/
  | or (r : Nat)
  /-- XOR (R139): Writes the bitwise XOR of a and b to s[RD]. -/
  | xor (r : Nat)
  /-- SHL (R139): Shifts a left by b[5:0] and writes the result to s[RD]. -/
  | shl (r : Nat)
  /-- SHR (R139): Shifts a right by b[5:0], filling with zeros, and writes the result to s[RD]. -/
  | shr (r : Nat)
  /-- SAR (R139): Shifts a right by b[5:0], filling with the sign bit, and writes the result to s[RD]. -/
  | sar (r : Nat)
  /-- MINU (R139): Writes the unsigned minimum of a and b to s[RD]. -/
  | minu (r : Nat)
  /-- MAXU (R139): Writes the unsigned maximum of a and b to s[RD]. -/
  | maxu (r : Nat)
  /-- MINS (R139): Writes the signed minimum of a and b to s[RD]. -/
  | mins (r : Nat)
  /-- MAXS (R139): Writes the signed maximum of a and b to s[RD]. -/
  | maxs (r : Nat)
  /-- SEL (R139): Writes a to s[RD] when p[PS] is 1, and b otherwise. -/
  | sel (r : Nat)
  /-- MOV (R139): Writes b, a register or a 64-bit immediate, to s[RD]. -/
  | mov (r : Nat)
  /-- CLZ (R139): Writes the number of leading zero bits of a to s[RD]. -/
  | clz (r : Nat)
  /-- POPC (R139): Writes the number of 1 bits in a to s[RD]. -/
  | popc (r : Nat)
  /-- CMP (R140): Evaluates a condition on a and b and writes, ANDs or ORs the result into predicate p[PD]. -/
  | cmp (r : Nat)
  /-- BR (R141): Tests a source value against COND and branches to TARGET when the test holds. -/
  | br (r : Nat)
  /-- BRP (R142): Branches to TARGET when p[PT] xor PNEG is 1. -/
  | brp (r : Nat)
  /-- LOOP (R143): Decrements a non-zero count register and branches back while the new count is not 0. -/
  | loop (r : Nat)
  /-- WAIT (R145): Checks a waypoint handle and occupies a slot; once started, it completes when the waypoint is at or beyond the target. -/
  | wait (r : Nat)
  /-- SIGNAL (R147): Checks a waypoint handle and stages a signal for release at COMMIT; in Verkai mode it applies the signal at start. -/
  | signal (r : Nat)
  /-- JOIN (R149): Stalls the thread until every operation named by MASK has completed. -/
  | join (r : Nat)
  /-- ENQUEUE (R151): Draws a ring-slot credit of a local queue, writes the result predicate and stages a task for release at COMMIT. -/
  | enqueue (r : Nat)
  /-- YIELD (R153): Waits on all slots, commits the segment without a completion record, saves the context and admits a continuation segment. -/
  | yield (r : Nat)
  /-- COMMIT (R112): Waits on all slots, moves the record to COMMITTING, and releases publishes, remote transfers, windows, signals, enqueues and the completion record in order. -/
  | commit (r : Nat)
  /-- ABORT (R114): Waits on all slots, discards drafts and staged effects, returns the task's credits and retires the task with status 0x00. -/
  | abort (r : Nat)
  /-- DISPATCH (R170): Issues a step stream to the partition's sequencer, alone or as a convoy member, after the issue checks. -/
  | dispatch (r : Nat)
  /-- COPY (R173): Issues an MTU copy between objects, or to a remote window through an import entry. -/
  | copy (r : Nat)
  /-- FILL (R173): Issues an MTU fill of a destination range with a repeated pattern. -/
  | fill (r : Nat)
  /-- GATHER (R175): Issues an MTU gather of indexed key/value pages into a contiguous buffer, optionally expanding ZK6 pages. -/
  | gather (r : Nat)
  /-- CONVERT (R257): An XFORM that converts elements between formats with one rounding under RND. -/
  | convert (r : Nat)
  /-- KV_COMPRESS (R266): An XFORM that compresses key/value rows into ZK6 pages. -/
  | kvCompress (r : Nat)
  /-- KV_EXPAND (R267): An XFORM that decodes ZK6 pages into binary32, binary16 or bfloat16. -/
  | kvExpand (r : Nat)
  /-- DECRYPT (R274): An XFORM that decrypts with AES-256-GCM using a key slot, and fails with 0x17 on a tag mismatch. -/
  | decrypt (r : Nat)
  /-- FOLD (R277): An XFORM that computes the 64-bit checksum fold of its source and posts it. -/
  | fold (r : Nat)
  /-- SAMPLE (R181): Issues a token selection from logits through a Sampling Unit. -/
  | sample (r : Nat)
  /-- PUBLISH (R182): Stages publication of the drafts in a range, and ages a key/value slot when a new slot is created. -/
  | publish (r : Nat)
  /-- PIN (R183): Holds a range resident in the partition's Waystation banks with its translations cached, and posts whether it succeeded. -/
  | pin (r : Nat)
  /-- UNPIN (R183): A PIN with UNPIN set removes this VF's pin on exactly the range named. -/
  | unpin (r : Nat)
  /-- OPENWIN (R185): Posts a window handle with the next GEN and stages the opening of a peer window onto an object. -/
  | openwin (r : Nat)
  /-- CLOSEWIN (R185): Stages the closing of a window whose GEN matches the handle. -/
  | closewin (r : Nat)
  /-- OPERATION_START (R107): An operation whose mask has become satisfied starts: it draws its MTU credit and object reference, runs its start checks, and completes at once for a zero length. -/
  | operationStart (r slot : Nat)
  /-- MTU_OPERATION_COMPLETE (R168): An MTU operation finishes its last write, so it returns its credit, posts any result, frees its slot and satisfies dependent masks. -/
  | mtuOperationComplete (id slot : Nat)
  /-- SAMPLING_UNIT_TAKE (R279): A free Sampling Unit takes the next waiting SAMPLE of its two MTUs by round-robin. -/
  | samplingUnitTake (k : Nat)
  /-- SAMPLE_COMPLETE (R292): A SAMPLE finishes its draw, posts the result word, drafts the history entry and completes. -/
  | sampleComplete (k : Nat)
  /-- VERKAI_SUSPEND (R130): A Verkai-mode task reaches a tile boundary after a slice boundary and saves its context. -/
  | verkaiSuspend (r : Nat)
  /-- CONTINUATION_ADMIT (R123): After a YIELD, task-state space is free, so the context is saved and a continuation segment is admitted. -/
  | continuationAdmit (r : Nat)
  /-- RECORD_RELEASE (R17): Once every credit of a killed or retired task has returned, the record becomes EMPTY, and a rerun is admitted where one is due. -/
  | recordRelease (r : Nat)
  /-- TASK_RETIRE (R112): The data plane has carried out every released effect of a commit, so the record moves to RETIRED. -/
  | taskRetire (r : Nat)
  /-- SUBMISSION_RETIRE (R87): A finished submission, with all earlier ones retired, writes or holds its completion record, advances Q_MILESTONE, returns its credits and may signal MSI-X. -/
  | submissionRetire (f q : Nat)
  /-- RETIRING_STORAGE_RELEASE (R309): Retiring storage that no operation or draft still reads is returned. -/
  | retiringStorageRelease (i : Nat)
  /-- BUNDLE_FETCH (R192): The sequencer reads the next bundle through its MTU and checks it under R192 before it may be offered. -/
  | bundleFetch (n : Nat)
  /-- BUNDLE_OFFER (R195): A fetched bundle is offered to a port that has a free engine-port credit, which draws that credit. -/
  | bundleOffer (n port : Nat)
  /-- ACCEPT (R198): An engine reports that every unit of the port has begun a bundle's last repetition, so one credit returns and the step is counted. -/
  | accept (k : Nat) (t : Tag) (v : W64)
  /-- POST (R203): An engine unit posts a summary, which is combined into the dispatch's accumulator. -/
  | post (k : Nat) (t : Tag) (unit index : Nat) (v : W64)
  /-- WDONE (R204): A port reports that every engine write of the dispatch has been acknowledged. -/
  | wdone (k : Nat) (t : Tag)
  /-- FAULT (R202): An engine reports a fault from an active lane, which ends the dispatching task, or every member of the convoy, with 0x11. -/
  | fault (k : Nat) (t : Tag) (unit : Nat) (v : W64)
  /-- ABANDON_ACK (R195): A port reports how many bundles it discarded after ABANDON, and that many credits return. -/
  | abandonAck (k : Nat) (t : Tag) (v : W64)
  /-- CLEAR_DONE (R207): A port reports that CLEAR is complete, so it may offer credits again. -/
  | clearDone (k : Nat) (t : Tag)
  /-- IDENT (R200): A port reports its engine class, step time and write-drain time, which are recorded in EPORT_IDENT and make the port usable. -/
  | ident (k : Nat) (t : Tag) (units : Nat) (v : W64)
  /-- CONVOY_MEMBER_JOIN (R231): A CVY dispatch takes a free member slot and copies its engine constant buffer into the convoy buffer. -/
  | convoyMemberJoin (r slot : Nat)
  /-- CONVOY_HOLD_EXPIRY (R233): HOLD_NS of candle time has passed since the first waiting member joined, with no convoy running. -/
  | convoyHoldExpiry (n : Nat)
  /-- CONVOY_ASSEMBLE (R233): The Convoy Builder builds the next convoy table from waiting members and hands the convoy to the step sequencer. -/
  | convoyAssemble (n : Nat)
  /-- SLICE_BEGIN (R218): With no slice running and a job ready, the Scheduler chooses the next job and starts its slice timer. -/
  | sliceBegin (n : Nat)
  /-- SLICE_TIMER_EXPIRY (R219): The slice's candle timer expires, which ends the slice. -/
  | sliceTimerExpiry (n : Nat)
  /-- DRAIN_COMPLETE (R228): The job holds no credits and every WDONE has arrived, so the convoy buffer is released and boundary events run in order. -/
  | drainComplete (n : Nat)
  /-- OBJ_CREATE (R315): The admin command assigns an object number, reserves an extent run and allocates and zeroes INIT_PG pages. -/
  | objCreate (r : Nat)
  /-- OBJ_FREE (R311): The admin command moves an object to CLOSING and closes its windows. -/
  | objFree (r : Nat)
  /-- EXT_SET (R316): The admin command adds host extents to a HOST object, all or none. -/
  | extSet (r : Nat)
  /-- EXT_CLEAR (R316): The admin command removes the host extents that lie wholly within a range. -/
  | extClear (r : Nat)
  /-- EXT_READ (R314): The admin command writes an object's extent records to host memory. -/
  | extRead (r : Nat)
  /-- OBJ_QUERY (R314): The admin command writes a 32-byte description of an object. -/
  | objQuery (r : Nat)
  /-- IMPORT_SET (R326): The admin command sets a window import entry naming a peer window handle. -/
  | importSet (r : Nat)
  /-- IMPORT_CLEAR (R326): The admin command clears a window import entry. -/
  | importClear (r : Nat)
  /-- WP_CREATE (R339): The admin command creates a waypoint with scopes and an initial value, and returns its handle. -/
  | wpCreate (r : Nat)
  /-- WP_FREE (R339): The admin command frees a waypoint, fails its outstanding WAITs with 0x18 and disarms its export slots. -/
  | wpFree (r : Nat)
  /-- WP_EXPORT (R345): The admin command binds a waypoint handle and vector to a function's export slot, or empties the slot. -/
  | wpExport (r : Nat)
  /-- WP_IMPORT_SET (R347): The admin command sets or clears a waypoint import entry for signals to a peer. -/
  | wpImportSet (r : Nat)
  /-- ATS_INVALIDATION (R319): An ATS Invalidation Request invalidates matching cached translations and sends Invalidation Completion. -/
  | atsInvalidation (p f : Nat) (pasid : Option Nat) (page pages : Nat)
  /-- PRI_RESPONSE (R320): A Page Request Group Response either retries the translation or fails the access with 0x12, and Response Failure locks out the PF's page requests. -/
  | priResponse (p i : Nat) (code : PriCode)
  /-- PRI_TIMEOUT (R320): No page response arrives within 1 ms of candle time, so the access fails with 0x12. -/
  | priTimeout (p i : Nat)
  /-- PRI_ENABLE_TOGGLE (R320): Clearing and then setting PRI Enable of a PF ends its Response Failure lockout. -/
  | priEnableToggle (p : Nat)
  /-- HOST_COMPLETION (R373): A completion arrives at a host port and is matched by PCIe tag; data for a killed task is discarded, and UR or CA ends the task with 0x12. -/
  | hostCompletion (p tag : Nat) (c : HostCpl)
  /-- PEER_WINDOW_WRITE (R324): A peer write message to an open window goes in place into the object, or is refused and counted. -/
  | peerWindowWrite (handle : W64) (off : Nat) (data : List Byte)
  /-- PEER_WINDOW_READ (R324): A peer read message returns published bytes, or is answered with 0x18. -/
  | peerWindowRead (handle : W64) (off len : Nat)
  /-- PEER_SIGNAL (R347): A peer signal message is applied to a LIVE PEER_SIGNAL waypoint, or refused. -/
  | peerSignal (handle v : W64)
  /-- WP_SIGNAL (R346): An 8-byte write to an export slot's WP_SIGNAL signals its waypoint, subject to VALID and SIG_SCOPE. -/
  | wpSignal (w : Window) (k : Nat) (v : W64)
  /-- WP_ARM (R349): A write to WP_ARM arms the slot's lantern with a target, and fires at once if the target is already reached. -/
  | wpArm (w : Window) (k : Nat) (v : W64)
  /-- WAYPOINT_SIGNAL_APPLY (R341): The Waypoint Store applies a signal in one grant, keeping the serial maximum or counting it as refused or stale. -/
  | waypointSignalApply
  /-- COMMAND_TIMEOUT (R360): A task's command timer expires, so a kill is requested and an uncommitted task fails with 0x10. -/
  | commandTimeout (r : Nat)
  /-- CHANNEL_FAULT (R362): A corrected, uncorrectable or dual-rail error or a poisoned host completion on a channel is counted and stamped, and is corrected or detoured. `unseen` are the channel's handshakes since the last command that counted one, where no command shows them. -/
  | channelFault (kind i unseen : Nat) (what : FaultWhat) (x : Transfer)
  /-- HANDSHAKE_TIMEOUT (R361): A channel's acknowledge or reply has not come within its handshake timeout, which counts as a fault. -/
  | handshakeTimeout (kind i unseen : Nat) (x : Transfer)
  /-- DETOUR_REISSUE (R362): Once the channel is idle, a failed transfer is re-issued, up to 3 times, and after exhaustion is handled under R363. -/
  | detourReissue (kind i unseen : Nat) (ok : Bool)
  /-- BANK_EVACUATION_DONE (R366): Evacuation of a retiring bank ends, so its credits move to retired. -/
  | bankEvacuationDone (bank : Nat)
  /-- DRAIN_TIMEOUT (R369): A drain has not ended 1 ms after its slice ended, so a 0x10 record is posted and an automatic partition reset starts. -/
  | drainTimeout (n : Nat)
  /-- RESET_GO (R369): A write of GO in RST_CTRL starts a partition or whole-VAI compute reset, or is refused with RESULT 0x02 or 0x03. -/
  | resetGo (p : Nat) (v : W64)
  /-- RESET_AUTO_START (R369): The recovery controller starts a waiting automatic partition reset once no other reset runs. -/
  | resetAutoStart
  /-- RESET_KILL_PHASE (R370): After any dump, the reset ends the slice and kills running tasks of the domain for rerun. -/
  | resetKillPhase
  /-- RESET_CLEAR_PHASE (R370): After commits, dispatches and operations drain, PGEN and EGEN increment, credits return, CLEAR is sent and threads reinitialise. -/
  | resetClearPhase
  /-- RESET_RESTART_PHASE (R370): After the CLEAR_DONEs arrive, reruns are admitted and the reset ends as a slice boundary. -/
  | resetRestartPhase
  /-- DUMP_GO (R377): A write of GO in DUMP_CTRL starts a partition or whole-VAI dump, or ends at once with RESULT 4. -/
  | dumpGo (p : Nat) (v : W64)
  /-- DUMP_FIELD_READ (R374): The lamplighter path reads one field and writes a valid record. -/
  | dumpFieldRead (scan : W64)
  /-- DUMP_FIELD_WAIT_EXPIRY (R374): A field is still not valid after WAIT, so it is recorded as withheld. -/
  | dumpFieldWaitExpiry
  /-- TAP_READ (R429): A read through the test access port reads state through the lamplighter path; the first such read sets DEBUG_READ. -/
  | tapRead (sec index field : Nat)
  /-- MBX_GO (R406): A write of GO in MBX_CTRL captures the request words, sets REQ_FULL and wakes the receiver, or is refused. -/
  | mbxGo (w : Window) (c : Nat) (v : W64)
  /-- MBX_RSP_STATUS_READ (R407): The requester's read of MBX_RSP_STATUS clears RSP_FULL and the count fields. -/
  | mbxRspStatusRead (w : Window) (c : Nat)
  /-- MBX_RCV_STATUS_READ (R407): The receiver's read of its status register clears REQ_FULL. -/
  | mbxRcvStatusRead (c : Nat)
  /-- MBX_RCV_GO (R449): The root of trust's GO on a receiver view copies its response into MBX_RSP, sets RSP_FULL and raises a lantern. -/
  | mbxRcvGo (c : Nat) (v : W64)
  /-- MAILBOX_POWER_DOWN (R408): A receiver domain with both buffers empty for 100 us of candle time powers down. -/
  | mailboxPowerDown (c : Nat)
  /-- DESIGNATE (R411): The secure command designates or moves the Operator PF, and is denied when the fuse is programmed. -/
  | designate (c : Nat)
  /-- FW_LOAD (R411): The secure command copies a firmware component into a bank and returns its SHA-384 digest. -/
  | fwLoad (c : Nat)
  /-- FW_ARM (R424): The secure command activates a bank and sets FW_READY, or starts a firmware transition. -/
  | fwArm (c : Nat)
  /-- KEY_LOAD (R411): The secure command loads a key slot with a class and partition. -/
  | keyLoad (c : Nat)
  /-- KEY_CLEAR (R415): The secure command withdraws a key slot. -/
  | keyClear (c : Nat)
  /-- SET_MODE (R413): The secure command enters TEST or RECOVERY mode and withdraws SET-class slots. -/
  | setMode (c : Nat)
  /-- FRAGMENT (R417): A piece of an SPDM request or response is relayed between the root of trust and a PF's DOE instance. -/
  | fragment (c : Nat)
  /-- FW_STAGE (R423): The non-secure command verifies an update package and stages it in the inactive bank. -/
  | fwStage (c : Nat) (a : StageAnswer)
  /-- FW_ACTIVATE (R424): The non-secure command starts the firmware transition, switching idle partitions at once. -/
  | fwActivate (c : Nat)
  /-- FW_DISCARD (R411): The non-secure command discards the staged firmware. -/
  | fwDiscard (c : Nat)
  /-- KEY_RELEASE (R415): The non-secure command loads a device-set key into a slot with CLASS SET. -/
  | keyRelease (c : Nat) (key : Option KeyBits)
  /-- KEY_IMPORT (R421): The non-secure command checks and unwraps an attestation-bound key blob into a slot with CLASS ATTESTED, destroying the ephemeral key. -/
  | keyImport (c : Nat) (z : BitVec 384)
  /-- KEY_WITHDRAW (R415): The non-secure command withdraws a key slot. -/
  | keyWithdraw (c : Nat)
  /-- DOE_GO (R417): The host sets DOE Go on a request object; Discovery is answered, and SPDM requests set DOE_PEND and interrupt the root of trust. -/
  | doeGo (p : Nat) (kind : DoeKind) (data : List Byte)
  /-- DOE_ABORT (R417): The host's DOE Abort empties both objects and clears DOE_PEND. -/
  | doeAbort (p : Nat)
  /-- CNT_CFG_WRITE (R434): A write to CNT_CFG changes a counter's mode, threshold and filter in one grant, or is refused for a bad mode. -/
  | cntCfgWrite (p e : Nat) (v : W64)
  /-- COUNTER_SAMPLE_POINT (R432): Every 16 ns of candle time, each TIME-class level counter adds its level or threshold count. -/
  | counterSamplePoint
  /-- ENGINE_MEMORY_REQUEST (R298): An engine read or write of a memory object arrives at the ATU, which checks its rights and context, draws the task's reference, drafts writes and may end the task with 0x18 or the convoy members with 0x11. -/
  | engineMemoryRequest (k : Nat) (t : Tag) (entry : Option Nat) (kind : MemKind) (oref : W64) (len : Nat) (data : List Byte)
  /-- FORWARD_MESSAGE_LATCH (R198): The engine acknowledges a forward message on an engine port, completing its four-phase transfer so that the next forward message may be offered and any detour on it ends. -/
  | forwardMessageLatch (k : Nat)
  /-- REGISTER_READ (R9): A read of a register with read behaviour of its own, such as an RC field that clears on read or a refused read counted in AUTH_DENIED or REFUSED, returns its value and applies that effect. -/
  | registerRead (t : Target)
  deriving DecidableEq, Repr

end Sys2Proof
end

