-- ==== Sys2Proof/Decode.lean ====
section
/-! DEFINITION. The reading of a word as a command. The opcode table gives no row any bits: a command reaches the
block as a register access, a message or an event, never as a word, so no word spells one. -/

namespace Sys2Proof

/-- The command that a word of `nbits` bits spells by the opcode table: none, for the table gives no row bits. -/
def decodeTableWord (_nbits _w : Nat) : Option Instr := none

end Sys2Proof
end

