-- ==== Sys2Proof/Machine/Tab.lean ====
section
/-! DEFINITION. Sparse tables: a list of (index, entry) pairs in one canonical form, indices strictly rising and no
entry equal to the table's default, so that equal tables are equal data. -/

namespace Sys2Proof.Machine

/-- A sparse table keyed by Nat. -/
abbrev Tab (α : Type) := List (Nat × α)

/-- The entry at `k`, if one is listed. -/
def Tab.find? {α : Type} : Tab α → Nat → Option α
  | [], _ => none
  | (i, a) :: t, k => if i = k then some a else Tab.find? t k

/-- The entry at `k`, the default `d` where none is listed. -/
def Tab.get {α : Type} (d : α) (t : Tab α) (k : Nat) : α := (Tab.find? t k).getD d

/-- The table without an entry at `k`. -/
def Tab.erase {α : Type} : Tab α → Nat → Tab α
  | [], _ => []
  | (i, a) :: t, k => if i = k then Tab.erase t k else (i, a) :: Tab.erase t k

/-- Insert an entry before the first one of a higher index. -/
def Tab.insert {α : Type} : Tab α → Nat → α → Tab α
  | [], k, v => [(k, v)]
  | (i, a) :: t, k, v => if i < k then (i, a) :: Tab.insert t k v else (k, v) :: (i, a) :: t

/-- The table with the entry `v` at `k`. -/
def Tab.put {α : Type} (t : Tab α) (k : Nat) (v : α) : Tab α := Tab.insert (Tab.erase t k) k v

/-- The table whose entry at `k` is `v`, in canonical form: an entry equal to the default is not listed. -/
def Tab.set {α : Type} [DecidableEq α] (d : α) (t : Tab α) (k : Nat) (v : α) : Tab α :=
  if v = d then Tab.erase t k else Tab.put t k v

/-- Canonical form, as a Bool: indices strictly rising and no default entry. -/
def Tab.wfFrom {α : Type} [DecidableEq α] (d : α) : Nat → Tab α → Bool
  | _, [] => true
  | lo, (i, a) :: t => decide (lo ≤ i) && decide (a ≠ d) && Tab.wfFrom d (i + 1) t

/-- Canonical form. -/
def Tab.wf {α : Type} [DecidableEq α] (d : α) (t : Tab α) : Bool := Tab.wfFrom d 0 t

end Sys2Proof.Machine
end

