-- ==== Sys2Proof/Machine/Mem.lean ====
section
/-! DEFINITION. Addressed storage (09_transform_arithmetic.md R250, 14 R381): bytes in canonical form, the pages known
to be zero, and the 32-byte words that carry a poison mark. -/

namespace Sys2Proof.Machine

/-- Storage: `cells` holds the listed bytes with addresses strictly rising; an unlisted byte of a page in `zero`
reads as zero and any other unlisted byte reads as the storage's own default; `bad` lists the 32-byte words marked
poisoned (13 R362, R366). The three check symbols of each word stand with it (R250; 01 R34, R35): a write codes its word
afresh, so they are the code of its bytes, but for the symbols that `upset` lists. Key 35 w + k of `upset` is symbol k of
word w's codeword (check symbols 0 to 2, then the data), and its byte is what storage holds there too much. -/
structure Mem where
  cells : List Host.Cell
  zero  : List Nat
  bad   : List Nat
  upset : List (Nat × Byte) := []
  deriving DecidableEq, Repr

/-- Storage in which nothing is listed. -/
def Mem.empty : Mem := { cells := [], zero := [], bad := [] }

/-- What an unlisted byte at `a` reads as: zero in a page known to be zero, else the default `d` of the storage
(`none` for the Waystation, whose storage reads as poison until it is written, 14 R381). -/
def Mem.unlisted (d : Option Byte) (m : Mem) (a : Nat) : Option Byte :=
  if m.zero.contains (a / 4096) then some 0 else d

/-- The byte at `a`; `none` is a byte with a poison mark (14 R381, 13 R362). -/
def Mem.read (d : Option Byte) (m : Mem) (a : Nat) : Option Byte :=
  if m.bad.contains (a / 32) then none else
    match Tab.find? m.cells a with
    | some b => some b
    | none => m.unlisted d a

/-- Write one byte; a byte equal to what the unlisted address reads as is not listed. -/
def Mem.write (d : Option Byte) (m : Mem) (a : Nat) (b : Byte) : Mem :=
  { m with cells := if m.unlisted d a = some b then Tab.erase m.cells a else Tab.put m.cells a b
           bad := m.bad.filter (fun w => w != a / 32)
           upset := m.upset.filter (fun e => e.1 / 35 != a / 32) }

/-- The `n` bytes from `a` upward. -/
def Mem.readBytes (d : Option Byte) (m : Mem) (a n : Nat) : List (Option Byte) :=
  (List.range n).map fun i => m.read d (a + i)

/-- Write a list of bytes from `a` upward. -/
def Mem.writeBytes (d : Option Byte) (m : Mem) (a : Nat) : List Byte → Mem
  | [] => m
  | b :: bs => Mem.writeBytes d (m.write d a b) (a + 1) bs

/-- Insert a number into a rising list. -/
def insertRising : List Nat → Nat → List Nat
  | [], k => [k]
  | i :: t, k => if i < k then i :: insertRising t k else if i = k then i :: t else k :: i :: t

/-- Make page `p` (4 KiB) zero, as allocation and the scrub do (11 R305, 02 R60). -/
def Mem.zeroPage (d : Option Byte) (m : Mem) (p : Nat) : Mem :=
  { cells := m.cells.filter (fun c => c.1 / 4096 != p)
    zero := if d = some 0 then m.zero else insertRising m.zero p
    bad := m.bad.filter (fun w => w / 128 != p)
    upset := m.upset.filter (fun e => e.1 / 35 / 128 != p) }

/-- Make the pages of a list zero. -/
def Mem.zeroPages (d : Option Byte) (m : Mem) : List Nat → Mem
  | [] => m
  | p :: ps => Mem.zeroPages d (m.zeroPage d p) ps

/-- Mark the 32-byte word `w` as poisoned. -/
def Mem.poison (m : Mem) (w : Nat) : Mem := { m with bad := insertRising m.bad w }

/-- The codeword that storage holds for word `w`: its bytes coded, and the symbols that have been upset. -/
def Mem.codeword (d : Option Byte) (m : Mem) (w : Nat) : Codeword :=
  (pcEncode ((m.readBytes d (32 * w) 32).map fun b => b.getD 0)).upset
    ((m.upset.filter fun e => e.1 / 35 == w).map fun e => (e.1 % 35, e.2))

/-- Upset symbols of the codeword of word `w`. -/
def Mem.strike (m : Mem) (w : Nat) (l : List (Nat × Byte)) : Mem :=
  { m with upset := l.foldl (fun u e => Tab.set 0 u (35 * w + e.1) (Tab.get 0 u (35 * w + e.1) ^^^ e.2)) m.upset }

/-- The upset symbols of word `w` are no more. -/
def Mem.settle (m : Mem) (w : Nat) : Mem := { m with upset := m.upset.filter fun e => e.1 / 35 != w }

/-- Word `w` is written again as its check left it (13 R362): a word that carries a poison mark, or that nothing has
written, keeps what it reads as. -/
def Mem.mend (d : Option Byte) (m : Mem) (w : Nat) (data : List Byte) : Mem :=
  let m := m.settle w
  if (m.readBytes d (32 * w) 32).all Option.isSome then m.writeBytes d (32 * w) data else m

/-- Copy `n` bytes inside the storage; a poisoned byte is copied with its mark. -/
def Mem.copyByte (d : Option Byte) (m : Mem) (src dst : Nat) : Mem :=
  match m.read d src with
  | some b => m.write d dst b
  | none => m.poison (dst / 32)

/-- Rising addresses, as a Bool. -/
def Mem.rising : List Host.Cell → Bool
  | [] => true
  | [_] => true
  | (a, _) :: (b, y) :: t => decide (a < b) && Mem.rising ((b, y) :: t)

/-- The canonical form: addresses strictly rising and no byte equal to what its unlisted address reads as. -/
def Mem.wf (d : Option Byte) (m : Mem) : Bool :=
  Mem.rising m.cells && m.cells.all fun c => decide (m.unlisted d c.1 ≠ some c.2)

end Sys2Proof.Machine
end

