-- ==== Sys2Proof/Machine/State.lean ====
section
/-! DEFINITION. The state of the VAI as plain data: every register, queue, record, counter and mode the manual gives
the block, and the queue of the commands that wait. Every structure's default field values are its reset values;
rules are cited per field as file number and rule. A value of another kind than the manual's is named in the
assumption log. -/

namespace Sys2Proof.Machine

/-! ### Functions: VFs and PFs (02, 03, 12, 15) -/

/-- One MSI-X vector (03 R92): masked at reset, as PCIe specifies. -/
structure Vec where
  addr : W64 := 0
  data : W32 := 0
  masked : Bool := true
  deriving DecidableEq, Repr

/-- An export slot of a waypoint window (12 R345, R352). -/
structure Slot where
  handle : W64 := 0
  vector : Nat := 0
  armed : Bool := false
  target : W64 := 0
  deriving DecidableEq, Repr

/-- A peer window of a VF (06 R184, R185; 11 R324). `opener` is the local queue whose task opened it last. -/
structure Win where
  isOpen : Bool := false
  gen : Nat := 0
  obj : Nat := 0
  off : Nat := 0
  len : Nat := 0
  acc : Nat := 0
  opener : Option Nat := none
  deriving DecidableEq, Repr

/-- The DOE instance of a PF (15 R417): request object, pieces collected, response object. -/
structure Doe where
  req : List Byte := []
  sent : Nat := 0
  pending : Bool := false
  rsp : List Byte := []
  ready : Bool := false
  error : Bool := false
  aborted : Bool := false
  deriving DecidableEq, Repr

/-- A function. VF n has key n, PF p has key 1024 + p. Fields that only one kind has stay at reset in the other. -/
structure Func where
  bind : W64 := 0            -- VF_BIND 02 R43
  bindGen : Nat := 0         -- VF_GEN 03 R73
  range : W32 := 0           -- VF_RANGE 02 R43
  vfEnable : Bool := false   -- SR-IOV VF Enable 02 R44
  numVfs : Nat := 0          -- SR-IOV NumVFs 02 R44
  bar0 : W64 := 0            -- base of a PF's BAR0 17 R445
  vfBar0 : W64 := 0          -- base of the VF BAR0 of a PF's SR-IOV capability 17 R445
  atsEn : Bool := false      -- ATS Enable 11 R317
  priEn : Bool := false      -- PRI Enable 11 R320
  priAlloc : Nat := 0        -- Outstanding Page Request Allocation 11 R320
  lockout : Bool := false    -- Response Failure lockout 11 R320
  linkUp : Bool := true      -- 02 R38, R68
  cfgResult : W32 := 0       -- CFG_RESULT 02 R41
  authDenied : Nat := 0      -- AUTH_DENIED 02 R40
  cmdResult : Nat := 0       -- CMD_RESULT 03 R73
  errSum : W64 := 0          -- VF_ERR_SUMMARY, ADMQ_ERR_SUMMARY 03 R73
  winDrop : Nat := 0         -- VF_WIN_DROP 11 R327
  wpRefused : Nat := 0       -- VF_WP_DROP.REFUSED 12 R352
  wpStale : Nat := 0         -- VF_WP_DROP.STALE 12 R352
  msix : Tab Vec := []       -- MSI-X table 03 R92
  pend : W64 := 0            -- pending bits 03 R92
  slots : Tab Slot := []     -- export slots 12 R345
  cnt : Tab Nat := []        -- VF_CNT 16 R436
  wins : Tab Win := []       -- peer windows 06 R184
  doe : Doe := {}            -- 15 R417
  eph : Option Nat := none   -- REPORT_GEN at which the PF's ephemeral key was issued 15 R421
  deriving DecidableEq, Repr

/-! ### Queues (03) -/

/-- Queue states with the codes of Q_STATE.STATE (03 R73). -/
inductive QSt where
  | absent | created | enabled | quiescing | quiesced | destroying
  deriving DecidableEq, Repr

/-- How a submission ended: its status, SUMMARY, NO_TASK, whether it gets no record, and whether its task had committed
(03 R96). -/
structure Fin' where
  status : Nat
  summary : W64
  noTask : Bool
  silent : Bool
  committed : Bool
  deriving DecidableEq, Repr

/-- A fetched submission that has not retired (03 R87). -/
structure Sub where
  ord : Nat
  seq : Nat
  slots : Nat
  irq : Bool
  tid : Nat
  fin : Option Fin'
  deriving DecidableEq, Repr

/-- A record due to be written, in retirement order (03 R90): the head host submission's, or an ENQUEUED record, which
holds its task's ring-slot credit when the task has retired (03 R91). -/
inductive Due where
  | host
  | enq (seq tid status : Nat) (summary : W64) (credit : Bool)
  deriving DecidableEq, Repr

/-- A queue: registers, ring, records due (03 R73, R76; 08 R216; 09 R269; 13 R358). -/
structure Queue where
  base : W64 := 0
  size : W32 := 0
  cplBase : W64 := 0
  cfg : W64 := 0
  job : W32 := 0
  kvage : W32 := 0
  timeout : W32 := 0x000F4240#32
  st : QSt := .absent
  head : Nat := 0
  tail : Nat := 0
  gen : Nat := 0
  pool : Nat := 0
  cplHead : Nat := 0
  stale : Nat := 0
  refused : Nat := 0
  held : Bool := false
  heldRec : List Byte := []
  lost : Nat := 0
  milestone : Nat := 0
  c : Nat := 0               -- completion index 03 R90
  expSeq : Nat := 0          -- 03 R81
  credHeld : Nat := 0        -- ring-slot credits held 01 R19
  credited : Nat := 0        -- slots from HEAD that hold a credit 03 R84
  nextOrd : Nat := 0
  subs : List Sub := []
  due : List Due := []
  shadow : List Nat := []    -- allocation units of the shadow 03 R71
  unreadable : Bool := false -- slot whose read got no translation 03 R85
  mtu : Option Nat := none   -- MTU whose credit the fetch under way holds 01 R19
  needs : Nat := 0           -- slots that the submission at HEAD is known to take, 0 before its first slot is read 03 R85
  flr : Bool := false        -- its registers return to their reset values when it becomes ABSENT 02 R48
  poisoned : Bool := false   -- 13 R368
  deriving DecidableEq, Repr

/-! ### The Task Table and route threads (01, 04, 05, 06) -/

/-- Record states (01 R16). -/
inductive RecSt where
  | empty | admitted | running | committing | retired | killed
  deriving DecidableEq, Repr

/-- Jobs (08 R215): a plain job of one submission, or the serving job (VF, GROUP). -/
inductive Job where
  | plain (qk gen ord : Nat)
  | serving (vf group : Nat)
  deriving DecidableEq, Repr

/-- What runs under a record: a host submission's segment, an enqueued task's segment, an admin list (04, 11 R312). -/
inductive TaskKind where
  | host | enq | admin
  deriving DecidableEq, Repr

/-- Scalar state and PC of a task (04 R103). p7 is read as 1 by the accessor. -/
structure Ctx where
  s : Tab W64 := []
  p : Byte := 0
  u : Tab W64 := []
  pc : Nat := 0
  deriving DecidableEq, Repr

/-- A page of device storage: page p of the Waystation (address p x 4096) or of package memory. -/
inductive PageRef where
  | ws (p : Nat)
  | pkg (p : Nat)
  deriving DecidableEq, Repr

/-- A translation space: host port, function, PASID or none. -/
structure Space where
  port : Nat
  fk : Nat
  pasid : Option Nat
  deriving DecidableEq, Repr

/-- Where a byte lives: Waystation, this device's package memory, a host's memory, a peer device, or nowhere. -/
inductive Loc where
  | ws (a : Nat)
  | pkg (a : Nat)
  | host (port a : Nat)
  | peer (port dev a : Nat)
  | refused
  deriving DecidableEq, Repr

/-- What backs a byte of an object for a reader. -/
inductive Backing where
  | zero
  | loc (l : Loc)
  | host (sp : Space) (a : Nat)
  | hole
  deriving DecidableEq, Repr

/-- Why a thread stands still (04 R102, R105; 16 R440 STALL codes). -/
inductive Stall where
  | none | slot | summary | join | fetch | parked
  deriving DecidableEq, Repr

/-- A transform descriptor, decoded (06 R176). -/
structure Xf where
  op : Nat
  src : Nat
  dst : Nat
  rnd : Nat
  glog2 : Nat
  key : Nat
  seed : W32
  deriving DecidableEq, Repr

/-- Operations with the operands captured at issue (04 R104; 05, 06). Object references are 64-bit OREFs (06 R157). -/
inductive OpKind where
  | wait (h v : W64)
  | signal (h v : W64)
  | enqueue (q pa len : Nat) (cbp : Option Nat) (cb : List W64) (drawn : Bool)
  | dispatch (ss : W64) (scb : Option W64) (ubase ucnt : Nat) (cvy : Bool) (tokens : Nat)
  | copy (d s : W64) (len : Nat) (vol : Bool)
  | fill (d pat : W64) (len psz : Nat)
  | gather (d b x : W64) (n plog : Nat) (vol : Bool) (xf : Option Xf)
  | xform (d s : W64) (n : Nat) (xf : Xf) (aux : Option W64) (post : Option Nat) (vol : Bool)
  | sample (l prm hist key pos : W64) (v udst lfmt : Nat)
  | publish (o : W64) (len : Nat)
  | pin (o : W64) (len : Nat) (unpin : Bool) (post : Option Nat)
  | openwin (o : W64) (len win acc udst : Nat)
  | closewin (h : W64)
  deriving DecidableEq, Repr

/-- Phases of an operation in the window (04 R106, R107): its mask is open; its mask is satisfied and it waits to
start; it runs; it waits for room in the convoy buffer; it is a convoy member; the task was killed and it drains. -/
inductive OpPhase where
  | open | ready | running | joining | member | drain
  deriving DecidableEq, Repr

/-- An operation in its slot. `iss` is its issue number, `ord` the stamp at which its mask was satisfied, `mtu` the
MTU whose credit it holds, `began` its start stamp, `taken` that a Sampling Unit works on it, `cap` the contents that
it read at its start (06 R159), `key` the key that a DECRYPT loaded (09 R275). Of its 64 KiB tiles (11 R317) `pos` are
transferred, `res` holds what the next ones resolved to, page by page with lengths (R316, R318), `data` the bytes read so
far, `got` the host ranges read for the tile under way (12 R330). `pages` is the draft space of a remote COPY (06 R174),
`aged` the slots that a PUBLISH ages (09 R271). -/
structure Op where
  kind : OpKind
  deps : W64
  phase : OpPhase
  iss : Nat
  ord : Nat := 0
  mtu : Option Nat := none
  began : Nat := 0
  taken : Bool := false
  cap : List Byte := []
  key : KeyBits := 0
  pos : Nat := 0
  res : List (List (Backing × Nat)) := []
  data : List Byte := []
  got : List (Space × Nat × Nat) := []
  pages : List PageRef := []
  aged : List Nat := []
  deriving DecidableEq, Repr

/-- Staged effects (04 R110), each with its issue number. A PUBLISH names byte ranges of one object: its own, and the slots
that age with it (09 R271); the data of a remote COPY stands in draft pages (06 R174). -/
inductive Stg where
  | pub (obj : Nat) (ranges : List (Nat × Nat))
  | sig (h v : W64)
  | enq (q pa len : Nat) (cbp : Option Nat) (cb : List W64)
  | openW (win obj off len acc g : Nat)
  | closeW (h : W64)
  | remote (imp off len : Nat) (pages : List PageRef)
  deriving DecidableEq, Repr

/-- Kinds of drafts (11 R305 to R308). -/
inductive DKind where
  | cow | new | host | repl
  deriving DecidableEq, Repr

/-- A draft: `off` and `len` in pages of the object, its own pages by index, the storage it was created from, the
page indices already written, for host extents the 64-byte granules written (11 R306, R307), and whether its extent has
been removed (R316). -/
structure Draft where
  obj : Nat
  off : Nat
  len : Nat
  kind : DKind
  pages : Tab PageRef
  src : List PageRef
  iova : Nat
  touched : List Nat
  gran : List Nat
  lost : Bool := false
  deriving DecidableEq, Repr

/-- A pin (06 R183). `task` names the record and generation of a task that took it and has not committed. -/
structure Pin where
  vf : Nat
  obj : Nat
  off : Nat
  len : Nat
  task : Option (Nat × Nat)
  deriving DecidableEq, Repr

/-- How a segment ends (04 R112, R114, R123). -/
inductive Ending where
  | commit | abort | yield | admin
  deriving DecidableEq, Repr

/-- What follows a kill (04 R116): a rerun, or no rerun with a status. -/
inductive After where
  | rerun
  | fail (status : Nat)
  deriving DecidableEq, Repr

/-- A Task Table record and what runs under it (01 R15, R16; 04). -/
structure Task where
  gen : Nat := 0
  st : RecSt := .empty
  withdrawn : Bool := false          -- 13 R368
  kind : TaskKind := .host
  fk : Nat := 0                      -- function key
  q : Nat := 0                       -- local queue of its ring-slot credit
  qgen : Nat := 0
  ord : Nat := 0                     -- submission ordinal
  seq : Nat := 0                     -- SEQ of the originating submission
  depth : Nat := 0                   -- chain depth 04 R103
  part : Nat := 0
  job : Job := .plain 0 0 0
  progAddr : Nat := 0
  progLen : Nat := 0
  inl : List W128 := []              -- inline words (03 R79)
  lines : Tab (List W128) := []      -- its lines in the program cache of its route core (04 R101, R117)
  cbMode : Nat := 0
  cbAddr : Nat := 0
  cb : List W64 := []
  cbIn : Bool := true                -- the constant buffer has been read
  start : Ctx := {}
  ctx : Ctx := {}
  win : Tab (Option Op) := []
  issN : Nat := 0
  staged : List (Nat × Stg) := []
  drafts : List Draft := []
  refs : List Nat := []
  scr : List (Nat × Nat × Nat) := [] -- scratch ranges written: object, offset, length (06 R167)
  got : List (Space × Nat × Nat) := [] -- host ranges read for its program, constants or admin command
  thread : Option Nat := none
  stall : Stall := .none
  parked : Option Nat := none        -- task-state unit that holds the context (04 R102)
  lit : Option Nat := none           -- stamp of the grant at which a parked task's lantern fired (12 R348)
  suspended : Bool := false          -- Verkai (04 R130)
  order : Nat := 0                   -- admission order
  front : Bool := false              -- a rerun, ahead of others (04 R119, 13 R367)
  preempts : Nat := 0                -- 04 R119
  limitUs : Nat := 0                 -- 13 R359
  after : Option After := none
  cstat : Nat := 0                   -- commit-time status (04 R451)
  badAt : Nat := 0                   -- storage address of the poison behind a status 0x17 (13 R355)
  ending : Ending := .commit
  summary : W64 := 0
  wantRec : Bool := false
  released : Bool := false           -- the release of R112 has been carried out up to its signals
  sigs : Nat := 0                    -- signals released and not yet applied
  admDone : Nat := 0                 -- admin commands completed (11 R312)
  admDetail : Nat := 0
  admStop : Bool := false
  admBusy : Bool := false            -- an admin command is in progress (11 R312)
  resumed : Bool := false            -- a continuation: it starts with the context that its YIELD saved (04 R103)
  deriving DecidableEq, Repr

/-! ### Engine ports, sequencers, convoys (07, 08) -/

/-- A forward message (07 R196). -/
structure FwdMsg where
  hdr : W64
  pgen : Nat
  egen : Nat
  dtag : Nat
  kind : Nat
  pay0 : W64
  pay1 : W64
  deriving DecidableEq, Repr

/-- An engine port (07 R214; 08 R226). -/
structure EPort where
  enable : Bool := false
  egen : Nat := 0
  retired : Bool := false
  clearing : Bool := false
  asked : Bool := false              -- IDENT_REQ sent since ENABLE was set and since the last reset 07 R200
  identified : Bool := false
  ident : W64 := 0
  late : Nat := 0
  hsTimeout : Nat := 0
  held : Nat := 0                    -- engine-port credits held 01 R19
  fwd : List FwdMsg := []            -- forward channel, oldest first 07 R198
  lastVf : Option Nat := none        -- 08 R226
  lastRet : W128 := 0                -- 13 R375
  lastTag : Nat := 0                 -- last DTAG offered 13 R375
  deriving DecidableEq, Repr

/-- A fetched bundle (07 R189): index, LAST, resolved count, header as sent, slots, and the sums of the occupancies
that its ACCEPTs carried (16 R432). -/
structure Bundle where
  idx : Nat
  last : Bool
  count : Nat
  hdr : W64
  slots : List W32
  occC : Nat := 0
  occM : Nat := 0
  deriving DecidableEq, Repr

/-- One logical port of a dispatch: the port, bundles offered and accepted (positions in the list of offered
bundles), LAST accepted, WDONE, the POSTs expected per unit in order (bundle, unit), and whether it has been sent the
engine constant buffer. -/
structure LPort where
  port : Nat
  offered : Nat := 0
  accepted : Nat := 0
  lastAcc : Bool := false
  wdone : Bool := false
  acked : Bool := false
  posts : List (Nat × Nat) := []
  cb : Bool := false
  deriving DecidableEq, Repr

/-- Who a dispatch runs for: an operation of a task (record, generation, slot), or a convoy. -/
inductive Owner where
  | task (r gen slot : Nat)
  | convoy
  deriving DecidableEq, Repr

/-- A started dispatch in its partition's sequencer (07 R194 to R205). -/
structure Disp where
  owner : Owner
  dtag : Nat
  obj : Nat
  off : Nat
  nports : Nat
  bundles : Nat
  wcet : Nat
  sumcomb : Nat
  summask : Nat
  cbuf : List W64
  mtu : Nat
  running : Bool := false
  next : Nat := 0                    -- next bundle to fetch
  steps : Nat := 0
  fetched : List Bundle := []        -- bundles not skipped, in order
  lps : List LPort := []
  acc : List W64 := []               -- summary accumulators
  accKey : List Nat := []            -- LAST: 1 + bundle x 256 + unit of the post kept
  stopping : Bool := false
  occC : Nat := 0                    -- sums of v x cnt (08 R241)
  occM : Nat := 0
  ord : Nat := 0                     -- stamp at which its mask was satisfied 07 R171
  deriving DecidableEq, Repr

/-- A convoy member in its slot (08 R231). -/
structure Member where
  r : Nat
  gen : Nat
  slot : Nat
  stream : W64
  cb : List W64
  tokens : Nat
  next : Nat
  joined : Nat
  gone : Bool := false
  deriving DecidableEq, Repr

/-- A convoy table entry (08 R235), with the member's task. -/
structure Entry where
  mslot : Nat
  r : Nat
  gen : Nat
  kind : Nat
  last : Bool
  base : Nat
  ntok : Nat
  start : Nat
  deriving DecidableEq, Repr

/-- A Convoy Builder (08 R229 to R245): buffer, members, running convoy, loop state and registers. -/
structure Cvy where
  units : List Nat := []
  members : Tab (Option Member) := []
  run : Option (List Entry) := none
  wload : Bool := false
  num : Nat := 0
  tabB : Bool := false
  hold : Bool := false
  cfg : W64 := 0x2000#64             -- ADPT_CVY registers 08 R244
  lim : W64 := 0x1000004004000000#64
  gain : W64 := 0x1000200000800100#64
  tgt : W64 := 0x0000028FD99AE666#64
  cfgIn : W64 := 0x2000#64           -- their values in force since the last assembly 08 R245
  limIn : W64 := 0x1000004004000000#64
  gainIn : W64 := 0x1000200000800100#64
  tgtIn : W64 := 0x0000028FD99AE666#64
  n : Nat := 0
  c : Nat := 0
  f : Nat := 0
  cf : Nat := 0
  mf : Nat := 0
  lvf : Nat := 0
  lwset : Nat := 0
  restart : Bool := true             -- first use is due at the next assembly 08 R243
  due : Bool := false                -- a restart is due at the next slice boundary 14 R389
  deriving DecidableEq, Repr

/-! ### Partitions (02, 08, 11) -/

/-- The waiting stamp of a job of a partition (08 R218). -/
structure JobRec where
  job : Job
  vf : Nat
  since : Nat
  deriving DecidableEq, Repr

/-- An import entry (11 R326; 12 R347): owner VF, peer, handle. -/
structure Import where
  vf : Nat
  dev : Nat
  handle : W64
  deriving DecidableEq, Repr

/-- A partition. -/
structure Part where
  cfg : W64 := 0                     -- PART_CFG 02 R52
  engines : W64 := 0                 -- PART_ENGINES
  banks : W64 := 0                   -- PART_BANKS
  extents : W64 := 0                 -- PART_EXTENTS
  sliceUs : Nat := 2000              -- PART_SLICE.SLICE_US 08 R221
  curSliceUs : Nat := 2000           -- length that acts for the running slice 08 R222
  budget : W32 := 0                  -- PART_BUDGET 07 R214
  stepNs : Nat := 0                  -- PART_STEP 07 R209
  endNs : Nat := 0
  pgen : Nat := 0                    -- PART_GEN 07 R214
  portLost : Bool := false
  slices : Nat := 0                  -- PART_SCHED 08 R221
  running : Bool := false
  draining : Bool := false
  prev : Option Nat := none          -- VF of the previous slice since the enable 08 R218
  schVf : Nat := 0
  schGroup : Nat := 0
  job : Option Job := none           -- the job that holds the slice, or drains
  jobWset : Nat := 0                 -- 08 R217
  jobKv : W32 := 0                   -- 09 R270
  overload : Nat := 0                -- PART_OVERLOAD 08 R221
  wsValid : Bool := false            -- PART_WSET 08 R229
  wsVf : Nat := 0
  wsTag : Nat := 0
  jobs : List JobRec := []
  clearWait : Bool := false          -- CLEARs of R226 under way
  chosen : Option Job := none        -- job whose slice waits for those CLEARs
  dtag : Nat := 0                    -- dispatches started 07 R196
  seqr : List Disp := []             -- the step sequencer's started dispatches, oldest first
  cvy : Cvy := {}
  poolBase : W64 := 0                -- 11 R327
  poolLim : W64 := 0
  pins : List Pin := []              -- 06 R183
  imports : Tab (Option Import) := []
  wpImports : Tab (Option Import) := []
  fwSel : Nat := 0                   -- firmware bank selector 15 R422
  tsUnits : Tab Nat := []            -- task-state units: contexts held in each 04 R102
  rtTurn : Nat := 0                  -- route thread whose turn is next where masks are satisfied together 06 R171
  resetting : Bool := false          -- in a reset, phases 1 to 5 15 R419
  deriving DecidableEq, Repr

/-! ### Storage and objects (09, 11) -/

/-- What an allocation unit is held for (01 R19, 11 R301). -/
inductive UnitUse where
  | pages | shadow (qk : Nat) | taskState | convoy
  deriving DecidableEq, Repr

/-- A held allocation unit: its partition, its use, the pages allocated in it. -/
structure WUnit where
  part : Nat
  use : UnitUse
  pages : List Nat
  deriving DecidableEq, Repr

/-- Retiring storage (11 R309): object, pages, stamp of the grant. -/
structure Retiring where
  obj : Nat
  part : Nat
  pages : List PageRef
  at' : Nat
  deriving DecidableEq, Repr

/-- The storage of the VAI and the memories it reaches. -/
structure Storage where
  ws : Mem := Mem.empty              -- Waystation bytes 09 R250
  pkg : Mem := Mem.empty             -- package memory bytes
  host : Tab Mem := []               -- host memory bytes per port
  units : Tab (Option WUnit) := []   -- held units, key bank x 512 + unit
  pkgUsed : List Nat := []           -- package pages allocated
  pkgPart : Tab Nat := []            -- 1 + partition of an allocated package page
  retiring : List Retiring := []
  overflow : List Nat := []          -- queue shadows evacuated to the state store 13 R366
  deriving DecidableEq, Repr

/-- Object states (11 R297). -/
inductive ObjSt where
  | free | opened | closing | released
  deriving DecidableEq, Repr

/-- What an extent maps to (11 R302). -/
inductive Store where
  | pages (l : List PageRef)
  | host (iova : Nat)
  deriving DecidableEq, Repr

/-- An extent: page offset, length in pages, storage. -/
structure Ext where
  off : Nat
  len : Nat
  store : Store
  bad : Bool := false                -- the entry's stored word is uncorrectable (13 R368)
  deriving DecidableEq, Repr

/-- An object table entry (11 R296, R300, R313). -/
structure Obj where
  st : ObjSt := .free
  vf : Nat := 0
  part : Nat := 0
  pf : Nat := 0                      -- PF that created it 11 R315
  place : Nat := 0
  attr : Nat := 0
  plog : Nat := 0
  reservedPg : Nat := 0
  extMax : Nat := 0
  pasid : W32 := 0
  exts : List Ext := []
  run : Nat := 0                     -- partition-relative first entry 11 R303
  held : Nat := 0                    -- memory-object references held 01 R19
  poisoned : Bool := false           -- 13 R368
  deriving DecidableEq, Repr

/-- The object table (11 R296, R297) and the ATU's registers (R327). -/
structure ObjTab where
  tab : Tab Obj := []
  next : Nat := 1                    -- lowest number never taken
  released : List Nat := []          -- RELEASED numbers, oldest first
  atuCfg : W32 := 0
  ctxRefused : Nat := 0
  priFail : Nat := 0
  devmemBase : Tab W64 := []
  devmemSize : Tab W32 := []
  deriving DecidableEq, Repr

/-! ### Waypoints (12) -/

/-- A waypoint record (12 R335). -/
structure Wp where
  value : W64 := 0
  live : Bool := false
  gen : Nat := 0
  owner : Nat := 0
  sigScope : Nat := 0
  waitScope : Nat := 0
  peer : Bool := false
  poisoned : Bool := false
  deriving DecidableEq, Repr

/-- Where a signal comes from (12 R344): a task's commit or Verkai SIGNAL (slot), a window slot, a peer. -/
inductive SigSrc where
  | task (r gen fk : Nat) (slot : Option Nat)
  | window (fk : Nat)
  | peer
  deriving DecidableEq, Repr

/-- Who holds a lantern (12 R348). -/
inductive LanKind where
  | wait (r slot : Nat)
  | slot (fk k : Nat)
  | parked (r gen : Nat)
  deriving DecidableEq, Repr

/-- A lantern (12 R348), on waypoint `idx`; a parked task's waits on its own condition and names none. -/
structure Lantern where
  idx : Nat
  target : W64
  kind : LanKind
  deriving DecidableEq, Repr

/-- The Waypoint Store: records, never-used index, freed indices, signals on their way, lanterns in arming order. -/
structure WpStore where
  tab : Tab Wp := []
  next : Nat := 1
  freed : List Nat := []
  sigq : List (W64 × W64 × SigSrc) := []
  lans : List Lantern := []
  deriving DecidableEq, Repr

/-! ### Translation (11 R317 to R320, 13 R373) -/

/-- Who waits for a host access, or holds a translation: an operation of a task, a task's program and constants, a
queue's ring or records, a partition's pin cache, a request of an engine or a peer by its number. -/
inductive Who where
  | op (r gen slot : Nat)
  | prog (r gen : Nat)
  | slots (qk : Nat)
  | record (qk : Nat)
  | pin (part : Nat)
  | port (id : Nat)
  deriving DecidableEq, Repr

/-- A translation held: page, permissions, translated page. -/
structure XEnt where
  sp : Space
  page : Nat
  r : Bool
  w : Bool
  dst : Nat
  deriving DecidableEq, Repr

/-- What a request to a host asks for. -/
inductive ReqKind where
  | xlate (sp : Space) (page : Nat)
  | read (sp : Space) (addr len : Nat)
  deriving DecidableEq, Repr

/-- A request outstanding at a host port, with its PCIe tag (13 R373), the translated address that a read carries (11
R317), and its Relaxed Ordering, which the model never sets (12 R329; DESIGN CHOICE, log 117), and No Snoop attribute, which
the VAI never sets (12 R330). -/
structure HostReq where
  port : Nat
  tag : Nat
  kind : ReqKind
  who : Who
  dst : Nat := 0
  relaxed : Bool := false
  noSnoop : Bool := false
  deriving DecidableEq, Repr

/-- A page request outstanding (11 R320). -/
structure PriReq where
  sp : Space
  page : Nat
  write : Bool
  who : List Who
  sent : Bool
  deriving DecidableEq, Repr

/-- A request of an engine (11 R298) or a message of a peer (11 R324, 12 R347) that has arrived. -/
inductive PortReq where
  | engine (k : Nat) (t : Tag) (entry : Option Nat) (kind : MemKind) (oref : W64) (len : Nat) (data : List Byte)
  | peerWrite (handle : W64) (off : Nat) (data : List Byte)
  | peerRead (handle : W64) (off len : Nat)
  | peerSignal (handle v : W64)
  deriving DecidableEq, Repr

/-- A request in progress: its number, and the host ranges that have been read for it. -/
structure PortJob where
  id : Nat
  req : PortReq
  got : List (Space × Nat × Nat) := []
  deriving DecidableEq, Repr

/-- A range in an MTU's read buffer (12 R329): the task, and the bytes it read of an object. -/
structure RBuf where
  mtu : Nat
  r : Nat
  gen : Nat
  obj : Nat
  off : Nat
  data : List Byte
  deriving DecidableEq, Repr

/-- The ATU's translation state. `users` says who holds each translation (11 R318). -/
structure Xl where
  ents : List XEnt := []
  users : List (Space × Nat × Who) := []
  reqs : List HostReq := []
  pri : List PriReq := []
  fails : List (Who × ReqKind) := [] -- requests that ended with 0x12, not yet acted on by whoever asked
  waiting : List PortJob := [] -- requests of engines and peers in progress, in order of arrival
  portNo : Nat := 0 -- number of the next one
  deriving DecidableEq, Repr

/-! ### GEQ, recovery, dumps (13) -/

/-- A GEQ record (13 R355). -/
structure GeqRec where
  gseq : Nat
  status : Nat
  source : Nat
  flags : Nat
  part : Nat
  func : Nat
  queue : Nat
  chanKind : Nat
  chanIndex : Nat
  taskId : Nat
  seq : Nat
  detail : Nat
  suppressed : Nat
  pgen : Nat
  deriving DecidableEq, Repr

/-- A key of the posting limit (13 R354): (queue, status), or a waypoint. -/
inductive GKey where
  | queue (qk status : Nat)
  | wp (idx : Nat)
  deriving DecidableEq, Repr

/-- The window of a key: when its last record was posted, records held back since. -/
structure GWin where
  key : GKey
  at' : Nat
  supp : Nat
  deriving DecidableEq, Repr

/-- The Global Error Queue (13 R356, R357). -/
structure Geq where
  base : W64 := 0
  head : Nat := 0
  tail : Nat := 0
  cfg : W64 := 0
  lost : Nat := 0
  overflow : Bool := false
  ring : Tab (Option GeqRec) := []
  wins : List GWin := []
  deriving DecidableEq, Repr

/-- A channel (13 R361, R364, R378). Keys are kind x 2^24 + instance, kinds as CHAN_SEL. -/
structure Chan where
  corrected : Nat := 0
  uncorr : Nat := 0
  hsTimeout : Nat := 0
  stamps : List Nat := []            -- the two last faults' stamps, newest first
  retired : Bool := false
  evac : Bool := false               -- a bank's evacuation is in progress 13 R366
  detour : Option Nat := none        -- attempts made by the detour in progress 13 R362
  xfer : Transfer := .none           -- the transfer that the detour re-issues
  word : Option StoredWord := none   -- the stored word that the detour re-reads
  more : Nat := 0                    -- further failures of a COMMITTING task's transfer 13 R363
  waits : Bool := false              -- the detour waits once more in place of re-issuing 13 R362
  queue : List (Transfer × Option StoredWord × Bool) := [] -- failed transfers whose detours come next
  late : Nat := 0                    -- replies to the retired channel 13 R373
  deriving DecidableEq, Repr

/-- A field the lamplighter reads next (13 R375). -/
structure DField where
  sec : Nat
  index : Nat
  field : Nat
  deriving DecidableEq, Repr

/-- The recovery controller: resets, selectors, resize, dumps (02 R57; 13 R378). -/
structure Rcv where
  rstCtrl : W32 := 0
  phase : Nat := 0
  result : Nat := 0
  auto : Bool := false
  whole : Bool := false
  part : Nat := 0
  nWhole : Nat := 0
  nPart : Nat := 0
  waiting : List Nat := []           -- partitions whose automatic reset waits, ascending
  portRet : List Nat := []           -- ports whose retirement waits for the dump of their reset 13 R365
  ledgerSel : W32 := 0
  chanSel : W32 := 0
  rszCtrl : W32 := 0
  rszEngines : W64 := 0
  rszBanks : W64 := 0
  rszPhase : Nat := 0
  rszResult : Nat := 0
  rszRetired : Bool := false
  rszAct : W32 := 0                  -- RESIZE_CTRL as accepted by the GO in progress
  rszMovE : W64 := 0                 -- ports and banks of the resize in progress
  rszMovB : W64 := 0
  rszScrubbed : W64 := 0             -- moving banks already scrubbed
  rszCleared : W64 := 0              -- moving ports already cleared
  dumpAddr : W64 := 0
  dumpCfg : W64 := 0
  dumpCtrl : W32 := 0
  dumpRecords : Nat := 0
  dumpWithheld : Nat := 0
  dumpResult : Nat := 0
  dumpBusy : Bool := false
  dumpScope : Nat := 0
  dumpCause : Nat := 0
  dumpTodo : List DField := []
  dumpFoldA : Nat := 0               -- sums of the fold over the records written 13 R376
  dumpFoldB : Nat := 0
  dumpNext : Bool := false           -- the reset in its dump phase waits for the dump that runs 13 R377
  deriving DecidableEq, Repr

/-! ### Bring-up, loops, power (14) -/

/-- One bundled-data path (14 R396): `code` none is the fused seed; `live` none is the dim delay. -/
structure Trim where
  code : Option Nat := none
  n : Nat := 0
  hold : Nat := 0
  margin : Nat := 0
  run : Nat := 0
  live : Option Nat := none
  deriving DecidableEq, Repr

/-- Bits that, once set, stay set until the next power-on (14 R383, R391, R394, R397; 15 R413, R420). -/
structure Latch where
  run : Bool := false
  engines : Bool := false
  queues : Bool := false
  irq : Bool := false
  fwReady : Bool := false
  candleCal : Bool := false
  vConv : Bool := false
  trimConv : Bool := false
  debugRead : Bool := false
  deriving DecidableEq, Repr

/-- Bring-up, the adaptive loops and power (14); the designation of the Operator PF (02 R39). -/
structure Boot where
  operator : Option Nat := none      -- the designated host port
  byFuse : Bool := false             -- the designation comes from the fuse: nothing changes it
  refused : Nat := 0                 -- VAI_STATUS.REFUSED
  dimLate : Bool := false
  noRef : Bool := false
  hot : Bool := false
  windows : Nat := 0                 -- ADPT_CAL.WINDOWS
  vCfg : W64 := 0x0000640038408000#64
  vN : Nat := 0
  vReq : Option Nat := none          -- none: VSEED_CODE
  vCapped : Bool := false
  vGrant : Nat := 0
  vPace : Nat := 0
  vRun : Nat := 0
  vPin : Nat := 0
  trimCfg : W32 := 0x00060302#32
  trimSel : W32 := 0
  trims : Tab Trim := []
  limited : Nat := 0                 -- ADPT_TRIM_STATE.LIMITED
  power : Nat := 0
  temp : Nat := 0
  pstate : Nat := 0
  limitDw : Nat := 0
  heldTo : Nat := 0                  -- stamp at which dim mode ended 14 R389
  deriving DecidableEq, Repr

/-! ### Security (15, 17) -/

/-- A mailbox channel (15 R405, 17 R448). Keys: 0 to 7 non-secure, 8 to 15 secure. -/
structure Mbx where
  req : Tab W32 := []
  cap : List W32 := []               -- the captured request
  reqFull : Bool := false
  taken : List (List W32) := []      -- the requests the receiver took and has not answered, oldest first
  rsp : Tab W32 := []
  rspFull : Bool := false
  rspLen : Nat := 0
  badlen : Nat := 0
  aborts : Nat := 0
  irq : W32 := 0
  awake : Bool := false
  rcvRsp : Tab W32 := []
  deriving DecidableEq, Repr

/-- A loaded key slot (15 R414): CLASS (false SET, true ATTESTED), PARTITION, key. -/
structure Key where
  attested : Bool
  part : Nat
  key : KeyBits
  deriving DecidableEq, Repr

/-- A partition's entry of the attestation state window (15 R419). -/
structure PartShown where
  st : Nat := 0
  mode : Nat := 0
  threads : Nat := 0
  fw : Bool := false
  engines : W64 := 0
  banks : W64 := 0
  base : Nat := 0
  count : Nat := 0
  deriving DecidableEq, Repr

/-- Blocks 2 to 9 of the attestation state window, as REPORT_GEN last changed them (15 R418 to R420; 17 R450): digests of
the running and of the staged firmware, the state block beside REPORT_GEN, and the partition entries. -/
structure Shown where
  run : List (Option (BitVec 384)) := [none, none, none]
  next : List (Option (BitVec 384)) := [none, none, none]
  mode : Nat := 0
  transition : Bool := false
  staged : Bool := false
  debug : Bool := false
  byFuse : Bool := false
  operator : Option Nat := none
  raised : Nat := 0
  resetting : W64 := 0
  swapped : W64 := 0
  parts : Tab PartShown := []
  deriving DecidableEq, Repr

/-- The security state (15 R413 to R426). Firmware components: key bank x 4 + component, its digest. -/
structure Sec where
  mbx : Tab Mbx := []
  keys : Tab (Option Key) := []
  mode : Nat := 0
  fw : Tab (Option (BitVec 384)) := []
  active : Nat := 0
  staged : Bool := false
  transition : Bool := false
  lastResult : Nat := 0
  swapped : W64 := 0
  reportGen : Nat := 0
  pkgVersion : Nat := 0              -- security version of the staged package 15 R423
  raised : Nat := 0                  -- the highest version that an update has raised the fused one to 15 R424
  shown : Shown := {}                -- 15 R420, 17 R450
  deriving DecidableEq, Repr

/-! ### Counters (16) -/

/-- A tagged route word or bundle in flight (16 R438, R439). -/
structure Tagged where
  bundle : Bool
  part : Nat
  r : Nat
  gen : Nat
  slot : Option Nat
  opcode : Nat
  pc : Nat
  idx : Nat
  dtag : Nat
  stall : Nat
  detail : Nat
  thread : Nat                       -- the thread that issued the word
  deriving DecidableEq, Repr

/-- Event counters and the precise sampler (16 R442). CNT_CFG none is the event's default. -/
structure Cnt where
  cnt : Tab Nat := []
  cfg : Tab (Option W64) := []
  permit : Tab W64 := []
  smpBase : W64 := 0
  smpCfg : W64 := 0
  smpHead : Nat := 0
  smpTail : Nat := 0
  smpLost : Nat := 0
  vfSel : W32 := 0
  smpOvf : Bool := false
  tags : List Tagged := []
  era : Nat := 0                     -- power-ons so far: the model's own, of the free events
  ticks16 : Nat := 0                 -- 16 ns steps since power-on: of the free events (16 R430)
  causes : Tab (Nat × Nat × List Nat) := [] -- per record, generation and word: the causes it has stalled on there (16 R440)
  hands : Tab Nat := []              -- completed handshakes of each channel, modulo 2^32 (13 R364)
  lastOcc : Tab Nat := []            -- last step level of events 0x0E2, 0x0E3 per partition (16 R433 EDGE)
  deriving DecidableEq, Repr

/-! ### Arbitration among functions (08 R246, R247) -/

/-- Deficit round-robin: whose turn it is, whether the turn's 16 slots have been added, the deficits, and the last
queue served of each participant. -/
structure Drr where
  turn : Nat := 0
  visited : Bool := false
  deficit : Tab Nat := []
  lastQ : Tab Nat := []
  deriving DecidableEq, Repr

/-! ### Messages the VAI sends at its boundary -/

/-- Outputs. A write to a host carries the requester and its PASID (02 R67) and the translated address (11 R317);
`deviceRead` and `deviceWrite` go to a peer's memory through a chip fabric port (11 R321). A byte
`none` is sent poisoned (13 R363). -/
inductive Out where
  | msix (fk vector : Nat)
  | readData (v : W64)
  | busError (w : Window)
  | hostWrite (port fk : Nat) (pasid : Option Nat) (addr : Nat) (data : List (Option Byte))
  | pageRequest (port fk : Nat) (pasid : Option Nat) (page : Nat) (write : Bool)
  | invalidationDone (port : Nat)
  | fabricWrite (port dev : Nat) (handle : W64) (off : Nat) (data : List Byte)
  | deviceRead (port dev addr len : Nat)
  | deviceWrite (port dev addr : Nat) (data : List (Option Byte))
  | fabricSignal (port dev : Nat) (handle value : W64)
  | fabricReply (status : Nat) (data : List Byte)
  | engineReply (port : Nat) (data : List (Option Byte))
  | vReq (code : Nat)
  | rotIrq (line : Nat)
  | tapData (withheld : Bool) (v : W64)
  deriving DecidableEq, Repr

/-! ### The machine -/

/-- The state of the VAI. -/
structure State where
  pending : List Instr := []
  latch : Latch := {}
  boot : Boot := {}
  funcs : Tab Func := []
  queues : Tab Queue := []
  tasks : Tab Task := []
  parts : Tab Part := []
  ports : Tab EPort := []
  mtus : Tab Nat := []               -- MTU credits held
  suTurn : Tab Nat := []             -- Sampling Units' round-robin turn 10 R279
  chans : Tab Chan := []
  objs : ObjTab := {}
  sto : Storage := {}
  wps : WpStore := {}
  xl : Xl := {}
  rbuf : List RBuf := []             -- the MTUs' read buffers, newest first 12 R329
  geq : Geq := {}
  rcv : Rcv := {}
  sec : Sec := {}
  cnt : Cnt := {}
  dbell : Drr := {}                  -- Doorbell Unit 08 R246
  fetch : Drr := {}                  -- Descriptor Fetch Unit 08 R247
  waitTasks : List Task := []        -- enqueued tasks and reruns that wait for a record
  out : List Out := []
  freeCtr : Nat := 0
  stamp : Nat := 0
  now : Nat := 0
  deriving DecidableEq, Repr

/-- The VAI right after power-on: every register at its reset value, no command waiting (14 R381). -/
def State.reset : State := {}

/-- No command faults the VAI: every failure of the manual is a status, a record, a count or an output (13 R353).
The one constructor stands for a step of a machine that has none and is raised by nobody: safe. -/
inductive Fault where
  /-- Raised by no meaning. Safe: it never occurs. -/
  | neverRaised
  deriving DecidableEq, Repr

/-- Refusals. -/
inductive Refusal where
  /-- A command without a meaning, raised only by an arm of `exec` that says so. Safe. -/
  | notModelled (mnemonic : String)
  deriving DecidableEq, Repr

end Sys2Proof.Machine
end

