-- ==== Sys2Proof/Machine/Bits.lean ====
section
/-! DEFINITION. Bit fields, saturating counts and little-endian bytes (00_scope.md R6). -/

namespace Sys2Proof.Machine

/-- Bits [hi:lo] of a word, as a number. -/
def fld {w : Nat} (v : BitVec w) (hi lo : Nat) : Nat := (v.toNat >>> lo) % 2 ^ (hi + 1 - lo)

/-- Bit n of a word. -/
def bit {w : Nat} (v : BitVec w) (n : Nat) : Bool := v.toNat.testBit n

/-- A Bool as 0 or 1. -/
def b2n (b : Bool) : Nat := if b then 1 else 0

/-- A word built from fields, each with its low bit. -/
def packN : List (Nat × Nat) → Nat
  | [] => 0
  | (lo, v) :: t => (v <<< lo) + packN t

/-- A 64-bit word built from fields. -/
def pack (l : List (Nat × Nat)) : W64 := BitVec.ofNat 64 (packN l)

/-- The bits of `mask` taken from `new`, the others from `old`. -/
def merge (old new mask : W64) : W64 := (old &&& ~~~mask) ||| (new &&& mask)

/-- A mask of the bits [hi:lo]. -/
def ones (hi lo : Nat) : W64 := BitVec.ofNat 64 ((2 ^ (hi + 1 - lo) - 1) <<< lo)

/-- Add with saturation at `top`. -/
def satAdd (top a b : Nat) : Nat := min top (a + b)

/-- The number whose little-endian bytes are the list. -/
def leVal : List Byte → Nat
  | [] => 0
  | b :: t => b.toNat + 256 * leVal t

/-- The `n` little-endian bytes of a number. -/
def leBytes : Nat → Nat → List Byte
  | 0, _ => []
  | n + 1, v => BitVec.ofNat 8 v :: leBytes n (v / 256)

/-- `n` bytes of a list from position `i`. -/
def slice (l : List Byte) (i n : Nat) : List Byte := (l.drop i).take n

/-- The little-endian number of `n` bytes at position `i`. -/
def leAt (l : List Byte) (i n : Nat) : Nat := leVal (slice l i n)

/-- The indices of the set bits of a bitmap below `n`, rising. -/
def bitsOf (n : Nat) (v : W64) : List Nat := (List.range n).filter (fun i => bit v i)

/-- The number of set bits of a bitmap. -/
def popc64 (v : W64) : Nat := (bitsOf 64 v).length

/-- A bitmap with bit `n` set. -/
def setBit (v : W64) (n : Nat) : W64 := v ||| BitVec.ofNat 64 (2 ^ n)

/-- A bitmap with bit `n` clear. -/
def clrBit (v : W64) (n : Nat) : W64 := v &&& ~~~BitVec.ofNat 64 (2 ^ n)

/-- The least element of a list of numbers, if any. -/
def least : List Nat → Option Nat
  | [] => none
  | a :: t => match least t with
    | none => some a
    | some b => some (min a b)

/-- The least natural number below `n` that satisfies `f`. -/
def firstBelow (f : Nat → Bool) (n : Nat) : Option Nat := (List.range n).find? f

/-- The first number from `i` upward, at most `fuel` above, that satisfies `f`. -/
def firstFrom (f : Nat → Bool) : Nat → Nat → Option Nat
  | 0, _ => none
  | fuel + 1, i => if f i then some i else firstFrom f fuel (i + 1)

/-- Signed value of a 64-bit word's low `n` bits of a number. -/
def signed (n v : Nat) : Int := if v % 2 ^ n < 2 ^ (n - 1) then (v % 2 ^ n : Int) else (v % 2 ^ n : Int) - 2 ^ n

/-- The entries of a table as a list of values. -/
def Tab.vals {α : Type} (t : Tab α) : List α := t.map (·.2)

/-- A list's element at a position replaced by `f` of it. -/
def modAt {α : Type} (f : α → α) : Nat → List α → List α
  | _, [] => []
  | 0, a :: t => f a :: t
  | n + 1, a :: t => a :: modAt f n t

end Sys2Proof.Machine
end

