-- ==== Sys2Proof/Machine/Crypto.lean ====
section
/-! DEFINITION. AES-256-GCM decryption (09 R274, NIST SP 800-38D) and SHA-384 (15 R411, FIPS 180-4), from their
definitions: the constants are computed, not tabulated. -/

namespace Sys2Proof.Machine

/-! ### AES-256 -/

/-- Multiplication by x in GF(2^8). -/
def xtime (a : Byte) : Byte := (a <<< 1) ^^^ (if a.getMsbD 0 then 0x1B#8 else 0#8)

/-- Multiplication in GF(2^8), over the bits of the second factor. -/
def gmul : Nat → Byte → Byte → Byte
  | 0, _, _ => 0
  | n + 1, a, b => (if b.getLsbD 0 then a else 0) ^^^ gmul n (xtime a) (b >>> 1)

/-- The inverse in GF(2^8), a^254; 0 for 0. -/
def ginv (a : Byte) : Byte :=
  let m := gmul 8
  let a2 := m a a
  let a4 := m a2 a2
  let a8 := m a4 a4
  let a16 := m a8 a8
  let a32 := m a16 a16
  let a64 := m a32 a32
  let a128 := m a64 a64
  m a128 (m a64 (m a32 (m a16 (m a8 (m a4 a2)))))

/-- The S-box. -/
def sbox (a : Byte) : Byte :=
  let b := ginv a
  b ^^^ b.rotateLeft 1 ^^^ b.rotateLeft 2 ^^^ b.rotateLeft 3 ^^^ b.rotateLeft 4 ^^^ 0x63#8

/-- XOR of two byte lists. -/
def xorBytes (a b : List Byte) : List Byte := List.zipWith (· ^^^ ·) a b

/-- The AES-256 key schedule: words from the last eight, most recent first, until `n` more are made. -/
def keyWords : Nat → Nat → Byte → List (List Byte) → List (List Byte)
  | 0, _, _, acc => acc
  | n + 1, i, rc, acc =>
    let prev := acc.headD []
    let t := if i % 8 = 0 then xorBytes ((prev.rotateLeft 1).map sbox) [rc, 0, 0, 0]
      else if i % 8 = 4 then prev.map sbox else prev
    keyWords n (i + 1) (if i % 8 = 0 then xtime rc else rc) (xorBytes (acc.getD 7 []) t :: acc)

/-- The 15 round keys of a 32-byte key. -/
def roundKeys (key : List Byte) : List (List Byte) :=
  let ws := (keyWords 52 8 1 ((List.range 8).map fun i => slice key (4 * i) 4).reverse).reverse
  (List.range 15).map fun r => ((ws.drop (4 * r)).take 4).flatten

/-- ShiftRows, with the state in column order. -/
def shiftRows (s : List Byte) : List Byte :=
  (List.range 16).map fun i => s.getD ((i + 4 * (i % 4)) % 16) 0

/-- MixColumns of one column. -/
def mixColumn (c : List Byte) : List Byte :=
  (List.range 4).map fun i =>
    let a (k : Nat) : Byte := c.getD ((i + k) % 4) 0
    xtime (a 0) ^^^ (xtime (a 1) ^^^ a 1) ^^^ a 2 ^^^ a 3

/-- The rounds after the first key addition. -/
def aesRounds : List (List Byte) → List Byte → List Byte
  | [], s => s
  | [k], s => xorBytes (shiftRows (s.map sbox)) k
  | k :: ks, s =>
    let t := shiftRows (s.map sbox)
    aesRounds ks (xorBytes ((List.range 4).flatMap fun i => mixColumn (slice t (4 * i) 4)) k)

/-- AES-256 encryption of a block. -/
def aesBlock (ks : List (List Byte)) (b : List Byte) : List Byte := match ks with
  | [] => b
  | k :: t => aesRounds t (xorBytes b k)

/-! ### GCM -/

/-- A block as a number, first byte most significant. -/
def beVal (l : List Byte) : BitVec 128 := l.foldl (fun v b => (v <<< 8) ||| b.setWidth 128) 0

/-- A number as a block. -/
def beBytes (n : Nat) (v : Nat) : List Byte := (leBytes n v).reverse

/-- Multiplication in GF(2^128) of GCM: the factor `x` bit by bit from the left. -/
def ghMul : Nat → BitVec 128 → BitVec 128 → BitVec 128 → BitVec 128
  | 0, _, _, z => z
  | n + 1, x, v, z =>
    ghMul n (x <<< 1) ((v >>> 1) ^^^ (if v.getLsbD 0 then 0xE1#128 <<< 120 else 0)) (if x.getMsbD 0 then z ^^^ v else z)

/-- GHASH over blocks of 16 bytes, the last padded with zeros. -/
def ghash (h : BitVec 128) : Nat → List Byte → BitVec 128 → BitVec 128
  | 0, _, y => y
  | n + 1, l, y => ghash h n (l.drop 16) (ghMul 128 (y ^^^ beVal (l.take 16 ++ List.replicate (16 - (l.take 16).length) 0)) h 0)

/-- The keystream XOR from counter block `ctr`. -/
def ctrXor (ks : List (List Byte)) (iv : List Byte) : Nat → Nat → List Byte → List Byte
  | 0, _, _ => []
  | n + 1, ctr, l =>
    xorBytes (l.take 16) (aesBlock ks (iv ++ beBytes 4 ctr)) ++ ctrXor ks iv n ((ctr + 1) % 2 ^ 32) (l.drop 16)

/-- The bytes of a key, byte 0 first. -/
def keyBytes (k : KeyBits) : List Byte := leBytes 32 k.toNat

/-- AES-256-GCM decryption with a 12-byte IV and the additional data `aad`: the plaintext, and whether the tag matches. -/
def gcmDecrypt (key : KeyBits) (iv aad tag data : List Byte) : List Byte × Bool :=
  let ks := roundKeys (keyBytes key)
  let n := (data.length + 15) / 16
  let h := beVal (aesBlock ks (List.replicate 16 0))
  let a := ghash h ((aad.length + 15) / 16) aad 0
  let s := ghMul 128 (ghash h n data a ^^^ BitVec.ofNat 128 (aad.length * 8 * 2 ^ 64 + data.length * 8)) h 0
  (ctrXor ks iv n 2 data, xorBytes (beBytes 16 s.toNat) (aesBlock ks (iv ++ [0, 0, 0, 1])) == tag)

/-! ### SHA-384 -/

/-- A number below 441 is prime, by trial of the divisors below 21. -/
def isPrime (n : Nat) : Bool := 2 ≤ n && (List.range 21).all fun d => d < 2 || n ≤ d || n % d != 0

/-- The first 80 primes. -/
def primes80 : List Nat := (List.range 410).filter isPrime

/-- floor of the cube root, bit by bit from 2^b. -/
def icbrt (x : Nat) : Nat → Nat → Nat
  | 0, r => r
  | b + 1, r => let t := r + 2 ^ b; icbrt x b (if t * t * t ≤ x then t else r)

/-- floor of the square root, bit by bit from 2^b. -/
def isqrt (x : Nat) : Nat → Nat → Nat
  | 0, r => r
  | b + 1, r => let t := r + 2 ^ b; isqrt x b (if t * t ≤ x then t else r)

/-- The round constants: fractional parts of the cube roots of the first 80 primes. -/
def shaK : List W64 := primes80.map fun p => BitVec.ofNat 64 (icbrt (p * 2 ^ 192) 68 0)

/-- The initial state of SHA-384: fractional parts of the square roots of the ninth to sixteenth primes. -/
def shaInit : List W64 := ((primes80.drop 8).take 8).map fun p => BitVec.ofNat 64 (isqrt (p * 2 ^ 128) 68 0)

/-- The message schedule, most recent word first, with `n` more words to make. -/
def shaSchedule : Nat → List W64 → List W64
  | 0, w => w
  | n + 1, w =>
    let x := w.getD 14 0
    let y := w.getD 1 0
    let s0 := x.rotateRight 1 ^^^ x.rotateRight 8 ^^^ (x >>> 7)
    let s1 := y.rotateRight 19 ^^^ y.rotateRight 61 ^^^ (y >>> 6)
    shaSchedule n ((w.getD 15 0 + s0 + w.getD 6 0 + s1) :: w)

/-- One round on the working variables a to h. -/
def shaRound (v : List W64) (kw : W64 × W64) : List W64 :=
  let g (i : Nat) : W64 := v.getD i 0
  let s1 := (g 4).rotateRight 14 ^^^ (g 4).rotateRight 18 ^^^ (g 4).rotateRight 41
  let t1 := g 7 + s1 + ((g 4 &&& g 5) ^^^ (~~~ (g 4) &&& g 6)) + kw.1 + kw.2
  let s0 := (g 0).rotateRight 28 ^^^ (g 0).rotateRight 34 ^^^ (g 0).rotateRight 39
  let t2 := s0 + ((g 0 &&& g 1) ^^^ (g 0 &&& g 2) ^^^ (g 1 &&& g 2))
  [t1 + t2, g 0, g 1, g 2, g 3 + t1, g 4, g 5, g 6]

/-- One 128-byte block. -/
def shaBlock (h : List W64) (b : List Byte) : List W64 :=
  let w0 : List W64 := (List.range 16).map fun i => BitVec.ofNat 64 (beVal (slice b (8 * i) 8)).toNat
  let w := (shaSchedule 64 w0.reverse).reverse
  List.zipWith (· + ·) h ((List.zip shaK w).foldl shaRound h)

/-- The blocks of a padded message. -/
def shaBlocks : Nat → List Byte → List W64 → List W64
  | 0, _, h => h
  | n + 1, l, h => shaBlocks n (l.drop 128) (shaBlock h (l.take 128))

/-- SHA-384 of bytes. -/
def sha384 (l : List Byte) : BitVec 384 :=
  let z := (239 - l.length % 128) % 128
  let m := l ++ [0x80#8] ++ List.replicate z 0 ++ beBytes 16 (l.length * 8)
  BitVec.ofNat 384 (((shaBlocks (m.length / 128) m shaInit).take 6).foldl (fun v w => v * 2 ^ 64 + w.toNat) 0)

end Sys2Proof.Machine
end

