-- ==== Sys2Proof/Config.lean ====
section
/-! DEFINITION. What a part fixes (fused seeds and identities) and the free values of the manual. None has a body:
no proof sees a value. -/

namespace Sys2Proof.Config

/-- Silicon stepping (14 R382 VAI_ID). Fixed per part. -/
opaque stepping : Byte
/-- The unique die identifier of the fuses (15 R418). Fixed per part. -/
opaque dieId : BitVec 128
/-- VSEED_CODE, the voltage request at power-on (14 R393, R395). Fixed per part. -/
opaque vseedCode : BitVec 7
/-- SP0_PS, the fused set-point (14 R395). Fixed per part. -/
opaque sp0 : BitVec 16
/-- The fused trim seed of a bundled-data path (14 R396). Fixed per part. -/
opaque trimSeed : Nat → BitVec 6
/-- CF0, seed of CF (08 R244). Fixed per part. -/
opaque cf0 : BitVec 16
/-- MF0, seed of MF (08 R244). Fixed per part. -/
opaque mf0 : BitVec 16
/-- The fused security version before any update that the model runs (15 R419). Fixed per part. -/
opaque fusedVersion : BitVec 16
/-- Whether FILT_EN applies to a listed event (16 R442 PART_OK), which the manual's table does not say. -/
opaque partOk : Nat → Bool
/-- CNT_INFO, but for PLANE, of an event number that the representative table of 16 does not list. -/
opaque otherEventInfo : Nat → BitVec 9
/-- What an event that the representative table of 16 does not list adds to its counter in the i-th 16 ns after power-on:
event, count of power-ons, i. -/
opaque otherEventAdds : Nat → Nat → Nat → Nat
/-- Which of the causes that a word stalled on lasted longest (16 R440), n-th free value: the model keeps no times. -/
opaque longest : Nat → Nat
/-- Energy in mJ that VAI_ENERGY (16, event 0x1E0) adds at a power report: the manual gives no formula. -/
opaque energy : Nat → Nat
/-- Whether a scratch byte that its task has not written reads as zero (06 R167): the n-th free choice. -/
opaque scratchZero : Nat → Bool
/-- How many bytes a stopped operation of a Verkai task had written in place (04 R115, R129): n-th free value. -/
opaque progress : Nat → Nat
/-- Whether the precise sampler tags the n-th candidate (16 R438). -/
opaque tagged : Nat → Bool
/-- A duration of a sample record (16 R440), n-th free value: the model keeps no times. -/
opaque duration : Nat → W32
/-- The answer of a host's page tables to a write of the VAI's own records for which no translation is held yet
(13 R356, R376, 16 R441): the translated page, or none where the host refuses. -/
opaque mirrorPage : Nat → Option Nat
/-- A byte that a peer device's memory gives (11 R321): the n-th free value at an address. -/
opaque peerByte : Nat → Nat → Byte
/-- What stands at the two ends of an internal bus, as kind and instance of a channel (13 R361; of a bundled-data path, 14
R396). Fixed per part. -/
opaque busEnds : Nat → (Nat × Nat) × (Nat × Nat)
/-- What a scan of latches shows through the test access port (13 R374, R375), n-th free value. -/
opaque scanned : Nat → W64
/-- Whether the n-th field read through the test access port is valid (13 R374). -/
opaque tapValid : Nat → Bool
/-- How a dump field that the manual gives as several values packs them (13 R375): section, field, the values. -/
opaque dumpPack : Nat → Nat → List Nat → W64
/-- What PART_STEP shows of a step time that its 16 bits cannot hold (07 R209, R214). -/
opaque wideStep : Nat → BitVec 16
/-- Whether a relayed SPDM response, to a request, is a signed one that includes block 10 (15 R418): DMTF SPDM's. -/
opaque signsBlock10 : List Byte → List Byte → Bool

end Sys2Proof.Config
end

