-- ==== Sys2Proof/Machine/Ops.lean ====
section
/-! DEFINITION. The named operations of the VAI that every family shares: access to the parts of State, how a command
ends, counters (16), MSI-X (03 R92), the Global Error Queue (13 R354 to R356), the Credit Ledger (01 R19), storage and
allocation (11 R301), translations and host accesses (11 R317 to R321). -/

namespace Sys2Proof.Machine

/-! ### Parts of State -/

/-- The function with key `k`. -/
def State.func (s : State) (k : Nat) : Func := Tab.get {} s.funcs k
/-- Change the function with key `k`. -/
def State.modFunc (s : State) (k : Nat) (g : Func → Func) : State :=
  { s with funcs := Tab.set {} s.funcs k (g (s.func k)) }
/-- The queue with key `k`. -/
def State.queue (s : State) (k : Nat) : Queue := Tab.get {} s.queues k
/-- Change the queue with key `k`. -/
def State.modQueue (s : State) (k : Nat) (g : Queue → Queue) : State :=
  { s with queues := Tab.set {} s.queues k (g (s.queue k)) }
/-- Task record `r`. -/
def State.task (s : State) (r : Nat) : Task := Tab.get {} s.tasks r
/-- Change task record `r`. -/
def State.modTask (s : State) (r : Nat) (g : Task → Task) : State :=
  { s with tasks := Tab.set {} s.tasks r (g (s.task r)) }
/-- Partition `n`. -/
def State.part (s : State) (n : Nat) : Part := Tab.get {} s.parts n
/-- Change partition `n`. -/
def State.modPart (s : State) (n : Nat) (g : Part → Part) : State :=
  { s with parts := Tab.set {} s.parts n (g (s.part n)) }
/-- Engine port `k`. -/
def State.eport (s : State) (k : Nat) : EPort := Tab.get {} s.ports k
/-- Change engine port `k`. -/
def State.modPort (s : State) (k : Nat) (g : EPort → EPort) : State :=
  { s with ports := Tab.set {} s.ports k (g (s.eport k)) }
/-- The channel with key `k` (kind x 2^24 + instance). -/
def State.chan (s : State) (k : Nat) : Chan := Tab.get {} s.chans k
/-- Change the channel with key `k`. -/
def State.modChan (s : State) (k : Nat) (g : Chan → Chan) : State :=
  { s with chans := Tab.set {} s.chans k (g (s.chan k)) }
/-- Object number `n`. -/
def State.obj (s : State) (n : Nat) : Obj := Tab.get {} s.objs.tab n
/-- Change object number `n`. -/
def State.modObj (s : State) (n : Nat) (g : Obj → Obj) : State :=
  { s with objs := { s.objs with tab := Tab.set {} s.objs.tab n (g (s.obj n)) } }
/-- Waypoint record `i`. -/
def State.wp (s : State) (i : Nat) : Wp := Tab.get {} s.wps.tab i
/-- Change waypoint record `i`. -/
def State.modWp (s : State) (i : Nat) (g : Wp → Wp) : State :=
  { s with wps := { s.wps with tab := Tab.set {} s.wps.tab i (g (s.wp i)) } }
/-- MTU credits held at MTU `m`. -/
def State.mtuHeld (s : State) (m : Nat) : Nat := Tab.get 0 s.mtus m
/-- Change the MTU credits held at MTU `m`. -/
def State.modMtu (s : State) (m : Nat) (g : Nat → Nat) : State :=
  { s with mtus := Tab.set 0 s.mtus m (g (s.mtuHeld m)) }
/-- Change the Waypoint Store's lists. -/
def State.modWps (s : State) (g : WpStore → WpStore) : State := { s with wps := g s.wps }
/-- Change bring-up and loops. -/
def State.modBoot (s : State) (g : Boot → Boot) : State := { s with boot := g s.boot }
/-- Change the storage. -/
def State.modSto (s : State) (g : Storage → Storage) : State := { s with sto := g s.sto }
/-- Change the recovery controller. -/
def State.modRcv (s : State) (g : Rcv → Rcv) : State := { s with rcv := g s.rcv }
/-- Change the security state. -/
def State.modSec (s : State) (g : Sec → Sec) : State := { s with sec := g s.sec }
/-- Change the counters. -/
def State.modCnt (s : State) (g : Cnt → Cnt) : State := { s with cnt := g s.cnt }
/-- Change the Global Error Queue. -/
def State.modGeq (s : State) (g : Geq → Geq) : State := { s with geq := g s.geq }
/-- Change the translation state. -/
def State.modXl (s : State) (g : Xl → Xl) : State := { s with xl := g s.xl }
/-- Send a message at the boundary. -/
def State.send (s : State) (o : Out) : State := { s with out := o :: s.out }
/-- Advance the counter of free values. -/
def State.nextFree (s : State) : State := { s with freeCtr := s.freeCtr + 1 }
/-- Advance the order stamp. -/
def State.nextStamp (s : State) : State := { s with stamp := s.stamp + 1 }
/-- Fold a change over a list. -/
def State.each {α : Type} (s : State) (l : List α) (g : State → α → State) : State := l.foldl g s

/-- Key of PF `p`. -/
def pfKey (p : Nat) : Nat := 1024 + p
/-- Key of a function's local queue. -/
def qkey (fk q : Nat) : Nat := fk * 64 + q
/-- Key of a channel: kinds are the codes of CHAN_SEL (13 R378); kind 9 is an internal bus. -/
def ckey (kind i : Nat) : Nat := kind * 2 ^ 24 + i

/-- A commit-time status is met (04 R451): the first one stays, with the storage address behind a 0x17. -/
def Task.met (st at' : Nat) (t : Task) : Task :=
  if t.cstat = 0 ∧ st ≠ 0 then { t with cstat := st, badAt := at' } else t

/-- Completed handshakes of the channel with key `k`, modulo 2^32 (13 R364). -/
def State.hands (s : State) (k : Nat) : Nat := Tab.get 0 s.cnt.hands k
/-- The channel (kind, i) has completed `n` handshakes (13 R364): those of a transfer that the model makes; a fault's command
brings the rest (DESIGN CHOICE, log 126). -/
def State.handshakes (s : State) (kind i n : Nat) : State :=
  { s with cnt := { s.cnt with hands := Tab.set 0 s.cnt.hands (ckey kind i) ((s.hands (ckey kind i) + n) % 2 ^ 32) } }

/-- Task identifier of a record index and generation (01 R15). -/
def taskId (r gen : Nat) : Nat := gen * 2 ^ 18 + r
/-- The record index that a task identifier names (01 R15). -/
def idRec (id : Nat) : Nat := id % 2 ^ 18
/-- The record generation that a task identifier carries (01 R15). -/
def idGen (id : Nat) : Nat := id / 2 ^ 18
/-- The number of task records (01 R15). -/
def records : Nat := 262144

/-- Dim mode is in force until CANDLE_CAL, V_CONV and TRIM_CONV are all 1 (14 R387). -/
def Latch.dim (l : Latch) : Bool := !(l.candleCal && l.vConv && l.trimConv)

/-- Latches of two states joined: a set bit stays set (14 R383, R391, R394, R397, 15 R413). -/
def Latch.join (a b : Latch) : Latch :=
  { run := a.run || b.run, engines := a.engines || b.engines, queues := a.queues || b.queues, irq := a.irq || b.irq
    fwReady := a.fwReady || b.fwReady, candleCal := a.candleCal || b.candleCal, vConv := a.vConv || b.vConv
    trimConv := a.trimConv || b.trimConv, debugRead := a.debugRead || b.debugRead }

/-- PF `p` is the Operator PF (02 R39). -/
def State.isOp (s : State) (p : Nat) : Bool := s.boot.operator == some p

/-! ### Functions and partitions (02) -/

/-- VF_RANGE.BASE of PF `p`. -/
def State.vfBase (s : State) (p : Nat) : Nat := fld (s.func (pfKey p)).range 9 0
/-- VF_RANGE.COUNT of PF `p`. -/
def State.vfCount (s : State) (p : Nat) : Nat := fld (s.func (pfKey p)).range 26 16
/-- Global VF `n` lies in PF `p`'s range. -/
def State.inRange (s : State) (p n : Nat) : Bool := s.vfBase p ≤ n && n < s.vfBase p + s.vfCount p
/-- The host port whose range holds global VF `n`. -/
def State.vfPort (s : State) (n : Nat) : Option Nat := firstBelow (fun p => s.inRange p n) 4
/-- Local VF `i` of PF `p` exists (02 R44): its global number. -/
def State.vfOf (s : State) (p i : Nat) : Option Nat :=
  let f := s.func (pfKey p)
  if f.vfEnable && i < f.numVfs && i < s.vfCount p then some (s.vfBase p + i) else none
/-- The enabled VFs of PF `p` (02 R68). -/
def State.enabledVfs (s : State) (p : Nat) : List Nat := (List.range (s.vfCount p)).filterMap (fun i => s.vfOf p i)
/-- The host port of a function (02 R67). -/
def State.fport (s : State) (fk : Nat) : Nat := if fk < 1024 then (s.vfPort fk).getD 0 else fk - 1024
/-- VF_BIND.VALID. -/
def State.bound (s : State) (fk : Nat) : Bool := fk < 1024 && bit (s.func fk).bind 31
/-- VF_BIND.PARTITION. -/
def State.bindPart (s : State) (fk : Nat) : Nat := fld (s.func fk).bind 5 0
/-- Partition of a function for a record: 0xFF when none. -/
def State.partOf (s : State) (fk : Nat) : Nat := if s.bound fk then s.bindPart fk else 0xFF
/-- PART_CFG.ENABLE. -/
def State.enabled (s : State) (n : Nat) : Bool := n < 64 && bit (s.part n).cfg 0
/-- The partition's MODE is 1, Verkai mode. -/
def State.verkai (s : State) (n : Nat) : Bool := fld (s.part n).cfg 9 8 == 1
/-- PART_CFG.THREADS. -/
def State.threadsCfg (s : State) (n : Nat) : Nat := fld (s.part n).cfg 40 32

/-- Shares of route threads in dim mode, partitions in ascending number, from what is left of 32 (02 R56). -/
def State.dimShares (s : State) : List Nat → Nat → List (Nat × Nat)
  | [], _ => []
  | n :: t, left =>
    if s.enabled n then
      let w := min left (max 1 (s.threadsCfg n / 8))
      (n, w) :: State.dimShares s t (left - w)
    else State.dimShares s t left

/-- The route threads that partition `n` uses at once (02 R50, R56). -/
def State.share (s : State) (n : Nat) : Nat :=
  if s.latch.dim then Tab.get 0 (s.dimShares (List.range 64) 32) n else s.threadsCfg n

/-- EPORT_STATUS.USABLE (07 R214): enabled, identified, not clearing, not retired. -/
def EPort.usable (e : EPort) : Bool := e.enable && e.identified && !e.clearing && !e.retired

/-- The partition's engine ports, rising: their logical numbers are their positions (07 R190). -/
def State.portsOf (s : State) (n : Nat) : List Nat := bitsOf 64 (s.part n).engines
/-- The partition's banks, rising. -/
def State.banksOf (s : State) (n : Nat) : List Nat := bitsOf 64 (s.part n).banks

/-- The route core of a thread: 32 cores carry 8 threads each (04 R98); threads are numbered core by core (DESIGN CHOICE,
log 120). -/
def coreOf (th : Nat) : Nat := th / 8

/-- PART_STATUS.STARVED (02 R52, R55, R56). -/
def State.starved (s : State) (n : Nat) : Bool :=
  s.enabled n && (!((s.portsOf n).any fun k => (s.eport k).usable) || (s.banksOf n).isEmpty || s.share n == 0)

/-- PART_STATUS.ACTIVE. -/
def State.active (s : State) (n : Nat) : Bool := s.enabled n && !s.starved n

/-- The VFs bound to partition `n`. -/
def State.boundVfs (s : State) (n : Nat) : List Nat :=
  s.funcs.filterMap fun e => if e.1 < 1024 && bit e.2.bind 31 && fld e.2.bind 5 0 == n then some e.1 else none

/-- A function's queues that are not ABSENT, as keys. -/
def State.liveQueues (s : State) (fk : Nat) : List Nat :=
  s.queues.filterMap fun e => if e.1 / 64 == fk && e.2.st != .absent then some e.1 else none

/-! ### Counters (16) -/

/-- The events of the representative table: (LEVEL, SAMPLE = STEP, THRESH_OK, POWER). -/
def eventInfo (e : Nat) : Option (Bool × Bool × Bool × Bool) :=
  if [0x000, 0x001, 0x008, 0x010, 0x011, 0x012, 0x013, 0x020, 0x030, 0x031, 0x032, 0x0C0, 0x0C1, 0x0D0, 0x0E0, 0x0E4, 0x0F0,
      0x100, 0x102, 0x103, 0x105, 0x1C0, 0x1C8, 0x1CA, 0x1D0, 0x1F0, 0x1F1].contains e then
    some (false, false, false, false)
  else if e = 0x021 ∨ e = 0x022 then some (true, false, false, false)
  else if e = 0x0C2 then some (true, false, true, false)
  else if e = 0x0E2 ∨ e = 0x0E3 then some (true, true, true, false)
  else if e = 0x1E0 then some (false, false, false, true)
  else if e = 0x1E1 then some (true, false, true, true)
  else none

/-- The default mode of an event (16 R442): EDGE, and LEVEL for a level event (DESIGN CHOICE, log 12). -/
def defaultMode (e : Nat) : Nat := match eventInfo e with
  | some (true, _, _, _) => 1
  | _ => 0

/-- CNT_CFG of event `e`. -/
def State.cntCfg (s : State) (e : Nat) : W64 := match Tab.get none s.cnt.cfg e with
  | some v => v
  | none => pack [(32, defaultMode e)]

/-- MODE of event `e`. -/
def State.cntMode (s : State) (e : Nat) : Nat := fld (s.cntCfg e) 33 32

/-- The partition to which FILT_EN restricts event `e`, where it acts (16 R434). -/
def State.cntFilter (s : State) (e : Nat) : Option Nat :=
  if bit (s.cntCfg e) 47 && Config.partOk e then some (fld (s.cntCfg e) 45 40) else none

/-- The filter of event `e` lets an occurrence of partition `part` pass (16 R434). -/
def State.cntPass (s : State) (e : Nat) (part : Option Nat) : Bool :=
  !(bit (s.cntCfg e) 47 && Config.partOk e) || part == some (fld (s.cntCfg e) 45 40)

/-- Add to the count of event `e`: it saturates at 2^64 - 1, and an increment above 2^32 - 1 is added as 2^32 - 1
and sets LOST (16 R430, R431; log 13). -/
def State.cntRaw (s : State) (e inc : Nat) : State :=
  s.modCnt fun c =>
    let c := { c with cnt := Tab.set 0 c.cnt e (satAdd (2 ^ 64 - 1) (Tab.get 0 c.cnt e) (min inc (2 ^ 32 - 1))) }
    if 2 ^ 32 - 1 < inc then { c with cfg := Tab.set none c.cfg e (some (s.cntCfg e ||| ones 63 63)) } else c

/-- An occurrence of edge event `e` with increment `inc`, attributed to partition `part` (16 R431, R433, R434). -/
def State.tickN (s : State) (e inc : Nat) (part : Option Nat) : State :=
  if s.cntPass e part then s.cntRaw e inc else s

/-- An occurrence of edge event `e`. -/
def State.tick (s : State) (e : Nat) (part : Option Nat) : State := s.tickN e 1 part

/-- A request or reply that names a task record with another generation: dropped and counted (01 R15; 13 R373). -/
def State.mismatch (s : State) : State := s.tick 0x013 none

/-- A sample point of level event `e` at level `v`, counted `times` times (16 R432, R433). -/
def State.sampleLevel (s : State) (e v times : Nat) (part : Option Nat) : State :=
  if !s.cntPass e part then s else
    match s.cntMode e with
    | 1 => s.cntRaw e (v * times)
    | 2 => if fld (s.cntCfg e) 31 0 < v then s.cntRaw e times else s
    | _ => s

/-- Add to tenant counter `i` of a VF (16 R436). -/
def State.vfTick (s : State) (fk i inc : Nat) : State :=
  if fk < 1024 then s.modFunc fk fun f => { f with cnt := Tab.set 0 f.cnt i (satAdd (2 ^ 64 - 1) (Tab.get 0 f.cnt i) inc) }
  else s

/-- MTU credits that partition `n` holds (01 R19): its operations' and its dispatches'. The fetch of a submission belongs to no
partition (DESIGN CHOICE, log 18). -/
def State.mtuHeldBy (s : State) (n : Nat) : Nat :=
  (s.tasks.map fun e => if e.2.part = n then (e.2.win.filter fun x => (x.2.bind (·.mtu)).isSome).length else 0).sum +
    (s.part n).seqr.length

/-- The levels sampled in time: THREADS_BUSY, TASKS_PARKED, MTU_CREDITS, VAI_POWER (16), or what of them belongs to one
partition (16 R434): of the power, nothing. -/
def State.level (s : State) (e : Nat) (part : Option Nat) : Nat :=
  let mine (t : Task) : Bool := part.all (· == t.part)
  if e = 0x021 then (s.tasks.filter fun t => t.2.thread.isSome && mine t.2).length
  else if e = 0x022 then (s.tasks.filter fun t => t.2.parked.isSome && t.2.st == .running && mine t.2).length
  else if e = 0x0C2 then match part with
    | none => (s.mtus.map (·.2)).sum
    | some n => s.mtuHeldBy n
  else if e = 0x1E1 && part.isNone then s.boot.power
  else 0

/-- A level event in EDGE mode counts each change of the level that its filter sees (16 R433, R434); a command is one grant. -/
def State.levelEdge (s t : State) (e : Nat) : State :=
  if s.level e (t.cntFilter e) ≠ t.level e (t.cntFilter e) && t.cntMode e == 0 then t.cntRaw e 1 else t

/-! ### How a command ends -/

/-- The level edges of one command. -/
def State.levelEdges (s t : State) : State :=
  [0x021, 0x022, 0x0C2, 0x1E1].foldl (fun u e => s.levelEdge u e) t

/-- The end of a command that sets no latch: the queue of commands and the latches stay as they were. -/
def done (s t : State) : Host.Outcome State Fault Refusal :=
  .next { s.levelEdges t with pending := s.pending, latch := s.latch }

/-- The end of a command that may set latches: a set latch stays set (14 R383). -/
def doneL (s t : State) : Host.Outcome State Fault Refusal :=
  .next { s.levelEdges t with pending := s.pending, latch := s.latch.join t.latch }

/-! ### Refused register writes (02 R39, R42, R65) -/

/-- Count an access refused for lack of authority in AUTH_DENIED of PF `p`. -/
def State.denied (s : State) (p : Nat) : State :=
  s.modFunc (pfKey p) fun f => { f with authDenied := satAdd 0xFFFFFFFF f.authDenied 1 }
/-- Record a refusal code and the offset of the write in CFG_RESULT of PF `p` (02 R41, R42). -/
def State.refuse (s : State) (p code off : Nat) : State :=
  s.modFunc (pfKey p) fun f => { f with cfgResult := BitVec.ofNat 32 (code * 2 ^ 24 + off % 2 ^ 24) }
/-- A write refused with NOT_OPERATOR: recorded and counted. -/
def State.notOperator (s : State) (p off : Nat) : State := (s.denied p).refuse p 0x01 off
/-- A write to an Operator-only register at `off` of PF `p`'s BAR0: `g` when PF `p` is the Operator PF. Nothing
arrives on a port without a link (02 R38, R68). -/
def State.opWrite (s : State) (p off : Nat) (g : State → State) : State :=
  if !(s.func (pfKey p)).linkUp then s else if s.isOp p then g s else s.notOperator p off

/-! ### The report generation and key slots (15) -/

/-- The digest of a firmware component in a bank (15 R422). -/
def State.fwDigest (s : State) (bank comp : Nat) : Option (BitVec 384) := Tab.get none s.sec.fw (bank * 4 + comp)

/-- Partitions of the reset in progress. -/
def State.domain (s : State) : List Nat := (List.range 64).filter fun n => (s.part n).resetting

/-- What a partition's entry of the report shows (15 R419). -/
def State.partShown (s : State) (n : Nat) : PartShown :=
  let p := s.part n
  { st := if !s.enabled n then 0 else if p.resetting then 2 else 1
    mode := fld p.cfg 9 8, threads := s.threadsCfg n, fw := s.sec.transition && bit s.sec.swapped n
    engines := p.engines, banks := p.banks, base := fld p.extents 19 0, count := fld p.extents 52 32 }

/-- What the attestation state window shows of the present state (15 R418, R419). -/
def State.report (s : State) : Shown :=
  let f (b : Nat) : List (Option (BitVec 384)) := [s.fwDigest b 0, s.fwDigest b 1, s.fwDigest b 2]
  { run := f s.sec.active, next := if s.sec.staged || s.sec.transition then f (1 - s.sec.active) else [none, none, none]
    mode := s.sec.mode, transition := s.sec.transition, staged := s.sec.staged, debug := s.latch.debugRead
    byFuse := s.boot.byFuse, operator := s.boot.operator, raised := s.sec.raised
    resetting := s.domain.foldl setBit 0, swapped := if s.sec.transition then s.sec.swapped else 0
    parts := (List.range 64).foldl (fun t n => Tab.set {} t n (s.partShown n)) [] }

/-- REPORT_GEN increments, the attestation state window shows the present state, and the ephemeral key pair of every PF is
destroyed (15 R420). -/
def State.bumpReport (s : State) : State :=
  (s.each [0, 1, 2, 3] fun u p => u.modFunc (pfKey p) fun f => { f with eph := none }).modSec fun c =>
    { c with reportGen := (c.reportGen + 1) % 2 ^ 32, shown := s.report }

/-- Several events of 15 R420 that one command brings give one increment over the REPORT_GEN `g` before it. -/
def State.oneBump (s : State) (g : Nat) : State :=
  if s.sec.reportGen = g then s else s.modSec fun c => { c with reportGen := (g + 1) % 2 ^ 32 }

/-- Withdraw the key slots that `f` selects (15 R415). -/
def State.withdrawKeys (s : State) (f : Key → Bool) : State :=
  s.modSec fun c => { c with keys := c.keys.filter fun e => match e.2 with
    | some k => !f k
    | none => false }

/-- The key that slot `k` holds released to partition `n` (15 R414). -/
def State.keyFor (s : State) (n k : Nat) : Option KeyBits :=
  match Tab.get none s.sec.keys k with
  | some x => if k ≠ 0 ∧ x.part = n ∧ (x.attested ∨ s.sec.mode = 1) then some x.key else none
  | none => none

/-! ### MSI-X and notices (03 R92, R93; 14 R386) -/

/-- Signal vector `v` of function `fk`: a message, or a pending bit while IRQ is 0 or the vector is masked. -/
def State.signalVec (s : State) (fk v : Nat) : State :=
  if s.latch.irq && !(Tab.get {} (s.func fk).msix v).masked then s.send (.msix fk v)
  else s.modFunc fk fun f => { f with pend := setBit f.pend v }

/-- The queue's vector is signalled when IRQ_EN is 1 (03 R92). A queue that an FLR destroys signals nothing: its Q_CFG
has returned to its reset value (02 R48; log 106). -/
def State.signalQueue (s : State) (qk : Nat) : State :=
  let c := (s.queue qk).cfg
  if bit c 0 && !(s.queue qk).flr then s.signalVec (qk / 64) (fld c 13 8) else s

/-- Set the queue's bit in VF_ERR_SUMMARY or ADMQ_ERR_SUMMARY; a bit that becomes set signals the vector (03 R92, R93).
The bits that an FLR has cleared stay clear while it destroys the queue (02 R48; log 106). -/
def State.setErrBit (s : State) (qk : Nat) : State :=
  let fk := qk / 64
  if bit (s.func fk).errSum (qk % 64) || (s.queue qk).flr then s
  else (s.modFunc fk fun f => { f with errSum := setBit f.errSum (qk % 64) }).signalQueue qk

/-! ### Translations and host accesses (11 R317 to R321; 02 R67) -/

/-- The queue's PASID space (03 R73, 11 R317). -/
def State.queueSpace (s : State) (qk : Nat) : Space :=
  let c := (s.queue qk).cfg
  { port := s.fport (qk / 64), fk := qk / 64, pasid := if bit c 28 then some (fld c 51 32) else none }

/-- How an attempt to reach a host page ends. -/
inductive Acc where
  | ok (e : XEnt)
  | wait
  | fail
  deriving DecidableEq, Repr

/-- A translation held for a page of a space. -/
def State.findX (s : State) (sp : Space) (page : Nat) : Option XEnt :=
  s.xl.ents.find? fun e => e.sp == sp && e.page == page

/-- The lowest PCIe tag free at a port (10 bits, 13 R373). -/
def State.freeTag (s : State) (port : Nat) : Option Nat :=
  firstBelow (fun t => !(s.xl.reqs.any fun r => r.port == port && r.tag == t)) 1024

/-- Issue a request at a host port on behalf of `who`; a read carries the translated address `dst` (11 R317). -/
def State.issueReq (s : State) (port : Nat) (k : ReqKind) (who : Who) (dst : Nat) : State :=
  match s.freeTag port with
  | some t => (s.handshakes 5 port 1).modXl fun x =>
      { x with reqs := x.reqs ++ [{ port := port, tag := t, kind := k, who := who, dst := dst }] }
  | none => s

/-- The PF that governs a function's page requests (11 R320). -/
def State.priPf (s : State) (fk : Nat) : Nat := pfKey (s.fport fk)

/-- Page requests sent and outstanding of a PF and its VFs (11 R320). -/
def State.priSent (s : State) (p : Nat) : Nat := (s.xl.pri.filter fun r => r.sent && r.sp.port == p).length

/-- Send page requests that wait for the allocation, in order (11 R320). -/
def State.priPump (s : State) (p : Nat) : State :=
  if s.priSent p < (s.func (pfKey p)).priAlloc then
    match s.xl.pri.findIdx? fun r => !r.sent && r.sp.port == p with
    | none => s
    | some i =>
      let r := s.xl.pri.getD i { sp := ⟨0, 0, none⟩, page := 0, write := false, who := [], sent := false }
      let s := s.modXl fun x => { x with pri := modAt (fun r => { r with sent := true }) i x.pri }
      ((s.tick 0x102 (some (s.partOf r.sp.fk))).vfTick r.sp.fk 9 1).send (.pageRequest p r.sp.fk r.sp.pasid r.page r.write)
  else s

/-- A request joins one for the same page: one that has not been sent asks for what both need. -/
def PriReq.merge (who : Who) (write : Bool) (r : PriReq) : PriReq :=
  { r with who := if r.who.contains who then r.who else r.who ++ [who], write := r.write || (write && !r.sent) }

/-- Ask for a page (11 R320): merged with a request of the same function, page and PASID. -/
def State.askPage (s : State) (who : Who) (sp : Space) (page : Nat) (write : Bool) : State :=
  match s.xl.pri.findIdx? fun r => r.sp == sp && r.page == page with
  | some i => s.modXl fun x => { x with pri := modAt (PriReq.merge who write) i x.pri }
  | none => (s.modXl fun x => { x with pri := x.pri ++ [{ sp := sp, page := page, write := write, who := [who], sent := false }] }).priPump sp.port

/-- Count a page request that ended with 0x12 (11 R327). -/
def State.priFailed (s : State) : State := { s with objs := { s.objs with priFail := satAdd 0xFFFF s.objs.priFail 1 } }

/-- `who` holds the translation of a page (11 R318). -/
def State.useX (s : State) (who : Who) (sp : Space) (page : Nat) : State :=
  if s.xl.users.contains (sp, page, who) then s else s.modXl fun x => { x with users := x.users ++ [(sp, page, who)] }

/-- A failed request has been acted on. -/
def State.dropFail (s : State) (who : Who) (k : ReqKind) : State := s.modXl fun x => { x with fails := x.fails.filter (· != (who, k)) }

/-- Try to reach a page of a host for `who` (11 R317, R320): the translation, a wait, or failure with 0x12. -/
def State.tryPage (s : State) (who : Who) (sp : Space) (page : Nat) (write : Bool) : State × Acc :=
  if s.xl.fails.contains (who, .xlate sp page) then (s.dropFail who (.xlate sp page), .fail)
  else if !(s.func sp.fk).atsEn then (s, .fail)
  else match s.findX sp page with
    | some e =>
      if (if write then e.w else e.r) then (s.useX who sp page, .ok e)
      else
        let pf := s.func (s.priPf sp.fk)
        if pf.lockout || !pf.priEn then (s.priFailed, .fail)
        else (s.askPage who sp page write, .wait)
    | none =>
      if s.xl.reqs.any fun r => r.who == who && r.kind == .xlate sp page then (s, .wait)
      else ((s.tick 0x100 (some (s.partOf sp.fk))).issueReq sp.port (.xlate sp page) who 0, .wait)

/-- Try to reach the pages `p`, `p + 1`, … of a host, `n` of them: the first that is not held decides. -/
def State.tryPages (s : State) (who : Who) (sp : Space) (write : Bool) : Nat → Nat → State × Acc
  | _, 0 => (s, .ok ⟨sp, 0, true, true, 0⟩)
  | p, n + 1 =>
    match s.tryPage who sp p write with
    | (t, .ok _) => t.tryPages who sp write (p + 1) n
    | r => r

/-- The number of 4 KiB pages that `len` bytes from `a` touch. -/
def pagesTouched (a len : Nat) : Nat := if len = 0 then 0 else (a + len - 1) / 4096 - a / 4096 + 1

/-- Try to reach a range of a host's memory. -/
def State.tryRange (s : State) (who : Who) (sp : Space) (a len : Nat) (write : Bool) : State × Acc :=
  s.tryPages who sp write (a / 4096) (pagesTouched a len)

/-- The positions in a range at which a new page or the range itself begins, with lengths: page by page. -/
def pageChunks (o len : Nat) : List (Nat × Nat) :=
  (List.range (pagesTouched o len)).map fun i =>
    let a := max o ((o / 4096 + i) * 4096)
    (a, min (o + len) ((o / 4096 + i + 1) * 4096) - a)

/-- The location `i` bytes on. -/
def Loc.add (i : Nat) : Loc → Loc
  | .ws a => .ws (a + i)
  | .pkg a => .pkg (a + i)
  | .host p a => .host p (a + i)
  | .peer p d a => .peer p d (a + i)
  | .refused => .refused

/-- The chip fabric port that leads to package address `a` of this device (11 R321). -/
def pkgPort (a : Nat) : Nat := a / 4096 % 8

/-- Decode a translated address (11 R321, R323): a device address outside PORT_DEVMEM is refused. -/
def State.decodeAddr (s : State) (port a : Nat) : Loc :=
  if a / 2 ^ 58 % 64 = 0b110100 then
    let dev := a / 2 ^ 52 % 64
    let off := a % 2 ^ 52
    if dev = fld s.objs.atuCfg 5 0 then
      let base := (Tab.get 0 s.objs.devmemBase port).toNat
      let size := (Tab.get 0 s.objs.devmemSize port).toNat * 65536
      if base ≤ off && off < base + size then .pkg off else .refused
    else .peer port dev off
  else .host port a

/-- Host memory of a port. -/
def State.hostMem (s : State) (port : Nat) : Mem := Tab.get Mem.empty s.sto.host port

/-- Read a byte; `none` is poison. A peer's byte is a free value. -/
def State.readLoc (s : State) : Loc → Option Byte
  | .ws a => s.sto.ws.read none a
  | .pkg a => s.sto.pkg.read (some 0) a
  | .host p a => (s.hostMem p).read (some 0) a
  | .peer _ _ a => some (Config.peerByte s.freeCtr a)
  | .refused => none

/-- Write a byte, or its poison mark. -/
def State.writeLoc (s : State) (l : Loc) (b : Option Byte) : State :=
  match l with
  | .ws a => s.modSto fun m => { m with ws := match b with
      | some b => m.ws.write none a b
      | none => m.ws.poison (a / 32) }
  | .pkg a => s.modSto fun m => { m with pkg := match b with
      | some b => m.pkg.write (some 0) a b
      | none => m.pkg.poison (a / 32) }
  | .host p a => s.modSto fun m => { m with host := Tab.set Mem.empty m.host p (match b with
      | some b => (Tab.get Mem.empty m.host p).write (some 0) a b
      | none => (Tab.get Mem.empty m.host p).poison (a / 32)) }
  | .peer _ _ _ => s
  | .refused => s

/-- Write bytes, or their poison marks, from a location on. -/
def State.writeRange (s : State) (l : Loc) : List (Option Byte) → State
  | [] => s
  | b :: t => (s.writeLoc l b).writeRange (l.add 1) t

/-- Where an address of a space leads through the translation held (11 R317, R321). -/
def State.reach (s : State) (sp : Space) (a : Nat) : Option Loc :=
  (s.findX sp (a / 4096)).map fun e => s.decodeAddr sp.port (e.dst * 4096 + a % 4096)

/-- A page of a host range leads to package memory of this device outside PORT_DEVMEM (11 R321, R323). -/
def State.ctxBad (s : State) (sp : Space) (a len : Nat) : Bool :=
  (pageChunks a len).any fun c => s.reach sp c.1 == some .refused

/-- Count a request refused for its context (11 R323, R327). -/
def State.ctxRefuse (s : State) : State := { s with objs := { s.objs with ctxRefused := satAdd 0xFFFF s.objs.ctxRefused 1 } }

/-- The message in which a write inside one page leaves (11 R317, R321; 02 R67): to the host, with the function's
identity and the translated address, or to a peer's memory; this device's own memory needs none. Poisoned bytes are sent
poisoned (13 R363). -/
def State.sendWrite (s : State) (sp : Space) (data : List (Option Byte)) : Loc → State
  | .host p x => (s.handshakes 5 p 1).send (.hostWrite p sp.fk sp.pasid x data)
  | .peer _ dev x => (s.handshakes 4 (dev % 8) 1).send (.deviceWrite (dev % 8) dev x data)
  | _ => s

/-- A write of bytes, or of their poison marks, at an address of a space, page by page through the translations held. -/
def State.hostWriteP (s : State) (sp : Space) (a : Nat) (data : List (Option Byte)) : State :=
  s.each (pageChunks a data.length) fun u c => match u.reach sp c.1 with
    | some l => (u.sendWrite sp ((data.drop (c.1 - a)).take c.2) l).writeRange l ((data.drop (c.1 - a)).take c.2)
    | none => u

/-- A write at an address of a space. -/
def State.hostWrite (s : State) (sp : Space) (a : Nat) (data : List Byte) : State := s.hostWriteP sp a (data.map some)

/-- Read bytes of a host's memory through the translations held. -/
def State.hostGet (s : State) (sp : Space) (a n : Nat) : List (Option Byte) :=
  (List.range n).map fun i => (s.reach sp (a + i)).bind s.readLoc

/-- Write one of the VAI's own records to a host (13 R356, R376, 16 R441): through a translation held, or through
the host's answer, which is free where none is held: the state, and whether it was written. A write refused for its
context is counted (11 R323). -/
def State.ownWrite (s : State) (sp : Space) (a : Nat) (data : List Byte) : State × Bool :=
  let put (u : State) : State × Bool := if u.ctxBad sp a data.length then (u.ctxRefuse, false) else (u.hostWrite sp a data, true)
  if !(s.func sp.fk).atsEn then (s, false)
  else match s.findX sp (a / 4096) with
    | some e => if e.w then put s else (s, false)
    | none =>
      match Config.mirrorPage s.freeCtr with
      | none => (s.nextFree, false)
      | some d =>
        let e : XEnt := { sp := sp, page := a / 4096, r := true, w := true, dst := d }
        let x := put (s.nextFree.modXl fun x => { x with ents := x.ents ++ [e] })
        (x.1.modXl fun x => { x with ents := x.ents.filter (· != e) }, x.2)

/-! ### The Global Error Queue (13 R354 to R356) -/

/-- FUNC of a GEQ record (13 R355). -/
def funcCode (fk : Nat) : Nat := if fk < 1024 then fk else 0x8000 + (fk - 1024)

/-- The 64 bytes of a GEQ record (13 R355). -/
def GeqRec.bytes (g : GeqRec) : List Byte :=
  leBytes 4 g.gseq ++ leBytes 1 g.status ++ leBytes 1 g.source ++ leBytes 1 g.flags ++ leBytes 1 g.part ++
  leBytes 2 g.func ++ leBytes 1 g.queue ++ leBytes 1 g.chanKind ++ leBytes 2 g.chanIndex ++ leBytes 2 0 ++
  leBytes 4 g.taskId ++ leBytes 4 g.seq ++ leBytes 8 g.detail ++ leBytes 4 g.suppressed ++ leBytes 2 g.pgen ++ leBytes 26 0

/-- An empty GEQ record of a status. -/
def geqRec (status source : Nat) : GeqRec :=
  { gseq := 0, status := status, source := source, flags := 0, part := 0xFF, func := 0, queue := 0xFF, chanKind := 0
    chanIndex := 0, taskId := 0, seq := 0, detail := 0, suppressed := 0, pgen := 0 }

/-- Distance of two free-running indices of `w` bits. -/
def dist (w a b : Nat) : Nat := (a + 2 ^ w - b % 2 ^ w) % 2 ^ w

/-- The ring of the GEQ is full (13 R356). -/
def Geq.full (g : Geq) : Bool := dist 32 g.tail g.head == 4096

/-- Records held back for a key since its last record. -/
def Geq.supp (g : Geq) (k : GKey) : Nat := ((g.wins.find? fun w => w.key == k).map (·.supp)).getD 0

/-- A record of the key was posted less than 10 ms of candle time ago (13 R354). -/
def State.limited (s : State) (k : GKey) : Bool :=
  s.geq.wins.any fun w => w.key == k && s.now < w.at' + 10000000

/-- The mirror write of a record (13 R356); a write that fails is skipped. -/
def State.geqMirror (s : State) (r : GeqRec) : State :=
  match s.boot.operator with
  | some p =>
    if bit s.geq.base 0 then
      let sp : Space := { port := p, fk := pfKey p, pasid := if bit s.geq.cfg 28 then some (fld s.geq.cfg 51 32) else none }
      (s.ownWrite sp ((s.geq.base &&& ones 63 18).toNat + 64 * (r.gseq % 4096)) r.bytes).1
    else s
  | none => s

/-- A record as it is posted (13 R355): its index, OVERFLOW after a loss, the records held back for its key, and the
generation of its partition. -/
def State.geqStamped (s : State) (r : GeqRec) (key : Option GKey) : GeqRec :=
  { r with gseq := s.geq.tail, flags := r.flags + (if s.geq.overflow then 4 else 0)
           suppressed := (key.map fun k => s.geq.supp k).getD 0
           pgen := if r.part < 64 then (s.part r.part).pgen else 0 }

/-- The ring with a record posted at TAIL; a record with a key starts the key's window (13 R354). -/
def Geq.put (g : Geq) (now : Nat) (r : GeqRec) (key : Option GKey) : Geq :=
  { g with ring := Tab.set none g.ring (g.tail % 4096) (some r), tail := (g.tail + 1) % 2 ^ 32, overflow := false
           wins := match key with
             | some k => g.wins.filter (fun w => w.key != k) ++ [{ key := k, at' := now, supp := 0 }]
             | none => g.wins }

/-- A posting signals the vector of the Operator PF when IRQ_EN is 1 (13 R356). -/
def State.geqIrq (s : State) : State :=
  match s.boot.operator with
  | some p => if bit s.geq.cfg 0 then s.signalVec (pfKey p) (fld s.geq.cfg 11 8) else s
  | none => s

/-- Post a record (13 R354 to R356). `key` is the key of a limited record; a device-scoped record has none. A record of
status 0x1A sends no MSI-X message (08 R249; DEDUCED, log 107). -/
def State.geqPost (s : State) (r : GeqRec) (key : Option GKey) : State :=
  if key.any fun k => s.limited k then
    s.modGeq fun g => { g with wins := g.wins.map fun w => if some w.key == key then { w with supp := w.supp + 1 } else w }
  else if s.geq.full then s.modGeq fun g => { g with lost := satAdd 0xFFFFFFFF g.lost 1, overflow := true }
  else
    let r := s.geqStamped r key
    let u := ((s.geqMirror r).modGeq fun g => g.put s.now r key).tick 0x1C0 none
    if r.status = 0x1A then u else u.geqIrq

/-- Post a notice for a queue (13 R354, R355): SOURCE 0, key (queue, status). -/
def State.geqNotice (s : State) (qk status : Nat) : State :=
  s.geqPost { geqRec status 0 with
      flags := if status = 0x1A then 3 else 1, part := s.partOf (qk / 64), func := funcCode (qk / 64), queue := qk % 64 }
    (some (.queue qk status))

/-- A notice for a queue: its bit and a GEQ record (03 R83). -/
def State.notice (s : State) (qk status : Nat) : State := (s.setErrBit qk).geqNotice qk status

/-- Post a device-scoped record about a channel (13 R363, R365, R368). -/
def State.geqChannel (s : State) (status kind i part detail : Nat) : State :=
  s.geqPost { geqRec status 4 with part := part, chanKind := kind, chanIndex := i, detail := detail } none

/-! ### The Credit Ledger: queues, MTUs (01 R19) -/

/-- Ring size of a queue. -/
def Queue.ring (q : Queue) : Nat := 2 ^ fld q.size 4 0
/-- Size of a queue's completion ring. -/
def Queue.cplRing (q : Queue) : Nat := 2 ^ fld q.size 12 8
/-- Free ring-slot credits. -/
def Queue.free (q : Queue) : Nat := q.ring - q.credHeld
/-- Return ring-slot credits. -/
def Queue.give (n : Nat) (q : Queue) : Queue := { q with credHeld := q.credHeld - n }
/-- Slots accepted and not fetched: HEAD to TAIL. -/
def Queue.waiting (q : Queue) : Nat := dist 24 q.tail q.head

/-- MTU `m` is retired (13 R365). -/
def State.mtuRetired (s : State) (m : Nat) : Bool := (s.chan (ckey 2 m)).retired
/-- Free credits of MTU `m`. -/
def State.mtuFree (s : State) (m : Nat) : Nat := if s.mtuRetired m then 0 else 64 - s.mtuHeld m

/-! ### Storage and allocation (11 R301) -/

/-- The bank of an allocation unit's key. -/
def unitBank (u : Nat) : Nat := u / 512
/-- Units of a partition's banks that are free. -/
def State.freeUnits (s : State) (n : Nat) : Nat :=
  512 * (s.banksOf n).length - (s.sto.units.filter fun u => (s.banksOf n).contains (unitBank u.1)).length
/-- Units held in bank `b`. -/
def State.bankHeld (s : State) (b : Nat) : Nat := (s.sto.units.filter fun u => unitBank u.1 == b).length
/-- WS_KEEP of partition `n`. -/
def State.wsKeep (s : State) (n : Nat) : Nat := fld (s.part n).poolLim 63 48
/-- The lowest free unit of the lowest-numbered bank of partition `n` that has one (03 R71, 11 R301). -/
def State.pickUnit (s : State) (n : Nat) : Option Nat :=
  (s.banksOf n).findSome? fun b =>
    if (s.chan (ckey 3 b)).evac then none
    else (firstBelow (fun u => (Tab.get none s.sto.units (b * 512 + u)).isNone) 512).map fun u => b * 512 + u
/-- Hold unit `u`. -/
def State.holdUnit (s : State) (u : Nat) (w : WUnit) : State :=
  s.modSto fun m => { m with units := Tab.set none m.units u (some w) }
/-- Free unit `u`. -/
def State.freeUnit (s : State) (u : Nat) : State := s.modSto fun m => { m with units := Tab.set none m.units u none }
/-- Take `k` whole units for a control structure, ignoring WS_KEEP (11 R301, exempt allocations). -/
def State.takeUnits (s : State) (n : Nat) (use : UnitUse) : Nat → Option (List Nat × State)
  | 0 => some ([], s)
  | k + 1 => match s.pickUnit n with
    | none => none
    | some u => match (s.holdUnit u ⟨n, use, []⟩).takeUnits n use k with
      | none => none
      | some (us, t) => some (u :: us, t)

/-- One Waystation page for partition `n` (11 R301). `keep` is WS_KEEP, or 0 where a rule ignores it. -/
def State.wsPage (s : State) (n keep : Nat) : Option (PageRef × State) :=
  match List.find? (fun (u : Nat × Option WUnit) => match u.2 with
      | some w => w.part == n && w.use == .pages && w.pages.length < 16 && !(s.chan (ckey 3 (unitBank u.1))).evac
      | none => false) s.sto.units with
  | some (u, some w) => match firstBelow (fun i => !w.pages.contains i) 16 with
    | some i => some (.ws (u * 16 + i), s.holdUnit u { w with pages := insertRising w.pages i })
    | none => none
  | _ => if keep < s.freeUnits n then
      (s.pickUnit n).map fun u => (.ws (u * 16), s.holdUnit u ⟨n, .pages, [0]⟩)
    else none

/-- First package page of partition `n`'s pool and their number (11 R327). -/
def State.pool (s : State) (n : Nat) : Nat × Nat := ((s.part n).poolBase.toNat / 4096, 16 * fld (s.part n).poolLim 19 0)

/-- One package page of partition `n`: the lowest free one of its pool (DEDUCED, log 14). -/
def State.pkgPage (s : State) (n : Nat) : Option (PageRef × State) :=
  let (b, k) := s.pool n
  (firstFrom (fun p => !s.sto.pkgUsed.contains p) k b).map fun p =>
    (.pkg p, s.modSto fun m => { m with pkgUsed := insertRising m.pkgUsed p, pkgPart := Tab.set 0 m.pkgPart p (n + 1) })

/-- One page for an object of placement `place` (11 R300, R301). -/
def State.allocPage (s : State) (n place keep : Nat) : Option (PageRef × State) :=
  match (if place = 2 then none else s.wsPage n keep) with
  | some r => some r
  | none => if place = 1 then none else s.pkgPage n

/-- `k` pages from one source, all or none. -/
def State.takePages (s : State) (take : State → Option (PageRef × State)) : Nat → Option (List PageRef × State)
  | 0 => some ([], s)
  | k + 1 => match take s with
    | none => none
    | some (p, t) => match t.takePages take k with
      | none => none
      | some (ps, u) => some (p :: ps, u)

/-- Zero a page (11 R305). -/
def State.zeroPage (s : State) : PageRef → State
  | .ws p => s.modSto fun m => { m with ws := m.ws.zeroPage none p }
  | .pkg p => s.modSto fun m => { m with pkg := m.pkg.zeroPage (some 0) p }

/-- The `k` pages of one extent of an object of placement `place`, all or none (11 R300, R301): an extent's record names
one target (R302), so they lie all in the Waystation, or all in package memory (DESIGN CHOICE, log 59). -/
def State.allocPages (s : State) (n place keep k : Nat) : Option (List PageRef × State) :=
  match (if place = 2 then none else s.takePages (fun u => u.wsPage n keep) k) with
  | some r => some r
  | none => if place = 1 then none else s.takePages (fun u => u.pkgPage n) k

/-- Release a page; a unit returns with its last page (11 R301). -/
def State.freePage (s : State) : PageRef → State
  | .pkg p => s.modSto fun m => { m with pkgUsed := m.pkgUsed.erase p, pkgPart := Tab.set 0 m.pkgPart p 0 }
  | .ws p => match Tab.get none s.sto.units (p / 16) with
    | some w =>
      let ps := w.pages.erase (p % 16)
      if ps.isEmpty then s.freeUnit (p / 16) else s.holdUnit (p / 16) { w with pages := ps }
    | none => s

/-- Release pages. -/
def State.freePages (s : State) (l : List PageRef) : State := s.each l State.freePage

/-- The byte location of a page. -/
def PageRef.loc : PageRef → Nat → Loc
  | .ws p, o => .ws (p * 4096 + o)
  | .pkg p, o => .pkg (p * 4096 + o)

end Sys2Proof.Machine
end

