-- ==== Sys2Proof/Machine/Objects.lean ====
section
/-! DEFINITION. Memory objects as the ATU resolves them: references and rights (06 R157 to R160, 11 R296 to R298),
extents, holes, drafts and their publication (11 R302 to R309, 06 R163 to R167), release (11 R311). -/

namespace Sys2Proof.Machine

/-- NUM of an object reference (06 R157). -/
def orNum (w : W64) : Nat := fld w 63 40
/-- WIN of an object reference. -/
def orWin (w : W64) : Bool := bit w 39
/-- OFFSET of an object reference. -/
def orOff (w : W64) : Nat := fld w 38 0

/-- The object reference of byte `o` of object `n`. -/
def orWord (n o : Nat) : W64 := BitVec.ofNat 64 (n * 2 ^ 40 + o)

/-- ATTR SCRATCH (11 R300). -/
def Obj.scratch (o : Obj) : Bool := o.attr.testBit 0
/-- ATTR KV. -/
def Obj.kv (o : Obj) : Bool := o.attr.testBit 1
/-- ATTR SHARED_RO. -/
def Obj.sharedRo (o : Obj) : Bool := o.attr.testBit 2
/-- The object maps host memory. -/
def Obj.isHost (o : Obj) : Bool := o.place == 4
/-- Reserved length in bytes (11 R304). -/
def Obj.reserved (o : Obj) : Nat := o.reservedPg * 4096
/-- Pages of a key/value slot (11 R300). -/
def Obj.slotPg (o : Obj) : Nat := 2 ^ o.plog
/-- Published length in pages (11 R304). -/
def Obj.publishedPg (o : Obj) : Nat := if o.isHost then o.reservedPg else o.exts.foldl (fun m e => max m (e.off + e.len)) 0
/-- The extent that maps a page. -/
def Obj.extAt (o : Obj) (pg : Nat) : Option Ext := o.exts.find? fun e => e.off ≤ pg && pg < e.off + e.len

/-- A range of the object resolves through an uncorrectable entry (13 R368): the object's own, or an extent's. -/
def Obj.lostAt (o : Obj) (off len : Nat) : Bool :=
  o.poisoned || o.exts.any fun e => e.bad && e.off * 4096 < off + len && off < (e.off + e.len) * 4096

/-- The translation space of a HOST object (11 R317). -/
def State.objSpace (s : State) (o : Obj) : Space :=
  { port := s.fport o.vf, fk := o.vf, pasid := if bit o.pasid 31 then some (fld o.pasid 19 0) else none }

/-- A pin holds a translation: it covers a page of a HOST object that the translation's page backs (11 R310, R318). -/
def State.pinHolds (s : State) (sp : Space) (page : Nat) : Bool :=
  s.parts.any fun p => p.2.pins.any fun x =>
    let o := s.obj x.obj
    o.isHost && s.objSpace o == sp && o.exts.any fun t => match t.store with
      | .host iova =>
        let pg := t.off + (page - iova / 4096)
        iova / 4096 ≤ page && page < iova / 4096 + t.len && pg * 4096 < x.off + x.len && x.off < (pg + 1) * 4096
      | .pages _ => false

/-- The holdings that `f` selects end; a translation that nobody holds is forgotten (11 R318). -/
def State.dropUse (s : State) (f : Space × Nat × Who → Bool) : State :=
  if s.xl.ents.isEmpty && s.xl.users.isEmpty then s
  else
    let us := s.xl.users.filter fun u => !f u
    s.modXl fun x =>
      { x with users := us, ents := x.ents.filter fun e => (us.any fun u => u.1 == e.sp && u.2.1 == e.page) || s.pinHolds e.sp e.page }

/-- Those whom `f` selects hold no translation any more (11 R318). -/
def State.dropX (s : State) (f : Who → Bool) : State := s.dropUse fun u => f u.2.2

/-- Object `n` is accessible to function `v` (11 R298). -/
def State.accessible (s : State) (v n : Nat) (write : Bool) : Bool :=
  let o := s.obj n
  s.bound v && s.bindPart v == o.part && (o.vf == v || (o.sharedRo && !write))

/-- The issue checks of an object name (06 R159, 11 R297) in table order: the status, 0 when none fails. -/
def State.nameStatus (s : State) (v n : Nat) (write : Bool) : Nat :=
  match (s.obj n).st with
  | .free => 0x18
  | .released => 0x13
  | .opened => if s.accessible v n write then 0 else 0x18
  | .closing => if s.accessible v n write then 0x13 else 0x18

/-- Release object `n` (11 R311): pins end, published and retiring storage returns, the number becomes RELEASED. -/
def State.releaseObj (s : State) (n : Nat) : State :=
  let o := s.obj n
  let pages := o.exts.flatMap fun e => match e.store with
    | .pages l => l
    | .host _ => []
  let old := (s.sto.retiring.filter fun r => r.obj == n).flatMap (·.pages)
  let s := (s.freePages pages).freePages old
  let s := s.modSto fun m => { m with retiring := m.retiring.filter fun r => r.obj != n }
  let s := s.modPart o.part fun p => { p with pins := p.pins.filter fun x => x.obj != n }
  let s := s.modObj n fun o => { st := .released, vf := o.vf, pf := o.pf }
  { s with objs := { s.objs with released := s.objs.released ++ [n] } }

/-- An object that is CLOSING with no reference held is released (11 R311). -/
def State.settleObj (s : State) (n : Nat) : State :=
  if (s.obj n).st = .closing && (s.obj n).held = 0 then s.releaseObj n else s

/-- The task's first naming of object `n` draws a reference (06 R160, 01 R20). -/
def State.drawRef (s : State) (r n : Nat) : State :=
  if (s.task r).refs.contains n then s
  else (s.modTask r fun t => { t with refs := t.refs ++ [n] }).modObj n fun o => { o with held := o.held + 1 }

/-- Return the references of a task (01 R19). -/
def State.dropRefs (s : State) (r : Nat) : State :=
  let l := (s.task r).refs
  (s.modTask r fun t => { t with refs := [] }).each l fun u n =>
    (u.modObj n fun o => { o with held := o.held - 1 }).settleObj n

/-! ### Reading -/

/-- The draft covers a page of an object; one whose extent has been removed covers nothing (11 R316). -/
def Draft.hasPage (d : Draft) (n pg : Nat) : Bool := d.obj == n && d.off ≤ pg && pg < d.off + d.len && !d.lost

/-- The draft of the task that covers a page of an object. -/
def Task.draftAt (t : Task) (n pg : Nat) : Option Draft := t.drafts.find? fun d => d.hasPage n pg

/-- What backs the byte `i` further on in the same page. -/
def Backing.add (i : Nat) : Backing → Backing
  | .loc l => .loc (l.add i)
  | .host sp a => .host sp (a + i)
  | b => b

/-- What backs byte `o` of a published extent, a hole otherwise (11 R304). -/
def State.pubBacking (s : State) (n o : Nat) : Backing :=
  let ob := s.obj n
  match ob.extAt (o / 4096) with
  | none => if ob.isHost then .hole else .zero
  | some e => match e.store with
    | .pages l => match l[o / 4096 - e.off]? with
      | some p => .loc (p.loc (o % 4096))
      | none => .zero
    | .host iova => .host (s.objSpace ob) (iova + (o - e.off * 4096))

/-- What backs byte `o` for task `t`, whose published bytes `pub` backs (04 R111, 11 R306, R307): its own draft first. -/
def Task.backingOn (t : Task) (n o : Nat) (pub : Backing) : Backing :=
  let pg := o / 4096
  match t.draftAt n pg with
  | none => pub
  | some d =>
    let i := pg - d.off
    match d.kind with
    | .host => if d.gran.contains (o / 64) then match Tab.find? d.pages i with
        | some p => .loc (p.loc (o % 4096))
        | none => pub
      else pub
    | .cow => if d.touched.contains i then match Tab.find? d.pages i with
        | some p => .loc (p.loc (o % 4096))
        | none => .zero
      else match d.src[i]? with
        | some p => .loc (p.loc (o % 4096))
        | none => .zero
    | _ => match Tab.find? d.pages i with
      | some p => .loc (p.loc (o % 4096))
      | none => .zero

/-- What backs byte `o` for task `t` now. -/
def State.backing (s : State) (t : Task) (n o : Nat) : Backing := t.backingOn n o (s.pubBacking n o)

/-- The byte that a backing holds; `none` is poison. -/
def State.backByte (s : State) : Backing → Option Byte
  | .zero => some 0
  | .loc l => s.readLoc l
  | .host sp a => (s.reach sp a).bind s.readLoc
  | .hole => none

/-- A byte of an object as task `t` reads it, where `pub` backs its published bytes. An unwritten scratch byte is zero or
what the byte holds (06 R167). -/
def State.taskByteOn (s : State) (t : Task) (n o : Nat) (pub : Backing) : Option Byte :=
  if (s.obj n).scratch && !(t.scr.any fun x => x.1 == n && x.2.1 ≤ o && o < x.2.1 + x.2.2) &&
      Config.scratchZero (s.freeCtr + o) then some 0
  else s.backByte (t.backingOn n o pub)

/-- A byte of an object as task `t` reads it now. -/
def State.taskByte (s : State) (t : Task) (n o : Nat) : Option Byte := s.taskByteOn t n o (s.pubBacking n o)

/-- Bytes of an object as task `t` reads them. -/
def State.taskRead (s : State) (t : Task) (n o len : Nat) : List (Option Byte) :=
  (List.range len).map fun i => s.taskByte t n (o + i)

/-- Published bytes of an object, as a peer reads them (11 R324). -/
def State.pubRead (s : State) (n o len : Nat) : List (Option Byte) :=
  (List.range len).map fun i => s.backByte (s.pubBacking n (o + i))

/-- COUNT of a PART_EXTENTS value (02 R52). -/
def extCount (x : W64) : Nat := fld x 52 32

/-- Some byte of the range lies in an extent whose index is at or above its partition's COUNT (02 R51, 11 R303). -/
def State.beyondRange (s : State) (n o len : Nat) : Bool :=
  (s.obj n).exts.zipIdx.any fun e => e.1.off * 4096 < o + len && o < (e.1.off + e.1.len) * 4096 &&
    decide (extCount (s.part (s.obj n).part).extents ≤ (s.obj n).run + e.2)

/-- Some byte of the range has no translation: it lies in a hole of a HOST object (11 R304), or in an extent beyond its
partition's range (02 R51). -/
def State.inHole (s : State) (n o len : Nat) : Bool :=
  ((s.obj n).isHost && (pageChunks o len).any fun c => ((s.obj n).extAt (c.1 / 4096)).isNone) || s.beyondRange n o len

/-- What the pages of a range resolve to, with the bytes of each (11 R317); a byte without a translation is a hole. -/
def State.resolve (s : State) (n o len : Nat) : List (Backing × Nat) :=
  (pageChunks o len).map fun c => (if s.inHole n c.1 c.2 then .hole else s.pubBacking n c.1, c.2)

/-- The host ranges that a read of a range by task `t` touches, page by page. -/
def State.hostSegs (s : State) (t : Task) (n o len : Nat) : List (Space × Nat × Nat) :=
  (pageChunks o len).filterMap fun c => match s.backing { t with drafts := t.drafts.filter fun d => d.kind != .host } n c.1 with
    | .host sp a => some (sp, a, c.2)
    | _ => none

/-- How preparing an access ends: done, wait for a host or for draft space, or fail the task with a status. -/
inductive Prep where
  | ok (s : State)
  | wait (s : State)
  | fail (s : State) (status : Nat)

/-- Some page of a resolved range lies in package memory outside partition `n`'s pool (11 R323). -/
def State.poolBadOn (s : State) (n : Nat) (l : List (Backing × Nat)) : Bool :=
  let (b, k) := s.pool n
  l.any fun x => match x.1 with
    | .loc (.pkg a) => a / 4096 < b || b + k ≤ a / 4096
    | _ => false

/-- A published page of a range lies in package memory outside its partition's pool (11 R323). -/
def State.poolBad (s : State) (n o len : Nat) : Bool := s.poolBadOn (s.obj n).part (s.resolve n o len)

/-- The host ranges that have been read for whoever asked and not been used yet (12 R329, R330). -/
def State.gotOf (s : State) : Who → List (Space × Nat × Nat)
  | .op r _ k => match Tab.get none (s.task r).win k with
    | some o => o.got
    | none => (s.task r).got
  | .prog r _ => (s.task r).got
  | .port id => ((s.xl.waiting.find? fun j => j.id == id).map (·.got)).getD []
  | _ => []

/-- Change the host ranges that have been read for whoever asked. -/
def State.modGot (s : State) (w : Who) (f : List (Space × Nat × Nat) → List (Space × Nat × Nat)) : State := match w with
  | .op r _ k => s.modTask r fun t => match Tab.get none t.win k with
    | some o => { t with win := Tab.set none t.win k (some { o with got := f o.got }) }
    | none => { t with got := f t.got }
  | .prog r _ => s.modTask r fun t => { t with got := f t.got }
  | .port id => s.modXl fun x => { x with waiting := x.waiting.map fun j => if j.id = id then { j with got := f j.got } else j }
  | _ => s

/-- Bring host ranges to the VAI for whoever asks, page by page: translations, then the bytes (11 R317, R321). A range
read for this access is not read again; a peer's memory answers at once, with free bytes. -/
def State.fetchPages (s : State) (who : Who) : List (Space × Nat × Nat) → Prep
  | [] => .ok s
  | (sp, a, len) :: t => match s.tryRange who sp a len false with
    | (u, .fail) => .fail u 0x12
    | (u, .wait) => .wait u
    | (u, .ok _) =>
      if (u.gotOf who).contains (sp, a, len) then u.fetchPages who t
      else match u.reach sp a with
        | some .refused => .fail u.ctxRefuse 0x18
        | some (.host _ x) =>
          if u.xl.fails.contains (who, .read sp a len) then .fail (u.dropFail who (.read sp a len)) 0x12
          else if u.xl.reqs.any fun q => q.who == who && q.kind == .read sp a len then .wait u
          else .wait (u.issueReq sp.port (.read sp a len) who x)
        | some (.peer _ dev x) =>
          ((((u.handshakes 4 (dev % 8) 1).send (.deviceRead (dev % 8) dev x len)).nextFree).modGot who fun g => g ++ [(sp, a, len)]).fetchPages who t
        | _ => u.fetchPages who t

/-- Ranges of host memory cut into pages. -/
def segPages (l : List (Space × Nat × Nat)) : List (Space × Nat × Nat) :=
  l.flatMap fun g => (pageChunks g.2.1 g.2.2).map fun c => (g.1, c.1, c.2)

/-- Bring host ranges to the VAI for whoever asks. -/
def State.fetchSegs (s : State) (who : Who) (l : List (Space × Nat × Nat)) : Prep := s.fetchPages who (segPages l)

/-- Prepare a read of a range by record `r` (06 R159: a hole of a HOST object ends with 0x12; 13 R368: an uncorrectable
entry ends with 0x17). -/
def State.prepRead (s : State) (who : Who) (r n o len : Nat) : Prep :=
  if (s.obj n).lostAt o len then .fail s 0x17
  else if s.inHole n o len then .fail s 0x12
  else if s.poolBad n o len then .fail s.ctxRefuse 0x18
  else s.fetchSegs who (s.hostSegs (s.task r) n o len)

/-- The statuses of data that was read: 0x17 when a byte is poisoned (01 R36), else 0. -/
def poisonStatus (l : List (Option Byte)) : Nat := if l.any Option.isNone then 0x17 else 0

/-- The storage word of a location, by its Waystation or package-memory address (13 R355). -/
def Loc.stored : Loc → Option Nat
  | .ws a => some (a / 32 * 32)
  | .pkg a => some (a / 32 * 32)
  | _ => none

/-- The bytes of a page. -/
def PageRef.locs (p : PageRef) : List Loc := (List.range 4096).map p.loc

/-- The bytes of a host draft's granules. -/
def Draft.granLocs (d : Draft) : List Loc := d.gran.flatMap fun g => match Tab.find? d.pages (g / 64 - d.off) with
  | some p => (List.range 64).map fun b => p.loc (g * 64 % 4096 + b)
  | none => []

/-- The first poisoned storage word among locations (13 R355), or zero. -/
def State.badAmong (s : State) (l : List Loc) : Nat := ((l.find? fun x => (s.readLoc x).isNone).bind Loc.stored).getD 0

/-- The poisoned storage word that record `r` meets first as it reads ranges of objects becomes the DETAIL of its status
(13 R355); zero where it is no Waystation or package-memory word. -/
def State.noteBad (s : State) (r : Nat) (l : List (W64 × Nat)) : State :=
  let t := s.task r
  let hit (n o : Nat) : Option Nat := if (s.taskByte t n o).isSome then none else some ((match s.backing t n o with
    | .loc x => x.stored
    | _ => none).getD 0)
  s.modTask r fun t => { t with badAt := (l.findSome? fun x =>
    (List.range x.2).findSome? fun i => hit (orNum x.1) (orOff x.1 + i)).getD 0 }

/-- Bytes with poison taken as zero, for use after `poisonStatus` was tested. -/
def plain (l : List (Option Byte)) : List Byte := l.map fun b => b.getD 0

/-! ### Writing -/

/-- The pages of the new extent that a write to page `pg` of a hole creates: first page and number (11 R305). -/
def Obj.newRegion (o : Obj) (pg : Nat) : Nat × Nat :=
  let w := if o.kv then o.slotPg else 16
  let a := pg / w * w
  let lo := o.exts.foldl (fun m e => if e.off + e.len ≤ pg then max m (e.off + e.len) else m) a
  let hi := o.exts.foldl (fun m e => if pg < e.off then min m e.off else m) (min (a + w) o.reservedPg)
  (lo, hi - lo)

/-- Copy a page, poison marks included. -/
def State.copyPage (s : State) (src dst : PageRef) : State :=
  s.each (List.range 4096) fun u i => u.writeLoc (dst.loc i) (s.readLoc (src.loc i))

/-- Extents of object `n` that the task's drafts would add. -/
def Task.newDrafts (t : Task) (n : Nat) : Nat := (t.drafts.filter fun d => d.obj == n && d.kind == .new).length

/-- A page table of drafts from a list of pages. -/
def pageTab : Nat → List PageRef → Tab PageRef
  | _, [] => []
  | i, p :: t => (i, p) :: pageTab (i + 1) t

/-- Change the draft of record `r` that covers a page. -/
def State.modDraft (s : State) (r n pg : Nat) (g : Draft → Draft) : State :=
  s.modTask r fun t => { t with drafts := t.drafts.map fun d => if d.hasPage n pg then g d else d }

/-- Zero a list of pages. -/
def State.zeroPages (s : State) (l : List PageRef) : State := s.each l State.zeroPage

/-- Make the draft of record `r` for page `pg` of object `n`, which no draft covers (11 R305 to R307, 06 R163). In a
Verkai partition published bytes are written in place (04 R129), so only holes get one. -/
def State.makeDraft (s : State) (r n pg : Nat) (inPlace : Bool) : Prep :=
  let o := s.obj n
  match o.extAt pg with
  | some e =>
    if inPlace then .ok s else
    match e.store with
    | .host iova =>
      .ok (s.modTask r fun t => { t with drafts := t.drafts ++ [⟨n, e.off, e.len, .host, [], [], iova, [], [], false⟩] })
    | .pages l =>
      match s.allocPages o.part o.place (s.wsKeep o.part) e.len with
      | none => .wait s
      | some (ps, u) =>
        .ok (u.modTask r fun t => { t with drafts := t.drafts ++ [⟨n, e.off, e.len, .cow, pageTab 0 ps, l, 0, [], [], false⟩] })
  | none =>
    if o.isHost || o.scratch then .fail s 0x12
    else if o.extMax < o.exts.length + (s.task r).newDrafts n + 1 then .fail s 0x12
    else
      let (lo, k) := o.newRegion pg
      match s.allocPages o.part o.place (s.wsKeep o.part) k with
      | none => .wait s
      | some (ps, u) =>
        .ok ((u.zeroPages ps).modTask r fun t =>
          { t with drafts := t.drafts ++ [⟨n, lo, k, .new, pageTab 0 ps, [], 0, [], [], false⟩] })

/-- Ready a draft for a write of `len` bytes at `o`, inside one page: copy the page first (11 R306.3), allocate the page of
a host draft and record its granules (R307), or lengthen a replacement draft to the page (R308). A granule is written back whole, so the bytes of it that the
task does not write are the host's (DEDUCED, log 17). -/
def State.touchDraft (s : State) (r n o len : Nat) : Prep :=
  let pg := o / 4096
  match (s.task r).draftAt n pg with
  | none => .ok s
  | some d =>
    let i := pg - d.off
    match d.kind with
    | .cow =>
      if d.touched.contains i then .ok s
      else match Tab.find? d.pages i, d.src[i]? with
        | some p, some q => .ok ((s.copyPage q p).modDraft r n pg fun d => { d with touched := insertRising d.touched i })
        | _, _ => .ok s
    | .host =>
      let grans := (List.range ((o % 4096 + len - 1) / 64 - o % 4096 / 64 + 1)).map fun g => o / 64 + g
      let page : Option (PageRef × State) := match Tab.find? d.pages i with
        | some p => some (p, s)
        | none => (s.allocPage (s.obj n).part 3 (s.wsKeep (s.obj n).part)).map fun x =>
            (x.1, x.2.modDraft r n pg fun d => { d with pages := Tab.put d.pages i x.1 })
      match page with
      | none => .wait s
      | some (p, u) =>
        let u := u.each (grans.filter fun g => !d.gran.contains g) fun v g =>
          v.each (List.range 64) fun w b => w.writeLoc (p.loc (g * 64 % 4096 + b)) (s.backByte (s.pubBacking n (g * 64 + b)))
        .ok (u.modDraft r n pg fun d => { d with gran := grans.foldl insertRising d.gran })
    | .repl =>
      let cnt0 := d.pages.length
      match s.allocPages (s.obj n).part (s.obj n).place (s.wsKeep (s.obj n).part) (i + 1 - cnt0) with
      | none => .wait s
      | some (ps, u) => .ok ((u.zeroPages ps).modDraft r n pg fun d => { d with pages := d.pages ++ pageTab cnt0 ps })
    | .new => .ok s

/-- A page that an evacuation found no place for: it stands in a retired bank (13 R366). -/
def State.lostPage (s : State) : Backing → Bool
  | .loc (.ws a) => (s.chan (ckey 3 (a / 33554432))).retired
  | _ => false

/-- Prepare one page's worth of a write of record `r`, whose published bytes `pub` backs. In a Verkai partition bytes that
have storage are written in place (04 R129), and so are those of a SCRATCH object, but for a page that an evacuation found no
place for, a write to which creates a draft (13 R366); where the extent has been removed since the operation resolved it, the write
goes into a draft that nothing keeps (11 R316). -/
def State.prepChunk (s : State) (r n o len : Nat) (inPlace : Bool) (pub : Backing) : Prep :=
  let placed := match pub with
    | .loc _ => true
    | .host _ _ => true
    | _ => false
  let drafted := s.lostPage pub || ((s.task r).draftAt n (o / 4096)).isSome
  if (s.obj n).scratch && !placed then .fail s 0x12
  else if (s.obj n).scratch && !drafted then .ok s
  else if placed && ((inPlace && !drafted) || ((s.obj n).isHost && ((s.obj n).extAt (o / 4096)).isNone)) then .ok s
  else match (match (s.task r).draftAt n (o / 4096) with
      | some _ => Prep.ok s
      | none => s.makeDraft r n (o / 4096) (inPlace && !s.lostPage pub)) with
    | .ok u => u.touchDraft r n o len
    | x => x

/-- Prepare the resolved pages of a write in order. -/
def State.prepChunks (s : State) (r n : Nat) (inPlace : Bool) : Nat → List (Backing × Nat) → Prep
  | _, [] => .ok s
  | o, (b, k) :: t => match s.prepChunk r n o k inPlace b with
    | .ok u => u.prepChunks r n inPlace (o + k) t
    | x => x

/-- The 64-byte granules that a write covers in part and that the task has not written yet: the host's bytes of them are
read first, since a granule is written back whole (R307; DEDUCED, log 17). -/
def State.partGrans (s : State) (r n o len : Nat) : List Nat :=
  if len = 0 then []
  else (if o / 64 = (o + len - 1) / 64 then [o / 64] else [o / 64, (o + len - 1) / 64]).filter fun g =>
    !(o ≤ g * 64 && g * 64 + 64 ≤ o + len) && !(((s.task r).draftAt n (g / 64)).any fun d => d.gran.contains g)

/-- Obtain write permission for host ranges. -/
def State.tryWrites (s : State) (who : Who) : List (Space × Nat × Nat) → Prep
  | [] => .ok s
  | (sp, a, n) :: l => match s.tryRange who sp a n true with
    | (u, .fail) => .fail u 0x12
    | (u, .wait) => .wait u
    | (u, .ok _) => if u.ctxBad sp a n then .fail u.ctxRefuse 0x18 else u.tryWrites who l

/-- The host ranges among resolved pages. -/
def hostPart (l : List (Backing × Nat)) : List (Space × Nat × Nat) := l.filterMap fun x => match x.1 with
  | .host sp a => some (sp, a, x.2)
  | _ => none

/-- Prepare a write of record `r` to a range that has been resolved: rights to the host's pages for host bytes in place,
drafts otherwise. -/
def State.prepWriteOn (s : State) (who : Who) (r n o len : Nat) (res : List (Backing × Nat)) : Prep :=
  let inPlace := s.verkai (s.task r).part
  if (s.obj n).lostAt o len then .fail s 0x17
  else if res.any fun x => x.1 == .hole then .fail s 0x12
  else if s.poolBadOn (s.obj n).part res then .fail s.ctxRefuse 0x18
  else match (if inPlace then s.tryWrites who (hostPart res)
      else s.fetchSegs who ((s.partGrans r n o len).flatMap fun g => s.hostSegs (s.task r) n (g * 64) 64)) with
    | .ok u => u.prepChunks r n inPlace o res
    | x => x

/-- Prepare a write of a range by record `r` as it resolves now. -/
def State.prepWrite (s : State) (who : Who) (r n o len : Nat) : Prep := s.prepWriteOn who r n o len (s.resolve n o len)

/-- Put bytes of one page where a backing leads; host bytes are sent to the host. -/
def State.putBack (s : State) (data : List (Option Byte)) : Backing → State
  | .loc l => s.writeRange l data
  | .host sp a => s.hostWriteP sp a data
  | _ => s

/-- What a prepared write of record `r` to byte `o` goes to: its draft, or in place. -/
def State.writeBacking (s : State) (r n o : Nat) (pub : Backing) : Backing :=
  match (s.task r).draftAt n (o / 4096) with
  | some d => match Tab.find? d.pages (o / 4096 - d.off) with
    | some p => .loc (p.loc (o % 4096))
    | none => .hole
  | none => if s.verkai (s.task r).part || (s.obj n).scratch then pub else .hole

/-- Put the bytes of a prepared write, resolved page by resolved page. -/
def State.putChunks (s : State) (r n : Nat) : Nat → List (Backing × Nat) → List (Option Byte) → State
  | _, [], _ => s
  | o, (b, k) :: t, data => (s.putBack (data.take k) (s.writeBacking r n o b)).putChunks r n (o + k) t (data.drop k)

/-- Read-buffer entries of a task that a write to a range of an object touches serve no more (12 R329). -/
def State.touchBuf (s : State) (r gen n o len : Nat) : State :=
  { s with rbuf := s.rbuf.filter fun x => !(x.r == r && x.gen == gen && x.obj == n && x.off < o + len && o < x.off + x.data.length) }

/-- The read buffers of a task are emptied (12 R329). -/
def State.dropBuf (s : State) (r gen : Nat) : State := { s with rbuf := s.rbuf.filter fun x => !(x.r == r && x.gen == gen) }

/-- A write to published bytes in place, as a peer makes it (11 R324). -/
def State.peerWrite (s : State) (n o : Nat) (data : List Byte) : State :=
  ((s.resolve n o data.length).foldl (fun (x : State × List (Option Byte)) c => (x.1.putBack (x.2.take c.2) c.1, x.2.drop c.2))
    (s, data.map some)).1

/-! ### Drafts given up and published -/

/-- The pages a draft holds. -/
def Draft.own (d : Draft) : List PageRef := d.pages.map (·.2)

/-- Discard the drafts of a task (06 R164, 04 R115). -/
def State.dropDrafts (s : State) (r : Nat) : State :=
  let l := (s.task r).drafts.flatMap Draft.own
  (s.modTask r fun t => { t with drafts := [] }).freePages l

/-- Extents in ascending order. -/
def insertExt (e : Ext) : List Ext → List Ext
  | [] => [e]
  | x :: t => if x.off < e.off then x :: insertExt e t else e :: x :: t

/-- Put an extent in the object's run in place of the extents that meet pages `lo` to `hi`; the storage those held
becomes retiring (11 R309). -/
def State.setExt (s : State) (n lo hi : Nat) (e : Ext) : State :=
  let o := s.obj n
  let gone := o.exts.filter fun x => x.off < hi && lo < x.off + x.len
  let pages := gone.flatMap fun x => match x.store with
    | .pages l => l
    | .host _ => []
  let s := s.modObj n fun o => { o with exts := insertExt e (o.exts.filter fun x => !(x.off < hi && lo < x.off + x.len)) }
  if pages.isEmpty then s
  else (s.modSto fun m => { m with retiring := m.retiring ++ [⟨n, o.part, pages, s.stamp⟩] }).nextStamp

/-- Write back the granules of a host draft (06 R165); a granule that cannot be translated is left, and the status
0x12 is met; poisoned granules are sent poisoned, and 0x17 is met (13 R363). A granule refused for its context is not
written, is counted, and gives 0x18 as the status met (11 R323; DESIGN CHOICE, log 118). -/
def State.writeBack (s : State) (n : Nat) (d : Draft) : List Nat → State × Nat
  | [] => (s, 0)
  | g :: t =>
    let o := s.obj n
    match o.extAt (g / 64) with
    | none => s.writeBack n d t
    | some e => match e.store, Tab.find? d.pages (g / 64 - d.off) with
      | .host iova, some p =>
        let sp := s.objSpace o
        let a := iova + (g * 64 - e.off * 4096)
        let data := (List.range 64).map fun b => s.readLoc (p.loc (g * 64 % 4096 + b))
        let ok := (s.func sp.fk).atsEn && (match s.findX sp (a / 4096) with
          | some x => x.w
          | none => false)
        let u := if !ok then s else if s.ctxBad sp a 64 then s.ctxRefuse else s.hostWriteP sp a data
        let st := if !ok then 0x12 else if s.ctxBad sp a 64 then 0x18 else poisonStatus data
        let (v, rest) := u.writeBack n d t
        (v, if st = 0 then rest else st)
      | _, _ => s.writeBack n d t

/-- Publish one draft (06 R164 to R166, 11 R306 to R309): untouched pages are copied first. -/
def State.publishDraft (s : State) (d : Draft) : State × Nat :=
  match d.kind with
  | .host =>
    let (u, st) := s.writeBack d.obj d d.gran
    (u.freePages d.own, st)
  | .cow =>
    let u := s.each (List.range d.len) fun u i => if d.touched.contains i then u else
      match Tab.find? d.pages i, d.src[i]? with
      | some p, some q => u.copyPage q p
      | _, _ => u
    (u.setExt d.obj d.off (d.off + d.len) { off := d.off, len := d.len, store := .pages d.own }, 0)
  | .new => (s.setExt d.obj d.off (d.off + d.len) { off := d.off, len := d.len, store := .pages d.own }, 0)
  | .repl => (s.setExt d.obj d.off (d.off + (s.obj d.obj).slotPg) { off := d.off, len := d.pages.length, store := .pages d.own }, 0)

/-- In a Verkai partition a write into a hole below the published length is in place at once (04 R129): the new extent
enters the object's run. Beyond it the bytes wait for a PUBLISH to extend the length (06 R182; DEDUCED, log 119). -/
def State.settleHoles (s : State) (r n : Nat) : State :=
  let inside (d : Draft) : Bool := d.obj == n && d.kind == .new && d.off < (s.obj n).publishedPg
  ((s.task r).drafts.filter inside).foldl (fun u d => (u.publishDraft d).1)
    (s.modTask r fun t => { t with drafts := t.drafts.filter fun d => !inside d })

/-- A prepared write of record `r` to a resolved range: the bytes, the read-buffer entries that it touches, and the scratch
bytes that it has now written (06 R167). -/
def State.taskWriteOn (s : State) (r n o : Nat) (res : List (Backing × Nat)) (data : List (Option Byte)) : State :=
  let u := (s.putChunks r n o res data).touchBuf r (s.task r).gen n o data.length
  let u := if s.verkai (s.task r).part then u.settleHoles r n else u
  if (s.obj n).scratch && !data.isEmpty then u.modTask r fun t => { t with scr := t.scr ++ [(n, o, data.length)] } else u

/-- A prepared write of record `r` to a range as it resolves now. -/
def State.taskWrite (s : State) (r n o : Nat) (data : List (Option Byte)) : State :=
  s.taskWriteOn r n o (s.resolve n o data.length) data

/-- A draft meets a byte range of its object. -/
def Draft.meets (d : Draft) (n off len : Nat) : Bool :=
  d.obj == n && d.off * 4096 < off + len && off < (d.off + d.len) * 4096

/-- Publish the drafts that a list of published ranges meets and discard the others (06 R164); the first commit-time
status met (04 R451). -/
def State.publishAll (s : State) (r : Nat) (ranges : List (Nat × Nat × Nat)) : State × Nat :=
  let ds := (s.task r).drafts
  let s := s.modTask r fun t => { t with drafts := [] }
  ds.foldl (fun x d =>
    if !d.lost && ranges.any fun g => d.meets g.1 g.2.1 g.2.2 then
      let (u, st) := x.1.publishDraft d
      (u, if x.2 = 0 then st else x.2)
    else (x.1.freePages d.own, x.2)) (s, 0)

end Sys2Proof.Machine
end

