-- ==== Sys2Proof/Machine/Ports.lean ====
section
/-! DEFINITION. Engine ports, their forward channels, resets and step times (07 R195 to R214), and how a dispatch is
found, stopped and settled. -/

namespace Sys2Proof.Machine

/-- The enabled partition that owns engine port `k`. -/
def State.portPart (s : State) (k : Nat) : Option Nat :=
  firstBelow (fun n => s.enabled n && bit (s.part n).engines k) 64

/-- PGEN that a message of port `k` carries: 0 for a port of no enabled partition. -/
def State.portPgen (s : State) (k : Nat) : Nat := match s.portPart k with
  | some n => (s.part n).pgen
  | none => 0

/-- Offer a message on the forward channel of port `k`, behind those not yet latched (07 R198). -/
def State.forward (s : State) (k kind dtag : Nat) (hdr pay0 pay1 : W64) : State :=
  let m : FwdMsg := { hdr := hdr, pgen := s.portPgen k, egen := (s.eport k).egen, dtag := dtag, kind := kind, pay0 := pay0, pay1 := pay1 }
  s.modPort k fun e => { e with fwd := e.fwd ++ [m], lastTag := if kind = 0 ∨ kind = 1 then dtag else e.lastTag }

/-- Send IDENT_REQ to an enabled port once ENGINES is set (07 R200, 14 R384, R385). -/
def State.sendIdentReq (s : State) (k : Nat) : State :=
  if s.latch.engines && (s.eport k).enable && !(s.eport k).retired then
    (s.modPort k fun e => { e with asked := true }).forward k 4 0 0 0 0
  else s

/-- Ceiling division. -/
def ceilDiv (a b : Nat) : Nat := (a + b - 1) / b

/-- STEP_NS and END_NS of a partition (07 R209; doubled own terms in dim mode, 14 R388). -/
def State.stepTimes (s : State) (n : Nat) : Nat × Nat :=
  let ps := s.portsOf n
  let us := ps.filter fun k => (s.eport k).usable
  let f := if s.latch.dim then 2 else 1
  if us.isEmpty then (0, 0) else
    (max (us.foldl (fun m k => max m (fld (s.eport k).ident 31 16)) 0) (f * ceilDiv (8 + 16 * ps.length) 6) + f * 4,
     us.foldl (fun m k => max m (fld (s.eport k).ident 15 0)) 0 + f * 20)

/-- Recompute PART_STEP of partition `n` (07 R213). -/
def State.recomputeStep (s : State) (n : Nat) : State :=
  let t := s.stepTimes n
  s.modPart n fun p => { p with stepNs := t.1, endNs := t.2 }

/-- The partitions whose PART_ENGINES names port `k`, enabled or not. -/
def State.portParts (s : State) (k : Nat) : List Nat := (s.parts.filter fun e => bit e.2.engines k).map (·.1)

/-- Recompute PART_STEP of the partitions of port `k` (07 R213). -/
def State.recomputePort (s : State) (k : Nat) : State := s.each (s.portParts k) State.recomputeStep

/-- The weight set of the partition of port `k` is resident no more (08 R229). -/
def State.wsLost (s : State) (k : Nat) : State := match s.portPart k with
  | some n => s.modPart n fun p => { p with wsValid := false }
  | none => s

/-- EGEN of port `k` increments (07 R199). -/
def State.newEgen (s : State) (k : Nat) : State := s.modPort k fun e => { e with egen := (e.egen + 1) % 65536 }

/-- Send CLEAR to port `k` (07 R199, R207; 08 R226, R229): EGEN increments once, the record of the VF last run empties,
PART_WSET.VALID clears, and the port offers no credit until CLEAR_DONE. -/
def State.clearPort (s : State) (k : Nat) : State :=
  ((((s.newEgen k).modPort k fun e => { e with clearing := true, lastVf := none }).forward k 3 0 0 0 0).wsLost k).recomputePort k

/-- Mark port `k` as gone from a dispatch: its credits have returned and no reply of it is awaited (07 R205, R208). -/
def Disp.losePort (d : Disp) (k : Nat) : Disp :=
  if !d.running && !d.stopping then d
  else { d with lps := d.lps.map fun l => if l.port = k then { l with accepted := l.offered, lastAcc := true, wdone := true, acked := true, posts := [] } else l }

/-- Every credit of port `k` returns at once (07 R208). -/
def State.losePort (s : State) (k : Nat) : State :=
  (s.modPort k fun e => { e with held := 0 }).each (s.parts.map (·.1)) fun u n =>
    u.modPart n fun p => { p with seqr := p.seqr.map fun d => d.losePort k }

/-- The port is inert (00 R11; 14 R384): it is disabled, or ENGINES is 0, and nothing is sent to it. -/
def State.inertPort (s : State) (k : Nat) : Bool := !(s.latch.engines && (s.eport k).enable)

/-- Reset port `k` (07 R199, R200, R208): credits return, EGEN increments, and a port that is not inert receives CLEAR
and identifies itself again (00 R11; log 103). -/
def State.resetPort (s : State) (k : Nat) : State :=
  let t := (s.losePort k).modPort k fun e => { e with identified := false, asked := false }
  if s.inertPort k then (t.newEgen k).recomputePort k else (t.clearPort k).sendIdentReq k

/-- The position of the dispatch of partition `n` that `f` selects. -/
def State.dispIdx (s : State) (n : Nat) (f : Disp → Bool) : Option Nat := (s.part n).seqr.findIdx? f

/-- Change the dispatch at a position of partition `n`'s sequencer. -/
def State.modDisp (s : State) (n i : Nat) (g : Disp → Disp) : State :=
  s.modPart n fun p => { p with seqr := modAt g i p.seqr }

/-- A stopped dispatch is drained once every port has answered (07 R205). -/
def Disp.drained (d : Disp) : Bool := d.stopping && d.lps.all fun l => l.wdone && l.acked

/-- The sequencer uses port `k` for the dispatch of `l`, or may use it (07 R200). -/
def State.usesPort (s : State) (l : LPort) : Bool := l.cb || (s.eport l.port).usable

/-- Stop a dispatch, running or waiting for its turn (07 R205): no further fetch or offer, and ABANDON to every logical
port. A port that is not usable and has received nothing of the dispatch is used for nothing (07 R200; log 104): it
gets no ABANDON and owes no answer. -/
def State.stopDisp (s : State) (n i : Nat) : State :=
  match (s.part n).seqr[i]? with
  | none => s
  | some d =>
    if d.stopping then s
    else
      let free (l : LPort) : LPort := if s.usesPort l then l else { l with wdone := true, acked := true }
      let s := s.modDisp n i fun d => { d with stopping := true, fetched := [], lps := d.lps.map free }
      s.each (d.lps.filter fun l => s.usesPort l && !l.acked) fun u l => u.forward l.port 2 d.dtag 0 0 0

/-- Send a dispatch's engine constant buffer to one of its ports (07 R196). -/
def State.sendCbuf (s : State) (n i k : Nat) : State :=
  match (s.part n).seqr[i]? with
  | none => s
  | some d =>
    let s := s.modDisp n i fun d => { d with lps := d.lps.map fun l => if l.port = k then { l with cb := true } else l }
    s.each (List.range 16) fun u w => u.forward k 1 d.dtag (BitVec.ofNat 64 w) (d.cbuf.getD (2 * w) 0) (d.cbuf.getD (2 * w + 1) 0)

/-- The sequencer turns to its oldest started dispatch that has not been stopped when none runs (06 R171; 07 R196): every
usable port receives the engine constant buffer, a port that is not usable receives it before its first bundle. -/
def State.runNext (s : State) (n : Nat) : State :=
  if (s.part n).seqr.any (·.running) then s
  else match s.dispIdx n fun d => !d.stopping with
    | none => s
    | some i =>
      let lps := (((s.part n).seqr[i]?).map (·.lps)).getD []
      (s.modDisp n i fun d => { d with running := true }).each (lps.filter fun l => (s.eport l.port).usable) fun u l =>
        u.sendCbuf n i l.port

/-- Free the window slot of an operation that has drained. -/
def State.freeSlot (s : State) (r slot : Nat) : State :=
  let g := (s.task r).gen
  (s.modTask r fun t => { t with win := Tab.set none t.win slot none }).dropX (· == .op r g slot)

/-- A stopped dispatch that has drained gives back its MTU credit and its operation's slot (07 R205.4), and the
engine-port credits that no message returned (07 R199); a stopped convoy's lost members free their slots. -/
def State.endStop (n : Nat) (s : State) (d : Disp) : State :=
  let s := (s.modMtu d.mtu (· - 1)).each d.lps fun u l => u.modPort l.port fun e => { e with held := e.held - (l.offered - l.accepted) }
  match d.owner with
  | .task r gen slot => if (s.task r).gen = gen then s.freeSlot r slot else s.mismatch
  | .convoy => s.modPart n fun p => { p with cvy := { p.cvy with run := none, members := p.cvy.members.filter fun e =>
      match e.2 with
      | some m => !m.gone
      | none => false } }

/-- Remove partition `n`'s drained dispatches; the sequencer goes on with the next one (07 R205). -/
def State.settleStops (s : State) (n : Nat) : State :=
  let gone := (s.part n).seqr.filter Disp.drained
  if gone.isEmpty then s
  else ((s.modPart n fun p => { p with seqr := p.seqr.filter fun d => !d.drained }).each gone (State.endStop n)).runNext n

/-- Count a late return message of port `k` (07 R199); a reply to a retired channel counts for the channel too (13
R373). -/
def State.latePort (s : State) (k : Nat) : State :=
  let s := if (s.eport k).retired then s.modChan (ckey 1 k) fun c => { c with late := c.late + 1 } else s
  (s.modPort k fun e => { e with late := satAdd 0xFFFF e.late 1 }).tick 0x0E4 (s.portPart k)

/-- Logical port entry of port `k` in a dispatch changed. -/
def Disp.modPort (d : Disp) (k : Nat) (g : LPort → LPort) : Disp :=
  { d with lps := d.lps.map fun l => if l.port = k then g l else l }

/-- Logical port entry of port `k`. -/
def Disp.lport (d : Disp) (k : Nat) : Option LPort := d.lps.find? fun l => l.port = k

end Sys2Proof.Machine
end

