-- ==== Sys2Proof/Machine/Counters.lean ====
section
/-! DEFINITION. Event counters and the precise sampler (16_counters.md). -/

namespace Sys2Proof.Machine

/-- The plane of an event, by its number (16 R432). -/
def planeOf (e : Nat) : Nat := if e < 0x0C0 then 0 else if e < 0x1C0 then 1 else 2

/-- CNT_INFO of event `e` (16 R442): the listed events, and the part's own description of the others. -/
def cntInfo (e : Nat) : W64 := match eventInfo e with
  | some (level, step, thr, pow) =>
    pack [(8, 1), (6, planeOf e), (5, b2n level), (4, b2n step), (3, b2n thr), (2, b2n (Config.partOk e)), (1, b2n pow)]
  | none =>
    let v := (Config.otherEventInfo e).setWidth 64 &&& 0x13E#64
    if bit v 8 then v ||| pack [(6, planeOf e)] else 0

/-- DEFINED of event `e`. -/
def cntDefined (e : Nat) : Bool := match eventInfo e with
  | some _ => true
  | none => bit (cntInfo e) 8

/-- Event `e` has a level (16 R442). -/
def cntLevel (e : Nat) : Bool := match eventInfo e with
  | some (level, _, _, _) => level
  | none => bit (cntInfo e) 5

/-- Event `e` takes a threshold (16 R442). -/
def cntThresh (e : Nat) : Bool := match eventInfo e with
  | some (_, _, thr, _) => thr
  | none => bit (cntInfo e) 3

/-- MODE `m` is allowed for event `e` (16 R433). -/
def modeAllowed (e m : Nat) : Bool :=
  match m with
  | 0 => true
  | 1 => cntLevel e
  | 2 => cntLevel e && cntThresh e
  | _ => false

/-- A write to CNT_CFG of event `e` in one grant (16 R432 to R434, R442): LOST is cleared by a 1. -/
def State.cntCfgSet (s : State) (p e : Nat) (v mask : W64) : State :=
  if !cntDefined e then s
  else
    let new := merge (s.cntCfg e) v (mask &&& (ones 47 47 ||| ones 45 40 ||| ones 33 32 ||| ones 31 0))
    let new := if bit (v &&& mask) 63 then clrBit new 63 else new
    if !modeAllowed e (fld new 33 32) then s.refuse p 0x02 (0x61000 + e * 8)
    else s.modCnt fun c => { c with cfg := Tab.set none c.cfg e (some new) }

/-- CNT_CFG_WRITE (16 R434): PF `p` writes CNT_CFG of event `e`. -/
def execCntCfgWrite (p e : Nat) (v : W64) (s : State) : Host.Outcome State Fault Refusal :=
  done s (s.opWrite p (0x61000 + e * 8) fun t => t.cntCfgSet p e v (ones 63 0))

/-- One sample point of a TIME level event, at the level that its filter sees (16 R434, log 18). -/
def State.samplePoint (s : State) (e : Nat) : State :=
  let v := s.level e (s.cntFilter e)
  match s.cntMode e with
  | 1 => s.cntRaw e v
  | 2 => if fld (s.cntCfg e) 31 0 < v then s.cntRaw e 1 else s
  | _ => s

/-- COUNTER_SAMPLE_POINT (16 R432): 16 ns of candle time have passed, and every TIME level event is sampled. -/
def execCounterSamplePoint (s : State) : Host.Outcome State Fault Refusal :=
  done s ((({ s with now := s.now + 16 } : State).modCnt fun c => { c with ticks16 := c.ticks16 + 1 }).each
    [0x021, 0x022, 0x0C2, 0x1E1] State.samplePoint)

/-- A sample point of a STEP event of partition `n` at level `v` for `times` steps; in EDGE mode a change of the
level counts once (16 R432, R433). -/
def State.stepSample (s : State) (e v times n : Nat) : State :=
  let old := Tab.get 0 s.cnt.lastOcc ((e - 0x0E2) * 64 + n)
  let s := s.modCnt fun c => { c with lastOcc := Tab.set 0 c.lastOcc ((e - 0x0E2) * 64 + n) v }
  if s.cntMode e = 0 then (if old ≠ v then s.tick e (some n) else s) else s.sampleLevel e v times (some n)

/-! ### The precise sampler (16 R438 to R441) -/

/-- The 64 bytes of a sample record (16 R440); durations are free values, and 0 for a stage not passed through. -/
def State.sampleBytes (s : State) (g : Tagged) (killed : Bool) : List Byte :=
  let t := s.task g.r
  let dur (used : Bool) (i : Nat) : List Byte := leBytes 4 (if used then (Config.duration (s.freeCtr + i)).toNat else 0)
  leBytes 4 s.cnt.smpTail ++ leBytes 1 (b2n g.bundle) ++
  leBytes 1 (b2n killed + 2 * b2n s.cnt.smpOvf + 4 * b2n s.latch.dim) ++ leBytes 1 g.part ++
  leBytes 1 (if g.bundle then 0xFF else coreOf g.thread) ++ leBytes 4 (taskId g.r g.gen) ++
  leBytes 2 (if t.fk < 1024 then t.fk else 0x8000) ++ leBytes 1 t.q ++ leBytes 1 (if g.bundle then 0 else g.opcode) ++
  leBytes 2 (if g.bundle then 0 else g.pc) ++ leBytes 1 (g.slot.getD 0xFF) ++ leBytes 1 g.stall ++
  leBytes 4 (if g.bundle then g.idx else 0) ++ leBytes 2 g.dtag ++ leBytes 2 0 ++
  dur true 0 ++ dur (g.bundle || g.slot.isSome) 1 ++ dur (g.bundle || g.slot.isSome) 2 ++ dur (g.stall != 0) 3 ++
  leBytes 4 0 ++ leBytes 8 g.detail ++ leBytes 8 0

/-- Count a sample record that is not written (16 R441). -/
def State.sampleLost (s : State) : State :=
  (s.modCnt fun c => { c with smpLost := satAdd 0xFFFFFFFF c.smpLost 1, smpOvf := true }).tick 0x1F1 none

/-- Write the sample record of a tagged item into the Operator PF's host memory (16 R439, R441). -/
def State.writeSample (s : State) (g : Tagged) (killed : Bool) : State :=
  let size := 2 ^ fld s.cnt.smpCfg 12 8
  match s.boot.operator with
  | none => s.sampleLost
  | some p =>
    if dist 32 s.cnt.smpTail s.cnt.smpHead = size then s.sampleLost
    else
      let sp : Space := { port := p, fk := pfKey p, pasid := if bit s.cnt.smpCfg 31 then some (fld s.cnt.smpCfg 51 32) else none }
      match s.ownWrite sp ((s.cnt.smpBase &&& ones 63 6).toNat + 64 * (s.cnt.smpTail % size)) (s.sampleBytes g killed) with
      | (u, false) => u.sampleLost
      | (u, true) => { u with freeCtr := u.freeCtr + 4, cnt := { u.cnt with smpTail := (u.cnt.smpTail + 1) % 2 ^ 32, smpOvf := false } }

/-- Tag a candidate or not (16 R438): the kind must be selected, the partition pass the filter, and no other tagged
item of its thread or partition be in flight; the choice is free. -/
def State.tagItem (s : State) (g : Tagged) : State :=
  let c := s.cnt.smpCfg
  if bit c 0 && bit c (if g.bundle then 2 else 1) && (!bit c 30 || fld c 29 24 == g.part) &&
      !(s.cnt.tags.any fun x => x.bundle == g.bundle && (if g.bundle then x.part == g.part else x.thread == g.thread)) then
    if Config.tagged s.freeCtr then ((s.nextFree.modCnt fun c => { c with tags := c.tags ++ [g] }).tick 0x1F0 (some g.part))
    else s.nextFree
  else s

/-- The tagged items that `f` selects belong to a dispatch with tag `dtag` (16 R440). -/
def State.tagDtag (s : State) (dtag : Nat) (f : Tagged → Bool) : State :=
  s.modCnt fun c => { c with tags := c.tags.map fun g => if f g then { g with dtag := dtag } else g }

/-- The causes on which the word at which record `r` stands has stalled so far. -/
def State.causesOf (s : State) (r : Nat) : List Nat :=
  let (gen, pc, l) := Tab.get (0, 0, []) s.cnt.causes r
  if gen = (s.task r).gen ∧ pc = (s.task r).ctx.pc then l else []

/-- That word stalls on one cause more. -/
def State.noteStall (s : State) (r c : Nat) : State :=
  let l := s.causesOf r
  let x := ((s.task r).gen, (s.task r).ctx.pc, if l.contains c then l else l ++ [c])
  s.modCnt fun y => { y with causes := Tab.set (0, 0, []) y.causes r x }

/-- The longest stall cause of the word at which record `r` stands (16 R440): which of several lasted longest is free. -/
def State.longestStall (s : State) (r : Nat) : Nat := match s.causesOf r with
  | [] => 0
  | [c] => c
  | l => l.getD (Config.longest s.freeCtr % l.length) 0

/-- The tagged items that `f` selects end: each writes its record (16 R439). -/
def State.endTags (s : State) (f : Tagged → Bool) (killed : Bool) : State :=
  let l := s.cnt.tags.filter f
  if l.isEmpty then s else
  (s.modCnt fun c => { c with tags := c.tags.filter fun g => !f g }).each l fun u g => u.writeSample g killed

end Sys2Proof.Machine
end

