-- ==== Sys2Proof/Machine/Tasks.lean ====
section
/-! DEFINITION. Task records: admission, completion of operations, kills, failures, reruns and the records of
submissions (01 R15 to R18; 03 R87 to R96; 04 R98, R115 to R119, R122). -/

namespace Sys2Proof.Machine

/-! ### The word at which a task stands (04 R101, R107; 05 R132, R135) -/

/-- OPCODE (05 R132). -/
def opcodeOf (w : W128) : Nat := fld w 127 120

/-- The opcodes of operations (05 R135). -/
def opcodeIsOp (o : Nat) : Bool :=
  o == 0x40 || o == 0x41 || o == 0x50 || o == 0x60 || (0x68 ≤ o && o ≤ 0x6A) || o == 0x70 || o == 0x78 || (0x80 ≤ o && o ≤ 0x83)

/-- OPNUM of an operation word. -/
def opnumOf (w : W128) : Nat := fld w 119 114

/-- Slots that are occupied, of those a mask names (04 R107). -/
def Task.named (t : Task) (mask : W64) : List Nat :=
  t.win.filterMap fun e => if e.2.isSome && bit mask e.1 then some e.1 else none

/-- The range of a program's bytes that lie in the 64-byte line of word `pc` and are not inline (03 R79, 04 R101). -/
def Task.lineRange (t : Task) (pc : Nat) : Nat × Nat :=
  let line := (t.progAddr + 16 * pc) / 64 * 64
  let lo := max line (t.progAddr + 16 * t.inl.length)
  (lo, min (line + 64) (t.progAddr + 16 * t.progLen) - lo)

/-- Word `pc` of a task's program, from the shadow or from a line that this run has fetched (05 R132). -/
def Task.word (t : Task) (pc : Nat) : W128 :=
  match t.inl[pc]? with
  | some w => w
  | none =>
    let a := t.progAddr + 16 * pc
    match Tab.find? t.lines (a / 64) with
    | some ws => ws.getD ((a - (t.lineRange pc).1) / 16) 0
    | none => 0

/-! ### Submissions and records due (03 R87 to R96) -/

/-- Records of host submissions that are already due. -/
def Queue.hostDue (q : Queue) : Nat := (q.due.filter fun d => d == .host).length

/-- Put the record of each leading finished submission in the order of retirement (03 R87, R90). -/
def Queue.pump : Nat → Queue → Queue
  | 0, q => q
  | k + 1, q => match q.subs[q.hostDue]? with
    | some s => if s.fin.isSome then Queue.pump k { q with due := q.due ++ [.host] } else q
    | none => q

/-- Post the GEQ record of a decided completion status (13 R354, R355). Status 0x14 has been posted under its
waypoint's key. For status 0x17 from storage, DETAIL is the address of the word. -/
def State.geqStatus (s : State) (qk part status source tid seq badAt : Nat) : State :=
  if status = 0 ∨ status = 0x14 then s else
  s.geqPost { geqRec status source with
      flags := 1, part := part, func := funcCode (qk / 64), queue := qk % 64, taskId := tid, seq := seq
      detail := if status = 0x17 then badAt else 0 }
    (some (.queue qk status))

/-- A submission's outcome is decided (03 R87). -/
def State.finishSub (s : State) (qk ord status : Nat) (summary : W64) (noTask silent committed : Bool) (badAt : Nat) : State :=
  match (s.queue qk).subs.find? fun x => x.ord == ord with
  | none => s
  | some x =>
    if x.fin.isSome then s
    else
      let s := s.modQueue qk fun q =>
        let q : Queue := { q with subs := q.subs.map fun (y : Sub) => if y.ord = ord then { y with fin := some ⟨status, summary, noTask, silent, committed⟩ } else y }
        q.pump q.subs.length
      if silent then s else s.geqStatus qk (s.partOf (qk / 64)) status (if noTask then 0 else 1) (if noTask then 0 else x.tid) x.seq badAt

/-- An ENQUEUED record is due (03 R90, 04 R122); `credit` tells whether it holds a ring-slot credit (03 R91). -/
def State.dueEnq (s : State) (qk part seq tid status : Nat) (summary : W64) (credit : Bool) (badAt : Nat) : State :=
  (s.modQueue qk fun q => { q with due := q.due ++ [.enq seq tid status summary credit] }).geqStatus qk part status 1 tid seq badAt

/-! ### Admission (01 R15, 04 R98) -/

/-- The generation after `g`: modulo 2^14, 0 skipped (01 R15). -/
def nextGen (g : Nat) : Nat := if (g + 1) % 2 ^ 14 = 0 then 1 else (g + 1) % 2 ^ 14

/-- The lowest EMPTY record that is not withdrawn. -/
def State.emptyRec (s : State) : Option Nat :=
  firstFrom (fun i => (s.task i).st == .empty && !(s.task i).withdrawn) records 0

/-- Queue key of a task: the queue of its ring-slot credit. -/
def Task.qk (t : Task) : Nat := qkey t.fk t.q

/-- The task belongs to job `j` of partition `n`. -/
def Task.ofJob (t : Task) (n : Nat) (j : Job) : Bool := t.part == n && t.job == j && t.kind != .admin

/-- The job exists in partition `n` (08 R215, R219): it has a task in ADMITTED, RUNNING or COMMITTING. -/
def State.jobLive (s : State) (n : Nat) (j : Job) : Bool :=
  s.tasks.any fun e => e.2.ofJob n j && (e.2.st == .admitted || e.2.st == .running || e.2.st == .committing)

/-- The waiting stamp of a job is kept (08 R218): the job exists, or a task of it stands between two records, killed for
a rerun, yielded with its continuation due, or waiting for an EMPTY record (DESIGN CHOICE, log 110). -/
def State.jobKept (s : State) (n : Nat) (j : Job) : Bool :=
  s.jobLive n j || s.waitTasks.any (·.ofJob n j) || s.tasks.any fun e => e.2.ofJob n j &&
    ((e.2.st == .killed && e.2.after == some .rerun) || (e.2.st == .retired && e.2.ending == .yield))

/-- Note when a job began to wait (08 R218); jobs that are gone are forgotten. -/
def State.noteJob (s : State) (n : Nat) (j : Job) (vf : Nat) : State :=
  (s.modPart n fun p => { p with jobs := (p.jobs.filter fun x => x.job != j && s.jobKept n x.job) ++ [⟨j, vf, s.stamp⟩] }).nextStamp

/-- Write a task into record `i` as ADMITTED; `order` is its place in admission order. A rerun and a continuation follow
a record of their own job. -/
def State.admitAt (s : State) (i : Nat) (t : Task) : State :=
  let g := nextGen (s.task i).gen
  let known := t.front || t.resumed || s.jobKept t.part t.job
  let s := s.modTask i fun _ => { t with gen := g, st := .admitted, order := if t.front then t.order else s.stamp }
  let s := s.nextStamp
  let s := if t.kind = .host ∨ t.kind = .admin then s.modQueue t.qk fun q =>
      { q with subs := q.subs.map fun x => if x.ord = t.ord then { x with tid := taskId i g } else x } else s
  let s := if t.kind = .admin || known then s else s.noteJob t.part t.job t.fk
  s.tick 0x010 (if t.kind = .admin then none else some t.part)

/-- Admit a task, or let it wait for a record (04 R128, 08 R247). -/
def State.admission (s : State) (t : Task) : State := match s.emptyRec with
  | some i => s.admitAt i t
  | none => { s with waitTasks := s.waitTasks ++ [t] }

/-- The task that repeats a killed segment from its start (04 R117): what a run holds is at its beginning. -/
def Task.again (t : Task) : Task :=
  { kind := t.kind, fk := t.fk, q := t.q, qgen := t.qgen, ord := t.ord, seq := t.seq, depth := t.depth, part := t.part, job := t.job
    progAddr := t.progAddr, progLen := t.progLen, inl := t.inl, cbMode := t.cbMode, cbAddr := t.cbAddr
    cb := if t.cbMode = 2 then [] else t.cb, cbIn := t.cbMode != 2, start := t.start, ctx := t.start
    order := t.order, front := true, preempts := t.preempts, limitUs := t.limitUs, cstat := t.cstat, resumed := t.resumed }

/-! ### Operations in the window (04 R106 to R109) -/

/-- A task's operation in a slot. -/
def Task.op (t : Task) (slot : Nat) : Option Op := Tab.get none t.win slot

/-- Change an operation. -/
def State.modOp (s : State) (r slot : Nat) (g : Op → Op) : State :=
  s.modTask r fun t => { t with win := Tab.set none t.win slot ((t.op slot).map g) }

/-- Slot `slot`'s bit cleared in every mask; an operation whose mask has become empty is ready, in stamp order. -/
def Task.satisfy (t : Task) (slot stamp : Nat) : Task :=
  { t with win := t.win.map fun e => (e.1, e.2.map fun o =>
      let o' := { o with deps := clrBit o.deps slot }
      if o'.phase = .open ∧ o'.deps = 0 then { o' with phase := .ready, ord := stamp } else o') }

/-- The condition on which a parked or stalled task waits has become true (04 R102): its slot is free, the operations
of its JOIN have completed, or every slot is free. -/
def Task.awaited (t : Task) : Bool :=
  let w := t.word t.ctx.pc
  let o := opcodeOf w
  if o = 0x42 then (t.named (w.setWidth 64)).isEmpty
  else if 0x51 ≤ o ∧ o ≤ 0x53 then t.win.all fun e => e.2.isNone
  else if opcodeIsOp o then (t.op (opnumOf w)).isNone
  else true

/-- The lantern of the parked task under record `r` fires when its condition is true (12 R348): the task is ready to
resume. -/
def State.light (s : State) (r : Nat) : State :=
  let t := s.task r
  if s.wps.lans.any (fun l => l.kind == .parked r t.gen) && t.awaited then
    (((s.modWps fun w => { w with lans := w.lans.filter fun l => l.kind != .parked r t.gen }).modTask r fun t =>
      { t with lit := some s.stamp }).nextStamp).tick 0x1D0 none
  else s

/-- An operation completes: it posts, frees its slot and satisfies the masks that name it (04 R105, R109). -/
def State.finishOp (s : State) (r slot : Nat) (posts : List (Nat × W64)) : State :=
  let gen := (s.task r).gen
  let s := s.modTask r fun t =>
    let u : Tab W64 := posts.foldl (fun (u : Tab W64) (p : Nat × W64) => Tab.set 0 u p.1 p.2) t.ctx.u
    { t with win := Tab.set none t.win slot none, ctx := { t.ctx with u := u } }.satisfy slot s.stamp
  ((s.nextStamp).dropX (· == .op r gen slot)).endTags (fun g => !g.bundle && g.r == r && g.gen == gen && g.slot == some slot) false

/-- An operation completes, and the lantern of its parked task may fire. -/
def State.completeOp (s : State) (r slot : Nat) (posts : List (Nat × W64)) : State := (s.finishOp r slot posts).light r

/-! ### Kills and failures (04 R115 to R122) -/

/-- A convoy member leaves (08 R240): a waiting one frees its slot; one in the running convoy leaves the later ones,
and a convoy that has lost every member stops. -/
def State.dropMember (s : State) (n r gen slot : Nat) : State :=
  let c := (s.part n).cvy
  let hit (m : Member) : Bool := m.r == r && m.gen == gen && m.slot == slot
  let inRun (k : Nat) : Bool := match c.run with
    | some l => l.any fun e => e.mslot == k
    | none => false
  let ms := c.members.filterMap fun e => match e.2 with
    | some m => if hit m then (if inRun e.1 then some (e.1, some { m with gone := true }) else none) else some e
    | none => some e
  let s := s.modPart n fun p => { p with cvy := { p.cvy with members := ms } }
  match c.run with
  | none => s
  | some l =>
    if l.all fun e => match Tab.get none ms e.mslot with
        | some m => m.gone
        | none => true
    then match s.dispIdx n fun d => d.owner == .convoy with
      | some i => (s.stopDisp n i).settleStops n
      | none => s
    else s

/-- Draft pages that a remote COPY still holds return (04 R115; 06 R174). -/
def State.dropOpPages (s : State) (r slot : Nat) : State :=
  match (s.task r).op slot with
  | some o => if o.pages.isEmpty then s else (s.modOp r slot fun o => { o with pages := [] }).freePages o.pages
  | none => s

/-- What a kill does to one operation: a running movement or sampling drains, a dispatch stops, a member leaves, and
a drawn ring-slot credit returns (04 R115, 07 R205). -/
def State.killOp (s : State) (r : Nat) (e : Nat × Option Op) : State :=
  match e.2 with
  | none => s
  | some o =>
    let t := s.task r
    let s := s.dropOpPages r e.1
    match o.kind, o.phase with
    | .dispatch .., .running =>
      let s := s.modOp r e.1 fun o => { o with phase := .drain }
      match s.dispIdx t.part fun d => d.owner == .task r t.gen e.1 with
      | some i => (s.stopDisp t.part i).settleStops t.part
      | none => s.freeSlot r e.1
    | .dispatch .., .member => (s.dropMember t.part r t.gen e.1).freeSlot r e.1
    | .enqueue q _ _ _ _ drawn, _ => (s.modQueue (qkey t.fk q) (Queue.give (b2n drawn))).freeSlot r e.1
    | _, .running => if o.mtu.isSome then s.modOp r e.1 fun o => { o with phase := .drain } else s.freeSlot r e.1
    | _, .drain => s
    | _, _ => s.freeSlot r e.1

/-- Return the ring-slot credits of a task's staged ENQUEUEs, and the draft space of its remote COPYs (04 R115, R155). -/
def State.dropStaged (s : State) (r : Nat) : State :=
  let t := s.task r
  (s.modTask r fun t => { t with staged := [] }).each t.staged fun u e => match e.2 with
    | .enq q .. => u.modQueue (qkey t.fk q) (Queue.give 1)
    | .remote _ _ _ ps => u.freePages ps
    | _ => u

/-- Release the pins that an uncommitted task took (04 R115, R155). -/
def State.dropPins (s : State) (r : Nat) : State :=
  let t := s.task r
  s.modPart t.part fun p => { p with pins := p.pins.filter fun x => x.task != some (r, t.gen) }

/-- Free a task's place in task state; the unit returns with its last context (04 R102). The place of a YIELD's saved
context is freed when its continuation starts, or with a kill (DESIGN CHOICE, log 115). -/
def State.unpark (s : State) (r : Nat) : State :=
  let t := s.task r
  match t.parked with
  | none => s
  | some u =>
    let left := Tab.get 0 (s.part t.part).tsUnits u - 1
    let s := (s.modPart t.part fun p => { p with tsUnits := Tab.set 0 p.tsUnits u left }).modTask r fun t => { t with parked := none }
    if left = 0 then s.freeUnit u else s

/-- The lanterns of a task and of its WAITs go out (05 R146; 12 R348). -/
def State.dropLanterns (s : State) (r : Nat) : State :=
  s.modWps fun w => { w with lans := w.lans.filter fun l => match l.kind with
    | .wait r' _ => r' != r
    | .parked r' _ => r' != r
    | .slot _ _ => true }

/-- The waiters and holders of a task under record `r` with generation `gen`: its operations, its program, its release,
or the commands of its admin list. -/
def Who.ofTask (r gen : Nat) : Who → Bool
  | .op r' g _ => r' == r && g == gen
  | .prog r' g => r' == r && g == gen
  | _ => false

/-- The waits of a task for hosts are forgotten; data that arrives for it later is discarded (13 R373). Its program's
translations go with it. -/
def State.dropWaits (s : State) (r gen : Nat) : State :=
  let mine := Who.ofTask r gen
  (s.dropX (· == .prog r gen)).modXl fun x =>
    { x with
      fails := x.fails.filter fun w => !mine w.1
      pri := x.pri.map fun p => { p with who := p.who.filter fun w => !mine w } }

/-- Everything a task gives up when its run ends without a commit (04 R115): drafts, staged effects, references, pins,
thread and task state. -/
def State.discardRun (s : State) (r : Nat) : State :=
  let gen := (s.task r).gen
  let s := (s.task r).win.foldl (fun u e => u.killOp r e) s
  let s := ((((s.dropStaged r).dropDrafts r).dropPins r).dropRefs r).unpark r
  let s := (((s.dropLanterns r).dropWaits r gen).dropBuf r gen).modTask r fun t =>
    { t with thread := none, suspended := false, stall := .none, lit := none, scr := [], lines := [], got := [] }
  s.endTags (fun g => g.r == r && g.gen == gen) true

/-- The task can be killed: ADMITTED or RUNNING (01 R17), and no admin list (11 R312). -/
def Task.killable (t : Task) : Bool := (t.st == .admitted || t.st == .running) && t.kind != .admin

/-- Kill a record (01 R17). Without rerun its submission is finished, or its ring-slot credit returns and its ENQUEUED
record is due; `quiet` is a destroy's kill of an enqueued task, which gets no record (03 R96). -/
def State.kill (s : State) (r : Nat) (a : After) (quiet : Bool) : State :=
  let t := s.task r
  if !t.killable then s
  else
    let s := (s.discardRun r).modTask r fun t => { t with st := .killed, after := some a, order := s.stamp, front := true }
    let s := s.nextStamp
    match a with
    | .rerun => (s.tick 0x011 (some t.part)).vfTick t.fk 3 1
    | .fail st =>
      let s := s.vfTick t.fk 11 1
      if t.kind = .host then s.finishSub t.qk t.ord st 0 false false false t.badAt
      else
        let s := s.modQueue t.qk (Queue.give 1)
        if quiet then s else s.dueEnq t.qk t.part t.seq (taskId r t.gen) st 0 false t.badAt

/-- A task fails with a status (04 R122). -/
def State.failTask (s : State) (r status : Nat) : State := s.kill r (.fail status) false

/-- A fault or reset kills a task: for rerun, or in a Verkai partition with status 0x1C (04 R116, R129). -/
def State.killRerun (s : State) (r : Nat) : State :=
  if s.verkai (s.task r).part then s.failTask r 0x1C else s.kill r .rerun false

/-- A slice boundary kills a RUNNING task (04 R116, R119): the third time in a row it fails with 0x10. -/
def State.killPreempt (s : State) (r : Nat) : State :=
  let t := s.task r
  if !(t.killable && t.st == .running) then s
  else if t.preempts + 1 = 3 then s.failTask r 0x10
  else (s.modTask r fun t => { t with preempts := t.preempts + 1 }).kill r .rerun false

/-- The records of tasks that `f` selects. -/
def State.recsWhere (s : State) (f : Task → Bool) : List Nat :=
  s.tasks.filterMap fun e => if f e.2 then some e.1 else none

/-- The outstanding WAITs on waypoint `i` end their tasks with a status (12 R339, 13 R368). -/
def State.failWaits (s : State) (i status : Nat) : State :=
  s.each (s.recsWhere fun t => t.win.any fun e => match e.2 with
    | some o => (match o.kind with
      | .wait h _ => fld h 19 0 == i
      | _ => false)
    | none => false) fun u r => u.failTask r status

/-- An uncommitted rerun or killed submission is claimed by a destroy (03 R96.3, 13 R379): it is not run again. -/
def State.claimRerun (s : State) (r : Nat) (quiet : Bool) : State :=
  let t := s.task r
  if t.st = .killed ∧ t.after = some .rerun then
    let s := (s.modTask r fun t => { t with after := some (.fail 0x16) }).vfTick t.fk 11 1
    if t.kind = .host then s.finishSub t.qk t.ord 0x16 0 false false false 0
    else
      let s := s.modQueue t.qk (Queue.give 1)
      if quiet then s else s.dueEnq t.qk t.part t.seq (taskId r t.gen) 0x16 0 false 0
  else s

/-- A command of the admin list under record `r` is in progress: its read has begun, and it has not ended (11 R312). -/
def State.adminBusy (s : State) (r : Nat) : Bool := (s.task r).admBusy

/-- The executor takes up a list: its record is RUNNING (01 R16; 11 R312). -/
def State.runList (s : State) (r : Nat) : State := s.modTask r fun t => { t with st := .running }

/-- An admin list ends with a status: SUMMARY counts its commands and holds the DETAIL (11 R312). A list that ends before
its first command passes through RUNNING as well (01 R16). -/
def State.finishList (s : State) (r status detail : Nat) : State :=
  (s.runList r).modTask r fun t =>
    { t with
      st := .committing, admBusy := false, ending := .admin, released := true, cstat := status
      summary := pack [(32, t.admDone), (8, detail)] }

/-- An admin list starts no further command (11 R312; 13 R360): it ends with a status, at once when no command is in
progress. -/
def State.stopList (s : State) (r status : Nat) : State :=
  let t := s.task r
  if t.kind = .admin ∧ (t.st = .admitted ∨ t.st = .running) then
    if s.adminBusy r then s.modTask r fun t => { t.met status 0 with admStop := true }
    else s.finishList r (if t.cstat = 0 then status else t.cstat) 0
  else s

/-- The task has no operation left that holds a credit: its record may be released (01 R17). -/
def Task.drained (t : Task) : Bool := t.win.all fun e => e.2.isNone

/-- Fail the task for which an access was prepared, or act on the state reached. -/
def Prep.run (p : Prep) (r : Nat) (k : State → State) : State := match p with
  | .ok s => k s
  | .wait s => s
  | .fail s st => s.failTask r st

end Sys2Proof.Machine
end

