-- ==== Sys2Proof/Machine/Waypoints.lean ====
section
/-! DEFINITION. Waypoints: handles and scopes, serial order, signals, lanterns, waypoint windows and peer signals
(12_memory_model_waypoints.md R334 to R350). -/

namespace Sys2Proof.Machine

/-- The function behind a register window (02 R44, R68; 17 R445): none where the VF does not exist, on a port without a
link, and for the root of trust's port. -/
def State.winFunc (s : State) : Window → Option Nat
  | .pf p => if p < 4 && (s.func (pfKey p)).linkUp then some (pfKey p) else none
  | .vf p i => if p < 4 && (s.func (pfKey p)).linkUp then s.vfOf p i else none
  | .rot => none

/-! ### Handles and scopes -/

/-- INDEX of a local handle (12 R334). -/
def wpIndex (h : W64) : Nat := fld h 19 0

/-- Function `f` is within scope `code` of a waypoint whose owner is VF `v` (12 R335). -/
def State.inScope (s : State) (f v code : Nat) : Bool :=
  let pfOf := 1024 ≤ f && s.vfPort v == some (f - 1024)
  match code with
  | 0 => f == v || pfOf
  | 1 => (s.bound f && s.bound v && s.bindPart f == s.bindPart v) || pfOf
  | 2 => pfOf || (f < 1024 && (s.vfPort v).isSome && s.vfPort f == s.vfPort v)
  | _ => true

/-- A handle is local, with zero reserved bits, and names a LIVE waypoint at its GEN (12 R334, R336). -/
def State.wpLive (s : State) (h : W64) : Bool :=
  fld h 47 20 == 0 && wpIndex h != 0 && (s.wp (wpIndex h)).live && (s.wp (wpIndex h)).gen == fld h 63 48

/-- A local handle is available for waiting to function `f` (12 R336). -/
def State.waitOk (s : State) (f : Nat) (h : W64) : Bool :=
  s.wpLive h && s.inScope f (s.wp (wpIndex h)).owner (s.wp (wpIndex h)).waitScope

/-- A local handle is available for signalling to function `f` (12 R336). -/
def State.sigOk (s : State) (f : Nat) (h : W64) : Bool :=
  s.wpLive h && s.inScope f (s.wp (wpIndex h)).owner (s.wp (wpIndex h)).sigScope

/-- The waypoint import entry that a remote handle names for VF `v` (12 R347): set, and owned by `v`. -/
def State.wpImport (s : State) (v : Nat) (h : W64) : Option Import :=
  if bit h 47 && fld h 63 48 == 0 && fld h 46 12 == 0 && s.bound v then
    match Tab.get none (s.part (s.bindPart v)).wpImports (fld h 11 0) with
    | some e => if e.vf = v then some e else none
    | none => none
  else none

/-! ### Serial order -/

/-- `s` is at or beyond the target `v` (12 R340). -/
def atOrBeyond (s v : W64) : Bool := (s - v).toNat < 2 ^ 63

/-- What a signal with value `v` does to the stored value `s` (12 R340). -/
inductive Serial where
  | equal | ahead | behind | stale
  deriving DecidableEq, Repr

/-- The place of `v` against `s`. -/
def serial (s v : W64) : Serial :=
  let d := (v - s).toNat
  if d = 0 then .equal else if d < 2 ^ 63 then .ahead else if d = 2 ^ 63 then .stale else .behind

/-! ### Lanterns and signals -/

/-- A lantern on a waypoint fires (12 R348, R349): the WAIT completes, or the slot disarms and its vector is signalled. -/
def State.fire (s : State) (l : Lantern) : State :=
  (match l.kind with
    | .wait r slot => s.finishOp r slot []
    | .parked _ _ => s
    | .slot fk k =>
      let x : Slot := Tab.get {} (s.func fk).slots k
      (s.modFunc fk fun f => { f with slots := Tab.set {} f.slots k { x with armed := false } }).signalVec fk x.vector).tick 0x1D0 none

/-- The lanterns of parked tasks whose conditions are true fire, in the order of arming (12 R348). -/
def State.lightAll (s : State) : State := s.each s.wps.lans fun u l => match l.kind with
  | .parked r _ => u.light r
  | _ => u

/-- Every lantern on waypoint `i` whose target is reached fires, in the order of arming (12 R348), and then those of the
parked tasks that waited for these WAITs. -/
def State.fireWp (s : State) (i : Nat) : State :=
  let hit (l : Lantern) : Bool := l.idx == i && atOrBeyond (s.wp i).value l.target && (match l.kind with
    | .parked _ _ => false
    | _ => true)
  ((s.modWps fun w => { w with lans := w.lans.filter fun l => !hit l }).each (s.wps.lans.filter hit) State.fire).lightAll

/-- Count a refused or stale signal against a function (12 R344, R352); a PF's counts stand in AUTH_DENIED. -/
def State.wpCount (s : State) (fk : Nat) (stale : Bool) : State :=
  if 1024 ≤ fk then s.denied (fk - 1024)
  else s.modFunc fk fun f =>
    if stale then { f with wpStale := satAdd 0xFFFF f.wpStale 1 } else { f with wpRefused := satAdd 0xFFFF f.wpRefused 1 }

/-- The function that a signal counts against, and whether the signal is available (12 R344, R347). -/
def State.sigBy (s : State) (h : W64) : SigSrc → Option Nat × Bool
  | .task _ _ fk _ => (some fk, s.sigOk fk h)
  | .window fk => (some fk, s.sigOk fk h)
  | .peer =>
    let w := s.wp (wpIndex h)
    (if w.live then some w.owner else none, s.wpLive h && w.peer)

/-- The GEQ record of a stale signal, keyed by the waypoint (12 R344, 13 R354, R355). -/
def State.staleRecord (s : State) (fk : Nat) (h : W64) : State :=
  let w := s.wp (wpIndex h)
  s.geqPost { geqRec 0x14 2 with flags := 1, part := s.partOf w.owner, func := funcCode fk, detail := h.toNat }
    (some (.wp (wpIndex h)))

/-- Apply a signal in one grant (12 R341, R344): the state, and the commit-time status that it gives. A poisoned
waypoint refuses signals (13 R368). -/
def State.applySignal (s : State) (h v : W64) (src : SigSrc) : State × Nat :=
  let i := wpIndex h
  let (by', ok) := s.sigBy h src
  if !ok || (s.wp i).poisoned then
    match by' with
    | some fk => (s.wpCount fk false, 0x18)
    | none => (s.tick 0x105 none, 0x18)
  else match serial (s.wp i).value v with
    | .ahead => ((s.modWp i fun w => { w with value := v }).fireWp i, 0)
    | .stale => ((s.wpCount (by'.getD 0) true).staleRecord (by'.getD 0) h, 0x14)
    | _ => (s, 0)

/-- WP_SIGNAL (12 R345, R346): an aligned 8-byte write to an export slot. -/
def execWpSignal (w : Window) (k : Nat) (v : W64) (s : State) : Host.Outcome State Fault Refusal :=
  done s (match s.winFunc w with
    | none => s
    | some fk => (s.applySignal (Tab.get {} (s.func fk).slots k).handle v (.window fk)).1)

/-- Put the target into slot `k` and set whether it is armed. -/
def State.setArm (s : State) (fk k : Nat) (v : W64) (armed : Bool) : State :=
  s.modFunc fk fun f => { f with slots := Tab.set {} f.slots k { (Tab.get {} f.slots k : Slot) with target := v, armed := armed } }

/-- Arm slot `k` of function `fk` (12 R345, R349). -/
def State.armSlot (s : State) (fk k : Nat) (v : W64) : State :=
  let x : Slot := Tab.get {} (s.func fk).slots k
  let i := wpIndex x.handle
  if !s.waitOk fk x.handle then s.wpCount fk false
  else
    let s := s.modWps fun w => { w with lans := w.lans.filter fun l => l.kind != .slot fk k }
    if (s.wp i).poisoned = false ∧ atOrBeyond (s.wp i).value v then
      ((s.setArm fk k v false).signalVec fk x.vector).tick 0x1D0 none
    else (s.setArm fk k v true).modWps fun w => { w with lans := w.lans ++ [⟨i, v, .slot fk k⟩] }

/-- WP_ARM (12 R345, R346, R349). -/
def execWpArm (w : Window) (k : Nat) (v : W64) (s : State) : Host.Outcome State Fault Refusal :=
  done s (match s.winFunc w with
    | none => s
    | some fk => s.armSlot fk k v)

/-- A task's signal has been applied with status `st`: it counts toward the end of its commit's release (04 R112,
R451), or it completes the SIGNAL of a Verkai task (05 R147). -/
def State.sigDone (s : State) (src : SigSrc) (st : Nat) : State :=
  match src with
  | .task r gen _ none =>
    if (s.task r).gen = gen then s.modTask r fun t => { t.met st 0 with sigs := t.sigs - 1 }
    else s.mismatch
  | .task r gen _ (some slot) =>
    if (s.task r).gen ≠ gen then s.mismatch else if ((s.task r).op slot).isSome then s.completeOp r slot [] else s
  | _ => s

/-- WAYPOINT_SIGNAL_APPLY (12 R341): the Waypoint Store applies the next signal that a task has released. -/
def execWaypointSignalApply (s : State) : Host.Outcome State Fault Refusal :=
  done s (match s.wps.sigq with
    | [] => s
    | (h, v, src) :: rest =>
      let (u, st) := (s.modWps fun w => { w with sigq := rest }).applySignal h v src
      u.sigDone src st)

end Sys2Proof.Machine
end

