-- ==== Sys2Proof/Machine/Operands.lean ====
section
/-! DEFINITION. Route words: fields and reserved fields (05 R132, R136, R137), operand selectors (05 R134), how a word is
fetched (04 R101, 05 R133), and how a thread issues it or stalls on it (04 R105, R106, 05 R138). -/

namespace Sys2Proof.Machine

/-! ### The route word -/

/-- The opcodes of 05 R135. -/
def opcodeDefined (o : Nat) : Bool :=
  (0x01 ≤ o && o ≤ 0x12) || o == 0x20 || (0x30 ≤ o && o ≤ 0x32) || (0x40 ≤ o && o ≤ 0x42) || (0x50 ≤ o && o ≤ 0x53) ||
  o == 0x60 || (0x68 ≤ o && o ≤ 0x6A) || o == 0x70 || o == 0x78 || (0x80 ≤ o && o ≤ 0x83)

/-- The six operations that a Verkai thread does not issue at a slice boundary (04 R130). -/
def opcodeIsTile (o : Nat) : Bool := o == 0x60 || (0x68 ≤ o && o ≤ 0x6A) || o == 0x70 || o == 0x78

/-- A selector that is not reserved (05 R134). -/
def selOk (x : Nat) : Bool := x < 112

/-! ### Reading operands -/

/-- The summary registers that an operation posts (04 R105). -/
def OpKind.posts : OpKind → List Nat
  | .dispatch _ _ ub uc _ _ => (List.range uc).map (ub + ·)
  | .xform _ _ _ _ _ (some u) _ => [u]
  | .sample _ _ _ _ _ _ u _ => [u]
  | .pin _ _ _ (some u) => [u]
  | .openwin _ _ _ _ u => [u]
  | _ => []

/-- An outstanding operation of the task names summary register `u` (04 R105). -/
def Task.posting (t : Task) (u : Nat) : Bool := t.win.any fun e => match e.2 with
  | some o => o.kind.posts.contains u
  | none => false

/-- Scalar register `k`. -/
def Task.sreg (t : Task) (k : Nat) : W64 := Tab.get 0 t.ctx.s k

/-- Predicate `i`; p7 reads 1 (04 R103). -/
def Task.pred (t : Task) (i : Nat) : Bool := i == 7 || bit t.ctx.p i

/-- The value that a selector names (05 R134); `none` is a summary register that an operation will still post. -/
def Task.src (t : Task) (x : Nat) : Option W64 :=
  if x < 64 then some (t.sreg x)
  else if x < 80 then (if t.posting (x - 64) then none else some (Tab.get 0 t.ctx.u (x - 64)))
  else some (t.cb.getD (x - 80) 0)

/-- The values of several selectors; `none` where one of them stalls. -/
def Task.srcs (t : Task) : List Nat → Option (List W64)
  | [] => some []
  | x :: l => match t.src x, t.srcs l with
    | some v, some vs => some (v :: vs)
    | _, _ => none

/-- Write scalar register `k`. -/
def Task.setS (t : Task) (k : Nat) (v : W64) : Task := { t with ctx := { t.ctx with s := Tab.set 0 t.ctx.s k v } }

/-- Write predicate `i`; a write to p7 is ignored (04 R103). -/
def Task.setP (t : Task) (i : Nat) (v : Bool) : Task :=
  if i = 7 then t else
  { t with ctx := { t.ctx with p := BitVec.ofNat 8 (t.ctx.p.toNat - b2n (bit t.ctx.p i) * 2 ^ i + b2n v * 2 ^ i) } }

/-- The guard of a format A or C word holds (05 R138). -/
def Task.guard (t : Task) (w : W128) : Bool := t.pred (fld w 119 117) != bit w 116

/-! ### Fetching the program and the constant buffer -/

/-- The 64-bit words of a list of bytes. -/
def words64 : Nat → List Byte → List W64
  | 0, _ => []
  | n + 1, l => BitVec.ofNat 64 (leVal (l.take 8)) :: words64 n (l.drop 8)

/-- The route words of a list of bytes (05 R132). -/
def words128 : Nat → List Byte → List W128
  | 0, _ => []
  | n + 1, l => BitVec.ofNat 128 (leVal (l.take 16)) :: words128 n (l.drop 16)

/-- Bring the constant buffer of CB_MODE 2 (03 R78, 04 R117): 256 bytes, of which the first word enters s60 when the
task starts at its beginning (04 R103). -/
def State.bringCb (s : State) (r : Nat) : Prep :=
  let t := s.task r
  if t.cbIn then .ok s
  else
    let sp := s.queueSpace t.qk
    match s.fetchSegs (.prog r t.gen) [(sp, t.cbAddr, 256)] with
    | .ok u =>
      let bytes := u.hostGet sp t.cbAddr 256
      if poisonStatus bytes ≠ 0 then .fail u 0x17
      else
        let ws := words64 32 (plain bytes)
        .ok (u.modTask r fun t =>
          let t := { t with cb := ws, cbIn := true, got := [] }
          if t.resumed then t else { t with ctx := { t.ctx with s := Tab.set 0 t.ctx.s 60 (ws.getD 0 0) }
                                            start := { t.start with s := Tab.set 0 t.start.s 60 (ws.getD 0 0) } })
    | x => x

/-- The lines that the program cache of core `c` holds, 256 lines of 64 bytes for its threads together (04 R101). -/
def State.coreLines (s : State) (c : Nat) : Nat :=
  (s.tasks.map fun e => if e.2.thread.map coreOf == some c then e.2.lines.length else 0).sum

/-- Give up one line of a full list, but not that of the word at which the task stands. -/
def Task.dropLine (t : Task) : Task :=
  match List.find? (fun (l : Nat × List W128) => l.1 != (t.progAddr + 16 * t.ctx.pc) / 64) t.lines with
  | some l => { t with lines := Tab.erase t.lines l.1 }
  | none => t

/-- Make room for a line in the program cache of the core that runs record `r` (04 R101): a full cache gives up a line of
this task, or of another one on the core (DESIGN CHOICE, log 116). An admin list runs on no core. -/
def State.roomFor (s : State) (r : Nat) : State :=
  match (s.task r).thread with
  | none => s
  | some th =>
    if s.coreLines (coreOf th) < 256 then s
    else if (s.task r).dropLine.lines ≠ (s.task r).lines then s.modTask r Task.dropLine
    else match List.find? (fun (e : Nat × Task) => e.2.thread.map coreOf == some (coreOf th) && e.2.dropLine.lines != e.2.lines) s.tasks with
      | some e => s.modTask e.1 Task.dropLine
      | none => s

/-- Bring the program line of word `pc` (04 R101). -/
def State.bringLine (s : State) (r pc : Nat) : Prep :=
  let t := s.task r
  if pc < t.inl.length || (Tab.find? t.lines ((t.progAddr + 16 * pc) / 64)).isSome then .ok s
  else
    let sp := s.queueSpace t.qk
    let (a, n) := t.lineRange pc
    match s.fetchSegs (.prog r t.gen) [(sp, a, n)] with
    | .ok u =>
      let bytes := u.hostGet sp a n
      if poisonStatus bytes ≠ 0 then .fail u 0x17
      else .ok ((u.roomFor r).modTask r fun t =>
        { t with lines := Tab.put t.lines (a / 64) (words128 (n / 16) (plain bytes)), got := t.got.filter (· != (sp, a, n)) })
    | x => x

/-! ### Issuing -/

/-- The task's thread may issue a route word: RUNNING on a thread, neither suspended nor an admin list (04 R98, R130,
11 R312). -/
def Task.canIssue (t : Task) : Bool := t.st == .running && t.thread.isSome && t.kind != .admin && !t.suspended

/-- STALL code of a sample record (16 R440). -/
def Stall.code : Stall → Nat
  | .none => 0
  | .slot => 1
  | .summary => 2
  | .join => 3
  | .fetch => 4
  | .parked => 5

/-- The thread stands still for a cause. -/
def State.stallAt (s : State) (r : Nat) (c : Stall) : State := (s.noteStall r c.code).modTask r fun t => { t with stall := c }

/-- Count the route steps that a word or a park has issued (04 R131; events 0x020 and VF_CNT[4]), each a handshake of the
route core (13 R364). -/
def State.steps (s : State) (r n : Nat) : State :=
  let t := s.task r
  let s := match t.thread with
    | some th => s.handshakes 7 (coreOf th) n
    | none => s
  (s.tickN 0x020 n (some t.part)).vfTick t.fk 4 n

/-- A word has been issued: it may be tagged (16 R438), the program counter moves on (05 R133) and its route steps
count. -/
def State.issued (s : State) (r : Nat) (w : W128) (steps pc : Nat) (slot : Option Nat) (detail : Nat) : State :=
  let t := s.task r
  let g : Tagged :=
    { bundle := false, part := t.part, r := r, gen := t.gen, slot := slot, opcode := opcodeOf w, pc := t.ctx.pc
      idx := 0, dtag := 0, stall := s.longestStall r, detail := detail, thread := t.thread.getD 0 }
  (((s.tagItem g).modCnt fun c => { c with causes := Tab.set (0, 0, []) c.causes r (0, 0, []) }).modTask r fun t =>
    { t with ctx := { t.ctx with pc := pc }, stall := .none }).steps r steps

/-- A word that is no operation has been issued and is complete. -/
def State.issuedDone (s : State) (r : Nat) (w : W128) (steps pc : Nat) : State :=
  let gen := (s.task r).gen
  (s.issued r w steps pc none 0).endTags (fun g => !g.bundle && g.r == r && g.gen == gen && g.slot.isNone) false

/-- Issue the word at the program counter of record `r`, if it carries opcode `opc` and is one that `mine` accepts
(05 R133, R135, R137): a reserved opcode, a field that `chk` refuses and a program counter beyond the program fail
the task with 0x19. -/
def State.issue (s : State) (r opc : Nat) (chk : W128 → Bool) (mine : Task → W128 → Bool) (k : W128 → State → State) :
    State :=
  let t := s.task r
  if !t.canIssue then s
  else match s.bringCb r with
    | .wait u => u.stallAt r .fetch
    | .fail u st => u.failTask r st
    | .ok u =>
      if t.progLen ≤ t.ctx.pc then u.failTask r 0x19
      else match u.bringLine r t.ctx.pc with
        | .wait u => u.stallAt r .fetch
        | .fail u st => u.failTask r st
        | .ok u =>
          let w := (u.task r).word t.ctx.pc
          if !opcodeDefined (opcodeOf w) then u.failTask r 0x19
          else if opcodeOf w ≠ opc then s
          else if !chk w then u.failTask r 0x19
          else if !mine (u.task r) w then s
          else k w u

/-! ### Operations at issue (04 R104, R106, R107; 05 R144) -/

/-- The order of issue numbers: the task's next one. -/
def State.nextIss (s : State) (r : Nat) : State := s.modTask r fun t => { t with issN := t.issN + 1 }

/-- Operation `k` of word `w` takes its slot: its mask keeps the slots occupied now, other than its own; with an empty
mask it is ready at once (04 R107, 05 R144). -/
def State.occupy (s : State) (r : Nat) (w : W128) (k : OpKind) (steps detail : Nat) : State :=
  let t := s.task r
  let n := opnumOf w
  let deps := (t.named (w.setWidth 64)).foldl (fun m i => if i = n then m else setBit m i) (0 : W64)
  let o : Op := { kind := k, deps := deps, phase := if deps = 0 then .ready else .open, iss := t.issN, ord := s.stamp }
  (((s.issued r w steps (t.ctx.pc + 1) (some n) detail).nextIss r).modTask r fun t =>
    { t with win := Tab.set none t.win n (some o) }).nextStamp

/-- Issue an operation word: it waits for its slot (R106) and its summary operands (R105), then `k` makes its issue
checks with the operand values. -/
def State.issueOp (s : State) (r opc : Nat) (chk : W128 → Bool) (mine : Task → W128 → Bool) (sels : W128 → List Nat)
    (k : W128 → List W64 → State → State) : State :=
  s.issue r opc chk mine fun w u =>
    let t := u.task r
    if opcodeIsTile opc && s.verkai t.part && (s.part t.part).draining then s
    else if (t.op (opnumOf w)).isSome then u.stallAt r .slot
    else match t.srcs (sels w) with
      | none => u.stallAt r .summary
      | some vs => k w vs u

end Sys2Proof.Machine
end

