-- ==== Sys2Proof/Machine/Scalar.lean ====
section
/-! DEFINITION. Scalar, compare, branch and loop instructions (05_route_isa_control.md R138 to R143). -/

namespace Sys2Proof.Machine

/-! ### Format A -/

/-- The reserved fields of format A (05 R136, R137): which of PS, SA and B the opcode uses. -/
def chkA (ps sa sb : Bool) (w : W128) : Bool :=
  fld w 112 112 == 0 && fld w 90 64 == 0 && (ps || fld w 115 113 == 0) &&
  (if sa then selOk (fld w 105 99) else fld w 105 99 == 0) &&
  (if sb then (if bit w 91 then fld w 98 92 == 0 else selOk (fld w 98 92) && fld w 63 0 == 0)
   else fld w 98 92 == 0 && !bit w 91 && fld w 63 0 == 0)

/-- The value of A, where the opcode uses it. -/
def Task.opA (t : Task) (w : W128) (used : Bool) : Option W64 := if used then t.src (fld w 105 99) else some 0

/-- The value of B: IMM when BIMM is 1, else the source that SB names. -/
def Task.opB (t : Task) (w : W128) (used : Bool) : Option W64 :=
  if !used then some 0 else if bit w 91 then some (w.setWidth 64) else t.src (fld w 98 92)

/-- Leading zero bits: 64 for 0 (05 R139). -/
def clz64 (a : W64) : W64 := if a = 0 then 64 else BitVec.ofNat 64 (63 - Nat.log2 a.toNat)

/-- A scalar ALU instruction (05 R139): sources are read before the destination is written, and a false guard changes
nothing but still waits for summaries (R138). -/
def State.alu (s : State) (r opc : Nat) (ps sa sb : Bool) (f : Bool → W64 → W64 → W64) : State :=
  s.issue r opc (chkA ps sa sb) (fun _ _ => true) fun w u =>
    let t := u.task r
    match t.opA w sa, t.opB w sb with
    | some a, some b =>
      (if t.guard w then u.modTask r fun t => t.setS (fld w 111 106) (f (t.pred (fld w 115 113)) a b) else u).issuedDone r w 1
        (t.ctx.pc + 1)
    | _, _ => u.stallAt r .summary

/-- ADD (05 R139): s[RD] becomes (a + b) mod 2^64. -/
def execAdd (r : Nat) (s : State) : Host.Outcome State Fault Refusal :=
  done s (s.alu r 0x01 false true true fun _ a b => a + b)

/-- SUB (05 R139): s[RD] becomes (a - b) mod 2^64. -/
def execSub (r : Nat) (s : State) : Host.Outcome State Fault Refusal :=
  done s (s.alu r 0x02 false true true fun _ a b => a - b)

/-- MULLO (05 R139): s[RD] becomes the low 64 bits of a x b. -/
def execMullo (r : Nat) (s : State) : Host.Outcome State Fault Refusal :=
  done s (s.alu r 0x03 false true true fun _ a b => a * b)

/-- MULHU (05 R139): s[RD] becomes the high 64 bits of the unsigned product. -/
def execMulhu (r : Nat) (s : State) : Host.Outcome State Fault Refusal :=
  done s (s.alu r 0x04 false true true fun _ a b => BitVec.ofNat 64 (a.toNat * b.toNat / 2 ^ 64))

/-- AND (05 R139): s[RD] becomes bitwise a and b. -/
def execAnd (r : Nat) (s : State) : Host.Outcome State Fault Refusal :=
  done s (s.alu r 0x05 false true true fun _ a b => a &&& b)

/-- OR (05 R139): s[RD] becomes bitwise a or b. -/
def execOr (r : Nat) (s : State) : Host.Outcome State Fault Refusal :=
  done s (s.alu r 0x06 false true true fun _ a b => a ||| b)

/-- XOR (05 R139): s[RD] becomes bitwise a xor b. -/
def execXor (r : Nat) (s : State) : Host.Outcome State Fault Refusal :=
  done s (s.alu r 0x07 false true true fun _ a b => a ^^^ b)

/-- SHL (05 R139): s[RD] becomes a shifted left by b[5:0]. -/
def execShl (r : Nat) (s : State) : Host.Outcome State Fault Refusal :=
  done s (s.alu r 0x08 false true true fun _ a b => a <<< (b.toNat % 64))

/-- SHR (05 R139): s[RD] becomes a shifted right by b[5:0], with zeros. -/
def execShr (r : Nat) (s : State) : Host.Outcome State Fault Refusal :=
  done s (s.alu r 0x09 false true true fun _ a b => a >>> (b.toNat % 64))

/-- SAR (05 R139): s[RD] becomes a shifted right by b[5:0], with its sign. -/
def execSar (r : Nat) (s : State) : Host.Outcome State Fault Refusal :=
  done s (s.alu r 0x0A false true true fun _ a b => a.sshiftRight (b.toNat % 64))

/-- MINU (05 R139): s[RD] becomes the unsigned minimum. -/
def execMinu (r : Nat) (s : State) : Host.Outcome State Fault Refusal :=
  done s (s.alu r 0x0B false true true fun _ a b => if a.toNat ≤ b.toNat then a else b)

/-- MAXU (05 R139): s[RD] becomes the unsigned maximum. -/
def execMaxu (r : Nat) (s : State) : Host.Outcome State Fault Refusal :=
  done s (s.alu r 0x0C false true true fun _ a b => if a.toNat ≤ b.toNat then b else a)

/-- MINS (05 R139): s[RD] becomes the signed minimum. -/
def execMins (r : Nat) (s : State) : Host.Outcome State Fault Refusal :=
  done s (s.alu r 0x0D false true true fun _ a b => if a.toInt ≤ b.toInt then a else b)

/-- MAXS (05 R139): s[RD] becomes the signed maximum. -/
def execMaxs (r : Nat) (s : State) : Host.Outcome State Fault Refusal :=
  done s (s.alu r 0x0E false true true fun _ a b => if a.toInt ≤ b.toInt then b else a)

/-- SEL (05 R139): s[RD] becomes a when p[PS] is 1, else b. -/
def execSel (r : Nat) (s : State) : Host.Outcome State Fault Refusal :=
  done s (s.alu r 0x0F true true true fun p a b => if p then a else b)

/-- MOV (05 R139): s[RD] becomes b. -/
def execMov (r : Nat) (s : State) : Host.Outcome State Fault Refusal :=
  done s (s.alu r 0x10 false false true fun _ _ b => b)

/-- CLZ (05 R139): s[RD] becomes the number of leading zero bits of a. -/
def execClz (r : Nat) (s : State) : Host.Outcome State Fault Refusal :=
  done s (s.alu r 0x11 false true false fun _ a _ => clz64 a)

/-- POPC (05 R139): s[RD] becomes the number of 1 bits of a. -/
def execPopc (r : Nat) (s : State) : Host.Outcome State Fault Refusal :=
  done s (s.alu r 0x12 false true false fun _ a _ => BitVec.ofNat 64 (popc64 a))

/-! ### Compare -/

/-- The conditions of CMP (05 R140). -/
def cmpCond (c : Nat) (a b : W64) : Bool :=
  match c with
  | 0 => a == b
  | 1 => a != b
  | 2 => a.toNat < b.toNat
  | 3 => a.toNat ≤ b.toNat
  | 4 => b.toNat < a.toNat
  | 5 => b.toNat ≤ a.toNat
  | 6 => a.toInt < b.toInt
  | 7 => a.toInt ≤ b.toInt
  | 8 => b.toInt < a.toInt
  | 9 => b.toInt ≤ a.toInt
  | 10 => (a &&& b) != 0
  | _ => (a &&& b) == 0

/-- The reserved fields and values of format C (05 R136, R140). -/
def chkC (w : W128) : Bool :=
  fld w 106 106 == 0 && fld w 90 64 == 0 && fld w 115 112 < 12 && fld w 108 107 < 3 && selOk (fld w 105 99) &&
  (if bit w 91 then fld w 98 92 == 0 else selOk (fld w 98 92) && fld w 63 0 == 0)

/-- COMB of CMP: set, AND or OR with the predicate's old value. -/
def cmpComb (c : Nat) (old r : Bool) : Bool := if c = 0 then r else if c = 1 then old && r else old || r

/-- CMP (05 R140): p[PD] becomes, is ANDed with or is ORed with the condition on a and b. -/
def execCmp (r : Nat) (s : State) : Host.Outcome State Fault Refusal :=
  done s (s.issue r 0x20 chkC (fun _ _ => true) fun w u =>
    let t := u.task r
    match t.opA w true, t.opB w true with
    | some a, some b =>
      let pd := fld w 111 109
      (if t.guard w then u.modTask r fun t => t.setP pd (cmpComb (fld w 108 107) (t.pred pd) (cmpCond (fld w 115 112) a b))
       else u).issuedDone r w 1 (t.ctx.pc + 1)
    | _, _ => u.stallAt r .summary)

/-! ### Branches and loops -/

/-- TARGET of a branch. -/
def targetOf (w : W128) : Nat := fld w 111 96

/-- The tests of BR (05 R141). -/
def brTest (c : Nat) (v : W64) : Bool :=
  match c with
  | 0 => true
  | 1 => v == 0
  | 2 => v != 0
  | 3 => v.toInt < 0
  | 4 => 0 ≤ v.toInt
  | 5 => 0 < v.toInt
  | _ => v.toInt ≤ 0

/-- The reserved fields and values of format B. -/
def chkB (w : W128) : Bool :=
  fld w 119 116 == 0 && fld w 88 0 == 0 && fld w 115 112 < 7 &&
  (if fld w 115 112 = 0 then fld w 95 89 == 0 else selOk (fld w 95 89))

/-- A branch has been decided: taken at 2 route steps, not taken at 1 (04 R131, 05 R133). -/
def State.branch (s : State) (r : Nat) (w : W128) (taken : Bool) : State :=
  if taken then s.issuedDone r w 2 (targetOf w) else s.issuedDone r w 1 ((s.task r).ctx.pc + 1)

/-- BR (05 R141). -/
def execBr (r : Nat) (s : State) : Host.Outcome State Fault Refusal :=
  done s (s.issue r 0x30 chkB (fun _ _ => true) fun w u =>
    match (if fld w 115 112 = 0 then some 0 else (u.task r).src (fld w 95 89)) with
    | some v => u.branch r w (brTest (fld w 115 112) v)
    | none => u.stallAt r .summary)

/-- BRP (05 R142). -/
def execBrp (r : Nat) (s : State) : Host.Outcome State Fault Refusal :=
  done s (s.issue r 0x31 (fun w => fld w 119 116 == 0 && fld w 95 0 == 0) (fun _ _ => true) fun w u =>
    u.branch r w ((u.task r).pred (fld w 115 113) != bit w 112))

/-- LOOP (05 R143): a count of 0 stays 0 and falls through; else it is decremented, and the branch is taken while the
new count is not 0. -/
def execLoop (r : Nat) (s : State) : Host.Outcome State Fault Refusal :=
  done s (s.issue r 0x32 (fun w => fld w 119 112 == 0 && fld w 89 0 == 0) (fun _ _ => true) fun w u =>
    let k := fld w 95 90
    let c := (u.task r).sreg k
    if c = 0 then u.branch r w false
    else (u.modTask r fun t => t.setS k (c - 1)).branch r w (c - 1 != 0))

end Sys2Proof.Machine
end

