-- ==== Sys2Proof/Machine/Control.lean ====
section
/-! DEFINITION. WAIT, SIGNAL, JOIN, ENQUEUE, YIELD, COMMIT and ABORT at issue (05 R145 to R155), and the release of a
commit (04 R112, R114, R451; 06 R164, R165, R174, R185; 12 R347). -/

namespace Sys2Proof.Machine

/-! ### WAIT, SIGNAL, JOIN -/

/-- Operations of a segment that count toward a limit on what it stages: those staged and those still in the window. -/
def Task.stagedCount (t : Task) (f : Stg → Bool) (g : OpKind → Bool) : Nat :=
  (t.staged.filter fun e => f e.2).length + (t.win.filter fun e => match e.2 with
    | some o => g o.kind
    | none => false).length

/-- Staged SIGNALs of a segment, with those that will stage. -/
def Task.signals (t : Task) : Nat := t.stagedCount
  (fun x => match x with
    | .sig .. => true
    | _ => false)
  (fun k => match k with
    | .signal .. => true
    | _ => false)

/-- The reserved fields of an operation word with two sources: WAIT, SIGNAL, PUBLISH (05 R136, R137). -/
def chkTwo (w : W128) : Bool := fld w 99 64 == 0 && selOk (fld w 113 107) && selOk (fld w 106 100)

/-- WAIT at issue (05 R145): the handle must be available for waiting. -/
def execWait (r : Nat) (s : State) : Host.Outcome State Fault Refusal :=
  done s (s.issueOp r 0x40 chkTwo (fun _ _ => true)
    (fun w => [fld w 113 107, fld w 106 100]) fun w vs u =>
      let h := vs.getD 0 0
      if u.waitOk (u.task r).fk h then u.occupy r w (.wait h (vs.getD 1 0)) 2 0 else u.failTask r 0x18)

/-- SIGNAL at issue (05 R147, 12 R347): the handle must be available for signalling, and a segment stages at most 32.
Where both fail the status is 0x18 (DESIGN CHOICE, log 111). -/
def execSignal (r : Nat) (s : State) : Host.Outcome State Fault Refusal :=
  done s (s.issueOp r 0x41 chkTwo (fun _ _ => true)
    (fun w => [fld w 113 107, fld w 106 100]) fun w vs u =>
      let h := vs.getD 0 0
      let t := u.task r
      if !(u.sigOk t.fk h || (u.wpImport t.fk h).isSome) then u.failTask r 0x18
      else if !u.verkai t.part && 32 ≤ t.signals then u.failTask r 0x19
      else u.occupy r w (.signal h (vs.getD 1 0)) 2 0)

/-- JOIN (05 R149): the thread stands until every operation that MASK names has completed. -/
def execJoin (r : Nat) (s : State) : Host.Outcome State Fault Refusal :=
  done s (s.issue r 0x42 (fun w => fld w 119 64 == 0) (fun _ _ => true) fun w u =>
    if ((u.task r).named (w.setWidth 64)).isEmpty then u.issuedDone r w 1 ((u.task r).ctx.pc + 1) else u.stallAt r .join)

/-! ### ENQUEUE -/

/-- Staged ENQUEUEs of a segment. -/
def Task.enqueues (t : Task) : Nat := t.stagedCount
  (fun x => match x with
    | .enq .. => true
    | _ => false)
  (fun k => match k with
    | .enqueue .. => true
    | _ => false)

/-- ENQUEUE at issue (05 R150, R151; 04 R125, R126): a ring-slot credit of the target queue is drawn when the queue is
ENABLED and has one, and the predicate tells. In native mode the task is staged and the operation is complete; in
Verkai mode the operation keeps its slot until its mask is satisfied (R152). -/
def execEnqueue (r : Nat) (s : State) : Host.Outcome State Fault Refusal :=
  done s (s.issueOp r 0x50 (fun w => fld w 73 64 == 0 && selOk (fld w 103 97)) (fun _ _ => true)
    (fun w => [fld w 103 97]) fun w vs u =>
      let t := u.task r
      let pa := (vs.getD 0 0).toNat
      let len := fld w 96 81
      let ptr := bit w 80
      let scb := fld w 79 74
      let q := if bit w 110 then fld (t.sreg (fld w 109 104)) 5 0 else fld w 109 104
      let pd := fld w 113 111
      if len = 0 ∨ pa % 16 ≠ 0 ∨ (ptr = false ∧ 60 < scb) ∨ (ptr ∧ (t.sreg scb).toNat % 64 ≠ 0) ∨
          (u.verkai t.part = false ∧ 16 ≤ t.enqueues) then u.failTask r 0x19
      else
        let qk := qkey t.fk q
        let ok := (u.queue qk).st == .enabled && 0 < (u.queue qk).free
        let cbp := if ptr then some (t.sreg scb).toNat else none
        let cb := if ptr then [] else (List.range 4).map fun i => t.sreg (scb + i)
        let u := u.modTask r fun t => t.setP pd ok
        let u := if ok then u.modQueue qk fun x => { x with credHeld := x.credHeld + 1 } else u
        if u.verkai t.part then u.occupy r w (.enqueue q pa len cbp cb ok) 4 0
        else if !ok then (u.nextIss r).issuedDone r w 4 (t.ctx.pc + 1)
        else ((u.modTask r fun t => { t with staged := t.staged ++ [(t.issN, .enq q pa len cbp cb)] }).nextIss r).issuedDone r w 4
            (t.ctx.pc + 1))

/-- The task that an ENQUEUE of record `r` creates (04 R103, R125, R128). -/
def State.enqTask (s : State) (r q pa len : Nat) (cbp : Option Nat) (cb : List W64) : Task :=
  let t := s.task r
  let d := min (t.depth + 1) (2 ^ 64 - 1)
  let c : Ctx := { s := ((((([] : Tab W64) |> fun x => Tab.set 0 x 60 (cb.getD 0 0)) |> fun x => Tab.set 0 x 61 (BitVec.ofNat 64 d)) |>
    fun x => Tab.set 0 x 62 (BitVec.ofNat 64 q)) |> fun x => Tab.set 0 x 63 (BitVec.ofNat 64 t.seq)) }
  { kind := .enq, fk := t.fk, q := q, qgen := (s.queue (qkey t.fk q)).gen, seq := t.seq, depth := d, part := t.part
    job := t.job, progAddr := pa, progLen := len, cbMode := if cbp.isSome then 2 else 1, cbAddr := cbp.getD 0, cb := cb
    cbIn := cbp.isNone, start := c, ctx := c, limitUs := (s.queue (qkey t.fk q)).timeout.toNat }

/-- Release an ENQUEUE of record `r` (04 R112 step 4, R128): the task is admitted, or discarded with 0x16 when its queue
is no longer ENABLED. -/
def State.releaseEnq (s : State) (r q pa len : Nat) (cbp : Option Nat) (cb : List W64) : State :=
  let qk := qkey (s.task r).fk q
  if (s.queue qk).st = .enabled then s.admission (s.enqTask r q pa len cbp cb)
  else (s.modQueue qk (Queue.give 1)).geqNotice qk 0x16

/-! ### The release of a commit -/

/-- Staged effects in issue order. -/
def insertIss (x : Nat × Stg) : List (Nat × Stg) → List (Nat × Stg)
  | [] => [x]
  | y :: t => if y.1 ≤ x.1 then y :: insertIss x t else x :: y :: t

/-- Staged effects sorted by issue number. -/
def sortIss (l : List (Nat × Stg)) : List (Nat × Stg) := l.foldl (fun a x => insertIss x a) []

/-- The ranges that a task's PUBLISHes name. -/
def Task.pubs (t : Task) : List (Nat × Nat × Nat) := t.staged.flatMap fun e => match e.2 with
  | .pub n l => l.map fun x => (n, x.1, x.2)
  | _ => []

/-- The host drafts that a task's PUBLISHes name (06 R164, R165). -/
def Task.hostDrafts (t : Task) : List Draft :=
  t.drafts.filter fun d => d.kind == .host && !d.lost && t.pubs.any fun g => d.meets g.1 g.2.1 g.2.2

/-- The 4 KiB host pages that the write-back of a task's published host drafts needs: object, and page of the object
with its written granules (06 R165). -/
def Task.backPages (t : Task) : List (Nat × Nat) :=
  t.hostDrafts.flatMap fun d => (d.gran.map (· / 64)).dedup.map fun pg => (d.obj, pg)

/-- The granules of a page that cannot be written back are given up (06 R165): status 0x12 is met. -/
def State.dropGran (s : State) (r n pg : Nat) : State :=
  (s.modDraft r n pg fun d => { d with gran := d.gran.filter fun g => g / 64 != pg }).modTask r
    (Task.met 0x12 0)

/-- Obtain the translations with write permission that a write-back needs: the state, and whether one is still awaited
(06 R165, 11 R316: pages of a removed extent need none). Every granule without a translation is met before the bytes of any
other are looked at, so status 0x12 is met before 0x17 (04 R451 does not order them; DESIGN CHOICE, log 121). -/
def State.prepBack (s : State) (r : Nat) : List (Nat × Nat) → State × Bool
  | [] => (s, false)
  | (n, pg) :: l =>
    let o := s.obj n
    match o.extAt pg with
    | none => s.prepBack r l
    | some e => match e.store with
      | .pages _ => s.prepBack r l
      | .host iova =>
        match s.tryPage (.op r (s.task r).gen 64) (s.objSpace o) ((iova + (pg - e.off) * 4096) / 4096) true with
        | (u, .ok _) => u.prepBack r l
        | (u, .wait) => (u, true)
        | (u, .fail) => (u.dropGran r n pg).prepBack r l

/-- Open a window at release (06 R185): only if it is closed and still at the GEN read; else 0x18 for the task's queue. -/
def State.openWin (s : State) (r win obj off len acc g : Nat) : State :=
  let t := s.task r
  let w : Win := Tab.get {} (s.func t.fk).wins win
  if !w.isOpen && w.gen == g then
    s.modFunc t.fk fun f => { f with wins := Tab.set {} f.wins win ⟨true, if (g + 1) % 65536 = 0 then 1 else g + 1, obj, off, len, acc, some t.q⟩ }
  else s.geqNotice t.qk 0x18

/-- Close a window at release (06 R185): only if it is open at the handle's GEN. -/
def State.closeWin (s : State) (r : Nat) (h : W64) : State :=
  let fk := (s.task r).fk
  let k := fld h 7 0
  let w : Win := Tab.get {} (s.func fk).wins k
  if w.isOpen && w.gen == fld h 63 48 then s.modFunc fk fun f => { f with wins := Tab.set {} f.wins k { w with isOpen := false } }
  else s

/-- Send data to a peer's window through an import entry, in messages of at most 4 KiB (11 R326). Where the entry has been
cleared since the COPY was issued, nothing is sent and the task goes on, as for a window that has closed (06 R174; DESIGN
CHOICE, log 122). -/
def State.sendPeer (s : State) (v imp off : Nat) (data : List Byte) : State :=
  match Tab.get none (s.part (s.bindPart v)).imports imp with
  | some e => s.each (List.range (ceilDiv data.length 4096)) fun u i =>
      (u.handshakes 4 (e.dev % 8) 1).send (.fabricWrite (e.dev % 8) e.dev e.handle (off + 4096 * i) (slice data (4096 * i) 4096))
  | none => s

/-- Release a signal of record `r`: a local one goes to the Waypoint Store, a remote one to the peer (12 R347). -/
def State.releaseSig (s : State) (r : Nat) (slot : Option Nat) (h v : W64) : State :=
  let t := s.task r
  if bit h 47 then match s.wpImport t.fk h with
    | some e => (s.handshakes 4 (e.dev % 8) 1).send (.fabricSignal (e.dev % 8) e.dev e.handle v)
    | none => s
  else s.modWps fun w => { w with sigq := w.sigq ++ [(h, v, .task r t.gen t.fk slot)] }

/-- The first `len` bytes of a list of pages. -/
def State.pagesRead (s : State) (ps : List PageRef) (len : Nat) : List (Option Byte) :=
  (List.range len).map fun i => match ps[i / 4096]? with
    | some p => s.readLoc (p.loc (i % 4096))
    | none => none

/-- Send the data of a remote COPY from its draft pages; poisoned data is not sent, and status 0x17 is met as for a
write-back (04 R451, 13 R363; DESIGN CHOICE, log 122). -/
def State.sendDraft (s : State) (r imp off : Nat) (ps : List PageRef) (len : Nat) : State :=
  let data := s.pagesRead ps len
  if poisonStatus data = 0 then s.sendPeer (s.task r).fk imp off (plain data)
  else s.modTask r (Task.met 0x17 (s.badAmong (ps.flatMap PageRef.locs)))

/-- Steps 1 to 3 of a release, once its translations are held (04 R112). -/
def State.releaseNow (s : State) (r : Nat) : State :=
  let t := s.task r
  let l := sortIss t.staged
  let bad := s.badAmong (t.hostDrafts.flatMap Draft.granLocs)
  let (s, st) := s.publishAll r t.pubs
  let s := s.modTask r (Task.met st (if st = 0x17 then bad else 0))
  let s := s.each l fun u e => match e.2 with
    | .remote imp off len ps => (u.sendDraft r imp off ps len).freePages ps
    | _ => u
  let s := s.each l fun u e => match e.2 with
    | .openW win obj off len acc g => u.openWin r win obj off len acc g
    | .closeW h => u.closeWin r h
    | _ => u
  let s := s.each l fun u e => match e.2 with
    | .sig h v => u.releaseSig r none h v
    | _ => u
  let sigs := (l.filter fun e => match e.2 with
    | .sig h _ => !bit h 47
    | _ => false).length
  let s := s.modPart t.part fun p => { p with pins := p.pins.map fun x => if x.task == some (r, t.gen) then { x with task := none } else x }
  s.modTask r fun t => { t with released := true, sigs := sigs, staged := l.filter fun e => match e.2 with
    | .enq .. => true
    | _ => false }

/-- Release what a COMMITTING record `r` staged, as far as its hosts allow (04 R112, 06 R165). -/
def State.release (s : State) (r : Nat) : State :=
  let t := s.task r
  if t.released then s
  else match s.prepBack r t.backPages with
    | (u, true) => u
    | (u, false) => u.releaseNow r

/-! ### YIELD, COMMIT, ABORT -/

/-- The record moves to COMMITTING and its thread is free (01 R16, 04 R112). -/
def State.toCommitting (s : State) (r : Nat) (e : Ending) (summary : W64) (rec' : Bool) : State :=
  (s.dropBuf r (s.task r).gen).modTask r fun t =>
    { t with st := .committing, ending := e, summary := summary, wantRec := rec', thread := none, stall := .none, got := [], released := false }

/-- The reserved fields of format T for COMMIT and ABORT. -/
def chkT (w : W128) : Bool := fld w 119 114 == 0 && fld w 105 0 == 0 && selOk (fld w 113 107)

/-- The task's window is empty (04 R108). -/
def Task.idle (t : Task) : Bool := t.win.all fun e => e.2.isNone

/-- End a segment (04 R108): wait on all slots, read SSUM, count the steps, and go on with `k`. -/
def State.endSeg (s : State) (r opc steps : Nat) (chk : W128 → Bool) (k : W64 → Bool → State → State) : State :=
  s.issue r opc chk (fun _ _ => true) fun w u =>
    let t := u.task r
    if !t.idle then u.stallAt r .join
    else match (if opc = 0x51 then some 0 else t.src (fld w 113 107)) with
      | none => u.stallAt r .summary
      | some v => k v (bit w 106) (u.issued r w steps (t.ctx.pc + 1) none 0)

/-- COMMIT (05 R154, 04 R112). -/
def execCommit (r : Nat) (s : State) : Host.Outcome State Fault Refusal :=
  done s (s.endSeg r 0x52 4 chkT fun v rec' u => (u.toCommitting r .commit v rec').release r)

/-- YIELD (05 R153, 04 R123): a commit that retires no submission. -/
def execYield (r : Nat) (s : State) : Host.Outcome State Fault Refusal :=
  done s (s.endSeg r 0x51 24 (fun w => fld w 119 0 == 0) fun _ _ u => (u.toCommitting r .yield 0 false).release r)

/-- ABORT (05 R155, 04 R114): drafts, staged effects and pins are discarded, and the record goes through COMMITTING. -/
def execAbort (r : Nat) (s : State) : Host.Outcome State Fault Refusal :=
  done s (s.endSeg r 0x53 2 chkT fun v rec' u =>
    ((((u.toCommitting r .abort v rec').dropStaged r).dropDrafts r).dropPins r).modTask r fun t => { t with released := true })

end Sys2Proof.Machine
end

