-- ==== Sys2Proof/Machine/Formats.lean ====
section
/-! DEFINITION. Number formats and conversions of the MTUs on exact fractions (09_transform_arithmetic.md R255 to R264):
decoding is exact and encoding rounds once. -/

namespace Sys2Proof.Machine

/-- An exact value (09 R257): a sign with a magnitude `n / d`, an infinity or a NaN. -/
inductive Exact where
  | fin (neg : Bool) (n d : Nat)
  | inf (neg : Bool)
  | nan (neg : Bool)
  deriving DecidableEq, Repr

/-- The magnitude `m x 2^k` as a fraction. -/
def dyadic (neg : Bool) (m : Nat) (k : Int) : Exact :=
  if 0 ≤ k then .fin neg (m * 2 ^ k.toNat) 1 else .fin neg m (2 ^ (-k).toNat)

/-- Numerator and denominator of `(n / d) x 2^k`. -/
def scale2 (n d : Nat) (k : Int) : Nat × Nat := if 0 ≤ k then (n * 2 ^ k.toNat, d) else (n, d * 2 ^ (-k).toNat)

/-- floor(log2(n / d)) of a positive fraction. -/
def ilog2 (n d : Nat) : Int :=
  let e : Int := (Nat.log2 n : Int) - (Nat.log2 d : Int)
  let (a, b) := scale2 n d (-e)
  if a < b then e - 1 else e

/-! ### Rounding (09 R258, R259) -/

/-- One round of the stochastic generator. -/
def srRound (x k : W32) : W32 :=
  let x := (x ^^^ k) * 0x85EBCA6B#32
  let x := (x ^^^ (x >>> 13)) * 0xC2B2AE35#32
  x ^^^ (x >>> 16)

/-- sr_bits(seed, j) (09 R259). -/
def srBits (seed : W32) (j : Nat) : Nat :=
  let g : W32 := 0x9E3779B9#32
  (srRound (srRound (srRound (srRound (BitVec.ofNat 32 j) seed) (seed + g)) (seed + g + g)) (seed + g + g + g)).toNat

/-- `n / d` rounded to an integer under RND (09 R258, R259): modes 0 and 3 to nearest even, 2 toward zero, 1
stochastically with the generator's value for element `j`. -/
def roundInt (n d rnd : Nat) (seed : W32) (j : Nat) : Nat :=
  let t := n / d
  let r := n % d
  if r = 0 then t
  else if rnd = 2 then t
  else if rnd = 1 then (if srBits seed j < r * 2 ^ 32 / d then t + 1 else t)
  else if d < 2 * r then t + 1
  else if 2 * r < d then t
  else t + t % 2

/-! ### Formats with an exponent (09 R255) -/

/-- Kinds of special values: IEEE 754; E4M3, whose only NaN is S.1111.111; none. -/
inductive Specials where
  | ieee | e4m3 | none
  deriving DecidableEq, Repr

/-- A format: exponent bits, mantissa bits, bias, special values. -/
structure FloatFmt where
  e : Nat
  m : Nat
  bias : Nat
  sp : Specials
  deriving DecidableEq, Repr

/-- The format of an element of codes 0 to 9 (09 R255). -/
def elemFmt : Nat → FloatFmt
  | 0 => ⟨8, 23, 127, .ieee⟩
  | 1 => ⟨5, 10, 15, .ieee⟩
  | 2 => ⟨8, 7, 127, .ieee⟩
  | 3 => ⟨4, 3, 7, .e4m3⟩
  | 5 => ⟨4, 3, 7, .e4m3⟩
  | 4 => ⟨5, 2, 15, .ieee⟩
  | 6 => ⟨5, 2, 15, .ieee⟩
  | 7 => ⟨3, 2, 3, .none⟩
  | 8 => ⟨2, 3, 1, .none⟩
  | _ => ⟨2, 1, 1, .none⟩

/-- Bits of an element. -/
def FloatFmt.width (f : FloatFmt) : Nat := 1 + f.e + f.m

/-- The code of the largest finite magnitude. -/
def FloatFmt.maxBits (f : FloatFmt) : Nat := match f.sp with
  | .ieee => (2 ^ f.e - 1) * 2 ^ f.m - 1
  | .e4m3 => 2 ^ (f.e + f.m) - 2
  | .none => 2 ^ (f.e + f.m) - 1

/-- The code of infinity, where the format has one. -/
def FloatFmt.infBits (f : FloatFmt) : Nat := (2 ^ f.e - 1) * 2 ^ f.m

/-- The code of the canonical NaN (09 R255). -/
def FloatFmt.nanBits (f : FloatFmt) : Nat := match f.sp with
  | .ieee => f.infBits + 2 ^ (f.m - 1)
  | _ => 2 ^ (f.e + f.m) - 1

/-- The exact value of a code (09 R255). -/
def FloatFmt.decode (f : FloatFmt) (u : Nat) : Exact :=
  let neg := u.testBit (f.e + f.m)
  let ef := u / 2 ^ f.m % 2 ^ f.e
  let mf := u % 2 ^ f.m
  let top := 2 ^ f.e - 1
  if f.sp = .ieee ∧ ef = top then (if mf = 0 then .inf neg else .nan neg)
  else if f.sp = .e4m3 ∧ ef = top ∧ mf = 2 ^ f.m - 1 then .nan neg
  else if ef = 0 then dyadic neg mf (1 - (f.bias : Int) - f.m)
  else dyadic neg (2 ^ f.m + mf) ((ef : Int) - f.bias - f.m)

/-- The code, with no limit on the exponent, of the magnitude `n / d` rounded under `rnd`: a code above `maxBits` is
an overflow. -/
def FloatFmt.magBits (f : FloatFmt) (n d rnd : Nat) (seed : W32) (j : Nat) : Nat :=
  if n = 0 then 0 else
    let eb := max (ilog2 n d) (1 - (f.bias : Int))
    let (a, b) := scale2 n d ((f.m : Int) - eb)
    (eb + f.bias - 1).toNat * 2 ^ f.m + roundInt a b rnd seed j

/-- A magnitude lies above the largest finite one. -/
def FloatFmt.aboveMax (f : FloatFmt) (n d : Nat) : Bool := match f.decode f.maxBits with
  | .fin _ a b => a * d < n * b
  | _ => false

/-- The sign bit. -/
def FloatFmt.signBit (f : FloatFmt) (neg : Bool) : Nat := b2n neg * 2 ^ (f.e + f.m)

/-- Encode into codes 0 to 4 (09 R258): the code, and whether the element counts as saturated (R263). -/
def FloatFmt.encode (f : FloatFmt) (v : Exact) (rnd : Nat) (seed : W32) (j : Nat) : Nat × Bool :=
  match v with
  | .nan neg => (f.nanBits + f.signBit neg, false)
  | .inf neg =>
    if rnd = 3 ∨ (rnd = 2 ∧ f.sp ≠ .ieee) then (f.maxBits + f.signBit neg, false)
    else ((if f.sp = .ieee then f.infBits else f.nanBits) + f.signBit neg, false)
  | .fin neg n d =>
    let mode := if rnd = 1 ∧ f.aboveMax n d then 0 else rnd
    let u := f.magBits n d mode seed j
    if u ≤ f.maxBits then (u + f.signBit neg, false)
    else if 2 ≤ rnd then (f.maxBits + f.signBit neg, true)
    else ((if f.sp = .ieee then f.infBits else f.nanBits) + f.signBit neg, true)

/-! ### Arrays (09 R256) -/

/-- Bits of an element of a code from 0 to 11. -/
def codeWidth (c : Nat) : Nat := if c = 10 then 8 else if c = 11 then 4 else (elemFmt c).width

/-- A code is an MX format. -/
def isMx (c : Nat) : Bool := 5 ≤ c && c ≤ 9
/-- A code is group-scaled. -/
def isGroup (c : Nat) : Bool := c == 10 || c == 11

/-- ceil16 (09 R256). -/
def ceil16 (b : Nat) : Nat := (b + 15) / 16 * 16

/-- Bytes of a ZK6 page of row length 2^glog2 (09 R265). -/
def zk6Bytes (glog2 : Nat) : Nat := 320 + 12 * 2 ^ glog2

/-- Bytes of `n` elements of a format code (09 R256). -/
def fmtBytes (c n glog2 : Nat) : Nat :=
  if c = 12 then n / (16 * 2 ^ glog2) * zk6Bytes glog2
  else (if isMx c then ceil16 (n / 32) else 0) + n * codeWidth c / 8

/-- The `i`-th element of width `w` bits of packed bytes (09 R256). -/
def unpackAt (l : List Byte) (w i : Nat) : Nat :=
  if w % 8 = 0 then leAt l (i * (w / 8)) (w / 8)
  else leAt l (i * w / 8) 2 / 2 ^ (i * w % 8) % 2 ^ w

/-- Elements of `w` bits packed into bytes (09 R256): `per` elements make a whole number of bytes. -/
def packElems (w : Nat) (l : List Nat) : List Byte :=
  leBytes (l.length * w / 8) (l.foldr (fun x acc => x + acc * 2 ^ w) 0)

/-- The product of two exact values. -/
def Exact.scaleBy (s : Exact) (neg : Bool) (q : Nat) : Exact := match s with
  | .nan sn => .nan sn
  | .inf sn => if q = 0 then .nan false else .inf (neg != sn)
  | .fin sn n d => .fin (neg != sn) (q * n) d

/-- The `i`-th source element of code `c` in `data`, with group scales in `aux` (09 R255, R260, R261). -/
def decodeAt (c n glog2 : Nat) (data aux : List Byte) (i : Nat) : Exact :=
  if isMx c then
    let s := leAt data (i / 32) 1
    let v := (elemFmt c).decode (unpackAt (data.drop (ceil16 (n / 32))) (codeWidth c) i)
    if s = 0xFF then .nan false
    else match v with
      | .fin neg a b => let (x, y) := scale2 a b ((s : Int) - 127); .fin neg x y
      | x => x
  else if isGroup c then
    let w := codeWidth c
    let q := signed w (unpackAt data w i)
    ((elemFmt 0).decode (leAt aux (4 * (i / 2 ^ glog2)) 4)).scaleBy (decide (q < 0)) q.natAbs
  else (elemFmt c).decode (unpackAt data (codeWidth c) i)

/-- Every source element. -/
def decodeAll (c n glog2 : Nat) (data aux : List Byte) : List Exact := (List.range n).map (decodeAt c n glog2 data aux)

/-- The larger of two magnitudes as fractions. -/
def maxMag (a b : Nat × Nat) : Nat × Nat := if a.1 * b.2 < b.1 * a.2 then b else a

/-- The largest finite magnitude of a list (0 where there is none). -/
def amax (l : List Exact) : Nat × Nat := l.foldl (fun m v => match v with
  | .fin _ n d => maxMag m (n, d)
  | _ => m) (0, 1)

/-- An exact value that is no infinity and no NaN. -/
def Exact.isFin : Exact → Bool
  | .fin .. => true
  | _ => false

/-! ### Encoders -/

/-- emax of an MX element format (09 R260). -/
def emaxOf (c : Nat) : Int := match c with
  | 5 => 8
  | 6 => 15
  | 7 => 4
  | _ => 2

/-- One block of an MX format (09 R260): scale byte, element codes, saturated elements. `j` numbers its first element. A
scaled magnitude above the largest one is not rounded stochastically (R258). -/
def encodeBlock (c rnd : Nat) (seed : W32) (j : Nat) (blk : List Exact) : Nat × List Nat × Nat :=
  let f := elemFmt c
  if blk.any fun v => !v.isFin then (0xFF, blk.map fun _ => 0, blk.length)
  else
    let (an, ad) := amax blk
    if an = 0 then (0, blk.map fun v => match v with
      | .fin neg _ _ => f.signBit neg
      | _ => 0, 0)
    else
      let x : Int := min 127 (max (-127) (ilog2 an ad - emaxOf c))
      let el := (blk.zipIdx j).map fun v => match v.1 with
        | .fin neg n d =>
          let (a, b) := scale2 n d (-x)
          let u := f.magBits a b (if rnd = 1 ∧ f.aboveMax a b then 0 else rnd) seed v.2
          (min u f.maxBits + f.signBit neg, b2n (decide (f.maxBits < u)))
        | _ => (0, 0)
      ((x + 127).toNat, el.map (·.1), (el.map (·.2)).sum)

/-- Cut a list into `k` pieces of `w` elements. -/
def pieces {α : Type} (w : Nat) : Nat → List α → List (List α)
  | 0, _ => []
  | k + 1, l => l.take w :: pieces w k (l.drop w)

/-- Encode into an MX format (09 R256, R260): bytes and count. -/
def encodeMx (c rnd : Nat) (seed : W32) (l : List Exact) : List Byte × Nat :=
  let bs := ((pieces 32 (l.length / 32) l).zipIdx).map fun b => encodeBlock c rnd seed (32 * b.2) b.1
  let heads : List Byte := bs.map fun b => BitVec.ofNat 8 b.1
  (heads ++ List.replicate (ceil16 heads.length - heads.length) 0 ++ packElems (codeWidth c) (bs.flatMap fun b => b.2.1),
   (bs.map fun b => b.2.2).sum)

/-- The scale of a group (09 R261 step 2), as binary32 bits. -/
def groupScale (qmax : Nat) (m : Nat × Nat) : Nat :=
  if m.1 = 0 then 0
  else
    let u := (elemFmt 0).magBits m.1 (m.2 * qmax) 0 0 0
    min (max u 1) (elemFmt 0).maxBits

/-- One group of INT8 or INT4 (09 R261): scale bits, element codes, saturated elements. -/
def encodeGroup (c rnd : Nat) (seed : W32) (j : Nat) (g : List Exact) : Nat × List Nat × Nat :=
  let w := codeWidth c
  let qmax := if c = 10 then 127 else 7
  let sb := groupScale qmax (amax g)
  let el := (g.zipIdx j).map fun v => match v.1 with
    | .nan _ => (0, 1)
    | .inf neg => (if neg then 2 ^ w - qmax else qmax, 1)
    | .fin neg n d => match (elemFmt 0).decode sb with
      | .fin _ sn sd =>
        let q := if sn = 0 then 0 else roundInt (n * sd) (d * sn) (if rnd = 3 ∨ (rnd = 1 ∧ qmax * (d * sn) < n * sd) then 0 else rnd) seed v.2
        let k := min q qmax
        (if neg ∧ 0 < k then 2 ^ w - k else k, b2n (decide (qmax < q)))
      | _ => (0, 0)
  (sb, el.map (·.1), (el.map (·.2)).sum)

/-- Encode into INT8 or INT4 (09 R256, R261): bytes, scale array and count. -/
def encodeGroups (c rnd glog2 : Nat) (seed : W32) (l : List Exact) : List Byte × List Byte × Nat :=
  let gs := 2 ^ glog2
  let bs := ((pieces gs (l.length / gs) l).zipIdx).map fun b => encodeGroup c rnd seed (gs * b.2) b.1
  (packElems (codeWidth c) (bs.flatMap fun b => b.2.1), bs.flatMap (fun b => leBytes 4 b.1), (bs.map fun b => b.2.2).sum)

/-- Encode into codes 0 to 4: bytes and count. -/
def encodePlain (c rnd : Nat) (seed : W32) (l : List Exact) : List Byte × Nat :=
  let el := l.zipIdx.map fun v => (elemFmt c).encode v.1 rnd seed v.2
  (packElems (codeWidth c) (el.map (·.1)), (el.map fun x => b2n x.2).sum)

/-- CONVERT (09 R257 to R263): destination bytes, the new scale array where the destination is group-scaled, and the
number of elements saturated. -/
def convertBytes (sf df n rnd glog2 : Nat) (seed : W32) (data aux : List Byte) : List Byte × List Byte × Nat :=
  let vs := decodeAll sf n glog2 data aux
  if isMx df then let (b, k) := encodeMx df rnd seed vs; (b, [], k)
  else if isGroup df then encodeGroups df rnd glog2 seed vs
  else let (b, k) := encodePlain df rnd seed vs; (b, [], k)

/-! ### FOLD (09 R277) -/

/-- The checksum fold of little-endian words. -/
def foldWords : Nat → List Byte → Nat → Nat → Nat × Nat
  | 0, _, a, b => (a, b)
  | n + 1, l, a, b =>
    let a' := (a + leVal (l.take 4)) % 0xFFFFFFFF
    foldWords n (l.drop 4) a' ((b + a') % 0xFFFFFFFF)

/-- The 64-bit value that FOLD posts. -/
def foldOf (l : List Byte) : W64 :=
  let (a, b) := foldWords (l.length / 4) l 0 0
  BitVec.ofNat 64 (b * 2 ^ 32 + a)

end Sys2Proof.Machine
end

