-- ==== Sys2Proof/Machine/DataOps.lean ====
section
/-! DEFINITION. The data-moving operations and the operations on memory objects at issue: operand fields, issue checks
and the references they draw (06 R157 to R185). -/

namespace Sys2Proof.Machine

/-! ### Issue checks (06 R158, R159) -/

/-- An object that an operation names: number, offset, length in bytes, and whether its role writes it (11 R298). -/
structure Name where
  num : Nat
  off : Nat
  len : Nat
  write : Bool
  deriving DecidableEq, Repr

/-- The name that a reference gives. -/
def nameOf (w : W64) (len : Nat) (write : Bool) : Name := ⟨orNum w, orOff w, len, write⟩

/-- A reference that is neither a window nor object 0 (06 R158). -/
def refOk (w : W64) : Bool := !orWin w && orNum w != 0

/-- The object checks of 06 R159 in table order, each over every operand: the first status that fails, 0 where none. -/
def State.namesStatus (s : State) (v : Nat) (l : List Name) : Nat :=
  let st := l.map fun n => s.nameStatus v n.num n.write
  if st.any (· == 0x18) then 0x18
  else if st.any (· == 0x13) then 0x13
  else if l.any fun n => (s.obj n.num).reserved < n.off + n.len then 0x12
  else 0

/-- Issue an operation: `bad` is a failed check with 0x19, `perm` one with 0x18, namely a DECRYPT's key slot that is not
released (06 R179), which 06 R159's table gives no row: it comes before the object checks (DESIGN CHOICE, log 124). Then the
object checks, the references it draws (06 R160) and its slot. -/
def State.issueData (s : State) (r : Nat) (w : W128) (bad perm : Bool) (names : List Name) (k : OpKind) (steps detail : Nat) :
    State :=
  if bad then s.failTask r 0x19
  else if perm then s.failTask r 0x18
  else
    let st := s.namesStatus (s.task r).fk names
    if st ≠ 0 then s.failTask r st
    else (names.foldl (fun u n => u.drawRef r n.num) s).occupy r w k steps detail

/-! ### DISPATCH (06 R170) -/

/-- The reserved fields of DISPATCH. -/
def chkDispatch (w : W128) : Bool :=
  fld w 81 64 == 0 && selOk (fld w 113 107) && (if bit w 99 then selOk (fld w 106 100) else fld w 106 100 == 0) &&
  (if bit w 89 then selOk (fld w 88 82) else fld w 88 82 == 0)

/-- DISPATCH at issue. -/
def execDispatch (r : Nat) (s : State) : Host.Outcome State Fault Refusal :=
  done s (s.issueOp r 0x60 chkDispatch (fun _ _ => true)
    (fun w => [fld w 113 107, fld w 106 100, fld w 88 82]) fun w vs u =>
      let ss := vs.getD 0 0
      let scb := if bit w 99 then some (vs.getD 1 0) else none
      let ub := fld w 98 95
      let uc := fld w 94 90
      let cvy := bit w 89
      let tok := if cvy then (vs.getD 2 0).toNat else 0
      let bad := 16 < uc || 16 < ub + uc || (cvy && uc != 0) || (cvy && (tok == 0 || 2 ^ 20 < tok)) || !refOk ss ||
        orOff ss % 64 != 0 || scb.any fun c => !refOk c || orOff c % 64 != 0
      let names := nameOf ss 0 false :: (scb.toList.map fun c => nameOf c 256 false)
      u.issueData r w bad false names (.dispatch ss scb ub uc cvy tok) 4 tok)

/-! ### COPY and FILL (06 R173, R174; 11 R326) -/

/-- The import entry that the destination of a COPY names: set, and owned by the task's VF. -/
def State.importOk (s : State) (v : Nat) (w : W64) : Bool :=
  s.bound v && match Tab.get none (s.part (s.bindPart v)).imports (orNum w % 2 ^ 12) with
    | some e => e.vf == v
    | none => false

/-- The reserved fields of COPY and FILL, whose bits 64 to `n` hold nothing. -/
def chkMove (n : Nat) (w : W128) : Bool :=
  fld w n 64 == 0 && selOk (fld w 113 107) && selOk (fld w 106 100) && selOk (fld w 99 93)

/-- COPY at issue. -/
def execCopy (r : Nat) (s : State) : Host.Outcome State Fault Refusal :=
  done s (s.issueOp r 0x68 (chkMove 91) (fun _ _ => true)
    (fun w => [fld w 113 107, fld w 106 100, fld w 99 93]) fun w vs u =>
      let d := vs.getD 0 0
      let x := vs.getD 1 0
      let n := (vs.getD 2 0).toNat
      let win := orWin d
      let meet := !win && orNum d == orNum x && 0 < n && orOff d < orOff x + n && orOff x < orOff d + n
      let bad := !refOk x || (if win then orNum d / 2 ^ 12 != 0 else orNum d == 0) || 2 ^ 32 < n || meet
      let names := nameOf x n false :: (if win then [] else [nameOf d n true])
      u.issueData r w bad (win && !u.importOk (u.task r).fk d) names (.copy d x n (bit w 92)) 2 n)

/-- FILL at issue. -/
def execFill (r : Nat) (s : State) : Host.Outcome State Fault Refusal :=
  done s (s.issueOp r 0x69 (chkMove 90) (fun _ _ => true)
    (fun w => [fld w 113 107, fld w 106 100, fld w 99 93]) fun w vs u =>
      let d := vs.getD 0 0
      let n := (vs.getD 2 0).toNat
      let psz := fld w 92 91
      let bad := !refOk d || 2 ^ 32 < n || orOff d % 2 ^ psz != 0 || n % 2 ^ psz != 0
      u.issueData r w bad false [nameOf d n true] (.fill d (vs.getD 1 0) n psz) 2 n)

/-! ### Transform descriptors (06 R176 to R178, 09 R264) -/

/-- Decode a transform descriptor (06 R176). -/
def xfOf (v : W64) : Xf :=
  { op := fld v 63 60, src := fld v 59 56, dst := fld v 55 52, rnd := fld v 51 50, glog2 := fld v 49 46, key := fld v 39 32
    seed := v.setWidth 32 }

/-- GLOG2 is in range (06 R176). -/
def glogOk (g : Nat) : Bool := 5 ≤ g && g ≤ 12

/-- The combination, the unused fields and the count rule of a descriptor (06 R178, 09 R264). -/
def xfOk (v : W64) (n : Nat) (aen : Bool) : Bool :=
  let x := xfOf v
  let seedOk := x.rnd == 1 || x.seed == 0
  let group := isGroup x.src || isGroup x.dst
  let page := 16 * 2 ^ x.glog2
  fld v 45 40 == 0 &&
  match x.op with
  | 0 => x.src ≤ 11 && x.dst ≤ 11 && x.key == 0 && seedOk && n ≤ 2 ^ 30 &&
      (!(isMx x.src || isMx x.dst) || n % 32 == 0) &&
      (if group then glogOk x.glog2 && n % 2 ^ x.glog2 == 0 else x.glog2 == 0) && aen == group
  | 1 => x.src ≤ 2 && x.dst == 12 && x.key == 0 && seedOk && glogOk x.glog2 && n ≤ 2 ^ 30 && n % page == 0 && !aen
  | 2 => x.src == 12 && x.dst ≤ 2 && x.key == 0 && seedOk && glogOk x.glog2 && n ≤ 2 ^ 30 && n % page == 0 && !aen
  | 3 => x.src == 0 && x.dst == 0 && x.rnd == 0 && x.glog2 == 0 && x.seed == 0 && n ≤ 2 ^ 32 && n % 16 == 0 && aen
  | 4 => x.src == 0 && x.dst == 0 && x.rnd == 0 && x.glog2 == 0 && x.seed == 0 && x.key == 0 && n % 32 == 0 && !aen
  | _ => false

/-- Bytes that an XFORM of `n` elements reads, writes and uses of its auxiliary object (09 R256, 06 R178). -/
def xfBytes (x : Xf) (n : Nat) : Nat × Nat × Nat :=
  match x.op with
  | 3 => (n, n, 28)
  | 4 => (n, 0, 0)
  | _ => (fmtBytes x.src n x.glog2, fmtBytes x.dst n x.glog2, 4 * (n / 2 ^ x.glog2))

/-! ### GATHER (06 R175) -/

/-- Bytes that one index entry of a GATHER produces. -/
def gatherOut (plog : Nat) (xf : Option Xf) : Nat := match xf with
  | some x => 16 * 2 ^ x.glog2 * codeWidth x.dst / 8
  | none => 2 ^ (plog + 12)

/-- The reserved fields and values of GATHER. -/
def chkGather (w : W128) : Bool :=
  fld w 72 64 == 0 && selOk (fld w 113 107) && selOk (fld w 106 100) && selOk (fld w 99 93) && selOk (fld w 92 86) &&
  fld w 85 82 ≤ 8 && (if bit w 80 then selOk (fld w 79 73) else fld w 79 73 == 0)

/-- GATHER at issue. -/
def execGather (r : Nat) (s : State) : Host.Outcome State Fault Refusal :=
  done s (s.issueOp r 0x6A chkGather (fun _ _ => true)
    (fun w => [fld w 113 107, fld w 106 100, fld w 99 93, fld w 92 86, fld w 79 73]) fun w vs u =>
      let d := vs.getD 0 0
      let b := vs.getD 1 0
      let x := vs.getD 2 0
      let n := (vs.getD 3 0).toNat
      let v := vs.getD 4 0
      let xf := if bit w 80 then some (xfOf v) else none
      let plog := fld w 85 82
      let bad := !refOk d || !refOk b || !refOk x || 65536 < n || orOff d % 64 != 0 || orOff b % 64 != 0 || orOff x % 4 != 0 ||
        (bit w 80 && ((xfOf v).op != 2 || !xfOk v 0 false))
      u.issueData r w bad false [nameOf d (n * gatherOut plog xf) true, nameOf b 0 false, nameOf x (4 * n) false]
        (.gather d b x n plog (bit w 81) xf) 2 (n * gatherOut plog xf))

/-! ### XFORM (06 R176 to R179) -/

/-- The reserved fields of XFORM. -/
def chkXform (w : W128) : Bool :=
  fld w 71 64 == 0 && selOk (fld w 113 107) && selOk (fld w 106 100) && selOk (fld w 99 93) && selOk (fld w 92 86) &&
  (if bit w 78 then selOk (fld w 85 79) else fld w 85 79 == 0)

/-- An XFORM word is one of operation `op`; a word whose descriptor cannot be read yet, or whose OP is reserved, is any. -/
def xformMine (op : Nat) (t : Task) (w : W128) : Bool :=
  if (t.op (opnumOf w)).isSome then true else match t.src (fld w 92 86) with
    | some v => fld v 63 60 == op || 4 < fld v 63 60
    | none => true

/-- XFORM at issue, for the operation `op` of its descriptor. A DECRYPT needs its key slot (06 R179, 09 R275). -/
def State.xformIssue (s : State) (r op : Nat) : State :=
  s.issueOp r 0x70 chkXform (xformMine op)
    (fun w => [fld w 113 107, fld w 106 100, fld w 99 93, fld w 92 86, fld w 85 79]) fun w vs u =>
      let d := vs.getD 0 0
      let x := vs.getD 1 0
      let n := (vs.getD 2 0).toNat
      let v := vs.getD 3 0
      let xf := xfOf v
      let aux := if bit w 78 then some (vs.getD 4 0) else none
      let b := xfBytes xf n
      let isFold := xf.op == 4
      let bad := !xfOk v n (bit w 78) || (isFold && fld w 113 107 != 0) || (!isFold && (!refOk d || orOff d % 16 != 0)) ||
        !refOk x || orOff x % 16 != 0 || aux.any fun a => !refOk a || (xf.op == 0 && orOff a % 4 != 0)
      let names := nameOf x b.1 false :: (if isFold then [] else [nameOf d b.2.1 true]) ++
        aux.toList.map fun a => nameOf a b.2.2 (xf.op == 0 && isGroup xf.dst)
      u.issueData r w bad (xf.op == 3 && (u.keyFor (u.task r).part xf.key).isNone) names
        (.xform d x n xf aux (if bit w 77 then some (fld w 76 73) else none) (bit w 72)) 3 b.2.1

/-- CONVERT at issue. -/
def execConvert (r : Nat) (s : State) : Host.Outcome State Fault Refusal := done s (s.xformIssue r 0)
/-- KV_COMPRESS at issue. -/
def execKvCompress (r : Nat) (s : State) : Host.Outcome State Fault Refusal := done s (s.xformIssue r 1)
/-- KV_EXPAND at issue. -/
def execKvExpand (r : Nat) (s : State) : Host.Outcome State Fault Refusal := done s (s.xformIssue r 2)
/-- DECRYPT at issue. -/
def execDecrypt (r : Nat) (s : State) : Host.Outcome State Fault Refusal := done s (s.xformIssue r 3)
/-- FOLD at issue. -/
def execFold (r : Nat) (s : State) : Host.Outcome State Fault Refusal := done s (s.xformIssue r 4)

/-! ### SAMPLE, PUBLISH (06 R180 to R182; 10 R282) -/

/-- Staged PUBLISHes of a segment, with the implicit ones of SAMPLE and those that will stage (06 R182); one of length zero
stages nothing (06 R161). -/
def Task.publishes (t : Task) : Nat := t.stagedCount
  (fun x => match x with
    | .pub .. => true
    | _ => false)
  (fun k => match k with
    | .publish _ n => n != 0
    | .sample .. => true
    | _ => false)

/-- The reserved fields of SAMPLE. -/
def chkSample (w : W128) : Bool :=
  fld w 66 64 == 0 && selOk (fld w 113 107) && selOk (fld w 106 100) && selOk (fld w 99 93) && selOk (fld w 92 86) &&
  selOk (fld w 85 79) && selOk (fld w 78 72)

/-- SAMPLE at issue. -/
def execSample (r : Nat) (s : State) : Host.Outcome State Fault Refusal :=
  done s (s.issueOp r 0x78 chkSample (fun _ _ => true)
    (fun w => [fld w 113 107, fld w 106 100, fld w 99 93, fld w 92 86, fld w 85 79, fld w 78 72]) fun w vs u =>
      let l := vs.getD 0 0
      let p := vs.getD 1 0
      let h := vs.getD 2 0
      let pos := vs.getD 4 0
      let v := (vs.getD 5 0).toNat
      let lf := fld w 67 67
      let ew := if lf = 1 then 4 else 2
      let t := u.task r
      let bad := !refOk l || !refOk p || !refOk h || v == 0 || 2 ^ 20 < v || orOff l % ew != 0 || orOff p % 64 != 0 ||
        (!u.verkai t.part && 64 ≤ t.publishes)
      u.issueData r w bad false [nameOf l (v * ew) false, nameOf p 64 false, nameOf h (4 * pos.toNat + 4) true]
        (.sample l p h (vs.getD 3 0) pos v (fld w 71 68) lf) 3 v)

/-- PUBLISH at issue. -/
def execPublish (r : Nat) (s : State) : Host.Outcome State Fault Refusal :=
  done s (s.issueOp r 0x80 chkTwo (fun _ _ => true)
    (fun w => [fld w 113 107, fld w 106 100]) fun w vs u =>
      let o := vs.getD 0 0
      let n := (vs.getD 1 0).toNat
      let t := u.task r
      u.issueData r w (!refOk o || (!u.verkai t.part && n != 0 && 64 ≤ t.publishes)) false [nameOf o n true] (.publish o n) 2 0)

/-! ### PIN, UNPIN, OPENWIN, CLOSEWIN (06 R183 to R185) -/

/-- The reserved fields of PIN and UNPIN. -/
def chkPin (w : W128) : Bool := fld w 93 64 == 0 && selOk (fld w 113 107) && selOk (fld w 106 100) && !(bit w 99 && bit w 98)

/-- PIN and UNPIN at issue. -/
def State.pinIssue (s : State) (r : Nat) (unpin : Bool) : State :=
  s.issueOp r 0x81 chkPin
    (fun _ w => bit w 99 == unpin) (fun w => [fld w 113 107, fld w 106 100]) fun w vs u =>
      let o := vs.getD 0 0
      let n := (vs.getD 1 0).toNat
      u.issueData r w (!refOk o) false [nameOf o n false] (.pin o n unpin (if bit w 98 then some (fld w 97 94) else none)) 2 0

/-- PIN at issue. -/
def execPin (r : Nat) (s : State) : Host.Outcome State Fault Refusal := done s (s.pinIssue r false)
/-- UNPIN at issue. -/
def execUnpin (r : Nat) (s : State) : Host.Outcome State Fault Refusal := done s (s.pinIssue r true)

/-- The reserved fields and values of OPENWIN. -/
def chkOpenwin (w : W128) : Bool :=
  fld w 86 64 == 0 && selOk (fld w 113 107) && selOk (fld w 106 100) && selOk (fld w 99 93) && fld w 92 91 != 0

/-- OPENWIN at issue. -/
def execOpenwin (r : Nat) (s : State) : Host.Outcome State Fault Refusal :=
  done s (s.issueOp r 0x82 chkOpenwin
    (fun _ _ => true) (fun w => [fld w 113 107, fld w 106 100, fld w 99 93]) fun w vs u =>
      let o := vs.getD 0 0
      let n := (vs.getD 1 0).toNat
      let win := (vs.getD 2 0).toNat
      u.issueData r w (!refOk o || n == 0 || 2 ^ 32 < n || 255 < win) false [nameOf o n true]
        (.openwin o n win (fld w 92 91) (fld w 90 87)) 2 0)

/-- CLOSEWIN at issue: the handle must be of the task's VF. -/
def execClosewin (r : Nat) (s : State) : Host.Outcome State Fault Refusal :=
  done s (s.issueOp r 0x83 (fun w => fld w 106 64 == 0 && selOk (fld w 113 107)) (fun _ _ => true)
    (fun w => [fld w 113 107]) fun w vs u =>
      let h := vs.getD 0 0
      u.issueData r w false (fld h 17 8 != (u.task r).fk) [] (.closewin h) 2 0)

end Sys2Proof.Machine
end

