-- ==== Sys2Proof/Machine/Select.lean ====
section
/-! DEFINITION. Deterministic token selection (10_sampling_units.md R281 to R291): binary32 steps, penalties,
candidates, weights, top-p, min-p and the draw. -/

namespace Sys2Proof.Machine

/-! ### binary32 steps (10 R284) -/

/-- A binary32 code as an exact value. -/
def f32 (u : Nat) : Exact := (elemFmt 0).decode u
/-- The binary32 code of an exact value, rounded to nearest even. -/
def toF32 (v : Exact) : Nat := ((elemFmt 0).encode v 0 0 0).1
/-- A NaN. -/
def nan32 : Nat := 0x7FC00000
/-- The code is a NaN. -/
def isNan32 (u : Nat) : Bool := match f32 u with
  | .nan _ => true
  | _ => false
/-- Minus infinity. -/
def negInf32 : Nat := 0xFF800000
/-- Plus infinity. -/
def posInf32 : Nat := 0x7F800000

/-- An exact value as a signed fraction. -/
def sgn (neg : Bool) (n : Nat) : Int := if neg then -(n : Int) else n

/-- The sum of two exact values; an exact zero sum is +0 unless both are negative. -/
def Exact.add : Exact → Exact → Exact
  | .nan s, _ => .nan s
  | _, .nan s => .nan s
  | .inf a, .inf b => if a = b then .inf a else .nan false
  | .inf a, _ => .inf a
  | _, .inf b => .inf b
  | .fin a n d, .fin b m e =>
    let x := sgn a n * e + sgn b m * d
    .fin (if x = 0 then a && b else decide (x < 0)) x.natAbs (d * e)

/-- The negation. -/
def Exact.neg : Exact → Exact
  | .nan s => .nan s
  | .inf a => .inf (!a)
  | .fin a n d => .fin (!a) n d

/-- The product. -/
def Exact.mul : Exact → Exact → Exact
  | .nan s, _ => .nan s
  | _, .nan s => .nan s
  | .inf a, .inf b => .inf (a != b)
  | .inf a, .fin b m _ => if m = 0 then .nan false else .inf (a != b)
  | .fin a n _, .inf b => if n = 0 then .nan false else .inf (a != b)
  | .fin a n d, .fin b m e => .fin (a != b) (n * m) (d * e)

/-- The quotient. -/
def Exact.div : Exact → Exact → Exact
  | .nan s, _ => .nan s
  | _, .nan s => .nan s
  | .inf _, .inf _ => .nan false
  | .inf a, .fin b _ _ => .inf (a != b)
  | .fin a _ _, .inf b => .fin (a != b) 0 1
  | .fin a n d, .fin b m e => if m = 0 then (if n = 0 then .nan false else .inf (a != b)) else .fin (a != b) (n * e) (d * m)

/-- One binary32 operation, rounded once. -/
def op32 (f : Exact → Exact → Exact) (a b : Nat) : Nat := toF32 (f (f32 a) (f32 b))

/-- `a < b` on codes that are no NaN. -/
def lt32 (a b : Nat) : Bool :=
  match f32 a, f32 b with
  | .inf x, .inf y => x && !y
  | .inf x, .fin .. => x
  | .fin .., .inf y => !y
  | .fin x n d, .fin y m e => sgn x n * e < sgn y m * d
  | _, _ => false

/-- A code's value is 0 or above (both zeros are). -/
def ge0 (a : Nat) : Bool := !lt32 a 0 && !isNan32 a

/-- The binary32 of an integer, rounded to nearest even. -/
def ofNat32 (n : Nat) : Nat := toF32 (.fin false n 1)

/-! ### Parameters (06 R180, 10 R283) -/

/-- The parameter block. -/
structure Params where
  temp : Nat
  rep : Nat
  freq : Nat
  topP : Nat
  minP : Nat
  topK : Nat
  win : Nat
  eos : Nat
  maxPos : Nat
  deriving DecidableEq, Repr

/-- Decode the 64 bytes. -/
def params (l : List Byte) : Params :=
  { temp := leAt l 0 4, rep := leAt l 4 4, freq := leAt l 8 4, topP := leAt l 12 4, minP := leAt l 16 4, topK := leAt l 20 2
    win := leAt l 22 2, eos := leAt l 24 4, maxPos := leAt l 28 4 }

/-- The value is 0 to 1.0, not a NaN. -/
def unitRange (u : Nat) : Bool := ge0 u && !lt32 0x3F800000 u

/-- The checks of 06 R180 and 10 R283. -/
def paramsOk (l : List Byte) : Bool :=
  let p := params l
  leAt l 32 32 == 0 && p.topK ≤ 1024 &&
  (f32 p.temp).isFin && ge0 p.temp && (f32 p.rep).isFin && lt32 0 p.rep && (f32 p.freq).isFin &&
  unitRange p.topP && unitRange p.minP

/-! ### History (10 R281, R282) -/

/-- First position of the window of a SAMPLE at `pos`. -/
def winLo (win pos : Nat) : Nat := if win = 0 then 0 else pos - win

/-- An entry with VALID 1 and a non-zero reserved field. -/
def badEntry (e : Nat) : Bool := e.testBit 31 && e / 2 ^ 20 % 2 ^ 11 != 0

/-- Entries of the window that hold token `i`. -/
def countOf (h : List Nat) (i : Nat) : Nat := (h.filter fun e => e.testBit 31 && e % 2 ^ 20 == i).length

/-! ### Logit stages (10 R285) -/

/-- Temperature, then penalties, of one logit. -/
def stage (p : Params) (count x : Nat) : Nat :=
  let l := if lt32 0 p.temp then op32 Exact.div x p.temp else x
  let l := if 0 < count then
      let l := if isNan32 l then nan32 else if ge0 l then op32 Exact.div l p.rep else op32 Exact.mul l p.rep
      op32 (fun a b => a.add b.neg) l (op32 Exact.mul p.freq (ofNat32 count))
    else l
  if isNan32 l then negInf32 else if l = posInf32 then 0x7F7FFFFF else l

/-! ### Candidates (10 R286) -/

/-- Insert a candidate: behind those of equal or higher value, which have lower indices. -/
def insertCand (x : Nat × Nat) : List (Nat × Nat) → List (Nat × Nat)
  | [] => [x]
  | y :: t => if lt32 y.1 x.1 then x :: y :: t else y :: insertCand x t

/-- The `k` highest-ranked entries (value, token) in rank order. -/
def topCands (k : Nat) (l : List Nat) : List (Nat × Nat) :=
  l.zipIdx.foldl (fun acc x => (insertCand x acc).take k) []

/-! ### Weights (10 R287) -/

/-- Sum of the first terms of the exponential series of `n / d`, over the denominator `d^k k!`: numerator, the last
term's numerator and the denominator. -/
def expTerms (n d : Nat) : Nat → Nat → Nat → Nat → Nat → Nat × Nat × Nat
  | 0, _, sum, term, den => (sum, term, den)
  | f + 1, k, sum, term, den => expTerms n d f (k + 1) (sum * (d * k) + term * n) (term * n) (den * (d * k))

/-- The integer nearest to 2^31 / e^(n/d) from `terms` terms: computed from a lower and an upper bound of the series,
`none` where they differ. -/
def weightWith (n d terms : Nat) : Option Nat :=
  let (s, t, q) := expTerms n d terms 1 1 1 1
  let lo := (2 * 2 ^ 31 * q + s) / (2 * s)
  let hi := (2 * 2 ^ 31 * q + (s + t)) / (2 * (s + t))
  if lo = hi then some lo else none

/-- The nearest integer, with more terms until the bounds agree (10 R287: it is unique). -/
def weightFuel (n d : Nat) : Nat → Nat → Nat
  | 0, _ => 0
  | f + 1, terms => match weightWith n d terms with
    | some w => w
    | none => weightFuel n d f (2 * terms)

/-- w[j] for a code `u` and the first candidate's code `top`. -/
def weight (u top : Nat) : Nat :=
  match f32 (op32 (fun a b => a.add b.neg) u top) with
  | .fin _ n d => if n = 0 then 2 ^ 31 else if 23 * d ≤ n then 0 else weightFuel n d 8 64
  | _ => 0

/-! ### Top-p, min-p and the draw (10 R288 to R291) -/

/-- Prefix sums of a list. -/
def prefixSums : Nat → List Nat → List Nat
  | _, [] => []
  | a, w :: t => (a + w) :: prefixSums (a + w) t

/-- floor(v x 2^k) of a code that is 0 or above. -/
def floorScaled (u k : Nat) : Nat := match f32 u with
  | .fin _ n d => n * 2 ^ k / d
  | _ => 0

/-- np of top-p. -/
def topPKeep (topP : Nat) (ws : List Nat) : Nat :=
  let t := (ws.sum * floorScaled topP 24 + 2 ^ 24 - 1) / 2 ^ 24
  match (prefixSums 0 ws).findIdx? fun x => t ≤ x with
  | some i => i + 1
  | none => ws.length

/-- n of min-p. -/
def minPKeep (minP : Nat) (ws : List Nat) : Nat := (ws.takeWhile fun w => floorScaled minP 31 ≤ w).length

/-- One round of the sampling generator. -/
def sampleRound (x k : W64) : W64 :=
  let x := x + k
  let x := (x ^^^ (x >>> 30)) * 0xBF58476D1CE4E5B9#64
  let x := (x ^^^ (x >>> 27)) * 0x94D049BB133111EB#64
  x ^^^ (x >>> 31)

/-- sample_bits(key, pos) (10 R291). -/
def sampleBits (key pos : W64) : W64 :=
  (List.range 6).foldl (fun x i => sampleRound x (key + BitVec.ofNat 64 i * 0x9E3779B97F4A7C15#64)) pos

/-- The token drawn from the logits as binary32 codes (10 R285 to R290). -/
def selectToken (p : Params) (hist : List Nat) (key pos : W64) (logits : List Nat) : Nat :=
  let ls := logits.zipIdx.map fun x => stage p (countOf hist x.2) x.1
  let cs := topCands (if p.topK = 0 then 1024 else p.topK) ls
  let first := cs.headD (0, 0)
  if !lt32 0 p.temp || first.1 = negInf32 then first.2
  else
    let ws := cs.map fun c => weight c.1 first.1
    let kept := ws.take (topPKeep p.topP ws)
    let kept := kept.take (minPKeep p.minP kept)
    let u := (sampleBits key pos).toNat * kept.sum / 2 ^ 64
    match (prefixSums 0 kept).findIdx? fun x => u < x with
    | some i => (cs.getD i (0, 0)).2
    | none => first.2

/-- The result word (06 R181). -/
def resultWord (p : Params) (token pos : Nat) : W64 :=
  pack [(63, b2n (decide (token = p.eos))), (62, b2n (decide (p.maxPos ≤ pos + 1))), (0, token)]

end Sys2Proof.Machine
end

