-- ==== Sys2Proof/Machine/Zk6.lean ====
section
/-! DEFINITION. The ZK6 key/value format (09_transform_arithmetic.md R265 to R268). -/

namespace Sys2Proof.Machine

/-- Rank of a value among the candidates of a row (09 R266): a NaN, an infinity, a finite magnitude. -/
def Exact.rank : Exact → Nat × (Nat × Nat)
  | .nan _ => (2, (0, 1))
  | .inf _ => (1, (0, 1))
  | .fin _ n d => (0, (n, d))

/-- `a` ranks above `b`. -/
def Exact.ranksAbove (a b : Exact) : Bool :=
  b.rank.1 < a.rank.1 || (a.rank.1 == b.rank.1 && b.rank.2.1 * a.rank.2.2 < a.rank.2.1 * b.rank.2.2)

/-- Insert a column behind those that rank at least as high. -/
def insertRank (x : Exact × Nat) : List (Exact × Nat) → List (Exact × Nat)
  | [] => [x]
  | y :: t => if x.1.ranksAbove y.1 then x :: y :: t else y :: insertRank x t

/-- The four highest-ranked columns of a row. -/
def candidates (row : List Exact) : List Nat :=
  ((row.zipIdx.foldl (fun acc x => (insertRank x acc).take 4) []).map (·.2))

/-- The exponent byte of the page scale (09 R266). -/
def zk6Scale (rows : List (List Exact)) : Nat :=
  let m := rows.foldl (fun m row =>
    let c := candidates row
    maxMag m (amax ((row.zipIdx.filter fun x => !c.contains x.2).map (·.1)))) (0, 1)
  if m.1 = 0 then 0
  else
    let e := ilog2 m.1 m.2
    let (a, b) := scale2 m.1 m.2 (-e)
    let k : Int := if a * 10000 ≤ 19375 * b then 4 else 3
    (min 254 (max 0 (e - k + 127))).toNat

/-- `v / 2^(e8 - 127)` rounded to an integer magnitude. -/
def zk6Round (e8 n d rnd : Nat) (seed : W32) (j : Nat) : Nat :=
  let (a, b) := scale2 n d (127 - (e8 : Int))
  roundInt a b rnd seed j

/-- The code of one element and its escape entry, if it has one (09 R265, R266). -/
def zk6Element (e8 rnd : Nat) (seed : W32) (cand : List Nat) (v : Exact) (c j : Nat) : Nat × Option Nat :=
  let esc : Nat × Option Nat := (0x20, some (((elemFmt 2).encode v 0 0 0).1 * 2 ^ 16 + c))
  match v with
  | .nan _ => if cand.contains c then esc else (0, none)
  | .inf neg => if cand.contains c then esc else (if neg then 64 - 31 else 31, none)
  | .fin neg n d =>
    let q := zk6Round e8 n d rnd seed j
    if cand.contains c && 31 < q then esc else (if neg && 0 < q then 64 - q else q, none)

/-- One row: codes and escape entries in column order. -/
def zk6Row (e8 rnd : Nat) (seed : W32) (j : Nat) (row : List Exact) : List Nat × List Nat :=
  let c := candidates row
  let l := row.zipIdx.map fun x => zk6Element e8 rnd seed c x.1 x.2 (j + x.2)
  (l.map (·.1), l.filterMap (·.2))

/-- Encode one page of 16 rows (09 R265, R266): its bytes and its rows with escapes. `j` numbers its first element. -/
def zk6Encode (sf glog2 rnd : Nat) (seed : W32) (j : Nat) (vs : List Exact) : List Byte × Nat :=
  let r := 2 ^ glog2
  let rows := pieces r 16 vs
  let e8 := zk6Scale rows
  let enc := rows.zipIdx.map fun x => zk6Row e8 rnd seed (j + r * x.2) x.1
  let escs := enc.map (·.2)
  let bits := (escs.zipIdx.filter fun x => !x.1.isEmpty).map fun x => 2 ^ x.2
  (leBytes 2 0x5A36 ++ leBytes 1 glog2 ++ leBytes 1 e8 ++ leBytes 2 bits.sum ++ leBytes 1 sf ++ leBytes 1 0 ++
    escs.flatMap (fun l => leBytes 1 l.length) ++ leBytes 40 0 ++
    escs.flatMap (fun l => leBytes 16 (l.foldr (fun x acc => x + acc * 2 ^ 32) 0)) ++
    enc.flatMap (fun x => packElems 6 x.1),
   bits.length)

/-- Encode consecutive pages: bytes and rows with escapes (09 R268). -/
def zk6EncodeAll (sf glog2 rnd : Nat) (seed : W32) (vs : List Exact) : List Byte × Nat :=
  let w := 16 * 2 ^ glog2
  let ps := (pieces w (vs.length / w) vs).zipIdx.map fun p => zk6Encode sf glog2 rnd seed (w * p.2) p.1
  (ps.flatMap (·.1), (ps.map (·.2)).sum)

/-- Escape entries of row `r` of a page. -/
def zk6Entries (l : List Byte) (r : Nat) : List Nat :=
  (List.range (leAt l (0x08 + r) 1)).map fun i => leAt l (0x40 + 16 * r + 4 * i) 4

/-- The 6-bit codes of row `r`. -/
def zk6Codes (l : List Byte) (glog2 r : Nat) : List Nat :=
  let row := l.drop (0x140 + 3 * 2 ^ glog2 / 4 * r)
  (List.range (2 ^ glog2)).map (unpackAt row 6)

/-- The columns of the codes -32. -/
def escColumns (codes : List Nat) : List Nat := (codes.zipIdx.filter fun x => x.1 == 0x20).map (·.2)

/-- A page passes the checks of 09 R267. -/
def zk6Valid (l : List Byte) (glog2 : Nat) : Bool :=
  leAt l 0 2 == 0x5A36 && leAt l 2 1 == glog2 && leAt l 3 1 ≤ 254 && leAt l 6 1 ≤ 2 && leAt l 7 1 == 0 &&
  leAt l 0x18 40 == 0 &&
  (List.range 16).all fun r =>
    let n := leAt l (0x08 + r) 1
    n ≤ 4 && (decide (0 < n)) == (leAt l 4 2).testBit r &&
    escColumns (zk6Codes l glog2 r) == (zk6Entries l r).map (· % 2 ^ 12)

/-- The values of a valid page in element order (09 R267). -/
def zk6Values (l : List Byte) (glog2 : Nat) : List Exact :=
  let e8 := leAt l 3 1
  (List.range 16).flatMap fun r =>
    let es := zk6Entries l r
    (zk6Codes l glog2 r).zipIdx.map fun x =>
      if x.1 = 0x20 then match es.find? fun e => e % 2 ^ 12 == x.2 with
        | some e => (elemFmt 2).decode (e / 2 ^ 16)
        | none => .fin false 0 1
      else
        let q := signed 6 x.1
        dyadic (decide (q < 0)) q.natAbs ((e8 : Int) - 127)

/-- Expand one page (09 R267): the bytes in `df`, or none where the page is not valid. -/
def zk6Expand (df glog2 rnd : Nat) (seed : W32) (j : Nat) (l : List Byte) : Option (List Byte) :=
  if zk6Valid l glog2 then
    some (packElems (elemFmt df).width ((zk6Values l glog2).zipIdx.map fun v => ((elemFmt df).encode v.1 rnd seed (j + v.2)).1))
  else none

/-- Expand consecutive pages. -/
def zk6ExpandAll (df glog2 rnd : Nat) (seed : W32) : Nat → Nat → List Byte → Option (List Byte)
  | 0, _, _ => some []
  | k + 1, j, l =>
    match zk6Expand df glog2 rnd seed j (l.take (zk6Bytes glog2)), zk6ExpandAll df glog2 rnd seed k (j + 16 * 2 ^ glog2) (l.drop (zk6Bytes glog2)) with
    | some a, some b => some (a ++ b)
    | _, _ => none

end Sys2Proof.Machine
end

