-- ==== Sys2Proof/Machine/Moves.lean ====
section
/-! DEFINITION. What the MTUs do for an operation (06 R161 to R181; 11 R316 to R318; 12 R329, R330): credits, what it
reads, computes and writes, and how its data moves in tiles of 64 KiB. -/

namespace Sys2Proof.Machine

/-! ### MTUs (06 R168) -/

/-- The MTU beside the bank that holds a reference's first byte. -/
def State.bankMtu (s : State) (t : Task) (w : W64) : Option Nat :=
  match s.backing t (orNum w) (orOff w) with
  | .loc (.ws a) => some (a / 2 ^ 27)
  | _ => none

/-- MTU `m`, or the next higher-numbered one that is not retired. -/
def State.liveMtu (s : State) (m : Nat) : Option Nat :=
  ((List.range 16).map fun i => (m + i) % 16).find? fun k => !s.mtuRetired k

/-- The MTU of an operation: beside the first of `refs` that lies in a bank, else by record index and number. -/
def State.opMtu (s : State) (r slot : Nat) (refs : List W64) : Option Nat :=
  s.liveMtu ((refs.findSome? fun w => s.bankMtu (s.task r) w).getD ((r + slot) % 16))

/-- The operation draws its MTU credit and starts; none is free otherwise. -/
def State.drawMtu (s : State) (r slot : Nat) (refs : List W64) : Option State :=
  match s.opMtu r slot refs with
  | some m => if 0 < s.mtuFree m then
      some ((s.modMtu m (· + 1)).modOp r slot fun o => { o with phase := .running, mtu := some m, began := s.stamp }).nextStamp
    else none
  | none => none

/-- Return the MTU credit of an operation. -/
def State.putMtu (s : State) (r slot : Nat) : State :=
  match ((s.task r).op slot).bind (·.mtu) with
  | some m => s.modMtu m (· - 1)
  | none => s

/-- An operation ends with a fault: it frees its slot and ends the task (04 R109). -/
def State.opFault (s : State) (r slot status : Nat) : State :=
  (((s.putMtu r slot).dropOpPages r slot).freeSlot r slot).failTask r status

/-- End the operation for which an access was prepared, or act on the state reached. -/
def Prep.runOp (p : Prep) (r slot : Nat) (k : State → State) : State := match p with
  | .ok s => k s
  | .wait s => s
  | .fail s st => s.opFault r slot st

/-- Prepare reads in order. -/
def State.prepReads (s : State) (who : Who) (r : Nat) : List (W64 × Nat) → Prep
  | [] => .ok s
  | (w, len) :: t => match s.prepRead who r (orNum w) (orOff w) len with
    | .ok u => u.prepReads who r t
    | x => x

/-- Prepare writes in order. -/
def State.prepWrites (s : State) (who : Who) (r : Nat) : List (W64 × Nat) → Prep
  | [] => .ok s
  | (w, len) :: t => match s.prepWrite who r (orNum w) (orOff w) len with
    | .ok u => u.prepWrites who r t
    | x => x

/-- Bytes that record `r` reads through a reference. -/
def State.refRead (s : State) (r : Nat) (x : W64 × Nat) : List (Option Byte) :=
  s.taskRead (s.task r) (orNum x.1) (orOff x.1) x.2

/-- The waiter of an operation. -/
def State.opWho (s : State) (r slot : Nat) : Who := .op r (s.task r).gen slot

/-- A reference moved on by a number of bytes. -/
def refAdd (w : W64) (k : Nat) : W64 := w + BitVec.ofNat 64 k

/-! ### What a running MTU operation reads, computes and writes -/

/-- What an operation produced: bytes to write by reference, and the value to post. -/
structure Moved where
  writes : List (W64 × List Byte)
  post : W64
  deriving DecidableEq, Repr

/-- The entries of a GATHER's index list, in order. -/
def gatherEntries (cap : List Byte) (n : Nat) : List Nat := (List.range n).map fun i => leAt cap (4 * i) 4

/-- The bytes that a GATHER reads of one page. -/
def gatherIn (plog : Nat) : Option Xf → Nat
  | some x => min (2 ^ (plog + 12)) (zk6Bytes x.glog2)
  | none => 2 ^ (plog + 12)

/-- What a running operation reads. -/
def Op.reads (o : Op) : List (W64 × Nat) := match o.kind with
  | .copy _ x n _ => [(x, n)]
  | .gather _ b _ n plog _ xf => (gatherEntries o.cap n).filterMap fun e =>
      if e = 0xFFFFFFFF then none else some (refAdd b (2 ^ (plog + 12) * e), gatherIn plog xf)
  | .xform _ x n xf aux _ _ =>
      let b := xfBytes xf n
      (x, b.1) :: (if xf.op = 0 ∧ isGroup xf.src then aux.toList.map fun a => (a, b.2.2) else [])
  | .sample l _ _ _ _ v _ lf => [(l, v * (if lf = 1 then 4 else 2))]
  | _ => []

/-- What a running operation writes. -/
def Op.writes (o : Op) : List (W64 × Nat) := match o.kind with
  | .copy d _ n _ => if orWin d then [] else [(d, n)]
  | .fill d _ n _ => [(d, n)]
  | .gather d _ _ n plog _ xf => [(d, n * gatherOut plog xf)]
  | .xform d _ n xf aux _ _ =>
      let b := xfBytes xf n
      if xf.op = 4 then [] else (d, b.2.1) :: (if xf.op = 0 ∧ isGroup xf.dst then aux.toList.map fun a => (a, b.2.2) else [])
  | .sample _ _ h _ pos _ _ _ => [(refAdd h (4 * pos.toNat), 4)]
  | _ => []

/-- The pieces of a GATHER's result, page by page; `none` where a ZK6 page is not valid (09 R267). `j` numbers the first
element of the next page that is read, in source order over the operation (09 R259). -/
def gatherPieces (out : Nat) (xf : Option Xf) : Nat → List Nat → List (List Byte) → Option (List Byte)
  | _, [], _ => some []
  | j, e :: es, ds =>
    if e = 0xFFFFFFFF then (gatherPieces out xf j es ds).map fun l => List.replicate out 0 ++ l
    else match (match xf with
        | none => some (ds.headD [], 0)
        | some x => (zk6Expand x.dst x.glog2 x.rnd x.seed j (ds.headD [])).map fun l => (l, 16 * 2 ^ x.glog2)) with
      | some (a, k) => (gatherPieces out xf (j + k) es ds.tail).map fun l => a ++ l
      | none => none

/-- Cut bytes into pieces of given lengths. -/
def cutBytes : List Nat → List Byte → List (List Byte)
  | [], _ => []
  | n :: l, b => b.take n :: cutBytes l (b.drop n)

/-- The bytes that an operation has read, one list for each range. -/
def Op.pieces (o : Op) : List (List Byte) := cutBytes (o.reads.map (·.2)) o.data

/-- The ZK6 pages among the bytes that an operation has read. -/
def Op.zkPages (o : Op) : List (Nat × List Byte) := match o.kind with
  | .gather _ _ _ _ _ _ (some x) => o.pieces.map fun l => (x.glog2, l)
  | .xform _ _ n x _ _ _ =>
    if x.op = 2 then (cutBytes (List.replicate (n / (16 * 2 ^ x.glog2)) (zk6Bytes x.glog2)) o.data).map fun l => (x.glog2, l) else []
  | _ => []

/-- What an operation computes from the bytes that it read, one list for each reference; or the status it ends with. -/
def Op.compute (o : Op) (data : List (List Byte)) : Except Nat Moved :=
  let d0 := data.headD []
  match o.kind with
  | .copy d _ _ _ => .ok ⟨if orWin d then [] else [(d, d0)], 0⟩
  | .fill d pat n psz => .ok ⟨[(d, (List.range n).map fun i => BitVec.ofNat 8 (pat.toNat / 256 ^ (i % 2 ^ psz)))], 0⟩
  | .gather d _ _ n plog _ xf => match gatherPieces (gatherOut plog xf) xf 0 (gatherEntries o.cap n) data with
    | some l => .ok ⟨[(d, l)], 0⟩
    | none => .error 0x19
  | .xform d _ n xf aux _ _ => match xf.op with
    | 0 =>
      let (b, sc, k) := convertBytes xf.src xf.dst n xf.rnd xf.glog2 xf.seed d0 (data.getD 1 [])
      .ok ⟨(d, b) :: (if isGroup xf.dst then aux.toList.map fun a => (a, sc) else []), BitVec.ofNat 64 k⟩
    | 1 =>
      let (b, k) := zk6EncodeAll xf.src xf.glog2 xf.rnd xf.seed (decodeAll xf.src n xf.glog2 d0 [])
      .ok ⟨[(d, b)], BitVec.ofNat 64 k⟩
    | 2 => match zk6ExpandAll xf.dst xf.glog2 xf.rnd xf.seed (n / (16 * 2 ^ xf.glog2)) 0 d0 with
      | some b => .ok ⟨[(d, b)], 0⟩
      | none => .error 0x19
    | 3 =>
      let (b, ok) := gcmDecrypt o.key (o.cap.take 12) [] ((o.cap.drop 12).take 16) d0
      if ok then .ok ⟨[(d, b)], 0⟩ else .error 0x17
    | _ => .ok ⟨[], foldOf d0⟩
  | .sample _ _ h key pos v _ lf =>
      let p := params (o.cap.take 64)
      let hist := (List.range ((o.cap.length - 64) / 4)).map fun i => leAt o.cap (64 + 4 * i) 4
      let ls := (List.range v).map fun i => if lf = 1 then leAt d0 (4 * i) 4 else leAt d0 (2 * i) 2 * 65536
      let tok := selectToken p hist key pos ls
      .ok ⟨[(refAdd h (4 * pos.toNat), leBytes 4 (2 ^ 31 + tok))], resultWord p tok pos.toNat⟩
  | _ => .ok ⟨[], 0⟩

/-- The summary registers that an operation posts with one value. -/
def OpKind.postOf (k : OpKind) (v : W64) : List (Nat × W64) := match k with
  | .xform _ _ _ _ _ (some u) _ => [(u, v)]
  | .sample _ _ _ _ _ _ u _ => [(u, v)]
  | _ => []

/-! ### Tiles (11 R317, R318) -/

/-- A tile of an operation: whether it is written, and its bytes of an object. -/
structure Tile where
  write : Bool
  obj : Nat
  off : Nat
  len : Nat
  deriving DecidableEq, Repr

/-- Grants of 64 bytes that a range takes in the Waystation banks (09 R251), as task `t` finds it. -/
def State.bankGrants (s : State) (t : Task) (x : Tile) : Nat :=
  ((pageChunks x.off x.len).map fun c => match s.backing t x.obj c.1 with
    | .loc (.ws _) => (c.1 + c.2 - 1) / 64 - c.1 / 64 + 1
    | _ => 0).sum

/-- Count what an MTU moved: events 0x0C0, 0x0C1, 0x0D0 and VF_CNT[6] (16 R436). -/
def State.countMoved (s : State) (r rd wr grants : Nat) : State :=
  let t := s.task r
  (((s.tickN 0x0C0 rd (some t.part)).tickN 0x0C1 wr (some t.part)).tickN 0x0D0 grants (some t.part)).vfTick t.fk 6 (rd + wr)

/-- The Waystation banks that a range lies in, or the chip fabric ports that lead to its package memory (11 R321), serve it
in grants of 64 bytes (09 R251), each one handshake (13 R364). -/
def State.bankHands (s : State) (t : Task) (x : Tile) : State :=
  s.each (pageChunks x.off x.len) fun u c =>
    let n := (c.1 + c.2 - 1) / 64 - c.1 / 64 + 1
    match s.backing t x.obj c.1 with
    | .loc (.ws a) => u.handshakes 3 (a / 33554432) n
    | .loc (.pkg a) => u.handshakes 4 (pkgPort a) n
    | _ => u

/-- MTU `m` has moved a range (16 R431, R436; 13 R364), which it does in grants of 64 bytes (09 R253). -/
def State.moved (s : State) (m r : Nat) (x : Tile) : State :=
  let t := s.task r
  ((s.countMoved r (if x.write then 0 else x.len) (if x.write then x.len else 0) (s.bankGrants t x)).handshakes 2 m
    (ceilDiv x.len 64)).bankHands t x

/-- The tiles of a range, 64 KiB each but for the last. -/
def tilesOf (write : Bool) (x : W64 × Nat) : List Tile :=
  (List.range (ceilDiv x.2 65536)).map fun i => ⟨write, orNum x.1, orOff x.1 + 65536 * i, min 65536 (x.2 - 65536 * i)⟩

/-- The tiles of an operation: those that it reads, then those that it writes. -/
def Op.tiles (o : Op) : List Tile := o.reads.flatMap (tilesOf false) ++ o.writes.flatMap (tilesOf true)

/-- The host ranges of a tile whose translations the operation needs: a write of a native task goes into a draft. -/
def State.tileAsk (s : State) (t : Task) (x : Tile) (res : List (Backing × Nat)) : List (Space × Nat × Nat) :=
  if x.write && !s.verkai t.part then [] else hostPart res

/-- Hold a translation, or ask for it early (11 R318, R320): a refusal counts only when a transfer reaches the page. -/
def State.prefetch (s : State) (who : Who) (sp : Space) (page : Nat) : State :=
  if (s.findX sp page).isSome then s.useX who sp page
  else if !(s.func sp.fk).atsEn || s.xl.fails.contains (who, .xlate sp page) ||
      (s.xl.reqs.any fun r => r.who == who && r.kind == .xlate sp page) then s
  else (s.tick 0x100 (some (s.partOf sp.fk))).issueReq sp.port (.xlate sp page) who 0

/-- Of the translations of `who`, those of a list of ranges are held, or asked for, and no others. -/
def State.window (s : State) (who : Who) (l : List (Space × Nat × Nat)) : State :=
  let ps := (segPages l).map fun g => (g.1, g.2.1 / 4096)
  (s.dropUse fun u => u.2.2 == who && !ps.contains (u.1, u.2.1)).each ps fun u p => u.prefetch who p.1 p.2

/-- The tile of an operation at its position and the next two are resolved, and their translations held or asked for (11
R317, R318). What an earlier look ahead resolved stays as it was (R316, R309). -/
def State.lookAhead (s : State) (r slot : Nat) : State :=
  match (s.task r).op slot with
  | none => s
  | some o =>
    let ts := (o.tiles.drop o.pos).take 3
    let res := o.res ++ (ts.drop o.res.length).map fun x => s.resolve x.obj x.off x.len
    (s.modOp r slot fun o => { o with res := res }).window (s.opWho r slot)
      ((ts.zip res).flatMap fun x => s.tileAsk (s.task r) x.1 x.2)

/-! ### The read buffers (12 R329) -/

/-- The newest entries of MTU `m` that fit its 256 KiB, and every entry of another MTU. -/
def keepBuf (m : Nat) : Nat → List RBuf → List RBuf
  | _, [] => []
  | room, x :: t =>
    if x.mtu ≠ m then x :: keepBuf m room t
    else if x.data.length ≤ room then x :: keepBuf m (room - x.data.length) t
    else t.filter fun y => y.mtu != m

/-- The bytes that an MTU's buffer holds of a range that the task of record `r` read before. -/
def State.buffered (s : State) (m r n o len : Nat) : Option (List Byte) :=
  (s.rbuf.find? fun x => x.mtu == m && x.r == r && x.gen == (s.task r).gen && x.obj == n && x.off ≤ o &&
    o + len ≤ x.off + x.data.length).map fun x => slice x.data (o - x.off) len

/-- What the task of record `r` has read enters the buffer of MTU `m`. -/
def State.fillBuf (s : State) (m r n o : Nat) (data : List Byte) : State :=
  { s with rbuf := keepBuf m 262144 (⟨m, r, (s.task r).gen, n, o, data⟩ :: s.rbuf) }

/-- The operation's reads are volatile (12 R330): VOL, and every read of a Sampling Unit. -/
def OpKind.vol : OpKind → Bool
  | .copy _ _ _ v => v
  | .gather _ _ _ _ _ v _ => v
  | .xform _ _ _ _ _ _ v => v
  | .sample .. => true
  | _ => false

/-! ### Moving tiles -/

/-- The operation has transferred a tile. -/
def State.tileDone (s : State) (r slot : Nat) (data : List Byte) : State :=
  (s.modOp r slot fun o => { o with data := o.data ++ data, pos := o.pos + 1, res := o.res.tail, got := [] }).lookAhead r slot

/-- Send data to a peer's window as a Verkai task's COPY runs (04 R129, 06 R174); `at'` is its place in the data. -/
def State.sendTile (s : State) (r : Nat) (o : Op) (at' : Nat) (data : List Byte) : State := match o.kind with
  | .copy d _ _ _ => if orWin d && s.verkai (s.task r).part then s.sendPeer (s.task r).fk (orNum d % 2 ^ 12) (orOff d + at') data else s
  | _ => s

/-- Read a tile that has been resolved (11 R317; 12 R329, R330): what the MTU's buffer holds serves a read that is not
volatile; the rest is read now. -/
def State.readTile (s : State) (r slot : Nat) (o : Op) (x : Tile) (res : List (Backing × Nat)) : Prep :=
  let m := o.mtu.getD 0
  let held (c : Nat × Nat) : Option (List Byte) := if o.kind.vol then none else s.buffered m r x.obj c.1 c.2
  let chunks := (pageChunks x.off x.len).zip res
  if (s.obj x.obj).lostAt x.off x.len then .fail s 0x17
  else if res.any fun c => c.1 == .hole then .fail s 0x12
  else if s.poolBadOn (s.obj x.obj).part res then .fail s.ctxRefuse 0x18
  else match s.fetchSegs (s.opWho r slot) (hostPart ((chunks.filter fun c => (held c.1).isNone).map (·.2))) with
    | .ok u =>
      let t := u.task r
      let data := chunks.flatMap fun c => match held c.1 with
        | some l => l.map some
        | none => (List.range c.1.2).map fun i => u.taskByteOn t x.obj (c.1.1 + i) (c.2.1.add i)
      if poisonStatus data ≠ 0 then .fail (u.noteBad r [(orWord x.obj x.off, x.len)]) 0x17
      else .ok ((((u.moved m r x).fillBuf m r x.obj x.off (plain data)).sendTile r o o.data.length
        (plain data)).tileDone r slot (plain data))
    | y => y

/-- Read tiles in order. -/
def State.readTiles (s : State) (r slot : Nat) : List Tile → Prep
  | [] => .ok s
  | x :: l => match (s.task r).op slot with
    | none => .ok s
    | some o => match s.readTile r slot o x (o.res.headD (s.resolve x.obj x.off x.len)) with
      | .ok u => u.readTiles r slot l
      | y => y

/-- Write tiles in order, each with its bytes: into drafts, or in place (04 R129). -/
def State.writeTiles (s : State) (r slot : Nat) : List (Tile × List Byte) → Prep
  | [] => .ok s
  | (x, b) :: l => match (s.task r).op slot with
    | none => .ok s
    | some o =>
      let res := o.res.headD (s.resolve x.obj x.off x.len)
      match s.prepWriteOn (s.opWho r slot) r x.obj x.off x.len res with
      | .ok u => (((u.taskWriteOn r x.obj x.off res (b.map some)).moved (o.mtu.getD 0) r x).tileDone
          r slot []).writeTiles r slot l
      | y => y

/-- Cut bytes into the lengths of a list of tiles. -/
def cutTiles : List Tile → List Byte → List (Tile × List Byte)
  | [], _ => []
  | x :: l, b => (x, b.take x.len) :: cutTiles l (b.drop x.len)

/-- The tiles that an operation still has to read. -/
def Op.toRead (o : Op) : List Tile := (o.tiles.drop o.pos).filter fun x => !x.write

/-- The tiles that an operation still has to write, with their part of what it produced. -/
def Op.toWrite (o : Op) (m : Moved) : List (Tile × List Byte) :=
  (cutTiles (o.tiles.filter (·.write)) (m.writes.flatMap (·.2))).drop (o.pos - (o.tiles.filter fun x => !x.write).length)

end Sys2Proof.Machine
end

