-- ==== Sys2Proof/Machine/Start.lean ====
section
/-! DEFINITION. Operations at their start and at their completion (04 R107, R109; 05 R145 to R152; 06 R161 to R185; 09
R265 to R278; 10 R279 to R294): MTU credits, start checks, what each operation moves, computes, stages and posts. -/

namespace Sys2Proof.Machine

/-! ### Operations that move data -/

/-- Count what an operation has read at its start (16 R431, R436). -/
def State.countReads (s : State) (m r : Nat) (reads : List (W64 × Nat)) : State :=
  s.each (reads.flatMap (tilesOf false)) fun u x => u.moved m r x

/-- Start an operation that moves data. What it reads at its start is read, and `chk` gives the status that these contents
end it with; then it holds its credit and runs, and its first tiles are resolved (11 R317). -/
def State.startMove (s : State) (r slot : Nat) (refs : List W64) (reads : List (W64 × Nat))
    (chk : List Byte → State → Nat) (key : KeyBits) : State :=
  (s.prepReads (s.opWho r slot) r reads).runOp r slot fun u =>
    match u.drawMtu r slot refs with
    | none => u
    | some v =>
      let data := reads.flatMap fun x => v.refRead r x
      if poisonStatus data ≠ 0 then (v.noteBad r reads).opFault r slot 0x17
      else
        let st := chk (plain data) v
        if st ≠ 0 then v.opFault r slot st
        else
          ((v.countReads (((v.task r).op slot).bind (·.mtu) |>.getD 0) r reads).modOp r slot fun o => { o with cap := plain data, key := key, got := [] }).lookAhead
            r slot

/-- Operations that read their source as they start: ZK6 pages are checked then (06 R159, 09 R267), and a remote COPY holds
its source's bytes from its start on (06 R174). -/
def Op.early (o : Op) : Bool := match o.kind with
  | .copy d _ _ _ => orWin d
  | .gather _ _ _ _ _ _ xf => xf.isSome
  | .xform _ _ _ x _ _ _ => x.op == 2
  | _ => false

/-- A ZK6 page that an operation has read is not valid (09 R267). -/
def Op.zkBad (o : Op) : Bool := o.zkPages.any fun x => !zk6Valid x.2 x.1

/-- Read the source of an operation that starts, as far as its hosts have answered; the rest is read as it goes on. -/
def State.readEarly (s : State) (r slot : Nat) : State := match (s.task r).op slot with
  | some o =>
    if o.phase == .running && o.early then (s.readTiles r slot o.toRead).runOp r slot fun u =>
      if ((u.task r).op slot).any Op.zkBad then u.opFault r slot 0x19 else u
    else s
  | none => s

/-- The draft space of a remote COPY of a native task (04 R110, 06 R174), allocated as a host draft's pages are (11 R307);
`none` while none is free. -/
def State.remotePages (s : State) (r slot len : Nat) : Option State :=
  let n := (s.task r).part
  if s.verkai n || ((s.task r).op slot).any (fun o => !o.pages.isEmpty) then some s
  else (s.takePages (fun u => u.allocPage n 3 (u.wsKeep n)) (ceilDiv len 4096)).map fun x =>
    x.2.modOp r slot fun o => { o with pages := x.1 }

/-! ### WAIT, SIGNAL, ENQUEUE -/

/-- A WAIT starts (05 R145): it completes at once when the waypoint is at or beyond its target, else it holds a lantern
(12 R348). -/
def State.startWait (s : State) (r slot : Nat) (h v : W64) : State :=
  let i := wpIndex h
  if !s.waitOk (s.task r).fk h then s.opFault r slot 0x18
  else if (s.wp i).poisoned then s.opFault r slot 0x17
  else if atOrBeyond (s.wp i).value v then s.completeOp r slot []
  else (s.modOp r slot fun o => { o with phase := .running }).modWps fun w => { w with lans := w.lans ++ [⟨i, v, .wait r slot⟩] }

/-- Enter a staged effect of the operation in `slot` (04 R110). -/
def State.stage (s : State) (r slot : Nat) (e : Stg) : State :=
  let iss := (((s.task r).op slot).map (·.iss)).getD 0
  s.modTask r fun t => { t with staged := t.staged ++ [(iss, e)] }

/-- A SIGNAL starts (05 R147): it stages in native mode; in Verkai mode it is released and completes when the Waypoint
Store has applied it, a remote one when it is sent. -/
def State.startSignal (s : State) (r slot : Nat) (h v : W64) : State :=
  if !s.verkai (s.task r).part then (s.stage r slot (.sig h v)).completeOp r slot []
  else if bit h 47 then (s.releaseSig r (some slot) h v).completeOp r slot []
  else (s.releaseSig r (some slot) h v).modOp r slot fun o => { o with phase := .running }

/-! ### DISPATCH (06 R170, R171; 07 R191, R194, R210, R211; 08 R230) -/

/-- The budget of partition `n` in ns (07 R211). -/
def State.budgetNs (s : State) (n : Nat) : Nat :=
  let p := s.part n
  let b := p.budget.toNat
  if b = 0 then p.curSliceUs * 1000 else if s.verkai n then b else min b (p.curSliceUs * 1000)

/-- The bound T of a stream with header bound `w` (07 R210; the VAI's own term doubled in dim mode, 14 R388). -/
def State.streamBound (s : State) (n w : Nat) (inBank : Bool) : Nat :=
  let p := s.part n
  w * p.stepNs + (if s.latch.dim then 2 else 1) * (if inBank then 30 else 800) + p.endNs

/-- The sum modulo 2^32 of the header words that HDR_CHK covers (07 R188). -/
def headerSum (h : List Byte) : Nat :=
  (((List.range 16).filter (· != 7)).foldl (fun a i => a + leAt h (4 * i) 4) 0) % 2 ^ 32

/-- Bytes of a bundle for `p` ports (07 R187). -/
def bundleBytes (p : Nat) : Nat := 8 + 16 * p

/-- The checks of 07 R191 in order: the status of the first that fails, 0 where none. Every combine code is defined, so
check 5 holds. -/
def State.streamStatus (s : State) (n : Nat) (ss : W64) (cvy inBank : Bool) (h : List Byte) : Nat :=
  let ps := s.portsOf n
  if leAt h 0 4 ≠ 0x53544D31 ∨ leAt h 4 2 ≠ 2 ∨ leAt h 7 1 ≠ 4 ∨ leAt h 8 4 = 0 ∨ 2 ^ 24 < leAt h 8 4 ∨ leAt h 12 4 = 0 ∨
      1 < leAt h 0x16 1 ∨ leAt h 0x17 1 ≠ 0 ∨ leAt h 0x20 32 ≠ 0 ∨ leAt h 0x1C 4 ≠ 2 ^ 32 - 1 - headerSum h then 0x19
  else if leAt h 6 1 ≠ ps.length then (if (s.part n).portLost then 0x1B else 0x19)
  else if ps.any fun k => fld (s.eport k).ident 63 32 != leAt h 0x18 4 then 0x19
  else if (leAt h 0x16 1 == 1) != cvy then 0x19
  else if (s.obj (orNum ss)).reserved < orOff ss + 0x40 + leAt h 8 4 * bundleBytes (leAt h 6 1) then 0x12
  else if s.budgetNs n < s.streamBound n (leAt h 12 4) inBank then 0x10
  else 0

/-- The initial value of a summary index under its combine code (07 R203). -/
def sumInit (comb i : Nat) : W64 := if comb / 4 ^ i % 4 = 2 then 0xFF800000#64 else 0

/-- A dispatch of a stream whose header is `h`. -/
def State.mkDisp (s : State) (n : Nat) (owner : Owner) (dtag : Nat) (ss : W64) (h : List Byte) (cbuf : List W64)
    (mtu ord : Nat) : Disp :=
  { owner := owner, dtag := dtag, obj := orNum ss, off := orOff ss, nports := leAt h 6 1, bundles := leAt h 8 4
    wcet := leAt h 12 4, sumcomb := leAt h 0x10 4, summask := leAt h 0x14 2, cbuf := cbuf, mtu := mtu, ord := ord
    lps := (s.portsOf n).map fun k => { port := k }, acc := (List.range 16).map (sumInit (leAt h 0x10 4))
    accKey := List.replicate 16 0 }

/-- Started dispatches in the order in which their masks were satisfied, behind the running one (07 R171). -/
def insertDisp (d : Disp) : List Disp → List Disp
  | [] => [d]
  | x :: t => if x.running || x.ord ≤ d.ord then x :: insertDisp d t else d :: x :: t

/-- The tagged DISPATCH words of a dispatch learn its tag (16 R440): its task's, or those of the convoy's members. -/
def State.dispTagged (s : State) (n : Nat) (owner : Owner) (dtag : Nat) : State := match owner with
  | .task r gen slot => s.tagDtag dtag fun g => !g.bundle && g.r == r && g.gen == gen && g.slot == some slot
  | .convoy => ((s.part n).cvy.run.getD []).foldl (fun u e => match Tab.get none (s.part n).cvy.members e.mslot with
    | some m => u.tagDtag dtag fun g => !g.bundle && g.r == m.r && g.gen == m.gen && g.slot == some m.slot
    | none => u) s

/-- A dispatch takes its tag and its MTU credit and enters the sequencer (07 R194, R196). -/
def State.enterDisp (s : State) (n : Nat) (owner : Owner) (ss : W64) (h : List Byte) (cbuf : List W64) (m ord : Nat) : State :=
  let d := s.mkDisp n owner (s.part n).dtag ss h cbuf m ord
  (((s.dispTagged n owner d.dtag).modPart n fun p => { p with dtag := (p.dtag + 1) % 65536, seqr := insertDisp d p.seqr }).modMtu m (· + 1)).runNext n

/-- The MTU of a stream of partition `n` (07 R194). -/
def State.streamMtu (s : State) (t : Task) (n : Nat) (ss : W64) : Option Nat :=
  s.liveMtu ((s.bankMtu t ss).getD (n % 16))

/-- A DISPATCH starts: the stream header and the engine constant buffer are read and checked; alone it enters the
sequencer, with CVY 1 it waits to join (08 R230, R231). A failing start counts as a started dispatch (DEDUCED, log 23). -/
def State.startDispatch (s : State) (r slot : Nat) (o : Op) (ss : W64) (scb : Option W64) (cvy : Bool) : State :=
  let t := s.task r
  let n := t.part
  let hl := min 64 ((s.obj (orNum ss)).reserved - orOff ss)
  let reads := (ss, hl) :: (if cvy then [] else scb.toList.map fun c => (c, 256))
  (s.prepReads (s.opWho r slot) r reads).runOp r slot fun u =>
    match u.streamMtu t n ss with
    | none => u
    | some m =>
      if !cvy && u.mtuFree m = 0 then u
      else
        let hb := u.refRead r (ss, hl)
        let cb := (scb.map fun c => u.refRead r (c, 256)).getD []
        let h := plain hb ++ List.replicate (64 - hl) 0
        let count (v : State) : State := if cvy then v else v.modPart n fun p => { p with dtag := (p.dtag + 1) % 65536 }
        if poisonStatus hb ≠ 0 ∨ (cvy = false ∧ poisonStatus cb ≠ 0) then ((count u).noteBad r reads).opFault r slot 0x17
        else
          let st := u.streamStatus n ss cvy (u.bankMtu t ss).isSome h
          if st ≠ 0 then (count u).opFault r slot st
          else
          let u := (u.countReads m r reads).modOp r slot fun o => { o with got := [] }
          if cvy then u.modOp r slot fun o => { o with phase := .joining, cap := h }
          else
            let cbuf := match scb with
              | some _ => words64 32 (plain cb)
              | none => t.cb
            (u.modOp r slot fun o => { o with phase := .running, began := u.stamp }).enterDisp n (.task r t.gen slot) ss h cbuf m o.ord

/-! ### PUBLISH and ageing (06 R182; 09 R271 to R273; 11 R308) -/

/-- The slots of a key/value object that a PUBLISH of a range creates under the ageing policy of the task's job, each
with the slot that ages with it (09 R271). -/
def State.ageSlots (s : State) (t : Task) (n off len : Nat) : List Nat :=
  let kv := (s.part t.part).jobKv
  let size := 2 ^ (fld kv 15 12 + 12)
  let win := fld kv 27 16
  if !bit kv 31 || !(s.obj n).kv then []
  else (t.drafts.filter fun d => d.obj == n && d.kind == .new).flatMap fun d =>
    ((List.range (d.len * 4096 / size + 1)).map fun i => d.off * 4096 / size + i).filter fun k =>
      decide (win ≤ k) && decide (off ≤ k * size) && decide (k * size < off + len) && decide ((s.obj n).publishedPg * 4096 ≤ k * size) &&
      decide (d.off * 4096 ≤ k * size) && decide (k * size < (d.off + d.len) * 4096)

/-- The slots that age with a PUBLISH: those `WINDOW` below the created ones. -/
def State.agedSlots (s : State) (t : Task) (n off len : Nat) : List Nat :=
  (s.ageSlots t n off len).map fun k => k - fld (s.part t.part).jobKv 27 16

/-- Compress slot `k` of object `n` into a replacement draft, the rest of which reads as zero (09 R271; 11 R308), or in
place in a Verkai partition (09 R273). -/
def State.ageSlot (s : State) (who : Who) (r n k : Nat) : Prep :=
  let kv := (s.part (s.task r).part).jobKv
  let size := 2 ^ (fld kv 15 12 + 12)
  let g := fld kv 11 8
  let data := s.pubRead n (k * size) size
  if poisonStatus data ≠ 0 then .fail (s.noteBad r [(orWord n (k * size), size)]) 0x17
  else
    let out := (zk6EncodeAll (fld kv 3 0) g (fld kv 5 4) 0 (decodeAll (fld kv 3 0) (16 * 2 ^ g) g (plain data) [])).1
    if s.verkai (s.task r).part then
      match s.prepWrite who r n (k * size) out.length with
      | .ok u => .ok (u.taskWrite r n (k * size) (out.map some))
      | x => x
    else
      let o := s.obj n
      let pg := k * size / 4096
      let old := (s.task r).drafts.filter fun d => d.meets n (k * size) size
      match s.allocPages o.part o.place (s.wsKeep o.part) (ceilDiv out.length 4096) with
      | none => .wait s
      | some (ps, u) =>
        let u := (u.zeroPages ps).freePages (old.flatMap Draft.own)
        let u := u.modTask r fun t => { t with drafts := (t.drafts.filter fun d => !d.meets n (k * size) size) ++
          [⟨n, pg, size / 4096, .repl, pageTab 0 ps, [], 0, [], [], false⟩] }
        .ok (u.taskWrite r n (k * size) (out.map some))

/-- Compress slots in order for the PUBLISH in `slot`, whose position counts those done. -/
def State.ageAll (s : State) (r slot n : Nat) : List Nat → Prep
  | [] => .ok s
  | k :: t =>
    let kv := (s.part (s.task r).part).jobKv
    let size := 2 ^ (fld kv 15 12 + 12)
    match s.ageSlot (s.opWho r slot) r n k with
    | .ok u =>
      let m := ((u.task r).op slot).bind (·.mtu) |>.getD 0
      (((u.moved m r ⟨false, n, k * size, size⟩).moved m r ⟨true, n, k * size, zk6Bytes (fld kv 11 8)⟩).modOp r slot
        fun o => { o with pos := o.pos + 1 }).ageAll r slot n t
    | x => x

/-- Publish the drafts of record `r` that a range meets and keep the others: a PUBLISH in Verkai mode extends the
published length (06 R182). -/
def State.publishRange (s : State) (r n off len : Nat) : State :=
  let ds := (s.task r).drafts
  let keep := ds.filter fun d => !d.meets n off len
  let (u, _) := (s.modTask r fun t => { t with drafts := ds.filter fun d => d.meets n off len }).publishAll r [(n, off, len)]
  u.modTask r fun t => { t with drafts := keep }

/-- A PUBLISH whose slots have been aged takes effect: staged, or at once in Verkai mode (06 R182). -/
def State.publishNow (s : State) (r slot n off len : Nat) (aged : List Nat) : State :=
  let size := 2 ^ (fld (s.part (s.task r).part).jobKv 15 12 + 12)
  if s.verkai (s.task r).part then aged.foldl (fun u k => u.publishRange r n (k * size) size) (s.publishRange r n off len)
  else s.stage r slot (.pub n ((off, len) :: aged.map fun k => (k * size, size)))

/-- The slots that the PUBLISH in `slot` ages are compressed; then it takes effect (09 R271). -/
def State.ageRest (s : State) (r slot n off len : Nat) (k : State → State) : State :=
  match (s.task r).op slot with
  | none => s
  | some o => (s.ageAll r slot n (o.aged.drop o.pos)).runOp r slot fun u => k (u.publishNow r slot n off len o.aged)

/-- A PUBLISH that ages slots starts (09 R271): it holds a credit of the MTU of the first of them. Which slots age is settled
now; in a Verkai partition it ages and takes effect now as well (R273), and its credit returns at its completion. -/
def State.startAge (s : State) (r slot n off len : Nat) (ks : List Nat) : State :=
  let size := 2 ^ (fld (s.part (s.task r).part).jobKv 15 12 + 12)
  match s.drawMtu r slot [pack [(40, n), (0, ks.headD 0 * size)]] with
  | none => s
  | some v =>
    let v := v.modOp r slot fun o => { o with aged := ks }
    if s.verkai (s.task r).part then v.ageRest r slot n off len fun u => u.modOp r slot fun o => { o with taken := true } else v

/-! ### PIN (06 R183, 11 R310) -/

/-- The package pages of the extents that a range of an object meets. -/
def State.pkgPages (s : State) (n off len : Nat) : List PageRef :=
  ((s.obj n).exts.filter fun e => e.off * 4096 < off + len && off < (e.off + e.len) * 4096).flatMap fun e => match e.store with
    | .pages l => l.filter fun p => match p with
      | .pkg _ => true
      | .ws _ => false
    | .host _ => []

/-- Replace page `p` by `q` in the extents of object `n`. -/
def State.flipPage (s : State) (n : Nat) (p q : PageRef) : State :=
  s.modObj n fun o => { o with exts := o.exts.map fun e => { e with store := match e.store with
    | .pages l => .pages (l.map fun x => if x = p then q else x)
    | .host a => .host a } }

/-- Move package pages of object `n` into Waystation pages; what they held becomes retiring (11 R309, R310). -/
def State.moveIn (s : State) (n : Nat) (ps qs : List PageRef) : State :=
  let s := s.each (ps.zip qs) fun u x => (u.copyPage x.1 x.2).flipPage n x.1 x.2
  if ps.isEmpty then s else (s.modSto fun m => { m with retiring := m.retiring ++ [⟨n, (s.obj n).part, ps, s.stamp⟩] }).nextStamp

/-- The results that PIN posts. -/
def pinPost (post : Option Nat) (v : W64) : List (Nat × W64) := post.toList.map fun u => (u, v)

/-- A PIN starts: the range becomes resident with its translations held, or 0 is posted. A second PIN by the same VF on
exactly the same range posts 1 and takes no further pin (06 R183 does not say whether it counts again; DESIGN CHOICE, log
123). -/
def State.startPin (s : State) (r slot n off len : Nat) (post : Option Nat) : State :=
  let t := s.task r
  if (s.obj n).lostAt off len then s.opFault r slot 0x17
  else if s.inHole n off len then s.opFault r slot 0x12
  else
    let segs := if (s.obj n).isHost then s.hostSegs t n off len else []
    let pre := segs.foldl (fun (x : State × Acc) g => match x.2 with
      | .ok _ => x.1.tryRange (s.opWho r slot) g.1 g.2.1 g.2.2 false
      | _ => x) (s, .ok ⟨⟨0, 0, none⟩, 0, true, true, 0⟩)
    match pre with
    | (u, .fail) => u.opFault r slot 0x12
    | (u, .wait) => u
    | (u, .ok _) =>
      if (u.part t.part).pins.any fun x => x.vf == t.fk && x.obj == n && x.off == off && x.len == len then
        u.completeOp r slot (pinPost post 1)
      else if 1024 ≤ (u.part t.part).pins.length then u.completeOp r slot (pinPost post 0)
      else
        let ps := u.pkgPages n off len
        match u.allocPages t.part 1 (u.wsKeep t.part) ps.length with
        | none => u.completeOp r slot (pinPost post 0)
        | some (qs, v) =>
          ((v.moveIn n ps qs).modPart t.part fun p => { p with pins := p.pins ++ [⟨t.fk, n, off, len, some (r, t.gen)⟩] }).completeOp
            r slot (pinPost post 1)

/-- An UNPIN starts: this VF's pin on exactly the range ends. -/
def State.startUnpin (s : State) (r slot n off len : Nat) : State :=
  let t := s.task r
  if (s.obj n).lostAt off len then s.opFault r slot 0x17
  else (s.modPart t.part fun p => { p with pins := p.pins.filter fun x => !(x.vf == t.fk && x.obj == n && x.off == off && x.len == len) }).completeOp
    r slot []

/-! ### OPENWIN, CLOSEWIN (06 R184, R185) -/

/-- The GEN after `g` of a window. -/
def winGen (g : Nat) : Nat := if (g + 1) % 65536 = 0 then 1 else g + 1

/-- An OPENWIN starts: the handle with the next GEN is posted and the opening staged, or made at once in Verkai mode. -/
def State.startOpenwin (s : State) (r slot n off len win acc udst : Nat) : State :=
  let fk := (s.task r).fk
  let g := (Tab.get {} (s.func fk).wins win).gen
  let h := pack [(48, winGen g), (8, fk), (0, win)]
  if (s.obj n).lostAt off len then s.opFault r slot 0x17
  else (if s.verkai (s.task r).part then s.openWin r win n off len acc g
   else s.stage r slot (.openW win n off len acc g)).completeOp r slot [(udst, h)]

/-- A CLOSEWIN starts. -/
def State.startClosewin (s : State) (r slot : Nat) (h : W64) : State :=
  (if s.verkai (s.task r).part then s.closeWin r h else s.stage r slot (.closeW h)).completeOp r slot []

/-! ### SAMPLE at start (06 R180, 10 R281 to R283) -/

/-- A SAMPLE starts once its MTU has a credit: the parameter block is read and checked, then the history window that it
names (10 R283); it holds its credit and waits for its Sampling Unit (10 R279). -/
def State.startSample (s : State) (r slot : Nat) (l p h pos : W64) : State :=
  if !((s.opMtu r slot [l]).any fun m => 0 < s.mtuFree m) then s
  else (s.prepReads (s.opWho r slot) r [(p, 64)]).runOp r slot fun u =>
    let pb := u.refRead r (p, 64)
    let lo := winLo (params (plain pb)).win pos.toNat
    if poisonStatus pb ≠ 0 then (u.noteBad r [(p, 64)]).opFault r slot 0x17
    else if !paramsOk (plain pb) then u.opFault r slot 0x19
    else u.startMove r slot [l] [(p, 64), (refAdd h (4 * lo), 4 * (pos.toNat - lo))]
      (fun d _ => if (List.range (pos.toNat - lo)).any fun i => badEntry (leAt d (64 + 4 * i) 4) then 0x19 else 0) 0

/-! ### Dim mode (06 R169; 14 R388, R389) -/

/-- Operations that wait in dim mode, by their kind. -/
def OpKind.dimHeld : OpKind → Bool
  | .gather _ _ _ _ _ _ (some _) => true
  | .xform _ _ _ x _ _ _ => x.op ≤ 2 && x.dst != 2
  | .sample _ _ _ _ _ _ _ lf => lf == 0
  | _ => false

/-- The length or count that an operation moves, 0 for one that does nothing (06 R161). -/
def OpKind.size : OpKind → Nat
  | .copy _ _ n _ => n
  | .fill _ _ n _ => n
  | .gather _ _ _ n _ _ _ => n
  | .xform _ _ n _ _ _ _ => n
  | .publish _ n => n
  | .pin _ n _ _ => n
  | _ => 1

/-- An operation of task `t` waits while dim mode lasts. -/
def State.dimWaits (s : State) (t : Task) (o : Op) : Bool :=
  o.kind.size != 0 && (o.kind.dimHeld || (match o.kind with
    | .publish w n => !(s.agedSlots t (orNum w) (orOff w) n).isEmpty
    | _ => false))

/-- The operation must wait: dim mode is in force, or it was held then and another one's mask was satisfied before its
own (14 R389). -/
def State.heldBack (s : State) (t : Task) (o : Op) : Bool :=
  s.dimWaits t o && (s.latch.dim || (decide (o.ord < s.boot.heldTo) && s.tasks.any fun e =>
    e.2.st == .running && e.2.win.any fun x => match x.2 with
      | some p => p.phase == .ready && decide (p.ord < o.ord) && s.dimWaits e.2 p
      | none => false))

/-! ### OPERATION_START -/

/-- The start of an operation (04 R107, 06 R161). -/
def State.startOp (s : State) (r slot : Nat) (o : Op) : State :=
  if o.kind.size = 0 then s.completeOp r slot []
  else match o.kind with
    | .wait h v => s.startWait r slot h v
    | .signal h v => s.startSignal r slot h v
    | .enqueue q pa len cbp cb drawn => (if drawn then s.releaseEnq r q pa len cbp cb else s).completeOp r slot []
    | .dispatch ss scb _ _ cvy _ => s.startDispatch r slot o ss scb cvy
    | .copy d x n _ =>
      if orWin d then match s.remotePages r slot n with
        | some u => (u.startMove r slot [x] [] (fun _ _ => 0) 0).readEarly r slot
        | none => s
      else s.startMove r slot [d, x] [] (fun _ _ => 0) 0
    | .fill d _ _ _ => s.startMove r slot [d] [] (fun _ _ => 0) 0
    | .gather d b x n plog _ _ =>
      (s.startMove r slot [d, b] [(x, 4 * n)] (fun l u =>
        if (List.range n).any fun i =>
            let e := leAt l (4 * i) 4
            e != 0xFFFFFFFF && decide ((u.obj (orNum b)).reserved < orOff b + 2 ^ (plog + 12) * (e + 1)) then 0x12 else 0) 0).readEarly
        r slot
    | .xform d x _ xf aux _ _ =>
      let refs := if xf.op = 4 then [x] else [d, x]
      if xf.op = 3 then match s.keyFor (s.task r).part xf.key with
        | none => s.opFault r slot 0x18
        | some k => s.startMove r slot refs (aux.toList.map fun a => (a, 28)) (fun _ _ => 0) k
      else (s.startMove r slot refs [] (fun _ _ => 0) 0).readEarly r slot
    | .sample l p h _ pos _ _ _ => s.startSample r slot l p h pos
    | .publish w n =>
      if (s.obj (orNum w)).lostAt (orOff w) n then s.opFault r slot 0x17
      else match s.agedSlots (s.task r) (orNum w) (orOff w) n with
      | [] => (s.publishNow r slot (orNum w) (orOff w) n []).completeOp r slot []
      | k :: l => s.startAge r slot (orNum w) (orOff w) n (k :: l)
    | .pin w n unpin post =>
      if unpin then s.startUnpin r slot (orNum w) (orOff w) n else s.startPin r slot (orNum w) (orOff w) n post
    | .openwin w n win acc u => s.startOpenwin r slot (orNum w) (orOff w) n win acc u
    | .closewin h => s.startClosewin r slot h

/-- OPERATION_START (04 R107): the operation in `slot` of record `r`, whose mask is satisfied, starts. -/
def execOperationStart (r slot : Nat) (s : State) : Host.Outcome State Fault Refusal :=
  let t := s.task r
  done s (match t.op slot with
    | none => s
    | some o => if t.st == .running && !t.suspended && o.phase == .ready && !s.heldBack t o then s.startOp r slot o else s)

/-! ### Completion -/

/-- Put bytes into draft pages. -/
def State.fillPages (s : State) (data : List Byte) : List PageRef → State
  | [] => s
  | p :: t => (s.writeRange (p.loc 0) ((data.take 4096).map some)).fillPages (data.drop 4096) t

/-- The effect of a finished operation besides its writes and its posts: a native task's remote COPY stages its bytes, held
in draft space (06 R174), and a SAMPLE stages the implicit PUBLISH of its history entry (R164). -/
def State.sideEffect (s : State) (r slot : Nat) (o : Op) : State := match o.kind with
  | .copy d _ n _ =>
    if !orWin d || s.verkai (s.task r).part then s
    else (s.fillPages o.data o.pages).stage r slot (.remote (orNum d % 2 ^ 12) (orOff d) n o.pages)
  | .sample _ _ h _ pos _ _ _ =>
    if s.verkai (s.task r).part then s.publishRange r (orNum h) (orOff h + 4 * pos.toNat) 4
    else s.stage r slot (.pub (orNum h) [(orOff h + 4 * pos.toNat, 4)])
  | _ => s

/-- A DECRYPT whose tag does not match leaves zeros where it wrote in place (09 R276). -/
def State.wipe (s : State) (r : Nat) (o : Op) : State := match o.kind with
  | .xform d _ n xf _ _ _ =>
    if xf.op = 3 ∧ s.verkai (s.task r).part then s.taskWrite r (orNum d) (orOff d) (List.replicate n (some 0)) else s
  | _ => s

/-- A running operation moves its remaining tiles and completes (06 R168; 11 R317; 12 R328), or ends with a fault (04
R109). -/
def State.finishMove (s : State) (r slot : Nat) (o : Op) : State :=
  (s.readTiles r slot o.toRead).runOp r slot fun u => match (u.task r).op slot with
    | none => u
    | some o => match o.compute o.pieces with
      | .error st => (u.wipe r o).opFault r slot st
      | .ok m => (u.writeTiles r slot (o.toWrite m)).runOp r slot fun v =>
          ((v.sideEffect r slot o).putMtu r slot).completeOp r slot (o.kind.postOf m.post)

/-- An ageing PUBLISH finishes its compression (09 R271); one that has taken effect already ends. -/
def State.finishAge (s : State) (r slot n off len : Nat) (o : Op) : State :=
  let finish (u : State) : State := (u.putMtu r slot).completeOp r slot []
  if o.taken then finish s else s.ageRest r slot n off len finish

/-- Put the first `k` bytes, modulo their number and one, of what is left to write in place; an object that the task may no
longer reach gets none. -/
def State.partPut (s : State) (t : Task) (l : List (Tile × List Byte)) (k : Nat) : State :=
  let n := (l.map fun x => x.2.length).sum
  ((l.foldl (fun (x : State × Nat) y =>
    (if x.1.nameStatus t.fk y.1.obj true = 0x18 ∨ (x.1.obj y.1.obj).st = .released then x.1
      else x.1.peerWrite y.1.obj y.1.off (y.2.take x.2), x.2 - y.2.length)) (s, k % (n + 1))).1).nextFree

/-- What a stopped operation of a Verkai task had done in place stays (04 R115, R129): of the tiles that it had still to
write, or to send to a peer, a first part whose length is free. -/
def State.partWrites (s : State) (r : Nat) (o : Op) : State :=
  let t := s.task r
  let data := o.reads.map fun x => s.refRead r x
  let k := Config.progress s.freeCtr
  if !s.verkai t.part || data.any fun l => poisonStatus l != 0 then s
  else
    let left := (plain data.flatten).drop o.data.length
    match o.compute (data.map plain) with
    | .error _ => s
    | .ok m => (s.sendTile r o o.data.length (left.take (k % (left.length + 1)))).partPut t (o.toWrite m) k

/-- MTU_OPERATION_COMPLETE (06 R168): the last write of a running MTU operation is done, or a stopped one has drained
(04 R115). It names its task by identifier: a reply for another generation of the record is dropped and counted (01 R15; 13
R373). -/
def execMtuOperationComplete (id slot : Nat) (s : State) : Host.Outcome State Fault Refusal :=
  let r := idRec id
  done s (if (s.task r).gen ≠ idGen id then s.mismatch else match (s.task r).op slot with
    | none => s
    | some o =>
      if o.mtu.isNone then s
      else match o.phase, o.kind with
        | .drain, .sample .. => (s.putMtu r slot).freeSlot r slot
        | .drain, .publish .. => (s.putMtu r slot).freeSlot r slot
        | .drain, _ => ((s.partWrites r o).putMtu r slot).freeSlot r slot
        | .running, .sample .. => s
        | .running, .publish w n => s.finishAge r slot (orNum w) (orOff w) n o
        | .running, _ => s.finishMove r slot o
        | _, _ => s)

/-! ### Sampling Units (10 R279, R292) -/

/-- The SAMPLEs of unit `k` that `f` selects: record, slot, operation. -/
def State.suOps (s : State) (k : Nat) (f : Op → Bool) : List (Nat × Nat × Op) :=
  s.tasks.flatMap fun e => e.2.win.filterMap fun x => match x.2 with
    | some o => match o.kind, o.mtu with
      | .sample .., some m => if m / 2 = k ∧ f o then some (e.1, x.1, o) else none
      | _, _ => none
    | none => none

/-- The first of a list of operations in the order of their starts. -/
def firstStarted : List (Nat × Nat × Op) → Option (Nat × Nat × Op)
  | [] => none
  | x :: t => match firstStarted t with
    | none => some x
    | some y => if y.2.2.began < x.2.2.began then some y else some x

/-- SAMPLING_UNIT_TAKE (10 R279): a free unit takes the next waiting SAMPLE, from its two MTUs in turn. -/
def execSamplingUnitTake (k : Nat) (s : State) : Host.Outcome State Fault Refusal :=
  done s (
    if !(s.suOps k fun o => o.taken).isEmpty then s
    else
      let next (m : Nat) := firstStarted (s.suOps k fun o => o.phase == .running && o.mtu == some m)
      let a := 2 * k + Tab.get 0 s.suTurn k
      let b := 2 * k + (1 - Tab.get 0 s.suTurn k)
      match (next a).orElse fun _ => next b with
      | none => s
      | some (r, slot, o) =>
        let turn := match o.mtu with
          | some m => 1 - m % 2
          | none => 0
        { s.modOp r slot fun o => { o with taken := true } with suTurn := Tab.set 0 s.suTurn k turn })

/-- SAMPLE_COMPLETE (10 R292): the unit's SAMPLE draws its token, posts the result and drafts its history entry. -/
def execSampleComplete (k : Nat) (s : State) : Host.Outcome State Fault Refusal :=
  done s (match s.suOps k fun o => o.taken && o.phase == .running with
    | (r, slot, o) :: _ =>
      let u := s.finishMove r slot o
      if ((u.task r).op slot).isNone && (u.task r).st == .running then
        (u.tick 0x0F0 (some (u.task r).part)).vfTick (u.task r).fk 7 1
      else u
    | [] => s)

end Sys2Proof.Machine
end

