-- ==== Sys2Proof/Machine/Convoy.lean ====
section
/-! DEFINITION. The Convoy Builder (08_convoys_scheduling.md R229 to R245): members, assembly, the engine constant buffer
and the table of a convoy, its completion, and the placement and chunk-size loop. -/

namespace Sys2Proof.Machine

/-! ### Registers of the loop as they are in force (08 R244, R245) -/

/-- BUDGET. -/
def Cvy.budget (c : Cvy) : Nat := fld c.cfgIn 16 0
/-- CMAX. -/
def Cvy.cmax (c : Cvy) : Nat := fld c.limIn 63 48
/-- CMIN. -/
def Cvy.cmin (c : Cvy) : Nat := fld c.limIn 47 32
/-- FMIN. -/
def Cvy.fmin (c : Cvy) : Nat := fld c.limIn 31 16
/-- FREEZE. -/
def Cvy.freeze (c : Cvy) : Bool := bit c.cfgIn 31

/-- A number held between two limits. -/
def clampN (x lo hi : Nat) : Nat := min (max x lo) hi

/-- An integer held between two limits. -/
def clampI (x lo hi : Int) : Int := min (max x lo) hi

/-! ### Members (08 R230 to R232) -/

/-- The members that wait or run, oldest joined first. -/
def insertMember (x : Nat × Member) : List (Nat × Member) → List (Nat × Member)
  | [] => [x]
  | y :: t => if y.2.joined ≤ x.2.joined then y :: insertMember x t else x :: y :: t

/-- The members that have not left, oldest joined first. -/
def Cvy.live (c : Cvy) : List (Nat × Member) :=
  (c.members.filterMap fun e => match e.2 with
    | some m => if m.gone then none else some (e.1, m)
    | none => none).foldl (fun l x => insertMember x l) []

/-- The convoy buffer of partition `n`, allocated when the slice's first member joins (08 R232). -/
def State.cvyBuffer (s : State) (n : Nat) : Option State :=
  if (s.part n).cvy.units.isEmpty then
    (s.takeUnits n .convoy 18).map fun x => x.2.modPart n fun p => { p with cvy := { p.cvy with units := x.1 } }
  else some s

/-- Byte `a` of the convoy buffer of partition `n` (08 R232): it lies in the buffer's allocation units. -/
def State.bufLoc (s : State) (n a : Nat) : Loc := .ws ((s.part n).cvy.units.getD (a / 65536) 0 * 65536 + a % 65536)

/-- Write bytes to the convoy buffer of partition `n`. -/
def State.bufWrite (s : State) (n : Nat) : Nat → List Byte → State
  | _, [] => s
  | a, b :: l => (s.writeLoc (s.bufLoc n a) (some b)).bufWrite n (a + 1) l

/-- A byte of the convoy buffer as an engine reads it (08 R232): zero beyond the buffer, or before it is allocated. -/
def State.bufByte (s : State) (n a : Nat) : Option Byte :=
  if a / 65536 < (s.part n).cvy.units.length then s.readLoc (s.bufLoc n a) else some 0

/-- The bytes of a table entry (08 R235). -/
def Entry.bytes (e : Entry) : List Byte :=
  leBytes 4 e.mslot ++ leBytes 1 e.kind ++ leBytes 1 (b2n e.last) ++ leBytes 2 0 ++ leBytes 4 e.base ++ leBytes 4 e.ntok ++
  leBytes 4 e.start ++ leBytes 12 0

/-- Offset of table A, or B (08 R232). -/
def tableOff (b : Bool) : Nat := if b then 0x110000 else 0x100000

/-- A member joins (08 R231): it takes the lowest free slot and its constant buffer is copied. -/
def State.joinMember (s : State) (r slot : Nat) (ss : W64) (scb : Option W64) (tokens : Nat) : State :=
  let t := s.task r
  (s.prepReads (s.opWho r slot) r (scb.toList.map fun c => (c, 256))).runOp r slot fun u =>
    let cb := (scb.map fun c => u.refRead r (c, 256)).getD []
    if poisonStatus cb ≠ 0 then (u.noteBad r (scb.toList.map fun c => (c, 256))).opFault r slot 0x17
    else match u.cvyBuffer t.part, firstBelow (fun i => (Tab.get none (u.part t.part).cvy.members i).isNone) 4096 with
      | some v, some i =>
        let m : Member :=
          { r := r, gen := t.gen, slot := slot, stream := ss, tokens := tokens, next := 0, joined := v.stamp
            cb := match scb with
              | some _ => words64 32 (plain cb)
              | none => t.cb }
        let v := v.bufWrite t.part (256 * i) ((List.range 32).flatMap fun k => leBytes 8 (m.cb.getD k 0).toNat)
        (((v.countReads ((v.opMtu r slot scb.toList).getD 0) r (scb.toList.map fun c => (c, 256))).modPart t.part fun p =>
          { p with cvy := { p.cvy with members := Tab.set none p.cvy.members i (some m) } }).nextStamp).modOp
            r slot fun o => { o with phase := .member, got := [] }
      | _, _ => u

/-- CONVOY_MEMBER_JOIN (08 R231): the CVY dispatch in `slot` of record `r` joins its partition's Convoy Builder. -/
def execConvoyMemberJoin (r slot : Nat) (s : State) : Host.Outcome State Fault Refusal :=
  done s (match (s.task r).op slot with
    | some o => match o.phase, o.kind with
      | .joining, .dispatch ss scb _ _ _ tokens => if (s.task r).st = .running then s.joinMember r slot ss scb tokens else s
      | _, _ => s
    | none => s)

/-- CONVOY_HOLD_EXPIRY (08 R233): HOLD_NS has passed since the first waiting member joined, and no convoy runs. -/
def execConvoyHoldExpiry (n : Nat) (s : State) : Host.Outcome State Fault Refusal :=
  done s (let c := (s.part n).cvy
    if c.run.isNone && !c.live.isEmpty then s.modPart n fun p => { p with cvy := { p.cvy with hold := true } } else s)

/-! ### Assembly (08 R233) -/

/-- Decode entries: slots of members, oldest first, at most `room` of them. -/
def decodeEntries (room : Nat) (l : List (Nat × Member)) : List (Nat × Member) :=
  ((l.filter fun x => x.2.tokens == 1)).take room

/-- Prefill entries: members with the tokens that each receives, within `room` tokens and `ents` entries. -/
def prefillEntries (chunk : Nat) : Nat → Nat → List (Nat × Member) → List (Nat × Member × Nat)
  | _, _, [] => []
  | 0, _, _ => []
  | _, 0, _ => []
  | room + 1, ents + 1, x :: t =>
    let n := min chunk (min (x.2.tokens - x.2.next) (room + 1))
    (x.1, x.2, n) :: prefillEntries chunk (room + 1 - n) ents t

/-- Table entries in order, with TOKEN_BASE running from `base` (08 R235). -/
def mkEntries (kind : Nat) : Nat → List (Nat × Member × Nat) → List Entry
  | _, [] => []
  | base, (i, m, n) :: t =>
    { mslot := i, r := m.r, gen := m.gen, kind := kind, last := decide (m.next + n = m.tokens), base := base, ntok := n, start := m.next } ::
      mkEntries kind (base + n) t

/-- The table of the next convoy from the members of its stream, oldest first (08 R233). -/
def assemble (budget fill chunk cmin : Nat) (l : List (Nat × Member)) : List Entry :=
  let pre := l.filter fun x => x.2.tokens != 1
  let dec := decodeEntries (min (if pre.isEmpty then budget else budget - cmin) (if pre.isEmpty then 2048 else 2047)) l
  let d := dec.length
  let roomP := min (max fill (d + cmin) - d) (budget - d)
  mkEntries 0 0 (dec.map fun x => (x.1, x.2, 1)) ++ mkEntries 1 d (prefillEntries chunk roomP (2048 - d) pre)

/-- The state of the loop at an assembly (08 R243, R245): the registers as written take effect; then first use, or the
values in force held to the limits. -/
def Cvy.atAssembly (c : Cvy) (vf wset : Nat) : Cvy :=
  let c := { c with cfgIn := c.cfg, limIn := c.lim, gainIn := c.gain, tgtIn := c.tgt }
  if c.restart then
    { c with cf := Config.cf0.toNat, mf := Config.mf0.toNat, c := clampN 512 c.cmin c.cmax, f := c.budget, n := 0
             lvf := vf, lwset := wset, restart := false }
  else { c with c := clampN c.c c.cmin c.cmax, f := clampN c.f c.fmin c.budget }

/-- WLOAD of the running job of a partition (08 R229). -/
def Part.wloadDue (p : Part) : Bool := !(p.wsValid && p.wsVf == p.schVf && p.wsTag == p.jobWset)

/-- The reference to a convoy's table (08 R232, R234). -/
def tableRef (b : Bool) : W64 := pack [(40, 0xFFFFFF), (0, tableOff b)]

/-- The engine constant buffer of a convoy (08 R234); `first` is the constant buffer of its first entry's member. -/
def cvyWords (num chunk : Nat) (wload tabB : Bool) (es : List Entry) (first : List W64) : List W64 :=
  let w (n : Nat) : W64 := BitVec.ofNat 64 n
  let toks (k : Nat) : Nat := ((es.filter fun e => e.kind == k).map (·.ntok)).sum
  [w num, w (toks 0 + toks 1), w (toks 0), w (toks 1), w es.length, w chunk, w (b2n wload), tableRef tabB] ++
    (List.range 24).map fun i => first.getD (8 + i) 0

/-- The stream header that a member's checked dispatch read. -/
def State.memberHeader (s : State) (m : Member) : List Byte := (((s.task m.r).op m.slot).map (·.cap)).getD []

/-- Build the next convoy of partition `n` and hand it to the sequencer (08 R233). -/
def State.buildConvoy (s : State) (n : Nat) : State :=
  let p := s.part n
  match p.cvy.live with
  | [] => s.modPart n fun p => { p with cvy := { p.cvy with hold := false } }
  | x :: rest =>
    let stream := x.2.stream
    match s.streamMtu (s.task x.2.r) n stream with
    | none => s
    | some m =>
      if s.mtuFree m = 0 then s
      else
        let c := p.cvy.atAssembly p.schVf p.jobWset
        let es := assemble c.budget c.f c.c c.cmin ((x :: rest).filter fun y => y.2.stream == stream)
        let first : List W64 := match es with
          | e :: _ => ((Tab.get none c.members e.mslot).map (·.cb)).getD []
          | [] => []
        let words := cvyWords c.num c.c p.wloadDue (!c.tabB) es first
        let members := c.members.map fun y => match y.2, es.find? fun e => e.mslot == y.1 with
          | some mem, some e => (y.1, some { mem with next := mem.next + e.ntok })
          | _, _ => y
        let s := s.modPart n fun p => { p with cvy := { c with members := members, run := some es, wload := p.wloadDue, num := c.num + 1, tabB := !c.tabB, hold := false } }
        let s := s.bufWrite n (tableOff (!c.tabB)) (es.flatMap Entry.bytes)
        (s.enterDisp n .convoy stream (s.memberHeader x.2) words m s.stamp).nextStamp

/-- CONVOY_ASSEMBLE (08 R233). A Verkai drain lets the members' dispatches complete (R224). -/
def execConvoyAssemble (n : Nat) (s : State) : Host.Outcome State Fault Refusal :=
  done s (let p := s.part n
    if p.cvy.hold && p.cvy.run.isNone && (p.running || (p.draining && s.verkai n)) then s.buildConvoy n else s)

/-! ### Completion and the loop (08 R239, R241, R242) -/

/-- One measurement (08 R242). -/
def Cvy.update (c : Cvy) (comp mem : Nat) : Cvy :=
  let cf : Int := (c.cf : Int) + ((comp : Int) - c.cf) / 8
  let mf : Int := (c.mf : Int) + ((mem : Int) - c.mf) / 8
  let n := min (c.n + 1) 65535
  let c := { c with cf := cf.toNat, mf := mf.toNat, n := n }
  if n < 64 || c.freeze then c
  else
    let ec := cf - fld c.tgtIn 15 0
    let em := mf - fld c.tgtIn 31 16
    let d := em - ec
    let s := ec + em
    let db : Int := fld c.tgtIn 47 32
    let slewC : Int := fld c.gainIn 31 16
    let slewF : Int := fld c.gainIn 15 0
    let c' := if db < d.natAbs then
        let dc := clampI (d * fld c.gainIn 63 48 / 65536) (-slewC) slewC
        (clampI (c.c + dc) c.cmin c.cmax).toNat / 16 * 16
      else c.c
    let f' := if db < s.natAbs then
        let df := clampI (-s * fld c.gainIn 47 32 / 65536) (-slewF) slewF
        (clampI (c.f + df) c.fmin c.budget).toNat
      else c.f
    { c with c := c', f := f' }

/-- A convoy's occupancies (08 R241): sums of value x count over `p` usable ports and `steps` steps. -/
def occOf (sum p steps : Nat) : Nat := if p * steps = 0 then 0 else sum / (p * steps)

/-- The place of a route thread in the round-robin whose next turn is `turn` (06 R171, 01 R31); a task without a thread
comes last. -/
def turnKey (turn : Nat) (th : Option Nat) : Nat := match th with
  | some k => (k + 256 - turn) % 256
  | none => 256

/-- Insert a member's entry behind those whose turn is not later. -/
def insertTurn (key : Entry → Nat) (e : Entry) : List Entry → List Entry
  | [] => [e]
  | x :: l => if key x ≤ key e then x :: insertTurn key e l else e :: x :: l

/-- Members that complete together, in the turn of their route threads: the masks that they satisfy together are taken in
this order (06 R171). -/
def State.inTurn (s : State) (n : Nat) (l : List Entry) : List Entry :=
  l.foldl (fun a e => insertTurn (fun x => turnKey (s.part n).rtTurn (s.task x.r).thread) e a) []

/-- The turn passes on behind the last route thread served. -/
def State.passTurn (s : State) (n : Nat) (l : List Entry) : State :=
  match (l.filterMap fun e => (s.task e.r).thread).getLast? with
  | some th => s.modPart n fun p => { p with rtTurn := (th + 1) % 256 }
  | none => s

/-- The running convoy of partition `n` completes: the loop measures, a load is recorded, events count, members whose
last entry it carried complete, and the next assembly is due when members wait. -/
def State.convoyDone (s : State) (n : Nat) (d : Disp) : State :=
  let p := s.part n
  let es := p.cvy.run.getD []
  let ports := ((s.portsOf n).filter fun k => (s.eport k).usable).length
  let toks := (es.map (·.ntok)).sum
  let c := if p.cvy.restart then p.cvy else p.cvy.update (occOf d.occC ports d.steps) (occOf d.occM ports d.steps)
  let lasts := es.filter (·.last)
  let members := c.members.filter fun e => match e.2 with
    | some m => !(m.gone && es.any fun x => x.mslot == e.1) && !(lasts.any fun x => x.mslot == e.1)
    | none => false
  let s := s.modPart n fun p =>
    let p := { p with cvy := { c with members := members, run := none, hold := !members.isEmpty } }
    if c.wload && p.jobWset != 0 then { p with wsValid := true, wsVf := p.schVf, wsTag := p.jobWset } else p
  let s := ((s.tick 0x030 (some n)).tickN 0x031 toks (some n)).vfTick p.schVf 8 toks
  let order := s.inTurn n lasts
  (s.passTurn n order).each order fun u e => match Tab.get none p.cvy.members e.mslot with
    | some m => if !m.gone && (u.task m.r).gen == m.gen then u.completeOp m.r m.slot [] else u
    | none => u

end Sys2Proof.Machine
end

