-- ==== Sys2Proof/Machine/Faults.lean ====
section
/-! DEFINITION. Channels: faults, detours, permanent faults and retirement (13_faults_recovery.md R361 to R368). -/

namespace Sys2Proof.Machine

/-- CHAN_VIEW of a channel that has completed `n` handshakes (13 R378). Its layout has no field for the replies that R373
counts in it: they stand in `late` and show nowhere (DESIGN CHOICE, log 127). -/
def Chan.view (n : Nat) (c : Chan) : W64 :=
  pack [(48, c.corrected), (32, c.uncorr), (16, c.hsTimeout),
    (1, (c.stamps.filter fun x => dist 32 n x < 2 ^ 20).length), (0, b2n c.retired)]

/-- A channel with no detour. -/
def Chan.idle (c : Chan) : Chan :=
  { c with detour := none, xfer := .none, word := none, more := 0, waits := false, queue := [] }

/-- The detour in progress is over: that of the next failed transfer begins (13 R362). -/
def Chan.nextDetour (c : Chan) : Chan := match c.queue with
  | [] => c.idle
  | (x, w, v) :: q => { c with detour := some 0, xfer := x, word := w, more := 0, waits := v, queue := q }

/-- The retirable channel at an end of a bus, where one stands there (13 R361). -/
def endChannel (e : Nat × Nat) : Option (Nat × Nat) := match e.1 with
  | 1 => some (1, e.2 % 64)
  | 2 => some (2, e.2 % 16)
  | 3 => some (3, e.2 % 64)
  | _ => none

/-- The retirable channel against which internal bus `i` counts: an MTU at either end first (13 R361). -/
def busChannel (i : Nat) : Option (Nat × Nat) :=
  let l := [endChannel (Config.busEnds i).1, endChannel (Config.busEnds i).2].filterMap id
  (l.find? fun c => c.1 == 2).or l.head?

/-- The channel against which a fault of (kind, instance) counts (13 R361): a Sampling Unit counts against the MTU that
feeds its present SAMPLE, an internal bus against a retirable channel at one of its ends, or by itself where neither end has
one. -/
def State.chargeTo (s : State) (kind i : Nat) : Nat × Nat :=
  match kind with
  | 8 => (2, ((s.tasks.findSome? fun e => e.2.win.findSome? fun w => match w.2 with
      | some o => if o.taken then (match o.mtu with
          | some m => if m / 2 = i then some m else none
          | none => none) else none
      | none => none)).getD (2 * i))
  | 9 => (busChannel i).getD (9, i)
  | _ => (kind, i)

/-- The tasks whose uncommitted work holds a credit of MTU `m`: an operation, or a dispatch (13 R365). -/
def State.mtuHolders (s : State) (m : Nat) : List Nat :=
  s.recsWhere fun t => t.win.any fun e => match e.2 with
    | some o => o.mtu == some m
    | none => false

/-- Records of the dispatches that `f` selects: their tasks, or the members of a convoy. -/
def State.dispTasks (s : State) (n : Nat) (f : Disp → Bool) : List Nat :=
  ((s.part n).seqr.filter f).flatMap fun d => match d.owner with
    | .task r gen _ => if (s.task r).gen = gen then [r] else []
    | .convoy => match (s.part n).cvy.run with
      | some l => (l.filter fun e => (s.task e.r).gen == e.gen).map (·.r)
      | none => []

/-- Operations that drain on a retired MTU end at once: their slots free (13 R365.2). -/
def State.endMtuOps (s : State) (m : Nat) : State :=
  s.each (s.tasks.map (·.1)) fun u r => u.modTask r fun t =>
    { t with win := t.win.filter fun e => match e.2 with
        | some o => !(o.mtu == some m && o.phase == .drain)
        | none => false }

/-- A retired port or bank leaves an enabled partition's bitmap (02 R55), and the resize in progress (R62). -/
def State.leavePart (s : State) (kind i : Nat) : State :=
  let s := s.each ((List.range 64).filter s.enabled) fun u n => u.modPart n fun p =>
    if kind = 1 then { p with engines := clrBit p.engines i } else { p with banks := clrBit p.banks i }
  let moving := if kind = 1 then bit s.rcv.rszMovE i else bit s.rcv.rszMovB i
  if s.rcv.rszPhase ≠ 0 ∧ moving then
    s.modRcv fun r => { r with rszRetired := true
                               rszMovE := if kind = 1 then clrBit r.rszMovE i else r.rszMovE
                               rszMovB := if kind = 3 then clrBit r.rszMovB i else r.rszMovB }
  else s

/-- Mark a channel retired and report it (13 R365.5, R365.6). -/
def State.reportRetired (s : State) (kind i part : Nat) : State :=
  let s := s.modChan (ckey kind i) fun c => { c.idle with retired := true, evac := false }
  s.geqChannel 0x1B kind i part ((s.chan (ckey kind i)).view (s.hands (ckey kind i))).toNat

/-- Retire MTU `m` (13 R365): its holders are killed for rerun and its credits move to retired. -/
def State.retireMtu (s : State) (m : Nat) : State :=
  let s := s.each (s.mtuHolders m) State.killRerun
  let s := s.each (List.range 64) fun u n => (u.dispTasks n fun d => d.mtu == m).foldl State.killRerun u
  let s := s.each (s.queues.map (·.1)) fun u k => if (u.queue k).mtu == some m then u.modQueue k fun q => { q with mtu := none } else u
  ((s.endMtuOps m).modMtu m fun _ => 0).reportRetired 2 m 0xFF

/-- Retire engine port `k` (13 R365, 07 R208, R229, 08 R243): dispatches that use it are killed, its credits return,
EGEN increments, PORT_LOST is set, and the step time is computed afresh. -/
def State.retirePort (s : State) (k : Nat) : State :=
  let pn := s.portPart k
  let s := match pn with
    | some n => (s.dispTasks n fun d => (d.lport k).isSome).foldl State.killRerun s
    | none => s
  let s := (s.losePort k).modPort k fun e =>
    { e with retired := true, egen := (e.egen + 1) % 65536, clearing := false, fwd := [], lastVf := none }
  let s := (s.leavePart 1 k).each (s.portParts k) State.recomputeStep
  let s := match pn with
    | some n => (s.modPart n fun p => { p with portLost := true, wsValid := false, cvy := { p.cvy with restart := true } }).settleStops n
    | none => s
  s.reportRetired 1 k (pn.getD 0xFF)

/-- A permanent fault retires a channel (13 R364, R365). A port of an enabled partition also starts that partition's
automatic reset, and waits for its dump where one is due; a bank is first evacuated. -/
def State.retireChan (s : State) (kind i : Nat) : State :=
  let c := s.chan (ckey kind i)
  if c.retired || c.evac then s
  else match kind with
    | 1 =>
      if s.rcv.portRet.contains i then s else
      match s.portPart i with
      | none => s.retirePort i
      | some n =>
        let s := s.modRcv fun r => { r with waiting := insertRising r.waiting n }
        if bit s.rcv.dumpCfg 25 && bit s.rcv.dumpCfg 24 && fld s.rcv.dumpCfg 19 0 != 0 &&
            !((s.part n).resetting && 2 ≤ s.rcv.phase) then
          (s.modChan (ckey 1 i) Chan.idle).modRcv fun r => { r with portRet := insertRising r.portRet i }
        else s.retirePort i
    | 2 => s.retireMtu i
    | 3 => s.modChan (ckey 3 i) fun c => { c.idle with evac := true }
    | _ => s

/-- Kinds of channels that can be retired (13 R361). -/
def retirable (kind : Nat) : Bool := kind == 1 || kind == 2 || kind == 3

/-- A fault of a channel is stamped with its count of handshakes, `unseen` of which no command has shown (13 R364): a
permanent one on a retirable channel retires it. -/
def State.stampFault (s : State) (kind i unseen : Nat) (g : Chan → Chan) : State :=
  let c := s.chan (ckey kind i)
  if c.retired then s
  else
    let s := s.handshakes kind i unseen
    let n := s.hands (ckey kind i)
    let perm := match c.stamps with
      | a :: b :: _ => dist 32 n a < 2 ^ 20 && dist 32 n b < 2 ^ 20
      | _ => false
    let s := s.modChan (ckey kind i) fun c => { g c with stamps := n :: c.stamps.take 1 }
    if perm && retirable kind then s.retireChan kind i else s

/-- A failed transfer is detoured once the channel is idle (13 R362): at once, or after the detour in progress. -/
def State.beginDetour (s : State) (kind i : Nat) (x : Transfer) (w : Option StoredWord) (waits : Bool) : State :=
  let c := s.chan (ckey kind i)
  if c.retired || c.evac || s.rcv.portRet.contains i && kind == 1 then s
  else if c.detour.isSome then s.modChan (ckey kind i) fun c => { c with queue := c.queue ++ [(x, w, waits)] }
  else (s.modChan (ckey kind i) fun c => { c with detour := some 0, xfer := x, word := w, waits := waits, more := 0 }).tick 0x1CA none

/-- The detour of a channel ends, and that of the next failed transfer begins. -/
def State.endDetour (s : State) (kind i : Nat) : State :=
  let s := s.modChan (ckey kind i) Chan.nextDetour
  if (s.chan (ckey kind i)).detour.isSome then s.tick 0x1CA none else s

/-- One fault of a bundled-data path's channel, to which the path belongs as an internal bus does (14 R396, 13 R361), and its
detour (13 R362). -/
def State.pathFault (s : State) (path : Nat) (x : Transfer) : State :=
  let c := s.chargeTo 9 path
  (s.stampFault c.1 c.2 0 id).beginDetour c.1 c.2 x none false

/-- A corrected error is counted, and nothing is re-issued (13 R362). -/
def State.faultCorrected (s : State) (kind i unseen : Nat) : State :=
  (s.stampFault kind i unseen fun c => { c with corrected := satAdd 0xFFFF c.corrected 1 }).tick 0x1C8 none

/-- An uncorrectable word, or a bit with both rails asserted, is counted and its transfer detoured (13 R362). -/
def State.faultUncorrectable (s : State) (kind i unseen : Nat) (x : Transfer) (w : Option StoredWord) : State :=
  (s.stampFault kind i unseen fun c => { c with uncorr := satAdd 0xFFFF c.uncorr 1 }).beginDetour kind i x w false

/-- A word is read from a bank with symbols upset, and checked (01 R35, R36; 13 R362): the bank rewrites a corrected word. -/
def State.faultBank (s : State) (kind i unseen : Nat) (x : Transfer) (a : Nat) (e : List (Nat × Byte)) : State :=
  let w := a / 32
  let s := s.modSto fun m => { m with ws := m.ws.strike w e }
  match pathCheck (s.sto.ws.codeword none w) with
  | .clean => s.modSto fun m => { m with ws := m.ws.mend none w (s.sto.ws.codeword none w).data }
  | .corrected c => (s.modSto fun m => { m with ws := m.ws.mend none w c.data }).faultCorrected kind i unseen
  | .uncorrectable => s.faultUncorrectable kind i unseen x (some (.bank a e))

/-- CHANNEL_FAULT (13 R362): the fault is counted and stamped; a corrected word travels on re-encoded, any other transfer is
detoured. -/
def execChannelFault (kind i unseen : Nat) (what : FaultWhat) (x : Transfer) (s : State) :
    Host.Outcome State Fault Refusal :=
  let k := (s.chargeTo kind i).1
  let j := (s.chargeTo kind i).2
  done s (match what with
    | .word c => (match pathCheck c with
      | .clean => s
      | .corrected _ => s.faultCorrected k j unseen
      | .uncorrectable => s.faultUncorrectable k j unseen x none)
    | .stored (.bank a e) => s.faultBank k j unseen x a e
    | .stored w => s.faultUncorrectable k j unseen x (some w)
    | _ => s.faultUncorrectable k j unseen x none)

/-- A handshake or completion timeout is counted (13 R361, R378; 07 R201 for an engine port). -/
def State.hsFault (s : State) (kind i unseen : Nat) : State :=
  let s := if kind = 1 then s.modPort i fun e => { e with hsTimeout := satAdd 0xFFFF e.hsTimeout 1 } else s
  s.stampFault kind i unseen fun c => { c with hsTimeout := satAdd 0xFFFF c.hsTimeout 1 }

/-! ### Evacuation of a bank (13 R366) -/

/-- A free unit in another bank of a partition. -/
def State.otherUnit (s : State) (n b : Nat) : Option Nat :=
  ((s.banksOf n).filter (· != b)).findSome? fun k =>
    if (s.chan (ckey 3 k)).evac then none
    else (firstBelow (fun u => (Tab.get none s.sto.units (k * 512 + u)).isNone) 512).map fun u => k * 512 + u

/-- Copy the 64 KiB of unit `a` to unit `b`, poison marks included. -/
def State.copyUnit (s : State) (a b : Nat) : State :=
  s.each (List.range 16) fun u i => u.copyPage (.ws (a * 16 + i)) (.ws (b * 16 + i))

/-- Page `p` of a resolution has moved to page `q`. -/
def Backing.rename (p q : PageRef) : Backing → Backing
  | .loc l =>
    let a := match l with
      | .ws a => some (PageRef.ws (a / 4096), a % 4096)
      | .pkg a => some (PageRef.pkg (a / 4096), a % 4096)
      | _ => none
    match a with
    | some (x, o) => if x = p then .loc (q.loc o) else .loc l
    | none => .loc l
  | b => b

/-- Page `p` of a task's drafts, operations and staged data has moved to page `q`. -/
def Task.renamePage (p q : PageRef) (t : Task) : Task :=
  let f (l : List PageRef) : List PageRef := l.map fun x => if x = p then q else x
  { t with
    drafts := t.drafts.map fun d => { d with pages := d.pages.map fun x => (x.1, if x.2 = p then q else x.2), src := f d.src }
    staged := t.staged.map fun e => (e.1, match e.2 with
      | .remote imp off len ps => .remote imp off len (f ps)
      | x => x)
    win := t.win.map fun e => (e.1, e.2.map fun o =>
      { o with pages := f o.pages, res := o.res.map fun l => l.map fun x => (x.1.rename p q, x.2) }) }

/-- Replace a page reference wherever objects, tasks and retiring storage name it. -/
def State.renamePage (s : State) (p q : PageRef) : State :=
  let f (l : List PageRef) : List PageRef := l.map fun x => if x = p then q else x
  { s with
    objs := { s.objs with tab := s.objs.tab.map fun o => (o.1, { o.2 with exts := o.2.exts.map fun e =>
      { e with store := match e.store with
          | .pages l => .pages (f l)
          | .host a => .host a } }) }
    tasks := s.tasks.map fun t => (t.1, t.2.renamePage p q)
    sto := { s.sto with retiring := s.sto.retiring.map fun r => { r with pages := f r.pages } } }

/-- A pin on the object that holds a page ends when the page leaves the Waystation. -/
def State.unpinPage (s : State) (n : Nat) (p : PageRef) : State :=
  let hit (o : Nat) (pin : Pin) : Bool := (s.obj o).exts.any fun e => match e.store with
    | .pages l => l.contains p && e.off * 4096 < pin.off + pin.len && pin.off < (e.off + e.len) * 4096
    | .host _ => false
  s.modPart n fun q => { q with pins := q.pins.filter fun x => !hit x.obj x }

/-- Move one page of objects out of a bank: to the partition's package pool, or it is marked poisoned. -/
def State.evacPage (s : State) (n : Nat) (p : Nat) : State :=
  match s.pkgPage n with
  | some (q, u) => (((u.unpinPage n (.ws p)).copyPage (.ws p) q).renamePage (.ws p) q).freePage (.ws p)
  | none => s.each (List.range 128) fun u i => u.modSto fun m => { m with ws := m.ws.poison (p * 128 + i) }

/-- Tasks whose context stands in task-state unit `u`. -/
def State.unitTasks (s : State) (u : Nat) : List Nat := s.recsWhere fun t => t.parked == some u

/-- Evacuate one held unit of bank `b` (13 R366). -/
def State.evacUnit (s : State) (b u : Nat) : State :=
  match Tab.get none s.sto.units u with
  | none => s
  | some w =>
    match s.otherUnit w.part b with
    | some v =>
      let s := ((s.copyUnit u v).holdUnit v w).freeUnit u
      match w.use with
      | .pages => s.each w.pages fun x i => x.renamePage (.ws (u * 16 + i)) (.ws (v * 16 + i))
      | .shadow qk => s.modQueue qk fun q => { q with shadow := q.shadow.map fun x => if x = u then v else x }
      | .taskState =>
        let s := s.each (s.unitTasks u) fun x r => x.modTask r fun t => { t with parked := some v }
        s.modPart w.part fun p => { p with tsUnits := Tab.set 0 (Tab.set 0 p.tsUnits v (Tab.get 0 p.tsUnits u)) u 0 }
      | .convoy => s.modPart w.part fun p => { p with cvy := { p.cvy with units := p.cvy.units.map fun x => if x = u then v else x } }
    | none =>
      match w.use with
      | .pages => s.each w.pages fun x i => x.evacPage w.part (u * 16 + i)
      | .shadow qk => (s.modQueue qk fun q => { q with shadow := q.shadow.erase u }).freeUnit u |>.modSto fun m =>
          { m with overflow := insertRising m.overflow qk }
      | .taskState => ((s.unitTasks u).foldl State.killRerun s).freeUnit u
      | .convoy =>
        let rs := s.recsWhere fun t => t.part == w.part && t.win.any fun e => match e.2 with
          | some o => o.phase == .member
          | none => false
        let s := rs.foldl State.killRerun s
        let us := (s.part w.part).cvy.units
        (s.modPart w.part fun p => { p with cvy := { p.cvy with units := [], members := [] } }).each us State.freeUnit

/-- BANK_EVACUATION_DONE (13 R366, R365.4 to R365.6): the held units of a retiring bank have moved; the bank leaves its
partition and its credits are retired. -/
def execBankEvacuationDone (bank : Nat) (s : State) : Host.Outcome State Fault Refusal :=
  done s (if !(s.chan (ckey 3 bank)).evac then s
    else
      let n := (firstBelow (fun n => s.enabled n && bit (s.part n).banks bank) 64).getD 0xFF
      let us := s.sto.units.filterMap fun u => if unitBank u.1 == bank then some u.1 else none
      let s := s.each us fun x u => x.evacUnit bank u
      ((s.each us State.freeUnit).leavePart 3 bank).reportRetired 3 bank n)

/-- COMMAND_TIMEOUT (13 R360): a task that has not committed fails with 0x10; an admin list starts no further command. -/
def execCommandTimeout (r : Nat) (s : State) : Host.Outcome State Fault Refusal :=
  done s (if (s.task r).kind = .admin then s.stopList r 0x10 else s.failTask r 0x10)

end Sys2Proof.Machine
end

