-- ==== Sys2Proof/Machine/Streams.lean ====
section
/-! DEFINITION. The step sequencers and the engine ports (07_step_streams_engine_ports.md R189 to R208): fetching and
offering bundles, the return messages, and the engines' own memory requests (11 R298, R322; 08 R236). -/

namespace Sys2Proof.Machine

/-! ### Dispatches that end (07 R204, R205) -/

/-- End the tasks of a dispatch with a status: its own, or every member's of a convoy (07 R202, 08 R240). -/
def State.dispFail (s : State) (n : Nat) (d : Disp) (status : Nat) : State :=
  (s.dispTasks n fun x => x.dtag == d.dtag && x.running == d.running).foldl (fun u r => u.failTask r status) s

/-- Every port has accepted LAST, every POST has arrived and every port has sent WDONE. -/
def Disp.finished (d : Disp) : Bool := d.running && !d.stopping && d.lps.all fun l => l.lastAcc && l.wdone && l.posts.isEmpty

/-- The summaries that a dispatch posts (07 R203, 06 R171). -/
def OpKind.sumPosts (k : OpKind) (acc : List W64) : List (Nat × W64) := match k with
  | .dispatch _ _ ub uc _ _ => (List.range uc).map fun i => (ub + i, acc.getD i 0)
  | _ => []

/-- A dispatch that has finished completes: its MTU credit returns and its owner goes on (07 R204). -/
def State.finishDisp (s : State) (n i : Nat) : State :=
  match (s.part n).seqr[i]? with
  | none => s
  | some d =>
    if !d.finished then s
    else
      let s := (s.modPart n fun p => { p with seqr := p.seqr.eraseIdx i }).modMtu d.mtu (· - 1)
      (match d.owner with
        | .task r gen slot =>
          if (s.task r).gen = gen then
            s.completeOp r slot ((((s.task r).op slot).map fun (o : Op) => o.kind.sumPosts d.acc).getD [])
          else s.mismatch
        | .convoy => s.convoyDone n d).runNext n

/-! ### Fetch (07 R192 to R194) -/

/-- The task for which a dispatch reads memory: its own, or the first live member's of a convoy. -/
def State.dispReader (s : State) (n : Nat) (d : Disp) : Option (Nat × Nat) := match d.owner with
  | .task r _ slot => some (r, slot)
  | .convoy => ((s.part n).cvy.run.getD []).findSome? fun e => match Tab.get none (s.part n).cvy.members e.mslot with
    | some m => if m.gone then none else some (m.r, m.slot)
    | none => none

/-- resolve_count of 07 R193; a LAST bundle is never skipped. -/
def resolveCount (h : W64) (cbuf : List W64) : Nat :=
  let cap := fld h 39 24 + 1
  let k := if bit h 45 then min (cbuf.getD (fld h 44 40) 0).toNat cap else cap
  if k = 0 ∧ fld h 47 46 = 1 then 1 else k

/-- The sum of the 16-bit pieces that CHK covers (07 R189). -/
def bundleSum (h : W64) (slots : List W32) : Nat :=
  fld h 47 32 + fld h 31 16 + fld h 15 0 + (slots.map fun x => fld x 15 0 + fld x 31 16).sum

/-- The bundle checks of 07 R192, with `steps` already counted. -/
def Disp.bundleOk (d : Disp) (h : W64) (slots : List W32) : Bool :=
  let last := fld h 47 46 == 1
  fld h 63 48 == 65535 - bundleSum h slots % 65536 && fld h 47 46 < 2 && (bit h 45 || fld h 44 40 == 0) &&
  last == (d.next + 1 == d.bundles) && (slots.all fun x => !bit x 30) &&
  (fld h 23 0 == 0xFFFFFF || decide (d.steps + fld h 23 0 ≤ d.wcet)) && decide (d.steps + resolveCount h d.cbuf ≤ d.wcet)

/-- The header as it is sent: REPEAT the resolved count - 1, RSEL and RWORD cleared (07 R196). -/
def sentHeader (h : W64) (count : Nat) : W64 := merge h (pack [(24, count - 1)]) (ones 45 24)

/-- The sequencer fetches no further than 16 bundles ahead of any port (07 R194, R195; DEDUCED, log 105). -/
def Disp.wantsMore (d : Disp) : Bool := d.next < d.bundles && d.lps.all fun l => d.fetched.length < l.accepted + 16

/-- Take a bundle whose bytes have been read. -/
def State.takeBundle (s : State) (n i : Nat) (d : Disp) (raw : List Byte) : State :=
  let h := BitVec.ofNat 64 (leAt raw 0 8)
  let slots := (List.range (4 * d.nports)).map fun j => BitVec.ofNat 32 (leAt raw (8 + 4 * j) 4)
  if !d.bundleOk h slots then s.dispFail n d 0x19
  else
    let k := resolveCount h d.cbuf
    let b : Bundle := { idx := d.next, last := decide (fld h 47 46 = 1), count := k, hdr := sentHeader h k, slots := slots }
    s.modDisp n i fun d => { d with next := d.next + 1, steps := d.steps + k, fetched := if k = 0 then d.fetched else d.fetched ++ [b] }

/-- A bundle has been read (16 R431, R436): its bytes count, and the reader holds the translations of the stream's next 64
KiB tile and of the two after it (11 R318). -/
def State.fetched (s : State) (r slot n i : Nat) (d : Disp) (len : Nat) : State :=
  let t := s.task r
  let off := d.off + 0x40 + d.next * len
  let rest := min (3 * 65536) ((d.bundles - d.next - 1) * len)
  let s := ((s.moved d.mtu r ⟨false, d.obj, off, len⟩).modOp r slot fun o => { o with got := [] })
  if (((s.part n).seqr[i]?).any fun x => x.running) then
    s.window (s.opWho r slot) (s.hostSegs t d.obj (off + len) rest)
  else s

/-- BUNDLE_FETCH (07 R192, R194): the sequencer of partition `n` reads the next bundle of its running dispatch. -/
def execBundleFetch (n : Nat) (s : State) : Host.Outcome State Fault Refusal :=
  done s (match s.dispIdx n fun d => d.running && !d.stopping with
    | none => s
    | some i => match (s.part n).seqr[i]? with
      | none => s
      | some d =>
        if !d.wantsMore then s
        else match s.dispReader n d with
          | none => s
          | some (r, slot) =>
            let len := bundleBytes d.nports
            let off := d.off + 0x40 + d.next * len
            match s.prepRead (s.opWho r slot) r d.obj off len with
            | .wait u => u
            | .fail u st => u.dispFail n d st
            | .ok u =>
              let raw := u.taskRead (u.task r) d.obj off len
              if poisonStatus raw ≠ 0 then (u.noteBad r [(orWord d.obj off, len)]).dispFail n d 0x17
              else (u.fetched r slot n i d len).takeBundle n i d (plain raw))

/-! ### Offers (07 R195) -/

/-- The POSTs that a port owes for a bundle, in unit order (07 R201). -/
def owedPosts (slots : List W32) (j pos : Nat) : List (Nat × Nat) :=
  (List.range 4).filterMap fun u => if bit (slots.getD (4 * j + u) 0) 31 then some (pos, u) else none

/-- Two slots as a payload (07 R196). -/
def slotPair (slots : List W32) (j : Nat) : W64 := pack [(0, (slots.getD j 0).toNat), (32, (slots.getD (j + 1) 0).toNat)]

/-- Offer the next bundle to logical port `j` of the dispatch at position `i`; the port's record names the job's VF (08
R226). -/
def State.offerBundle (s : State) (n i : Nat) (d : Disp) (j : Nat) (l : LPort) (b : Bundle) : State :=
  let s := if l.cb then s else s.sendCbuf n i l.port
  let s := if d.lps.all fun x => x.offered ≤ l.offered then
      let who := (s.dispReader n d).getD (0, 0)
      s.tagItem { bundle := true, part := n, r := who.1, gen := (s.task who.1).gen, slot := some who.2, opcode := 0, pc := 0
                  idx := b.idx, dtag := d.dtag, stall := 0, detail := b.count, thread := 0 }
    else s
  let s := s.modDisp n i fun d => d.modPort l.port fun x => { x with offered := x.offered + 1, posts := x.posts ++ owedPosts b.slots j l.offered }
  (s.modPort l.port fun e => { e with held := e.held + 1, lastVf := some (s.part n).schVf }).forward l.port 0 d.dtag b.hdr (slotPair b.slots (4 * j)) (slotPair b.slots (4 * j + 2))

/-- BUNDLE_OFFER (07 R195, R200): engine port `port` of partition `n` draws a credit for the next bundle. -/
def execBundleOffer (n port : Nat) (s : State) : Host.Outcome State Fault Refusal :=
  done s (match s.dispIdx n fun d => d.running && !d.stopping with
    | none => s
    | some i => match (s.part n).seqr[i]? with
      | none => s
      | some d => match d.lps.findIdx? fun l => l.port == port with
        | none => s
        | some j => match d.lps[j]? with
          | none => s
          | some l => match d.fetched[l.offered]? with
            | some b => if (s.eport port).usable && (s.eport port).held < 16 then s.offerBundle n i d j l b else s
            | none => s)

/-! ### Return messages (07 R197, R199) -/

/-- A return message as its 128 bits (07 R197). -/
def retMsg (t : Tag) (kind unit index : Nat) (v : W64) : W128 :=
  BitVec.ofNat 128 (packN [(112, t.pgen), (96, t.egen), (80, t.dtag), (76, kind), (74, unit), (70, index), (0, v.toNat)])

/-- The running or stopping dispatch that a return message names: partition, position, dispatch, logical port (07 R199). -/
def State.matchRet (s : State) (k : Nat) (t : Tag) : Option (Nat × Nat × Disp × LPort) :=
  match s.portPart k with
  | none => none
  | some n =>
    if t.pgen ≠ (s.part n).pgen ∨ t.egen ≠ (s.eport k).egen then none
    else match s.dispIdx n fun d => (d.running || d.stopping) && d.dtag == t.dtag with
      | none => none
      | some i => match (s.part n).seqr[i]? with
        | none => none
        | some d => (d.lport k).map fun l => (n, i, d, l)

/-- Take a return message of port `k` that a live dispatch may expect: `f` acts on it, or it is late (07 R199). -/
def State.onReturn (s : State) (k : Nat) (t : Tag) (msg : W128) (f : State → Nat → Nat → Disp → LPort → Option State) : State :=
  if (s.eport k).retired then s.latePort k
  else
    let s := (s.handshakes 1 k 1).modPort k fun e => { e with lastRet := msg }
    match s.matchRet k t with
    | none => s.latePort k
    | some (n, i, d, l) => (f s n i d l).getD (s.latePort k)

/-- A bundle that every port has accepted: its steps are complete (01 R30; 16 R432, R436). -/
def State.bundleDone (s : State) (n i pos : Nat) : State :=
  match (s.part n).seqr[i]? with
  | none => s
  | some d => match d.fetched[pos]? with
    | none => s
    | some b =>
      if d.stopping || !(d.lps.all fun l => pos < l.accepted) then s
      else
        let s := ((s.stepSample 0x0E2 (b.occC / d.nports) b.count n).stepSample 0x0E3 (b.occM / d.nports) b.count n).vfTick
          (s.part n).schVf 5 b.count
        s.endTags (fun g => g.bundle && g.part == n && g.dtag == d.dtag && g.idx == b.idx) false

/-- ACCEPT (07 R195, R198; 08 R241): one credit returns and the bundle counts. -/
def State.acceptMsg (s : State) (k : Nat) (v : W64) (n i : Nat) (d : Disp) (l : LPort) : Option State :=
  if l.accepted < l.offered then
    let b := d.fetched[l.accepted]?
    let cnt := (b.map (·.count)).getD 0
    let last := (b.map (·.last)).getD false
    let s := (s.modPort k fun e => { e with held := e.held - 1 }).tick 0x0E0 (some n)
    let s := s.modDisp n i fun d =>
      { d.modPort k (fun x => { x with accepted := x.accepted + 1, lastAcc := x.lastAcc || last }) with
        occC := d.occC + fld v 15 0 * cnt, occM := d.occM + fld v 31 16 * cnt
        fetched := modAt (fun b => { b with occC := b.occC + fld v 15 0, occM := b.occM + fld v 31 16 }) l.accepted d.fetched }
    some ((s.bundleDone n i l.accepted).finishDisp n i)
  else none

/-- ACCEPT. -/
def execAccept (k : Nat) (t : Tag) (v : W64) (s : State) : Host.Outcome State Fault Refusal :=
  done s (s.onReturn k t (retMsg t 0 0 0 v) fun u n i d l => u.acceptMsg k v n i d l)

/-- The order of binary32 codes for MAXF (07 R203): -0 below +0. -/
def f32Above (a b : W64) : Bool :=
  let x := fld a 31 0
  let y := fld b 31 0
  lt32 y x || (x == 0 && y == 0x80000000)

/-- A post combined into its accumulator (07 R203): new value and key. `key` grows with bundle and logical unit. -/
def combine (code : Nat) (acc : W64) (accKey : Nat) (key : Nat) (v : W64) : W64 × Nat :=
  match code with
  | 0 => if accKey ≤ key then (v, key) else (acc, accKey)
  | 1 => (if acc.toNat < v.toNat then v else acc, accKey)
  | 2 => (if isNan32 (fld v 31 0) then acc else if f32Above v acc then v &&& 0xFFFFFFFF#64 else acc, accKey)
  | _ => (acc + v, accKey)

/-- POST (07 R201, R203): the next POST owed by this unit; an index outside SUMMASK ends the task with 0x11. -/
def State.postMsg (s : State) (k unit index : Nat) (v : W64) (n i : Nat) (d : Disp) (l : LPort) : Option State :=
  match l.posts.find? fun p => p.2 == unit with
  | none => none
  | some p =>
    let s := s.modDisp n i fun d => d.modPort k fun x => { x with posts := x.posts.erase p }
    if d.stopping then some s
    else if 16 ≤ index || !d.summask.testBit index then some (s.dispFail n d 0x11)
    else
      let j := (d.lps.findIdx? fun x => x.port == k).getD 0
      let r := combine (d.sumcomb / 4 ^ index % 4) (d.acc.getD index 0) (d.accKey.getD index 0) (1 + p.1 * 256 + 4 * j + unit) v
      some ((s.modDisp n i fun d => { d with acc := d.acc.set index r.1, accKey := d.accKey.set index r.2 }).finishDisp n i)

/-- POST. -/
def execPost (k : Nat) (t : Tag) (unit index : Nat) (v : W64) (s : State) : Host.Outcome State Fault Refusal :=
  done s (s.onReturn k t (retMsg t 1 unit index v) fun u n i d l => u.postMsg k unit index v n i d l)

/-- WDONE (07 R204, R205): after ACCEPT of LAST, or of a stopping dispatch. -/
def State.wdoneMsg (s : State) (k n i : Nat) (d : Disp) (l : LPort) : Option State :=
  if !l.wdone && (l.lastAcc || d.stopping) then
    some (((s.modDisp n i fun d => d.modPort k fun x => { x with wdone := true }).finishDisp n i).settleStops n)
  else none

/-- WDONE. -/
def execWdone (k : Nat) (t : Tag) (s : State) : Host.Outcome State Fault Refusal :=
  done s (s.onReturn k t (retMsg t 2 0 0 0) fun u n i d l => u.wdoneMsg k n i d l)

/-- FAULT (07 R202, 06 R172, 08 R240): from an active lane of a dispatch that is not stopping. -/
def execFault (k : Nat) (t : Tag) (unit : Nat) (v : W64) (s : State) : Host.Outcome State Fault Refusal :=
  done s (s.onReturn k t (retMsg t 3 unit 0 v) fun u n _ d _ => some (if d.stopping then u else u.dispFail n d 0x11))

/-- ABANDON_ACK (07 R195, R205): the bundles that the port discarded return their credits. -/
def State.abandonMsg (s : State) (k : Nat) (v : W64) (n i : Nat) (d : Disp) (l : LPort) : Option State :=
  if d.stopping && !l.acked then
    let c := min v.toNat (l.offered - l.accepted)
    some (((s.modPort k fun e => { e with held := e.held - c }).modDisp n i fun d =>
      d.modPort k fun x => { x with acked := true, accepted := x.accepted + c }).settleStops n)
  else none

/-- ABANDON_ACK. -/
def execAbandonAck (k : Nat) (t : Tag) (v : W64) (s : State) : Host.Outcome State Fault Refusal :=
  done s (s.onReturn k t (retMsg t 4 0 0 v) fun u n i d l => u.abandonMsg k v n i d l)

/-- Take a message that concerns the port itself (07 R199, R200): its tags must be the port's own; a port of no enabled
partition has no partition generation to match (DEDUCED, log 22). -/
def State.onPort (s : State) (k : Nat) (t : Tag) (msg : W128) (ok : EPort → Bool) (f : State → State) : State :=
  if (s.eport k).retired then s.latePort k
  else
    let s := (s.handshakes 1 k 1).modPort k fun e => { e with lastRet := msg }
    if t.egen = (s.eport k).egen ∧ (s.portPart k = none ∨ t.pgen = s.portPgen k) ∧ ok (s.eport k) then f s else s.latePort k

/-- CLEAR_DONE (07 R207; 02 R60): the port may offer credits again. -/
def execClearDone (k : Nat) (t : Tag) (s : State) : Host.Outcome State Fault Refusal :=
  done s (s.onPort k t (retMsg t 5 0 0 0) (·.clearing) fun u =>
    let u := (u.modPort k fun e => { e with clearing := false }).recomputePort k
    if u.rcv.rszPhase ≠ 0 ∧ bit u.rcv.rszMovE k then u.modRcv fun x => { x with rszCleared := setBit x.rszCleared k } else u)

/-- IDENT (07 R200, R213): the answer to IDENT_REQ is recorded; a step time of 0, or other than 4 units, leaves the port
unusable. An IDENT that nothing has asked for is dropped and counted in LATE (DESIGN CHOICE, log 103). -/
def execIdent (k : Nat) (t : Tag) (units : Nat) (v : W64) (s : State) : Host.Outcome State Fault Refusal :=
  done s (s.onPort k t (retMsg t 6 0 0 v) (fun e => e.enable && e.asked) fun u =>
    (u.modPort k fun e => { e with ident := v, identified := fld v 31 16 != 0 && units == 4 }).recomputePort k)

/-- FORWARD_MESSAGE_LATCH (07 R198): the oldest forward message of the port has been latched; a detour on it ends (13
R362). -/
def execForwardMessageLatch (k : Nat) (s : State) : Host.Outcome State Fault Refusal :=
  done s (match (s.eport k).fwd with
    | [] => s
    | _ :: rest =>
      let u := (s.modPort k fun e => { e with fwd := rest }).handshakes 1 k 1
      if (u.chan (ckey 1 k)).waits then u.endDetour 1 k else u)

/-! ### Engine memory requests (11 R298, R322, R323; 06 R172; 08 R232, R236) -/

/-- The status of an engine request's checks (11 R298, 06 R159, R160): a task that holds a reference on a closing object
runs on. -/
def State.engineStatus (s : State) (r : Nat) (w : W64) (len : Nat) (write : Bool) : Nat :=
  let t := s.task r
  if orWin w then 0x18
  else
    let st := s.nameStatus t.fk (orNum w) write
    if st = 0x18 then st
    else if st = 0x13 ∧ !t.refs.contains (orNum w) then st
    else if (s.obj (orNum w)).reserved < orOff w + len then 0x12
    else 0

/-- Bytes of an object that an atomic may reach: the Waystation and this device's package memory (11 R322). -/
def State.atomicOk (s : State) (w : W64) (len : Nat) : Bool :=
  (pageChunks (orOff w) len).all fun c => match s.pubBacking (orNum w) c.1 with
    | .host sp a => (match s.reach sp a with
      | some (.pkg _) => true
      | _ => false)
    | _ => true

/-- A request of an engine or a peer arrives. -/
def State.enterReq (s : State) (q : PortReq) : State :=
  s.modXl fun x => { x with waiting := x.waiting ++ [⟨x.portNo, q, []⟩], portNo := x.portNo + 1 }

/-- A request has ended: it holds no translation any more. -/
def State.endJob (s : State) (id : Nat) : State :=
  (s.modXl fun x => { x with waiting := x.waiting.filter fun j => j.id != id }).dropX (· == .port id)

/-- Act on how preparing the access of the request `id` ended; one that waits is taken up again when something arrives (11
R317; 12 R329). -/
def Prep.runReq (p : Prep) (id r : Nat) (k : State → State) : State := match p with
  | .ok s => k s
  | .wait s => s
  | .fail s st => (s.endJob id).failTask r st

/-- The request `id` of an engine on behalf of task `r` (11 R298): it draws the task's reference, its reads are its own and
so volatile (12 R330), a write is drafted, and a failure ends the task. -/
def State.engineAccess (s : State) (id k r : Nat) (kind : MemKind) (w : W64) (len : Nat) (data : List Byte) : State :=
  let write := kind != .read
  let st := s.engineStatus r w len write
  if st ≠ 0 then (s.endJob id).failTask r st
  else
    let n := orNum w
    let s := s.drawRef r n
    (if kind = .write then Prep.ok s else s.prepRead (.port id) r n (orOff w) len).runReq id r fun u =>
      if kind = .atomic ∧ !u.atomicOk w len then (u.endJob id).failTask r 0x18
      else
        let grants := u.bankGrants (u.task r) ⟨false, n, orOff w, len⟩
        let old := u.taskRead (u.task r) n (orOff w) len
        let part := (u.task r).part
        if !write then ((u.tickN 0x0D0 grants (some part)).send (.engineReply k old)).endJob id
        else (u.prepWrite (.port id) r n (orOff w) data.length).runReq id r fun v =>
          let v := ((v.taskWrite r n (orOff w) (data.map some)).tickN 0x0D0 grants (some part)).endJob id
          if kind = .atomic then v.send (.engineReply k old) else v

/-- The engine behind port `k` reads or writes an object for its live dispatch (11 R298), in request `id`. A request of a
convoy acts for the entry that it names; a write that names none ends every member with 0x11 (08 R236). -/
def State.engineReq (s : State) (id k : Nat) (t : Tag) (entry : Option Nat) (kind : MemKind) (oref : W64) (len : Nat)
    (data : List Byte) : State :=
  match s.matchRet k t with
  | none => s.endJob id
  | some (n, _, d, _) =>
    if d.stopping then s.endJob id
    else match d.owner with
      | .task r gen _ => if (s.task r).gen = gen then s.engineAccess id k r kind oref len data else (s.endJob id).mismatch
      | .convoy =>
        let c := (s.part n).cvy
        let es := c.run.getD []
        if kind = .read ∧ !orWin oref ∧ orNum oref = 0xFFFFFF then
          (s.send (.engineReply k ((List.range len).map fun i => s.bufByte n (orOff oref + i)))).endJob id
        else match entry.bind fun i => es[i]? with
          | some e => match Tab.get none c.members e.mslot with
            | some m => if m.gone then s.endJob id else s.engineAccess id k m.r kind oref len data
            | none => s.endJob id
          | none =>
            if kind = .read then match s.dispReader n d with
              | some (r, _) => s.engineAccess id k r kind oref len data
              | none => s.endJob id
            else (s.endJob id).dispFail n d 0x11

/-- Take up the request of an engine. -/
def State.engineServe (s : State) (j : PortJob) : State := match j.req with
  | .engine k t entry kind oref len data => s.engineReq j.id k t entry kind oref len data
  | _ => s

/-- The requests of engines that wait are taken up again, in order of arrival. -/
def State.engineAgain (s : State) : State := s.each s.xl.waiting State.engineServe

/-- ENGINE_MEMORY_REQUEST (11 R298). -/
def execEngineMemoryRequest (k : Nat) (t : Tag) (entry : Option Nat) (kind : MemKind) (oref : W64) (len : Nat)
    (data : List Byte) (s : State) : Host.Outcome State Fault Refusal :=
  let q := PortReq.engine k t entry kind oref len data
  done s ((s.enterReq q).engineServe ⟨s.xl.portNo, q, []⟩)

end Sys2Proof.Machine
end

