-- ==== Sys2Proof/Machine/Sched.lean ====
section
/-! DEFINITION. The Scheduler (08_convoys_scheduling.md R215 to R229): route threads, parking, slices, drains; and the
life of a task record after its run (01 R16, R17; 04 R112 to R124; 11 R309). -/

namespace Sys2Proof.Machine

/-! ### Route threads (04 R98, R99, R102) -/

/-- Route threads that partition `n` uses. -/
def State.threadsUsed (s : State) (n : Nat) : Nat := (s.tasks.filter fun e => e.2.part == n && e.2.thread.isSome).length

/-- Route thread `th` is free, and partition `n` may use one more (02 R50, R56; 04 R99). -/
def State.threadFree (s : State) (n th : Nat) : Bool :=
  th < 256 && s.threadsUsed n < s.share n &&
    !(s.tasks.any fun e => e.2.thread == some th || (s.latch.dim && e.2.thread.map coreOf == some (coreOf th)))

/-- A reset of partition `n` is past its dump phase (13 R370): no task starts, no slice begins, no drain ends by itself. -/
def State.resetHolds (s : State) (n : Nat) : Bool := (s.part n).resetting && 2 ≤ s.rcv.phase

/-- Partition `n` is inside a slice, and no reset holds it. -/
def State.inSlice (s : State) (n : Nat) : Bool := (s.part n).running && !s.resetHolds n

/-- The earlier of two tasks in the order in which threads take them: reruns first (04 R98, R119; 13 R367). -/
def Task.before (a b : Task) : Bool := if a.front == b.front then a.order < b.order else a.front

/-- The first of a list of records in that order. -/
def firstTask : List (Nat × Task) → Option (Nat × Task)
  | [] => none
  | x :: l => match firstTask l with
    | none => some x
    | some y => if y.2.before x.2 then some y else some x

/-- ADMITTED tasks of a job of partition `n`. -/
def State.admittedOf (s : State) (n : Nat) (j : Job) : List (Nat × Task) :=
  s.tasks.filter fun e => e.2.st == .admitted && e.2.part == n && e.2.kind != .admin && e.2.job == j

/-- TASK_START (04 R98, R99): thread `thread` takes the first ADMITTED task of the running job of partition `n`. -/
def execTaskStart (n thread : Nat) (s : State) : Host.Outcome State Fault Refusal :=
  done s (match (s.part n).job with
    | none => s
    | some j =>
      if !(s.inSlice n && s.threadFree n thread) then s
      else match firstTask (s.admittedOf n j) with
        | none => s
        | some (r, _) => (s.unpark r).modTask r fun t => { t with st := .running, thread := some thread, stall := .none })

/-- Room for one context in the task state of partition `n` (04 R102): a unit that holds fewer than 64, or a new one. -/
def State.takeContext (s : State) (n : Nat) : Option (Nat × State) :=
  let put (u : Nat) (s : State) : State := s.modPart n fun p => { p with tsUnits := Tab.set 0 p.tsUnits u (Tab.get 0 p.tsUnits u + 1) }
  match List.find? (fun (e : Nat × Nat) => e.2 < 64) (s.part n).tsUnits with
  | some e => some (e.1, put e.1 s)
  | none => match s.takeUnits n .taskState 1 with
    | some (u :: _, t) => some (u, put u t)
    | _ => none

/-- The task stands still on a condition on which it may park (04 R102). -/
def Task.parkable (t : Task) : Bool :=
  t.stall == .slot || (t.stall == .join && opcodeOf (t.word t.ctx.pc) != 0x53)

/-- A task that leaves its thread keeps of its program the word at which it stands (04 R101, R102). -/
def Task.keepLine (t : Task) : Task :=
  { t with lines := t.lines.filter fun l => l.1 == (t.progAddr + 16 * t.ctx.pc) / 64 }

/-- TASK_PARK (04 R102): the task still stands on its condition; its context goes to task state, the thread is free, and a
lantern waits for the condition (12 R348). -/
def execTaskPark (r : Nat) (s : State) : Host.Outcome State Fault Refusal :=
  let t := s.task r
  done s (if t.canIssue && t.parkable && !t.awaited then
      match s.takeContext t.part with
      | some (u, v) => (((v.noteStall r Stall.parked.code).steps r 16).modTask r fun t => { t.keepLine with
          parked := some u, thread := none, stall := .parked, lit := none }).modWps fun w =>
            { w with lans := w.lans ++ [⟨0, 0, .parked r t.gen⟩] }
      | none => s
    else s)

/-- A suspended task's WAITs are armed again when it resumes (04 R130): they start anew. -/
def Task.rearm (t : Task) : Task :=
  { t with win := t.win.map fun e => (e.1, e.2.map fun o => match o.kind with
      | .wait _ _ => if o.phase = .running then { o with phase := .ready } else o
      | _ => o) }

/-- A parked task's turn to resume has come (04 R102, 12 R348): its lantern has fired, and no other of its partition's job
fired before. -/
def State.litFirst (s : State) (t : Task) : Bool := match t.lit with
  | none => false
  | some k => !(s.tasks.any fun e => e.2.part == t.part && e.2.job == t.job && e.2.st == .running && e.2.thread.isNone &&
      e.2.lit.any (· < k))

/-- TASK_RESUME (04 R102, R130; 12 R348): a parked task whose lantern has fired, or a suspended one in its job's next
slice, continues on a thread with its context. -/
def execTaskResume (r thread : Nat) (s : State) : Host.Outcome State Fault Refusal :=
  let t := s.task r
  done s (if t.st == .running && t.thread.isNone && t.parked.isSome && s.inSlice t.part && (s.part t.part).job == some t.job &&
        s.threadFree t.part thread && (t.suspended || s.litFirst t) then
      ((s.unpark r).steps r 16).modTask r fun t => { t with thread := some thread, suspended := false, stall := .none, lit := none }
    else s)

/-- The window holds one of the six operations of a tile (04 R130). -/
def Task.tileBusy (t : Task) : Bool := t.win.any fun e => match e.2 with
  | some o => (match o.kind with
    | .dispatch .. => true
    | .copy .. => true
    | .fill .. => true
    | .gather .. => true
    | .xform .. => true
    | .sample .. => true
    | _ => false)
  | none => false

/-- VERKAI_SUSPEND (04 R130, 08 R224): at its tile boundary after a slice boundary, a task of a Verkai partition saves
its context, and its WAITs with it. -/
def execVerkaiSuspend (r : Nat) (s : State) : Host.Outcome State Fault Refusal :=
  let t := s.task r
  done s (if t.st == .running && !t.suspended && s.verkai t.part && (s.part t.part).draining && !t.tileBusy then
      let s := s.noteStall r Stall.parked.code
      let u := if t.parked.isSome then some s
        else (s.takeContext t.part).map fun x => (x.2.steps r 16).modTask r fun t => { t with parked := some x.1 }
      match u with
      | some v => (v.dropLanterns r).modTask r fun t =>
          { t.rearm.keepLine with suspended := true, thread := none, stall := .parked, lit := none }
      | none => s
    else s)

/-! ### Boundaries (08 R223 to R228; 02 R59; 15 R424) -/

/-- Source partition of the resize in progress. -/
def Rcv.src (x : Rcv) : Option Nat := if bit x.rszAct 6 then none else some (fld x.rszAct 5 0)
/-- Destination partition of the resize in progress. -/
def Rcv.dst (x : Rcv) : Option Nat := if bit x.rszAct 14 then none else some (fld x.rszAct 13 8)

/-- Every moving bank is empty, so that the source step can be made (02 R59). -/
def State.srcReady (s : State) : Bool :=
  s.rcv.rszPhase == 1 && (bitsOf 64 s.rcv.rszMovB).all fun b => s.bankHeld b == 0

/-- Every moving bank has been scrubbed and every moving port cleared (02 R59). -/
def State.dstReady (s : State) : Bool :=
  s.rcv.rszPhase == 2 && s.rcv.rszMovB &&& ~~~s.rcv.rszScrubbed == 0 && s.rcv.rszMovE &&& ~~~s.rcv.rszCleared == 0

/-- Partition `n` is at a slice boundary whose drain has ended. -/
def State.between (s : State) (n : Nat) : Bool :=
  let p := s.part n
  !p.running && !p.draining && !s.resetHolds n

/-- A step of the resize is due at partition `n`'s boundary, ahead of its next slice (08 R228, order 2). -/
def State.resizeDue (s : State) (n : Nat) : Bool :=
  (s.srcReady && s.rcv.src == some n) || (s.dstReady && s.rcv.dst == some n)

/-- Switch partitions to the staged firmware (15 R424, R425): selectors, ATTESTED key slots, the loop history where the
policy tables change; the last switch ends the transition and raises the fused security version to the package's. -/
def State.fwSwitch (s : State) (l : List Nat) : State :=
  let b := 1 - s.sec.active
  let changed := s.fwDigest b 1 != s.fwDigest s.sec.active 1
  let s := s.each l fun u n =>
    ((u.modPart n fun p => { p with fwSel := b, cvy := { p.cvy with restart := p.cvy.restart || changed } }).withdrawKeys fun k =>
      k.attested && k.part == n).modSec fun c => { c with swapped := setBit c.swapped n }
  if popc64 s.sec.swapped == 64 then
    s.modSec fun c => { c with active := b, transition := false, staged := false, swapped := 0, raised := max c.raised c.pkgVersion }
  else s

/-- Partitions of a list that still have to switch. -/
def State.toSwitch (s : State) (l : List Nat) : List Nat :=
  if s.sec.transition then l.filter fun n => n < 64 && !bit s.sec.swapped n else []

/-- The switch of partition `n` at its slice boundary (08 R228, order 3; 15 R420). -/
def State.fwSwap (s : State) (n : Nat) : State :=
  if (s.toSwitch [n]).isEmpty then s else (s.fwSwitch [n]).bumpReport

/-- The slice of partition `n` ends (08 R219, R223, R224): its job waits anew, and in native mode every RUNNING task is
killed for rerun. -/
def State.endSlice (s : State) (n : Nat) : State :=
  let p := s.part n
  if !p.running then s
  else
    let again (x : JobRec) : JobRec := if p.job == some (x.job) then { x with since := s.stamp } else x
    let s := (s.modPart n fun p => { p with running := false, draining := true, jobs := p.jobs.map again }).nextStamp
    if s.verkai n then s
    else (s.recsWhere fun t => t.part == n && t.st == .running && t.kind != .admin).foldl State.killPreempt s

/-- A slice whose job has no task left ends (08 R219). -/
def State.idleEnd (s : State) (n : Nat) : State :=
  match (s.part n).job with
  | some j => if (s.part n).running && !s.jobLive n j then s.endSlice n else s
  | none => s

/-- An operation keeps a drain from ending: it holds an MTU credit, or is a dispatch under way (08 R223, R224). -/
def Op.holds (o : Op) : Bool :=
  o.mtu.isSome || o.phase == .drain || (match o.kind with
    | .dispatch .. => o.phase == .running || o.phase == .joining || o.phase == .member
    | _ => false)

/-- Partition `n` has drained (08 R223): no run, no release, no dispatch, no credit. -/
def State.drainOver (s : State) (n : Nat) : Bool :=
  (s.part n).seqr.isEmpty && s.tasks.all fun e => e.2.part != n || e.2.kind == .admin ||
    (e.2.st != .committing && (e.2.st != .running || e.2.suspended) && e.2.win.all fun x => match x.2 with
      | some o => !o.holds
      | none => true)

/-- The Convoy Builder of partition `n` releases its buffer and discards its members (08 R223, R232). -/
def State.dropConvoy (s : State) (n : Nat) : State :=
  let us := (s.part n).cvy.units
  (s.modPart n fun p => { p with cvy := { p.cvy with units := [], members := [], run := none, hold := false } }).each us State.freeUnit

/-- A pre-empted task of partition `n` still holds its old record: its rerun is not ADMITTED yet. -/
def State.rerunsDue (s : State) (n : Nat) : Bool :=
  s.tasks.any fun e => e.2.part == n && e.2.st == .killed && e.2.after == some .rerun

/-- DRAIN_TIMEOUT (13 R369): a drain that lasts 1 ms posts a device-scoped 0x10 record of a partition, and an automatic
reset of the partition waits to start. -/
def execDrainTimeout (n : Nat) (s : State) : Host.Outcome State Fault Refusal :=
  done s (if (s.part n).draining && !s.resetHolds n && !s.rcv.waiting.contains n then
      (s.geqPost { geqRec 0x10 5 with part := n } none).modRcv fun x => { x with waiting := insertRising x.waiting n }
    else s)

/-! ### Slices (08 R217 to R222, R226, R229, R243) -/

/-- Tasks that make a job ready (08 R218): ADMITTED ones, and those that a Verkai boundary suspended (04 R130, log 40). -/
def State.readyTasks (s : State) (n : Nat) (j : Job) : List (Nat × Task) :=
  s.tasks.filter fun e => e.2.part == n && e.2.kind != .admin && e.2.job == j && (e.2.st == .admitted || (e.2.st == .running && e.2.suspended))

/-- The ready jobs of partition `n`. -/
def State.readyJobs (s : State) (n : Nat) : List JobRec := (s.part n).jobs.filter fun x => !(s.readyTasks n x.job).isEmpty

/-- The VF of the previous slice: before the first slice after an enable the order starts at VF 0 (DEDUCED, log 41). -/
def Part.prevVf (p : Part) : Nat := p.prev.getD 1023

/-- The better of two jobs (08 R218): the next VF after `prev`, then the job that has waited longest. -/
def JobRec.ahead (prev : Nat) (a b : JobRec) : Bool :=
  let d (v : Nat) : Nat := (v + 1024 - (prev + 1) % 1024) % 1024
  if d a.vf = d b.vf then a.since < b.since else d a.vf < d b.vf

/-- The job that R218 chooses from a list. -/
def chooseJob (prev : Nat) : List JobRec → Option JobRec
  | [] => none
  | x :: l => match chooseJob prev l with
    | none => some x
    | some y => if y.ahead prev x then some y else some x

/-- GROUP of a job: 0 for a plain one. -/
def Job.group : Job → Nat
  | .plain _ _ _ => 0
  | .serving _ g => g

/-- The oldest of a list of tasks. -/
def oldestTask (l : List (Nat × Task)) : Option Task := (firstTask (l.map fun e => (e.1, { e.2 with front := false }))).map (·.2)

/-- The queue whose WSET and ageing policy a job's slice takes (08 R217, 09 R270): that of its oldest ADMITTED task; of its
oldest suspended one where none is ADMITTED (DESIGN CHOICE, log 40). -/
def State.jobQueue (s : State) (n : Nat) (j : Job) : Queue :=
  match (oldestTask (s.admittedOf n j)).orElse fun _ => oldestTask (s.readyTasks n j) with
  | some t => s.queue t.qk
  | none => {}

/-- The loop's history begins anew with this slice (08 R243): a serving job with another VF or weight set. -/
def Cvy.newJob (c : Cvy) (j : Job) (vf wset : Nat) : Bool := match j with
  | .serving _ _ => !c.restart && !(c.lvf == vf && c.lwset == wset)
  | .plain _ _ _ => false

/-- A slice of partition `n` begins for a job (08 R218, R219, R222, R226, R229, R234, R243). -/
def State.beginSlice (s : State) (n : Nat) (x : JobRec) : State :=
  let q := s.jobQueue n x.job
  let w := fld q.job 15 0
  let s := s.modPart n fun p =>
    { p with
      running := true, job := some x.job, slices := (p.slices + 1) % 2 ^ 32, prev := some x.vf, schVf := x.vf, schGroup := x.job.group
      curSliceUs := p.sliceUs, jobWset := w, jobKv := q.kvage, clearWait := false, chosen := none
      wsValid := p.wsValid && p.wsVf == x.vf && p.wsTag == w && w != 0
      cvy := { p.cvy with num := 0, hold := false, restart := p.cvy.restart || p.cvy.due || p.cvy.newJob x.job x.vf w, due := false } }
  (s.each ((s.portsOf n).filter fun k => (s.eport k).usable) fun u k => u.modPort k fun e => { e with lastVf := some x.vf }).tick 0x032 (some n)

/-- The usable ports of partition `n` whose record names another VF (08 R226). -/
def State.foreignPorts (s : State) (n vf : Nat) : List Nat :=
  (s.portsOf n).filter fun k => (s.eport k).usable && (match (s.eport k).lastVf with
    | some v => v != vf
    | none => false)

/-- The Scheduler chooses the next job of partition `n`: its slice begins, or the CLEARs that must come first are sent. -/
def State.nextSlice (s : State) (n : Nat) : State :=
  match chooseJob (s.part n).prevVf (s.readyJobs n) with
  | none => s.modPart n fun p => { p with clearWait := false, chosen := none }
  | some x =>
    match s.foreignPorts n x.vf with
    | [] => s.beginSlice n x
    | l => (s.each l State.clearPort).modPart n fun p => { p with wsValid := false, clearWait := true, chosen := some x.job }

/-- The job that waits for its CLEARs, while it is ready. -/
def State.chosenJob (s : State) (n : Nat) : Option JobRec :=
  if (s.part n).clearWait then (s.readyJobs n).find? fun x => some x.job == (s.part n).chosen else none

/-- SLICE_BEGIN (08 R218, R219, R226; 02 R55): with no slice, drain, reset or resize step ahead, and a partition that is
not starved, the next job's slice begins once every CLEAR it needs is done. -/
def execSliceBegin (n : Nat) (s : State) : Host.Outcome State Fault Refusal :=
  done s (
    if !(s.enabled n && s.between n) || s.starved n || s.resizeDue n then s
    else match s.chosenJob n with
      | some x => if (s.portsOf n).any fun k => (s.eport k).clearing then s else s.beginSlice n x
      | none => s.nextSlice n)

/-- SLICE_TIMER_EXPIRY (08 R219). -/
def execSliceTimerExpiry (n : Nat) (s : State) : Host.Outcome State Fault Refusal := done s (s.endSlice n)

/-! ### The end of a task (01 R16, R17; 04 R112, R114, R117, R123, R451) -/

/-- The outcome of a task that has retired (04 R112 step 5, R113, R114, R451): the submission's last segment is
finished; an ENQUEUE task returns its credit, or hands it to the record that it asks for (03 R91). The record is
RETIRED before its completion record is written, since 03 R87 asks for RETIRED first (DEDUCED, log 108). Queues being
destroyed get no record of committed work (03 R96); a segment that yields in such a queue goes on to its continuation,
and its submission ends without a record (DEDUCED from R96 step 4, log 109). -/
def State.retired (s : State) (r : Nat) : State :=
  let t := s.task r
  let dead := (s.queue t.qk).st == .destroying
  match t.ending, t.kind with
  | .yield, _ => s
  | _, .enq =>
    let s := s.vfTick t.fk 2 1
    if t.wantRec && !dead then s.dueEnq t.qk t.part t.seq (taskId r t.gen) t.cstat t.summary true t.badAt
    else
      let s := s.modQueue t.qk (Queue.give 1)
      if t.cstat ≠ 0 ∧ t.cstat ≠ 0x14 then s.geqNotice t.qk t.cstat else s
  | _, _ => s.finishSub t.qk t.ord t.cstat t.summary false dead true t.badAt

/-- The release of record `r` has ended but for its ENQUEUEs (04 R112): they are admitted, references return, and the
record is RETIRED. -/
def State.retireNow (s : State) (r : Nat) : State :=
  let t := s.task r
  let s := s.each (sortIss t.staged) fun u e => match e.2 with
    | .enq q pa len cbp cb => u.releaseEnq r q pa len cbp cb
    | _ => u
  let s := ((s.dropRefs r).dropX (Who.ofTask r t.gen)).modTask r fun t => { t with st := .retired, staged := [], lines := [], got := [] }
  let s := (s.tick 0x012 (if t.kind = .admin then none else some t.part)).endTags (fun g => g.r == r && g.gen == t.gen) false
  s.retired r

/-- TASK_RETIRE (04 R112): once every released effect has been carried out, the record moves to RETIRED. -/
def execTaskRetire (r : Nat) (s : State) : Host.Outcome State Fault Refusal :=
  done s (if (s.task r).st != .committing then s
    else
      let u := s.release r
      let t := u.task r
      if t.released && t.sigs == 0 then
        let v := u.retireNow r
        if t.kind = .admin then v else v.idleEnd t.part
      else u)

/-- The record is EMPTY; its generation and a withdrawal stay (01 R15, 13 R368). -/
def State.emptyRecord (s : State) (r : Nat) : State :=
  s.modTask r fun t => { gen := t.gen, withdrawn := t.withdrawn }

/-- A task that waits for a record takes the lowest EMPTY one (08 R247). -/
def State.admitWaiting (s : State) : State :=
  match s.waitTasks, s.emptyRec with
  | t :: rest, some i => ({ s with waitTasks := rest }).admitAt i t
  | _, _ => s

/-- The rerun of a killed segment is admitted (04 R117): its record is released and EMPTY (01 R16), and the rerun takes
the same index, or another where the index has been withdrawn (13 R368). -/
def State.rerun (s : State) (r : Nat) : State :=
  let t := (s.task r).again
  let u := s.emptyRecord r
  if (s.task r).withdrawn then u.admission t else u.admitAt r t

/-- RECORD_RELEASE (01 R16, R17; 04 R117; 13 R370): a record whose credits have all returned is EMPTY again, or holds its
rerun; a reset admits the reruns of its domain at its end. A slice whose job had no other task has ended (08 R219). -/
def execRecordRelease (r : Nat) (s : State) : Host.Outcome State Fault Refusal :=
  let t := s.task r
  done s (
    if !t.drained then s
    else match t.st, t.after with
      | .killed, some .rerun => if s.resetHolds t.part then s else (s.idleEnd t.part).rerun r
      | .killed, _ => (((s.emptyRecord r).admitWaiting).idleEnd t.part).engineAgain
      | .retired, _ => if t.ending = .yield then s else (((s.emptyRecord r).admitWaiting).idleEnd t.part).engineAgain
      | _, _ => s)

/-- The continuation segment of a task that yielded (04 R103, R123, R124; 13 R359): the saved context, the constant
buffer, and the commit-time status go on. -/
def State.nextSegment (s : State) (t : Task) (u : Nat) : Task :=
  { t.again with
    start := t.ctx, ctx := t.ctx, cb := t.cb, cbIn := t.cbIn, front := false, preempts := 0, resumed := true
    parked := some u, limitUs := (s.queue t.qk).timeout.toNat }

/-- CONTINUATION_ADMIT (04 R123, R124). -/
def execContinuationAdmit (r : Nat) (s : State) : Host.Outcome State Fault Refusal :=
  let t := s.task r
  done s (if t.st == .retired && t.ending == .yield then
      match s.takeContext t.part with
      | some (u, v) => (v.emptyRecord r).admission (s.nextSegment t u)
      | none => s
    else s)

/-- Something still reads retiring storage (11 R309): a draft has it as its source, or an operation that began before
the grant belongs to a task that holds the object. -/
def State.stillRead (s : State) (x : Retiring) : Bool :=
  s.tasks.any fun e =>
    (e.2.drafts.any fun d => d.src.any x.pages.contains) ||
    ((e.2.refs.contains x.obj || e.2.st == .killed) && e.2.win.any fun w => match w.2 with
      | some o => o.holds && decide (o.began < x.at')
      | none => false)

/-- RETIRING_STORAGE_RELEASE (11 R309): the `i`-th retiring storage that nothing reads any more returns. -/
def execRetiringStorageRelease (i : Nat) (s : State) : Host.Outcome State Fault Refusal :=
  done s (match s.sto.retiring[i]? with
    | none => s
    | some x => if s.stillRead x then s
      else (s.modSto fun m => { m with retiring := m.retiring.eraseIdx i }).freePages x.pages)

end Sys2Proof.Machine
end

