-- ==== Sys2Proof/Machine/Queues.lean ====
section
/-! DEFINITION. Queues (03_queues_doorbells_completion.md): doorbells, ring-slot credits and the Doorbell Unit's turns
(08 R246, R249), descriptor fetch (R78 to R85, 08 R247), queue commands (R75 to R77), retirement and completion records
(R87 to R95), and the destroy of a queue (R96; 02 R48). -/

namespace Sys2Proof.Machine

/-! ### Access -/

/-- A write by PF `p` at `off` outside the identity region acts only once a designation exists (02 R39). -/
def State.pfOpen (s : State) (p off : Nat) (g : State → State) : State :=
  if !(s.func (pfKey p)).linkUp then s
  else if s.boot.operator.isNone then s.notOperator p off
  else g s

/-- A write through a window to a register of local queue `q` of its function, at `off` in a PF's BAR0 (03 R72): a PF has
16 queues. -/
def State.onQueue (s : State) (w : Window) (q off : Nat) (g : Nat → State → State) : State :=
  match s.winFunc w, w with
  | some fk, .pf p => if q < 16 then s.pfOpen p off (g (qkey fk q)) else s
  | some fk, _ => if q < 64 then g (qkey fk q) s else s
  | none, _ => s

/-! ### Doorbells (03 R83, R84; 08 R249) -/

/-- Slots before TAIL that hold no ring-slot credit yet. -/
def Queue.uncredited (q : Queue) : Nat := q.waiting - q.credited

/-- A doorbell leaves a slot waiting although the queue held a free credit just before (08 R249). -/
def State.overload (s : State) (qk : Nat) : State :=
  let fk := qk / 64
  let s := if s.bound fk then s.modPart (s.bindPart fk) fun p => { p with overload := satAdd 0xFFFFFFFF p.overload 1 } else s
  (s.vfTick fk 10 1).geqNotice qk 0x1A

/-- Count a refused doorbell or head write (03 R73). -/
def Queue.refuse (q : Queue) : Queue := { q with refused := satAdd 0xFFFF q.refused 1 }

/-- A doorbell of queue `qk` with generation `g` and tail `t` (03 R83). A queue whose state is uncorrectable refuses it
(13 R368). Every doorbell that is taken lets a slot read that failed be tried again (R85). -/
def State.ring (s : State) (qk g t : Nat) : State :=
  let q := s.queue qk
  if g ≠ q.gen then (s.modQueue qk fun q => { q with stale := satAdd 0xFFFF q.stale 1 }).tick 0x001 (some (s.partOf (qk / 64)))
  else if q.st ≠ .enabled ∨ q.poisoned then s.modQueue qk Queue.refuse
  else
    let occ := dist 24 t q.head
    let adv := dist 24 t q.tail
    if q.ring < occ ∨ occ < adv then (s.modQueue qk Queue.refuse).notice qk 0x19
    else
      let free := q.free - q.uncredited
      let s := s.modQueue qk fun q => { q with tail := t, unreadable := false }
      let s := (s.tick 0x000 (some (s.partOf (qk / 64)))).vfTick (qk / 64) 0 1
      if 0 < free ∧ free < adv then s.overload qk else s

/-- DOORBELL (03 R83). -/
def execDoorbell (w : Window) (q : Nat) (v : W32) (s : State) : Host.Outcome State Fault Refusal :=
  done s (s.onQueue w q (0x8000 + q * 0x40) fun qk u => u.ring qk (fld v 31 24) (fld v 23 0))

/-! ### Deficit round-robin (08 R246, R247) -/

/-- Steps from participant `a` to `b` around the 1,028 of them, 1 to 1,028 when `strict`, else 0 to 1,027. -/
def turnDist (strict : Bool) (a b : Nat) : Nat :=
  let d := (b + 1028 - a) % 1028
  if strict && d == 0 then 1028 else d

/-- The participant of a list that comes next after the turn. -/
def nextTurn (strict : Bool) (a : Nat) : List Nat → Option Nat
  | [] => none
  | b :: l => match nextTurn strict a l with
    | none => some b
    | some c => if turnDist strict a c < turnDist strict a b then some c else some b

/-- Find whose turn it is among participants `ready`, whose next item costs `cost`: the present one while its deficit
allows, else the next one, which adds 16; those passed over with nothing to do have their deficits set to 0. -/
def Drr.turnTo (d : Drr) (ready : List Nat) (cost : Nat → Nat) : Option (Nat × Drr) :=
  let here := ready.contains d.turn
  if here && d.visited && cost d.turn ≤ Tab.get 0 d.deficit d.turn then some (d.turn, d)
  else
    let strict := here && d.visited
    (nextTurn strict d.turn ready).map fun p =>
      let left := d.deficit.filter fun e => ready.contains e.1 || turnDist strict d.turn p ≤ turnDist strict d.turn e.1
      (p, { d with turn := p, visited := true, deficit := Tab.set 0 left p (Tab.get 0 left p + 16) })

/-- Spend `n` slots of a participant's deficit on its local queue `q`. -/
def Drr.spend (d : Drr) (p q n : Nat) : Drr :=
  { d with deficit := Tab.set 0 d.deficit p (Tab.get 0 d.deficit p - n), lastQ := Tab.set 0 d.lastQ p (q + 1) }

/-- The next of a participant's local queues in round-robin order after the one served last. -/
def Drr.nextQ (d : Drr) (p : Nat) (qs : List Nat) : Option Nat :=
  let l := Tab.get 0 d.lastQ p
  (qs.find? fun q => l ≤ q).orElse fun _ => qs.head?

/-- The local queues of a function that `f` selects, rising. -/
def State.queuesWhere (s : State) (f : Nat → Queue → Bool) (fk : Nat) : List Nat :=
  s.queues.filterMap fun e => if e.1 / 64 == fk && f e.1 e.2 then some (e.1 % 64) else none

/-- The functions that have a queue which `f` selects. -/
def State.funcsWhere (s : State) (f : Nat → Queue → Bool) : List Nat :=
  (s.queues.filterMap fun e => if f e.1 e.2 then some (e.1 / 64) else none).dedup

/-- A queue that takes entries: ENABLED or QUIESCING. -/
def Queue.serves (q : Queue) : Bool := q.st == .enabled || q.st == .quiescing

/-- The queue has a waiting slot that it can credit (08 R246). -/
def Queue.canDraw (q : Queue) : Bool := q.serves && 0 < q.uncredited && 0 < q.free

/-- RING_SLOT_CREDIT_DRAW (08 R246; 03 R84): the Doorbell Unit draws the next credit. With nothing to draw, every deficit
is 0. -/
def execRingSlotCreditDraw (s : State) : Host.Outcome State Fault Refusal :=
  let sel (_ : Nat) (q : Queue) : Bool := q.canDraw
  done s (match s.dbell.turnTo (s.funcsWhere sel) fun _ => 1 with
    | none => { s with dbell := { s.dbell with deficit := [], visited := false } }
    | some (p, d) => match d.nextQ p (s.queuesWhere sel p) with
      | some q => ({ s with dbell := d.spend p q 1 }).modQueue (qkey p q) fun x =>
          { x with credHeld := x.credHeld + 1, credited := x.credited + 1 }
      | none => s)

/-! ### Descriptor fetch (03 R78 to R85; 04 R98, R103; 08 R215, R247) -/

/-- The fetch of the queue's submission waits for its host. -/
def State.slotWaits (s : State) (qk : Nat) : Bool :=
  (s.xl.reqs.any fun r => r.who == .slots qk) || (s.xl.pri.any fun r => r.who.contains (.slots qk))

/-- The queue has a submission that may be fetched (03 R85): its slots hold credits, and no read of it waits. -/
def State.fetchable (s : State) (qk : Nat) (q : Queue) : Bool :=
  q.serves && !q.unreadable && 0 < q.credited && q.needs ≤ q.credited && !s.slotWaits qk

/-- Slots of a submission whose first word is `w`: 1 + CHAIN, or 1 when CHAIN exceeds 4 (03 R79, R80). -/
def slotsOf (w : W64) : Nat := if 4 < fld w 15 13 then 1 else 1 + fld w 15 13

/-- A submission is malformed (03 R80): checks 1 to 7. -/
def malformed (gen seq : Nat) (admin : Bool) (b : List Byte) : Bool :=
  let w0 := BitVec.ofNat 64 (leAt b 0 8)
  let prog := leAt b 8 8
  let len := leAt b 0x10 8
  let cba := leAt b 0x18 8
  let inl := leAt b 0x20 32
  let chain := fld w0 15 13
  let mode := fld w0 11 10
  let cblen := fld w0 9 4
  fld w0 31 24 != gen || fld w0 63 32 != seq || fld w0 19 16 != b2n admin || 4 < chain || mode == 3 ||
  (mode == 1 && !(1 ≤ cblen && cblen ≤ 32)) || len % 65536 == 0 || (4 * chain < len % 65536 && prog == 0) ||
  fld w0 23 20 != 0 || fld w0 3 0 != 0 || prog % 16 != 0 || len / 65536 != 0 || cba % 64 != 0 ||
  (mode != 1 && (cblen != 0 || inl != 0)) || (mode != 2 && cba != 0) || (len % 65536 ≤ 4 * chain && prog != 0)

/-- The constant words that a submission carries inline: bytes beyond CB_LEN read as zero (03 R79). -/
def inlineCb (b : List Byte) : List W64 :=
  let w0 := BitVec.ofNat 64 (leAt b 0 8)
  if fld w0 11 10 = 1 then words64 4 ((slice b 0x20 (fld w0 9 4)) ++ List.replicate 32 0) else []

/-- The task of a well-formed submission (04 R98, R103; 08 R215; 13 R359). -/
def State.subTask (s : State) (qk ord seq : Nat) (b : List Byte) : Task :=
  let q := s.queue qk
  let fk := qk / 64
  let w0 := BitVec.ofNat 64 (leAt b 0 8)
  let len := leAt b 0x10 8 % 65536
  let cb := inlineCb b
  let g := fld q.job 19 16
  let c : Ctx := { s := (((([] : Tab W64) |> fun x => Tab.set 0 x 60 (cb.getD 0 0)) |> fun x => Tab.set 0 x 62 (BitVec.ofNat 64 (qk % 64))) |>
    fun x => Tab.set 0 x 63 (BitVec.ofNat 64 seq)) }
  { kind := if 1024 ≤ fk then .admin else .host, fk := fk, q := qk % 64, qgen := q.gen, ord := ord, seq := seq
    part := s.partOf fk, job := if g = 0 ∨ 1024 ≤ fk then .plain qk q.gen ord else .serving fk g
    progAddr := leAt b 8 8, progLen := len, inl := words128 (min len (4 * fld w0 15 13)) (b.drop 64)
    cbMode := fld w0 11 10, cbAddr := leAt b 0x18 8, cb := cb, cbIn := fld w0 11 10 != 2, start := c, ctx := c
    limitUs := q.timeout.toNat }

/-- Take a submission whose `n` slots MTU `mtu` has read into the shadow (03 R79 to R81, R85; 16 R431, R436). -/
def State.takeSub (s : State) (qk mtu n : Nat) (b : List Byte) : State :=
  let q := s.queue qk
  let bad := malformed q.gen q.expSeq (1024 ≤ qk / 64) b
  let x : Sub := { ord := q.nextOrd, seq := q.expSeq, slots := n, irq := bit (BitVec.ofNat 64 (leAt b 0 8)) 12, tid := 0, fin := none }
  let s := (s.modQueue qk fun q => { q with
    head := (q.head + n) % 2 ^ 24, credited := q.credited - n, needs := 0, expSeq := (q.expSeq + 1) % 2 ^ 32
    nextOrd := q.nextOrd + 1, subs := q.subs ++ [x] }).tick 0x008 (some (s.partOf (qk / 64)))
  let s := (((s.tickN 0x0C0 (64 * n) (some (s.partOf (qk / 64)))).vfTick (qk / 64) 6 (64 * n)).handshakes 2 mtu n)
  if bad then s.finishSub qk x.ord 0x19 0 true false false 0 else s.admission (s.subTask qk x.ord x.seq b)

/-- Ring addresses of the `n` slots from HEAD, one each: the ring may wrap between them. -/
def Queue.slotAddrs (q : Queue) (n : Nat) : List Nat :=
  (List.range n).map fun i => (q.base &&& ones 63 6).toNat + 64 * ((q.head + i) % q.ring)

/-- Try to reach several ranges of 64 bytes for reading. -/
def State.trySlots (s : State) (qk : Nat) : List Nat → State × Acc
  | [] => (s, .ok ⟨s.queueSpace qk, 0, true, true, 0⟩)
  | a :: l => match s.tryRange (.slots qk) (s.queueSpace qk) a 64 false with
    | (u, .ok _) => u.trySlots qk l
    | r => r

/-- The fetch of a queue draws an MTU credit (01 R19): of the lowest-numbered MTU that has one free (DESIGN CHOICE, log
112). One that waits for its host holds it already. -/
def State.drawFetch (s : State) (qk : Nat) : Option State :=
  if (s.queue qk).mtu.isSome then some s
  else (firstBelow (fun m => 0 < s.mtuFree m) 16).map fun m => (s.modMtu m (· + 1)).modQueue qk fun q => { q with mtu := some m }

/-- The fetch of a queue has ended: its MTU credit returns (01 R19). -/
def State.endFetch (s : State) (qk : Nat) : State := match (s.queue qk).mtu with
  | some m => (s.modMtu m (· - 1)).modQueue qk fun q => { q with mtu := none }
  | none => s

/-- A slot of the queue cannot be read (03 R85): the queue stays at it. -/
def State.slotLost (s : State) (qk : Nat) : State := ((s.endFetch qk).modQueue qk fun q => { q with unreadable := true }).notice qk 0x12

/-- Fetch the submission at HEAD of queue `qk`, whose slots hold the bytes `data` (03 R85). How the unit learns CHAIN before
every slot holds a credit is a DESIGN CHOICE (log 113): it looks at the first slot once that one holds a credit, keeps
only the number of slots, and takes every slot's bytes at the fetch. -/
def State.fetchSub (s : State) (qk : Nat) (data : List Byte) : State :=
  let q := s.queue qk
  let n := slotsOf (BitVec.ofNat 64 (leAt data 0 8))
  match s.trySlots qk (q.slotAddrs 1) with
  | (u, .wait) => u
  | (u, .fail) => u.slotLost qk
  | (u, .ok _) =>
    if q.credited < n then (u.endFetch qk).modQueue qk fun q => { q with needs := n }
    else match u.trySlots qk (q.slotAddrs n) with
      | (v, .wait) => v
      | (v, .fail) => v.slotLost qk
      | (v, .ok _) => (v.endFetch qk).takeSub qk (q.mtu.getD 0) n data

/-- Slots of the next submission of participant `p`, as far as the unit knows them: at least one (08 R247). -/
def State.nextSize (s : State) (p : Nat) : Nat :=
  max 1 (((s.fetch.nextQ p (s.queuesWhere s.fetchable p)).map fun q => (s.queue (qkey p q)).needs).getD 1)

/-- DESCRIPTOR_FETCH (03 R85, 08 R247): the Descriptor Fetch Unit serves the next queue; `data` is what the host's memory
holds in the slots from that queue's HEAD. A submission that exceeds its participant's deficit is left, and the turn
passes on. The unit waits while no record is EMPTY or no MTU credit is free. -/
def execDescriptorFetch (data : List Byte) (s : State) : Host.Outcome State Fault Refusal :=
  let n := slotsOf (BitVec.ofNat 64 (leAt data 0 8))
  done s (if s.emptyRec.isNone then s
    else match s.fetch.turnTo (s.funcsWhere s.fetchable) s.nextSize with
      | none => { s with fetch := { s.fetch with deficit := [], visited := false } }
      | some (p, d) => match d.nextQ p (s.queuesWhere s.fetchable p) with
        | none => s
        | some q =>
          let qk := qkey p q
          if Tab.get 0 d.deficit p < n then ({ s with fetch := d }).modQueue qk fun x => { x with needs := n }
          else match s.drawFetch qk with
            | none => s
            | some t =>
              let u := t.fetchSub qk data
              if (u.queue qk).head = (s.queue qk).head then u else { u with fetch := d.spend p q n })

/-- SLOT_READ_RETRY (03 R85): a slot read that failed is tried again. -/
def execSlotReadRetry (f q : Nat) (s : State) : Host.Outcome State Fault Refusal :=
  done s (if (s.queue (qkey f q)).unreadable then s.modQueue (qkey f q) fun x => { x with unreadable := false } else s)

/-! ### Queue commands (03 R69 to R77) -/

/-- CMD_RESULT of a function. -/
def State.cmdResult (s : State) (fk code : Nat) : State := s.modFunc fk fun f => { f with cmdResult := code }

/-- A queue command through a window (03 R72, R75, R77): a PF names queues 0 to 15. -/
def State.queueCmd (s : State) (w : Window) (q : Nat) (g : Nat → State → State) : State :=
  match s.winFunc w, w with
  | some fk, .pf p => s.pfOpen p 0x100 fun u => if q < 16 then g (qkey fk q) u else u.cmdResult fk 0x01
  | some fk, _ => g (qkey fk q) s
  | none, _ => s

/-- A command that needs one of some states, and whose effect is `g` (03 R76). -/
def State.stateCmd (s : State) (w : Window) (q : Nat) (ok : QSt → Bool) (g : Nat → State → State) : State :=
  s.queueCmd w q fun qk u =>
    if ok (u.queue qk).st then (g qk u).cmdResult (qk / 64) 0x00 else u.cmdResult (qk / 64) 0x02

/-- Pool index of a queue at its creation (03 R69). -/
def State.poolIndex (s : State) (qk : Nat) : Nat :=
  if 1024 ≤ qk / 64 then 16320 + 16 * (qk / 64 - 1024) + qk % 64
  else (firstBelow (fun i => !(s.queues.any fun e => e.1 / 64 < 1024 && e.2.st != .absent && e.2.pool == i)) 16320).getD 0

/-- The shadow of a queue to be created (03 R71): its units, and the state with them held. -/
def State.takeShadow (s : State) (qk : Nat) : Option (List Nat × State) :=
  if 1024 ≤ qk / 64 then some ([], s)
  else s.takeUnits (s.bindPart (qk / 64)) (.shadow qk) (max 1 ((s.queue qk).ring / 1024))

/-- The generation after `g` of a queue: 255 is followed by 1 (03 R76). -/
def queueGen (g : Nat) : Nat := if 255 ≤ g then 1 else g + 1

/-- A queue as CREATE leaves it (03 R76): the configuration registers stay. -/
def Queue.create (q : Queue) (pool : Nat) (shadow : List Nat) : Queue :=
  { base := q.base, size := q.size, cplBase := q.cplBase, cfg := q.cfg, job := q.job, kvage := q.kvage, timeout := q.timeout
    st := .created, gen := queueGen q.gen, pool := pool, shadow := shadow }

/-- The checks of CREATE in order (03 R77): the result code, 0 when it may go on to the shadow. -/
def State.createCheck (s : State) (qk : Nat) : Nat :=
  let fk := qk / 64
  let q := s.queue qk
  if !s.latch.queues then 0x07
  else if q.st ≠ .absent then 0x02
  else if fk < 1024 ∧ !s.bound fk then 0x06
  else if fk < 1024 ∧ fld (s.func fk).bind 23 16 ≤ (s.liveQueues fk).length then 0x03
  else if fld q.size 4 0 < 4 ∨ 16 < fld q.size 4 0 ∨ fld q.size 12 8 < 4 ∨ 16 < fld q.size 12 8 then 0x04
  else 0x00

/-- CREATE (03 R69 to R71, R76, R77). -/
def State.createCmd (s : State) (w : Window) (q : Nat) : State :=
  s.queueCmd w q fun qk u =>
    let code := u.createCheck qk
    if code ≠ 0 then u.cmdResult (qk / 64) code
    else match u.takeShadow qk with
      | none => u.cmdResult (qk / 64) 0x05
      | some (us, v) => (v.modQueue qk fun q => q.create (u.poolIndex qk) us).cmdResult (qk / 64) 0x00

/-- QUEUE_CREATE (03 R76). -/
def execQueueCreate (w : Window) (q : Nat) (s : State) : Host.Outcome State Fault Refusal := done s (s.createCmd w q)

/-- ENABLE (03 R76). -/
def State.enableCmd (s : State) (w : Window) (q : Nat) : State :=
  s.stateCmd w q (fun st => st == .created || st == .quiesced) fun qk u => u.modQueue qk fun q => { q with st := .enabled }

/-- QUEUE_ENABLE (03 R76). -/
def execQueueEnable (w : Window) (q : Nat) (s : State) : Host.Outcome State Fault Refusal := done s (s.enableCmd w q)

/-- QUIESCE (03 R76). -/
def State.quiesceCmd (s : State) (w : Window) (q : Nat) : State :=
  s.stateCmd w q (fun st => st == .enabled) fun qk u => u.modQueue qk fun q => { q with st := .quiescing }

/-- QUEUE_QUIESCE (03 R76). -/
def execQueueQuiesce (w : Window) (q : Nat) (s : State) : Host.Outcome State Fault Refusal := done s (s.quiesceCmd w q)

/-! ### Destroying a queue (03 R96; 11 R312) -/

/-- End one task of a queue that is destroyed (03 R96.3 to R96.5): an uncommitted one is killed, a rerun or continuation
that waits is not admitted, an admin list starts no further command. -/
def State.destroyTask (s : State) (r : Nat) : State :=
  let t := s.task r
  let quiet := t.kind == .enq
  if t.kind = .admin then s.stopList r 0
  else match t.st, t.ending with
    | .killed, _ => s.claimRerun r quiet
    | .retired, .yield =>
      let s := (s.modTask r fun t => { t with ending := .commit }).vfTick t.fk 11 1
      if quiet then s.modQueue t.qk (Queue.give 1) else s.finishSub t.qk t.ord 0x16 0 false false false 0
    | _, _ => s.kill r (.fail 0x16) quiet

/-- A task that waits for a record is not admitted when its queue is destroyed. -/
def State.destroyWaiting (s : State) (qk : Nat) (t : Task) : State :=
  let s := s.vfTick t.fk 11 1
  if t.kind = .enq then s.modQueue qk (Queue.give 1) else s.finishSub qk t.ord 0x16 0 false false false 0

/-- DESTROY (03 R96): the queue is DESTROYING; unfetched slots are discarded, uncommitted work is killed, and work that
had committed gets no record. A fetched submission that was malformed or had failed before keeps its own status in its
record (DESIGN CHOICE, log 109). -/
def State.destroyQueue (s : State) (qk : Nat) : State :=
  let silent (f : Fin') : Fin' := if f.committed then { f with silent := true } else f
  let s := (s.endFetch qk).modQueue qk fun q => { q with
    st := .destroying, credHeld := q.credHeld - q.credited, credited := 0, needs := 0, unreadable := false, poisoned := false
    subs := q.subs.map fun x => { x with fin := x.fin.map silent } }
  let s := s.modXl fun x => { x with
    fails := x.fails.filter fun w => w.1 != .slots qk
    pri := x.pri.map fun r => { r with who := r.who.filter fun w => w != .slots qk } }
  let s := (s.recsWhere fun t => t.st != .empty && t.qk == qk).foldl State.destroyTask s
  let mine := s.waitTasks.filter fun t => t.qk == qk
  ({ s with waitTasks := s.waitTasks.filter fun t => t.qk != qk }).each mine fun u t => u.destroyWaiting qk t

/-- DESTROY (03 R76, R96). -/
def State.destroyCmd (s : State) (w : Window) (q : Nat) : State :=
  s.stateCmd w q (fun st => st == .created || st == .enabled || st == .quiescing || st == .quiesced) fun qk u => u.destroyQueue qk

/-- QUEUE_DESTROY (03 R76, R96). -/
def execQueueDestroy (w : Window) (q : Nat) (s : State) : Host.Outcome State Fault Refusal := done s (s.destroyCmd w q)

/-- QUEUE_QUIESCED (03 R76): nothing accepted is unretired and every ring-slot credit is free. -/
def execQueueQuiesced (f q : Nat) (s : State) : Host.Outcome State Fault Refusal :=
  let x := s.queue (qkey f q)
  done s (if x.st == .quiescing && x.waiting == 0 && x.subs.isEmpty && x.due.isEmpty && x.credHeld == 0 then
      s.modQueue (qkey f q) fun x => { x with st := .quiesced }
    else s)

/-- A queue's registers that software configures, at their reset values (02 R48). -/
def Queue.flrReset (q : Queue) : Queue :=
  { q with base := 0, size := 0, cplBase := 0, cfg := 0, cplHead := 0, c := 0, job := 0, kvage := 0, timeout := 0x000F4240#32, flr := false }

/-- QUEUE_ABSENT (03 R96.7, R69): every credit is free and the shadow is released. -/
def execQueueAbsent (f q : Nat) (s : State) : Host.Outcome State Fault Refusal :=
  let qk := qkey f q
  let x := s.queue qk
  done s (if x.st == .destroying && x.credHeld == 0 && x.subs.isEmpty && x.due.isEmpty then
      (((s.modQueue qk fun x =>
        let x := { x with st := .absent, shadow := [] }
        if x.flr then x.flrReset else x).each x.shadow State.freeUnit).dropX (fun w => w == .slots qk || w == .record qk)).modSto fun m => { m with overflow := m.overflow.erase qk }
    else s)

/-! ### Retirement (03 R87 to R95) -/

/-- The 32 bytes of a completion record (03 R90). -/
def Queue.recordBytes (q : Queue) (seq tid status mile : Nat) (summary : W64) (noTask enqueued : Bool) : List Byte :=
  leBytes 4 seq ++ leBytes 4 tid ++ leBytes 1 status ++ leBytes 1 q.gen ++
  leBytes 1 (b2n noTask * 4 + b2n enqueued * 2 + (1 - q.c / q.cplRing % 2)) ++ leBytes 1 0 ++ leBytes 4 mile ++
  leBytes 8 summary.toNat ++ leBytes 8 0

/-- The completion ring is full (03 R91). -/
def Queue.cplFull (q : Queue) : Bool := dist 24 q.c q.cplHead == q.cplRing

/-- A record that cannot be written is held, or counted in LOST (03 R94); status 0x15 is not limited (13 R354, R355). -/
def State.undelivered (s : State) (qk : Nat) (b : List Byte) : State :=
  let s := if (s.queue qk).held then s.modQueue qk fun q => { q with lost := satAdd 0xFFFFFFFF q.lost 1 }
    else (s.modQueue qk fun q => { q with held := true, heldRec := b }).geqPost { geqRec 0x15 0 with
      flags := 3, part := s.partOf (qk / 64), func := funcCode (qk / 64), queue := qk % 64
      taskId := leAt b 4 4, seq := leAt b 0 4, detail := (s.queue qk).c } none
  s.setErrBit qk

/-- Write a completion record (03 R90, R91, R94, R96.6): the state, and whether it is done with. A record refused for its
context cannot be written (11 R323; DESIGN CHOICE, log 118). -/
def State.writeRecord (s : State) (qk : Nat) (b : List Byte) : State × Bool :=
  let q := s.queue qk
  if q.cplFull then
    if q.st = .destroying then (s.modQueue qk fun q => { q with lost := satAdd 0xFFFFFFFF q.lost 1 }, true) else (s, false)
  else
    let a := (q.cplBase &&& ones 63 5).toNat + 32 * (q.c % q.cplRing)
    match s.tryRange (.record qk) (s.queueSpace qk) a 32 true with
    | (u, .ok _) =>
      if u.ctxBad (u.queueSpace qk) a 32 then (u.ctxRefuse.undelivered qk b, true)
      else ((u.hostWrite (u.queueSpace qk) a b).modQueue qk fun q => { q with c := (q.c + 1) % 2 ^ 24 }, true)
    | (u, .wait) => (u, false)
    | (u, .fail) => (u.undelivered qk b, true)

/-- A host submission retires (03 R87, R92): the milestone, the credits, the message. -/
def State.retireSub (s : State) (qk : Nat) (x : Sub) : State :=
  let s := (s.modQueue qk fun q => Queue.give x.slots { q with
    subs := q.subs.tail, due := q.due.tail, milestone := (q.milestone + 1) % 2 ^ 64 }).vfTick (qk / 64) 1 1
  if x.irq || bit (s.queue qk).cfg 1 then s.signalQueue qk else s

/-- An ENQUEUED record has been dealt with (03 R90 to R92): the credit that it held returns. -/
def State.retireEnq (s : State) (qk : Nat) (credit : Bool) : State :=
  let s := s.modQueue qk fun q => Queue.give (b2n credit) { q with due := q.due.tail }
  if bit (s.queue qk).cfg 1 then s.signalQueue qk else s

/-- SUBMISSION_RETIRE (03 R87, R90): the next record of the queue that is due. -/
def execSubmissionRetire (f q : Nat) (s : State) : Host.Outcome State Fault Refusal :=
  let qk := qkey f q
  let x := s.queue qk
  done s (match x.due with
    | .host :: _ => match x.subs with
      | sub :: _ => match sub.fin with
        | some fin =>
          if fin.silent then s.retireSub qk sub
          else
            let b := x.recordBytes sub.seq (if fin.noTask then 0 else sub.tid) fin.status ((x.milestone + 1) % 2 ^ 32) fin.summary fin.noTask false
            let u := s.writeRecord qk b
            if u.2 then u.1.retireSub qk sub else u.1
        | none => s
      | [] => s
    | .enq seq tid status summary credit :: _ =>
      let u := s.writeRecord qk (x.recordBytes seq tid status (x.milestone % 2 ^ 32) summary false true)
      if u.2 then u.1.retireEnq qk credit else u.1
    | [] => s)

/-- Q_CPL_HEAD_WRITE (03 R91): software has consumed records; a head that would lie too far behind is discarded. -/
def State.cplHeadSet (s : State) (qk h : Nat) : State :=
  let q := s.queue qk
  if q.cplRing < dist 24 q.c h then s.modQueue qk Queue.refuse else s.modQueue qk fun q => { q with cplHead := h }

/-- Q_CPL_HEAD_WRITE. -/
def execQCplHeadWrite (w : Window) (q : Nat) (v : W64) (s : State) : Host.Outcome State Fault Refusal :=
  done s (s.onQueue w q (0x1000 + q * 0x100 + 0x30) fun qk u => u.cplHeadSet qk (fld v 23 0))

/-- HELD_CLEAR (03 R95): the undelivered slot is empty. -/
def execHeldClear (w : Window) (q : Nat) (s : State) : Host.Outcome State Fault Refusal :=
  done s (s.onQueue w q (0x1000 + q * 0x100 + 0x60) fun qk u => u.modQueue qk fun q => { q with held := false, heldRec := [] })

/-! ### Function-level reset and the host link (02 R48, R49, R68) -/

/-- Function-level reset of a VF (02 R48): its queues are destroyed, its window returns to its reset values, its export
slots keep handle and vector and disarm without a message. -/
def State.flr (s : State) (vf : Nat) : State :=
  let s := s.each (s.liveQueues vf) fun u qk => if (u.queue qk).st = .destroying then u else u.destroyQueue qk
  let s := s.each (s.queues.map (·.1)) fun u qk =>
    if qk / 64 = vf then u.modQueue qk fun q => if q.st = .absent then q.flrReset else { q with flr := true } else u
  let s := s.modWps fun w => { w with lans := w.lans.filter fun l => match l.kind with
    | .slot fk _ => fk != vf
    | _ => true }
  s.modFunc vf fun f => { f with
    cmdResult := 0, errSum := 0, winDrop := 0, wpRefused := 0, wpStale := 0, msix := [], pend := 0
    slots := (f.slots.map (·.1)).foldl (fun (t : Tab Slot) k =>
      Tab.set {} t k { (Tab.get {} t k : Slot) with armed := false, target := 0 }) f.slots }

/-- VF_FLR (02 R48): of a VF that its host has enabled. -/
def execVfFlr (vf : Nat) (s : State) : Host.Outcome State Fault Refusal :=
  done s (if (List.range 4).any fun p => (s.func (pfKey p)).linkUp && (s.enabledVfs p).contains vf then s.flr vf else s)

/-- PF_FLR_WRITE (02 R49): ignored and counted. -/
def execPfFlrWrite (p : Nat) (s : State) : Host.Outcome State Fault Refusal :=
  done s (if (s.func (pfKey p)).linkUp then s.denied p else s)

/-- HOST_LINK_LOSS (02 R68): every enabled VF of PF `p` is handled as by an FLR, and its admin queues are destroyed. -/
def execHostLinkLoss (p : Nat) (s : State) : Host.Outcome State Fault Refusal :=
  done s (
    let s := (s.enabledVfs p).foldl State.flr s
    let s := s.each (s.liveQueues (pfKey p)) fun u qk => if (u.queue qk).st = .destroying then u else u.destroyQueue qk
    s.modFunc (pfKey p) fun f => { f with linkUp := false })

/-- HOST_LINK_RETURN (02 R68). -/
def execHostLinkReturn (p : Nat) (s : State) : Host.Outcome State Fault Refusal :=
  done s (s.modFunc (pfKey p) fun f => { f with linkUp := true })

end Sys2Proof.Machine
end

