-- ==== Sys2Proof/Machine/Tenancy.lean ====
section
/-! DEFINITION. Tenancy (02_tenancy_partitions.md R43 to R63): binding of VFs, VF ranges, partitions and their resize;
the writes of engine ports (07 R200, R207, R208, R214), slices (08 R221, R222) and placement loops (08 R243 to R245). -/

namespace Sys2Proof.Machine

/-- Every bit of a word. -/
def allBits : W64 := ones 63 0

/-! ### VFs (R43 to R46) -/

/-- The sum of QUEUE_QUOTA over the valid VFs other than `n`. -/
def State.quotaSum (s : State) (n : Nat) : Nat :=
  (s.funcs.map fun e => if e.1 < 1024 && e.1 != n && bit e.2.bind 31 then fld e.2.bind 23 16 else 0).sum

/-- The checks of a VF_BIND write in the manual's order (R45): the refusal code, 0 when it is accepted. -/
def State.bindCheck (s : State) (n : Nat) (new : W64) : Nat :=
  let old := (s.func n).bind
  let live := (s.liveQueues n).length
  if bit new 31 && (s.vfPort n).isNone then 0x02
  else if 64 < fld new 23 16 then 0x02
  else if !s.enabled (fld new 5 0) then 0x0C
  else if live != 0 && (fld new 5 0 != fld old 5 0 || (bit old 31 && !bit new 31) || fld new 23 16 < live) then 0x05
  else if bit new 31 && 16320 < s.quotaSum n + fld new 23 16 then 0x04
  else 0

/-- A write to VF_BIND[n] (R43, R45; 03 R73 VF_GEN). -/
def State.vfBindSet (s : State) (p n : Nat) (v mask : W64) : State :=
  let old := (s.func n).bind
  let new := merge old v (mask &&& (ones 31 31 ||| ones 23 16 ||| ones 5 0))
  let code := s.bindCheck n new
  if code ≠ 0 then s.refuse p code (0x20000 + 8 * n)
  else
    let moved := bit old 31 != bit new 31 || fld old 5 0 != fld new 5 0
    s.modFunc n fun f => { f with bind := new, bindGen := if moved then (f.bindGen + 1) % 65536 else f.bindGen }

/-- VF_BIND_WRITE (R45). -/
def execVfBindWrite (p n : Nat) (v : W64) (s : State) : Host.Outcome State Fault Refusal :=
  done s (s.opWrite p (0x20000 + 8 * n) fun t => if n < 1024 then t.vfBindSet p n v allBits else t)

/-- A write to VF_RANGE[port] (R43, R44). -/
def State.vfRangeSet (s : State) (p port : Nat) (v mask : W64) : State :=
  let new := merge ((s.func (pfKey port)).range.setWidth 64) v (mask &&& (ones 26 16 ||| ones 9 0))
  let b := fld new 9 0
  let c := fld new 26 16
  let meets (q : Nat) : Bool := q != port && c != 0 && s.vfCount q != 0 && b < s.vfBase q + s.vfCount q && s.vfBase q < b + c
  if (List.range 4).any meets then s.refuse p 0x03 (0x24000 + 8 * port)
  else if 1024 < b + c then s.refuse p 0x02 (0x24000 + 8 * port)
  else if (s.func (pfKey port)).vfEnable then s.refuse p 0x09 (0x24000 + 8 * port)
  else s.modFunc (pfKey port) fun f => { f with range := new.setWidth 32 }

/-- VF_RANGE_WRITE (R44). -/
def execVfRangeWrite (p port : Nat) (v : W64) (s : State) : Host.Outcome State Fault Refusal :=
  done s (s.opWrite p (0x24000 + 8 * port) fun t => if port < 4 then t.vfRangeSet p port v allBits else t)

/-! ### Partitions (R50 to R54) -/

/-- Offset of a register of partition `n`'s block. -/
def partOff (n r : Nat) : Nat := 0x10000 + n * 0x100 + r

/-- BASE of a PART_EXTENTS value (R52). -/
def extBase (x : W64) : Nat := fld x 19 0

/-- The moving resources still belong to the source of the resize, partition `n` (R59). -/
def State.rszHolds (s : State) (n : Nat) : Bool := s.rcv.rszPhase == 1 && s.rcv.src == some n

/-- Ports or banks that other enabled partitions hold, or that the resize in progress moves (R50, R53, R59). -/
def State.heldElsewhere (s : State) (n : Nat) (f : Part → W64) (moving : W64) : W64 :=
  ((List.range 64).filter fun m => m != n && s.enabled m).foldl (fun a m => a ||| f (s.part m))
    (if s.rcv.rszPhase = 0 || s.rszHolds n then 0 else moving)

/-- Threads of the resize in progress that no enabled partition's count holds and that its destination will hold, when
partition `n` is enabled as well (R50, R59; log 101). -/
def State.threadsMoving (s : State) (n : Nat) : Nat :=
  let on (m : Nat) : Bool := m == n || s.enabled m
  if s.rcv.rszPhase ≠ 0 && s.rcv.dst.any on && !(s.rcv.rszPhase == 1 && s.rcv.src.any on) then fld s.rcv.rszAct 24 16 else 0

/-- Threads of the enabled partitions other than `n`, and those in transit (R50). -/
def State.threadsOthers (s : State) (n : Nat) : Nat :=
  (((List.range 64).filter fun m => m != n && s.enabled m).map s.threadsCfg).sum + s.threadsMoving n

/-- The extent ranges of two partitions meet. -/
def extMeets (a b : W64) : Bool := extBase a < extBase b + extCount b && extBase b < extBase a + extCount a

/-- A port or bank of a bitmap is retired (13 R365). -/
def State.anyRetired (s : State) (kind : Nat) (v : W64) : Bool :=
  (bitsOf 64 v).any fun i => (s.chan (ckey kind i)).retired

/-- The checks of an enable in the manual's order (R53). -/
def State.enableCheck (s : State) (n : Nat) (new : W64) : Nat :=
  let p := s.part n
  if p.engines == 0 || p.banks == 0 || fld new 40 32 == 0 || extCount p.extents == 0 then 0x0A
  else if p.engines &&& s.heldElsewhere n (·.engines) s.rcv.rszMovE != 0 || p.banks &&& s.heldElsewhere n (·.banks) s.rcv.rszMovB != 0 ||
      ((List.range 64).any fun m => m != n && s.enabled m && extMeets p.extents (s.part m).extents) then 0x03
  else if 1048576 < extBase p.extents + extCount p.extents || 256 < fld new 40 32 + s.threadsOthers n then 0x04
  else if s.anyRetired 1 p.engines || s.anyRetired 3 p.banks then 0x0B
  else 0

/-- The checks of a PART_CFG write (R42, R53, R54): the refusal code, 0 when it is accepted. DESIGN CHOICES (log 101):
THREADS above 256 and a reserved MODE are refused with OUT_OF_RANGE; a partition that a resize names may be disabled,
and the resize goes on. -/
def State.cfgCheck (s : State) (n : Nat) (new : W64) : Nat :=
  let old := (s.part n).cfg
  if bit old 0 && (fld new 40 32 != fld old 40 32 || fld new 9 8 != fld old 9 8) then 0x07
  else if bit old 0 && !bit new 0 && !(s.boundVfs n).isEmpty then 0x06
  else if 256 < fld new 40 32 || 1 < fld new 9 8 then 0x02
  else if !bit old 0 && bit new 0 then s.enableCheck n new
  else 0

/-- What an enable starts (08 R221, R243; 07 R213, R214; 15 R420). -/
def State.partEnabled (s : State) (n : Nat) : State :=
  ((s.modPart n fun p => { p with slices := 0, prev := none, portLost := false, cvy := { p.cvy with restart := true } }).recomputeStep n).bumpReport

/-- What a disable does to the partition's key slots and to the report (15 R415, R420). -/
def State.partDisabled (s : State) (n : Nat) : State := (s.withdrawKeys fun k => k.part == n).bumpReport

/-- A write to PART_CFG[n] (R52 to R54). -/
def State.partCfgSet (s : State) (p n : Nat) (v mask : W64) : State :=
  let old := (s.part n).cfg
  let new := merge old v (mask &&& (ones 40 32 ||| ones 9 8 ||| ones 0 0))
  let code := s.cfgCheck n new
  if code ≠ 0 then s.refuse p code (partOff n 0)
  else
    let s := s.modPart n fun q => { q with cfg := new }
    if !bit old 0 && bit new 0 then s.partEnabled n
    else if bit old 0 && !bit new 0 then s.partDisabled n
    else s

/-- A write to PART_CFG[n] by PF `p`. -/
def State.partWrite (s : State) (p n : Nat) (v : W64) : State :=
  s.opWrite p (partOff n 0) fun t => if n < 64 then t.partCfgSet p n v allBits else t

/-- PARTITION_ENABLE (R53). -/
def execPartitionEnable (p n : Nat) (v : W64) (s : State) : Host.Outcome State Fault Refusal := done s (s.partWrite p n v)

/-- PARTITION_DISABLE (R54). -/
def execPartitionDisable (p n : Nat) (v : W64) (s : State) : Host.Outcome State Fault Refusal := done s (s.partWrite p n v)

/-- A write to PART_ENGINES, PART_BANKS or PART_EXTENTS (R52, R54): refused while the partition is enabled, and COUNT
above 1,048,576 with OUT_OF_RANGE (DESIGN CHOICE, log 101). -/
def State.partResSet (s : State) (p n r : Nat) (v mask : W64) : State :=
  let old := if r = 0x08 then (s.part n).engines else if r = 0x10 then (s.part n).banks else (s.part n).extents
  let new := merge old v (mask &&& (if r = 0x18 then ones 52 32 ||| ones 19 0 else allBits))
  if s.enabled n then s.refuse p 0x07 (partOff n r)
  else if r = 0x18 && 1048576 < extCount new then s.refuse p 0x02 (partOff n r)
  else
    let s := s.modPart n fun q =>
      if r = 0x08 then { q with engines := new } else if r = 0x10 then { q with banks := new } else { q with extents := new }
    if r = 0x08 then s.recomputeStep n else s

/-! ### Resize (R57 to R63) -/

/-- A source or destination named by RESIZE_CTRL: none when its NONE bit is set. -/
def rszSrc (v : W64) : Option Nat := if bit v 6 then none else some (fld v 5 0)
/-- Destination named by RESIZE_CTRL. -/
def rszDst (v : W64) : Option Nat := if bit v 14 then none else some (fld v 13 8)

/-- Bits that are in no enabled partition and not on the way to one. -/
def State.unassigned (s : State) (v : W64) (f : Part → W64) (moving : W64) : Bool := v &&& s.heldElsewhere 64 f moving == 0

/-- The start checks of a resize in the manual's order (R58). -/
def State.rszCheck (s : State) (v : W64) : Nat :=
  let e := s.rcv.rszEngines
  let b := s.rcv.rszBanks
  let th := fld v 24 16
  let on (o : Option Nat) : Bool := match o with
    | some n => s.enabled n
    | none => true
  if !(on (rszSrc v) && on (rszDst v)) then 0x0C
  else if (bit v 6 && bit v 14) || (!bit v 6 && !bit v 14 && fld v 5 0 == fld v 13 8) then 0x03
  else if (match rszSrc v with
      | some n => e &&& ~~~(s.part n).engines != 0 || b &&& ~~~(s.part n).banks != 0
      | none => !(s.unassigned e (·.engines) s.rcv.rszMovE && s.unassigned b (·.banks) s.rcv.rszMovB)) then 0x03
  else if s.anyRetired 1 e || s.anyRetired 3 b then 0x0B
  else match rszSrc v with
    | some n =>
      if (s.part n).engines &&& ~~~e == 0 || (s.part n).banks &&& ~~~b == 0 || s.threadsCfg n == th then 0x0A
      else if s.threadsCfg n < th then 0x04 else 0
    | none => if 256 < s.threadsOthers 64 + th then 0x04 else 0

/-- Change THREADS of partition `n`. -/
def State.setThreads (s : State) (n th : Nat) : State :=
  s.modPart n fun p => { p with cfg := (p.cfg &&& ~~~ones 40 32) ||| pack [(32, th)] }

/-- Send CLEAR to each moving port that is not retired, enabled or not (R60, 07 R207). With ENGINES 0 no port has ever
been used and no message is sent (00 R11): no clear is awaited (log 103). -/
def State.clearMoving (s : State) : State :=
  s.each (bitsOf 64 s.rcv.rszMovE) fun u k =>
    if u.latch.engines && !(u.eport k).retired then u.clearPort k else u.modRcv fun x => { x with rszCleared := setBit x.rszCleared k }

/-- The source step (R59, R60): the moving resources leave the source, and scrub and engine clear begin. -/
def State.sourceStep (s : State) : State :=
  let x := s.rcv
  let s := s.clearMoving
  let s := match x.src with
    | some n => ((s.modPart n fun p => { p with engines := p.engines &&& ~~~x.rszMovE, banks := p.banks &&& ~~~x.rszMovB }).setThreads n
        (s.threadsCfg n - fld x.rszAct 24 16)).recomputeStep n
    | none => s
  s.modRcv fun x => { x with rszPhase := 2 }

/-- RESIZE_CTRL's stored fields (R57). -/
def rszFields : W64 := ones 24 16 ||| ones 14 8 ||| ones 6 0

/-- A write to RESIZE_CTRL (R57, R58, R61). A write with GO while a resize is in progress changes nothing; with GO set,
CANCEL does nothing. -/
def State.resizeSet (s : State) (p : Nat) (v mask : W64) : State :=
  let new := merge (s.rcv.rszCtrl.setWidth 64) v (mask &&& rszFields)
  let w := v &&& mask
  if bit w 31 then
    if s.rcv.rszPhase ≠ 0 then s.refuse p 0x08 0x14000
    else
      let code := s.rszCheck new
      let s := s.modRcv fun x => { x with rszCtrl := new.setWidth 32, rszResult := code, rszRetired := false }
      if code ≠ 0 then s
      else
        let s := s.modRcv fun x => { x with
          rszPhase := 1, rszAct := new.setWidth 32, rszMovE := x.rszEngines, rszMovB := x.rszBanks, rszScrubbed := 0, rszCleared := 0 }
        if bit new 6 then s.sourceStep else s
  else
    let s := s.modRcv fun x => { x with rszCtrl := new.setWidth 32 }
    if bit w 30 && s.rcv.rszPhase == 1 then s.modRcv fun x => { x with rszPhase := 0, rszResult := 2 } else s

/-- RESIZE_GO (R58). -/
def execResizeGo (p : Nat) (v : W64) (s : State) : Host.Outcome State Fault Refusal :=
  done s (s.opWrite p 0x14000 fun t => t.resizeSet p v allBits)

/-- RESIZE_CANCEL (R61). -/
def execResizeCancel (p : Nat) (v : W64) (s : State) : Host.Outcome State Fault Refusal :=
  done s (s.opWrite p 0x14000 fun t => t.resizeSet p v allBits)

/-- The partition is at a boundary for the resize; where none is named, always. -/
def State.atBoundary (s : State) (o : Option Nat) : Bool := match o with
  | some n => s.between n
  | none => true

/-- RESIZE_SOURCE_STEP (R59). -/
def execResizeSourceStep (s : State) : Host.Outcome State Fault Refusal :=
  done s (if s.srcReady && s.atBoundary s.rcv.src then s.sourceStep else s)

/-- Every word of bank `b` is overwritten with zero (R60): 8,192 pages. -/
def Mem.zeroBank (m : Mem) (b : Nat) : Mem :=
  let lo := b * 8192
  { cells := m.cells.filter fun c => c.1 / 33554432 != b
    zero := (m.zero.filter (· < lo)) ++ (List.range 8192).map (lo + ·) ++ m.zero.filter (lo + 8192 ≤ ·)
    bad := m.bad.filter fun w => w / 1048576 != b
    upset := m.upset.filter fun e => e.1 / 35 / 1048576 != b }

/-- SCRUB_COMPLETE (R60). -/
def execScrubComplete (bank : Nat) (s : State) : Host.Outcome State Fault Refusal :=
  done s (if s.rcv.rszPhase == 2 && bank < 64 && bit s.rcv.rszMovB bank && !bit s.rcv.rszScrubbed bank then
      (s.modSto fun m => { m with ws := m.ws.zeroBank bank }).modRcv fun x => { x with rszScrubbed := setBit x.rszScrubbed bank }
    else s)

/-- The destination step (R59, R63; 07 R213, R214; 08 R243; 15 R420): the moving resources join the destination. -/
def State.destinationStep (s : State) : State :=
  let x := s.rcv
  let s := match x.dst with
    | some n => ((s.modPart n fun p => { p with
        engines := p.engines ||| x.rszMovE, banks := p.banks ||| x.rszMovB, portLost := false
        cvy := { p.cvy with restart := true } }).setThreads n (s.threadsCfg n + fld x.rszAct 24 16)).recomputeStep n
    | none => s
  (s.modRcv fun x => { x with rszPhase := 0, rszResult := 1 }).bumpReport

/-- RESIZE_DESTINATION_STEP (R59). -/
def execResizeDestinationStep (s : State) : Host.Outcome State Fault Refusal :=
  done s (if s.dstReady && s.atBoundary s.rcv.dst then s.destinationStep else s)

/-- The step of a resize that is due at partition `n`'s boundary (08 R228, order 2; 02 R59). -/
def State.resizeAt (s : State) (n : Nat) : State :=
  if s.srcReady && s.rcv.src == some n then s.sourceStep
  else if s.dstReady && s.rcv.dst == some n then s.destinationStep
  else s

/-- DRAIN_COMPLETE (08 R223, R228): the drain of partition `n` has ended, its reruns are ADMITTED for the next slice
(DEDUCED, log 63), a step of the resize that is due is made, and staged firmware is switched to. -/
def execDrainComplete (n : Nat) (s : State) : Host.Outcome State Fault Refusal :=
  done s (
    let s := s.idleEnd n
    if (s.part n).draining && !s.resetHolds n && s.drainOver n && !s.rerunsDue n then
      ((((s.dropConvoy n).modPart n fun p => { p with draining := false, job := none }).resizeAt n).fwSwap n).oneBump s.sec.reportGen
    else s)

/-! ### Engine ports (07 R199, R200, R207, R208, R214) -/

/-- Offset of a register of engine port `k`'s block. -/
def eportOff (k r : Nat) : Nat := 0x18000 + k * 0x20 + r

/-- A write of RESET (07 R208): the tasks of the running dispatches that use the port are killed, then its credits
return and CLEAR is sent. -/
def State.eportReset (s : State) (k : Nat) : State :=
  if (s.eport k).retired then s
  else match s.portPart k with
    | some n => (((s.dispTasks n fun d => d.running && (d.lport k).isSome).foldl State.killRerun s).resetPort k).settleStops n
    | none => s.resetPort k

/-- A write to EPORT_CTRL[k] (07 R200, R213, R214). -/
def State.eportSet (s : State) (k : Nat) (v mask : W64) : State :=
  let old := (s.eport k).enable
  let en := if bit mask 0 then bit v 0 else old
  let s := s.modPort k fun e => { e with enable := en, asked := e.asked && en }
  let s := if old = en then s else (if en then s.sendIdentReq k else s).recomputePort k
  if bit (v &&& mask) 1 then s.eportReset k else s

/-- A write to EPORT_CTRL[k] by PF `p`. -/
def State.eportWrite (s : State) (p k : Nat) (v : W64) : State :=
  s.opWrite p (eportOff k 0) fun t => if k < 64 then t.eportSet k v allBits else t

/-- EPORT_ENABLE (07 R200). -/
def execEportEnable (p k : Nat) (v : W64) (s : State) : Host.Outcome State Fault Refusal := done s (s.eportWrite p k v)

/-- EPORT_RESET (07 R208). -/
def execEportReset (p k : Nat) (v : W64) (s : State) : Host.Outcome State Fault Refusal := done s (s.eportWrite p k v)

/-! ### Slices and placement loops (08 R221, R222, R243 to R245) -/

/-- A write to PART_SLICE[n] (08 R219, R221, R222). -/
def State.sliceSet (s : State) (p n : Nat) (v mask : W64) : State :=
  let us := fld (merge (BitVec.ofNat 64 (s.part n).sliceUs) v (mask &&& ones 19 0)) 19 0
  if us < 100 ∨ 1000000 < us then s.refuse p 0x02 (partOff n 0x28)
  else
    let s := s.modPart n fun q => { q with sliceUs := us }
    if bit (v &&& mask) 31 then s.endSlice n else s

/-- END_NOW (08 R219): a write to PART_SLICE[n]. -/
def execEndNow (p n : Nat) (v : W64) (s : State) : Host.Outcome State Fault Refusal :=
  done s (s.opWrite p (partOff n 0x28) fun t => if n < 64 then t.sliceSet p n v allBits else t)

/-- The limits of R245 on the loop registers ADPT_CVY_CFG and ADPT_CVY_LIM. -/
def loopOk (cfg lim : W64) : Bool :=
  let budget := fld cfg 16 0
  let cmin := fld lim 47 32
  1024 ≤ budget && budget ≤ 65536 && cmin % 16 == 0 && 16 ≤ cmin && cmin ≤ fld lim 63 48 && fld lim 31 16 ≤ budget && cmin ≤ budget

/-- A write to a loop register of partition `n` at offset `r` of its block (08 R243 to R245). -/
def State.loopSet (s : State) (p n r : Nat) (v mask : W64) : State :=
  let c := (s.part n).cvy
  let put (k : Nat) (old rw : W64) : W64 := if r = k then merge old v (mask &&& rw) else old
  let cfg := put 0x00 c.cfg (ones 63 48 ||| ones 31 31 ||| ones 16 0)
  let lim := put 0x08 c.lim (ones 63 16)
  if !loopOk cfg lim then s.refuse p 0x02 (0x84000 + n * 0x40 + r)
  else s.modPart n fun q => { q with cvy := { q.cvy with
    cfg := cfg, lim := lim, gain := put 0x10 c.gain allBits, tgt := put 0x18 c.tgt (ones 47 0)
    restart := q.cvy.restart || (r == 0 && bit (v &&& mask) 32) } }

/-- LOOP_RESTART (08 R243): a write to ADPT_CVY_CFG[n]. -/
def execLoopRestart (p n : Nat) (v : W64) (s : State) : Host.Outcome State Fault Refusal :=
  done s (s.opWrite p (0x84000 + n * 0x40) fun t => if n < 64 then t.loopSet p n 0 v allBits else t)

end Sys2Proof.Machine
end

