-- ==== Sys2Proof/Machine/Admin.lean ====
section
/-! DEFINITION. Admin command lists (11 R312 to R316, R326; 12 R337 to R339, R345, R347): the executor, its checks in the
manual's order, and the twelve commands. -/

namespace Sys2Proof.Machine

/-! ### Checks -/

/-- The first condition of a list that applies: its status and DETAIL, (0, 0) when none does. -/
def firstBad : List (Bool × Nat × Nat) → Nat × Nat
  | [] => (0, 0)
  | (c, r) :: l => if c then r else firstBad l

/-- Bytes of a command outside OP, RESULT_ADDR and the fields listed are zero (R313). -/
def layoutOk (used : List (Nat × Nat)) (b : List Byte) : Bool :=
  (List.range 64).all fun i =>
    i == 0 || (8 ≤ i && i < 16) || (used.any fun u => u.1 ≤ i && i < u.1 + u.2) || b.getD i 0 == 0

/-- PF `p` may name VF `v`: in its range, or as the Operator PF (R315). -/
def State.mayName (s : State) (p v : Nat) : Bool := s.isOp p || s.vfPort v == some p

/-- The VF is unbound or its partition is disabled (R315). -/
def State.unboundVf (s : State) (v : Nat) : Bool := !(s.bound v && s.enabled (s.bindPart v))

/-- RESULT_ADDR of a command. -/
def resAddr (b : List Byte) : Nat := leAt b 8 8

/-- RESULT_ADDR is not 16-byte aligned. -/
def resBad (b : List Byte) : Bool := resAddr b % 16 != 0

/-- The rows of R315 about a named object: range and number, creator, state. -/
def State.objRows (s : State) (p n : Nat) (creator query : Bool) : List (Bool × Nat × Nat) :=
  let o := s.obj n
  [(o.st != .free && !s.mayName p o.vf, 0x18, 0), (o.st == .free || 262144 ≤ n, 0x18, 0),
   (creator && o.pf != p && !s.isOp p, 0x18, 0), (o.st == .released || (!query && o.st == .closing), 0x13, 0)]

/-! ### The executor (R312, R314, R315) -/

/-- How a command ends: the state and VALUE, or a status and DETAIL. -/
inductive AdmEnd where
  | ok (s : State) (value : Nat)
  | fail (status detail : Nat)

/-- One admin command: its OP, the bytes of its fields, the rows of its checks up to the translation row, the ranges it
reads and writes in the admin queue's space, and its effect in one grant for the issuing PF. -/
structure AdmCmd where
  op : Nat
  used : List (Nat × Nat)
  rows : Nat → List Byte → State → List (Bool × Nat × Nat)
  reads : List Byte → List (Nat × Nat) := fun _ => []
  writes : List Byte → State → List (Nat × Nat) := fun _ _ => []
  act : Nat → Space → List Byte → State → AdmEnd

/-- Write a result record (R314). -/
def State.writeResult (s : State) (sp : Space) (b : List Byte) (status detail value : Nat) : State :=
  if resAddr b = 0 ∨ resBad b then s
  else s.hostWrite sp (resAddr b) (leBytes 1 status ++ leBytes 1 detail ++ leBytes 6 0 ++ leBytes 8 value)

/-- A command fails: its result record is written and the list stops (R312). -/
def State.admFail (s : State) (r : Nat) (sp : Space) (b : List Byte) (status detail : Nat) : State :=
  (s.writeResult sp b status detail 0).finishList r status detail

/-- A command has completed (R312): the next one is read afresh; the list ends after its last command, or where no
further command may start. -/
def State.admNext (s : State) (r : Nat) : State :=
  let g := (s.task r).gen
  let s := (s.dropX (Who.ofTask r g)).modTask r fun t => { t with admDone := t.admDone + 1, admBusy := false, ctx := { t.ctx with pc := t.ctx.pc + 4 }, lines := [], got := [] }
  let t := s.task r
  if t.progLen ≤ t.ctx.pc then s.finishList r 0 0
  else if t.admStop then s.finishList r t.cstat 0
  else s

/-- Ranges in one space. -/
def inSpace (sp : Space) (l : List (Nat × Nat)) : List (Space × Nat × Nat) := l.map fun x => (sp, x.1, x.2)

/-- Run a command whose bytes are `b` (R314, R315). -/
def State.admRun (s : State) (r : Nat) (c : AdmCmd) (b : List Byte) : State :=
  let t := s.task r
  let p := t.fk - 1024
  let sp := s.queueSpace t.qk
  let (st, dt) := if leAt b 0 1 = c.op ∧ layoutOk c.used b then firstBad (c.rows p b s) else (0x19, 0x01)
  match s.tryWrites (.op r t.gen 0) (inSpace sp (if resAddr b = 0 ∨ resBad b then [] else [(resAddr b, 16)])) with
  | .wait u => u
  | .fail u f => u.finishList r (if st = 0 then f else st) (if st = 0 then 0 else dt)
  | .ok u =>
    if st ≠ 0 then u.admFail r sp b st dt
    else match u.fetchSegs (.op r t.gen 1) (inSpace sp (c.reads b)) with
      | .wait v => v
      | .fail v f => v.admFail r sp b f 0
      | .ok v => match v.tryWrites (.op r t.gen 1) (inSpace sp (c.writes b v)) with
        | .wait w => w
        | .fail w f => w.admFail r sp b f 0
        | .ok w => match c.act p sp b w with
          | .fail st dt => w.admFail r sp b st dt
          | .ok x value => (x.writeResult sp b 0 0 value).admNext r

/-- The bytes of a route word. -/
def wordBytes (w : W128) : List Byte := leBytes 16 w.toNat

/-- The 64 bytes of the command at the list's position. -/
def Task.command (t : Task) : List Byte := (List.range 4).flatMap fun i => wordBytes (t.word (t.ctx.pc + i))

/-- The list may go on (R312, R371): it is an admin list that has not ended, and no whole reset pauses it between two
commands. -/
def State.listRuns (s : State) (r : Nat) : Bool :=
  let t := s.task r
  t.kind == .admin && (t.st == .admitted || t.st == .running) && (!(s.rcv.whole && s.rcv.phase != 0) || s.adminBusy r)

/-- Read the list's next command and run it, if it is this one (R312). An unknown OP fails. -/
def State.admin (s : State) (r : Nat) (c : AdmCmd) : State :=
  if !s.listRuns r then s
  else if (s.task r).progLen % 4 ≠ 0 then s.finishList r 0x19 0
  else
    let s0 := (s.runList r).modTask r fun t => { t with admBusy := true }
    let pc := (s.task r).ctx.pc
    match s0.bringLine r pc with
    | .wait u => u
    | .fail u f => u.finishList r f 0
    | .ok u => match u.bringLine r (pc + 3) with
      | .wait v => v
      | .fail v f => v.finishList r f 0
      | .ok v =>
        let b := (v.task r).command
        let o := leAt b 0 1
        if o = c.op ∨ o = 0 ∨ 0x0C < o then v.admRun r c b else s

/-! ### Objects (R311, R313 to R316) -/

/-- The entries of a partition's extent range that objects hold: first entry and number (R303). -/
def State.runs (s : State) (n : Nat) : List (Nat × Nat) :=
  s.objs.tab.filterMap fun e => if (e.2.st == .opened || e.2.st == .closing) && e.2.part == n then some (e.2.run, e.2.extMax) else none

/-- Pages for `total` pages of an object in extents of `span` pages each, all or none; `fuel` bounds their number. -/
def State.allocExts (s : State) (n place keep span : Nat) : Nat → Nat → Option (List PageRef × State)
  | 0, _ => some ([], s)
  | fuel + 1, total =>
    if total = 0 then some ([], s)
    else match s.allocPages n place keep (min span total) with
      | none => none
      | some (ps, t) => match t.allocExts n place keep span fuel (total - min span total) with
        | none => none
        | some (qs, u) => some (ps ++ qs, u)

/-- The lowest free run of `k` entries in partition `n`'s range (R303). -/
def State.findRun (s : State) (n k : Nat) : Option Nat :=
  let rs := s.runs n
  least ((0 :: rs.map fun x => x.1 + x.2).filter fun a =>
    a + k ≤ extCount (s.part n).extents && rs.all fun x => x.1 + x.2 ≤ a || a + k ≤ x.1)

/-- The number that OBJ_CREATE takes (R297): the lowest FREE one, then the RELEASED one released first. -/
def State.objNumber (s : State) : Option Nat :=
  if s.objs.next < 262144 then some s.objs.next else s.objs.released.head?

/-- Pages per extent that a creation maps: a slot of a KV object, a 64 KiB region of another (R315). -/
def extSpan (attr plog : Nat) : Nat := if attr.testBit 1 then 2 ^ plog else 16

/-- A list of pages as extents of at most `k` pages from page `off` upward. -/
def extsOf : Nat → Nat → Nat → List PageRef → List Ext
  | 0, _, _, _ => []
  | fuel + 1, k, off, l => if l.isEmpty then [] else
    { off := off, len := (l.take k).length, store := .pages (l.take k) } :: extsOf fuel k (off + k) (l.drop k)

/-- The combinations that R300 and R313 exclude, and values out of range. -/
def createBad (b : List Byte) : Bool :=
  let place := leAt b 0x12 1
  let attr := leAt b 0x13 1
  let plog := leAt b 0x14 1
  let rpg := leAt b 0x18 4
  let init := leAt b 0x1C 4
  let em := leAt b 0x20 2
  let scratch := attr.testBit 0
  let kv := attr.testBit 1
  resBad b || place == 0 || 4 < place || 7 < attr || rpg == 0 || 2 ^ 27 < rpg || rpg < init || em == 0 ||
  ((scratch || kv) && place == 4) || (scratch && (kv || attr.testBit 2)) || (scratch && init != rpg) ||
  (kv && (8 < plog || rpg % 2 ^ plog != 0 || init % 2 ^ plog != 0)) || (!kv && plog != 0) || (place == 4 && init != 0) ||
  (place != 4 && leAt b 0x24 4 != 0)

/-- The rows of OBJ_CREATE. -/
def createRows (p : Nat) (b : List Byte) (s : State) : List (Bool × Nat × Nat) :=
  let v := leAt b 0x10 2
  let n := s.bindPart v
  let init := leAt b 0x1C 4
  [(1024 ≤ v || leAt b 0x24 4 / 2 ^ 20 % 2 ^ 11 != 0, 0x19, 0x01), (!s.mayName p v, 0x18, 0), (s.unboundVf v, 0x19, 0x07),
   (createBad b, 0x19, 0x01), (s.objNumber.isNone, 0x19, 0x02),
   ((s.findRun n (leAt b 0x20 2)).isNone || leAt b 0x20 2 < ceilDiv init (extSpan (leAt b 0x13 1) (leAt b 0x14 1)), 0x19, 0x03),
   ((s.allocExts n (leAt b 0x12 1) (s.wsKeep n) (extSpan (leAt b 0x13 1) (leAt b 0x14 1)) init init).isNone, 0x19, 0x04)]

/-- OBJ_CREATE (R297, R300, R303, R315). -/
def createAct (p : Nat) (_ : Space) (b : List Byte) (s : State) : AdmEnd :=
  let v := leAt b 0x10 2
  let n := s.bindPart v
  let init := leAt b 0x1C 4
  let em := leAt b 0x20 2
  match s.objNumber, s.findRun n em, s.allocExts n (leAt b 0x12 1) (s.wsKeep n) (extSpan (leAt b 0x13 1) (leAt b 0x14 1)) init init with
  | some k, some run, some (pages, u) =>
    let o : Obj :=
      { st := .opened, vf := v, part := n, pf := p, place := leAt b 0x12 1, attr := leAt b 0x13 1, plog := leAt b 0x14 1
        reservedPg := leAt b 0x18 4, extMax := em, pasid := BitVec.ofNat 32 (leAt b 0x24 4)
        exts := extsOf init (extSpan (leAt b 0x13 1) (leAt b 0x14 1)) 0 pages, run := run }
    let u := (u.zeroPages pages).modObj k fun _ => o
    .ok { u with objs := { u.objs with next := max u.objs.next (k + 1), released := u.objs.released.filter (· != k) } } k
  | _, _, _ => .fail 0x19 0x04

/-- The command OBJ_CREATE. -/
def cmdObjCreate : AdmCmd :=
  { op := 0x01, used := [(0x10, 5), (0x18, 10), (0x24, 4)], rows := createRows, act := createAct }

/-- OBJ_CREATE (R315). -/
def execObjCreate (r : Nat) (s : State) : Host.Outcome State Fault Refusal := done s (s.admin r cmdObjCreate)

/-- Close every window onto an object (R311). -/
def State.closeWins (s : State) (n : Nat) : State :=
  s.each (s.funcs.map (·.1)) fun u fk => u.modFunc fk fun f =>
    { f with wins := f.wins.map fun w => (w.1, if w.2.obj = n then { w.2 with isOpen := false } else w.2) }

/-- The command OBJ_FREE (R311). -/
def cmdObjFree : AdmCmd :=
  { op := 0x02, used := [(0x10, 4)]
    rows := fun p b s => s.objRows p (leAt b 0x10 4) true false ++ [(resBad b, 0x19, 0x01)]
    act := fun _ _ b s =>
      let n := leAt b 0x10 4
      .ok (((s.modObj n fun o => { o with st := .closing }).closeWins n).settleObj n) 0 }

/-- OBJ_FREE (R311). -/
def execObjFree (r : Nat) (s : State) : Host.Outcome State Fault Refusal := done s (s.admin r cmdObjFree)

/-- A record of EXT_SET (R302): offset, length and I/O virtual address; `none` where a field is out of range. -/
def extRecord (l : List Byte) : Option Ext :=
  let a := leAt l 0 8
  let x := leAt l 8 8
  if a / 256 % 16 = 3 ∧ a % 256 = 0 ∧ x / 2 ^ 51 = 0 ∧ x / 2 ^ 27 ≠ 0 then
    some { off := x % 2 ^ 27, len := x / 2 ^ 27, store := .host (a / 4096 * 4096) }
  else none

/-- The records of a list of `k`; `none` where one is bad. -/
def extRecords : Nat → List Byte → Option (List Ext)
  | 0, _ => some []
  | k + 1, l => match extRecord l, extRecords k (l.drop 16) with
    | some e, some es => some (e :: es)
    | _, _ => none

/-- Two extents cover a common page. -/
def Ext.meets (a b : Ext) : Bool := a.off < b.off + b.len && b.off < a.off + a.len

/-- Every extent of a list meets none of those after it, nor any of `old`. -/
def extsApart (old : List Ext) : List Ext → Bool
  | [] => true
  | e :: l => !((old ++ l).any e.meets) && extsApart old l

/-- EXT_SET (R302, R315, R316): every record or none. -/
def extSetAct (_ : Nat) (sp : Space) (b : List Byte) (s : State) : AdmEnd :=
  let n := leAt b 0x10 4
  let k := leAt b 0x14 4
  let data := s.hostGet sp (leAt b 0x18 8) (16 * k)
  if poisonStatus data ≠ 0 then .fail 0x17 0
  else match extRecords k (plain data) with
    | none => .fail 0x19 0x01
    | some es =>
      if (s.obj n).reservedPg < (es.map fun e => e.off + e.len).foldl max 0 || !extsApart (s.obj n).exts es then .fail 0x19 0x05
      else
        let u := s.modObj n fun o => { o with exts := es.foldl (fun a e => insertExt e a) o.exts }
        .ok u (u.obj n).exts.length

/-- The command EXT_SET. -/
def cmdExtSet : AdmCmd :=
  { op := 0x03, used := [(0x10, 16)]
    rows := fun p b s =>
      let o := s.obj (leAt b 0x10 4)
      let k := leAt b 0x14 4
      s.objRows p (leAt b 0x10 4) true false ++
        [(resBad b || k == 0 || 1024 < k || leAt b 0x18 8 % 16 != 0, 0x19, 0x01), (o.place != 4, 0x19, 0x06),
         (o.extMax < o.exts.length + k, 0x19, 0x03)]
    reads := fun b => [(leAt b 0x18 8, 16 * leAt b 0x14 4)]
    act := extSetAct }

/-- EXT_SET (R316). -/
def execExtSet (r : Nat) (s : State) : Host.Outcome State Fault Refusal := done s (s.admin r cmdExtSet)

/-- The drafts of extents that are removed are not written back (R316). -/
def Task.loseDrafts (n : Nat) (gone : List Ext) (t : Task) : Task :=
  { t with drafts := t.drafts.map fun d =>
      if d.obj = n ∧ d.kind = .host ∧ gone.any (fun e => e.off == d.off) then { d with lost := true } else d }

/-- EXT_CLEAR (R315, R316): the extents that lie wholly in the range; a range that cuts an extent is refused. -/
def extClearAct (_ : Nat) (_ : Space) (b : List Byte) (s : State) : AdmEnd :=
  let n := leAt b 0x10 4
  let lo := leAt b 0x14 4
  let hi := lo + leAt b 0x18 4
  let inside (e : Ext) : Bool := lo ≤ e.off && e.off + e.len ≤ hi
  let exts := (s.obj n).exts
  if exts.any fun e => !inside e && e.off < hi && lo < e.off + e.len then .fail 0x19 0x05
  else .ok ((s.each (s.tasks.map (·.1)) fun u r => u.modTask r (Task.loseDrafts n (exts.filter inside))).modObj n fun o =>
    { o with exts := o.exts.filter fun e => !inside e }) (exts.filter inside).length

/-- The command EXT_CLEAR. -/
def cmdExtClear : AdmCmd :=
  { op := 0x04, used := [(0x10, 12)]
    rows := fun p b s => s.objRows p (leAt b 0x10 4) false false ++
      [(resBad b, 0x19, 0x01), ((s.obj (leAt b 0x10 4)).place != 4, 0x19, 0x06)]
    act := extClearAct }

/-- EXT_CLEAR (R316). -/
def execExtClear (r : Nat) (s : State) : Host.Outcome State Fault Refusal := done s (s.admin r cmdExtClear)

/-- The 16 bytes of an extent record (R302). Where an extent's pages do not follow one another (R301 takes them page by
page), ADDR is that of the first (DESIGN CHOICE, log 59). -/
def Ext.bytes (e : Ext) : List Byte :=
  let a : Nat := match e.store with
    | .host iova => iova / 4096 * 4096 + 3 * 256
    | .pages (.ws p :: _) => p * 4096 + 1 * 256
    | .pages (.pkg p :: _) => p * 4096 + 2 * 256
    | .pages [] => 0
  leBytes 8 a ++ leBytes 8 (e.len * 2 ^ 27 + e.off)

/-- The extents that EXT_READ writes (R314). -/
def extReadList (b : List Byte) (s : State) : List Ext :=
  ((s.obj (leAt b 0x10 4)).exts.drop (leAt b 0x14 2)).take (leAt b 0x16 2)

/-- The command EXT_READ (R314). -/
def cmdExtRead : AdmCmd :=
  { op := 0x05, used := [(0x10, 16)]
    rows := fun p b s => s.objRows p (leAt b 0x10 4) false false ++ [(resBad b || leAt b 0x18 8 % 16 != 0, 0x19, 0x01)]
    writes := fun b s => [(leAt b 0x18 8, 16 * (extReadList b s).length)]
    act := fun _ sp b s =>
      let l := extReadList b s
      .ok (if l.isEmpty then s else s.hostWrite sp (leAt b 0x18 8) (l.flatMap Ext.bytes)) l.length }

/-- EXT_READ (R314). -/
def execExtRead (r : Nat) (s : State) : Host.Outcome State Fault Refusal := done s (s.admin r cmdExtRead)

/-- The 32 bytes of OBJ_QUERY's record (R314). -/
def State.queryBytes (s : State) (n : Nat) : List Byte :=
  let o := s.obj n
  leBytes 4 n ++ leBytes 2 o.vf ++ leBytes 1 o.part ++ leBytes 1 (if o.st = .opened then 1 else 2) ++ leBytes 1 o.place ++
  leBytes 1 o.attr ++ leBytes 1 o.plog ++ leBytes 1 0 ++ leBytes 4 o.pasid.toNat ++ leBytes 4 o.reservedPg ++
  leBytes 4 o.publishedPg ++ leBytes 2 o.extMax ++ leBytes 2 o.exts.length ++ leBytes 4 o.held

/-- The command OBJ_QUERY (R314). -/
def cmdObjQuery : AdmCmd :=
  { op := 0x06, used := [(0x10, 4), (0x18, 8)]
    rows := fun p b s => s.objRows p (leAt b 0x10 4) false true ++ [(resBad b || leAt b 0x18 8 % 32 != 0, 0x19, 0x01)]
    writes := fun b _ => [(leAt b 0x18 8, 32)]
    act := fun _ sp b s => .ok (s.hostWrite sp (leAt b 0x18 8) (s.queryBytes (leAt b 0x10 4))) 0 }

/-- OBJ_QUERY (R314). -/
def execObjQuery (r : Nat) (s : State) : Host.Outcome State Fault Refusal := done s (s.admin r cmdObjQuery)

/-! ### Window imports (R326) -/

/-- The rows of a command that names a VF and an import entry. -/
def importRows (dev : Nat) (p : Nat) (b : List Byte) (s : State) : List (Bool × Nat × Nat) :=
  let v := leAt b 0x10 2
  [(1024 ≤ v, 0x19, 0x01), (!s.mayName p v, 0x18, 0), (s.unboundVf v, 0x19, 0x07),
   (resBad b || 4096 ≤ leAt b 0x12 2 || 64 ≤ dev, 0x19, 0x01)]

/-- Set or clear window import entry INDEX of the VF's partition. -/
def State.putImport (s : State) (b : List Byte) (x : Option Import) : State :=
  s.modPart (s.bindPart (leAt b 0x10 2)) fun q => { q with imports := Tab.set none q.imports (leAt b 0x12 2) x }

/-- The import that a command describes. -/
def importOf (b : List Byte) : Import := ⟨leAt b 0x10 2, leAt b 0x14 1, BitVec.ofNat 64 (leAt b 0x18 8)⟩

/-- The command IMPORT_SET. -/
def cmdImportSet : AdmCmd :=
  { op := 0x07, used := [(0x10, 5), (0x18, 8)]
    rows := fun p b s => importRows (leAt b 0x14 1) p b s
    act := fun _ _ b s => .ok (s.putImport b (some (importOf b))) 0 }

/-- IMPORT_SET (R326). -/
def execImportSet (r : Nat) (s : State) : Host.Outcome State Fault Refusal := done s (s.admin r cmdImportSet)

/-- The command IMPORT_CLEAR. -/
def cmdImportClear : AdmCmd :=
  { op := 0x08, used := [(0x10, 4)], rows := importRows 0, act := fun _ _ b s => .ok (s.putImport b none) 0 }

/-- IMPORT_CLEAR (R326). -/
def execImportClear (r : Nat) (s : State) : Host.Outcome State Fault Refusal := done s (s.admin r cmdImportClear)

/-! ### Waypoints (12 R337 to R339, R345, R347) -/

/-- The index that WP_CREATE takes (12 R339). -/
def State.wpNumber (s : State) : Option Nat := if s.wps.next < 1048576 then some s.wps.next else s.wps.freed.head?

/-- WP_CREATE (12 R335, R338, R339). -/
def wpCreateAct (p : Nat) (_ : Space) (b : List Byte) (s : State) : AdmEnd :=
  let sg := leAt b 0x12 1
  let wt := leAt b 0x13 1
  if (sg = 3 ∨ wt = 3) ∧ s.isOp p = false then .fail 0x18 0
  else if 3 < sg ∨ 3 < wt then .fail 0x19 0x01
  else match s.wpNumber with
    | none => .fail 0x19 0x02
    | some i =>
      let g := if ((s.wp i).gen + 1) % 65536 = 0 then 1 else ((s.wp i).gen + 1) % 65536
      let u := (s.modWp i fun _ =>
        { value := BitVec.ofNat 64 (leAt b 0x18 8), live := true, gen := g, owner := leAt b 0x10 2, sigScope := sg, waitScope := wt
          peer := (leAt b 0x14 1).testBit 0, poisoned := false }).modWps fun w =>
        { w with next := max w.next (i + 1), freed := w.freed.filter (· != i) }
      .ok u (g * 2 ^ 48 + i)

/-- The command WP_CREATE. -/
def cmdWpCreate : AdmCmd :=
  { op := 0x09, used := [(0x10, 5), (0x18, 8)]
    rows := fun p b s =>
      let v := leAt b 0x10 2
      [(1024 ≤ v || 1 < leAt b 0x14 1, 0x19, 0x01), (!s.mayName p v, 0x18, 0), (s.unboundVf v, 0x19, 0x07), (resBad b, 0x19, 0x01)]
    act := wpCreateAct }

/-- WP_CREATE (12 R339). -/
def execWpCreate (r : Nat) (s : State) : Host.Outcome State Fault Refusal := done s (s.admin r cmdWpCreate)

/-- HANDLE of a command. -/
def cmdHandle (b : List Byte) : W64 := BitVec.ofNat 64 (leAt b 0x18 8)

/-- The rows of R315 about a named waypoint. -/
def State.wpRows (s : State) (p : Nat) (h : W64) : List (Bool × Nat × Nat) :=
  [((s.wp (wpIndex h)).live && !s.mayName p (s.wp (wpIndex h)).owner, 0x18, 0), (!(s.wp (wpIndex h)).live, 0x18, 0)]

/-- Free a waypoint (12 R339): WAITs fail, slots that hold the handle disarm without a message. -/
def State.wpFree (s : State) (h : W64) : State :=
  let i := wpIndex h
  let s := (s.modWp i fun w => { w with live := false }).modWps fun w => { w with freed := w.freed ++ [i] }
  let s := s.failWaits i 0x18
  let s := s.each (s.funcs.map (·.1)) fun u fk => u.modFunc fk fun f =>
    { f with slots := f.slots.map fun x => (x.1, if x.2.handle = h then { x.2 with armed := false } else x.2) }
  s.modWps fun w => { w with lans := w.lans.filter fun l => l.idx != i }

/-- The command WP_FREE. -/
def cmdWpFree : AdmCmd :=
  { op := 0x0A, used := [(0x18, 8)]
    rows := fun p b s => s.wpRows p (cmdHandle b) ++ [(resBad b, 0x19, 0x01)]
    act := fun _ _ b s => if s.wpLive (cmdHandle b) then .ok (s.wpFree (cmdHandle b)) 0 else .fail 0x18 0 }

/-- WP_FREE (12 R339). -/
def execWpFree (r : Nat) (s : State) : Host.Outcome State Fault Refusal := done s (s.admin r cmdWpFree)

/-- The function that FUNC names for PF `p` (12 R337). -/
def exportFunc (p : Nat) (b : List Byte) : Nat := if (leAt b 0x10 2).testBit 15 then pfKey p else leAt b 0x10 2 % 1024

/-- WP_EXPORT (12 R338, R345): the slot records handle and vector and disarms; handle 0 empties it. -/
def wpExportAct (p : Nat) (_ : Space) (b : List Byte) (s : State) : AdmEnd :=
  let fk := exportFunc p b
  let h := cmdHandle b
  let k := leAt b 0x12 1
  let vec := leAt b 0x13 1
  let w := s.wp (wpIndex h)
  if h ≠ 0 ∧ s.wpLive h = false then .fail 0x18 0
  else if h ≠ 0 ∧ (s.inScope fk w.owner w.sigScope || s.inScope fk w.owner w.waitScope) = false then .fail 0x18 0
  else if (if 1024 ≤ fk then 15 else 63) < vec then .fail 0x19 0x01
  else
    let u := s.modWps fun w => { w with lans := w.lans.filter fun l => l.kind != .slot fk k }
    .ok (u.modFunc fk fun f =>
      let x : Slot := Tab.get {} f.slots k
      { f with slots := Tab.set {} f.slots k (if h = 0 then {} else { x with handle := h, vector := vec, armed := false }) }) 0

/-- The command WP_EXPORT. -/
def cmdWpExport : AdmCmd :=
  { op := 0x0B, used := [(0x10, 4), (0x18, 8)]
    rows := fun p b s =>
      let fk := exportFunc p b
      (leAt b 0x10 2 / 1024 % 32 != 0, 0x19, 0x01) :: (fk < 1024 && !s.mayName p fk, 0x18, 0) ::
        (if cmdHandle b = 0 then [] else s.wpRows p (cmdHandle b)) ++ [(fk < 1024 && s.unboundVf fk, 0x19, 0x07), (resBad b, 0x19, 0x01)]
    act := wpExportAct }

/-- WP_EXPORT (12 R345). -/
def execWpExport (r : Nat) (s : State) : Host.Outcome State Fault Refusal := done s (s.admin r cmdWpExport)

/-- The command WP_IMPORT_SET (12 R347): handle 0 clears the entry. -/
def cmdWpImportSet : AdmCmd :=
  { op := 0x0C, used := [(0x10, 5), (0x18, 8)]
    rows := importRows 0
    act := fun _ _ b s =>
      if 64 ≤ leAt b 0x14 1 then .fail 0x19 0x01
      else .ok (s.modPart (s.bindPart (leAt b 0x10 2)) fun q =>
        { q with wpImports := Tab.set none q.wpImports (leAt b 0x12 2) (if cmdHandle b = 0 then none else some (importOf b)) }) 0 }

/-- WP_IMPORT_SET (12 R347). -/
def execWpImportSet (r : Nat) (s : State) : Host.Outcome State Fault Refusal := done s (s.admin r cmdWpImportSet)

end Sys2Proof.Machine
end

