-- ==== Sys2Proof/Machine/Bringup.lean ====
section
/-! DEFINITION. Start-up, dim mode, the voltage and trim loops, the power manager and the enables
(14_bringup_power_adaptive.md). -/

namespace Sys2Proof.Machine

/-- The service mode becomes NORMAL when dim mode ends, unless SET_MODE came first (15 R413, R420). -/
def State.modeNormal (s : State) : State :=
  if s.sec.mode = 0 then (s.modSec fun c => { c with mode := 1 }).bumpReport else s

/-- What takes effect when dim mode ends (14 R389): PART_STEP is recomputed, every partition's loop history is marked
for restart at its next slice boundary, and the service mode becomes NORMAL. Thread shares and held operations follow from the latches. -/
def State.dimEnd (s t : State) : State :=
  if s.latch.dim && !t.latch.dim then
    ((t.modBoot fun b => { b with heldTo := t.stamp }).each (List.range 64) fun u n =>
      (u.recomputeStep n).modPart n fun q => { q with cvy := { q.cvy with due := true } }).modeNormal
  else t

/-- Set latches; dim mode may end with them (14 R387). -/
def State.latchTo (s : State) (l : Latch) : State := s.dimEnd { s with latch := l }

/-- POWER_ON (14 R381): every register at its reset value. The memories outside the VAI, a fused designation, the
numbering of free values and what was already sent stay (log 10). -/
def execPowerOn (s : State) : Host.Outcome State Fault Refusal :=
  .next { State.reset with
    pending := s.pending
    boot := { State.reset.boot with byFuse := s.boot.byFuse, operator := if s.boot.byFuse then s.boot.operator else none }
    sto := { State.reset.sto with pkg := s.sto.pkg, host := s.sto.host }
    sec := { State.reset.sec with
      raised := s.sec.raised
      shown := { byFuse := s.boot.byFuse, operator := if s.boot.byFuse then s.boot.operator else none, raised := s.sec.raised } }
    cnt := { State.reset.cnt with era := s.cnt.era + 1 }
    out := s.out, freeCtr := s.freeCtr }

/-- CALIBRATION_WINDOW_END (14 R391, 01 R29): while a reference clock runs, a window completes and the count is
calibrated. -/
def execCalibrationWindowEnd (s : State) : Host.Outcome State Fault Refusal :=
  doneL s (if s.boot.noRef then s else
    (s.modBoot fun b => { b with windows := (b.windows + 1) % 2 ^ 32 }).latchTo { s.latch with candleCal := true })

/-- REFERENCE_CLOCK_STOP (01 R29, 14 R392): NO_REF; the last calibration is kept. -/
def execReferenceClockStop (s : State) : Host.Outcome State Fault Refusal :=
  done s (s.modBoot fun b => { b with noRef := true })

/-- REFERENCE_CLOCK_START (14 R392). -/
def execReferenceClockStart (s : State) : Host.Outcome State Fault Refusal :=
  done s (s.modBoot fun b => { b with noRef := false })

/-- The voltage request in force: VSEED_CODE until the first sample changes it (14 R393). -/
def Boot.req (b : Boot) : Nat := b.vReq.getD Config.vseedCode.toNat

/-- The pace set-point in ps (14 R395): SP_PS, or SP0 when it is 0. -/
def Boot.sp (b : Boot) : Nat := if fld b.vCfg 63 48 = 0 then Config.sp0.toNat else fld b.vCfg 63 48

/-- The effective cap in 0.1 W (14 R400). -/
def Boot.cap (b : Boot) : Nat := if b.pstate = 1 then min (fld b.vCfg 31 20) b.limitDw else fld b.vCfg 31 20

/-- The trim code of a path in force (14 R396). -/
def Boot.trim (b : Boot) (x : Nat) : Nat := (Tab.get {} b.trims x).code.getD (Config.trimSeed x).toNat

/-- Every path's margin is at least FLOOR + 1 (14 R393 trim_ok). -/
def Boot.trimOk (b : Boot) : Bool :=
  (b.trims.filter fun t => t.1 < 4096 && fld b.trimCfg 15 8 + 1 ≤ t.2.margin).length == 4096

/-- The request after one sample of the voltage loop at sample count `n` (14 R393): the code, and the cap rule.
Power is compared with the cap exactly, in units of 1/160 W. -/
def Boot.sampleReq (b : Boot) (n pace : Nat) : Nat × Bool :=
  let vmax := fld b.vCfg 47 40
  let vmin := fld b.vCfg 39 32
  let db := fld b.vCfg 19 12
  if b.pstate = 2 then (0, b.vCapped)
  else if b.cap * 15 < b.power * 10 then (max (b.req - 1) vmin, true)
  else if n ≤ 32 || bit b.vCfg 0 then (b.req, false)
  else if b.sp + db < pace && b.power * 5 ≤ b.cap * 7 then (min (b.req + min 4 (1 + (pace - b.sp) / 16)) vmax, false)
  else if pace + db < b.sp && b.trimOk then (max (b.req - 1) vmin, false)
  else (b.req, false)

/-- A run of consecutive samples goes on or starts anew; 1,024 are as good as more (14 R394). -/
def runOn (ok : Bool) (n : Nat) : Nat := if ok then min (n + 1) 1024 else 0

/-- The loop after one sample at pace `pace` (14 R393, R394): VRUN counts consecutive samples in band, VPIN those with the
request pinned at VMIN, VMAX or the cap rule, none of which acts in EMERGENCY. -/
def Boot.voltage (b : Boot) (pace : Nat) : Boot :=
  let n := min (b.vN + 1) 65535
  let x := b.sampleReq n pace
  let db := fld b.vCfg 19 12
  let pinned := b.pstate != 2 && (x.1 == fld b.vCfg 39 32 || x.1 == fld b.vCfg 47 40 || x.2)
  { b with vN := n, vReq := some x.1, vCapped := x.2, vPace := pace
           vRun := runOn (pace ≤ b.sp + db && b.sp ≤ pace + db) b.vRun, vPin := runOn pinned b.vPin }

/-- V_CONV is due (14 R394): 1,024 consecutive samples in band, or as many pinned, or FREEZE, once N is above 32. -/
def Boot.vDone (b : Boot) : Bool := 32 < b.vN && (bit b.vCfg 0 || b.vRun == 1024 || b.vPin == 1024)

/-- VOLTAGE_SAMPLE (14 R393, R394): one sample at pace `pace`. -/
def execVoltageSample (pace : Nat) (s : State) : Host.Outcome State Fault Refusal :=
  let t := s.modBoot fun b => b.voltage pace
  doneL s ((if t.boot.vDone then t.latchTo { s.latch with vConv := true } else t).send (.vReq t.boot.req))

/-- A path with trim `c` and margin `m` is in band (14 R396). -/
def Boot.inBand (b : Boot) (c m : Nat) : Bool :=
  fld b.trimCfg 15 8 ≤ m && (m ≤ fld b.trimCfg 23 16 + fld b.trimCfg 7 0 || c == 0)

/-- A path counts as converged: N above 16 and in band for its last 64 samples (14 R397). -/
def Trim.conv (t : Trim) : Bool := 16 < t.n && 64 ≤ t.run

/-- Paths in band under R397 (14 R398 CONVERGED). -/
def Boot.converged (b : Boot) : Nat := (b.trims.filter fun t => t.1 < 4096 && t.2.conv).length

/-- The state of a path after a sample with margin `m` at trim `c` (14 R396), and whether its channel faults. A
code of 0 is not lowered further (DEDUCED, log 16). -/
def Boot.samplePath (b : Boot) (x m : Nat) : Trim × Bool :=
  let t := Tab.get {} b.trims x
  let c := b.trim x
  let floor := fld b.trimCfg 15 8
  let t := { t with n := min (t.n + 1) 255, margin := m, code := some c, run := if b.inBand c m then min (t.run + 1) 64 else 0 }
  if m < floor then
    if c = 63 then (t, true) else ({ t with code := some (min (c + (floor - m) + 1) 63), hold := 0 }, false)
  else if t.n ≤ 16 || bit b.trimCfg 24 then (t, false)
  else if fld b.trimCfg 23 16 + fld b.trimCfg 7 0 < m then
    if t.hold + 1 = 256 then ({ t with code := some (c - 1), hold := 0 }, false) else ({ t with hold := t.hold + 1 }, false)
  else ({ t with hold := 0 }, false)

/-- The loop after one sample of path `x` with margin `m` (14 R396, R398 LIMITED). -/
def Boot.trimmed (b : Boot) (x m : Nat) : Boot :=
  { b with trims := Tab.set {} b.trims x (b.samplePath x m).1
           limited := if (b.samplePath x m).2 then satAdd 0xFFFF b.limited 1 else b.limited }

/-- TRIM_SAMPLE (14 R396, R397): one sample of path `path`. A path below its floor at code 63 counts a fault of its channel
(13 R361), which detours the transfer that the path carries, and in LIMITED. -/
def execTrimSample (path : Nat) (x : PathSample) (s : State) : Host.Outcome State Fault Refusal :=
  let t := s.modBoot fun b => b.trimmed path x.margin
  let u := if t.boot.converged = 4096 then t.latchTo { s.latch with trimConv := true } else t
  doneL s { (if (s.boot.samplePath path x.margin).2 then u.pathFault path x.carries else u) with latch := u.latch }

/-- TRIM_APPLY (01 R25, 14 R389): after dim mode, a path's converged or new trim reaches the live path. -/
def execTrimApply (path : Nat) (s : State) : Host.Outcome State Fault Refusal :=
  done s (if s.latch.dim then s else
    s.modBoot fun b => { b with trims := Tab.set {} b.trims path { Tab.get {} b.trims path with live := some (b.trim path) } })

/-- DIM_LATE (14 R390): an informational device-scoped record with status 0x10 and SOURCE 6. -/
def execDimLate (s : State) : Host.Outcome State Fault Refusal :=
  done s (if s.latch.dim && !s.boot.dimLate then
    (s.modBoot fun b => { b with dimLate := true }).geqPost { geqRec 0x10 6 with flags := 2 } none
  else s)

/-- V_GRANT (14 R399). -/
def execVGrant (code : Nat) (s : State) : Host.Outcome State Fault Refusal :=
  done s (s.modBoot fun b => { b with vGrant := code })

/-- P_REPORT (14 R399, R400): power and temperature; HOT above 95 °C. The energy event adds a free amount (16). -/
def execPReport (power temp : Nat) (s : State) : Host.Outcome State Fault Refusal :=
  done s (((s.modBoot fun b => { b with power := power, temp := temp, hot := 95 < temp }).tickN 0x1E0
    (Config.energy s.freeCtr) none).nextFree)

/-- P_STATE (14 R400, R401): the power state; LIMIT_DW is 0 unless CAPPED. In EMERGENCY the request is code 0. -/
def execPState (st limit : Nat) (s : State) : Host.Outcome State Fault Refusal :=
  let t := s.modBoot fun b => { b with pstate := st, limitDw := if st = 1 then limit else 0, vReq := if st = 2 then some 0 else b.vReq }
  done s (if st = 2 then t.send (.vReq 0) else t)

/-! ### VAI_ENABLE (14 R383 to R386) -/

/-- One bit of VAI_ENABLE written to 1: its latch when the prerequisite holds (14 R384). -/
def Latch.enable (l : Latch) : Nat → Option Latch
  | 0 => if l.run || l.fwReady then some { l with run := true } else none
  | 1 => if l.run then some { l with engines := true } else none
  | 2 => if l.run then some { l with queues := true } else none
  | 3 => if l.queues then some { l with irq := true } else none
  | _ => none

/-- Send every pending unmasked vector of a function once (14 R386). -/
def State.flushFunc (s : State) (fk : Nat) : State :=
  s.each (bitsOf 64 (s.func fk).pend) fun t v =>
    if (Tab.get {} (t.func fk).msix v).masked then t
    else (t.modFunc fk fun f => { f with pend := clrBit f.pend v }).send (.msix fk v)

/-- What a bit that has just become set starts: IDENT_REQ to each enabled port (14 R385), or the pending messages
(14 R386). -/
def State.enableEffect (s : State) : Nat → State
  | 1 => s.each (List.range 64) fun t k => if (t.eport k).enable && !(t.eport k).retired then t.sendIdentReq k else t
  | 3 => s.each (s.funcs.map (·.1)) State.flushFunc
  | _ => s

/-- Write 1 to bit `i` of VAI_ENABLE (14 R383, R384). -/
def State.enableBit (s : State) (i : Nat) : State :=
  match s.latch.enable i with
  | none => s.modBoot fun b => { b with refused := b.refused + 2 ^ i }
  | some l => if l = s.latch then s else ({ s with latch := l }).enableEffect i

/-- A write to VAI_ENABLE by the Operator PF: bits act from bit 0 upward; REFUSED holds this write's refusals. -/
def State.enableWrite (s : State) (v : W64) : State :=
  (s.modBoot fun b => { b with refused := 0 }).each [0, 1, 2, 3] fun t i => if bit v i then t.enableBit i else t

/-- VAI_ENABLE_RUN (14 R384): a write of RUN by PF `p`. -/
def execVaiEnableRun (p : Nat) (s : State) : Host.Outcome State Fault Refusal :=
  doneL s (s.opWrite p 0x10 fun t => t.enableWrite 1)
/-- VAI_ENABLE_ENGINES (14 R384, R385): a write of ENGINES by PF `p`. -/
def execVaiEnableEngines (p : Nat) (s : State) : Host.Outcome State Fault Refusal :=
  doneL s (s.opWrite p 0x10 fun t => t.enableWrite 2)
/-- VAI_ENABLE_QUEUES (14 R384): a write of QUEUES by PF `p`. -/
def execVaiEnableQueues (p : Nat) (s : State) : Host.Outcome State Fault Refusal :=
  doneL s (s.opWrite p 0x10 fun t => t.enableWrite 4)
/-- VAI_ENABLE_IRQ (14 R384, R386): a write of IRQ by PF `p`. -/
def execVaiEnableIrq (p : Nat) (s : State) : Host.Outcome State Fault Refusal :=
  doneL s (s.opWrite p 0x10 fun t => t.enableWrite 8)

end Sys2Proof.Machine
end

