-- ==== Sys2Proof/Machine/HostPort.lean ====
section
/-! DEFINITION. What arrives at the host ports and the chip fabric ports: invalidations (11 R319), page responses (R320),
completions (13 R373) and peer window messages (11 R324, R325). -/

namespace Sys2Proof.Machine

/-! ### Invalidations (11 R310, R319) -/

/-- The pages of HOST objects that partition `n`'s pins cover and whose translation is neither held nor asked for. -/
def State.pinMissing (s : State) (n : Nat) : List (Space × Nat) :=
  (((s.part n).pins.flatMap fun x =>
    let o := s.obj x.obj
    if !o.isHost then [] else (pageChunks x.off x.len).filterMap fun c => match s.pubBacking x.obj c.1 with
      | .host sp a => some (sp, a / 4096)
      | _ => none).filter fun g => (s.findX g.1 g.2).isNone && !(s.xl.reqs.any fun r => r.kind == .xlate g.1 g.2)).dedup

/-- The pin caches ask again for what they have lost (11 R310). -/
def State.pinAgain (s : State) : State :=
  s.each (s.parts.map (·.1)) fun u n => u.each (u.pinMissing n) fun v g =>
    (v.tick 0x100 (some n)).issueReq g.1.port (.xlate g.1 g.2) (.pin n) 0

/-- The host ranges that have been read through a page of an invalidated translation serve no access any more: it reads
again through the new one (11 R319). -/
def State.dropGot (s : State) (hit : Space → Nat → Bool) : State :=
  let keep (l : List (Space × Nat × Nat)) : List (Space × Nat × Nat) := l.filter fun g => !hit g.1 (g.2.1 / 4096)
  (s.each (s.tasks.map (·.1)) fun u r => u.modTask r fun t =>
    { t with got := keep t.got, win := t.win.map fun e => (e.1, e.2.map fun o => { o with got := keep o.got }) }).modXl fun x =>
      { x with waiting := x.waiting.map fun j => { j with got := keep j.got } }

/-- ATS_INVALIDATION (11 R319): the matching translations are invalid, and the completion is sent. -/
def execAtsInvalidation (p f : Nat) (pasid : Option Nat) (page pages : Nat) (s : State) : Host.Outcome State Fault Refusal :=
  let hit (sp : Space) (g : Nat) : Bool := sp.port == p && sp.fk == f && sp.pasid == pasid && page ≤ g && g < page + pages
  done s ((((s.dropGot hit).modXl fun x => { x with
    ents := x.ents.filter (fun e => !hit e.sp e.page)
    users := x.users.filter (fun u => !hit u.1 u.2.1) }).send (.invalidationDone p)).pinAgain)

/-! ### Peer window messages (11 R324, R325) -/

/-- The VF of a window handle (06 R184). -/
def winVf (h : W64) : Nat := fld h 17 8

/-- The window that a handle names. -/
def State.winOf (s : State) (h : W64) : Win := Tab.get {} (s.func (winVf h)).wins (fld h 7 0)

/-- The object offset that a message reaches. -/
def Win.at' (w : Win) (off : Nat) : Nat := w.off + off

/-- The conditions of R324. -/
def State.peerOk (s : State) (h : W64) (off len : Nat) (write : Bool) : Bool :=
  let w := s.winOf h
  w.isOpen && w.gen == fld h 63 48 && w.acc.testBit (if write then 0 else 1) && off + len ≤ w.len &&
  !((pageChunks (w.at' off) len).any fun c => ((s.obj w.obj).extAt (c.1 / 4096)).isNone) && !s.beyondRange w.obj (w.at' off) len

/-- A refused message (R325): counted, and noted for the queue whose task opened the window last. -/
def State.peerRefuse (s : State) (h : W64) : State :=
  let v := winVf h
  let u := s.modFunc v fun f => { f with winDrop := satAdd 0xFFFFFFFF f.winDrop 1 }
  match (s.winOf h).opener with
  | some q => u.setErrBit (qkey v q)
  | none => u

/-- Check and prepare a peer's access, request `id` (R323, R324; 13 R368): translations, and the host's bytes for a read. -/
def State.peerPrep (s : State) (id : Nat) (h : W64) (off len : Nat) (write : Bool) : Prep :=
  let w := s.winOf h
  let segs := hostPart (s.resolve w.obj (w.at' off) len)
  if !s.peerOk h off len write || (s.obj w.obj).lostAt (w.at' off) len then .fail s 0x18
  else if s.poolBad w.obj (w.at' off) len then .fail s.ctxRefuse 0x18
  else if write then s.tryWrites (.port id) segs else s.fetchSegs (.port id) segs

/-- A peer's write goes in place (R324): the state, and whether the message has been dealt with. -/
def State.peerWriteReq (s : State) (id : Nat) (handle : W64) (off : Nat) (data : List Byte) : State × Bool :=
  let w := s.winOf handle
  match s.peerPrep id handle off data.length true with
  | .wait u => (u, false)
  | .fail u _ => ((u.peerRefuse handle).endJob id, true)
  | .ok u => ((u.peerWrite w.obj (w.at' off) data).endJob id, true)

/-- A peer's read answers the published bytes (R324); a poisoned byte makes the answer 0x17 without data. -/
def State.peerReadReq (s : State) (id : Nat) (handle : W64) (off len : Nat) : State × Bool :=
  let w := s.winOf handle
  match s.peerPrep id handle off len false with
  | .wait u => (u, false)
  | .fail u _ => (((u.peerRefuse handle).send (.fabricReply 0x18 [])).endJob id, true)
  | .ok u =>
    let data := u.pubRead w.obj (w.at' off) len
    let st := poisonStatus data
    ((u.send (.fabricReply st (if st = 0 then plain data else []))).endJob id, true)

/-- Take up the message of a peer; an engine's request is none. -/
def State.peerServe (s : State) (j : PortJob) : State × Bool := match j.req with
  | .peerWrite h off data => s.peerWriteReq j.id h off data
  | .peerRead h off len => s.peerReadReq j.id h off len
  | .peerSignal h v => ((s.applySignal h v .peer).1.endJob j.id, true)
  | .engine .. => (s, true)

/-- Take up messages of peers in order, as far as none waits: they act in the order of arrival (12 R331, R347). A message
does not name its source device, so the order holds over all of them (DESIGN CHOICE, log 125). -/
def State.peerServeAll (s : State) : List PortJob → State
  | [] => s
  | j :: l => match s.peerServe j with
    | (u, true) => u.peerServeAll l
    | (u, false) => u

/-- The messages of peers in progress are taken up. -/
def State.peersAgain (s : State) : State := s.peerServeAll s.xl.waiting

/-- PEER_WINDOW_WRITE (R324). -/
def execPeerWindowWrite (handle : W64) (off : Nat) (data : List Byte) (s : State) : Host.Outcome State Fault Refusal :=
  done s (s.enterReq (.peerWrite handle off data)).peersAgain

/-- PEER_WINDOW_READ (R324). -/
def execPeerWindowRead (handle : W64) (off len : Nat) (s : State) : Host.Outcome State Fault Refusal :=
  done s (s.enterReq (.peerRead handle off len)).peersAgain

/-- PEER_SIGNAL (12 R347): a message from a peer device. -/
def execPeerSignal (handle v : W64) (s : State) : Host.Outcome State Fault Refusal :=
  done s (s.enterReq (.peerSignal handle v)).peersAgain

/-- Something has arrived from a host: the requests of engines and peers that wait are taken up again. -/
def State.portsAgain (s : State) : State := s.peersAgain.engineAgain

/-! ### Page requests (11 R320) -/

/-- The `i`-th page request outstanding at port `p`. -/
def State.priAt (s : State) (p i : Nat) : Option PriReq := (s.xl.pri.filter fun r => r.sent && r.sp.port == p)[i]?

/-- A page request has been answered: it is outstanding no more, and one that waited is sent. -/
def State.priEnd (s : State) (r : PriReq) : State :=
  (s.modXl fun x => { x with pri := x.pri.erase r }).priPump r.sp.port

/-- A page request fails: its accesses end with 0x12 (11 R320, R327). -/
def State.priDrop (s : State) (r : PriReq) : State :=
  (s.modXl fun x => { x with pri := x.pri.erase r, fails := x.fails ++ r.who.map fun w => (w, .xlate r.sp r.page) }).priFailed

/-- A page request fails, and one that waited is sent. -/
def State.priFails (s : State) (r : PriReq) : State := (s.priDrop r).priPump r.sp.port

/-- After a Response Failure every page request of PF `p` and its VFs that has not been sent fails at once (11 R320). -/
def State.priLock (s : State) (p : Nat) : State :=
  (s.modFunc (pfKey p) fun f => { f with lockout := true }).each (s.xl.pri.filter fun r => !r.sent && r.sp.port == p) State.priDrop

/-- PRI_RESPONSE (11 R320): after Success the translation is requested again. -/
def execPriResponse (p i : Nat) (code : PriCode) (s : State) : Host.Outcome State Fault Refusal :=
  done s (match s.priAt p i with
    | none => s
    | some r => (match code with
      | .success => (s.modXl fun x => { x with ents := x.ents.filter fun e => !(e.sp == r.sp && e.page == r.page) }).priEnd r
      | .invalid => s.priFails r
      | .failure => (s.priDrop r).priLock p).portsAgain)

/-- PRI_TIMEOUT (11 R320). -/
def execPriTimeout (p i : Nat) (s : State) : Host.Outcome State Fault Refusal :=
  done s (match s.priAt p i with
    | none => s
    | some r => (s.priFails r).portsAgain)

/-- PRI_ENABLE_TOGGLE (11 R320): the lockout of the PF and its VFs ends. -/
def execPriEnableToggle (p : Nat) (s : State) : Host.Outcome State Fault Refusal :=
  done s (s.modFunc (pfKey p) fun f => { f with priEn := true, lockout := false })

/-! ### Completions at a host port (13 R362, R373) -/

/-- The task of the dispatch for which an engine asks; none where the dispatch is over. -/
def State.jobTask (s : State) (j : PortJob) : Option Nat := match j.req with
  | .engine k t entry .. => match s.matchRet k t with
    | some (n, _, d, _) => if d.stopping then none else match d.owner with
      | .task r _ _ => some r
      | .convoy => match entry.bind fun i => ((s.part n).cvy.run.getD [])[i]? with
        | some e => some e.r
        | none => (s.dispReader n d).map (·.1)
    | none => none
  | _ => none

/-- The task for which a request is outstanding. -/
def State.whoTask (s : State) : Who → Option Nat
  | .op r _ _ => some r
  | .prog r _ => some r
  | .port id => (s.xl.waiting.find? fun j => j.id == id).bind s.jobTask
  | _ => none

/-- Whoever asked still waits: the data of a killed task is discarded (13 R373). -/
def State.whoLive (s : State) : Who → Bool
  | .op r g k =>
    let t := s.task r
    t.gen == g && (t.st == .admitted || t.st == .running || t.st == .committing) && (64 ≤ k || t.kind == .admin || (t.op k).isSome)
  | .prog r g => (s.task r).gen == g && ((s.task r).st == .admitted || (s.task r).st == .running)
  | .slots qk => (s.queue qk).serves
  | .record qk => (s.queue qk).st != .absent
  | .pin _ => true
  | .port id => s.xl.waiting.any fun j => j.id == id && (match j.req with
    | .engine .. => (s.jobTask j).isSome
    | _ => true)

/-- Forget a request: its tag is free again. -/
def State.endReq (s : State) (r : HostReq) : State := s.modXl fun x => { x with reqs := x.reqs.erase r }

/-- A translation arrives (11 R317). -/
def State.translated (s : State) (w : Who) (e : XEnt) : State :=
  let u := s.modXl fun x => { x with ents := (x.ents.filter fun y => !(y.sp == e.sp && y.page == e.page)) ++ [e] }
  match w with
  | .pin _ => if u.pinHolds e.sp e.page then u else s
  | _ => u.useX w e.sp e.page

/-- A request ends with no data, with 0x12 for whoever asked (13 R362); a pin's has no one. -/
def State.refuseReq (s : State) (q : HostReq) : State :=
  let u := s.endReq q
  if u.whoLive q.who && !(match q.who with
      | .pin _ => true
      | _ => false) then u.modXl fun x => { x with fails := x.fails ++ [(q.who, q.kind)] } else u

/-- The data of a read arrives, each byte or its poison mark (13 R363, R373): for a task that has been killed it is discarded;
read through a translation that is held no more it is read again (11 R319). -/
def State.arrive (s : State) (q : HostReq) (sp : Space) (a len : Nat) (data : List (Option Byte)) : State :=
  let u := s.endReq q
  if !u.whoLive q.who then u.tick 0x103 ((u.whoTask q.who).map fun r => (u.task r).part)
  else if u.reach sp a = some (Loc.host q.port q.dst) then
    (u.writeRange (.host q.port q.dst) data).modGot q.who fun g => g ++ [(sp, a, len)]
  else u

/-- HOST_COMPLETION (13 R373, R362; 11 R317): matched by PCIe tag. A poisoned completion is a fault of the port, and the
request stays for its detour. -/
def execHostCompletion (p tag : Nat) (c : HostCpl) (s : State) : Host.Outcome State Fault Refusal :=
  done s (match s.xl.reqs.find? fun r => r.port == p && r.tag == tag with
    | none => s
    | some q => (match c, q.kind with
      | .poisoned, _ =>
        (s.handshakes 5 p 1).faultUncorrectable 5 p 0 (.tag tag) none
      | .refused, _ => (s.handshakes 5 p 1).refuseReq q
      | .xlat r w dst, .xlate sp page =>
        let u := (s.handshakes 5 p 1).endReq q
        if u.whoLive q.who then u.translated q.who { sp := sp, page := page, r := r, w := w, dst := dst } else u
      | .data bytes, .read sp a len =>
        if bytes.length ≠ len then s else (s.handshakes 5 p 1).arrive q sp a len (bytes.map some)
      | _, _ => s).portsAgain)

end Sys2Proof.Machine
end

