-- ==== Sys2Proof/Machine/Detours.lean ====
section
/-! DEFINITION. Handshake timeouts, and how a detour ends (13_faults_recovery.md R361 to R363, R368). -/

namespace Sys2Proof.Machine

/-- What an uncorrectable stored word does (13 R368, R362): the structure's effect and a device-scoped 0x17 record. A
Waystation word is delivered with a poison mark, and its consumer reports it (R353). -/
def State.storedLost (s : State) : StoredWord → State
  | .record r =>
    let u := if (s.task r).st = .admitted ∨ (s.task r).st = .running then s.killRerun r else s
    ((u.modTask r fun t => { t with withdrawn := true })).geqChannel 0x17 6 0 0xFF 0
  | .waypoint k => ((s.modWp k fun w => { w with poisoned := true }).failWaits k 0x17).geqChannel 0x17 6 0 0xFF 0
  | .object n => (s.modObj n fun o => { o with poisoned := true }).geqChannel 0x17 6 0 0xFF 0
  | .extent n pg => (s.modObj n fun o => { o with exts := o.exts.map fun e =>
      if e.off ≤ pg && pg < e.off + e.len then { e with bad := true } else e }).geqChannel 0x17 6 0 0xFF 0
  | .queue f q => (s.modQueue (qkey f q) fun x => { x with poisoned := true }).geqChannel 0x17 6 0 0xFF 0
  | .geq k => (s.modGeq fun g => { g with ring := Tab.set none g.ring k ((Tab.get none g.ring k).map fun r =>
      { r with flags := if r.flags / 8 % 2 = 1 then r.flags else r.flags + 8 }) }).geqChannel 0x17 6 0 0xFF 0
  | .bank a _ => s.modSto fun m => { m with ws := (m.ws.settle (a / 32)).poison (a / 32) }

/-- The read that holds a tag of a host port delivers poisoned data (13 R363); a translation fails. -/
def State.deliverPoison (s : State) (p tag : Nat) : State :=
  match s.xl.reqs.find? fun r => r.port == p && r.tag == tag with
  | none => s
  | some q => match q.kind with
    | .xlate _ _ => s.refuseReq q
    | .read sp a len => s.arrive q sp a len (List.replicate len none)

/-- The record of a transfer that a channel cannot make (13 R363). -/
def State.geqLost (s : State) (kind i : Nat) : State := s.geqChannel 0x17 kind i 0xFF 0

/-- A detour that is exhausted (13 R361, R363, R368). A COMMITTING task's transfer goes on, with a record after every three
failures more. A read of no task, other than a host port's, has no consumer in the model (DESIGN CHOICE, log 126). -/
def State.detourOver (s : State) (kind i : Nat) : State :=
  let c := s.chan (ckey kind i)
  match c.word with
  | some w => (s.storedLost w).endDetour kind i
  | none =>
    if retirable kind then s.retireChan kind i
    else match c.xfer with
      | .write r =>
        if (s.task r).st ≠ .committing then (s.killRerun r).endDetour kind i
        else
          let u := s.modChan (ckey kind i) fun c =>
            { c with detour := some 3, more := if c.detour = some 3 then (c.more + 1) % 3 else 0 }
          if c.detour = some 3 ∧ c.more = 2 then u.geqLost kind i else u
      | .read ro =>
        if kind = 7 ∨ kind = 9 then (match ro with
          | some r => s.killRerun r
          | none => s).endDetour kind i
        else
          let u := s.geqLost kind i
          match ro with
          | some r => (if (u.task r).st = .committing then u.modTask r (Task.met 0x17 0) else u.failTask r 0x17).endDetour kind i
          | none => u.endDetour kind i
      | .tag t => ((s.geqLost kind i).deliverPoison i t).endDetour kind i
      | .none => s.endDetour kind i

/-- The transfer that a channel detours has failed once more (13 R362): the third failure exhausts the detour, unless the
fault has retired the channel. -/
def State.further (s : State) (kind i : Nat) : State := match (s.chan (ckey kind i)).detour with
  | none => s
  | some k => if k + 1 < 3 then s.modChan (ckey kind i) fun c => { c with detour := some (k + 1) } else s.detourOver kind i

/-- HANDSHAKE_TIMEOUT (13 R361, R362): a fault. That of the transfer being detoured is a further failure of it; any other
transfer is detoured, which at an engine port is one more wait. -/
def execHandshakeTimeout (kind i unseen : Nat) (x : Transfer) (s : State) : Host.Outcome State Fault Refusal :=
  let k := (s.chargeTo kind i).1
  let j := (s.chargeTo kind i).2
  let c := s.chan (ckey k j)
  let u := s.hsFault k j unseen
  done s (if c.detour.isSome && c.word.isNone && c.xfer == x then (u.further k j).portsAgain
    else u.beginDetour k j x none (k == 1))

/-- DETOUR_REISSUE (13 R362): a re-issue or one more wait that succeeds ends the detour. One that fails is a further fault,
of a wait a handshake timeout, except for the re-read of a stored word; the third ends the detour. -/
def execDetourReissue (kind i unseen : Nat) (ok : Bool) (s : State) : Host.Outcome State Fault Refusal :=
  let k := (s.chargeTo kind i).1
  let j := (s.chargeTo kind i).2
  let c := s.chan (ckey k j)
  done s (if c.detour.isNone then s
    else if ok then
      (match c.word with
      | some (.bank a _) => s.modSto fun m => { m with ws := m.ws.settle (a / 32) }
      | _ => s).endDetour k j
    else
      ((if c.word.isSome then s
        else if c.waits then s.hsFault k j unseen
        else s.stampFault k j unseen fun c => { c with uncorr := satAdd 0xFFFF c.uncorr 1 }).further k j).portsAgain)

end Sys2Proof.Machine
end

