-- ==== Sys2Proof/Machine/Flags.lean ====
section
/-! DEFINITION. The status registers: every flag, count and view that the VAI computes for a read (01 R22, 02 R41, R47,
R52, R57, 03 R73, 07 R214, 08 R221, R244, 11 R327, 12 R352, 13 R357, R378, 14 R382, R395, R398, R401, 15 R405, R415, R426). -/

namespace Sys2Proof.Machine

/-! ### Identity, bring-up, power (02 R41; 14) -/

/-- VAI_ID (14 R382). -/
def vaiId : W64 := pack [(16, 0x5A56), (8, 2), (0, Config.stepping.toNat)]

/-- VAI_CAP (14 R382): installed resources. -/
def vaiCap : W64 := pack [(48, 1024), (32, 16384), (24, 64), (16, 64), (8, 16), (4, 8), (0, 8)]

/-- VAI_ENABLE (14 R382). -/
def State.vaiEnable (s : State) : W64 :=
  pack [(3, b2n s.latch.irq), (2, b2n s.latch.queues), (1, b2n s.latch.engines), (0, b2n s.latch.run)]

/-- VAI_STATUS (14 R382). -/
def State.vaiStatus (s : State) : W64 :=
  pack [(24, s.boot.refused), (9, b2n s.boot.hot), (8, b2n s.latch.fwReady), (7, b2n s.latch.dim), (6, b2n s.boot.dimLate),
    (5, b2n s.boot.noRef), (4, b2n s.latch.candleCal), (3, b2n s.latch.vConv), (2, b2n s.latch.trimConv)]

/-- PF_ROLE of PF `p` (02 R41). -/
def State.pfRole (s : State) (p : Nat) : W64 :=
  pack [(8, b2n s.boot.operator.isSome), (7, b2n s.boot.byFuse), (6, b2n (s.isOp p)), (4, s.boot.operator.getD 0), (0, p)]

/-- ADPT_V_STATE (14 R395). -/
def State.vState (s : State) : W64 :=
  let b := s.boot
  pack [(48, b.vN), (47, b2n (32 < b.vN && !bit b.vCfg 0)), (46, b2n b.vCapped),
    (45, b2n (0 < b.vN && (b.req == fld b.vCfg 39 32 || b.req == fld b.vCfg 47 40))), (32, b.vGrant), (24, if b.vN = 0 then 0 else b.req), (0, b.vPace)]

/-- ADPT_TRIM_STATE (14 R398). -/
def State.trimState (s : State) : W64 :=
  let ms := (s.boot.trims.filter fun t => t.1 < 4096).map fun t => t.2.margin
  pack [(32, s.boot.converged), (16, if ms.length = 4096 then (least ms).getD 0 else 0), (0, s.boot.limited)]

/-- ADPT_TRIM_VIEW of the selected path (14 R398): a path without a sample shows zero in its sampled fields. -/
def State.trimView (s : State) : W64 :=
  let x := fld s.boot.trimSel 11 0
  let t := Tab.get {} s.boot.trims x
  if t.n = 0 then 0
  else pack [(24, t.margin), (16, s.boot.trim x), (8, (Config.trimSeed x).toNat), (0, b2n (s.boot.inBand (s.boot.trim x) t.margin))]

/-- ADPT_CAL (14 R398). -/
def State.adptCal (s : State) : W64 := pack [(32, s.boot.windows), (1, b2n s.boot.noRef), (0, b2n s.latch.candleCal)]

/-- PWR_STATUS (14 R401). -/
def State.pwrStatus (s : State) : W64 := pack [(32, s.boot.limitDw), (30, s.boot.pstate), (16, s.boot.temp), (0, s.boot.power)]

/-! ### Functions and queues (02 R47; 03 R73) -/

/-- VF_ID of global VF `n` (02 R47). -/
def State.vfId (s : State) (n : Nat) : W64 :=
  let p := (s.vfPort n).getD 0
  pack [(31, b2n (s.bound n)), (22, p), (16, if s.bound n then s.bindPart n else 0), (0, n - s.vfBase p)]

/-- VF_STATUS, or ADMQ_STATUS of a PF (03 R73): a queue command has ended with the write that starts it. -/
def State.vfStatus (s : State) (fk : Nat) : W64 :=
  pack [(16, (s.func fk).cmdResult), (8, (s.liveQueues fk).length), (0, b2n (s.bound fk && s.active (s.bindPart fk)))]

/-- Codes of Q_STATE.STATE (03 R73). -/
def QSt.code : QSt → Nat
  | .absent => 0
  | .created => 1
  | .enabled => 2
  | .quiescing => 3
  | .quiesced => 4
  | .destroying => 5

/-- Q_STATE (03 R73). -/
def Queue.state (q : Queue) : W64 :=
  pack [(40, q.head), (16, q.tail), (10, b2n q.held), (9, b2n q.cplFull), (8, b2n (q.waiting == q.ring)), (0, q.st.code)]

/-- The register at offset `off` of a queue block, by 8-byte words, and whether it is 64 bits wide (03 R73; 08 R216; 09
R269; 13 R358). POOL_INDEX of an admin queue reads 0 until its first CREATE, as the reset value says (DESIGN CHOICE, log
114). -/
def State.qReg (s : State) (qk off : Nat) : Option (Bool × W64) :=
  let q := s.queue qk
  let adm : Bool := 1024 ≤ qk / 64
  match off with
  | 0x00 => some (true, q.base)
  | 0x08 => some (false, q.size.setWidth 64)
  | 0x10 => some (true, q.cplBase)
  | 0x18 => some (true, q.cfg)
  | 0x20 => some (true, q.state)
  | 0x28 => some (false, pack [(16, q.pool), (0, q.gen)])
  | 0x30 => some (false, pack [(0, q.cplHead)])
  | 0x38 => some (false, pack [(16, q.stale), (0, q.refused)])
  | 0x40 => some (true, BitVec.ofNat 64 (leAt q.heldRec 0 8))
  | 0x48 => some (true, BitVec.ofNat 64 (leAt q.heldRec 8 8))
  | 0x50 => some (true, BitVec.ofNat 64 (leAt q.heldRec 16 8))
  | 0x58 => some (true, BitVec.ofNat 64 (leAt q.heldRec 24 8))
  | 0x60 => some (true, pack [(32, q.lost), (0, b2n q.held)])
  | 0x68 => some (false, if adm then 0 else q.job.setWidth 64)
  | 0x70 => some (false, if adm then 0 else q.kvage.setWidth 64)
  | 0x78 => some (false, q.timeout.setWidth 64)
  | _ => none

/-! ### Waypoint windows (12 R345, R352) -/

/-- WP_SLOT of a slot (12 R352). -/
def State.wpSlot (s : State) (fk k : Nat) : W64 :=
  let x : Slot := Tab.get {} (s.func fk).slots k
  pack [(48, fld x.handle 63 48), (34, x.vector), (33, b2n (s.sigOk fk x.handle)), (32, b2n (s.waitOk fk x.handle)),
    (31, b2n (s.wpLive x.handle)), (30, b2n x.armed), (0, wpIndex x.handle)]

/-- WP_VALUE of a slot that the function may wait on (12 R345); a poisoned waypoint reads zero (13 R368). -/
def State.wpValue (s : State) (fk k : Nat) : W64 :=
  let w := s.wp (wpIndex (Tab.get {} (s.func fk).slots k : Slot).handle)
  if w.poisoned then 0 else w.value

/-! ### Partitions and engine ports (02 R52, R57; 07 R214; 08 R221, R244) -/

/-- PART_STATUS (02 R52). -/
def State.partStatus (s : State) (n : Nat) : W64 :=
  pack [(3, b2n (s.starved n)), (2, b2n (s.rcv.rszPhase != 0 && (s.rcv.src == some n || s.rcv.dst == some n))),
    (1, b2n (s.enabled n && s.share n < s.threadsCfg n)), (0, b2n (s.active n))]

/-- PART_STEP (07 R214): a step time that the field cannot hold shows a free value. -/
def Part.step (p : Part) : W64 :=
  pack [(44, p.endNs), (0, if p.stepNs < 65536 then p.stepNs else (Config.wideStep p.stepNs).toNat)]

/-- PART_SCHED (08 R221). -/
def State.partSched (s : State) (n : Nat) : W64 :=
  let p := s.part n
  pack [(32, p.slices), (31, b2n p.running), (30, b2n p.draining), (20, p.schVf), (16, p.schGroup), (0, min 16383 (s.readyJobs n).length)]

/-- PART_WSET (08 R221). -/
def Part.wset (p : Part) : W64 := pack [(31, b2n p.wsValid), (16, p.wsVf), (0, p.wsTag)]

/-- The register at offset `off` of partition `n`'s block. -/
def State.partReg (s : State) (n off : Nat) : Option (Bool × W64) :=
  let p := s.part n
  match off with
  | 0x00 => some (true, p.cfg)
  | 0x08 => some (true, p.engines)
  | 0x10 => some (true, p.banks)
  | 0x18 => some (true, p.extents)
  | 0x20 => some (false, s.partStatus n)
  | 0x28 => some (false, pack [(0, p.sliceUs)])
  | 0x30 => some (false, p.budget.setWidth 64)
  | 0x38 => some (true, p.step)
  | 0x40 => some (false, pack [(16, b2n p.portLost), (0, p.pgen)])
  | 0x48 => some (true, s.partSched n)
  | 0x50 => some (false, pack [(0, p.overload)])
  | 0x58 => some (false, p.wset)
  | _ => none

/-- RESIZE_STATUS (02 R57). -/
def Rcv.rszStatus (x : Rcv) : W64 := pack [(24, x.rszResult), (8, b2n x.rszRetired), (0, x.rszPhase)]

/-- EPORT_STATUS (07 R214). -/
def EPort.status (e : EPort) : W64 :=
  pack [(16, e.egen), (3, b2n e.retired), (2, b2n e.clearing), (1, b2n e.identified), (0, b2n e.usable)]

/-- The register at offset `off` of engine port `k`'s block (07 R214). -/
def State.eportReg (s : State) (k off : Nat) : Option (Bool × W64) :=
  let e := s.eport k
  match off with
  | 0x00 => some (false, pack [(0, b2n e.enable)])
  | 0x08 => some (false, e.status)
  | 0x10 => some (true, e.ident)
  | 0x18 => some (false, pack [(16, e.late), (0, e.hsTimeout)])
  | _ => none

/-- ADPT_CVY_STATE (08 R244, R245): C and F read zero until the first convoy of a history. -/
def Cvy.stateReg (c : Cvy) : W64 :=
  if c.restart then 0
  else pack [(48, c.n), (47, b2n (64 ≤ c.n && !bit c.cfg 31)), (23, c.f), (0, c.c)]

/-- ADPT_CVY_FILT (08 R244, R245). -/
def Cvy.filtReg (c : Cvy) : W64 :=
  pack [(48, c.lwset), (32, c.lvf), (16, if c.restart then 0 else c.mf), (0, if c.restart then 0 else c.cf)]

/-- The register at offset `off` of partition `n`'s loop block (08 R244). -/
def State.cvyReg (s : State) (n off : Nat) : Option (Bool × W64) :=
  let c := (s.part n).cvy
  match off with
  | 0x00 => some (true, c.cfg)
  | 0x08 => some (true, c.lim)
  | 0x10 => some (true, c.gain)
  | 0x18 => some (true, c.tgt)
  | 0x20 => some (true, c.stateReg)
  | 0x28 => some (true, c.filtReg)
  | _ => none

/-! ### The Credit Ledger, channels (01 R22, R23; 13 R378) -/

/-- The queue that holds a pool index (03 R69). -/
def State.poolQueue (s : State) (i : Nat) : Option Queue :=
  s.queues.findSome? fun e => if e.2.st != .absent && e.2.pool == i then some e.2 else none

/-- A ledger entry: free, held and retired (01 R22). -/
def ledgerEntry (total held : Nat) (retired : Bool) : W64 :=
  if retired then pack [(40, total)] else pack [(20, held), (0, total - held)]

/-- LEDGER_VIEW for a LEDGER_SEL value (01 R22, R23): zero for an entry that does not exist. -/
def State.ledgerView (s : State) (sel : W32) : W64 :=
  let i := fld sel 23 0
  match fld sel 27 24 with
  | 0 => match s.poolQueue i with
    | some q => ledgerEntry q.ring q.credHeld false
    | none => 0
  | 1 => if i < 64 then ledgerEntry 16 (s.eport i).held (s.eport i).retired else 0
  | 2 => if i < 16 then ledgerEntry 64 (s.mtuHeld i) (s.mtuRetired i) else 0
  | 3 => pack [(20, (s.obj i).held)]
  | 4 => if i < 64 then ledgerEntry 512 (s.bankHeld i) (s.chan (ckey 3 i)).retired else 0
  | _ => 0

/-- Instances of a channel kind (13 R378). -/
def chanCount : Nat → Nat
  | 1 => 64
  | 2 => 16
  | 3 => 64
  | 4 => 8
  | 5 => 4
  | 6 => 1
  | 7 => 32
  | 8 => 8
  | _ => 0

/-- CHAN_VIEW for a CHAN_SEL value (13 R378). -/
def State.chanView (s : State) (sel : W32) : W64 :=
  let k := fld sel 27 24
  let i := fld sel 23 0
  if i < chanCount k then (s.chan (ckey k i)).view (s.hands (ckey k i)) else 0

/-- The retired channels of a kind, as a bitmap (13 R378). -/
def State.retiredMap (s : State) (kind : Nat) : W64 :=
  BitVec.ofNat 64 (((List.range (chanCount kind)).filter fun i => (s.chan (ckey kind i)).retired).map (2 ^ ·)).sum

/-- RST_STATUS (13 R378). -/
def Rcv.rstStatus (x : Rcv) : W64 :=
  pack [(24, x.result), (18, b2n x.auto), (17, b2n x.whole), (8, x.part), (0, x.phase)]

/-- DUMP_STATUS (13 R378). -/
def Rcv.dumpStatus (x : Rcv) : W64 :=
  pack [(32, x.dumpRecords), (16, min 0xFFFF x.dumpWithheld), (8, x.dumpResult), (0, b2n x.dumpBusy)]

/-- GEQ_VIEW[k] (13 R356): the entry at GEQ_HEAD, zero when the ring is empty. -/
def State.geqView (s : State) (k : Nat) : W64 :=
  if s.geq.head = s.geq.tail then 0
  else match Tab.get none s.geq.ring (s.geq.head % 4096) with
    | some r => BitVec.ofNat 64 (leAt r.bytes (8 * k) 8)
    | none => 0

/-! ### Objects, waypoints, pools (11 R327; 12 R352) -/

/-- OBJ_STATUS (11 R327). -/
def State.objStatus (s : State) : W64 :=
  let n (t : ObjSt) : Nat := (s.objs.tab.filter fun o => o.2.st == t).length
  pack [(32, n .closing), (0, n .opened)]

/-- WP_COUNT (12 R352). -/
def State.wpLiveCount (s : State) : W64 := pack [(0, (s.wps.tab.filter fun w => w.2.live).length)]

/-- PART_POOL_USED (11 R327). -/
def State.poolUsed (s : State) (n : Nat) : W64 :=
  let ws := (s.sto.units.map fun u => match u.2 with
    | some w => if w.part == n && w.use == .pages then w.pages.length else 0
    | none => 0).sum
  pack [(32, (s.sto.pkgPart.filter fun p => p.2 == n + 1).length), (0, ws)]

/-! ### Security (15 R405, R415, R426) -/

/-- KEY_SLOT[k] (15 R415). -/
def State.keySlot (s : State) (k : Nat) : W64 := match Tab.get none s.sec.keys k with
  | some x => pack [(31, 1), (30, b2n x.attested), (16, x.part)]
  | none => 0

/-- FW_STATUS (15 R426): an FW_LOAD ends with its command. -/
def State.fwStatus (s : State) : W64 :=
  let c := s.sec
  pack [(31, b2n c.transition), (30, b2n c.staged), (28, c.active), (8, c.lastResult), (0, if c.transition then 64 - popc64 c.swapped else 0)]

/-- ATT_STATE (15 R426). -/
def State.attState (s : State) : W64 := pack [(32, s.sec.reportGen), (8, s.sec.mode), (2, b2n s.latch.debugRead)]

/-- A mailbox channel by its key. -/
def State.mbx (s : State) (c : Nat) : Mbx := Tab.get {} s.sec.mbx c
/-- Change a mailbox channel. -/
def State.modMbx (s : State) (c : Nat) (g : Mbx → Mbx) : State :=
  s.modSec fun x => { x with mbx := Tab.set {} x.mbx c (g (s.mbx c)) }

/-- MBX_STATUS (15 R405) of the channel with key `c`; DOE_PEND on secure channels 4 to 7 (R417). -/
def State.mbxStatus (s : State) (c : Nat) : W64 :=
  let m := s.mbx c
  pack [(31, b2n m.reqFull), (30, b2n m.rspFull), (29, b2n m.awake),
    (28, b2n (12 ≤ c && (s.func (pfKey (c - 12))).doe.pending)), (0, if m.rspFull then m.rspLen else 0)]

/-- MBX_RSP_STATUS (15 R405). -/
def Mbx.rspStatus (m : Mbx) : W64 :=
  pack [(31, b2n m.rspFull), (16, if m.rspFull then m.rspLen else 0), (8, m.badlen), (0, m.aborts)]

/-- MBX_RCV_STATUS (17 R448). -/
def Mbx.rcvStatus (m : Mbx) : W64 :=
  pack [(31, b2n m.reqFull), (30, b2n m.rspFull), (16, if m.reqFull then m.cap.length else 0)]

/-! ### Counters (16 R430, R435 to R437, R442) -/

/-- The count of an event that the manual's table does not list (16 R430): zero at power-on, it only rises, by what is free,
as time passes, and sticks at 2^64 - 1. -/
def otherCount (e era : Nat) : Nat → Nat
  | 0 => 0
  | i + 1 => satAdd (2 ^ 64 - 1) (otherCount e era i) (Config.otherEventAdds e era i)

/-- CNT[e] (16 R430, R432): zero where there is no event. -/
def State.cntValue (s : State) (e : Nat) : W64 :=
  if !cntDefined e then 0
  else BitVec.ofNat 64 (match eventInfo e with
    | some _ => Tab.get 0 s.cnt.cnt e
    | none => otherCount e s.cnt.era s.cnt.ticks16)

/-- A count rounded down to a multiple of 1,024 (16 R435, R437). -/
def rounded (v : W64) : W64 := v &&& ones 63 10

/-- What a PF that is not the Operator PF reads as CNT[e] (16 R435): power events read zero. -/
def State.cntRounded (s : State) (e : Nat) : W64 := if bit (cntInfo e) 1 then 0 else rounded (s.cntValue e)

/-- VF_CNT[i] as VF `n` reads it (16 R437). -/
def State.vfCntRead (s : State) (n i : Nat) : W64 :=
  if bit (Tab.get 0 s.cnt.permit (n / 64)) (n % 64) then rounded (BitVec.ofNat 64 (Tab.get 0 (s.func n).cnt i)) else 0

/-- CNT_VF_VIEW (16 R442). -/
def State.vfCntView (s : State) : W64 :=
  BitVec.ofNat 64 (Tab.get 0 (s.func (fld s.cnt.vfSel 9 0)).cnt (fld s.cnt.vfSel 20 16))

end Sys2Proof.Machine
end

