-- ==== Sys2Proof/Machine/Resets.lean ====
section
/-! DEFINITION. Resets (13_faults_recovery.md R369 to R371) and crash dumps over the lamplighter path, with the test
access port (R374 to R377; 15 R429). -/

namespace Sys2Proof.Machine

/-! ### What a dump holds (R375) -/

/-- The partition's queues, as keys: those of VFs bound to it that are not ABSENT. -/
def State.partQueues (s : State) (n : Nat) : List Nat :=
  s.queues.filterMap fun e => if e.2.st != .absent && s.partOf (e.1 / 64) == n then some e.1 else none

/-- Records of a partition that are not EMPTY. -/
def State.partRecords (s : State) (n : Nat) : List Nat :=
  s.tasks.filterMap fun e => if e.2.st != .empty && e.2.part == n && e.2.kind != .admin then some e.1 else none

/-- Waypoints that outstanding WAITs of a partition's tasks name. -/
def State.waitedOn (s : State) (n : Nat) : List Nat :=
  ((s.partRecords n).flatMap fun r => (s.task r).win.filterMap fun e => match e.2 with
    | some o => (match o.kind with
      | .wait h _ => some (wpIndex h)
      | _ => none)
    | none => none).foldl (fun l i => if l.contains i then l else insertRising l i) []

/-- The fields of one section entry. -/
def fieldsOf (sec : Nat) (fs : List Nat) (i : Nat) : List DField := fs.map fun f => ⟨sec, i, f⟩

/-- Offsets of the registers of a block, 8 bytes apart. -/
def offs (n : Nat) : List Nat := (List.range n).map (8 * ·)

/-- Sections 1 to 9 of a partition, in order (R375). -/
def State.dumpPart (s : State) (n : Nat) : List DField :=
  let ps := s.portsOf n
  let qs := (s.partQueues n).map fun k => (s.queue k).pool
  fieldsOf 1 (offs 12) n ++
  (ps.map fun k => ⟨2, 2 ^ 24 + k, 0⟩) ++ ((s.banksOf n).map fun b => ⟨2, 4 * 2 ^ 24 + b, 0⟩) ++ (qs.map fun i => ⟨2, i, 0⟩) ++
  qs.flatMap (fieldsOf 3 (offs 16 ++ [0x100, 0x101])) ++
  (s.partRecords n).flatMap (fieldsOf 4 [0, 1, 2, 3, 4]) ++
  ((s.partRecords n).filterMap fun r => (s.task r).thread).flatMap (fieldsOf 5 [0, 1, 2]) ++
  ps.flatMap (fieldsOf 6 [0, 1, 2, 3, 4, 6, 7]) ++
  ps.flatMap (fieldsOf 7 (List.range 64)) ++
  fieldsOf 8 [0, 1, 2, 3] n ++
  (s.waitedOn n).flatMap (fieldsOf 9 [0, 1, 2])

/-- The fields of a dump of scope `sc`, a partition, or 0xFF for the whole VAI; section 10 comes last. -/
def State.dumpFields (s : State) (sc : Nat) : List DField :=
  (if sc = 0xFF then ((List.range 64).filter s.enabled).flatMap s.dumpPart else s.dumpPart sc) ++
    (List.range 16).flatMap (fieldsOf 10 [0, 1, 2])

/-- Occupied window slots, one bit each (DEDUCED, log 60). -/
def Task.slotMap (t : Task) : W64 := t.win.foldl (fun v e => if e.2.isSome then setBit v e.1 else v) 0

/-- The record whose task runs on a thread. -/
def State.threadTask (s : State) (th : Nat) : Option Nat :=
  s.tasks.findSome? fun e => if e.2.thread == some th then some e.1 else none

/-- The task of MTU `m`'s current operation: the one that started first (DESIGN CHOICE, log 61); zero when idle. -/
def State.mtuTask (s : State) (m : Nat) : Nat :=
  let l := s.tasks.flatMap fun e => e.2.win.filterMap fun w => match w.2 with
    | some o => if o.mtu == some m then some (o.began, taskId e.1 e.2.gen) else none
    | none => none
  match least (l.map (·.1)) with
  | some b => ((l.find? fun x => x.1 == b).map (·.2)).getD 0
  | none => 0

/-- The credits that the task of record `r` holds, by kind (R375; 01 R19): of MTUs, of engine ports for its dispatches, of
ring slots for what it enqueues, and references to objects. -/
def State.creditsOf (s : State) (r : Nat) : List Nat :=
  let t := s.task r
  let ports := ((s.part t.part).seqr.filter fun d => match d.owner with
    | .task q gen _ => q == r && gen == t.gen
    | .convoy => false).map fun d => (d.lps.map fun l => l.offered - l.accepted).sum
  [(t.win.filter fun e => (e.2.map fun o => o.mtu.isSome).getD false).length, ports.sum,
    (t.staged.filter fun e => match e.2 with
      | .enq .. => true
      | _ => false).length, t.refs.length]

/-- The value of a field (R375); `scan` is what latches show that hold a handshake phase or an engine's scan word. -/
def State.fieldValue (s : State) (scan : W64) (d : DField) : W64 :=
  let i := d.index
  let nat (v : Nat) : W64 := BitVec.ofNat 64 v
  match d.sec with
  | 1 => ((s.partReg i d.field).map (·.2)).getD 0
  | 2 => s.ledgerView (BitVec.ofNat 32 i)
  | 3 => match List.find? (fun (e : Nat × Queue) => e.2.st != .absent && e.2.pool == i) s.queues with
    | some e => if d.field = 0x100 then nat e.2.expSeq else if d.field = 0x101 then nat e.2.credHeld
        else ((s.qReg e.1 d.field).map (·.2)).getD 0
    | none => 0
  | 4 =>
    let t := s.task i
    match d.field with
    | 0 => Config.dumpPack 4 0 [match t.st with
        | .empty => 0
        | .admitted => 1
        | .running => 2
        | .committing => 3
        | .retired => 4
        | .killed => 5, t.gen]
    | 1 => Config.dumpPack 4 1 [t.q, t.seq]
    | 2 => nat t.ctx.pc
    | 3 => t.slotMap
    | _ => Config.dumpPack 4 4 (s.creditsOf i)
  | 5 => match s.threadTask i with
    | some r => (match d.field with
      | 0 => nat (taskId r (s.task r).gen)
      | 1 => nat (s.task r).ctx.pc
      | _ => nat (s.task r).stall.code)
    | none => 0
  | 6 =>
    let e := s.eport i
    match d.field with
    | 0 => e.status
    | 1 => nat e.held
    | 2 => nat e.lastTag
    | 6 => e.lastRet.setWidth 64
    | 7 => (e.lastRet >>> 64).setWidth 64
    | _ => scan
  | 8 =>
    let c := (s.part i).cvy
    match d.field with
    | 0 => c.stateReg
    | 1 => c.filtReg
    | 2 => nat c.num
    | _ => nat ((c.run.map List.length).getD 0)
  | 9 =>
    let w := s.wp i
    match d.field with
    | 0 => w.value
    | 1 => Config.dumpPack 9 1 [w.gen, b2n w.live]
    | _ => nat (s.wps.lans.filter fun l => l.idx == i).length
  | 10 => match d.field with
    | 0 => nat (s.mtuHeld i)
    | 1 => nat (s.mtuTask i)
    | _ => scan
  | _ => scan

/-! ### Running a dump (R374, R376, R377) -/

/-- A write of the dump through the Operator PF's host port (R376): the state, and whether it was written. -/
def State.dumpWrite (s : State) (off : Nat) (b : List Byte) : State × Bool := match s.boot.operator with
  | some p =>
    let sp : Space := { port := p, fk := pfKey p, pasid := if bit s.rcv.dumpCfg 28 then some (fld s.rcv.dumpCfg 51 32) else none }
    s.ownWrite sp ((s.rcv.dumpAddr &&& ones 63 12).toNat + off) b
  | none => (s, false)

/-- The 64-byte header (R376). -/
def State.dumpHeader (s : State) : List Byte :=
  let x := s.rcv
  leBytes 4 0x44504D31 ++ leBytes 2 1 ++ leBytes 1 x.dumpScope ++ leBytes 1 x.dumpCause ++ leBytes 4 x.dumpRecords ++
  leBytes 4 x.dumpWithheld ++ leBytes 8 (x.dumpFoldB * 2 ^ 32 + x.dumpFoldA) ++
  leBytes 2 (if x.dumpScope = 0xFF then 0 else (s.part x.dumpScope).pgen) ++ leBytes 38 0

/-- DUMP_CFG enables a buffer (R377). -/
def Rcv.dumpOn (x : Rcv) : Bool := bit x.dumpCfg 24 && fld x.dumpCfg 19 0 != 0

/-- Start a dump (R375, R377): ENABLE 0 or an empty buffer ends it at once with RESULT 4. -/
def State.startDump (s : State) (scope cause : Nat) : State :=
  let x : Rcv := { s.rcv with
    dumpRecords := 0, dumpWithheld := 0, dumpScope := scope, dumpCause := cause, dumpFoldA := 0, dumpFoldB := 0 }
  if x.dumpOn then { s with rcv := { x with dumpBusy := true, dumpResult := 0, dumpTodo := s.dumpFields scope } }
  else { s with rcv := { x with dumpResult := 4 } }

/-- The dump phase of a reset ends (R370, R377). -/
def Rcv.dumpOver (x : Rcv) : Rcv := if x.phase = 1 then { x with phase := 2 } else x

/-- Scope of the reset in progress, as in a dump header. -/
def Rcv.scope (x : Rcv) : Nat := if x.whole then 0xFF else x.part

/-- The dump that a reset takes in its dump phase (R370, R377): after the one that runs, if one does. -/
def State.resetDump (s : State) : State :=
  if s.rcv.dumpBusy then s.modRcv fun x => { x with dumpNext := true }
  else
    let s := (s.startDump s.rcv.scope (if s.rcv.auto then 2 else 1)).modRcv fun x => { x with dumpNext := false }
    if s.rcv.dumpBusy then s else s.modRcv Rcv.dumpOver

/-- A dump ends with a result; what waits for it goes on. -/
def State.endDump (s : State) (result : Nat) : State :=
  let s := s.modRcv fun x => { x with dumpBusy := false, dumpResult := result, dumpTodo := [] }
  if s.rcv.dumpNext then s.resetDump
  else if s.rcv.dumpCause = 0 then s else s.modRcv Rcv.dumpOver

/-- Write the header and end (R376). -/
def State.closeDump (s : State) (result : Nat) : State := match s.dumpWrite 0 s.dumpHeader with
  | (u, true) => u.endDump result
  | (u, false) => u.endDump 3

/-- One record (R374, R376): field `d` with its value, valid or withheld. -/
def State.dumpRecord (s : State) (d : DField) (rest : List DField) (v : W64) (withheld : Bool) : State :=
  let x := s.rcv
  if fld x.dumpCfg 19 0 * 4096 < 0x40 + 16 * (x.dumpRecords + 1) then s.closeDump 2
  else
    let b := leBytes 4 d.index ++ leBytes 2 d.field ++ leBytes 1 d.sec ++ leBytes 1 (b2n withheld) ++ leBytes 8 v.toNat
    match s.dumpWrite (0x40 + 16 * x.dumpRecords) b with
    | (u, false) => u.endDump 3
    | (u, true) =>
      let f := foldWords 4 b x.dumpFoldA x.dumpFoldB
      let u := u.modRcv fun x => { x with
        dumpRecords := x.dumpRecords + 1, dumpWithheld := x.dumpWithheld + b2n withheld
        dumpFoldA := f.1, dumpFoldB := f.2, dumpTodo := rest }
      if rest.isEmpty then u.closeDump 1 else u

/-- The next field of the dump that runs. -/
def State.dumpNextField (s : State) (g : DField → W64 × Bool) : State :=
  if !s.rcv.dumpBusy then s
  else match s.rcv.dumpTodo with
    | [] => s.closeDump 1
    | d :: rest => s.dumpRecord d rest (g d).1 (g d).2

/-- DUMP_FIELD_READ (R374): the field is valid; `scan` is what its latches show. -/
def execDumpFieldRead (scan : W64) (s : State) : Host.Outcome State Fault Refusal :=
  done s (s.dumpNextField fun d => (s.fieldValue scan d, false))

/-- DUMP_FIELD_WAIT_EXPIRY (R374): the field is withheld. -/
def execDumpFieldWaitExpiry (s : State) : Host.Outcome State Fault Refusal :=
  done s (s.dumpNextField fun _ => (0, true))

/-- DUMP_CTRL's stored fields (R378). -/
def dumpFieldsRw : W64 := ones 16 8 ||| ones 5 0

/-- A write to DUMP_CTRL (R377): a GO while BUSY is discarded. -/
def State.dumpSet (s : State) (v mask : W64) : State :=
  let s := s.modRcv fun x => { x with dumpCtrl := (merge (x.dumpCtrl.setWidth 64) v (mask &&& dumpFieldsRw)).setWidth 32 }
  if bit (v &&& mask) 31 && !s.rcv.dumpBusy then
    s.startDump (if bit s.rcv.dumpCtrl 16 then 0xFF else fld s.rcv.dumpCtrl 5 0) 0
  else s

/-- DUMP_GO (R377): a write to DUMP_CTRL by PF `p`. -/
def execDumpGo (p : Nat) (v : W64) (s : State) : Host.Outcome State Fault Refusal :=
  done s (s.opWrite p 0x200010 fun t => t.dumpSet v allBits)

/-- TAP_READ (R374; 15 R420, R429): one field through the test access port; the first read sets DEBUG_READ. Whether the
field is valid, and what its latches show, are free. -/
def execTapRead (sec index field : Nat) (s : State) : Host.Outcome State Fault Refusal :=
  let ok := Config.tapValid s.freeCtr
  let v := s.fieldValue (Config.scanned s.freeCtr) ⟨sec, index, field⟩
  let t := s.nextFree.send (.tapData (!ok) (if ok then v else 0))
  doneL s (if s.latch.debugRead then t else ({ t with latch := { t.latch with debugRead := true } }).bumpReport)

/-! ### Resets (R369 to R371) -/

/-- Begin a reset of a partition, or of the whole VAI, which acts in every partition (R369 to R371; 15 R420): the
RESETTING bit of a disabled partition is set too, and its STATE stays 0 (DEDUCED, log 128). -/
def State.beginReset (s : State) (whole : Bool) (n : Nat) (auto dump : Bool) : State :=
  let s := s.modRcv fun x => { x with whole := whole, part := if whole then 0 else n, auto := auto, result := 0, phase := if dump then 1 else 2 }
  let s := (s.each (if whole then List.range 64 else [n]) fun u k => u.modPart k fun p => { p with resetting := true }).bumpReport
  if dump then s.resetDump else s

/-- RST_CTRL's stored fields (R378). -/
def rstFieldsRw : W64 := ones 17 16 ||| ones 5 0

/-- A write to RST_CTRL (R369). -/
def State.resetSet (s : State) (v mask : W64) : State :=
  let s := s.modRcv fun x => { x with rstCtrl := (merge (x.rstCtrl.setWidth 64) v (mask &&& rstFieldsRw)).setWidth 32 }
  let n := fld s.rcv.rstCtrl 5 0
  let whole := bit s.rcv.rstCtrl 16
  if !bit (v &&& mask) 31 then s
  else if s.rcv.phase ≠ 0 then s.modRcv fun x => { x with result := 2 }
  else if !whole && !s.enabled n then s.modRcv fun x => { x with result := 3 }
  else s.beginReset whole n false (bit s.rcv.rstCtrl 17)

/-- RESET_GO (R369): a write to RST_CTRL by PF `p`. -/
def execResetGo (p : Nat) (v : W64) (s : State) : Host.Outcome State Fault Refusal :=
  done s (s.opWrite p 0x50000 fun t => t.resetSet v allBits)

/-- Ports of a partition whose retirement waits for a reset's dump (R365) retire. -/
def State.retireDue (s : State) (l : List Nat) : State :=
  let ks := s.rcv.portRet.filter fun k => match s.portPart k with
    | some n => l.contains n
    | none => true
  (s.modRcv fun x => { x with portRet := x.portRet.filter fun k => !ks.contains k }).each ks State.retirePort

/-- RESET_AUTO_START (R369, R370): the next automatic reset starts once no reset runs; one of a partition that is no
longer enabled is dropped. -/
def execResetAutoStart (s : State) : Host.Outcome State Fault Refusal :=
  done s (if s.rcv.phase ≠ 0 then s
    else match s.rcv.waiting with
      | [] => s
      | n :: rest =>
        let s := s.modRcv fun x => { x with waiting := rest }
        if s.enabled n then s.beginReset false n true (bit s.rcv.dumpCfg 25) else s.retireDue [n])

/-- The slice of a partition ends with a reset (R370): its job waits anew; the reset takes over from a drain (08 R228). -/
def State.stopSlice (s : State) (n : Nat) : State :=
  (s.modPart n fun p => { p with
    jobs := p.jobs.map fun x => if p.running && p.job == some x.job then { x with since := s.stamp } else x
    running := false, draining := false, job := none, clearWait := false, chosen := none }).nextStamp

/-- RESET_KILL_PHASE (R370): the ports that the dump waited for retire, the slices end, and every RUNNING task of the
domain is killed for rerun. -/
def execResetKillPhase (s : State) : Host.Outcome State Fault Refusal :=
  done s (if s.rcv.phase ≠ 2 then s
    else
      let l := s.domain
      let s := (s.retireDue l).each l State.stopSlice
      ((s.recsWhere fun t => l.contains t.part && t.st == .running && t.kind != .admin).foldl State.killRerun s).modRcv fun x => { x with phase := 3 })

/-- Clear the domain, its partitions and then the ports that any of them names (R370, R371; 07 R199). A port that still
clears is reset too: its CLEAR_DONE would carry the old PGEN (DEDUCED, log 62). -/
def State.clearDomain (s : State) : State :=
  let s := s.each s.domain fun u n =>
    (u.modPart n fun p => { p with pgen := (p.pgen + 1) % 65536, wsValid := false }).dropConvoy n
  s.each ((s.domain.flatMap s.portsOf).dedup.filter fun k =>
    (s.eport k).enable && !(s.eport k).retired && ((s.eport k).identified || (s.eport k).clearing) && !s.rcv.portRet.contains k)
    State.resetPort

/-- RESET_CLEAR_PHASE (R370, R371): once the domain has drained. A whole reset also reinitialises the shared units. -/
def execResetClearPhase (s : State) : Host.Outcome State Fault Refusal :=
  done s (if s.rcv.phase == 3 && s.domain.all s.drainOver then
      let s := s.clearDomain.modRcv fun x => { x with phase := 4 }
      if s.rcv.whole then { s with dbell := {}, fetch := {}, suTurn := [] } else s
    else s)

/-- The drained records of a domain that a kill for rerun left; their places among the reruns were fixed by the kills
(R367). -/
def State.rerunsOf (s : State) (l : List Nat) : List Nat :=
  s.recsWhere fun t => t.st == .killed && t.after == some .rerun && l.contains t.part && t.drained

/-- A port of a partition still clears: CLEAR_DONE is awaited. -/
def State.clearsLeft (s : State) (n : Nat) : Bool :=
  (s.portsOf n).any fun k => (s.eport k).clearing && !(s.eport k).retired && !s.rcv.portRet.contains k

/-- RESET_RESTART_PHASE (R370; 15 R424): reruns are admitted and the reset ends, which is a slice boundary of its
partitions: a resize step that is due is made, and then a firmware switch (08 R228). -/
def execResetRestartPhase (s : State) : Host.Outcome State Fault Refusal :=
  done s (if s.rcv.phase == 4 && !(s.domain.any s.clearsLeft) then
      let l := s.domain
      let g := s.sec.reportGen
      let s := (s.rerunsOf l).foldl State.rerun s
      let s := s.each l fun u n => u.modPart n fun p => { p with resetting := false }
      let s := (s.modRcv fun x => { x with
        phase := 0, result := 1
        nWhole := if x.whole then (x.nWhole + 1) % 2 ^ 32 else x.nWhole
        nPart := if x.whole then x.nPart else (x.nPart + 1) % 2 ^ 32 }).each l State.resizeAt
      (if (s.toSwitch l).isEmpty then s else s.fwSwitch (s.toSwitch l)).bumpReport.oneBump g
    else s)

end Sys2Proof.Machine
end

