-- ==== Sys2Proof/Machine/Security.lean ====
section
/-! DEFINITION. The root of trust's boundary (15_security_attestation.md, 17 R447 to R450): mailbox channels, secure and
non-secure commands, key slots, firmware banks and their transition, the SPDM relay and the attestation state window.
A channel's key is its number for a non-secure channel and 8 more for a secure one. -/

namespace Sys2Proof.Machine

/-! ### Mailbox channels (R404 to R409; 17 R448, R449) -/

/-- The channel that a requester's window and channel number name, and whether its accesses come from a PF. -/
def mbxKey : Window → Nat → Nat
  | .rot, c => 8 + c
  | _, c => c

/-- An access by a requester to channel `c` (R404, R405): the Operator PF's to a non-secure channel, the root of trust's
to a secure one. A PF without the right is refused. -/
def State.asRequester (s : State) (w : Window) (c off : Nat) (g : State → State) : State :=
  if 8 ≤ c then s
  else match w with
    | .pf p => s.opWrite p off g
    | .rot => g s
    | .vf _ _ => s

/-- Offset of a register of non-secure channel `c`'s block in PF BAR0. -/
def mbxOff (c r : Nat) : Nat := 0x40000 + c * 0x100 + r

/-- A write to a full request buffer: a bus error, counted in ABORTS (R406). -/
def State.mbxAbort (s : State) (w : Window) (k : Nat) : State :=
  (s.modMbx k fun m => { m with aborts := satAdd 0xFF m.aborts 1 }).send (.busError w)

/-- The first `n` words of a buffer. -/
def mbxWords (t : Tab W32) (n : Nat) : List W32 := (List.range n).map fun i => Tab.get 0 t i

/-- A buffer with the words of a list from word 0 on. -/
def mbxPut (t : Tab W32) (l : List W32) : Tab W32 := (List.range l.length).foldl (fun (u : Tab W32) i => Tab.set 0 u i (l.getD i 0)) t

/-- A write to MBX_CTRL of the channel with key `k` (R406): GO captures the words and wakes the receiver; for a
non-secure channel that raises line 8 + c of the root of trust (17 R449). -/
def State.mbxCtrl (s : State) (w : Window) (k : Nat) (v : W64) : State :=
  let m := s.mbx k
  let n := fld v 4 0
  if m.reqFull then s.mbxAbort w k
  else if !bit v 31 then s
  else if n < 8 ∨ 16 < n then s.modMbx k fun m => { m with badlen := satAdd 0xFF m.badlen 1 }
  else
    let s := s.modMbx k fun m => { m with cap := mbxWords m.req n, reqFull := true, awake := true }
    if k < 8 then s.send (.rotIrq (8 + k)) else s

/-- MBX_GO (R406): a requester's write to MBX_CTRL. -/
def execMbxGo (w : Window) (c : Nat) (v : W64) (s : State) : Host.Outcome State Fault Refusal :=
  done s (s.asRequester w c (mbxOff c 0x40) fun t => t.mbxCtrl w (mbxKey w c) v)

/-- The requester's read of MBX_RSP_STATUS has been answered: its RC fields clear (R407). -/
def State.mbxRspTaken (s : State) (k : Nat) : State :=
  s.modMbx k fun m => { m with rspFull := false, badlen := 0, aborts := 0 }

/-- A PF's access that needs the Operator PF, as a read: a refused one is counted (02 R65) and reads zero. -/
def State.opRead (s : State) (p : Nat) (g : State → State) : State :=
  if !(s.func (pfKey p)).linkUp then s else if s.isOp p then g s else (s.denied p).send (.readData 0)

/-- MBX_RSP_STATUS_READ (R407). -/
def execMbxRspStatusRead (w : Window) (c : Nat) (s : State) : Host.Outcome State Fault Refusal :=
  let k := mbxKey w c
  let g (t : State) : State := (t.mbxRspTaken k).send (.readData (t.mbx k).rspStatus)
  done s (if 8 ≤ c then s
    else match w with
      | .pf p => s.opRead p g
      | .rot => g s
      | .vf _ _ => s)

/-- The receiver takes the held request (R407). -/
def State.mbxTake (s : State) (k : Nat) : State :=
  if (s.mbx k).reqFull then s.modMbx k fun m => { m with reqFull := false, taken := m.taken ++ [m.cap] } else s

/-- MBX_RCV_STATUS_READ (R407): by the root of trust on a non-secure channel, by the VAI's receiver on a secure one. -/
def execMbxRcvStatusRead (c : Nat) (s : State) : Host.Outcome State Fault Refusal :=
  done s (if 16 ≤ c then s else if c < 8 then (s.mbxTake c).send (.readData (s.mbx c).rcvStatus) else s.mbxTake c)

/-- A responder writes a response (R407): words, RSP_FULL, RSP_LEN, and the requester's lantern: an MSI-X message of the
Operator PF, or line c of the root of trust. The oldest taken request is answered (R404). -/
def State.respond (s : State) (k : Nat) (l : List W32) : State :=
  let s := s.modMbx k fun m => { m with rsp := mbxPut m.rsp l, rspFull := true, rspLen := l.length, awake := true, taken := m.taken.tail }
  let q := (s.mbx k).irq
  if !bit q 8 then s
  else if k < 8 then match s.boot.operator with
    | some p => s.signalVec (pfKey p) (fld q 3 0)
    | none => s
  else s.send (.rotIrq (k - 8))

/-- A write to MBX_RCV_CTRL (17 R449): refused with a bus error while RSP_FULL is 1. -/
def State.mbxRcvCtrl (s : State) (c : Nat) (v : W64) : State :=
  let m := s.mbx c
  let n := fld v 4 0
  if m.rspFull then s.send (.busError .rot)
  else if !bit v 31 then s
  else if n < 8 ∨ 16 < n then s.modMbx c fun m => { m with badlen := satAdd 0xFF m.badlen 1 }
  else s.respond c (mbxWords m.rcvRsp n)

/-- MBX_RCV_GO (17 R449). -/
def execMbxRcvGo (c : Nat) (v : W64) (s : State) : Host.Outcome State Fault Refusal :=
  done s (if c < 8 then s.mbxRcvCtrl c v else s)

/-- MAILBOX_POWER_DOWN (R408): both buffers of the channel are empty. -/
def execMailboxPowerDown (c : Nat) (s : State) : Host.Outcome State Fault Refusal :=
  done s (if c < 16 && !(s.mbx c).reqFull && !(s.mbx c).rspFull then s.modMbx c fun m => { m with awake := false } else s)

/-! ### Commands (R410 to R412) -/

/-- Word `i` of a request; a word that was not sent reads as zero. -/
def reqWord (l : List W32) (i : Nat) : W32 := l.getD i 0

/-- OP of a request. -/
def reqOp (l : List W32) : Nat := fld (reqWord l 0) 31 24

/-- Word 0 has its layout, the words from `n` on are zero, and at least `n` words were sent (R410). -/
def reqOk (l : List W32) (n : Nat) : Bool := fld (reqWord l 0) 15 0 == 0 && n ≤ l.length && (l.drop n).all fun w => w == 0

/-- A response of `n` words to a request: OP, TAG and RESULT in word 0, then the words `l` (R410). -/
def rspWords (req : List W32) (n result : Nat) (l : List W32) : List W32 :=
  (BitVec.ofNat 32 (fld (reqWord req 0) 31 16 * 2 ^ 16 + result) :: l ++ List.replicate (n - 1 - l.length) 0).take n

/-- OPs valid on the channel with key `k` (R411). -/
def opValid (k op : Nat) : Bool :=
  if k < 8 then 0x20 ≤ op && op ≤ 0x25 else if k < 12 then 1 ≤ op && op ≤ 6 else op == 0x7F

/-- Whether OP is a firmware command, whose RESULT FW_STATUS shows (R426). -/
def fwOp (op : Nat) : Bool := op == 2 || op == 3 || op == 0x20 || op == 0x21 || op == 0x22

/-- Answer a request: the state after the command's effect, its RESULT and response words (R410). -/
def State.answer (s : State) (k : Nat) (req : List W32) (x : State × Nat × List W32) : State :=
  let n := if reqOp req = 2 ∧ 8 ≤ k then 13 else 8
  let u := if fwOp (reqOp req) then x.1.modSec fun c => { c with lastResult := x.2.1 } else x.1
  let u := if k < 8 then u.modMbx k fun m => { m with rcvRsp := mbxPut m.rcvRsp (rspWords req n x.2.1 x.2.2) } else u
  if opValid k (reqOp req) then u.respond k (rspWords req n x.2.1 x.2.2) else s.respond k (rspWords req 8 0x01 [])

/-- The receiver of the channel with key `k` carries out the oldest taken request, if it is `op` and the response buffer is
free (R404, R407). `g` is the command's effect and answer; a request that fails `ok` gives BAD_CMD, as does one whose OP is
not valid for the channel. -/
def State.command (s : State) (k op : Nat) (ok : List W32 → Bool) (g : List W32 → State × Nat × List W32) : State :=
  match (s.mbx k).taken with
  | [] => s
  | req :: _ =>
    if (s.mbx k).rspFull then s
    else if reqOp req = op ∨ !opValid k (reqOp req) then
      s.answer k req (if ok req then g req else (s, 0x01, []))
    else s

/-- A command on a secure channel 0 to 3. -/
def State.secure (s : State) (c op : Nat) (ok : List W32 → Bool) (g : List W32 → State × Nat × List W32) : State :=
  if c < 4 then s.command (8 + c) op ok g else s

/-- A command on a non-secure channel. -/
def State.nonSecure (s : State) (c op : Nat) (ok : List W32 → Bool) (g : List W32 → State × Nat × List W32) : State :=
  if c < 8 then s.command c op ok g else s

/-- DESIGNATE (R411; 02 R39, R40; R420). -/
def execDesignate (c : Nat) (s : State) : Host.Outcome State Fault Refusal :=
  done s (s.secure c 0x01 (fun q => reqOk q 2 && (reqWord q 1).toNat < 4) fun q =>
    let p := (reqWord q 1).toNat
    if s.boot.byFuse then (s, 0x02, [])
    else if s.isOp p then (s, 0, [])
    else ((s.modBoot fun b => { b with operator := some p }).bumpReport, 0, []))

/-! ### Firmware (R411, R422 to R425) -/

/-- 64-bit address in two words of a request. -/
def reqAddr (q : List W32) (i : Nat) : Nat := (reqWord q i).toNat + 2 ^ 32 * (reqWord q (i + 1)).toNat

/-- Bytes of package memory. -/
def State.pkgBytes (s : State) (a n : Nat) : List (Option Byte) := s.sto.pkg.readBytes (some 0) a n

/-- The 48 bytes of a digest. -/
def digestBytes (d : Option (BitVec 384)) : List Byte := match d with
  | some v => beBytes 48 v.toNat
  | none => List.replicate 48 0

/-- Bytes packed into words, the first byte lowest (00 R6). -/
def packWords : Nat → List Byte → List W32
  | 0, _ => []
  | n + 1, l => BitVec.ofNat 32 (leAt l 0 4) :: packWords n (l.drop 4)

/-- Bank `b` runs (R411): it is the active one once firmware is ready, and both run during a transition. -/
def State.bankRuns (s : State) (b : Nat) : Bool := s.latch.fwReady && (s.sec.transition || s.sec.active == b)

/-- FW_LOAD (R411, R422): a component is copied into a bank and hashed. A poisoned image loads nothing. -/
def execFwLoad (c : Nat) (s : State) : Host.Outcome State Fault Refusal :=
  let ok (q : List W32) : Bool :=
    reqOk q 5 && (reqWord q 1 &&& 0xFFFFFEFC#32) == 0 && fld (reqWord q 1) 1 0 != 3 && reqAddr q 2 % 4096 == 0 &&
    1 ≤ (reqWord q 4).toNat && (reqWord q 4).toNat ≤ 4194304
  done s (s.secure c 0x02 ok fun q =>
    let b := fld (reqWord q 1) 8 8
    if s.bankRuns b then (s, 0x03, [])
    else
      let l := s.pkgBytes (reqAddr q 2) (reqWord q 4).toNat
      if l.any Option.isNone then (s, 0x08, [])
      else
        let d := sha384 (plain l)
        (s.modSec fun x => { x with fw := Tab.set none x.fw (b * 4 + fld (reqWord q 1) 1 0) (some d) }, 0, packWords 12 (digestBytes (some d))))

/-- Start the transition to the other bank (R424): disabled partitions and those without a running slice switch at once. -/
def State.activate (s : State) : State :=
  let t := s.modSec fun x => { x with transition := true }
  (t.fwSwitch (t.toSwitch ((List.range 64).filter fun n => !s.enabled n || !(s.part n).running))).bumpReport

/-- FW_ARM (R411, R424): before FW_READY the bank becomes active and every selector names it (R422); afterwards it starts a transition. -/
def execFwArm (c : Nat) (s : State) : Host.Outcome State Fault Refusal :=
  doneL s (s.secure c 0x03 (fun q => reqOk q 2 && (reqWord q 1 &&& 0xFFFFFEFF#32) == 0) fun q =>
    let b := fld (reqWord q 1) 8 8
    if !s.latch.fwReady then
      let t := { s with latch := { s.latch with fwReady := true } }.modSec fun x => { x with active := b }
      ((t.each (List.range 64) fun u n => u.modPart n fun p => { p with fwSel := b }).bumpReport, 0, [])
    else if s.sec.transition || s.sec.active == b then (s, 0x03, [])
    else (s.activate, 0, []))

/-- A range of package memory lies in PORT_DEVMEM of the Operator PF's host port (R411). -/
def State.inDevmem (s : State) (a n : Nat) : Bool := match s.boot.operator with
  | some p =>
    let b := (Tab.get 0 s.objs.devmemBase p).toNat
    b ≤ a && a + n ≤ b + (Tab.get 0 s.objs.devmemSize p).toNat * 65536
  | none => false

/-- Empty a firmware bank. -/
def State.emptyBank (s : State) (b : Nat) : State := s.modSec fun x => { x with fw := x.fw.filter fun e => e.1 / 4 != b }

/-- FW_STAGE (R423): `a` is what the root of trust finds in the package. Its components have been loaded with FW_LOAD;
one that is missing is a digest that does not hold. -/
def execFwStage (c : Nat) (a : StageAnswer) (s : State) : Host.Outcome State Fault Refusal :=
  let b := 1 - s.sec.active
  done s (s.nonSecure c 0x20 (fun q => reqOk q 4 && 1 ≤ (reqWord q 3).toNat) fun q =>
    if s.sec.staged || s.sec.transition then (s, 0x03, [])
    else if !s.inDevmem (reqAddr q 1) (reqWord q 3).toNat then (s, 0x02, [])
    else if !a.imageOk then (s, 0x08, [])
    else if !(a.digestsOk && [0, 1, 2].all fun i => (s.fwDigest b i).isSome) then (s.emptyBank b, 0x08, [])
    else ((s.modSec fun x => { x with staged := true, pkgVersion := a.version }).bumpReport, 0, []))

/-- FW_ACTIVATE (R424). -/
def execFwActivate (c : Nat) (s : State) : Host.Outcome State Fault Refusal :=
  done s (s.nonSecure c 0x21 (fun q => reqOk q 1) fun _ =>
    if s.sec.staged && !s.sec.transition then (s.activate, 0, []) else (s, 0x03, []))

/-- FW_DISCARD (R411, R420). -/
def execFwDiscard (c : Nat) (s : State) : Host.Outcome State Fault Refusal :=
  done s (s.nonSecure c 0x22 (fun q => reqOk q 1) fun _ =>
    if s.sec.transition then (s, 0x03, [])
    else if s.sec.staged then (((s.emptyBank (1 - s.sec.active)).modSec fun x => { x with staged := false }).bumpReport, 0, [])
    else (s, 0, []))

/-! ### Keys and modes (R413 to R415, R421) -/

/-- PARTITION and SLOT of a key command. -/
def reqPart (q : List W32) : Nat := fld (reqWord q 1) 21 16
/-- SLOT of a key command. -/
def reqSlot (q : List W32) : Nat := fld (reqWord q 1) 7 0

/-- A key slot is loaded. -/
def State.keyLoaded (s : State) (k : Nat) : Bool := (Tab.get none s.sec.keys k).isSome

/-- Load a key slot. -/
def State.loadKey (s : State) (k : Nat) (x : Key) : State :=
  s.modSec fun c => { c with keys := Tab.set none c.keys k (some x) }

/-- The words of a key, the first lowest. -/
def keyOf (q : List W32) : KeyBits := BitVec.ofNat 256 (leVal ((List.range 8).flatMap fun i => leBytes 4 (reqWord q (2 + i)).toNat))

/-- KEY_LOAD (R411, R414). -/
def execKeyLoad (c : Nat) (s : State) : Host.Outcome State Fault Refusal :=
  done s (s.secure c 0x04 (fun q => reqOk q 10 && (reqWord q 1 &&& 0x7FC0FF00#32) == 0 && reqSlot q != 0) fun q =>
    if !s.enabled (reqPart q) then (s, 0x02, [])
    else if s.keyLoaded (reqSlot q) then (s, 0x03, [])
    else (s.loadKey (reqSlot q) ⟨bit (reqWord q 1) 31, reqPart q, keyOf q⟩, 0, []))

/-- Withdraw one slot (R415). -/
def State.withdrawSlot (s : State) (k : Nat) : State := s.modSec fun c => { c with keys := Tab.set none c.keys k none }

/-- KEY_CLEAR (R415). -/
def execKeyClear (c : Nat) (s : State) : Host.Outcome State Fault Refusal :=
  done s (s.secure c 0x05 (fun q => reqOk q 2 && (reqWord q 1).toNat < 256 && reqSlot q != 0) fun q => (s.withdrawSlot (reqSlot q), 0, []))

/-- KEY_WITHDRAW (R415). -/
def execKeyWithdraw (c : Nat) (s : State) : Host.Outcome State Fault Refusal :=
  done s (s.nonSecure c 0x25 (fun q => reqOk q 2 && (reqWord q 1).toNat < 256 && reqSlot q != 0) fun q => (s.withdrawSlot (reqSlot q), 0, []))

/-- SET_MODE (R413, R415): from START or NORMAL; TEST and RECOVERY are left at power-on only. -/
def execSetMode (c : Nat) (s : State) : Host.Outcome State Fault Refusal :=
  done s (s.secure c 0x06 (fun q => reqOk q 2 && ((reqWord q 1).toNat == 2 || (reqWord q 1).toNat == 3)) fun q =>
    if 2 ≤ s.sec.mode then (s, 0x0A, [])
    else (((s.withdrawKeys fun k => !k.attested).modSec fun x => { x with mode := (reqWord q 1).toNat }).bumpReport, 0, []))

/-- KEY_RELEASE (R415): `key` is the device-set key of SET_ID, none when the device holds none. -/
def execKeyRelease (c : Nat) (key : Option KeyBits) (s : State) : Host.Outcome State Fault Refusal :=
  done s (s.nonSecure c 0x23 (fun q => reqOk q 3 && (reqWord q 1 &&& 0xFFC0FF00#32) == 0 && reqSlot q != 0) fun q =>
    if s.sec.mode ≠ 1 then (s, 0x0A, [])
    else if !s.enabled (reqPart q) then (s, 0x02, [])
    else if s.keyLoaded (reqSlot q) then (s, 0x03, [])
    else match key with
      | none => (s, 0x07, [])
      | some v => (s.loadKey (reqSlot q) ⟨false, reqPart q, v⟩, 0, []))

/-- Unwrap a blob's key (R421): K is bytes 0 to 31 of SHA-384 over Z, REPORT_GEN and the PF, and the wrapped key is decrypted
with AES-256-GCM under it; none when the tag does not match. -/
def unwrapKey (z : BitVec 384) (l : List Byte) : Option KeyBits :=
  let k := (beBytes 48 (sha384 (beBytes 48 z.toNat ++ slice l 0x60 4 ++ slice l 0x64 1)).toNat).take 32
  let x := gcmDecrypt (BitVec.ofNat 256 (leVal k)) (List.replicate 12 0) (slice l 0x60 16) (slice l 0x90 16) (slice l 0x70 32)
  if x.2 then some (BitVec.ofNat 256 (leVal x.1)) else none

/-- KEY_IMPORT's checks from the fourth on (R421), with the ephemeral key pair destroyed: `b` holds the blob. -/
def State.importBlob (s : State) (q : List W32) (b : List (Option Byte)) (z : BitVec 384) : State × Nat × List W32 :=
  let l := plain b
  let f := leAt l 0x64 1
  let held := f < 4 && (s.func (pfKey f)).eph == some s.sec.reportGen
  let t := if f < 4 then s.modFunc (pfKey f) fun x => { x with eph := none } else s
  if b.any Option.isNone || leAt l 0x60 4 != s.sec.reportGen || !held then (t, 0x05, [])
  else if leAt l 0x65 1 ≠ reqPart q then (t, 0x06, [])
  else match unwrapKey z l with
    | none => (t, 0x06, [])
    | some v => if t.keyLoaded (reqSlot q) then (t, 0x03, []) else (t.loadKey (reqSlot q) ⟨true, reqPart q, v⟩, 0, [])

/-- KEY_IMPORT (R421): `z` is the x-coordinate of the ECDH product, which the root of trust computes with the ephemeral
private key that it alone holds (log 129). -/
def execKeyImport (c : Nat) (z : BitVec 384) (s : State) : Host.Outcome State Fault Refusal :=
  done s (s.nonSecure c 0x24 (fun q => reqOk q 4 && (reqWord q 1 &&& 0xFFC0FF00#32) == 0 && reqSlot q != 0) fun q =>
    if !(s.inDevmem (reqAddr q 2) 160 && s.enabled (reqPart q)) then (s, 0x02, [])
    else if s.sec.transition then (s, 0x04, [])
    else if (s.part (reqPart q)).resetting then (s, 0x09, [])
    else s.importBlob q (s.pkgBytes (reqAddr q 2) 160) z)

/-! ### The SPDM relay (R416 to R418) -/

/-- Largest DOE object in bytes (R417). -/
def doeMax : Nat := 4096

/-- The answer to a DOE Discovery object of PCI Express (R416): the entry of the index that the object's third word asks for,
of vendor 0001h, type 0 being Discovery and type 1 SPDM, with the index of the next entry; none beyond them (PRESUMED from
PCI Express, log 130). -/
def discoveryAnswer (b : List Byte) : List Byte :=
  leBytes 4 0x00000001 ++ leBytes 4 3 ++ leBytes 4 (match leAt b 8 1 with
    | 0 => 0x01000001
    | 1 => 0x00010001
    | _ => 0x00FFFFFF)

/-- DOE_GO (R417): the host has written a request object and sets Go. While a request is being relayed a further Go does
nothing. -/
def execDoeGo (p : Nat) (kind : DoeKind) (data : List Byte) (s : State) : Host.Outcome State Fault Refusal :=
  let set (g : Doe → Doe) : State := s.modFunc (pfKey p) fun f => { f with doe := g f.doe }
  done s (if 4 ≤ p || !(s.func (pfKey p)).linkUp || (s.func (pfKey p)).doe.pending then s
    else if doeMax < data.length then set fun d => { d with error := true, req := [], sent := 0 }
    else match kind with
      | .discovery => set fun d => { d with rsp := discoveryAnswer data, ready := true }
      | .spdm => (set fun d => { d with req := data, sent := 0, pending := true, rsp := [], ready := false }).send (.rotIrq (16 + p))
      | .other => s)

/-- DOE_ABORT (R417). -/
def execDoeAbort (p : Nat) (s : State) : Host.Outcome State Fault Refusal :=
  done s (if 4 ≤ p || !(s.func (pfKey p)).linkUp then s
    else s.modFunc (pfKey p) fun f => { f with doe := { aborted := true } })

/-- A FRAGMENT's bytes in its words from word 1 on (R417). -/
def fragBytes (q : List W32) (n : Nat) : List Byte := ((List.range 15).flatMap fun i => leBytes 4 (reqWord q (1 + i)).toNat).take n

/-- The 16 words of a FRAGMENT response (R417). -/
def fragRsp (q : List W32) (last : Bool) (result : Nat) (b : List Byte) : List W32 :=
  BitVec.ofNat 32 (fld (reqWord q 0) 31 16 * 2 ^ 16 + b2n last * 2 ^ 15 + b.length * 2 ^ 8 + result) ::
    packWords 15 (b ++ List.replicate (60 - b.length) 0)

/-- A FRAGMENT request has its layout (R417): unused bits and the bytes beyond BYTES are zero. -/
def fragOk (q : List W32) : Bool :=
  let n := fld (reqWord q 0) 13 8
  fld (reqWord q 0) 7 0 == 0 && fld (reqWord q 0) 14 14 == 0 && n ≤ 60 && 1 + (n + 3) / 4 ≤ q.length &&
  ((fragBytes q 60).drop n).all fun b => b == 0

/-- What one FRAGMENT does to PF `p`'s DOE instance (R417, R418): the state and the response words. -/
def State.relay (s : State) (p : Nat) (q : List W32) : State × List W32 :=
  let d := (s.func (pfKey p)).doe
  let n := fld (reqWord q 0) 13 8
  let set (g : Doe → Doe) : State := s.modFunc (pfKey p) fun f => { f with doe := g f.doe }
  if !fragOk q then (s, fragRsp q false 0x01 [])
  else if d.aborted then (set fun d => { d with aborted := false }, fragRsp q false 0x0B [])
  else if n = 0 then
    if !d.pending then (s, fragRsp q false 0 [])
    else
      let b := (d.req.drop d.sent).take 60
      let last := d.req.length ≤ d.sent + b.length
      (set fun d => { d with sent := d.sent + b.length, pending := !last }, fragRsp q last 0 b)
  else if doeMax < d.rsp.length + n then (set fun d => { d with rsp := [] }, fragRsp q false 0x01 [])
  else
    let r := d.rsp ++ fragBytes q n
    let t := set fun d => { d with rsp := r, ready := bit (reqWord q 0) 15 }
    (if bit (reqWord q 0) 15 && Config.signsBlock10 d.req r then t.modFunc (pfKey p) fun f => { f with eph := some s.sec.reportGen } else t,
     fragRsp q false 0 [])

/-- FRAGMENT (R417): the VAI's mailbox receiver answers the oldest request of secure channel `c`, 4 to 7. -/
def execFragment (c : Nat) (s : State) : Host.Outcome State Fault Refusal :=
  done s (if c < 4 ∨ 8 ≤ c then s
    else match (s.mbx (8 + c)).taken with
      | [] => s
      | q :: _ =>
        if (s.mbx (8 + c)).rspFull then s
        else if reqOp q = 0x7F then (s.relay (c - 4) q).1.respond (8 + c) (s.relay (c - 4) q).2
        else s.respond (8 + c) (rspWords q 8 0x01 []))

/-! ### The attestation state window (R418 to R420; 17 R450) -/

/-- The state block (R419): REPORT_GEN beside what it last changed. -/
def State.stateBlock (s : State) : List Byte :=
  let w := s.sec.shown
  leBytes 4 s.sec.reportGen ++ leBytes 1 w.mode ++
  leBytes 1 (b2n w.transition + 2 * b2n w.staged + 4 * b2n w.debug + 8 * b2n w.byFuse) ++
  leBytes 1 (w.operator.getD 0xFF) ++ leBytes 1 0 ++
  leBytes 8 (max Config.fusedVersion.toNat w.raised + 2 ^ 16 * b2n w.byFuse + 2 ^ 17 * (if w.byFuse then w.operator.getD 0 else 0)) ++
  leBytes 8 w.resetting.toNat ++ leBytes 8 w.swapped.toNat

/-- A partition entry (R419). -/
def PartShown.bytes (p : PartShown) : List Byte :=
  leBytes 1 p.st ++ leBytes 1 p.mode ++ leBytes 2 p.threads ++ leBytes 1 (b2n p.fw) ++ leBytes 3 0 ++
  leBytes 8 p.engines.toNat ++ leBytes 8 p.banks.toNat ++ leBytes 4 p.base ++ leBytes 4 p.count

/-- The window's blocks 1 to 9 (17 R450), which change with REPORT_GEN alone (R420). -/
def State.attWindow (s : State) : List Byte :=
  leBytes 4 vaiId.toNat ++ leBytes 16 Config.dieId.toNat ++ leBytes 12 0 ++
  (s.sec.shown.run ++ s.sec.shown.next).flatMap digestBytes ++ s.stateBlock ++
  (List.range 64).flatMap fun n => (Tab.get {} s.sec.shown.parts n).bytes

end Sys2Proof.Machine
end

