-- ==== Sys2Proof/Machine/RegRead.lean ====
section
/-! DEFINITION. Register reads (00_scope.md R7 to R9; 02 R39, R64, R65; 17_register_map.md R443 to R450): the register at
each 8-byte word of a window, who may read it, and what a read clears or counts. -/

namespace Sys2Proof.Machine

/-! ### Words of the windows. `(wide, value)`: a register of 32 bits fills the low half only; `none` is a hole. -/

/-- A vector of an MSI-X table with `nv` vectors, and the pending bits (03 R92), at 0xA000 and 0xB000. -/
def State.msixReg (s : State) (fk nv off : Nat) : Option (Bool × W64) :=
  if off = 0xB000 then some (true, (s.func fk).pend)
  else if 0xA000 ≤ off ∧ off < 0xA000 + 16 * nv then
    let v : Vec := Tab.get {} (s.func fk).msix ((off - 0xA000) / 16)
    some (true, if off % 16 = 0 then v.addr else pack [(32, b2n v.masked), (0, v.data.toNat)])
  else none

/-- The waypoint window at 0xD000 (12 R345, R352). WP_VALUE reads zero where it is refused. -/
def State.wpReg (s : State) (fk off : Nat) : Option (Bool × W64) :=
  if off < 0xD000 ∨ 0xF000 ≤ off then none
  else
    let k := (off - 0xD000) / 32
    let x : Slot := Tab.get {} (s.func fk).slots k
    match off % 32 with
    | 0 => some (true, 0)
    | 8 => some (true, if s.waitOk fk x.handle then s.wpValue fk k else 0)
    | 16 => some (true, x.target)
    | _ => some (true, s.wpSlot fk k)

/-- The queue blocks, doorbells and milestones of a function with `nq` queues (03 R72, R73). -/
def State.queueRegs (s : State) (fk nq off : Nat) : Option (Bool × W64) :=
  if 0x1000 ≤ off ∧ off < 0x1000 + nq * 0x100 then s.qReg (qkey fk ((off - 0x1000) / 0x100)) (off % 0x100)
  else if 0x8000 ≤ off ∧ off < 0x8000 + nq * 0x40 ∧ off % 0x40 = 0 then some (false, 0)
  else if 0x9000 ≤ off ∧ off < 0x9000 + nq * 0x40 ∧ off % 0x40 = 0 then
    some (true, BitVec.ofNat 64 (s.queue (qkey fk ((off - 0x9000) / 0x40))).milestone)
  else none

/-- VF BAR0 of global VF `n` (17). -/
def State.vfReg (s : State) (n off : Nat) : Option (Bool × W64) :=
  let f := s.func n
  match off with
  | 0x0000 => some (false, s.vfId n)
  | 0x0008 => some (false, s.vfStatus n)
  | 0x0010 => some (false, pack [(0, f.bindGen)])
  | 0x0018 => some (true, f.errSum)
  | 0x0020 => some (false, pack [(0, f.winDrop)])
  | 0x0028 => some (false, pack [(16, f.wpStale), (0, f.wpRefused)])
  | 0x0100 => some (false, 0)
  | _ =>
    if 0xC000 ≤ off ∧ off < 0xC100 then some (true, s.vfCntRead n ((off - 0xC000) / 8))
    else ((s.queueRegs n 64 off).orElse fun _ => s.msixReg n 64 off).orElse fun _ => s.wpReg n off

/-- The identity region and the PF's own queues, vectors and waypoint window: PF BAR0 below 0x01_0000 (17). -/
def State.pfOwnReg (s : State) (p off : Nat) : Option (Bool × W64) :=
  let k := pfKey p
  let f := s.func k
  match off with
  | 0x0000 => some (false, vaiId)
  | 0x0008 => some (true, vaiCap)
  | 0x0010 => some (false, s.vaiEnable)
  | 0x0018 => some (false, s.vaiStatus)
  | 0x0040 => some (false, s.pfRole p)
  | 0x0048 => some (false, f.cfgResult.setWidth 64)
  | 0x0050 => some (false, pack [(0, f.authDenied)])
  | 0x0100 => some (false, 0)
  | 0x0108 => some (false, s.vfStatus k)
  | 0x0110 => some (false, f.errSum)
  | _ => ((s.queueRegs k 16 off).orElse fun _ => s.msixReg k 16 off).orElse fun _ => s.wpReg k off

/-- Two words of a mailbox buffer, from word `i` on. -/
def mbxPair (t : Tab W32) (i : Nat) : W64 := pack [(32, (Tab.get 0 t (i + 1)).toNat), (0, (Tab.get 0 t i).toNat)]

/-- The requester's block of the channel with key `k` (15 R405). -/
def State.mbxReg (s : State) (k off : Nat) : Option (Bool × W64) :=
  let m := s.mbx k
  if off < 0x40 then some (true, mbxPair m.req (off / 4))
  else if 0x80 ≤ off ∧ off < 0xC0 then some (true, mbxPair m.rsp ((off - 0x80) / 4))
  else match off with
    | 0x40 => some (false, 0)
    | 0x48 => some (false, s.mbxStatus k)
    | 0xC0 => some (false, m.rspStatus)
    | 0xC8 => some (false, m.irq.setWidth 64)
    | _ => none

/-- The receiver view of non-secure channel `c` (17 R448). -/
def State.rcvReg (s : State) (c off : Nat) : Option (Bool × W64) :=
  let m := s.mbx c
  if off < 0x40 then some (true, pack [(32, (m.cap.getD (off / 4 + 1) 0).toNat), (0, (m.cap.getD (off / 4) 0).toNat)])
  else if 0x80 ≤ off ∧ off < 0xC0 then some (true, mbxPair m.rcvRsp ((off - 0x80) / 4))
  else match off with
    | 0x40 => some (false, 0)
    | 0x48 => some (false, m.rcvStatus)
    | _ => none

/-- Partitions, resize and engine ports: PF BAR0 from 0x01_0000 (17). -/
def State.tenancyReg (s : State) (off : Nat) : Option (Bool × W64) :=
  if off < 0x14000 then s.partReg ((off - 0x10000) / 0x100) (off % 0x100)
  else if 0x18000 ≤ off ∧ off < 0x18800 then s.eportReg ((off - 0x18000) / 0x20) (off % 0x20)
  else match off with
    | 0x14000 => some (false, s.rcv.rszCtrl.setWidth 64)
    | 0x14008 => some (true, s.rcv.rszEngines)
    | 0x14010 => some (true, s.rcv.rszBanks)
    | 0x14018 => some (false, s.rcv.rszStatus)
    | _ => none

/-- VF distribution, GEQ, mailboxes, keys, firmware and recovery: PF BAR0 from 0x02_0000 (17). -/
def State.manageReg (s : State) (off : Nat) : Option (Bool × W64) :=
  if off < 0x22000 then some (true, (s.func ((off - 0x20000) / 8)).bind)
  else if 0x24000 ≤ off ∧ off < 0x24020 then some (false, (s.func (pfKey ((off - 0x24000) / 8))).range.setWidth 64)
  else if 0x30040 ≤ off ∧ off < 0x30080 then some (true, s.geqView ((off - 0x30040) / 8))
  else if 0x40000 ≤ off ∧ off < 0x40800 then s.mbxReg ((off - 0x40000) / 0x100) (off % 0x100)
  else if 0x41008 ≤ off ∧ off < 0x41800 then some (false, s.keySlot ((off - 0x41000) / 8))
  else match off with
    | 0x30000 => some (true, s.geq.base)
    | 0x30008 => some (false, pack [(0, s.geq.head)])
    | 0x30010 => some (false, pack [(0, s.geq.tail)])
    | 0x30018 => some (true, s.geq.cfg)
    | 0x30020 => some (false, pack [(0, s.geq.lost)])
    | 0x42000 => some (false, s.fwStatus)
    | 0x42008 => some (true, if s.sec.transition then s.sec.swapped else 0)
    | 0x42010 => some (true, s.attState)
    | 0x50000 => some (false, s.rcv.rstCtrl.setWidth 64)
    | 0x50008 => some (false, s.rcv.rstStatus)
    | 0x50010 => some (true, pack [(32, s.rcv.nWhole), (0, s.rcv.nPart)])
    | 0x50100 => some (false, s.rcv.ledgerSel.setWidth 64)
    | 0x50108 => some (true, s.ledgerView s.rcv.ledgerSel)
    | 0x50110 => some (false, s.rcv.chanSel.setWidth 64)
    | 0x50118 => some (true, s.chanView s.rcv.chanSel)
    | 0x50120 => some (true, s.retiredMap 1)
    | 0x50128 => some (false, s.retiredMap 2)
    | 0x50130 => some (true, s.retiredMap 3)
    | _ => none

/-- Counters and sampling: PF BAR0 from 0x06_0000 (16 R442). -/
def State.countReg (s : State) (off : Nat) : Option (Bool × W64) :=
  let e := off % 0x1000 / 8
  if off < 0x61000 then some (true, s.cntValue e)
  else if off < 0x62000 then some (true, if cntDefined e then s.cntCfg e else 0)
  else if off < 0x62080 then some (true, Tab.get 0 s.cnt.permit e)
  else if 0x64000 ≤ off ∧ off < 0x65000 then some (true, cntInfo e)
  else match off with
    | 0x63000 => some (true, s.cnt.smpBase)
    | 0x63008 => some (true, s.cnt.smpCfg)
    | 0x63010 => some (false, pack [(0, s.cnt.smpHead)])
    | 0x63018 => some (false, pack [(0, s.cnt.smpTail)])
    | 0x63020 => some (false, pack [(0, s.cnt.smpLost)])
    | 0x63100 => some (false, s.cnt.vfSel.setWidth 64)
    | 0x63108 => some (true, s.vfCntView)
    | _ => none

/-- Adaptive loops and power: PF BAR0 from 0x08_0000 (14 R395, R398, R401; 08 R244). -/
def State.adaptReg (s : State) (off : Nat) : Option (Bool × W64) :=
  if 0x84000 ≤ off ∧ off < 0x85000 then s.cvyReg ((off - 0x84000) / 0x40) (off % 0x40)
  else match off with
    | 0x80000 => some (true, s.boot.vCfg)
    | 0x80008 => some (true, s.vState)
    | 0x80010 => some (false, pack [(16, Config.vseedCode.toNat), (0, Config.sp0.toNat)])
    | 0x81000 => some (false, s.boot.trimCfg.setWidth 64)
    | 0x81008 => some (true, s.trimState)
    | 0x81010 => some (false, s.boot.trimSel.setWidth 64)
    | 0x81018 => some (false, s.trimView)
    | 0x82000 => some (true, s.adptCal)
    | 0x83000 => some (true, s.pwrStatus)
    | 0x83F00 => some (false, pack [(16, Config.mf0.toNat), (0, Config.cf0.toNat)])
    | _ => none

/-- Translation, objects, waypoints and dumps: PF BAR0 from 0x10_0000 (11 R327; 12 R352; 13 R378). -/
def State.memoryReg (s : State) (off : Nat) : Option (Bool × W64) :=
  if 0x100100 ≤ off ∧ off < 0x100140 then
    let p := (off - 0x100100) / 16
    some (if off % 16 = 0 then (true, Tab.get 0 s.objs.devmemBase p) else (false, (Tab.get 0 s.objs.devmemSize p).setWidth 64))
  else if 0x101000 ≤ off ∧ off < 0x101800 then
    let n := (off - 0x101000) / 0x20
    match off % 0x20 with
    | 0 => some (true, (s.part n).poolBase)
    | 8 => some (true, (s.part n).poolLim)
    | 16 => some (true, s.poolUsed n)
    | _ => none
  else match off with
    | 0x100000 => some (false, s.objs.atuCfg.setWidth 64)
    | 0x100008 => some (false, pack [(16, s.objs.ctxRefused), (0, s.objs.priFail)])
    | 0x100010 => some (true, s.objStatus)
    | 0x100018 => some (false, s.wpLiveCount)
    | 0x200000 => some (true, s.rcv.dumpAddr)
    | 0x200008 => some (true, s.rcv.dumpCfg)
    | 0x200010 => some (false, s.rcv.dumpCtrl.setWidth 64)
    | 0x200018 => some (true, s.rcv.dumpStatus)
    | _ => none

/-- The register at a word of PF `p`'s BAR0, as the Operator PF reads it (17). -/
def State.pfReg (s : State) (p off : Nat) : Option (Bool × W64) :=
  if off < 0x10000 then s.pfOwnReg p off
  else if off < 0x20000 then s.tenancyReg off
  else if off < 0x60000 then s.manageReg off
  else if off < 0x80000 then s.countReg off
  else if off < 0x100000 then s.adaptReg off
  else s.memoryReg off

/-- The root-of-trust port's window (17 R447, R450). -/
def State.rotReg (s : State) (off : Nat) : Option (Bool × W64) :=
  if off < 0x800 then s.mbxReg (8 + off / 0x100) (off % 0x100)
  else if off < 0x1000 then s.rcvReg ((off - 0x800) / 0x100) (off % 0x100)
  else if off < 0x1960 then some (true, BitVec.ofNat 64 (leAt s.attWindow (off - 0x1000) 8))
  else none

/-! ### Who may read (02 R39, R64, R65; 16 R435, R442) -/

/-- Offsets served before a designation: the identity region and the MSI-X structures (02 R39). -/
def alwaysServed (off : Nat) : Bool := off < 0x100 || (0xA000 ≤ off && off < 0xC000)

/-- What PF `p`, which is not the Operator PF, reads at a word that holds `v`: none where the read is refused. -/
def State.otherPfReads (s : State) (p off : Nat) (v : W64) : Option W64 :=
  if alwaysServed off then some v
  else if s.boot.operator.isNone then none
  else if off < 0x10000 then some v
  else if 0x20000 ≤ off ∧ off < 0x22000 then (if s.inRange p ((off - 0x20000) / 8) then some v else none)
  else if 0x60000 ≤ off ∧ off < 0x61000 then some (s.cntRounded (off % 0x1000 / 8))
  else if (0x61000 ≤ off ∧ off < 0x62080) ∨ (0x64000 ≤ off ∧ off < 0x65000) then some v
  else none

/-! ### What a read does (00 R9) -/

/-- A read of word `off` of a function's own registers clears its RC fields, and a refused WP_VALUE is counted. -/
def State.ownReadEffect (s : State) (fk off : Nat) : State :=
  if 0x1000 ≤ off ∧ off < 0x8000 ∧ off % 0x100 = 0x38 then
    s.modQueue (qkey fk ((off - 0x1000) / 0x100)) fun q => { q with stale := 0, refused := 0 }
  else if 0xD000 ≤ off ∧ off < 0xF000 ∧ off % 32 = 8 then
    if s.waitOk fk (Tab.get {} (s.func fk).slots ((off - 0xD000) / 32) : Slot).handle then s else s.wpCount fk false
  else s

/-- A VF's read. -/
def State.vfReadEffect (s : State) (n off : Nat) : State :=
  match off with
  | 0x0020 => s.modFunc n fun f => { f with winDrop := 0 }
  | 0x0028 => s.modFunc n fun f => { f with wpStale := 0, wpRefused := 0 }
  | _ => s.ownReadEffect n off

/-- A permitted read in PF `p`'s BAR0. -/
def State.pfReadEffect (s : State) (p off : Nat) : State :=
  if 0x10000 ≤ off ∧ off < 0x14000 ∧ off % 0x100 = 0x50 then s.modPart ((off - 0x10000) / 0x100) fun q => { q with overload := 0 }
  else if 0x18000 ≤ off ∧ off < 0x18800 ∧ off % 0x20 = 0x18 then
    s.modPort ((off - 0x18000) / 0x20) fun e => { e with late := 0, hsTimeout := 0 }
  else if 0x40000 ≤ off ∧ off < 0x40800 ∧ off % 0x100 = 0xC0 then s.mbxRspTaken ((off - 0x40000) / 0x100)
  else match off with
    | 0x0048 => s.modFunc (pfKey p) fun f => { f with cfgResult := 0 }
    | 0x0050 => s.modFunc (pfKey p) fun f => { f with authDenied := 0 }
    | 0x30020 => s.modGeq fun g => { g with lost := 0 }
    | 0x63020 => s.modCnt fun c => { c with smpLost := 0 }
    | 0x100008 => { s with objs := { s.objs with ctxRefused := 0, priFail := 0 } }
    | _ => if off < 0x10000 then s.ownReadEffect (pfKey p) off else s

/-- The root of trust's read. -/
def State.rotReadEffect (s : State) (off : Nat) : State :=
  if off < 0x800 ∧ off % 0x100 = 0xC0 then s.mbxRspTaken (8 + off / 0x100)
  else if 0x800 ≤ off ∧ off < 0x1000 ∧ off % 0x100 = 0x48 then s.mbxTake ((off - 0x800) / 0x100)
  else s

/-! ### Accesses (00 R7, R8) -/

/-- An access that the windows accept: 4 or 8 bytes, naturally aligned. -/
def accessOk (off size : Nat) : Bool := (size == 4 || size == 8) && off % size == 0

/-- The register that an access reaches: an access to the upper half of a 32-bit register's word reaches a hole. -/
def reached (off size : Nat) (r : Option (Bool × W64)) : Option W64 := match r with
  | some (wide, v) => if size = 4 ∧ off % 8 = 4 ∧ !wide then none else some v
  | none => none

/-- The bytes of a word that an access reads. -/
def readPart (off size : Nat) (v : W64) : W64 :=
  if size = 8 then v else if off % 8 = 4 then v >>> 32 else v &&& ones 31 0

/-- Answer a read with the part of a word. -/
def State.answerRead (s : State) (off size : Nat) (v : W64) : State := s.send (.readData (readPart off size v))

/-- A read of PF `p`'s BAR0. -/
def State.pfRead (s : State) (p off size : Nat) : State :=
  let o := off - off % 8
  match (if accessOk off size then reached off size (s.pfReg p o) else none) with
  | none => s.send (.readData 0)
  | some v =>
    if s.isOp p then (s.pfReadEffect p o).answerRead off size v
    else match s.otherPfReads p o v with
      | some x => (s.pfReadEffect p o).answerRead off size x
      | none => (s.denied p).send (.readData 0)

/-- A read of VF `n`'s BAR0. -/
def State.vfRead (s : State) (n off size : Nat) : State :=
  let o := off - off % 8
  match (if accessOk off size then reached off size (s.vfReg n o) else none) with
  | none => s.send (.readData 0)
  | some v => (s.vfReadEffect n o).answerRead off size v

/-- A read of the root-of-trust port's window. -/
def State.rotRead (s : State) (off size : Nat) : State :=
  let o := off - off % 8
  match (if accessOk off size then reached off size (s.rotReg o) else none) with
  | none => s.send (.readData 0)
  | some v => (s.rotReadEffect o).answerRead off size v

/-- VF BAR0 space that reaches no VF (02 R44): VF Enable is set, and the local number is below NumVFs only. -/
def State.noVf (s : State) (p i : Nat) : Bool :=
  let f := s.func (pfKey p)
  p < 4 && f.linkUp && f.vfEnable && i < f.numVfs && s.vfCount p ≤ i

/-- Word `i` of the BARs (17 R445): a 64-bit non-prefetchable memory BAR at words 0 and 1, zero elsewhere. The type bits
are PCIe's (PRESUMED, log 102). -/
def barWord (base : W64) : Nat → Nat
  | 0 => fld base 31 0 + 4
  | 1 => fld base 63 32
  | _ => 0

/-- A configuration field of a function (02 R44; 11 R317, R318, R320; 17 R445). A VF carries no SR-IOV capability and
its own BARs read zero (PRESUMED, log 102). -/
def Func.cfg (f : Func) (vf : Bool) : CfgReg → Nat
  | .totalVfs => fld f.range 26 16
  | .vfStride => b2n !vf
  | .smallestTranslationUnit => 4096
  | .invalidateQueueDepth => 32
  | .pageAlignedRequest => 1
  | .bar i => if vf then 0 else barWord f.bar0 i
  | .vfBar i => if vf then 0 else barWord f.vfBar0 i
  | .expansionRom => 0
  | .msixTableBir => 0
  | .msixPbaBir => 0
  | .vfEnable => b2n f.vfEnable
  | .numVfs => f.numVfs
  | .atsEnable => b2n f.atsEn
  | .priEnable => b2n f.priEn
  | .priAlloc => f.priAlloc

/-- REGISTER_READ (00 R7 to R9; 02 R64, R65). -/
def execRegisterRead (t : Target) (s : State) : Host.Outcome State Fault Refusal :=
  done s (match t with
    | .mmio (.pf p) off size => if p < 4 && (s.func (pfKey p)).linkUp then s.pfRead p off size else s
    | .mmio (.vf p i) off size => match s.winFunc (.vf p i) with
      | some n => s.vfRead n off size
      | none => if s.noVf p i then s.send (.readData 0) else s
    | .mmio .rot off size => s.rotRead off size
    | .cfg w r => match s.winFunc w with
      | some fk => s.send (.readData (BitVec.ofNat 64 ((s.func fk).cfg (decide (fk < 1024)) r)))
      | none => s)

end Sys2Proof.Machine
end

