-- ==== Sys2Proof/Machine/RegWrite.lean ====
section
/-! DEFINITION. Register writes (00_scope.md R7, R9, R10; 02 R39, R42, R64, R65; 17_register_map.md). A write carries the
64-bit word that it falls in and a mask of the bits that it writes. -/

namespace Sys2Proof.Machine

/-! ### Queue blocks (03 R73, R74; 08 R216, R217; 09 R269, R270; 13 R358) -/

/-- Discard a write and count it in REFUSED of Q_DB_DROPPED. -/
def State.qRefused (s : State) (qk : Nat) : State := s.modQueue qk Queue.refuse

/-- Q_KVAGE's limits (09 R269, R270) on a value with ENABLE 1. -/
def kvageOk (v : W64) : Bool :=
  let g := fld v 11 8
  let w := if fld v 3 0 = 0 then 4 else 2
  1 ≤ fld v 27 16 && fld v 15 12 ≤ 8 && 5 ≤ g && g ≤ 12 && fld v 5 4 != 1 && fld v 3 0 ≤ 2 && 16 * 2 ^ g * w == 2 ^ (fld v 15 12 + 12)

/-- A write to Q_CFG (03 R74): an admin queue's VECTOR above 15 discards it whole. -/
def State.qCfgSet (s : State) (qk : Nat) (v mask : W64) : State :=
  let q := s.queue qk
  let irq : W64 := ones 13 8 ||| ones 1 0
  let new := merge q.cfg v (mask &&& (if q.st = .absent then irq ||| ones 51 32 ||| ones 28 28 else irq))
  if 1024 ≤ qk / 64 ∧ 15 < fld (merge q.cfg v (mask &&& irq)) 13 8 then s.qRefused qk
  else s.modQueue qk fun q => { q with cfg := new }

/-- A write to the register at offset `off` of a queue block. -/
def State.qWrite (s : State) (qk off : Nat) (v mask : W64) : State :=
  let q := s.queue qk
  let adm : Bool := 1024 ≤ qk / 64
  let absent : Bool := q.st == .absent
  let idle : Bool := absent || q.st == .quiesced
  let low : Bool := bit mask 0
  match off with
  | 0x00 => if absent then s.modQueue qk fun q => { q with base := merge q.base v (mask &&& ones 63 6) } else s
  | 0x08 => if absent then s.modQueue qk fun q => { q with
      size := (merge (q.size.setWidth 64) v (mask &&& (ones 12 8 ||| ones 4 0))).setWidth 32 } else s
  | 0x10 => if absent then s.modQueue qk fun q => { q with cplBase := merge q.cplBase v (mask &&& ones 63 5) } else s
  | 0x18 => s.qCfgSet qk v mask
  | 0x30 => s.cplHeadSet qk (fld v 23 0)
  | 0x60 => if low && bit v 0 then s.modQueue qk fun q => { q with held := false, heldRec := [] } else s
  | 0x68 => if adm then s else if idle then s.modQueue qk fun q => { q with
      job := (merge (q.job.setWidth 64) v (mask &&& ones 19 0)).setWidth 32 } else s.qRefused qk
  | 0x70 =>
    let new := merge (q.kvage.setWidth 64) v (mask &&& (ones 31 31 ||| ones 27 8 ||| ones 5 0))
    if adm then s
    else if idle && (!bit new 31 || kvageOk new) then s.modQueue qk fun q => { q with kvage := new.setWidth 32 }
    else s.qRefused qk
  | 0x78 => if fld v 31 0 < 100 then s.qRefused qk else s.modQueue qk fun q => { q with timeout := v.setWidth 32 }
  | _ => s

/-- VF_CTRL or ADMQ_CTRL (03 R73, R75, R77): a reserved OP gives BAD_OP. -/
def State.ctrlWrite (s : State) (w : Window) (v : W64) : State :=
  let q := fld v 5 0
  match fld v 19 16 with
  | 1 => s.createCmd w q
  | 2 => s.enableCmd w q
  | 3 => s.quiesceCmd w q
  | 4 => s.destroyCmd w q
  | _ => match s.winFunc w with
    | some fk => s.cmdResult fk 0x01
    | none => s

/-! ### MSI-X tables and waypoint windows (03 R92; 14 R386; 12 R346) -/

/-- Send vector `v`'s pending message if it may be sent (03 R92; 14 R386). -/
def State.flushVec (s : State) (fk v : Nat) : State :=
  if s.latch.irq && bit (s.func fk).pend v && !(Tab.get {} (s.func fk).msix v : Vec).masked then
    (s.modFunc fk fun f => { f with pend := clrBit f.pend v }).send (.msix fk v)
  else s

/-- A write to a word of a function's MSI-X table. -/
def State.msixWrite (s : State) (fk off : Nat) (v mask : W64) : State :=
  let i := (off - 0xA000) / 16
  let x : Vec := Tab.get {} (s.func fk).msix i
  let y : Vec := if off % 16 = 0 then { x with addr := merge x.addr v (mask &&& ones 63 2) }
    else { x with data := (merge (x.data.setWidth 64) v (mask &&& ones 31 0)).setWidth 32, masked := if bit mask 32 then bit v 32 else x.masked }
  (s.modFunc fk fun f => { f with msix := Tab.set {} f.msix i y }).flushVec fk i

/-- A write to a word of a function's waypoint window (12 R345, R346): a write of less than 8 bytes to WP_SIGNAL or
WP_ARM is discarded and counted. -/
def State.wpWrite (s : State) (fk off : Nat) (v mask : W64) : State :=
  let k := (off - 0xD000) / 32
  if off % 32 = 0 then
    if mask = allBits then (s.applySignal (Tab.get {} (s.func fk).slots k : Slot).handle v (.window fk)).1 else s.wpCount fk false
  else if off % 32 = 16 then if mask = allBits then s.armSlot fk k v else s.wpCount fk false
  else s

/-- A write to a function's own registers from 0x0100 on, at a word that holds one. -/
def State.ownWriteReg (s : State) (w : Window) (fk off : Nat) (v mask : W64) : State :=
  if off = 0x100 then s.ctrlWrite w v
  else if 0x1000 ≤ off ∧ off < 0x8000 then s.qWrite (qkey fk ((off - 0x1000) / 0x100)) (off % 0x100) v mask
  else if 0x8000 ≤ off ∧ off < 0x9000 then s.ring (qkey fk ((off - 0x8000) / 0x40)) (fld v 31 24) (fld v 23 0)
  else if 0xA000 ≤ off ∧ off < 0xB000 then s.msixWrite fk off v mask
  else if 0xD000 ≤ off ∧ off < 0xF000 then s.wpWrite fk off v mask
  else s

/-- A write to a word of VF `n`'s BAR0 that holds a register. -/
def State.vfWrite (s : State) (w : Window) (n off : Nat) (v mask : W64) : State :=
  if off = 0x18 then s.modFunc n fun f => { f with errSum := f.errSum &&& ~~~(v &&& mask) }
  else s.ownWriteReg w n off v mask

/-! ### Operator registers -/

/-- Bytes of a base and size that a pool or PORT_DEVMEM range takes: start and length. -/
def poolSpan (base lim : W64) : Nat × Nat := (base.toNat, 65536 * fld lim 19 0)

/-- Two spans meet. -/
def spansMeet (a b : Nat × Nat) : Bool := 0 < a.2 && 0 < b.2 && a.1 < b.1 + b.2 && b.1 < a.1 + a.2

/-- Every range of package memory: the ports' (keys 0 to 3) and the partitions' pools (keys 4 to 67). -/
def State.spans (s : State) : List (Nat × Nat × Nat) :=
  ((List.range 4).map fun p => (p, poolSpan (Tab.get 0 s.objs.devmemBase p) ((Tab.get 0 s.objs.devmemSize p).setWidth 64))) ++
  (List.range 64).map fun n => (4 + n, poolSpan (s.part n).poolBase (s.part n).poolLim)

/-- A new span for key `k` meets another range (11 R327). -/
def State.spanClash (s : State) (k : Nat) (x : Nat × Nat) : Bool := s.spans.any fun e => e.1 != k && spansMeet e.2 x

/-- A write to PORT_DEVMEM_BASE or PORT_DEVMEM_SIZE of port `p` (11 R327). -/
def State.devmemSet (s : State) (p q off : Nat) (v mask : W64) : State :=
  let b := Tab.get 0 s.objs.devmemBase q
  let z := (Tab.get 0 s.objs.devmemSize q).setWidth 64
  let b' := if off % 16 = 0 then merge b v (mask &&& ones 51 16) else b
  let z' := if off % 16 = 0 then z else merge z v (mask &&& ones 19 0)
  if s.spanClash q (poolSpan b' z') then s.refuse p 0x03 off
  else { s with objs := { s.objs with
    devmemBase := Tab.set 0 s.objs.devmemBase q b', devmemSize := Tab.set 0 s.objs.devmemSize q (z'.setWidth 32) } }

/-- A write to PART_POOL_BASE or PART_POOL_LIM of partition `n` (11 R327). -/
def State.poolSet (s : State) (p n off : Nat) (v mask : W64) : State :=
  let x := s.part n
  let b := if off % 0x20 = 0 then merge x.poolBase v (mask &&& ones 51 16) else x.poolBase
  let l := if off % 0x20 = 8 then merge x.poolLim v (mask &&& (ones 63 48 ||| ones 19 0)) else x.poolLim
  if s.enabled n then s.refuse p 0x07 off
  else if s.spanClash (4 + n) (poolSpan b l) then s.refuse p 0x03 off
  else s.modPart n fun q => { q with poolBase := b, poolLim := l }

/-- A write to ATU_CFG (11 R327). -/
def State.atuSet (s : State) (p : Nat) (v mask : W64) : State :=
  if (List.range 64).any s.enabled then s.refuse p 0x07 0x100000
  else { s with objs := { s.objs with atuCfg := (merge (s.objs.atuCfg.setWidth 64) v (mask &&& ones 5 0)).setWidth 32 } }

/-- A write to ADPT_V_CFG (14 R395). -/
def State.vCfgSet (s : State) (p : Nat) (v mask : W64) : State :=
  let new := merge s.boot.vCfg v (mask &&& (ones 63 12 ||| ones 0 0))
  if 100 < fld new 47 40 ∨ fld new 47 40 < fld new 39 32 ∨ fld new 31 20 < 100 ∨ 900 < fld new 31 20 then s.refuse p 0x02 0x80000
  else s.modBoot fun b => { b with vCfg := new }

/-- A write to ADPT_TRIM_CFG (14 R398). -/
def State.trimCfgSet (s : State) (p : Nat) (v mask : W64) : State :=
  let new := merge (s.boot.trimCfg.setWidth 64) v (mask &&& ones 24 0)
  if fld new 15 8 < 2 ∨ fld new 23 16 ≤ fld new 15 8 ∨ 40 < fld new 23 16 + fld new 7 0 then s.refuse p 0x02 0x81000
  else s.modBoot fun b => { b with trimCfg := new.setWidth 32 }

/-- A write to SMP_CFG (16 R442). -/
def State.smpCfgSet (s : State) (p : Nat) (v mask : W64) : State :=
  let new := merge s.cnt.smpCfg v (mask &&& (ones 51 24 ||| ones 20 16 ||| ones 12 8 ||| ones 2 0))
  if fld new 20 16 < 4 ∨ 24 < fld new 20 16 ∨ fld new 12 8 < 6 ∨ 16 < fld new 12 8 ∨ (bit new 0 ∧ fld new 2 1 = 0) then
    s.refuse p 0x02 0x63008
  else s.modCnt fun c => { c with smpCfg := new }

/-- A write to SMP_HEAD (16 R441): one that would take the distance above the ring size is discarded. -/
def State.smpHeadSet (s : State) (v : W64) : State :=
  if 2 ^ fld s.cnt.smpCfg 12 8 < dist 32 s.cnt.smpTail (fld v 31 0) then s else s.modCnt fun c => { c with smpHead := fld v 31 0 }

/-- A write to GEQ_HEAD (13 R356): one that would take the distance above 4,096 is discarded. -/
def State.geqHeadSet (s : State) (v : W64) : State :=
  if 4096 < dist 32 s.geq.tail (fld v 31 0) then s else s.modGeq fun g => { g with head := fld v 31 0 }

/-- Write mailbox words that a write covers. -/
def mbxMerge (t : Tab W32) (i : Nat) (v mask : W64) : Tab W32 :=
  let t := if bit mask 0 then Tab.set 0 t i (v.setWidth 32) else t
  if bit mask 32 then Tab.set 0 t (i + 1) ((v >>> 32).setWidth 32) else t

/-- A requester's write to a word of the block of the channel with key `k` (15 R405, R406). -/
def State.mbxWrite (s : State) (w : Window) (k off : Nat) (v mask : W64) : State :=
  if off < 0x40 then
    if (s.mbx k).reqFull then s.mbxAbort w k else s.modMbx k fun m => { m with req := mbxMerge m.req (off / 4) v mask }
  else match off with
    | 0x40 => s.mbxCtrl w k v
    | 0xC8 => s.modMbx k fun m => { m with irq := (merge (m.irq.setWidth 64) v (mask &&& (ones 8 8 ||| ones 3 0))).setWidth 32 }
    | _ => s

/-- The root of trust's write to a word of the receiver view of channel `c` (17 R448, R449). -/
def State.rcvWrite (s : State) (c off : Nat) (v mask : W64) : State :=
  if 0x80 ≤ off ∧ off < 0xC0 then
    if (s.mbx c).rspFull then s.send (.busError .rot) else s.modMbx c fun m => { m with rcvRsp := mbxMerge m.rcvRsp ((off - 0x80) / 4) v mask }
  else if off = 0x40 then s.mbxRcvCtrl c v
  else s

/-- Writes from 0x01_0000 on: partitions, resize, engine ports (02 R52, R57; 07 R214; 08 R221). -/
def State.tenancyWrite (s : State) (p off : Nat) (v mask : W64) : State :=
  if off < 0x14000 then
    let n := (off - 0x10000) / 0x100
    match off % 0x100 with
    | 0x00 => s.partCfgSet p n v mask
    | 0x08 => s.partResSet p n 0x08 v mask
    | 0x10 => s.partResSet p n 0x10 v mask
    | 0x18 => s.partResSet p n 0x18 v mask
    | 0x28 => s.sliceSet p n v mask
    | 0x30 => s.modPart n fun q => { q with budget := v.setWidth 32 }
    | _ => s
  else if 0x18000 ≤ off then (if off % 0x20 = 0 then s.eportSet ((off - 0x18000) / 0x20) v mask else s)
  else match off with
    | 0x14000 => s.resizeSet p v mask
    | 0x14008 => s.modRcv fun x => { x with rszEngines := merge x.rszEngines v mask }
    | 0x14010 => s.modRcv fun x => { x with rszBanks := merge x.rszBanks v mask }
    | _ => s

/-- Writes from 0x02_0000 on: VF distribution, GEQ, mailboxes, recovery. -/
def State.manageWrite (s : State) (p off : Nat) (v mask : W64) : State :=
  if off < 0x22000 then s.vfBindSet p ((off - 0x20000) / 8) v mask
  else if off < 0x24020 then s.vfRangeSet p ((off - 0x24000) / 8) v mask
  else if 0x40000 ≤ off ∧ off < 0x40800 then s.mbxWrite (.pf p) ((off - 0x40000) / 0x100) (off % 0x100) v mask
  else match off with
    | 0x30000 => s.modGeq fun g => { g with base := merge g.base v (mask &&& (ones 63 18 ||| ones 0 0)) }
    | 0x30008 => s.geqHeadSet v
    | 0x30018 => s.modGeq fun g => { g with cfg := merge g.cfg v (mask &&& (ones 51 32 ||| ones 28 28 ||| ones 11 8 ||| ones 0 0)) }
    | 0x50000 => s.resetSet v mask
    | 0x50100 => s.modRcv fun x => { x with ledgerSel := v.setWidth 32 &&& 0x0FFFFFFF#32 }
    | 0x50110 => s.modRcv fun x => { x with chanSel := v.setWidth 32 &&& 0x0FFFFFFF#32 }
    | _ => s

/-- Writes from 0x06_0000 on: counters and sampling (16). -/
def State.countWrite (s : State) (p off : Nat) (v mask : W64) : State :=
  if 0x61000 ≤ off ∧ off < 0x62000 then s.cntCfgSet p (off % 0x1000 / 8) v mask
  else if 0x62000 ≤ off ∧ off < 0x62080 then
    s.modCnt fun c => { c with permit := Tab.set 0 c.permit (off % 0x1000 / 8) (merge (Tab.get 0 c.permit (off % 0x1000 / 8)) v mask) }
  else match off with
    | 0x63000 => s.modCnt fun c => { c with smpBase := merge c.smpBase v (mask &&& ones 63 6) }
    | 0x63008 => s.smpCfgSet p v mask
    | 0x63010 => s.smpHeadSet v
    | 0x63100 => s.modCnt fun c => { c with vfSel := (v &&& (ones 20 16 ||| ones 9 0)).setWidth 32 }
    | _ => s

/-- Writes from 0x08_0000 on: loops and translation, objects, dumps. -/
def State.adaptWrite (s : State) (p off : Nat) (v mask : W64) : State :=
  if 0x84000 ≤ off ∧ off < 0x85000 then
    if off % 0x40 < 0x20 then s.loopSet p ((off - 0x84000) / 0x40) (off % 0x40) v mask else s
  else if 0x100100 ≤ off ∧ off < 0x100140 then s.devmemSet p ((off - 0x100100) / 16) off v mask
  else if 0x101000 ≤ off ∧ off < 0x101800 then (if off % 0x20 < 0x10 then s.poolSet p ((off - 0x101000) / 0x20) off v mask else s)
  else match off with
    | 0x80000 => s.vCfgSet p v mask
    | 0x81000 => s.trimCfgSet p v mask
    | 0x81010 => s.modBoot fun b => { b with trimSel := v.setWidth 32 &&& 0xFFF#32 }
    | 0x100000 => s.atuSet p v mask
    | 0x200000 => s.modRcv fun x => { x with dumpAddr := merge x.dumpAddr v (mask &&& ones 63 12) }
    | 0x200008 => s.modRcv fun x => { x with dumpCfg := merge x.dumpCfg v (mask &&& (ones 51 32 ||| ones 28 28 ||| ones 25 24 ||| ones 19 0)) }
    | 0x200010 => s.dumpSet v mask
    | _ => s

/-- A write by the Operator PF to a word of its BAR0 that holds a register only it may write. -/
def State.operatorWrite (s : State) (p off : Nat) (v mask : W64) : State :=
  if off < 0x20000 then s.tenancyWrite p off v mask
  else if off < 0x60000 then s.manageWrite p off v mask
  else if off < 0x80000 then s.countWrite p off v mask
  else s.adaptWrite p off v mask

/-! ### Accesses -/

/-- The word and the mask of a write of `size` bytes at `off` (00 R7). -/
def writeWord (off size : Nat) (v : W64) : W64 × W64 :=
  if size = 8 then (v, allBits) else if off % 8 = 4 then (v <<< 32, ones 63 32) else (v, ones 31 0)

/-- Make CFG_RESULT name the offset `off` where a write to the word at `o` has been refused (02 R41). -/
def State.atOffset (s : State) (p o off : Nat) (g : State → State) : State :=
  let old := (s.func (pfKey p)).cfgResult
  let t := g (s.modFunc (pfKey p) fun f => { f with cfgResult := 0 })
  let new := (t.func (pfKey p)).cfgResult
  t.modFunc (pfKey p) fun f => { f with cfgResult := if new = 0 then old else new + BitVec.ofNat 32 (off - o) }

/-- A write to PF `p`'s BAR0. -/
def State.pfWrite (s : State) (p off size : Nat) (v : W64) : State :=
  let o := off - off % 8
  let (x, m) := writeWord off size v
  match (if accessOk off size then reached off size (s.pfReg p o) else none) with
  | none => s
  | some _ =>
    if o = 0x10 then s.opWrite p off fun t => t.enableWrite (x &&& m)
    else if o < 0x100 then s
    else if alwaysServed o then s.ownWriteReg (.pf p) (pfKey p) o x m
    else if o < 0x10000 then s.pfOpen p off fun t =>
      if o = 0x110 then t.modFunc (pfKey p) fun f => { f with errSum := f.errSum &&& ~~~(x &&& m) }
      else t.ownWriteReg (.pf p) (pfKey p) o x m
    else s.opWrite p off fun t => t.atOffset p o off fun u => u.operatorWrite p o x m

/-- A write to the root-of-trust port's window (17 R447, R449, R450). -/
def State.rotWrite (s : State) (off size : Nat) (v : W64) : State :=
  let o := off - off % 8
  let (x, m) := writeWord off size v
  match (if accessOk off size then reached off size (s.rotReg o) else none) with
  | none => s
  | some _ =>
    if o < 0x800 then s.mbxWrite .rot (8 + o / 0x100) (o % 0x100) x m
    else if o < 0x1000 then s.rcvWrite ((o - 0x800) / 0x100) (o % 0x100) x m
    else s

/-- Word `i` of a BAR of 2^`w` bytes is written (17 R445; PRESUMED, log 102): the bits below its size stay zero. -/
def barSet (base : W64) (w i : Nat) (v : W64) : W64 :=
  if i = 0 then merge base v (ones 31 w)
  else if i = 1 then merge base (v <<< 32) (ones 63 32)
  else base

/-- A write to a configuration field (02 R44; 11 R317, R320). Setting PRI Enable where it was clear ends a lockout; a
larger allocation lets waiting page requests go. -/
def State.cfgWrite (s : State) (w : Window) (r : CfgReg) (v : W64) : State :=
  match s.winFunc w, w, r with
  | some fk, _, .atsEnable => s.modFunc fk fun f => { f with atsEn := bit v 0 }
  | some fk, .pf _, .vfEnable => s.modFunc fk fun f => { f with vfEnable := bit v 0 }
  | some fk, .pf _, .bar i => s.modFunc fk fun f => { f with bar0 := barSet f.bar0 22 i v }
  | some fk, .pf _, .vfBar i => s.modFunc fk fun f => { f with vfBar0 := barSet f.vfBar0 16 i v }
  | some fk, .pf _, .numVfs => s.modFunc fk fun f => { f with numVfs := fld v 15 0 }
  | some fk, .pf _, .priEnable => s.modFunc fk fun f => { f with priEn := bit v 0, lockout := f.lockout && !(bit v 0 && !f.priEn) }
  | some fk, .pf p, .priAlloc =>
    (s.modFunc fk fun f => { f with priAlloc := fld v 31 0 }).each s.xl.pri fun u _ => u.priPump p
  | _, _, _ => s

/-- A write reaches VAI_ENABLE (14 R382), the one register whose bits are latches (R383). -/
def writesEnable : Target → Bool
  | .mmio (.pf _) off _ => off - off % 8 == 0x10
  | _ => false

/-- What a register write does (00 R9; 02 R42, R65; 03 R73, R74). -/
def State.regWrite (s : State) (t : Target) (v : W64) : State :=
  match t with
  | .mmio (.pf p) off size => if p < 4 && (s.func (pfKey p)).linkUp then s.pfWrite p off size v else s
  | .mmio (.vf p i) off size => match s.winFunc (.vf p i) with
    | some n =>
      (match (if accessOk off size then reached off size (s.vfReg n (off - off % 8)) else none) with
        | some _ => s.vfWrite (.vf p i) n (off - off % 8) (writeWord off size v).1 (writeWord off size v).2
        | none => s)
    | none => s
  | .mmio .rot off size => s.rotWrite off size v
  | .cfg w r => s.cfgWrite w r v

/-- REGISTER_WRITE (00 R9; 02 R42, R65; 03 R73, R74). -/
def execRegisterWrite (t : Target) (v : W64) (s : State) : Host.Outcome State Fault Refusal :=
  let u := s.regWrite t v
  doneL s { u with latch := if writesEnable t then u.latch else s.latch }

end Sys2Proof.Machine
end

