-- ==== Sys2Proof/Machine/Dispatch.lean ====
section
/-! DEFINITION. What each command does: one arm per constructor of Instr, each a direct call of its meaning. -/

namespace Sys2Proof.Machine

/-- The effect of a command on everything but the queue of commands. -/
def exec (i : Instr) (s : State) : Host.Outcome State Fault Refusal :=
  match i with
  | .powerOn => Sys2Proof.Machine.execPowerOn s
  | .calibrationWindowEnd => Sys2Proof.Machine.execCalibrationWindowEnd s
  | .referenceClockStop => Sys2Proof.Machine.execReferenceClockStop s
  | .referenceClockStart => Sys2Proof.Machine.execReferenceClockStart s
  | .voltageSample pace => Sys2Proof.Machine.execVoltageSample pace s
  | .trimSample path margin => Sys2Proof.Machine.execTrimSample path margin s
  | .trimApply path => Sys2Proof.Machine.execTrimApply path s
  | .dimLate => Sys2Proof.Machine.execDimLate s
  | .vGrant code => Sys2Proof.Machine.execVGrant code s
  | .pReport power temp => Sys2Proof.Machine.execPReport power temp s
  | .pState st limit => Sys2Proof.Machine.execPState st limit s
  | .vaiEnableRun p => Sys2Proof.Machine.execVaiEnableRun p s
  | .vaiEnableEngines p => Sys2Proof.Machine.execVaiEnableEngines p s
  | .vaiEnableQueues p => Sys2Proof.Machine.execVaiEnableQueues p s
  | .vaiEnableIrq p => Sys2Proof.Machine.execVaiEnableIrq p s
  | .registerWrite t v => Sys2Proof.Machine.execRegisterWrite t v s
  | .vfBindWrite p n v => Sys2Proof.Machine.execVfBindWrite p n v s
  | .vfRangeWrite p port v => Sys2Proof.Machine.execVfRangeWrite p port v s
  | .partitionEnable p n v => Sys2Proof.Machine.execPartitionEnable p n v s
  | .partitionDisable p n v => Sys2Proof.Machine.execPartitionDisable p n v s
  | .resizeGo p v => Sys2Proof.Machine.execResizeGo p v s
  | .resizeCancel p v => Sys2Proof.Machine.execResizeCancel p v s
  | .resizeSourceStep => Sys2Proof.Machine.execResizeSourceStep s
  | .scrubComplete bank => Sys2Proof.Machine.execScrubComplete bank s
  | .resizeDestinationStep => Sys2Proof.Machine.execResizeDestinationStep s
  | .eportEnable p k v => Sys2Proof.Machine.execEportEnable p k v s
  | .eportReset p k v => Sys2Proof.Machine.execEportReset p k v s
  | .endNow p n v => Sys2Proof.Machine.execEndNow p n v s
  | .loopRestart p n v => Sys2Proof.Machine.execLoopRestart p n v s
  | .vfFlr vf => Sys2Proof.Machine.execVfFlr vf s
  | .pfFlrWrite p => Sys2Proof.Machine.execPfFlrWrite p s
  | .hostLinkLoss p => Sys2Proof.Machine.execHostLinkLoss p s
  | .hostLinkReturn p => Sys2Proof.Machine.execHostLinkReturn p s
  | .doorbell w q v => Sys2Proof.Machine.execDoorbell w q v s
  | .ringSlotCreditDraw => Sys2Proof.Machine.execRingSlotCreditDraw s
  | .descriptorFetch data => Sys2Proof.Machine.execDescriptorFetch data s
  | .slotReadRetry f q => Sys2Proof.Machine.execSlotReadRetry f q s
  | .queueCreate w q => Sys2Proof.Machine.execQueueCreate w q s
  | .queueEnable w q => Sys2Proof.Machine.execQueueEnable w q s
  | .queueQuiesce w q => Sys2Proof.Machine.execQueueQuiesce w q s
  | .queueDestroy w q => Sys2Proof.Machine.execQueueDestroy w q s
  | .queueQuiesced f q => Sys2Proof.Machine.execQueueQuiesced f q s
  | .queueAbsent f q => Sys2Proof.Machine.execQueueAbsent f q s
  | .qCplHeadWrite w q v => Sys2Proof.Machine.execQCplHeadWrite w q v s
  | .heldClear w q => Sys2Proof.Machine.execHeldClear w q s
  | .taskStart n thread => Sys2Proof.Machine.execTaskStart n thread s
  | .taskPark r => Sys2Proof.Machine.execTaskPark r s
  | .taskResume r thread => Sys2Proof.Machine.execTaskResume r thread s
  | .add r => Sys2Proof.Machine.execAdd r s
  | .sub r => Sys2Proof.Machine.execSub r s
  | .mullo r => Sys2Proof.Machine.execMullo r s
  | .mulhu r => Sys2Proof.Machine.execMulhu r s
  | .and r => Sys2Proof.Machine.execAnd r s
  | .or r => Sys2Proof.Machine.execOr r s
  | .xor r => Sys2Proof.Machine.execXor r s
  | .shl r => Sys2Proof.Machine.execShl r s
  | .shr r => Sys2Proof.Machine.execShr r s
  | .sar r => Sys2Proof.Machine.execSar r s
  | .minu r => Sys2Proof.Machine.execMinu r s
  | .maxu r => Sys2Proof.Machine.execMaxu r s
  | .mins r => Sys2Proof.Machine.execMins r s
  | .maxs r => Sys2Proof.Machine.execMaxs r s
  | .sel r => Sys2Proof.Machine.execSel r s
  | .mov r => Sys2Proof.Machine.execMov r s
  | .clz r => Sys2Proof.Machine.execClz r s
  | .popc r => Sys2Proof.Machine.execPopc r s
  | .cmp r => Sys2Proof.Machine.execCmp r s
  | .br r => Sys2Proof.Machine.execBr r s
  | .brp r => Sys2Proof.Machine.execBrp r s
  | .loop r => Sys2Proof.Machine.execLoop r s
  | .wait r => Sys2Proof.Machine.execWait r s
  | .signal r => Sys2Proof.Machine.execSignal r s
  | .join r => Sys2Proof.Machine.execJoin r s
  | .enqueue r => Sys2Proof.Machine.execEnqueue r s
  | .yield r => Sys2Proof.Machine.execYield r s
  | .commit r => Sys2Proof.Machine.execCommit r s
  | .abort r => Sys2Proof.Machine.execAbort r s
  | .dispatch r => Sys2Proof.Machine.execDispatch r s
  | .copy r => Sys2Proof.Machine.execCopy r s
  | .fill r => Sys2Proof.Machine.execFill r s
  | .gather r => Sys2Proof.Machine.execGather r s
  | .convert r => Sys2Proof.Machine.execConvert r s
  | .kvCompress r => Sys2Proof.Machine.execKvCompress r s
  | .kvExpand r => Sys2Proof.Machine.execKvExpand r s
  | .decrypt r => Sys2Proof.Machine.execDecrypt r s
  | .fold r => Sys2Proof.Machine.execFold r s
  | .sample r => Sys2Proof.Machine.execSample r s
  | .publish r => Sys2Proof.Machine.execPublish r s
  | .pin r => Sys2Proof.Machine.execPin r s
  | .unpin r => Sys2Proof.Machine.execUnpin r s
  | .openwin r => Sys2Proof.Machine.execOpenwin r s
  | .closewin r => Sys2Proof.Machine.execClosewin r s
  | .operationStart r slot => Sys2Proof.Machine.execOperationStart r slot s
  | .mtuOperationComplete r slot => Sys2Proof.Machine.execMtuOperationComplete r slot s
  | .samplingUnitTake k => Sys2Proof.Machine.execSamplingUnitTake k s
  | .sampleComplete k => Sys2Proof.Machine.execSampleComplete k s
  | .verkaiSuspend r => Sys2Proof.Machine.execVerkaiSuspend r s
  | .continuationAdmit r => Sys2Proof.Machine.execContinuationAdmit r s
  | .recordRelease r => Sys2Proof.Machine.execRecordRelease r s
  | .taskRetire r => Sys2Proof.Machine.execTaskRetire r s
  | .submissionRetire f q => Sys2Proof.Machine.execSubmissionRetire f q s
  | .retiringStorageRelease ix => Sys2Proof.Machine.execRetiringStorageRelease ix s
  | .bundleFetch n => Sys2Proof.Machine.execBundleFetch n s
  | .bundleOffer n port => Sys2Proof.Machine.execBundleOffer n port s
  | .accept k t v => Sys2Proof.Machine.execAccept k t v s
  | .post k t unit index v => Sys2Proof.Machine.execPost k t unit index v s
  | .wdone k t => Sys2Proof.Machine.execWdone k t s
  | .fault k t unit v => Sys2Proof.Machine.execFault k t unit v s
  | .abandonAck k t v => Sys2Proof.Machine.execAbandonAck k t v s
  | .clearDone k t => Sys2Proof.Machine.execClearDone k t s
  | .ident k t units v => Sys2Proof.Machine.execIdent k t units v s
  | .convoyMemberJoin r slot => Sys2Proof.Machine.execConvoyMemberJoin r slot s
  | .convoyHoldExpiry n => Sys2Proof.Machine.execConvoyHoldExpiry n s
  | .convoyAssemble n => Sys2Proof.Machine.execConvoyAssemble n s
  | .sliceBegin n => Sys2Proof.Machine.execSliceBegin n s
  | .sliceTimerExpiry n => Sys2Proof.Machine.execSliceTimerExpiry n s
  | .drainComplete n => Sys2Proof.Machine.execDrainComplete n s
  | .objCreate r => Sys2Proof.Machine.execObjCreate r s
  | .objFree r => Sys2Proof.Machine.execObjFree r s
  | .extSet r => Sys2Proof.Machine.execExtSet r s
  | .extClear r => Sys2Proof.Machine.execExtClear r s
  | .extRead r => Sys2Proof.Machine.execExtRead r s
  | .objQuery r => Sys2Proof.Machine.execObjQuery r s
  | .importSet r => Sys2Proof.Machine.execImportSet r s
  | .importClear r => Sys2Proof.Machine.execImportClear r s
  | .wpCreate r => Sys2Proof.Machine.execWpCreate r s
  | .wpFree r => Sys2Proof.Machine.execWpFree r s
  | .wpExport r => Sys2Proof.Machine.execWpExport r s
  | .wpImportSet r => Sys2Proof.Machine.execWpImportSet r s
  | .atsInvalidation p f pasid page pages => Sys2Proof.Machine.execAtsInvalidation p f pasid page pages s
  | .priResponse p ix code => Sys2Proof.Machine.execPriResponse p ix code s
  | .priTimeout p ix => Sys2Proof.Machine.execPriTimeout p ix s
  | .priEnableToggle p => Sys2Proof.Machine.execPriEnableToggle p s
  | .hostCompletion p tag c => Sys2Proof.Machine.execHostCompletion p tag c s
  | .peerWindowWrite handle off data => Sys2Proof.Machine.execPeerWindowWrite handle off data s
  | .peerWindowRead handle off len => Sys2Proof.Machine.execPeerWindowRead handle off len s
  | .peerSignal handle v => Sys2Proof.Machine.execPeerSignal handle v s
  | .wpSignal w k v => Sys2Proof.Machine.execWpSignal w k v s
  | .wpArm w k v => Sys2Proof.Machine.execWpArm w k v s
  | .waypointSignalApply => Sys2Proof.Machine.execWaypointSignalApply s
  | .commandTimeout r => Sys2Proof.Machine.execCommandTimeout r s
  | .channelFault kind ix count what x => Sys2Proof.Machine.execChannelFault kind ix count what x s
  | .handshakeTimeout kind ix count x => Sys2Proof.Machine.execHandshakeTimeout kind ix count x s
  | .detourReissue kind ix count ok => Sys2Proof.Machine.execDetourReissue kind ix count ok s
  | .bankEvacuationDone bank => Sys2Proof.Machine.execBankEvacuationDone bank s
  | .drainTimeout n => Sys2Proof.Machine.execDrainTimeout n s
  | .resetGo p v => Sys2Proof.Machine.execResetGo p v s
  | .resetAutoStart => Sys2Proof.Machine.execResetAutoStart s
  | .resetKillPhase => Sys2Proof.Machine.execResetKillPhase s
  | .resetClearPhase => Sys2Proof.Machine.execResetClearPhase s
  | .resetRestartPhase => Sys2Proof.Machine.execResetRestartPhase s
  | .dumpGo p v => Sys2Proof.Machine.execDumpGo p v s
  | .dumpFieldRead scan => Sys2Proof.Machine.execDumpFieldRead scan s
  | .dumpFieldWaitExpiry => Sys2Proof.Machine.execDumpFieldWaitExpiry s
  | .tapRead sec index field => Sys2Proof.Machine.execTapRead sec index field s
  | .mbxGo w c v => Sys2Proof.Machine.execMbxGo w c v s
  | .mbxRspStatusRead w c => Sys2Proof.Machine.execMbxRspStatusRead w c s
  | .mbxRcvStatusRead c => Sys2Proof.Machine.execMbxRcvStatusRead c s
  | .mbxRcvGo c v => Sys2Proof.Machine.execMbxRcvGo c v s
  | .mailboxPowerDown c => Sys2Proof.Machine.execMailboxPowerDown c s
  | .designate c => Sys2Proof.Machine.execDesignate c s
  | .fwLoad c => Sys2Proof.Machine.execFwLoad c s
  | .fwArm c => Sys2Proof.Machine.execFwArm c s
  | .keyLoad c => Sys2Proof.Machine.execKeyLoad c s
  | .keyClear c => Sys2Proof.Machine.execKeyClear c s
  | .setMode c => Sys2Proof.Machine.execSetMode c s
  | .fragment c => Sys2Proof.Machine.execFragment c s
  | .fwStage c a => Sys2Proof.Machine.execFwStage c a s
  | .fwActivate c => Sys2Proof.Machine.execFwActivate c s
  | .fwDiscard c => Sys2Proof.Machine.execFwDiscard c s
  | .keyRelease c key => Sys2Proof.Machine.execKeyRelease c key s
  | .keyImport c key => Sys2Proof.Machine.execKeyImport c key s
  | .keyWithdraw c => Sys2Proof.Machine.execKeyWithdraw c s
  | .doeGo p kind data => Sys2Proof.Machine.execDoeGo p kind data s
  | .doeAbort p => Sys2Proof.Machine.execDoeAbort p s
  | .cntCfgWrite p e v => Sys2Proof.Machine.execCntCfgWrite p e v s
  | .counterSamplePoint => Sys2Proof.Machine.execCounterSamplePoint s
  | .engineMemoryRequest k t entry kind oref len data => Sys2Proof.Machine.execEngineMemoryRequest k t entry kind oref len data s
  | .forwardMessageLatch k => Sys2Proof.Machine.execForwardMessageLatch k s
  | .registerRead t => Sys2Proof.Machine.execRegisterRead t s

end Sys2Proof.Machine
end

