-- ==== Sys2Proof/Safety.lean ====
section
/-! DEFINITION. The terms in which claims are made: what a command leaves alone, and what every step keeps (the enable
order of 14 R384, the latches). -/

namespace Sys2Proof.Machine

/-! ### What a command leaves alone -/

/-- The parts of State. -/
inductive Field where
  | pending
  | latch
  | boot
  | funcs
  | queues
  | tasks
  | parts
  | ports
  | mtus
  | suTurn
  | chans
  | objs
  | sto
  | wps
  | xl
  | rbuf
  | geq
  | rcv
  | sec
  | cnt
  | dbell
  | fetch
  | waitTasks
  | out
  | freeCtr
  | stamp
  | now
  deriving DecidableEq, Repr

/-- A part is the same in two states. -/
def Field.same (s t : State) : Field → Prop
  | .pending => t.pending = s.pending
  | .latch => t.latch = s.latch
  | .boot => t.boot = s.boot
  | .funcs => t.funcs = s.funcs
  | .queues => t.queues = s.queues
  | .tasks => t.tasks = s.tasks
  | .parts => t.parts = s.parts
  | .ports => t.ports = s.ports
  | .mtus => t.mtus = s.mtus
  | .suTurn => t.suTurn = s.suTurn
  | .chans => t.chans = s.chans
  | .objs => t.objs = s.objs
  | .sto => t.sto = s.sto
  | .wps => t.wps = s.wps
  | .xl => t.xl = s.xl
  | .rbuf => t.rbuf = s.rbuf
  | .geq => t.geq = s.geq
  | .rcv => t.rcv = s.rcv
  | .sec => t.sec = s.sec
  | .cnt => t.cnt = s.cnt
  | .dbell => t.dbell = s.dbell
  | .fetch => t.fetch = s.fetch
  | .waitTasks => t.waitTasks = s.waitTasks
  | .out => t.out = s.out
  | .freeCtr => t.freeCtr = s.freeCtr
  | .stamp => t.stamp = s.stamp
  | .now => t.now = s.now

/-- From `s` to `t` nothing changes outside the parts of the list `l`. -/
def State.only (s t : State) (l : List Field) : Prop := ∀ f, f ∉ l → f.same s t

/-- The functions of two states differ in their tenant counters alone (16 R436). -/
def State.funcsKept (s t : State) : Prop := ∀ k, ∃ c, t.func k = { s.func k with cnt := c }

/-- No precise sample is taken (16 R438): sampling is off and no tagged item is in flight. -/
def State.unsampled (s : State) : Bool := !bit s.cnt.smpCfg 0 && s.cnt.tags.isEmpty

/-- Of the part that holds the memory objects, only the count of requests refused for their context differs (11 R323). -/
def State.objsKept (s t : State) : Prop := ∃ c, t.objs = { s.objs with ctxRefused := c }

/-- What a route word may change beside its task and its operands (16 R436, R439): the counts and, where the precise
sampler has tagged the word, the sample record that it writes to the Operator PF's host, or the count of a record that was
refused for its context. -/
def countParts : List Field := [.cnt, .funcs, .out, .sto, .xl, .freeCtr, .objs]

/-! ### Route words -/

/-- The thread of record `r` stands at route word `w` (04 R98, R101; 05 R132, R133): it may issue, its constant buffer has
come, and the word lies in its program and has been brought. -/
def State.ready (s : State) (r : Nat) (w : W128) : Bool :=
  let t := s.task r
  t.canIssue && t.cbIn && t.ctx.pc < t.progLen &&
  (t.ctx.pc < t.inl.length || (Tab.find? t.lines ((t.progAddr + 16 * t.ctx.pc) / 64)).isSome) && t.word t.ctx.pc == w

/-- A task after a word that is no operation: its program counter stands at `pc`, and it stalls no more. -/
def Task.at' (t : Task) (pc : Nat) : Task := { t with ctx := { t.ctx with pc := pc }, stall := .none }

/-- The command `c` is the word that record `r` issues: it answers a next state in which the task of `r` is `u`, every other
task is as it was, and beside the tasks only counts change, and a sample record where the precise sampler is on. -/
def State.issues (s : State) (c : Instr) (r : Nat) (u : Task) : Prop :=
  ∃ t, exec c s = .next t ∧ t.task r = u ∧ (∀ q, q ≠ r → t.task q = s.task q) ∧
    s.only t (.tasks :: countParts) ∧ s.funcsKept t ∧ s.objsKept t ∧ (s.unsampled = true → s.only t [.tasks, .cnt, .funcs])

/-- The references of a task after an operation that names the objects `l` (06 R160): each object once, in the order
in which they were first named. -/
def refsWith (refs l : List Nat) : List Nat := l.foldl (fun m n => if m.contains n then m else m ++ [n]) refs

/-- The command `c` is the operation word `w` that record `r` issues with the operation `k`, naming the objects `l` (04
R104, R106, R107; 06 R160; 05 R144): it answers a next state in which the task has moved past the word, its slot holds the
operation, and it waits for those slots of its mask, other than its own, that are occupied now, or is ready when there is
none. The task's first naming of an object draws a reference to it. Every other task, every other object and every other
part of State but counts is as it was. -/
def State.occupies (s : State) (c : Instr) (r : Nat) (w : W128) (k : OpKind) (l : List Nat) : Prop :=
  ∃ (t : State) (o : Op), exec c s = .next t ∧
    o = { kind := k, deps := o.deps, phase := if o.deps = 0 then .ready else .open, iss := (s.task r).issN, ord := s.stamp } ∧
    (∀ i, i < 64 → (o.deps.getLsbD i = true ↔ i ≠ opnumOf w ∧ i ∈ (s.task r).named (w.setWidth 64))) ∧
    t.task r = { (s.task r).at' ((s.task r).ctx.pc + 1) with
      issN := (s.task r).issN + 1, win := Tab.set none (s.task r).win (opnumOf w) (some o), refs := refsWith (s.task r).refs l } ∧
    (∀ q, q ≠ r → t.task q = s.task q) ∧ t.objs = { s.objs with tab := t.objs.tab } ∧
    (∀ n, t.obj n = if n ∈ l ∧ n ∉ (s.task r).refs then { s.obj n with held := (s.obj n).held + 1 } else s.obj n) ∧
    s.only t (.tasks :: .stamp :: countParts) ∧ s.funcsKept t ∧
    (s.unsampled = true → s.only t [.tasks, .stamp, .objs, .cnt, .funcs]) ∧ (l = [] → t.objs = s.objs)

/-- The thread of record `r` stands at the operation word `w` and may issue it (04 R105, R106, R130): its slot is free, its
operands have the values `vs`, and no slice boundary of a Verkai partition holds back a tile operation. -/
def State.readyOp (s : State) (r : Nat) (w : W128) (sels : List Nat) (vs : List W64) : Prop :=
  s.ready r w = true ∧ (s.task r).op (opnumOf w) = none ∧ (s.task r).srcs sels = some vs ∧
    ¬(opcodeIsTile (opcodeOf w) = true ∧ s.verkai (s.task r).part = true ∧ (s.part (s.task r).part).draining = true)

/-! ### Admin commands -/

/-- In `t` the bytes have been sent from `a` on in a space of a host, one message for each page that `w` reaches there, with
the function's identity and the translated address (02 R67; 11 R317). -/
def State.wroteHost (w t : State) (sp : Space) (a : Nat) (data : List Byte) : Prop :=
  ∀ c ∈ pageChunks a data.length, ∀ p x, w.reach sp c.1 = some (.host p x) →
    .hostWrite p sp.fk sp.pasid x (((data.map some).drop (c.1 - a)).take c.2) ∈ t.out

/-- An admin list stands before a command (11 R312 to R315): the list of record `r` runs, the 64 bytes `b` of its next
command have come and are laid out as `c`, none of the checks of `c` fails, the result and whatever else it writes may be
written, and what it reads has come. `w` is the state in which it acts. -/
def State.admReady (s : State) (r : Nat) (c : AdmCmd) (b : List Byte) (w : State) : Prop :=
  ∃ u v x y : State, s.listRuns r = true ∧ (s.task r).thread = none ∧ (s.task r).progLen % 4 = 0 ∧
    ((s.runList r).modTask r fun t => { t with admBusy := true }).bringLine r (s.task r).ctx.pc = .ok u ∧
    u.bringLine r ((s.task r).ctx.pc + 3) = .ok v ∧ (v.task r).command = b ∧
    leAt b 0 1 = c.op ∧ layoutOk c.used b = true ∧ firstBad (c.rows ((v.task r).fk - 1024) b v) = (0, 0) ∧
    v.tryWrites (.op r (v.task r).gen 0) (inSpace (v.queueSpace (v.task r).qk)
      (if resAddr b = 0 ∨ resBad b = true then [] else [(resAddr b, 16)])) = .ok x ∧
    x.fetchSegs (.op r (v.task r).gen 1) (inSpace (v.queueSpace (v.task r).qk) (c.reads b)) = .ok y ∧
    y.tryWrites (.op r (v.task r).gen 1) (inSpace (v.queueSpace (v.task r).qk) (c.writes b y)) = .ok w

/-- The admin command of record `r` with the bytes `b` has completed with VALUE `value` (11 R312, R314): the list counts it
and stands before its next command, or ends with status 0 after its last one; a result record with status 0 is written
where RESULT_ADDR is not 0; other tasks are changed by `f`. -/
def State.admEnds (s w t : State) (r : Nat) (b : List Byte) (value : Nat) (f : Task → Task) : Prop :=
  let x := s.task r
  (t.task r).admDone = x.admDone + 1 ∧
  (x.ctx.pc + 4 < x.progLen → x.admStop = false → (t.task r).st = .running ∧ (t.task r).ctx.pc = x.ctx.pc + 4) ∧
  (x.progLen ≤ x.ctx.pc + 4 → (t.task r).st = .committing ∧ (t.task r).cstat = 0 ∧
    (t.task r).summary = pack [(32, x.admDone + 1), (8, 0)]) ∧
  (resAddr b ≠ 0 → resBad b = false → w.wroteHost t (w.queueSpace x.qk) (resAddr b) (leBytes 8 0 ++ leBytes 8 value)) ∧
  ∀ q, q ≠ r → t.task q = f (s.task q)

/-! ### The root of trust -/

/-- REPORT_GEN has incremented, the report shows the present state, and no PF holds an ephemeral key pair (15 R420); but for
pending vectors, every function is otherwise as before. -/
def State.reported (s t : State) : Prop :=
  t.sec.reportGen = (s.sec.reportGen + 1) % 2 ^ 32 ∧ t.sec.shown = t.report ∧ (∀ p, p < 4 → (t.func (pfKey p)).eph = none) ∧
  ∀ k, { t.func k with eph := none, pend := 0 } = { s.func k with eph := none, pend := 0 }

/-- Dim mode has ended (14 R389; 15 R413, R420): the step times of every partition are recomputed, its loop is due to restart
at its next slice boundary, the operations of before are held back no more, and the service mode becomes NORMAL unless
SET_MODE came first, which the report then shows. -/
def State.dimOver (s t : State) : Prop :=
  (∀ n, n < 64 → (t.part n).cvy = { (s.part n).cvy with due := true } ∧
    ((t.part n).stepNs, (t.part n).endNs) = t.stepTimes n) ∧
  t.boot.heldTo = s.stamp ∧
  (s.sec.mode = 0 → t.sec.mode = 1 ∧ s.reported t) ∧
  (s.sec.mode ≠ 0 → t.sec = s.sec ∧ t.funcs = s.funcs)

/-- The receiver of the channel with key `k` holds the request `q` as its oldest, and room for a response (15 R404, R407). -/
def State.asked (s : State) (k : Nat) (q : List W32) : Prop :=
  (∃ rest, (s.mbx k).taken = q :: rest) ∧ (s.mbx k).rspFull = false

/-- That request has been answered (15 R404, R407, R410): a response of `n` words with the request's OP and TAG, RESULT
`res`, then the words `l`, zero beyond them; every other channel is as before. -/
def State.answered (s t : State) (k : Nat) (q : List W32) (n res : Nat) (l : List W32) : Prop :=
  (t.mbx k).rspFull = true ∧ (t.mbx k).rspLen = n ∧ (t.mbx k).taken = (s.mbx k).taken.tail ∧
  Tab.get 0 (t.mbx k).rsp 0 = BitVec.ofNat 32 (fld (reqWord q 0) 31 16 * 2 ^ 16 + res) ∧
  (∀ i, 0 < i → i < n → Tab.get 0 (t.mbx k).rsp i = l.getD (i - 1) 0) ∧ ∀ j, j ≠ k → t.mbx j = s.mbx j

/-! ### What every step keeps -/

/-- The order in which the enables stand (14 R384): IRQ needs QUEUES, QUEUES and ENGINES need RUN, RUN needs
FW_READY. -/
def Latch.ordered (l : Latch) : Bool :=
  (!l.irq || l.queues) && (!l.queues || l.run) && (!l.engines || l.run) && (!l.run || l.fwReady)

/-- A latch of `a` that is set is set in `b` (14 R383, R391, R394, R397, 15 R413). -/
def Latch.le (a b : Latch) : Bool := decide (a.join b = b)

end Sys2Proof.Machine
end

