-- ==== Sys2Proof/Certificates/Slice0/Obligations.lean ====
section
/-! DEFINITION. The statements for the provers, family by family. `s.only t l` (Safety) is the frame: from `s` to `t`
nothing changes outside the parts of State that `l` lists. -/

open Sys2Proof Sys2Proof.Machine

/-! ### Steps, reset and what every step keeps (14 R381, R383, R384; 01 R14) -/

/-- A step takes the command at the front of the queue: it is `exec` of that command on the state with the queue's
rest. -/
def Obligations.StepRunsFrontCommand : Prop :=
  ∀ (c : Instr) (rest : List Instr) (s : State),
    step { s with pending := c :: rest } = exec c { s with pending := rest }

/-- Every command answers a next state and leaves the commands that wait as they are.
Where it rests on a choice of the model: log 2. -/
def Obligations.CommandsAnswerAndKeepQueue : Prop :=
  ∀ (c : Instr) (s : State), ∃ t, exec c s = .next t ∧ t.pending = s.pending

/-- At power-on every feature is inert (14 R381, R382, R387): no enable and no latch is set, dim mode is in force, no
Operator PF is designated, nothing is enabled, queued, running or outstanding, and nothing waits; the enable order of R384
holds. Where it rests on a choice of the model: log 38, 99. -/
def Obligations.ResetIsInert : Prop :=
  State.reset.latch = {} ∧ State.reset.latch.dim = true ∧ State.reset.boot.operator = none ∧
  State.reset.pending = [] ∧ State.reset.tasks = [] ∧ State.reset.waitTasks = [] ∧
  (∀ k, (State.reset.queue k).st = .absent) ∧ (∀ n, State.reset.enabled n = false) ∧
  (∀ k, (State.reset.eport k).enable = false) ∧ (∀ v, State.reset.bound v = false) ∧
  (∀ a, State.reset.readLoc (.ws a) = none) ∧ State.reset.xl = {} ∧ State.reset.geq = {} ∧ State.reset.rcv.phase = 0 ∧
  State.reset.latch.ordered = true

/-- Every step keeps the order of the enables of R384: IRQ only with QUEUES, QUEUES and ENGINES only with RUN, RUN only
with FW_READY. -/
def Obligations.StepKeepsEnableOrder : Prop :=
  ∀ s t : State, s.latch.ordered = true → step s = .next t → t.latch.ordered = true

/-- A set bit of VAI_ENABLE, FW_READY, CANDLE_CAL, V_CONV, TRIM_CONV or DEBUG_READ stays set under every command but
power-on, and the phases of a reset leave them all unchanged (14 R383); dim mode is in force from power-on until CANDLE_CAL,
V_CONV and TRIM_CONV are all set, and once over it is never entered again (R387). -/
def Obligations.LatchesStayUntilPowerOn : Prop :=
  (∀ (c : Instr) (s t : State), c ≠ .powerOn → exec c s = .next t →
    s.latch.le t.latch = true ∧ (s.latch.dim = false → t.latch.dim = false) ∧
    (c = .resetKillPhase ∨ c = .resetClearPhase ∨ c = .resetRestartPhase → t.latch = s.latch)) ∧
  (∀ s t : State, exec .powerOn s = .next t → t.latch.dim = true) ∧
  ∀ l : Latch, l.dim = true ↔ ¬(l.candleCal = true ∧ l.vConv = true ∧ l.trimConv = true)

/-! ### Start-up, the adaptive loops, power, the enables (14) -/

/-- POWER_ON puts every register at its reset value (14 R381): the state is the reset state but for the queue of commands,
a fused designation, the memories outside the VAI, the fused versions that updates have raised, which the report shows, the
messages already sent and the model's numbering of free values. Where it rests on a choice of the model: log 10, 38. -/
def Obligations.PowerOnResets : Prop :=
  ∀ s : State, ∃ t, exec .powerOn s = .next t ∧
    State.reset.only t [.pending, .boot, .sto, .sec, .cnt, .out, .freeCtr] ∧ t.pending = s.pending ∧
    t.boot = { State.reset.boot with byFuse := s.boot.byFuse, operator := if s.boot.byFuse then s.boot.operator else none } ∧
    t.sto = { State.reset.sto with pkg := s.sto.pkg, host := s.sto.host } ∧
    t.sec = { State.reset.sec with
      raised := s.sec.raised
      shown := { byFuse := s.boot.byFuse, operator := if s.boot.byFuse then s.boot.operator else none, raised := s.sec.raised } } ∧
    t.cnt = { State.reset.cnt with era := s.cnt.era + 1 } ∧ t.out = s.out ∧ t.freeCtr = s.freeCtr

/-- The reference clock and candle calibration (14 R391, R392): NO_REF sets and clears with the clock; a calibration window
that ends while the clock runs counts in WINDOWS and sets CANDLE_CAL; without the clock nothing happens. While dim mode
stays in force the window changes nothing else; when it ends dim mode, PART_STEP is recomputed, every partition's loop is due
to restart at its next slice boundary, and the service mode becomes NORMAL, which the report shows (R389; 15 R413, R420).
Where it rests on a choice of the model: the loop's restart is a mark on the partition, `due`. -/
def Obligations.CalibrationAndReferenceClock : Prop :=
  ∀ s : State,
    exec .referenceClockStop s = .next { s with boot := { s.boot with noRef := true } } ∧
    exec .referenceClockStart s = .next { s with boot := { s.boot with noRef := false } } ∧
    (s.boot.noRef = true → exec .calibrationWindowEnd s = .next s) ∧
    (s.boot.noRef = false → ∃ t, exec .calibrationWindowEnd s = .next t ∧
      t.boot.windows = (s.boot.windows + 1) % 2 ^ 32 ∧ t.latch = { s.latch with candleCal := true } ∧
      s.only t [.latch, .boot, .parts, .sec, .funcs] ∧ (s.latch.dim = true → t.latch.dim = false → s.dimOver t) ∧
      (t.latch.dim = s.latch.dim → s.only t [.latch, .boot] ∧
        t.boot = { s.boot with windows := (s.boot.windows + 1) % 2 ^ 32 }))

/-- One sample of the voltage loop (14 R393), with `c` the request so far, `n` the sample count and `cap` the effective cap
in 0.1 W: EMERGENCY asks for code 0; above 15/16 of the cap the request falls by one code, not below VMIN; in open loop or
under FREEZE it stays; else it rises by at most 4, or falls by one, outside the dead band. V_CONV is set when R394 says so,
and dim mode may end with it (R389); nothing outside the loop changes unless dim mode ends. Where it rests on a choice of the model: log 8, 94. -/
def Obligations.VoltageLoopSample : Prop :=
  ∀ (pace : Nat) (s : State),
    let b := s.boot
    let c := b.req
    let n := min (b.vN + 1) 65535
    let vmax := fld b.vCfg 47 40
    let vmin := fld b.vCfg 39 32
    let db := fld b.vCfg 19 12
    let sp := b.sp
    let cap := b.cap
    ∃ (t : State) (r : Nat), exec (.voltageSample pace) s = .next t ∧
      t.boot.vReq = some r ∧ t.boot.vN = n ∧ t.boot.vPace = pace ∧ t.out = .vReq r :: s.out ∧
      (b.pstate = 2 → r = 0) ∧
      (b.pstate ≠ 2 → cap * 15 < b.power * 10 → r = max (c - 1) vmin ∧ t.boot.vCapped = true) ∧
      (b.pstate ≠ 2 → b.power * 10 ≤ cap * 15 → t.boot.vCapped = false) ∧
      (b.pstate ≠ 2 → b.power * 10 ≤ cap * 15 → n ≤ 32 ∨ bit b.vCfg 0 = true → r = c) ∧
      (b.pstate ≠ 2 → b.power * 10 ≤ cap * 15 → 32 < n → bit b.vCfg 0 = false → sp + db < pace →
        b.power * 5 ≤ cap * 7 → r = min (c + min 4 (1 + (pace - sp) / 16)) vmax) ∧
      (b.pstate ≠ 2 → b.power * 10 ≤ cap * 15 → 32 < n → bit b.vCfg 0 = false → pace + db < sp → b.trimOk = true →
        r = max (c - 1) vmin) ∧
      (b.pstate ≠ 2 → b.power * 10 ≤ cap * 15 → pace ≤ sp + db → sp ≤ pace + db → r = c) ∧
      t.latch = { s.latch with vConv := s.latch.vConv || t.boot.vDone } ∧
      s.only t [.latch, .boot, .out, .parts, .sec, .funcs] ∧ (s.latch.dim = true → t.latch.dim = false → s.dimOver t) ∧
      (t.latch.dim = s.latch.dim → s.only t [.latch, .boot, .out])

/-- One sample of the trim loop on a path that meets its floor or can still lengthen its delay (14 R396): below FLOOR the
trim grows by the shortfall and one, at most to 63, and HOLD clears; in open loop or under FREEZE the trim stays; above
TARGET + BAND every 256th sample lowers it by one tap; in band HOLD clears. TRIM_CONV is set when all 4,096 paths have
converged (R397), and dim mode may end with it (R389). Other paths are untouched.
Where it rests on a choice of the model: log 16. -/
def Obligations.TrimLoopSample : Prop :=
  ∀ (x : Nat) (y : PathSample) (s : State),
    let m := y.margin
    let b := s.boot
    let old := Tab.get {} b.trims x
    let c := b.trim x
    let floor := fld b.trimCfg 15 8
    let top := fld b.trimCfg 23 16 + fld b.trimCfg 7 0
    let n := min (old.n + 1) 255
    ¬(m < floor ∧ c = 63) → ∃ t, exec (.trimSample x y) s = .next t ∧
      (let new := Tab.get {} t.boot.trims x
       new.n = n ∧ new.margin = m ∧
       (m < floor → new.code = some (min (c + (floor - m) + 1) 63) ∧ new.hold = 0) ∧
       (floor ≤ m → n ≤ 16 ∨ bit b.trimCfg 24 = true → new.code = some c ∧ new.hold = old.hold) ∧
       (floor ≤ m → 16 < n → bit b.trimCfg 24 = false → top < m → old.hold + 1 ≠ 256 →
         new.code = some c ∧ new.hold = old.hold + 1) ∧
       (floor ≤ m → 16 < n → bit b.trimCfg 24 = false → top < m → old.hold + 1 = 256 →
         new.code = some (c - 1) ∧ new.hold = 0) ∧
       (floor ≤ m → 16 < n → bit b.trimCfg 24 = false → m ≤ top → new.code = some c ∧ new.hold = 0)) ∧
      (∀ y, y ≠ x → Tab.get {} t.boot.trims y = Tab.get {} b.trims y) ∧
      t.latch = { s.latch with trimConv := s.latch.trimConv || decide (t.boot.converged = 4096) } ∧
      s.only t [.latch, .boot, .parts, .sec, .funcs] ∧ (s.latch.dim = true → t.latch.dim = false → s.dimOver t) ∧
      (t.latch.dim = s.latch.dim → s.only t [.latch, .boot])

/-- The chip power manager's messages and the live trims (14 R389, R399, R400): V_GRANT records the code; P_REPORT records
power and temperature and sets HOT above 95 °C; P_STATE records the state and, while CAPPED, the limit, and EMERGENCY
requests code 0; a path's trim reaches the live path after dim mode. Dim mode that has lasted 1 s sets DIM_LATE once and posts
one device-scoped record with status 0x10, SOURCE 6 and INFO (R390); a full ring counts the record as lost (13 R356).
Where it rests on a choice of the model: log 1, 19, 66. -/
def Obligations.PowerMessagesAndDimLate : Prop :=
  ∀ s : State,
    (∀ code, exec (.vGrant code) s = .next { s with boot := { s.boot with vGrant := code } }) ∧
    (∀ power temp, ∃ t, exec (.pReport power temp) s = .next t ∧
      t.boot = { s.boot with power := power, temp := temp, hot := decide (95 < temp) } ∧ s.only t [.boot, .cnt, .freeCtr]) ∧
    (∀ st limit, st ≠ 2 → exec (.pState st limit) s =
      .next { s with boot := { s.boot with pstate := st, limitDw := if st = 1 then limit else 0 } }) ∧
    (∀ limit, exec (.pState 2 limit) s =
      .next { s with boot := { s.boot with pstate := 2, limitDw := 0, vReq := some 0 }, out := .vReq 0 :: s.out }) ∧
    (∀ x, s.latch.dim = false → exec (.trimApply x) s = .next { s with boot := { s.boot with
      trims := Tab.set {} s.boot.trims x { Tab.get {} s.boot.trims x with live := some (s.boot.trim x) } } }) ∧
    (∀ x, s.latch.dim = true → exec (.trimApply x) s = .next s) ∧
    (s.latch.dim = true → s.boot.dimLate = false → ∃ t, exec .dimLate s = .next t ∧
      t.boot = { s.boot with dimLate := true } ∧ exec .dimLate t = .next t ∧
      (s.geq.full = false → t.geq = s.geq.put s.now (s.geqStamped { geqRec 0x10 6 with flags := 2 } none) none) ∧
      (s.geq.full = true → t.geq = { s.geq with lost := satAdd 0xFFFFFFFF s.geq.lost 1, overflow := true }) ∧
      s.only t [.boot, .geq, .cnt, .funcs, .out, .sto, .xl, .freeCtr, .objs] ∧ s.objsKept t)

/-- Writes of the VAI_ENABLE bits by the Operator PF (14 R383 to R386): a bit whose prerequisite holds becomes or stays set,
with REFUSED clear; one whose prerequisite fails stays as it is and is recorded in REFUSED; another PF's write is refused
with NOT_OPERATOR and sets nothing. ENGINES and IRQ may send IDENT_REQ and pending messages; RUN and QUEUES change nothing
else. -/
def Obligations.EnableBits : Prop :=
  ∀ (p : Nat) (s : State), (s.func (pfKey p)).linkUp = true →
    (s.boot.operator = some p →
      (s.latch.run = true ∨ s.latch.fwReady = true → exec (.vaiEnableRun p) s =
        .next { s with latch := { s.latch with run := true }, boot := { s.boot with refused := 0 } }) ∧
      (s.latch.run = false → s.latch.fwReady = false → exec (.vaiEnableRun p) s =
        .next { s with boot := { s.boot with refused := 1 } }) ∧
      (s.latch.run = true → ∃ t, exec (.vaiEnableEngines p) s = .next t ∧ t.latch = { s.latch with engines := true } ∧
        t.boot = { s.boot with refused := 0 } ∧ s.only t [.latch, .boot, .ports]) ∧
      (s.latch.run = false → exec (.vaiEnableEngines p) s = .next { s with boot := { s.boot with refused := 2 } }) ∧
      (s.latch.run = true → exec (.vaiEnableQueues p) s =
        .next { s with latch := { s.latch with queues := true }, boot := { s.boot with refused := 0 } }) ∧
      (s.latch.run = false → exec (.vaiEnableQueues p) s = .next { s with boot := { s.boot with refused := 4 } }) ∧
      (s.latch.queues = true → ∃ t, exec (.vaiEnableIrq p) s = .next t ∧ t.latch = { s.latch with irq := true } ∧
        t.boot = { s.boot with refused := 0 } ∧ s.only t [.latch, .boot, .funcs, .out]) ∧
      (s.latch.queues = false → exec (.vaiEnableIrq p) s = .next { s with boot := { s.boot with refused := 8 } })) ∧
    (s.boot.operator ≠ some p → ∀ c ∈ [Instr.vaiEnableRun p, .vaiEnableEngines p, .vaiEnableQueues p, .vaiEnableIrq p],
      exec c s = .next (s.notOperator p 0x10))

/-! ### Route words: scalar, compare, branch (05; 04 R131) -/

/-- The scalar instructions (05 R139): with the thread at the word, its fields valid, its guard true and its operands read,
s[RD] becomes the result, the program counter advances by one, and nothing else of the task, no other task and no part of
State but the counts (and a precise sample record) changes. -/
def Obligations.AluResults : Prop :=
  ∀ (r : Nat) (w : W128) (s : State), s.ready r w = true → (s.task r).guard w = true →
    let t := s.task r
    let put (v : W64) : Task := (t.setS (fld w 111 106) v).at' (t.ctx.pc + 1)
    (∀ a b : W64, chkA false true true w = true → t.opA w true = some a → t.opB w true = some b →
      (opcodeOf w = 0x01 → s.issues (.add r) r (put (a + b))) ∧
      (opcodeOf w = 0x02 → s.issues (.sub r) r (put (a - b))) ∧
      (opcodeOf w = 0x03 → s.issues (.mullo r) r (put (BitVec.ofNat 64 (a.toNat * b.toNat)))) ∧
      (opcodeOf w = 0x04 → s.issues (.mulhu r) r (put (BitVec.ofNat 64 (a.toNat * b.toNat / 2 ^ 64)))) ∧
      (opcodeOf w = 0x05 → s.issues (.and r) r (put (a &&& b))) ∧
      (opcodeOf w = 0x06 → s.issues (.or r) r (put (a ||| b))) ∧
      (opcodeOf w = 0x07 → s.issues (.xor r) r (put (a ^^^ b))) ∧
      (opcodeOf w = 0x08 → s.issues (.shl r) r (put (BitVec.ofNat 64 (a.toNat * 2 ^ fld b 5 0)))) ∧
      (opcodeOf w = 0x09 → s.issues (.shr r) r (put (BitVec.ofNat 64 (a.toNat / 2 ^ fld b 5 0)))) ∧
      (opcodeOf w = 0x0A → s.issues (.sar r) r (put (BitVec.ofInt 64 (a.toInt / 2 ^ fld b 5 0)))) ∧
      (opcodeOf w = 0x0B → s.issues (.minu r) r (put (BitVec.ofNat 64 (min a.toNat b.toNat)))) ∧
      (opcodeOf w = 0x0C → s.issues (.maxu r) r (put (BitVec.ofNat 64 (max a.toNat b.toNat)))) ∧
      (opcodeOf w = 0x0D → s.issues (.mins r) r (put (BitVec.ofInt 64 (min a.toInt b.toInt)))) ∧
      (opcodeOf w = 0x0E → s.issues (.maxs r) r (put (BitVec.ofInt 64 (max a.toInt b.toInt))))) ∧
    (∀ a b : W64, chkA true true true w = true → t.opA w true = some a → t.opB w true = some b → opcodeOf w = 0x0F →
      s.issues (.sel r) r (put (if t.pred (fld w 115 113) then a else b))) ∧
    (∀ b : W64, chkA false false true w = true → t.opB w true = some b → opcodeOf w = 0x10 → s.issues (.mov r) r (put b)) ∧
    (∀ a : W64, chkA false true false w = true → t.opA w true = some a →
      (opcodeOf w = 0x11 → ∃ n, n ≤ 64 ∧ s.issues (.clz r) r (put (BitVec.ofNat 64 n)) ∧
        (∀ i, 64 - n ≤ i → i < 64 → a.getLsbD i = false) ∧ (n < 64 → a.getLsbD (63 - n) = true)) ∧
      (opcodeOf w = 0x12 → s.issues (.popc r) r
        (put (BitVec.ofNat 64 ((List.range 64).filter fun i => a.getLsbD i).length))))

/-- CMP (05 R140): p[PD] is set to, ANDed with or ORed with the condition COND on A and B; a write to p7 is ignored. A
guarded word whose guard is false (05 R138) still waits for its operands and changes nothing but the program counter, with
counts (and a precise sample record): shown for ADD, MOV, POPC and CMP. -/
def Obligations.CmpAndFalseGuards : Prop :=
  ∀ (r : Nat) (w : W128) (s : State), s.ready r w = true →
    let t := s.task r
    let skip : Task := t.at' (t.ctx.pc + 1)
    (∀ a b : W64, opcodeOf w = 0x20 → chkC w = true → t.guard w = true → t.opA w true = some a → t.opB w true = some b →
      let pd := fld w 111 109
      let cond : Bool := (if a = b then [0, 3, 5, 7, 9] else [1]).contains (fld w 115 112) ||
        (decide (a.toNat < b.toNat) && [2, 3].contains (fld w 115 112)) ||
        (decide (b.toNat < a.toNat) && [4, 5].contains (fld w 115 112)) ||
        (decide (a.toInt < b.toInt) && [6, 7].contains (fld w 115 112)) ||
        (decide (b.toInt < a.toInt) && [8, 9].contains (fld w 115 112)) ||
        (decide (a &&& b ≠ 0) && fld w 115 112 == 10) || (decide (a &&& b = 0) && fld w 115 112 == 11)
      let new : Bool := match fld w 108 107 with
        | 0 => cond
        | 1 => t.pred pd && cond
        | _ => t.pred pd || cond
      ∃ u : Task, s.issues (.cmp r) r u ∧ u = { t with ctx := { t.ctx with pc := t.ctx.pc + 1, p := u.ctx.p }, stall := .none } ∧
        u.pred 7 = true ∧ ∀ i, i < 7 → u.pred i = if i = pd then new else t.pred i) ∧
    (t.guard w = false →
      (∀ a b : W64, t.opA w true = some a → t.opB w true = some b →
        (opcodeOf w = 0x01 → chkA false true true w = true → s.issues (.add r) r skip) ∧
        (opcodeOf w = 0x20 → chkC w = true → s.issues (.cmp r) r skip)) ∧
      (∀ b : W64, t.opB w true = some b → opcodeOf w = 0x10 → chkA false false true w = true → s.issues (.mov r) r skip) ∧
      (∀ a : W64, t.opA w true = some a → opcodeOf w = 0x12 → chkA false true false w = true → s.issues (.popc r) r skip))

/-- Branches and loops (05 R141 to R143): a taken branch goes to TARGET, another word follows otherwise. BR tests its
operand by COND, BRP its predicate against PN; LOOP decrements a count that is not 0 and branches while the new count is
not 0, and a count of 0 stays 0 and falls through. JOIN (R149) is complete when no slot of its mask is occupied; else the
thread stands at it. -/
def Obligations.BranchesLoopAndJoin : Prop :=
  ∀ (r : Nat) (w : W128) (s : State), s.ready r w = true →
    let t := s.task r
    let next := t.ctx.pc + 1
    (∀ v : W64, opcodeOf w = 0x30 → chkB w = true → (fld w 115 112 ≠ 0 → t.src (fld w 95 89) = some v) →
      let taken : Bool := match fld w 115 112 with
        | 0 => true
        | 1 => decide (v = 0)
        | 2 => decide (v ≠ 0)
        | 3 => decide (v.toInt < 0)
        | 4 => decide (0 ≤ v.toInt)
        | 5 => decide (0 < v.toInt)
        | _ => decide (v.toInt ≤ 0)
      s.issues (.br r) r (t.at' (if taken then targetOf w else next))) ∧
    (opcodeOf w = 0x31 → fld w 119 116 = 0 → fld w 95 0 = 0 →
      s.issues (.brp r) r (t.at' (if t.pred (fld w 115 113) != bit w 112 then targetOf w else next))) ∧
    (opcodeOf w = 0x32 → fld w 119 112 = 0 → fld w 89 0 = 0 →
      let k := fld w 95 90
      (t.sreg k = 0 → s.issues (.loop r) r (t.at' next)) ∧
      (t.sreg k ≠ 0 → s.issues (.loop r) r ((t.setS k (t.sreg k - 1)).at' (if t.sreg k = 1 then next else targetOf w)))) ∧
    (opcodeOf w = 0x42 → fld w 119 64 = 0 →
      (t.named (w.setWidth 64) = [] → s.issues (.join r) r (t.at' next)) ∧
      (t.named (w.setWidth 64) ≠ [] → ∃ u, exec (.join r) s = .next u ∧
        u.task r = { t with stall := .join } ∧ (∀ q, q ≠ r → u.task q = s.task q) ∧ s.only u [.tasks, .cnt]))

/-! ### Route words: operations at issue (04 R104 to R107; 05 R144 to R151; 06 R157 to R185) -/

/-- WAIT and SIGNAL at issue (05 R145, R147; 12 R336, R347): with a handle available for waiting, WAIT occupies its slot;
with a handle available for signalling, local or through a waypoint import, SIGNAL does, in native mode while fewer than
32 signals are staged or will stage in the segment. -/
def Obligations.WaitAndSignalOccupy : Prop :=
  ∀ (r : Nat) (w : W128) (h v : W64) (s : State), s.readyOp r w [fld w 113 107, fld w 106 100] [h, v] → chkTwo w = true →
    let t := s.task r
    (opcodeOf w = 0x40 → s.waitOk t.fk h = true → s.occupies (.wait r) r w (.wait h v) []) ∧
    (opcodeOf w = 0x41 → (s.sigOk t.fk h = true ∨ (s.wpImport t.fk h).isSome = true) →
      (s.verkai t.part = true ∨ t.signals < 32) → s.occupies (.signal r) r w (.signal h v) [])

/-- DISPATCH, COPY, FILL and GATHER at issue (06 R170, R173 to R175): operands in range and aligned, objects that pass the
checks of R159 in their roles; the operation occupies its slot and the task's first naming of each object draws a
reference. -/
def Obligations.MovesOccupy : Prop :=
  ∀ (r : Nat) (w : W128) (s : State),
    let v := (s.task r).fk
    (∀ ss scb tok : W64, opcodeOf w = 0x60 → chkDispatch w = true →
      s.readyOp r w [fld w 113 107, fld w 106 100, fld w 88 82] [ss, scb, tok] →
      let uc := fld w 94 90
      let cvy := bit w 89
      let cb := if bit w 99 then some scb else none
      uc ≤ 16 → fld w 98 95 + uc ≤ 16 → (cvy = true → uc = 0 ∧ 0 < tok.toNat ∧ tok.toNat ≤ 2 ^ 20) →
      refOk ss = true → orOff ss % 64 = 0 → (∀ c, cb = some c → refOk c = true ∧ orOff c % 64 = 0) →
      s.namesStatus v (nameOf ss 0 false :: cb.toList.map fun c => nameOf c 256 false) = 0 →
      s.occupies (.dispatch r) r w (.dispatch ss cb (fld w 98 95) uc cvy (if cvy then tok.toNat else 0))
        (orNum ss :: cb.toList.map orNum)) ∧
    (∀ d x len : W64, opcodeOf w = 0x68 → chkMove 91 w = true →
      s.readyOp r w [fld w 113 107, fld w 106 100, fld w 99 93] [d, x, len] → refOk x = true → len.toNat ≤ 2 ^ 32 →
      (orWin d = true → orNum d < 2 ^ 12 → s.importOk v d = true → s.namesStatus v [nameOf x len.toNat false] = 0 →
        s.occupies (.copy r) r w (.copy d x len.toNat (bit w 92)) [orNum x]) ∧
      (orWin d = false → orNum d ≠ 0 →
        ¬(orNum d = orNum x ∧ 0 < len.toNat ∧ orOff d < orOff x + len.toNat ∧ orOff x < orOff d + len.toNat) →
        s.namesStatus v [nameOf x len.toNat false, nameOf d len.toNat true] = 0 →
        s.occupies (.copy r) r w (.copy d x len.toNat (bit w 92)) [orNum x, orNum d])) ∧
    (∀ d pat len : W64, opcodeOf w = 0x69 → chkMove 90 w = true →
      s.readyOp r w [fld w 113 107, fld w 106 100, fld w 99 93] [d, pat, len] → refOk d = true → len.toNat ≤ 2 ^ 32 →
      orOff d % 2 ^ fld w 92 91 = 0 → len.toNat % 2 ^ fld w 92 91 = 0 → s.namesStatus v [nameOf d len.toNat true] = 0 →
      s.occupies (.fill r) r w (.fill d pat len.toNat (fld w 92 91)) [orNum d]) ∧
    (∀ d b x n xv : W64, opcodeOf w = 0x6A → chkGather w = true →
      s.readyOp r w [fld w 113 107, fld w 106 100, fld w 99 93, fld w 92 86, fld w 79 73] [d, b, x, n, xv] →
      let xf := if bit w 80 then some (xfOf xv) else none
      let out := n.toNat * gatherOut (fld w 85 82) xf
      refOk d = true → refOk b = true → refOk x = true → n.toNat ≤ 65536 → orOff d % 64 = 0 → orOff b % 64 = 0 →
      orOff x % 4 = 0 → (bit w 80 = true → (xfOf xv).op = 2 ∧ xfOk xv 0 false = true) →
      s.namesStatus v [nameOf d out true, nameOf b 0 false, nameOf x (4 * n.toNat) false] = 0 →
      s.occupies (.gather r) r w (.gather d b x n.toNat (fld w 85 82) (bit w 81) xf) [orNum d, orNum b, orNum x])

/-- CONVERT, KV_COMPRESS, KV_EXPAND, DECRYPT and FOLD, the operations of XFORM, at issue (06 R176 to R179; 09 R275): a valid
descriptor of that operation, references that are aligned and pass the checks, and for DECRYPT a key slot released to the
task's partition; the operation occupies its slot. -/
def Obligations.TransformsOccupy : Prop :=
  ∀ (r : Nat) (w : W128) (d x n xv a : W64) (s : State), opcodeOf w = 0x70 → chkXform w = true →
    s.readyOp r w [fld w 113 107, fld w 106 100, fld w 99 93, fld w 92 86, fld w 85 79] [d, x, n, xv, a] →
    let xf := xfOf xv
    let aux := if bit w 78 then some a else none
    let b := xfBytes xf n.toNat
    let k : OpKind := .xform d x n.toNat xf aux (if bit w 77 then some (fld w 76 73) else none) (bit w 72)
    xfOk xv n.toNat (bit w 78) = true → refOk x = true → orOff x % 16 = 0 →
    (∀ c, aux = some c → refOk c = true ∧ (xf.op = 0 → orOff c % 4 = 0)) →
    (xf.op = 4 → fld w 113 107 = 0) → (xf.op ≠ 4 → refOk d = true ∧ orOff d % 16 = 0) →
    s.namesStatus (s.task r).fk (nameOf x b.1 false :: (if xf.op = 4 then [] else [nameOf d b.2.1 true]) ++
      aux.toList.map fun c => nameOf c b.2.2 (xf.op == 0 && isGroup xf.dst)) = 0 →
    (xf.op = 3 → (s.keyFor (s.task r).part xf.key).isSome = true) →
    let names := orNum x :: (if xf.op = 4 then [] else [orNum d]) ++ aux.toList.map orNum
    (xf.op = 0 → s.occupies (.convert r) r w k names) ∧ (xf.op = 1 → s.occupies (.kvCompress r) r w k names) ∧
    (xf.op = 2 → s.occupies (.kvExpand r) r w k names) ∧ (xf.op = 3 → s.occupies (.decrypt r) r w k names) ∧
    (xf.op = 4 → s.occupies (.fold r) r w k names)

/-- SAMPLE, PUBLISH, PIN, UNPIN, OPENWIN and CLOSEWIN at issue (06 R180 to R185): operands in range and aligned, objects
that pass the checks in their roles, in a native segment fewer than 64 publishes before one that stages; the operation occupies its slot. -/
def Obligations.ObjectOperationsOccupy : Prop :=
  ∀ (r : Nat) (w : W128) (s : State),
    let v := (s.task r).fk
    let room : Prop := s.verkai (s.task r).part = true ∨ (s.task r).publishes < 64
    (∀ l p h key pos n : W64, opcodeOf w = 0x78 → chkSample w = true →
      s.readyOp r w [fld w 113 107, fld w 106 100, fld w 99 93, fld w 92 86, fld w 85 79, fld w 78 72] [l, p, h, key, pos, n] →
      let ew := if fld w 67 67 = 1 then 4 else 2
      refOk l = true → refOk p = true → refOk h = true → 0 < n.toNat → n.toNat ≤ 2 ^ 20 → orOff l % ew = 0 →
      orOff p % 64 = 0 → room →
      s.namesStatus v [nameOf l (n.toNat * ew) false, nameOf p 64 false, nameOf h (4 * pos.toNat + 4) true] = 0 →
      s.occupies (.sample r) r w (.sample l p h key pos n.toNat (fld w 71 68) (fld w 67 67)) [orNum l, orNum p, orNum h]) ∧
    (∀ o n : W64, s.readyOp r w [fld w 113 107, fld w 106 100] [o, n] → refOk o = true →
      (opcodeOf w = 0x80 → chkTwo w = true → (n.toNat = 0 ∨ room) → s.namesStatus v [nameOf o n.toNat true] = 0 →
        s.occupies (.publish r) r w (.publish o n.toNat) [orNum o]) ∧
      (opcodeOf w = 0x81 → chkPin w = true → s.namesStatus v [nameOf o n.toNat false] = 0 →
        let post := if bit w 98 then some (fld w 97 94) else none
        (bit w 99 = false → s.occupies (.pin r) r w (.pin o n.toNat false post) [orNum o]) ∧
        (bit w 99 = true → s.occupies (.unpin r) r w (.pin o n.toNat true post) [orNum o]))) ∧
    (∀ o n k : W64, opcodeOf w = 0x82 → chkOpenwin w = true →
      s.readyOp r w [fld w 113 107, fld w 106 100, fld w 99 93] [o, n, k] → refOk o = true → 0 < n.toNat →
      n.toNat ≤ 2 ^ 32 → k.toNat ≤ 255 → s.namesStatus v [nameOf o n.toNat true] = 0 →
      s.occupies (.openwin r) r w (.openwin o n.toNat k.toNat (fld w 92 91) (fld w 90 87)) [orNum o]) ∧
    (∀ h : W64, opcodeOf w = 0x83 → fld w 106 64 = 0 → selOk (fld w 113 107) = true → s.readyOp r w [fld w 113 107] [h] →
      fld h 17 8 = v → s.occupies (.closewin r) r w (.closewin h) [])

/-- ENQUEUE at issue (05 R150 to R152; 04 R125): of a queue that is not ENABLED or has no free ring-slot credit, it writes 0
to the predicate and draws nothing; else it draws one credit and writes 1. In native mode it is complete, and a drawn one
stages its task; in Verkai mode it occupies its slot either way. -/
def Obligations.EnqueueDrawsCredit : Prop :=
  ∀ (r : Nat) (w : W128) (pa : W64) (s : State), opcodeOf w = 0x50 → fld w 73 64 = 0 → selOk (fld w 103 97) = true →
    s.readyOp r w [fld w 103 97] [pa] →
    let t := s.task r
    let len := fld w 96 81
    let ptr := bit w 80
    let scb := fld w 79 74
    let q := if bit w 110 then fld (t.sreg (fld w 109 104)) 5 0 else fld w 109 104
    let qk := qkey t.fk q
    let cbp := if ptr then some (t.sreg scb).toNat else none
    let cb := if ptr then [] else (List.range 4).map fun i => t.sreg (scb + i)
    let drawn := (s.queue qk).st == .enabled && decide (0 < (s.queue qk).free)
    let past := { (t.at' (t.ctx.pc + 1)).setP (fld w 113 111) drawn with issN := t.issN + 1 }
    len ≠ 0 → pa.toNat % 16 = 0 → (ptr = false → scb ≤ 60) → (ptr = true → (t.sreg scb).toNat % 64 = 0) →
    (s.verkai t.part = false → t.enqueues < 16) → ∃ u, exec (.enqueue r) s = .next u ∧
      (drawn = false → u.queues = s.queues) ∧
      (drawn = true → u.queue qk = { s.queue qk with credHeld := (s.queue qk).credHeld + 1 } ∧
        ∀ k, k ≠ qk → u.queue k = s.queue k) ∧
      (s.verkai t.part = false →
        u.task r = { past with staged := t.staged ++ if drawn then [(t.issN, .enq q pa.toNat len cbp cb)] else [] }) ∧
      (s.verkai t.part = true → ∃ o : Op, u.task r = { past with win := Tab.set none t.win (opnumOf w) (some o) } ∧
        o.kind = .enqueue q pa.toNat len cbp cb drawn ∧ o.iss = t.issN ∧
        ∀ i, i < 64 → (o.deps.getLsbD i = true ↔ i ≠ opnumOf w ∧ i ∈ t.named (w.setWidth 64))) ∧
      (∀ k, k ≠ r → u.task k = s.task k) ∧ s.only u (.tasks :: .queues :: .stamp :: countParts) ∧ s.funcsKept u ∧ s.objsKept u

/-! ### Segments, threads and task records (01 R16, R17; 04 R98 to R124, R130; 08) -/

/-- COMMIT, YIELD and ABORT with every slot free (04 R112, R114, R123; 05 R153 to R155): the record moves to COMMITTING, its
thread is free and past the word, and SUMMARY and the record flag are kept for the end (none for YIELD). Where no host
page needs a write-back, COMMIT and YIELD release at once. Every draft that a staged PUBLISH names becomes a published extent
of its object, with the draft's pages, and the object's published length reaches its end; a draft that none names is
discarded, and an object without a named draft stays as it was (06 R164). The local signals go to the Waypoint Store in
issue order, and the ENQUEUEs stay, in issue order, for TASK_RETIRE. ABORT publishes nothing: it
discards drafts and staged effects and returns the ring-slot credit of each staged ENQUEUE. Where it rests on a choice of the model: log 42, 43. -/
def Obligations.CommitYieldAbort : Prop :=
  ∀ (r : Nat) (w : W128) (v : W64) (s : State), s.ready r w = true → (s.task r).idle = true →
    let t := s.task r
    let ends (u : Task) (e : Ending) (v : W64) (b : Bool) : Prop :=
      u.st = .committing ∧ u.ending = e ∧ u.summary = v ∧ u.wantRec = b ∧ u.thread = none ∧ u.ctx.pc = t.ctx.pc + 1 ∧
      u.gen = t.gen ∧ u.kind = t.kind ∧ u.job = t.job
    let sigs : List (W64 × W64 × SigSrc) := (sortIss t.staged).filterMap fun e => match e.2 with
      | .sig h x => if bit h 47 then none else some (h, x, .task r t.gen t.fk none)
      | _ => none
    let enqs := (sortIss t.staged).filter fun e => match e.2 with
      | .enq .. => true
      | _ => false
    let named (d : Draft) : Prop := d ∈ t.drafts ∧ d.lost = false ∧ ∃ g ∈ t.pubs, d.meets g.1 g.2.1 g.2.2 = true
    let len (d : Draft) : Nat := if d.kind = .repl then d.pages.length else d.len
    let ends' (d : Draft) : Nat := d.off + max (len d) (if d.kind = .repl then (s.obj d.obj).slotPg else 0)
    let published (u : State) : Prop :=
      (t.drafts.Pairwise fun a b => a.obj = b.obj → ends' a ≤ b.off ∨ ends' b ≤ a.off) →
      (∀ d, named d → d.kind ≠ .host → 0 < len d → ∃ e ∈ (u.obj d.obj).exts,
        e.off = d.off ∧ e.len = len d ∧ e.store = .pages d.own ∧
        ((u.obj d.obj).isHost = false → d.off + len d ≤ (u.obj d.obj).publishedPg)) ∧
      (∀ n, ∀ e ∈ (u.obj n).exts, e ∈ (s.obj n).exts ∨
        ∃ d, named d ∧ d.obj = n ∧ e.off = d.off ∧ e.len = len d ∧ e.store = .pages d.own) ∧
      ∀ n, (∀ d, named d → d.obj ≠ n) → u.obj n = s.obj n
    let released (u : State) : Prop := t.backPages = [] → (u.task r).released = true ∧ (u.task r).drafts = [] ∧
      (u.task r).staged = enqs ∧ (u.task r).sigs = sigs.length ∧ u.wps.sigq = s.wps.sigq ++ sigs ∧ published u
    (opcodeOf w = 0x52 → chkT w = true → t.src (fld w 113 107) = some v → ∃ u, exec (.commit r) s = .next u ∧
      ends (u.task r) .commit v (bit w 106) ∧ released u ∧ (∀ q, q ≠ r → u.task q = s.task q) ∧
      s.only u [.tasks, .sto, .objs, .parts, .wps, .xl, .rbuf, .geq, .out, .funcs, .cnt, .freeCtr, .stamp]) ∧
    (opcodeOf w = 0x51 → fld w 119 0 = 0 → ∃ u, exec (.yield r) s = .next u ∧
      ends (u.task r) .yield 0 false ∧ released u ∧ (∀ q, q ≠ r → u.task q = s.task q) ∧
      s.only u [.tasks, .sto, .objs, .parts, .wps, .xl, .rbuf, .geq, .out, .funcs, .cnt, .freeCtr, .stamp]) ∧
    (opcodeOf w = 0x53 → chkT w = true → t.src (fld w 113 107) = some v → ∃ u, exec (.abort r) s = .next u ∧
      ends (u.task r) .abort v (bit w 106) ∧ (u.task r).drafts = [] ∧ (u.task r).staged = [] ∧
      (∀ k, u.queue k = { s.queue k with credHeld := (s.queue k).credHeld - (t.staged.filter fun e => match e.2 with
        | .enq q .. => qkey t.fk q == k
        | _ => false).length }) ∧
      (∀ q, q ≠ r → u.task q = s.task q) ∧ s.only u (.tasks :: .queues :: .parts :: .rbuf :: countParts) ∧ s.objsKept u)

/-- TASK_START (04 R98, R99): inside a slice, a free thread takes the ADMITTED task of the running job that is first in
order, reruns ahead, and it is RUNNING with its context. Where it rests on a choice of the model: log 39. -/
def Obligations.TaskStartTakesFirst : Prop :=
  ∀ (n th r : Nat) (j : Job) (x : Task) (s : State), (s.part n).job = some j → s.inSlice n = true →
    s.threadFree n th = true → firstTask (s.admittedOf n j) = some (r, x) →
    (r, x) ∈ s.admittedOf n j ∧ (∀ e ∈ s.admittedOf n j, e.2.before x = false) ∧ ∃ t, exec (.taskStart n th) s = .next t ∧
      t.task r = { s.task r with st := .running, thread := some th, stall := .none, parked := none } ∧
      (∀ q, q ≠ r → t.task q = s.task q) ∧ s.only t [.tasks, .parts, .sto, .cnt] ∧
      ((s.task r).parked = none → s.only t [.tasks, .cnt])

/-- Parking, resuming and suspending (04 R102, R130; 12 R348): a thread that still waits for a slot, a join, a commit or a
yield, and for which there is room, saves its context and is free, and a lantern waits for its condition; a parked task whose
lantern has fired, first among those of its job, or a suspended one in its job's next slice, gets a free thread back and frees
its place; at its tile boundary a Verkai task of a draining partition
is suspended, its WAITs to be armed again and its lanterns out. Where it rests on a choice of the model: log 1, 45. -/
def Obligations.ParkResumeSuspend : Prop :=
  ∀ (r th : Nat) (s : State),
    let t := s.task r
    let n := t.part
    let room : Prop := (∃ e ∈ (s.part n).tsUnits, e.2 < 64) ∨ (s.pickUnit n).isSome = true
    let held (u : State) (k : Nat) : Prop := Tab.get 0 (u.part n).tsUnits k = Tab.get 0 (s.part n).tsUnits k + 1
    (t.canIssue = true → t.parkable = true → t.awaited = false → room → ∃ u k, exec (.taskPark r) s = .next u ∧
      u.task r = { t.keepLine with parked := some k, thread := none, stall := .parked, lit := none } ∧ held u k ∧
      u.wps = { s.wps with lans := s.wps.lans ++ [⟨0, 0, .parked r t.gen⟩] } ∧
      (∀ q, q ≠ r → u.task q = s.task q) ∧ s.only u [.tasks, .parts, .sto, .wps, .cnt, .funcs] ∧ s.funcsKept u) ∧
    (t.canIssue = true → t.awaited = true → exec (.taskPark r) s = .next s) ∧
    (t.st = .running → t.thread = none → t.parked.isSome = true → s.inSlice n = true → (s.part n).job = some t.job →
      s.threadFree n th = true → t.suspended = true ∨ s.litFirst t = true → ∃ u, exec (.taskResume r th) s = .next u ∧
      u.task r = { t with parked := none, thread := some th, suspended := false, stall := .none, lit := none } ∧
      (∀ q, q ≠ r → u.task q = s.task q) ∧ s.only u [.tasks, .parts, .sto, .cnt, .funcs] ∧ s.funcsKept u) ∧
    (t.st = .running → t.suspended = false → s.verkai n = true → (s.part n).draining = true → t.tileBusy = false →
      t.parked.isSome = true ∨ room → ∃ u, exec (.verkaiSuspend r) s = .next u ∧
      (∃ k, u.task r = { t.rearm.keepLine with parked := some k, suspended := true, thread := none, stall := .parked, lit := none } ∧
        (t.parked = none → held u k) ∧ (t.parked.isSome = true → t.parked = some k)) ∧
      u.wps = { s.wps with lans := u.wps.lans } ∧
      (∀ l, l ∈ u.wps.lans ↔ l ∈ s.wps.lans ∧ ∀ k, l.kind ≠ .wait r k ∧ l.kind ≠ .parked r k) ∧
      (∀ q, q ≠ r → u.task q = s.task q) ∧ s.only u [.tasks, .parts, .sto, .wps, .cnt, .funcs] ∧ s.funcsKept u)

/-- TASK_RETIRE (04 R112, R113): a COMMITTING record whose release is carried out and whose signals are applied becomes
RETIRED with nothing staged and no reference held. In a partition that runs no slice, a segment that staged no ENQUEUE and
ends its host submission decides it with the commit-time status and SUMMARY, without a record when its queue is being
destroyed. Where it rests on a choice of the model: log 43, 71. -/
def Obligations.TaskRetires : Prop :=
  ∀ (r : Nat) (s : State), (s.task r).st = .committing → (s.task r).released = true → (s.task r).sigs = 0 →
    let t := s.task r
    ∃ u, exec (.taskRetire r) s = .next u ∧ (u.task r).st = .retired ∧ (u.task r).staged = [] ∧ (u.task r).refs = [] ∧
      (u.task r).gen = t.gen ∧ (u.task r).ctx = t.ctx ∧
      ((s.part t.part).running = false → t.staged = [] → t.kind = .host → t.ending ≠ .yield →
        ∀ x ∈ (s.queue t.qk).subs, x.ord = t.ord → (∀ y ∈ (s.queue t.qk).subs, y.ord = t.ord → y = x) → x.fin = none →
          { x with fin := some ⟨t.cstat, t.summary, false, (s.queue t.qk).st == .destroying, true⟩ } ∈ (u.queue t.qk).subs)

/-- RECORD_RELEASE (01 R15 to R17; 04 R117; 08 R247): a killed record with no operation left holds its segment's rerun,
ADMITTED from the segment's start under the next generation, unless a reset admits reruns at its end or the record is
withdrawn; one that fails, or a retired one, is EMPTY and keeps its generation, and a task that waits for a record takes the
lowest EMPTY one. A slice whose job has no task left ends with it (08 R219); otherwise nothing else changes. The last two are
stated where no engine or peer request waits for draft space.
Where it rests on a choice of the model: log 44, 90. -/
def Obligations.RecordReleaseRerunsOrEmpties : Prop :=
  ∀ (r : Nat) (s : State), (s.task r).drained = true →
    let t := s.task r
    let calm : Prop := (s.part t.part).running = true → ∀ j, (s.part t.part).job = some j → s.jobLive t.part j = true
    (t.st = .killed → t.after = some .rerun → s.resetHolds t.part = false → t.withdrawn = false →
      ∃ u, exec (.recordRelease r) s = .next u ∧
        u.task r = { t.again with gen := nextGen t.gen, st := .admitted } ∧ t.again.ctx = t.start ∧ t.again.win = [] ∧
        (calm → (∀ q, q ≠ r → u.task q = s.task q) ∧ s.only u [.tasks, .queues, .stamp, .cnt])) ∧
    ((t.st = .killed ∧ t.after ≠ some .rerun) ∨ (t.st = .retired ∧ t.ending ≠ .yield) → s.xl.waiting = [] →
      (s.waitTasks = [] → ∃ u, exec (.recordRelease r) s = .next u ∧
        u.task r = { gen := t.gen, withdrawn := t.withdrawn } ∧
        (calm → (∀ q, q ≠ r → u.task q = s.task q) ∧ s.only u [.tasks, .cnt])) ∧
      (∀ x rest, s.waitTasks = x :: rest → r < records → t.withdrawn = false →
        ∃ u i, exec (.recordRelease r) s = .next u ∧ i ≤ r ∧ u.waitTasks = rest ∧ (u.task i).st = .admitted ∧
          (u.task i).gen = nextGen (s.task i).gen ∧ (u.task i).ctx = x.ctx ∧ (u.task i).job = x.job ∧
          (∀ q, q < i → (s.task q).st ≠ .empty ∨ (s.task q).withdrawn = true)))

/-- CONTINUATION_ADMIT (04 R103, R123, R124): with room for its context, the continuation of a segment that yielded takes
the lowest EMPTY record, at most the one it gives up, and is ADMITTED with the context that the YIELD saved.
Where it rests on a choice of the model: log 90. -/
def Obligations.ContinuationResumesContext : Prop :=
  ∀ (r : Nat) (s : State), r < records → (s.task r).st = .retired → (s.task r).ending = .yield →
    (s.task r).withdrawn = false →
    ((∃ e ∈ (s.part (s.task r).part).tsUnits, e.2 < 64) ∨ (s.pickUnit (s.task r).part).isSome = true) →
    let t := s.task r
    ∃ u i k, exec (.continuationAdmit r) s = .next u ∧ i ≤ r ∧
      (∀ q, q < i → (s.task q).st ≠ .empty ∨ (s.task q).withdrawn = true) ∧
      (u.task i).st = .admitted ∧ (u.task i).gen = nextGen (s.task i).gen ∧ (u.task i).ctx = t.ctx ∧
      (u.task i).start = t.ctx ∧ (u.task i).resumed = true ∧ (u.task i).parked = some k ∧ (u.task i).ord = t.ord ∧
      (u.task i).win = [] ∧ (i ≠ r → u.task r = { gen := t.gen, withdrawn := t.withdrawn }) ∧
      (∀ q, q ≠ r → q ≠ i → u.task q = s.task q) ∧ s.only u [.tasks, .queues, .parts, .sto, .stamp, .cnt]

/-! ### Operations at start and at completion (04 R105 to R109; 06 R168 to R185; 10 R279, R292) -/

/-- OPERATION_START (04 R107; 05 R145, R147; 06 R159, R161, R168, R184, R185): an operation whose mask is satisfied, of a
RUNNING task and not held back by dim mode, starts. One of size 0 completes at once; a WAIT completes when its waypoint is
at or beyond its target and otherwise holds a lantern; in native mode SIGNAL, OPENWIN and CLOSEWIN stage their effect and
complete; a local COPY, a FILL, a CONVERT, a KV_COMPRESS, a KV_EXPAND or a FOLD draws the credit of its MTU and runs, and
waits unchanged while that MTU has no free credit. A KV_EXPAND reads its source as it starts, as far as the hosts have
brought it, and an invalid page ends its task with 0x19. Completing posts, frees the slot and clears its bit in every mask;
the lantern of a parked task whose condition has come true with it fires (12 R348). Where it rests on a choice of the
model: log 52. -/
def Obligations.OperationStarts : Prop :=
  ∀ (r slot : Nat) (o : Op) (s : State), (s.task r).op slot = some o → (s.task r).st = .running →
    (s.task r).suspended = false → o.phase = .ready → s.heldBack (s.task r) o = false →
    let t := s.task r
    let c := Instr.operationStart r slot
    let completed (t : Task) (posts : List (Nat × W64)) : Task :=
      { t with win := Tab.set none t.win slot none
               ctx := { t.ctx with u := posts.foldl (fun (u : Tab W64) (p : Nat × W64) => Tab.set 0 u p.1 p.2) t.ctx.u } }.satisfy slot s.stamp
    let ends (u : State) (x : Task) (posts : List (Nat × W64)) : Prop :=
      let y := completed x posts
      let lit := (s.wps.lans.any fun l => l.kind == .parked r t.gen) && y.awaited
      exec c s = .next u ∧ u.task r = (if lit then { y with lit := some (s.stamp + 1) } else y) ∧
      u.wps = (if lit then { s.wps with lans := s.wps.lans.filter fun l => l.kind != .parked r t.gen } else s.wps) ∧
      (∀ q, q ≠ r → u.task q = s.task q) ∧ s.only u (.tasks :: .wps :: .stamp :: countParts) ∧ s.objsKept u
    let staged (e : Stg) : Task := { t with staged := t.staged ++ [(o.iss, e)] }
    (o.kind.size = 0 → ∃ u, ends u t []) ∧
    (∀ h v, o.kind = .wait h v → s.waitOk t.fk h = true → (s.wp (wpIndex h)).poisoned = false →
      (atOrBeyond (s.wp (wpIndex h)).value v = true → ∃ u, ends u t []) ∧
      (atOrBeyond (s.wp (wpIndex h)).value v = false → ∃ u, exec c s = .next u ∧
        (u.task r).op slot = some { o with phase := .running } ∧
        u.wps = { s.wps with lans := s.wps.lans ++ [⟨wpIndex h, v, .wait r slot⟩] } ∧
        (∀ q, q ≠ r → u.task q = s.task q) ∧ s.only u [.tasks, .wps, .cnt])) ∧
    (s.verkai t.part = false →
      (∀ h v, o.kind = .signal h v → ∃ u, ends u (staged (.sig h v)) []) ∧
      (∀ x n k acc d, o.kind = .openwin x n k acc d → (s.obj (orNum x)).lostAt (orOff x) n = false →
        let g := (Tab.get {} (s.func t.fk).wins k).gen
        ∃ u, ends u (staged (.openW k (orNum x) (orOff x) n acc g)) [(d, pack [(48, winGen g), (8, t.fk), (0, k)])]) ∧
      (∀ h, o.kind = .closewin h → ∃ u, ends u (staged (.closeW h)) [])) ∧
    (∀ refs, (match o.kind with
        | .copy d x n _ => n ≠ 0 ∧ orWin d = false ∧ refs = [d, x]
        | .fill d _ n _ => n ≠ 0 ∧ refs = [d]
        | .xform d x n xf _ _ _ => n ≠ 0 ∧ xf.op ≠ 3 ∧ refs = if xf.op = 4 then [x] else [d, x]
        | _ => False) →
      let w := s.startMove r slot refs [] (fun _ _ => 0) 0
      (∀ m, s.opMtu r slot refs = some m → 0 < s.mtuFree m →
        (∃ res, (w.task r).op slot =
          some { o with phase := .running, mtu := some m, began := s.stamp, cap := [], key := 0, got := [], res := res }) ∧
        w.mtuHeld m = s.mtuHeld m + 1 ∧ (∀ k, k ≠ m → w.mtuHeld k = s.mtuHeld k) ∧
        (∀ q, q ≠ r → w.task q = s.task q) ∧ s.only w [.tasks, .mtus, .stamp, .xl, .cnt] ∧
        (o.early = false → ∃ u, exec c s = .next u ∧ w.only u [.cnt]) ∧
        (o.early = true → ∀ y v, (w.task r).op slot = some y → w.readTiles r slot y.toRead = .ok v →
          (((v.task r).op slot).any Op.zkBad = false → ∃ u, exec c s = .next u ∧ v.only u [.cnt]) ∧
          (((v.task r).op slot).any Op.zkBad = true → (v.task r).killable = true → ∃ u, exec c s = .next u ∧
            (u.task r).st = .killed ∧ (u.task r).after = some (.fail 0x19) ∧ (u.task r).op slot = none))) ∧
      ((∀ m, s.opMtu r slot refs = some m → s.mtuFree m = 0) → exec c s = .next s))

/-- A Sampling Unit that works on nothing takes the waiting SAMPLE that started first at the MTU whose turn it is, or else at
its other MTU, and the turn passes to the MTU it did not take from (10 R279). MTU_OPERATION_COMPLETE and SAMPLE_COMPLETE (06
R168; 10 R292; 04 R105, R109, R111; 11 R317): where the hosts have brought what a running operation of a native task has
still to read, and its drafts are ready, its result is computed from what it read and written, its MTU credit returns, its
value is posted and its slot is free; no host's memory changes, and of the Waystation and of package memory only pages that
the task's drafts, or a remote COPY's draft space, hold. `p` is the state in which the remaining tiles have been read, `v`
the one in which they have been written; what an earlier look ahead resolved is cut at the pages of its tiles, as the
model makes it. Where it rests on a choice of the model: log 49, 52. -/
def Obligations.MovesComplete : Prop :=
  (∀ (r slot k m id : Nat) (o o' : Op) (x : Moved) (c : Instr) (s p v : State), (s.task r).op slot = some o →
      o.phase = .running → o.mtu = some m → s.verkai (s.task r).part = false → (s.task r).st = .running →
      s.unsampled = true → (∀ y ∈ o.writes, (s.obj (orNum y.1)).scratch = false) →
      (∀ (i : Nat) (l : List (Backing × Nat)) (y : Tile), o.res[i]? = some l → (o.tiles.drop o.pos)[i]? = some y → l.map (·.2) = (pageChunks y.off y.len).map (·.2)) →
      ((c = .mtuOperationComplete id slot ∧ idRec id = r ∧ idGen id = (s.task r).gen ∧ (match o.kind with
          | .sample .. => False
          | .publish .. => False
          | _ => True)) ∨
        (c = .sampleComplete k ∧ ∃ rest, (s.suOps k fun o => o.taken && o.phase == .running) = (r, slot, o) :: rest)) →
      s.readTiles r slot o.toRead = .ok p → (p.task r).op slot = some o' → o'.compute o'.pieces = .ok x →
      p.writeTiles r slot (o'.toWrite x) = .ok v →
      let posts := o.kind.postOf x.post
      ∃ t, exec c s = .next t ∧ (t.task r).op slot = none ∧ t.mtuHeld m = s.mtuHeld m - 1 ∧
        (∀ k, k ≠ m → t.mtuHeld k = s.mtuHeld k) ∧
        (t.task r).ctx = { (s.task r).ctx with u := posts.foldl (fun (a : Tab W64) (e : Nat × W64) => Tab.set 0 a e.1 e.2) (s.task r).ctx.u } ∧
        (t.task r).drafts = (v.task r).drafts ∧ t.sto = (v.sideEffect r slot o').sto ∧
        (∀ a, (∀ d ∈ (t.task r).drafts, PageRef.ws (a / 4096) ∉ d.own) → PageRef.ws (a / 4096) ∉ o'.pages →
          t.readLoc (.ws a) = s.readLoc (.ws a)) ∧
        (∀ a, (∀ d ∈ (t.task r).drafts, PageRef.pkg (a / 4096) ∉ d.own) → PageRef.pkg (a / 4096) ∉ o'.pages →
          t.readLoc (.pkg a) = s.readLoc (.pkg a)) ∧
        (∀ q, t.hostMem q = s.hostMem q) ∧ (∀ q, q ≠ r → t.task q = s.task q) ∧
        s.only t [.tasks, .mtus, .sto, .xl, .rbuf, .out, .stamp, .cnt, .funcs, .freeCtr, .wps]) ∧
  (∀ (k r slot m : Nat) (o : Op) (s : State),
    let waiting (m : Nat) := firstStarted (s.suOps k fun o => o.phase == .running && o.mtu == some m)
    let a := 2 * k + Tab.get 0 s.suTurn k
    let b := 2 * k + (1 - Tab.get 0 s.suTurn k)
    s.suOps k (fun o => o.taken) = [] → o.mtu = some m →
    waiting a = some (r, slot, o) ∨ (waiting a = none ∧ waiting b = some (r, slot, o)) → (s.task r).op slot = some o →
    ∃ t, exec (.samplingUnitTake k) s = .next t ∧ (t.task r).op slot = some { o with taken := true } ∧
      Tab.get 0 t.suTurn k = 1 - m % 2 ∧ (∀ j, j ≠ k → Tab.get 0 t.suTurn j = Tab.get 0 s.suTurn j) ∧
      (∀ q, q ≠ r → t.task q = s.task q) ∧ s.only t [.tasks, .suTurn, .cnt])

/-- Stored bytes read back (12 R328): a byte written to the Waystation, to package memory or to a host's memory reads back,
the bytes of every other 32-byte word read as before, and the memories keep their canonical form. Retiring storage that
nothing reads any more is forgotten and its pages return (11 R309). Where it rests on a choice of the model: log 10, 89. -/
def Obligations.StoredBytesAndRetiringPages : Prop :=
  ∀ (b : Byte) (s : State),
    (∀ a, (s.writeLoc (.ws a) (some b)).readLoc (.ws a) = some b ∧
      (∀ x, x / 32 ≠ a / 32 → (s.writeLoc (.ws a) (some b)).readLoc (.ws x) = s.readLoc (.ws x)) ∧
      (s.sto.ws.wf none = true → (s.writeLoc (.ws a) (some b)).sto.ws.wf none = true)) ∧
    (∀ a, (s.writeLoc (.pkg a) (some b)).readLoc (.pkg a) = some b ∧
      (∀ x, x / 32 ≠ a / 32 → (s.writeLoc (.pkg a) (some b)).readLoc (.pkg x) = s.readLoc (.pkg x)) ∧
      (s.sto.pkg.wf (some 0) = true → (s.writeLoc (.pkg a) (some b)).sto.pkg.wf (some 0) = true)) ∧
    (∀ p a, (s.writeLoc (.host p a) (some b)).readLoc (.host p a) = some b ∧
      (∀ q x, q ≠ p ∨ x / 32 ≠ a / 32 → (s.writeLoc (.host p a) (some b)).readLoc (.host q x) = s.readLoc (.host q x)) ∧
      ((s.hostMem p).wf (some 0) = true → ((s.writeLoc (.host p a) (some b)).hostMem p).wf (some 0) = true)) ∧
    (∀ (i : Nat) (x : Retiring), s.sto.retiring[i]? = some x → s.stillRead x = false →
      ∃ u, exec (.retiringStorageRelease i) s = .next u ∧ u.sto.retiring = s.sto.retiring.eraseIdx i ∧
        u.sto.pkgUsed = s.sto.pkgUsed.diff (x.pages.filterMap fun p => match p with
          | .pkg p => some p
          | .ws _ => none) ∧
        u.sto.ws = s.sto.ws ∧ u.sto.pkg = s.sto.pkg ∧ u.sto.host = s.sto.host ∧ s.only u [.sto])

/-! ### Dispatches and engine ports (07) -/

/-- BUNDLE_FETCH and BUNDLE_OFFER (07 R189, R192 to R196): the sequencer takes the next bundle of its running dispatch,
brought from memory and with checks that hold, and counts its steps, no further than 16 bundles ahead of any port; a usable port with a free credit is offered the next
fetched bundle, behind the engine constant buffer where it has not had it, draws one of its 16 credits and owes the POSTs
that its slots ask for. Where it rests on a choice of the model: log 23, 105. -/
def Obligations.BundlesFetchedAndOffered : Prop :=
  ∀ (n i : Nat) (d : Disp) (s : State), s.dispIdx n (fun d => d.running && !d.stopping) = some i →
    (s.part n).seqr[i]? = some d →
    (∀ r slot u, d.wantsMore = true → s.dispReader n d = some (r, slot) →
      let len := bundleBytes d.nports
      let off := d.off + 0x40 + d.next * len
      s.prepRead (.op r (s.task r).gen slot) r d.obj off len = .ok u →
      let raw := u.taskRead (u.task r) d.obj off len
      let h : W64 := BitVec.ofNat 64 (leAt (plain raw) 0 8)
      let slots := (List.range (4 * d.nports)).map fun j => BitVec.ofNat 32 (leAt (plain raw) (8 + 4 * j) 4)
      let k := resolveCount h d.cbuf
      let b : Bundle := { idx := d.next, last := decide (fld h 47 46 = 1), count := k, hdr := sentHeader h k, slots := slots }
      poisonStatus raw = 0 → d.bundleOk h slots = true → ∃ t, exec (.bundleFetch n) s = .next t ∧
        t.part n = { s.part n with seqr := modAt (fun _ => { d with
          next := d.next + 1, steps := d.steps + k, fetched := if k = 0 then d.fetched else d.fetched ++ [b] }) i (s.part n).seqr } ∧
        (∀ m, m ≠ n → t.part m = s.part m) ∧ (∀ q, q ≠ r → t.task q = s.task q) ∧
        s.only t [.parts, .tasks, .xl, .cnt, .funcs, .out, .freeCtr] ∧ s.funcsKept t) ∧
    (∀ port j l b, d.lps.findIdx? (fun l => l.port == port) = some j → d.lps[j]? = some l →
      d.fetched[l.offered]? = some b → (s.eport port).usable = true → (s.eport port).held < 16 →
      let msg (kind : Nat) (hdr p0 p1 : W64) : FwdMsg :=
        { hdr := hdr, pgen := s.portPgen port, egen := (s.eport port).egen, dtag := d.dtag, kind := kind, pay0 := p0, pay1 := p1 }
      let cb := if l.cb then [] else (List.range 16).map fun w =>
        msg 1 (BitVec.ofNat 64 w) (d.cbuf.getD (2 * w) 0) (d.cbuf.getD (2 * w + 1) 0)
      ∃ t, exec (.bundleOffer n port) s = .next t ∧
        t.eport port = { s.eport port with
          held := (s.eport port).held + 1, lastVf := some (s.part n).schVf, lastTag := d.dtag
          fwd := (s.eport port).fwd ++ cb ++ [msg 0 b.hdr (slotPair b.slots (4 * j)) (slotPair b.slots (4 * j + 2))] } ∧
        (∀ q, q ≠ port → t.eport q = s.eport q) ∧
        t.part n = { s.part n with seqr := modAt (fun _ => d.modPort port fun x => { x with
          cb := if l.cb then x.cb else true, offered := x.offered + 1, posts := x.posts ++ owedPosts b.slots j l.offered }) i (s.part n).seqr } ∧
        (∀ m, m ≠ n → t.part m = s.part m) ∧ s.only t [.parts, .ports, .cnt, .freeCtr])

/-- The return messages of a live dispatch (07 R195, R197 to R205; 13 R361, R375): each counts a handshake and is the port's
last return. ACCEPT returns one credit and adds its occupancies; POST takes the first POST that its unit owes and combines
its value; WDONE is noted; ABANDON_ACK of a stopping dispatch returns the credits of what the port discarded; a FAULT ends
the dispatch's own task with 0x11, and does nothing to a stopping one. POSTs combine by the code of their index: LAST keeps
the latest, MAXU and MAXF the greatest, +0 above -0 and a NaN ignored, ADD sums. A message that makes the dispatch complete
(R204) takes it out of the sequencer and returns its MTU credit; a task's dispatch posts its summaries and frees its
operation's slot; with a convoy's, the members whose last entry it carried complete and leave the Builder.
Where it rests on a choice of the model: log 25. -/
def Obligations.ReturnMessages : Prop :=
  ∀ (k n i : Nat) (g : Tag) (d : Disp) (l : LPort) (s : State), (s.eport k).retired = false →
    s.matchRet k g = some (n, i, d, l) →
    let heard (t : State) (msg : W128) (c : Nat) : Prop :=
      t.eport k = { s.eport k with lastRet := msg, held := (s.eport k).held - c } ∧ (∀ q, q ≠ k → t.eport q = s.eport q) ∧
      t.hands (ckey 1 k) = (s.hands (ckey 1 k) + 1) % 2 ^ 32
    let goesOn (t : State) (d' : Disp) : Prop := t.part n = { s.part n with seqr := modAt (fun _ => d') i (s.part n).seqr } ∧
      (∀ m, m ≠ n → t.part m = s.part m) ∧ s.only t [.parts, .ports, .cnt, .funcs, .out, .sto, .xl, .freeCtr, .objs] ∧
      s.objsKept t
    let put (u : Tab W64) (l : List (Nat × W64)) : Tab W64 := l.foldl (fun u p => Tab.set 0 u p.1 p.2) u
    let completes (t : State) (d' : Disp) : Prop := d'.finished = true → t.mtuHeld d.mtu = s.mtuHeld d.mtu - 1 ∧
      (t.part n).seqr.map (·.dtag) = ((s.part n).seqr.map (·.dtag)).eraseIdx i ∧
      (d.owner = .convoy → (t.part n).cvy.run = none ∧ ∀ es, (s.part n).cvy.run = some es → ∀ e ∈ es, e.last = true →
        Tab.get none (t.part n).cvy.members e.mslot = none ∧
        ∀ m, Tab.get none (s.part n).cvy.members e.mslot = some m → m.gone = false → (s.task m.r).gen = m.gen →
          (t.task m.r).op m.slot = none) ∧
      ∀ r gen slot o, d.owner = .task r gen slot → (s.task r).gen = gen → (s.task r).op slot = some o →
        (t.task r).op slot = none ∧
        (t.task r).ctx = { (s.task r).ctx with u := put (s.task r).ctx.u (o.kind.sumPosts d'.acc) }
    (∀ v, l.accepted < l.offered →
      let b := d.fetched[l.accepted]?
      let cnt := (b.map (·.count)).getD 0
      let last := (b.map (·.last)).getD false
      let dp := d.modPort k fun x => { x with accepted := x.accepted + 1, lastAcc := x.lastAcc || last }
      let d' : Disp := { dp with
        occC := d.occC + fld v 15 0 * cnt, occM := d.occM + fld v 31 16 * cnt
        fetched := modAt (fun b => { b with occC := b.occC + fld v 15 0, occM := b.occM + fld v 31 16 }) l.accepted d.fetched }
      ∃ t, exec (.accept k g v) s = .next t ∧ completes t d' ∧
        (d'.finished = false → heard t (retMsg g 0 0 0 v) 1 ∧ goesOn t d')) ∧
    (∀ unit index v p, l.posts.find? (fun p => p.2 == unit) = some p → d.stopping = false → index < 16 →
      d.summask.testBit index = true →
      let j := (d.lps.findIdx? fun x => x.port == k).getD 0
      let key := 1 + p.1 * 256 + 4 * j + unit
      let old := d.acc.getD index 0
      let code := d.sumcomb / 4 ^ index % 4
      let new := combine code old (d.accKey.getD index 0) key v
      let dp := d.modPort k fun x => { x with posts := x.posts.erase p }
      let d' : Disp := { dp with
        acc := d.acc.set index new.1, accKey := d.accKey.set index new.2 }
      let f := fld v 31 0
      let above := lt32 (fld old 31 0) f || (f == 0 && fld old 31 0 == 0x80000000)
      (code = 0 → d.accKey.getD index 0 ≤ key → new = (v, key)) ∧
      (code = 0 → key < d.accKey.getD index 0 → new = (old, d.accKey.getD index 0)) ∧
      (code = 1 → new.1.toNat = max old.toNat v.toNat) ∧
      (code = 2 → isNan32 f = false → above = true → new.1 = BitVec.ofNat 64 f) ∧
      (code = 2 → isNan32 f = true ∨ above = false → new.1 = old) ∧
      (code = 3 → new.1 = old + v) ∧
      ∃ t, exec (.post k g unit index v) s = .next t ∧ completes t d' ∧
        (d'.finished = false → heard t (retMsg g 1 unit index v) 0 ∧ goesOn t d')) ∧
    (l.wdone = false → l.lastAcc = true ∨ d.stopping = true →
      let d' := d.modPort k fun x => { x with wdone := true }
      ∃ t, exec (.wdone k g) s = .next t ∧ ((∀ x ∈ (s.part n).seqr, x.drained = false) → completes t d') ∧
        (d'.finished = false → (∀ x ∈ modAt (fun _ => d') i (s.part n).seqr, x.drained = false) →
          heard t (retMsg g 2 0 0 0) 0 ∧ goesOn t d')) ∧
    (∀ v, d.stopping = true → l.acked = false →
      let c := min v.toNat (l.offered - l.accepted)
      let d' := d.modPort k fun x => { x with acked := true, accepted := x.accepted + c }
      ∃ t, exec (.abandonAck k g v) s = .next t ∧ ((∀ x ∈ modAt (fun _ => d') i (s.part n).seqr, x.drained = false) →
        heard t (retMsg g 4 0 0 v) c ∧ goesOn t d')) ∧
    (∀ unit v, ∃ t, exec (.fault k g unit v) s = .next t ∧
      (d.stopping = true → heard t (retMsg g 3 unit 0 v) 0 ∧ goesOn t d) ∧
      (d.stopping = false → ∀ r gen slot, d.owner = .task r gen slot → (s.task r).gen = gen → (s.task r).killable = true →
        (t.task r).st = .killed ∧ (t.task r).after = some (.fail 0x11)))

/-- Messages about a port itself, and its control (07 R198 to R200, R207, R208, R213): CLEAR_DONE ends the clear; IDENT records
what the engine is, and identifies it when its step time is not 0 and it has 4 units, where the port is enabled and has been
asked; both recompute the step times of the partitions that name the port, and do so for tags that name its generations. A
latched message leaves the forward channel and ends a detour that waits for it. EPORT_CTRL of the Operator PF enables or
disables the port, asks an enabled one to identify itself and recomputes those step times; RESET of a port that is not
retired returns its credits and raises EGEN, and sends CLEAR to one that is enabled under ENGINES. An IDENT that nothing has
asked for is late. A return message that no live dispatch of the
port expects, of other generations, or of a retired port, is late (R199): it is counted in LATE and acts on nothing else but
the handshake and the port's last return. Where it rests on a choice of the model: log 22, 92, 103. -/
def Obligations.PortMessagesAndControl : Prop :=
  ∀ (k : Nat) (g : Tag) (s : State),
    let e := s.eport k
    let others (t : State) : Prop := ∀ q, q ≠ k → t.eport q = s.eport q
    let steps (t : State) : Prop := (∀ n, n ∉ s.portParts k → t.part n = s.part n) ∧
      ∀ n, n ∈ s.portParts k → t.part n = { s.part n with stepNs := (t.stepTimes n).1, endNs := (t.stepTimes n).2 }
    (e.retired = false → g.egen = e.egen → (s.portPart k = none ∨ g.pgen = s.portPgen k) →
      (e.clearing = true → ∃ t, exec (.clearDone k g) s = .next t ∧
        t.eport k = { e with clearing := false, lastRet := retMsg g 5 0 0 0 } ∧ others t ∧ steps t ∧
        s.only t [.ports, .cnt, .parts, .rcv]) ∧
      (e.enable = true → e.asked = true → ∀ units v, ∃ t, exec (.ident k g units v) s = .next t ∧
        t.eport k = { e with ident := v, identified := fld v 31 16 != 0 && units == 4, lastRet := retMsg g 6 0 0 v } ∧
        others t ∧ steps t ∧ s.only t [.ports, .cnt, .parts])) ∧
    (e.retired = false → (e.enable && e.asked) = false → ∀ units v, ∃ t, exec (.ident k g units v) s = .next t ∧
      t.eport k = { e with late := satAdd 0xFFFF e.late 1, lastRet := retMsg g 6 0 0 v } ∧ others t ∧ s.only t [.ports, .cnt]) ∧
    (∀ m rest, e.fwd = m :: rest → ∃ t, exec (.forwardMessageLatch k) s = .next t ∧ t.eport k = { e with fwd := rest } ∧
      others t ∧ t.hands (ckey 1 k) = (s.hands (ckey 1 k) + 1) % 2 ^ 32 ∧
      t.chan (ckey 1 k) = (if (s.chan (ckey 1 k)).waits then (s.chan (ckey 1 k)).nextDetour else s.chan (ckey 1 k)) ∧
      (∀ q, q ≠ ckey 1 k → t.chan q = s.chan q) ∧ s.only t [.ports, .chans, .cnt]) ∧
    (∀ p v, (s.func (pfKey p)).linkUp = true → s.boot.operator = some p → k < 64 →
      (bit v 1 = false → ∃ t, exec (.eportEnable p k v) s = .next t ∧ (t.eport k).enable = bit v 0 ∧
        (t.eport k).fwd = e.fwd ++ (if bit v 0 && !e.enable && s.latch.engines && !e.retired then
          [{ hdr := 0, pgen := s.portPgen k, egen := e.egen, dtag := 0, kind := 4, pay0 := 0, pay1 := 0 }] else []) ∧
        (t.eport k).asked = (bit v 0 && (e.asked || (!e.enable && s.latch.engines && !e.retired))) ∧
        others t ∧ (bit v 0 ≠ e.enable → steps t) ∧ (bit v 0 = e.enable → t.parts = s.parts) ∧ s.only t [.ports, .parts]) ∧
      (bit v 1 = true → e.retired = false →
        ∃ t, exec (.eportReset p k v) s = .next t ∧ (t.eport k).egen = (e.egen + 1) % 65536 ∧
          (t.eport k).held = 0 ∧ (t.eport k).identified = false ∧ (t.eport k).enable = bit v 0 ∧
          (s.latch.engines = true → bit v 0 = true → (t.eport k).clearing = true ∧ (t.eport k).asked = true ∧
            (t.eport k).fwd.any (fun m => m.kind == 3 && m.egen == (e.egen + 1) % 65536) = true) ∧
          (s.latch.engines = false ∨ bit v 0 = false → (t.eport k).clearing = e.clearing ∧ (t.eport k).asked = false) ∧
          ((∀ n, s.portPart k = some n → (s.part n).seqr = []) → others t ∧ s.only t [.ports, .parts] ∧
            (s.latch.engines = false ∨ bit v 0 = false → (t.eport k).fwd = e.fwd)))) ∧
    (e.retired = true ∨ s.matchRet k g = none → ∀ unit index v,
      ∀ c ∈ [Instr.accept k g v, .post k g unit index v, .wdone k g, .fault k g unit v, .abandonAck k g v],
      ∃ t, exec c s = .next t ∧ (t.eport k).late = satAdd 0xFFFF e.late 1 ∧ (t.eport k).held = e.held ∧ others t ∧
        (∀ q, q ≠ ckey 1 k → t.chan q = s.chan q) ∧ s.only t [.ports, .chans, .cnt] ∧
        (e.retired = false → t.chans = s.chans))
/-! ### Engine, peer and host requests (11 R298, R317 to R325; 13 R362, R373) -/

/-- ENGINE_MEMORY_REQUEST of a dispatch's own task (11 R298, 06 R160): once the checks hold, a read of storage of the VAI
that stands ready is answered with the bytes that the task reads, and a write goes where the task's prepared write goes;
both draw the task's reference. A failing check ends the task with its status.
Where it rests on a choice of the model: log 50, 51. -/
def Obligations.EngineRequests : Prop :=
  ∀ (k n i r slot len : Nat) (g : Tag) (e : Option Nat) (w : W64) (data : List Byte) (d : Disp) (l : LPort) (s : State),
    s.matchRet k g = some (n, i, d, l) → d.stopping = false → d.owner = .task r (s.task r).gen slot →
    let m := orNum w
    let b := (s.enterReq (.engine k g e .write w len data)).drawRef r m
    (s.engineStatus r w len false = 0 → (s.obj m).lostAt (orOff w) len = false → s.inHole m (orOff w) len = false →
      s.poolBad m (orOff w) len = false → s.hostSegs (s.task r) m (orOff w) len = [] →
      ∃ t, exec (.engineMemoryRequest k g e .read w len data) s = .next t ∧
        t.out = .engineReply k (s.taskRead (s.task r) m (orOff w) len) :: s.out ∧ (t.task r).refs = refsWith (s.task r).refs [m] ∧
        (∀ q, q ≠ r → t.task q = s.task q) ∧ s.only t [.tasks, .objs, .out, .cnt, .xl]) ∧
    (∀ u, s.engineStatus r w len true = 0 →
      b.prepWrite (.port s.xl.portNo) r m (orOff w) data.length = .ok u →
      ∃ t, exec (.engineMemoryRequest k g e .write w len data) s = .next t ∧
        t.sto = (u.taskWrite r m (orOff w) (data.map some)).sto ∧
        t.tasks = (u.taskWrite r m (orOff w) (data.map some)).tasks ∧ (t.task r).refs = refsWith (s.task r).refs [m] ∧
        (∀ q, q ≠ r → t.task q = u.task q)) ∧
    (∀ kind, s.engineStatus r w len (kind != .read) ≠ 0 → (s.task r).killable = true →
      ∃ t, exec (.engineMemoryRequest k g e kind w len data) s = .next t ∧ (t.task r).st = .killed ∧
        (t.task r).after = some (.fail (s.engineStatus r w len (kind != .read))))

/-- Peer messages to a window (11 R324, R325): with the window open at the handle's generation, the right role and a range
inside it whose bytes are mapped and stand ready, a write goes in place and a read is answered with the published bytes, or
with 0x17 and no data where one is poisoned; otherwise the message is refused and counted in the window's VF, and a read is
answered with 0x18. Stated where no earlier message of a peer waits: messages act in the order of arrival (12 R347).
Where it rests on a choice of the model: log 30, 57, 125. -/
def Obligations.PeerWindowMessages : Prop :=
  ∀ (h : W64) (off len : Nat) (data : List Byte) (s : State), s.xl.waiting = [] →
    let w := s.winOf h
    let v := winVf h
    let id := s.xl.portNo
    (∀ u, (s.enterReq (.peerWrite h off data)).peerPrep id h off data.length true = .ok u →
      ∃ t, exec (.peerWindowWrite h off data) s = .next t ∧
        t.sto = (u.peerWrite w.obj (w.off + off) data).sto ∧ t.xl.waiting = [] ∧ s.only t [.sto, .xl, .out, .cnt]) ∧
    (∀ u, (s.enterReq (.peerRead h off len)).peerPrep id h off len false = .ok u →
      let st := poisonStatus (u.pubRead w.obj (w.off + off) len)
      ∃ t, exec (.peerWindowRead h off len) s = .next t ∧ t.out.head? =
          some (.fabricReply st (if st = 0 then plain (u.pubRead w.obj (w.off + off) len) else [])) ∧
        t.xl.waiting = [] ∧ s.only t [.xl, .out, .cnt, .freeCtr]) ∧
    (s.peerOk h off data.length true = false → ∃ t, exec (.peerWindowWrite h off data) s = .next t ∧
      (t.func v).winDrop = satAdd 0xFFFFFFFF (s.func v).winDrop 1 ∧ t.xl.waiting = [] ∧ s.only t [.funcs, .xl]) ∧
    (s.peerOk h off len false = false → ∃ t, exec (.peerWindowRead h off len) s = .next t ∧
      (t.func v).winDrop = satAdd 0xFFFFFFFF (s.func v).winDrop 1 ∧ t.out = .fabricReply 0x18 [] :: s.out ∧
      t.xl.waiting = [] ∧ s.only t [.funcs, .xl, .out])

/-- ATS_INVALIDATION (11 R319): no translation of the function's space in the range is held afterwards, every other one is;
what a task has read through one that is gone serves it no more; and Invalidation Completion is sent.
Where it rests on a choice of the model: log 69, 70. -/
def Obligations.AtsInvalidation : Prop :=
  ∀ (p f : Nat) (pasid : Option Nat) (page pages : Nat) (s : State), ∃ t,
    exec (.atsInvalidation p f pasid page pages) s = .next t ∧
    (∀ e, e ∈ t.xl.ents ↔ e ∈ s.xl.ents ∧ ¬(e.sp = ⟨p, f, pasid⟩ ∧ page ≤ e.page ∧ e.page < page + pages)) ∧
    (∀ r, ∃ w, t.task r = { s.task r with
      got := (s.task r).got.filter fun g => !(g.1 == ⟨p, f, pasid⟩ && decide (page ≤ g.2.1 / 4096) && decide (g.2.1 / 4096 < page + pages))
      win := w }) ∧
    t.out = .invalidationDone p :: s.out ∧ s.only t [.xl, .tasks, .out, .cnt]

/-- Page responses (11 R320): Success drops the page's old translation, so that it is asked for again; any other response and
a timeout let the accesses that wait fail with 0x12, and are counted; Response Failure locks the PF out, and the page requests
that have not been sent fail with it, until PRI Enable is cleared and set. The responses are stated where no engine or peer
request waits to be taken up again. Where it rests on a choice of the model: log 50. -/
def Obligations.PageResponses : Prop :=
  ∀ (p : Nat) (s : State),
    exec (.priEnableToggle p) s = .next (s.modFunc (pfKey p) fun f => { f with priEn := true, lockout := false }) ∧
    ∀ (i : Nat) (r : PriReq), s.priAt p i = some r → s.xl.waiting = [] →
    let fails := s.xl.fails ++ r.who.map fun w => (w, ReqKind.xlate r.sp r.page)
    let unsent := s.xl.pri.filter fun q => !q.sent && q.sp.port == p
    (∃ t, exec (.priResponse p i .success) s = .next t ∧ t.findX r.sp r.page = none ∧ t.xl.fails = s.xl.fails ∧
      t.xl.pri.length + 1 = s.xl.pri.length ∧ s.only t [.xl, .funcs, .out, .cnt]) ∧
    (∀ c ∈ [Instr.priResponse p i .invalid, .priTimeout p i], ∃ t, exec c s = .next t ∧ t.xl.fails = fails ∧
      t.objs = { s.objs with priFail := satAdd 0xFFFF s.objs.priFail 1 } ∧
      (t.func (pfKey p)).lockout = (s.func (pfKey p)).lockout ∧
      t.xl.pri.length + 1 = s.xl.pri.length ∧ s.only t [.xl, .objs, .funcs, .out, .cnt]) ∧
    (∃ t, exec (.priResponse p i .failure) s = .next t ∧ (t.func (pfKey p)).lockout = true ∧
      t.xl.fails = fails ++ unsent.flatMap (fun q => q.who.map fun w => (w, ReqKind.xlate q.sp q.page)) ∧
      t.objs = { s.objs with priFail := satAdd 0xFFFF s.objs.priFail (1 + unsent.length) } ∧
      (∀ q ∈ t.xl.pri, q ∈ s.xl.pri ∧ (q.sent = true ∨ q.sp.port ≠ p)) ∧
      t.xl.pri.length + 1 + unsent.length = s.xl.pri.length ∧ s.only t [.xl, .objs, .funcs])

/-- Completions at a host port, matched by PCIe tag (13 R362, R373; 11 R317): a translation is held for whoever asked, for a
pin cache while a pin covers the page; the bytes of a read that was made through a translation still held are there for the
task that asked; data for a killed task is discarded; Unsupported Request or Completer Abort is kept for whoever waits, to
end it with 0x12; the request ends. A poisoned completion is a fault of the port: the request stays, and is detoured. Stated
where no engine or peer request waits to be taken up again. Where it rests on a choice of the model: log 69, 98, 126. -/
def Obligations.HostCompletions : Prop :=
  ∀ (p tag : Nat) (q : HostReq) (s : State), (s.xl.reqs.find? fun r => r.port == p && r.tag == tag) = some q →
    s.xl.waiting = [] →
    (∀ r w page dst sp, q.kind = .xlate sp page → s.whoLive q.who = true →
      ∃ t, exec (.hostCompletion p tag (.xlat r w dst)) s = .next t ∧ t.xl.reqs = s.xl.reqs.erase q ∧ s.only t [.xl, .cnt] ∧
        ((∀ n, q.who ≠ .pin n) → (sp, page, q.who) ∈ t.xl.users) ∧
        ((∀ n, q.who ≠ .pin n) ∨ s.pinHolds sp page = true →
          t.findX sp page = some { sp := sp, page := page, r := r, w := w, dst := dst }) ∧
        ((∃ n, q.who = .pin n) → s.pinHolds sp page = false → t.findX sp page = s.findX sp page)) ∧
    (∀ sp a len bytes, q.kind = .read sp a len → bytes.length = len →
      (s.whoLive q.who = true → s.reach sp a = some (.host q.port q.dst) →
        ∃ t, exec (.hostCompletion p tag (.data bytes)) s = .next t ∧
          t.sto = (s.writeRange (.host q.port q.dst) (bytes.map some)).sto ∧
          (∀ r g k, q.who = .op r g k ∨ q.who = .prog r g → t.gotOf q.who = s.gotOf q.who ++ [(sp, a, len)] ∧
            ∀ x, x ≠ r → t.task x = s.task x) ∧
          t.xl = { s.xl with reqs := s.xl.reqs.erase q } ∧ s.only t [.tasks, .sto, .xl, .cnt]) ∧
      (s.whoLive q.who = false → ∃ t, exec (.hostCompletion p tag (.data bytes)) s = .next t ∧
        t.xl = { s.xl with reqs := s.xl.reqs.erase q } ∧ s.only t [.xl, .cnt])) ∧
    (s.whoLive q.who = true → (∀ n, q.who ≠ .pin n) → ∃ t, exec (.hostCompletion p tag .refused) s = .next t ∧
      t.xl = { s.xl with reqs := s.xl.reqs.erase q, fails := s.xl.fails ++ [(q.who, q.kind)] } ∧ s.only t [.xl, .cnt]) ∧
    ((s.chan (ckey 5 p)).retired = false → (s.chan (ckey 5 p)).evac = false →
      ∃ t, exec (.hostCompletion p tag .poisoned) s = .next t ∧ t.xl = s.xl ∧
      (t.chan (ckey 5 p)).uncorr = satAdd 0xFFFF (s.chan (ckey 5 p)).uncorr 1 ∧
      ((s.chan (ckey 5 p)).detour = none →
        (t.chan (ckey 5 p)).detour = some 0 ∧ (t.chan (ckey 5 p)).xfer = .tag tag) ∧
      (∀ c, c ≠ ckey 5 p → t.chan c = s.chan c) ∧ s.only t [.chans, .cnt])

/-! ### Waypoints (12) -/

/-- Signals (12 R340, R341, R344, R346, R347): WP_SIGNAL through a slot's handle and a signal of a peer are applied in one
grant. An available waypoint that is behind the value takes it, and every lantern whose target it reaches fires and goes
out: a WAIT completes, an armed slot is disarmed; a value that is equal or behind changes nothing; one exactly half the range
away is stale and counted; one that is not available, or of a poisoned waypoint, is refused and counted. A peer's is stated
where no earlier message of a peer waits; beside its effect it takes the number of a message (`xs`).
Where it rests on a choice of the model: log 54, 125. -/
def Obligations.SignalsApply : Prop :=
  ∀ (c : Instr) (h v : W64) (src : SigSrc) (xs : List Field) (s : State),
    ((∃ w k fk, c = .wpSignal w k v ∧ s.winFunc w = some fk ∧ (Tab.get {} (s.func fk).slots k).handle = h ∧ src = .window fk ∧
      xs = []) ∨ (c = .peerSignal h v ∧ src = .peer ∧ s.xl.waiting = [] ∧ xs = [.xl])) →
    let i := wpIndex h
    let park (l : Lantern) : Prop := ∃ r g, l.kind = .parked r g
    let hit (l : Lantern) : Prop := l.idx = i ∧ atOrBeyond v l.target = true ∧ ¬park l
    ((s.sigBy h src).2 = true → (s.wp i).poisoned = false →
      (serial (s.wp i).value v = .ahead → ∃ t, exec c s = .next t ∧ t.wp i = { s.wp i with value := v } ∧
        (∀ j, j ≠ i → t.wp j = s.wp j) ∧ (∀ l, ¬park l → (l ∈ t.wps.lans ↔ l ∈ s.wps.lans ∧ ¬hit l)) ∧
        (∀ l ∈ t.wps.lans, l ∈ s.wps.lans) ∧ t.wps.sigq = s.wps.sigq ∧ t.xl.waiting = s.xl.waiting ∧
        (∀ l r slot, l ∈ s.wps.lans → hit l → l.kind = .wait r slot → (t.task r).op slot = none) ∧
        (∀ l fk k, l ∈ s.wps.lans → hit l → l.kind = .slot fk k → (Tab.get {} (t.func fk).slots k).armed = false) ∧
        ((∀ l ∈ s.wps.lans, ¬hit l ∧ ¬park l) → s.only t (.wps :: xs))) ∧
      (serial (s.wp i).value v = .equal ∨ serial (s.wp i).value v = .behind → ∃ t, exec c s = .next t ∧ s.only t xs) ∧
      (serial (s.wp i).value v = .stale → ∃ t, exec c s = .next t ∧ t.wps = s.wps ∧
        (∀ fk, (s.sigBy h src).1 = some fk → fk < 1024 → (t.func fk).wpStale = satAdd 0xFFFF (s.func fk).wpStale 1) ∧
        s.only t [.funcs, .geq, .cnt, .out, .sto, .xl, .freeCtr, .objs])) ∧
    ((s.sigBy h src).2 = false ∨ (s.wp i).poisoned = true → ∃ t, exec c s = .next t ∧ s.only t (.funcs :: .cnt :: xs) ∧
      ∀ fk, (s.sigBy h src).1 = some fk → fk < 1024 →
        t.funcs = (s.modFunc fk fun f => { f with wpRefused := satAdd 0xFFFF f.wpRefused 1 }).funcs ∧ t.cnt = s.cnt)

/-- WAYPOINT_SIGNAL_APPLY (12 R341, 04 R112): the Waypoint Store takes the oldest signal on its way, applies it, and counts it
toward the end of its task's release with the status that it gave. Where it rests on a choice of the model: log 43. -/
def Obligations.ReleasedSignalsApply : Prop :=
  ∀ (h v : W64) (r fk : Nat) (rest : List (W64 × W64 × SigSrc)) (s : State),
    s.wps.sigq = (h, v, .task r (s.task r).gen fk none) :: rest →
    ∃ t, exec .waypointSignalApply s = .next t ∧ t.wps.sigq = rest ∧ (t.task r).sigs = (s.task r).sigs - 1 ∧
      (s.sigOk fk h = true → (s.wp (wpIndex h)).poisoned = false →
        (serial (s.wp (wpIndex h)).value v = .ahead → (t.wp (wpIndex h)).value = v) ∧ (t.task r).cstat =
          if (s.task r).cstat = 0 ∧ serial (s.wp (wpIndex h)).value v = .stale then 0x14 else (s.task r).cstat) ∧
      (s.sigOk fk h = false ∨ (s.wp (wpIndex h)).poisoned = true → t.wps = { s.wps with sigq := rest } ∧
        (t.task r).cstat = if (s.task r).cstat = 0 then 0x18 else (s.task r).cstat)

/-- WP_ARM (12 R345, R349): with a handle available for waiting, a target that the waypoint has reached disarms the slot and
signals its vector at once; otherwise the slot is armed with the target in place of an older one. A handle that is not
available is counted as refused. Where it rests on a choice of the model: log 56. -/
def Obligations.ArmedSlots : Prop :=
  ∀ (w : Window) (k fk : Nat) (v : W64) (s : State), s.winFunc w = some fk →
    let x : Slot := Tab.get {} (s.func fk).slots k
    let i := wpIndex x.handle
    let hit : Prop := (s.wp i).poisoned = false ∧ atOrBeyond (s.wp i).value v = true
    let lans := s.wps.lans.filter fun l => l.kind != .slot fk k
    (s.waitOk fk x.handle = true → ∃ t, exec (.wpArm w k v) s = .next t ∧
      (hit → Tab.get {} (t.func fk).slots k = { x with target := v, armed := false } ∧ t.wps = { s.wps with lans := lans } ∧
        (t.out = .msix fk x.vector :: s.out ∨ (t.func fk).pend = setBit (s.func fk).pend x.vector)) ∧
      (¬hit → Tab.get {} (t.func fk).slots k = { x with target := v, armed := true } ∧
        t.wps = { s.wps with lans := lans ++ [⟨i, v, .slot fk k⟩] }) ∧
      (∀ j, j ≠ fk → t.func j = s.func j) ∧ s.only t [.funcs, .wps, .out, .cnt]) ∧
    (s.waitOk fk x.handle = false → fk < 1024 → exec (.wpArm w k v) s =
      .next (s.modFunc fk fun f => { f with wpRefused := satAdd 0xFFFF f.wpRefused 1 }))
/-! ### Queues (03) -/

/-- Queue commands (03 R69 to R77, R96), through a VF's window or an admin queue's: each answers in CMD_RESULT. CREATE of an
absent queue with its checks passed and its shadow taken leaves it CREATED under the next generation, its indices zero and
its configuration kept; a failed check leaves everything else alone. ENABLE takes CREATED or QUIESCED to ENABLED, QUIESCE
ENABLED to QUIESCING, DESTROY any state but ABSENT to DESTROYING, with no credited slot left and every uncommitted task of the
queue killed with 0x16; another state gives 0x02. Where it rests on a choice of the model: log 74. -/
def Obligations.QueueCommands : Prop :=
  ∀ (w : Window) (q fk : Nat) (s : State), s.winFunc w = some fk → (match w with
      | .pf _ => q < 16 ∧ s.boot.operator.isSome = true
      | _ => q < 64) →
    let qk := qkey fk q
    let x := s.queue qk
    let answers (code : Nat) : State := s.modFunc fk fun f => { f with cmdResult := code }
    let moves (c : Instr) (st : QSt) : Prop := exec c s =
      .next ((s.modQueue qk fun q => { q with st := st }).modFunc fk fun f => { f with cmdResult := 0 })
    (s.latch.queues = false → exec (.queueCreate w q) s = .next (answers 0x07)) ∧
    (s.latch.queues = true → x.st ≠ .absent → exec (.queueCreate w q) s = .next (answers 0x02)) ∧
    (∀ us v, s.latch.queues = true → x.st = .absent →
      (fk < 1024 → s.bound fk = true ∧ (s.liveQueues fk).length < fld (s.func fk).bind 23 16) →
      4 ≤ fld x.size 4 0 → fld x.size 4 0 ≤ 16 → 4 ≤ fld x.size 12 8 → fld x.size 12 8 ≤ 16 → s.takeShadow qk = some (us, v) →
      ∃ t, exec (.queueCreate w q) s = .next t ∧
        t.queue qk = { base := x.base, size := x.size, cplBase := x.cplBase, cfg := x.cfg, job := x.job, kvage := x.kvage
                       timeout := x.timeout, st := .created, gen := if 255 ≤ x.gen then 1 else x.gen + 1
                       pool := s.poolIndex qk, shadow := us } ∧
        (t.func fk).cmdResult = 0 ∧ (∀ k, k ≠ qk → t.queue k = s.queue k) ∧ s.only t [.queues, .funcs, .sto]) ∧
    (x.st = .created ∨ x.st = .quiesced → moves (.queueEnable w q) .enabled) ∧
    (x.st = .enabled → moves (.queueQuiesce w q) .quiescing) ∧
    (x.st ≠ .absent → x.st ≠ .destroying → ∃ t, exec (.queueDestroy w q) s = .next t ∧ (t.queue qk).st = .destroying ∧
      (t.queue qk).credited = 0 ∧ (t.func fk).cmdResult = 0 ∧
      ∀ r, (s.task r).qk = qk → (s.task r).killable = true → (t.task r).st = .killed ∧ (t.task r).after = some (.fail 0x16)) ∧
    (x.st ≠ .created → x.st ≠ .quiesced → exec (.queueEnable w q) s = .next (answers 0x02)) ∧
    (x.st ≠ .enabled → exec (.queueQuiesce w q) s = .next (answers 0x02)) ∧
    (x.st = .absent ∨ x.st = .destroying → exec (.queueDestroy w q) s = .next (answers 0x02))

/-- The ends of a queue, and its completion ring's head (03 R76, R91, R95, R96): a quiescing queue with nothing waiting,
unretired or credited is QUIESCED; a destroying one is ABSENT, its shadow's units free; a head write takes effect while the
head lies at most one ring behind and is otherwise discarded and counted; HELD_CLEAR empties the undelivered slot.
Where it rests on a choice of the model: log 65. -/
def Obligations.QueueEndsAndHeads : Prop :=
  ∀ (f q : Nat) (s : State),
    let qk := qkey f q
    let x := s.queue qk
    (x.st = .quiescing → x.waiting = 0 → x.subs = [] → x.due = [] → x.credHeld = 0 →
      exec (.queueQuiesced f q) s = .next (s.modQueue qk fun x => { x with st := .quiesced })) ∧
    (x.st = .destroying → x.subs = [] → x.due = [] → x.credHeld = 0 → ∃ t, exec (.queueAbsent f q) s = .next t ∧
      (t.queue qk).st = .absent ∧ (t.queue qk).shadow = [] ∧ (x.flr = false → t.queue qk = { x with st := .absent, shadow := [] }) ∧
      (∀ u, Tab.get none t.sto.units u = if u ∈ x.shadow then none else Tab.get none s.sto.units u) ∧
      (∀ k, k ≠ qk → t.queue k = s.queue k) ∧ s.only t [.queues, .sto, .xl]) ∧
    (∀ w, s.winFunc w = some f → (match w with
        | .pf _ => q < 16 ∧ s.boot.operator.isSome = true
        | _ => q < 64) →
      (∀ v : W64, exec (.qCplHeadWrite w q v) s = .next (s.modQueue qk fun x =>
        if x.cplRing < dist 24 x.c (fld v 23 0) then { x with refused := satAdd 0xFFFF x.refused 1 }
        else { x with cplHead := fld v 23 0 })) ∧
      exec (.heldClear w q) s = .next (s.modQueue qk fun x => { x with held := false, heldRec := [] }))

/-- A doorbell (03 R83): of another generation it is stale, of a queue that is not ENABLED or whose state is lost refused,
both counted and without effect on the indices; one that moves TAIL backwards or beyond the ring is refused, counted and
noted with 0x19; any other sets TAIL, counts, and, where it leaves a slot without a credit although one was free, is
noted as overload: counted for the VF and its partition, with a GEQ record of status 0x1A that no earlier one limits and no
error bit (08 R249). Where it rests on a choice of the model: log 71, 107. -/
def Obligations.Doorbells : Prop :=
  ∀ (w : Window) (q fk : Nat) (v : W32) (s : State), s.winFunc w = some fk → (match w with
      | .pf _ => q < 16 ∧ s.boot.operator.isSome = true
      | _ => q < 64) →
    let qk := qkey fk q
    let x := s.queue qk
    let tail := fld v 23 0
    let occ := dist 24 tail x.head
    let adv := dist 24 tail x.tail
    let fit : Prop := occ ≤ x.ring ∧ adv ≤ occ
    ∃ t, exec (.doorbell w q v) s = .next t ∧ (∀ k, k ≠ qk → t.queue k = s.queue k) ∧
      (fld v 31 24 ≠ x.gen → t.queue qk = { x with stale := satAdd 0xFFFF x.stale 1 } ∧ s.only t [.queues, .cnt]) ∧
      (fld v 31 24 = x.gen → x.st ≠ .enabled ∨ x.poisoned = true →
        t.queue qk = { x with refused := satAdd 0xFFFF x.refused 1 } ∧ s.only t [.queues]) ∧
      (fld v 31 24 = x.gen → x.st = .enabled → x.poisoned = false →
        (¬fit → t.queue qk = { x with refused := satAdd 0xFFFF x.refused 1 } ∧
          (x.flr = false → bit (t.func fk).errSum q = true) ∧
          s.only t [.queues, .funcs, .out, .geq, .cnt, .sto, .xl, .freeCtr, .objs]) ∧
        (fit → t.queue qk = { x with tail := tail, unreadable := false } ∧
          (¬(x.uncredited < x.free ∧ x.free < x.uncredited + adv) → s.only t [.queues, .funcs, .cnt]) ∧
          (x.uncredited < x.free → x.free < x.uncredited + adv →
            (fk < 1024 → Tab.get 0 (t.func fk).cnt 10 = satAdd (2 ^ 64 - 1) (Tab.get 0 (s.func fk).cnt 10) 1) ∧
            (s.bound fk = true → (t.part (s.bindPart fk)).overload = satAdd 0xFFFFFFFF (s.part (s.bindPart fk)).overload 1) ∧
            (t.func fk).errSum = (s.func fk).errSum ∧
            (s.limited (.queue qk 0x1A) = false → s.geq.full = false →
              t.geq.ring = Tab.set none s.geq.ring (s.geq.tail % 4096) (some (s.geqStamped { geqRec 0x1A 0 with
                flags := 3, part := s.partOf fk, func := funcCode fk, queue := q } (some (.queue qk 0x1A)))))) ∧
          s.only t [.queues, .funcs, .parts, .out, .geq, .cnt, .sto, .xl, .freeCtr, .objs]))

/-- Credits and fetch (03 R79 to R85; 08 R246, R247): the Doorbell Unit's next turn draws one ring-slot credit for one slot of
its queue; the Descriptor Fetch Unit's next turn, with its slots readable and credited, within its participant's deficit and
with an MTU credit free, advances HEAD by them and SEQ by one, returns that credit, and admits a well-formed submission in the
lowest EMPTY record; one beyond the deficit is left for a later turn; without an MTU credit the unit waits; a slot read that
failed may be tried again after its time. Where it rests on a choice of the model: log 98, 112, 113. -/
def Obligations.CreditsAndFetch : Prop :=
  ∀ (s : State),
    (∀ p d q, s.dbell.turnTo (s.funcsWhere fun _ x => x.canDraw) (fun _ => 1) = some (p, d) →
      d.nextQ p (s.queuesWhere (fun _ x => x.canDraw) p) = some q →
      exec .ringSlotCreditDraw s = .next ({ s with dbell := d.spend p q 1 }.modQueue (qkey p q) fun x =>
        { x with credHeld := x.credHeld + 1, credited := x.credited + 1 })) ∧
    (∀ data i p d q, s.emptyRec = some i →
      let n := slotsOf (BitVec.ofNat 64 (leAt data 0 8))
      let qk := qkey p q
      let x := s.queue qk
      s.fetch.turnTo (s.funcsWhere s.fetchable) s.nextSize = some (p, d) → d.nextQ p (s.queuesWhere s.fetchable p) = some q →
      (Tab.get 0 d.deficit p < n → exec (.descriptorFetch data) s = .next ({ s with fetch := d }.modQueue qk fun x =>
        { x with needs := n })) ∧
      (n ≤ Tab.get 0 d.deficit p → s.drawFetch qk = none → exec (.descriptorFetch data) s = .next s) ∧
      ∀ h u v a b, n ≤ Tab.get 0 d.deficit p → s.drawFetch qk = some h →
      h.trySlots qk (x.slotAddrs 1) = (u, .ok a) → n ≤ x.credited → u.trySlots qk (x.slotAddrs n) = (v, .ok b) →
      ∃ t, exec (.descriptorFetch data) s = .next t ∧ (t.queue qk).head = (x.head + n) % 2 ^ 24 ∧
        (t.queue qk).mtu = none ∧ (x.mtu = none → ∀ m, t.mtuHeld m = s.mtuHeld m) ∧
        (t.queue qk).expSeq = (x.expSeq + 1) % 2 ^ 32 ∧ (t.queue qk).credited = x.credited - n ∧
        (t.queue qk).credHeld = x.credHeld ∧ t.fetch = d.spend p q n ∧ (∀ k, k ≠ qk → t.queue k = s.queue k) ∧
        (malformed x.gen x.expSeq (1024 ≤ qk / 64) data = false → ∃ o,
          t.task i = { s.subTask qk x.nextOrd x.expSeq data with gen := nextGen (s.task i).gen, st := .admitted, order := o } ∧
          (∀ r, r ≠ i → t.task r = s.task r)) ∧
        (malformed x.gen x.expSeq (1024 ≤ qk / 64) data = true → t.tasks = s.tasks ∧
          ∃ y ∈ (t.queue qk).subs, y.ord = x.nextOrd ∧ y.slots = n)) ∧
    (∀ f q, exec (.slotReadRetry f q) s = .next (if (s.queue (qkey f q)).unreadable then
      s.modQueue (qkey f q) fun x => { x with unreadable := false } else s))

/-- SUBMISSION_RETIRE (03 R87, R90 to R92): the next record that is due, with the completion ring not full and its page
reachable, is written at the completion index, which moves on; a host submission returns its ring-slot credits and raises
the milestone, an ENQUEUED record returns the credit that it holds and raises none. With IRQ_EN 1, where the submission or
the queue asks for it, the queue's vector is signalled: a message, or a pending bit while IRQ is 0 or the vector is masked;
otherwise no message leaves. A full ring of a queue that is not being destroyed waits.
Where it rests on a choice of the model: log 29, 106, 118. -/
def Obligations.SubmissionsRetire : Prop :=
  ∀ (f q : Nat) (e : XEnt) (u s : State),
    let qk := qkey f q
    let x := s.queue qk
    let sp := s.queueSpace qk
    let a := (x.cplBase &&& ones 63 5).toNat + 32 * (x.c % x.cplRing)
    let writable : Prop := x.cplFull = false ∧ s.tryRange (.record qk) sp a 32 true = (u, .ok e) ∧ u.ctxBad sp a 32 = false
    let written (t : State) (b : List Byte) : Prop := t.sto = (u.hostWrite sp a b).sto ∧ u.wroteHost t sp a b
    let vec := fld x.cfg 13 8
    let signalled (t : State) (asked : Bool) : Prop :=
      (asked = true → bit x.cfg 0 = true → x.flr = false →
        if s.latch.irq = true ∧ (Tab.get {} (s.func (qk / 64)).msix vec).masked = false then t.out.head? = some (.msix (qk / 64) vec)
        else (t.func (qk / 64)).pend = setBit (s.func (qk / 64)).pend vec) ∧
      (asked = false ∨ bit x.cfg 0 = false → (t.func (qk / 64)).pend = (s.func (qk / 64)).pend ∧
        ∀ g v, .msix g v ∈ t.out → .msix g v ∈ s.out)
    (∀ sub rest ds fin, x.subs = sub :: rest → x.due = .host :: ds → sub.fin = some fin →
      (fin.silent = true → ∃ t, exec (.submissionRetire f q) s = .next t ∧
        t.queue qk = { x with subs := rest, due := ds, milestone := (x.milestone + 1) % 2 ^ 64, credHeld := x.credHeld - sub.slots } ∧
        signalled t (sub.irq || bit x.cfg 1) ∧ (∀ k, k ≠ qk → t.queue k = s.queue k) ∧ s.only t [.queues, .funcs, .out]) ∧
      (fin.silent = false → writable → ∃ t, exec (.submissionRetire f q) s = .next t ∧
        t.queue qk = { x with c := (x.c + 1) % 2 ^ 24, subs := rest, due := ds, milestone := (x.milestone + 1) % 2 ^ 64
                              credHeld := x.credHeld - sub.slots } ∧
        written t (x.recordBytes sub.seq (if fin.noTask then 0 else sub.tid) fin.status ((x.milestone + 1) % 2 ^ 32)
          fin.summary fin.noTask false) ∧ signalled t (sub.irq || bit x.cfg 1) ∧
        (∀ k, k ≠ qk → t.queue k = s.queue k) ∧ s.only t [.queues, .funcs, .out, .sto, .xl, .cnt]) ∧
      (fin.silent = false → x.cplFull = true → x.st ≠ .destroying → exec (.submissionRetire f q) s = .next s)) ∧
    (∀ seq tid status summary credit ds, x.due = .enq seq tid status summary credit :: ds → writable →
      ∃ t, exec (.submissionRetire f q) s = .next t ∧
        t.queue qk = { x with c := (x.c + 1) % 2 ^ 24, due := ds, credHeld := x.credHeld - b2n credit } ∧
        written t (x.recordBytes seq tid status (x.milestone % 2 ^ 32) summary false true) ∧ signalled t (bit x.cfg 1) ∧
        (∀ k, k ≠ qk → t.queue k = s.queue k) ∧ s.only t [.queues, .funcs, .out, .sto, .xl, .cnt])

/-! ### Slices and convoys (08) -/

/-- Slices (08 R218, R219, R221 to R224, R228, R243; 13 R369): an idle partition that may run begins the slice of the job it
chooses once its ports have last run that VF; the timer's expiry and END_NOW end the slice, which drains, and in native mode
every RUNNING task is killed, for rerun before its third pre-emption in a row; a drain that is over, with no step of a resize
or switch of firmware at hand, frees the partition for its next slice; one that lasts posts a record and has an automatic reset wait. LOOP_RESTART marks the loop for first use.
Where it rests on a choice of the model: log 1, 41, 63. -/
def Obligations.Slices : Prop :=
  ∀ (n p : Nat) (v : W64) (s : State),
    let x := s.part n
    let ended (t : State) : Prop := x.running = true → (t.part n).running = false ∧ (t.part n).draining = true ∧
      (t.part n).job = x.job ∧ (s.verkai n = true → t.tasks = s.tasks) ∧
      (s.verkai n = false → ∀ r, (s.task r).part = n → (s.task r).st = .running → (s.task r).kind ≠ .admin →
        (t.task r).st = .killed ∧
        (t.task r).after = some (if (s.task r).preempts + 1 = 3 then .fail 0x10 else .rerun))
    let operator : Prop := (s.func (pfKey p)).linkUp = true ∧ s.boot.operator = some p ∧ n < 64
    (∀ j, s.enabled n = true → s.between n = true → s.starved n = false → s.resizeDue n = false → x.clearWait = false →
      chooseJob x.prevVf (s.readyJobs n) = some j → s.foreignPorts n j.vf = [] → ∃ t, exec (.sliceBegin n) s = .next t ∧
      j ∈ s.readyJobs n ∧ (t.part n).running = true ∧ (t.part n).job = some j.job ∧ (t.part n).schVf = j.vf ∧
      (t.part n).slices = (x.slices + 1) % 2 ^ 32 ∧ (t.part n).curSliceUs = x.sliceUs ∧
      (∀ k, t.eport k = if k ∈ s.portsOf n ∧ (s.eport k).usable = true then { s.eport k with lastVf := some j.vf } else s.eport k) ∧
      (∀ m, m ≠ n → t.part m = s.part m) ∧
      s.only t [.parts, .ports, .cnt]) ∧
    (∃ t, exec (.sliceTimerExpiry n) s = .next t ∧ ended t ∧ (x.running = false → t = s)) ∧
    (operator → bit v 31 = true → 100 ≤ fld v 19 0 → fld v 19 0 ≤ 1000000 → ∃ t, exec (.endNow p n v) s = .next t ∧ ended t ∧
      (t.part n).sliceUs = fld v 19 0) ∧
    (operator → bit v 32 = true → loopOk (merge x.cvy.cfg v (ones 63 48 ||| ones 31 31 ||| ones 16 0)) x.cvy.lim = true → ∃ t, exec (.loopRestart p n v) s = .next t ∧
      (t.part n).cvy.restart = true ∧ (t.part n).cvy.c = x.cvy.c ∧ (t.part n).cvy.f = x.cvy.f ∧
      (∀ m, m ≠ n → t.part m = s.part m) ∧ s.only t [.parts]) ∧
    (x.running = false → x.draining = true → s.resetHolds n = false → s.drainOver n = true → s.rerunsDue n = false →
      s.toSwitch [n] = [] → (s.rcv.rszPhase ≠ 0 → s.rcv.src ≠ some n ∧ s.rcv.dst ≠ some n) →
      ∃ t, exec (.drainComplete n) s = .next t ∧ (t.part n).draining = false ∧ (t.part n).job = none ∧
      (t.part n).cvy.units = [] ∧ (t.part n).cvy.run = none ∧
      (∀ u, Tab.get none t.sto.units u = if u ∈ x.cvy.units then none else Tab.get none s.sto.units u) ∧
      (∀ m, m ≠ n → t.part m = s.part m) ∧ s.only t [.parts, .sto]) ∧
    (x.draining = true → s.resetHolds n = false → n ∉ s.rcv.waiting → ∃ t, exec (.drainTimeout n) s = .next t ∧
      n ∈ t.rcv.waiting ∧ (s.geq.full = false → t.geq.ring = Tab.set none s.geq.ring (s.geq.tail % 4096)
        (some (s.geqStamped { geqRec 0x10 5 with part := n } none))) ∧
      s.only t [.geq, .rcv, .cnt, .funcs, .out, .sto, .xl, .freeCtr, .objs])

/-- Convoys (08 R231 to R235): a CVY dispatch joins in the lowest free member slot with its constant buffer; the hold ends when
its time has passed while members wait; an assembly writes to the convoy buffer, and puts in force, a table of waiting members of the oldest one's stream in force,
flips the table, counts the convoy and hands it to the sequencer under the next tag with an MTU credit. A table has at most
2,048 entries of at most a chunk each and, with CMIN within the budget, no more tokens than the budget.
Where it rests on a choice of the model: log 1. -/
def Obligations.Convoys : Prop :=
  ∀ (n r slot i : Nat) (s : State),
    (∀ o ss scb ub uc tok u v, (s.task r).op slot = some o → o.phase = .joining → o.kind = .dispatch ss scb ub uc true tok →
      (s.task r).st = .running → (s.task r).part = n →
      let cb := (scb.map fun c => u.refRead r (c, 256)).getD []
      s.prepReads (.op r (s.task r).gen slot) r (scb.toList.map fun c => (c, 256)) = .ok u → poisonStatus cb = 0 →
      u.cvyBuffer n = some v → firstBelow (fun i => (Tab.get none (u.part n).cvy.members i).isNone) 4096 = some i →
      ∃ t, exec (.convoyMemberJoin r slot) s = .next t ∧
        Tab.get none (t.part n).cvy.members i = some { r := r, gen := (s.task r).gen, slot := slot, stream := ss, tokens := tok
                                                       next := 0, joined := s.stamp, cb := if scb.isSome then words64 32 (plain cb) else (s.task r).cb } ∧
        (t.task r).op slot = some { o with phase := .member, got := [] } ∧ (t.part n).cvy.units ≠ [] ∧
        (∀ q, q ≠ r → t.task q = s.task q) ∧ (∀ m, m ≠ n → t.part m = s.part m) ∧
        s.only t [.tasks, .parts, .sto, .xl, .stamp, .cnt, .funcs, .out, .freeCtr]) ∧
    ((s.part n).cvy.run = none → (s.part n).cvy.live ≠ [] → exec (.convoyHoldExpiry n) s =
      .next (s.modPart n fun p => { p with cvy := { p.cvy with hold := true } })) ∧
    (∀ x rest m, (s.part n).cvy.hold = true → (s.part n).cvy.run = none → (s.part n).running = true →
      (s.part n).cvy.live = x :: rest → s.streamMtu (s.task x.2.r) n x.2.stream = some m → 0 < s.mtuFree m →
      let c := (s.part n).cvy.atAssembly (s.part n).schVf (s.part n).jobWset
      let es := assemble c.budget c.f c.c c.cmin ((x :: rest).filter fun y => y.2.stream == x.2.stream)
      ∃ t, exec (.convoyAssemble n) s = .next t ∧ (t.part n).cvy.run = some es ∧
        t.sto = (s.bufWrite n (tableOff (!c.tabB)) (es.flatMap Entry.bytes)).sto ∧
        (t.part n).cvy.num = c.num + 1 ∧ (t.part n).cvy.tabB = !c.tabB ∧ (t.part n).cvy.hold = false ∧
        (t.part n).dtag = ((s.part n).dtag + 1) % 65536 ∧ (t.part n).seqr.length = (s.part n).seqr.length + 1 ∧
        t.mtuHeld m = s.mtuHeld m + 1 ∧ (∀ k, k ≠ n → t.part k = s.part k) ∧ s.only t [.parts, .ports, .mtus, .stamp, .cnt, .sto]) ∧
    (∀ (budget fill chunk cmin : Nat) (l : List (Nat × Member)), cmin ≤ budget →
      (assemble budget fill chunk cmin l).length ≤ 2048 ∧ ((assemble budget fill chunk cmin l).map (·.ntok)).sum ≤ budget ∧
      ∀ e ∈ assemble budget fill chunk cmin l, e.ntok ≤ max chunk 1)

/-! ### Admin command lists (11 R297, R302, R303, R311 to R316, R326; 12 R337 to R339, R345, R347) -/

/-- OBJ_CREATE, OBJ_FREE, EXT_SET, EXT_CLEAR, EXT_READ and OBJ_QUERY, with their checks passed and their ranges in hand
(11 R297, R303, R311, R314 to R316): a creation takes the lowest number never taken, else the one released first, the
lowest run of extents and zeroed pages, and answers the number; a freed object is CLOSING, or RELEASED where no task refers
to it, and its windows close; EXT_SET puts in every record and answers the number of extents, EXT_CLEAR removes the
extents that lie wholly in the range, loses the drafts over them, and answers how many; EXT_READ and OBJ_QUERY write records and change no object.
Where it rests on a choice of the model: log 59, 68. -/
def Obligations.AdminObjectCommands : Prop :=
  ∀ (r : Nat) (b : List Byte) (s w : State),
    let n := leAt b 0x10 4
    let sp := w.queueSpace (s.task r).qk
    let ends (c : Instr) (value : Nat) (l : List Field) (e : State → Prop) (f : Task → Task := id) : Prop :=
      ∃ t, exec c s = .next t ∧ e t ∧ s.admEnds w t r b value f ∧ s.only t (.tasks :: .sto :: .xl :: .out :: .cnt :: .freeCtr :: l)
    let only (t : State) (n : Nat) (o : Obj) : Prop := t.obj n = o ∧ ∀ k, k ≠ n → t.obj k = s.obj k
    (s.admReady r cmdObjCreate b w →
      let v := leAt b 0x10 2
      let p := s.bindPart v
      let attr := leAt b 0x13 1
      let plog := leAt b 0x14 1
      let init := leAt b 0x1C 4
      ∃ k run pages u, s.objNumber = some k ∧ s.findRun p (leAt b 0x20 2) = some run ∧
        s.allocExts p (leAt b 0x12 1) (s.wsKeep p) (extSpan attr plog) init init = some (pages, u) ∧
        ends (.objCreate r) k [.objs] fun t =>
          only t k { st := .opened, vf := v, part := p, pf := (s.task r).fk - 1024, place := leAt b 0x12 1, attr := attr
                     plog := plog, reservedPg := leAt b 0x18 4, extMax := leAt b 0x20 2, pasid := BitVec.ofNat 32 (leAt b 0x24 4)
                     exts := extsOf init (extSpan attr plog) 0 pages, run := run } ∧
          t.objs.next = max s.objs.next (k + 1) ∧ t.objs.released = s.objs.released.filter (· != k) ∧
          (resAddr b = 0 → t.sto = (u.zeroPages pages).sto)) ∧
    (s.admReady r cmdObjFree b w → ends (.objFree r) 0 [.objs, .funcs, .parts] fun t =>
      ((s.obj n).held = 0 → t.obj n = { st := .released, vf := (s.obj n).vf, pf := (s.obj n).pf } ∧
        t.objs.released = s.objs.released ++ [n]) ∧
      (0 < (s.obj n).held → t.obj n = { s.obj n with st := .closing } ∧ t.parts = s.parts) ∧
      (∀ k, k ≠ n → t.obj k = s.obj k) ∧
      ∀ fk k, (Tab.get {} (t.func fk).wins k).obj = n → (Tab.get {} (t.func fk).wins k).isOpen = false) ∧
    (s.admReady r cmdExtSet b w → ∀ es,
      let data := w.hostGet sp (leAt b 0x18 8) (16 * leAt b 0x14 4)
      poisonStatus data = 0 → extRecords (leAt b 0x14 4) (plain data) = some es →
      (∀ e ∈ es, e.off + e.len ≤ (s.obj n).reservedPg) → extsApart (s.obj n).exts es = true →
      let exts := es.foldl (fun a e => insertExt e a) (s.obj n).exts
      ends (.extSet r) exts.length [.objs] fun t => only t n { s.obj n with exts := exts }) ∧
    (s.admReady r cmdExtClear b w →
      let lo := leAt b 0x14 4
      let hi := lo + leAt b 0x18 4
      let inside (e : Ext) : Bool := lo ≤ e.off && e.off + e.len ≤ hi
      (∀ e ∈ (s.obj n).exts, inside e = true ∨ hi ≤ e.off ∨ e.off + e.len ≤ lo) →
      ends (.extClear r) ((s.obj n).exts.filter inside).length [.objs] (fun t =>
        only t n { s.obj n with exts := (s.obj n).exts.filter fun e => !inside e }) (Task.loseDrafts n ((s.obj n).exts.filter inside))) ∧
    (s.admReady r cmdExtRead b w →
      let l := ((s.obj n).exts.drop (leAt b 0x14 2)).take (leAt b 0x16 2)
      ends (.extRead r) l.length [] fun t =>
        w.wroteHost t sp (leAt b 0x18 8) (l.flatMap Ext.bytes)) ∧
    (s.admReady r cmdObjQuery b w → ends (.objQuery r) 0 [] fun t =>
      w.wroteHost t sp (leAt b 0x18 8) (s.queryBytes n))

/-- IMPORT_SET, IMPORT_CLEAR, WP_CREATE, WP_FREE, WP_EXPORT and WP_IMPORT_SET, with their checks passed (11 R326; 12 R337
to R339, R345, R347): an import entry is set or cleared; a new waypoint is LIVE at the next generation of its index, with
its value, owner and scopes, and the handle is the answer; a freed one lives no more, its lanterns are out, the slots that
hold its handle disarm, and WAITs on it fail with 0x18; a slot records handle and vector, disarmed, and handle 0 empties
it. Where it rests on a choice of the model: log 68. -/
def Obligations.AdminWaypointCommands : Prop :=
  ∀ (r : Nat) (b : List Byte) (s w : State),
    let v := leAt b 0x10 2
    let p := s.bindPart v
    let h := cmdHandle b
    let e : Import := ⟨v, leAt b 0x14 1, BitVec.ofNat 64 (leAt b 0x18 8)⟩
    let ends (c : Instr) (value : Nat) (l : List Field) (e : State → Prop) : Prop :=
      ∃ t, exec c s = .next t ∧ e t ∧ s.admEnds w t r b value id ∧ s.only t (.tasks :: .sto :: .xl :: .out :: .cnt :: .freeCtr :: l)
    let part (q : Part) (t : State) : Prop := t.part p = q ∧ ∀ m, m ≠ p → t.part m = s.part m
    (s.admReady r cmdImportSet b w → ends (.importSet r) 0 [.parts]
      (part { s.part p with imports := Tab.set none (s.part p).imports (leAt b 0x12 2) (some e) })) ∧
    (s.admReady r cmdImportClear b w → ends (.importClear r) 0 [.parts]
      (part { s.part p with imports := Tab.set none (s.part p).imports (leAt b 0x12 2) none })) ∧
    (s.admReady r cmdWpImportSet b w → leAt b 0x14 1 < 64 → ends (.wpImportSet r) 0 [.parts]
      (part { s.part p with wpImports := Tab.set none (s.part p).wpImports (leAt b 0x12 2) (if h = 0 then none else some e) })) ∧
    (s.admReady r cmdWpCreate b w →
      let sg := leAt b 0x12 1
      let wt := leAt b 0x13 1
      sg ≤ 3 → wt ≤ 3 → (sg = 3 ∨ wt = 3 → s.isOp ((s.task r).fk - 1024) = true) → ∀ i, s.wpNumber = some i →
      let g := if ((s.wp i).gen + 1) % 65536 = 0 then 1 else ((s.wp i).gen + 1) % 65536
      ends (.wpCreate r) (g * 2 ^ 48 + i) [.wps] fun t =>
        t.wp i = { value := BitVec.ofNat 64 (leAt b 0x18 8), live := true, gen := g, owner := v, sigScope := sg, waitScope := wt
                   peer := (leAt b 0x14 1).testBit 0, poisoned := false } ∧
        (∀ k, k ≠ i → t.wp k = s.wp k) ∧ t.wps.next = max s.wps.next (i + 1) ∧ t.wps.lans = s.wps.lans) ∧
    (s.admReady r cmdWpFree b w → s.wpLive h = true →
      let i := wpIndex h
      ((∀ x ∈ s.tasks, ∀ y ∈ x.2.win, ∀ o a c, y.2 = some o → o.kind = .wait a c → wpIndex a ≠ i) →
        ends (.wpFree r) 0 [.wps, .funcs] fun t =>
          t.wp i = { s.wp i with live := false } ∧ (∀ k, k ≠ i → t.wp k = s.wp k) ∧ t.wps.freed = s.wps.freed ++ [i] ∧
          t.wps.lans = (s.wps.lans.filter fun l => l.idx != i) ∧
          ∀ fk k, (Tab.get {} (t.func fk).slots k).handle = h → (Tab.get {} (t.func fk).slots k).armed = false) ∧
      ∃ t, exec (.wpFree r) s = .next t ∧ (t.wp i).live = false ∧
        ∀ q slot o a c, q ≠ r → (s.task q).op slot = some o → o.kind = .wait a c → wpIndex a = i → (s.task q).killable = true →
          (t.task q).st = .killed ∧ (t.task q).after = some (.fail 0x18)) ∧
    (s.admReady r cmdWpExport b w →
      let fk := exportFunc ((s.task r).fk - 1024) b
      let k := leAt b 0x12 1
      let vec := leAt b 0x13 1
      let x := s.wp (wpIndex h)
      (h ≠ 0 → s.wpLive h = true ∧ (s.inScope fk x.owner x.sigScope = true ∨ s.inScope fk x.owner x.waitScope = true)) →
      vec ≤ (if 1024 ≤ fk then 15 else 63) → ends (.wpExport r) 0 [.funcs, .wps] fun t =>
        Tab.get {} (t.func fk).slots k = (if h = 0 then ({} : Slot) else
          { (Tab.get {} (s.func fk).slots k : Slot) with handle := h, vector := vec, armed := false }) ∧
        (∀ j, j ≠ k → Tab.get {} (t.func fk).slots j = Tab.get {} (s.func fk).slots j) ∧
        (∀ f, f ≠ fk → t.func f = s.func f) ∧ t.wps = { s.wps with lans := t.wps.lans } ∧
        ∀ l, l ∈ t.wps.lans ↔ l ∈ s.wps.lans ∧ l.kind ≠ .slot fk k)

/-! ### Faults, resets and dumps (13 R360 to R377; 02 R55; 15 R420, R429) -/

/-- CHANNEL_FAULT, HANDSHAKE_TIMEOUT and DETOUR_REISSUE (13 R361 to R365; 01 R35): a word's check decides whether it passes, is
corrected or is uncorrectable; a fault is counted by its kind and stamped with the channel's count of handshakes on the
channel it counts against, and but for a corrected word begins a detour, behind the one in progress; the bank rewrites a
corrected word. A detour ends with success; a further failure is counted, of a wait as a handshake timeout; after the third
it gives up: a lost stored word is poisoned, a task's read fails with 0x17, another transfer kills it for rerun, and that of
a COMMITTING task goes on. A third fault within 2^20 handshakes retires an MTU, whose tasks are killed, or an engine port,
whose partition is to be reset, and starts a bank's evacuation. What ends a detour or retires a channel is stated where no
engine or peer request waits to be taken up again. Where it rests on a choice of the model: log 24, 31, 126. -/
def Obligations.ChannelFaultsAndDetours : Prop :=
  ∀ (kind i unseen : Nat) (x : Transfer) (s : State),
    let k := (s.chargeTo kind i).1
    let j := (s.chargeTo kind i).2
    let key := ckey k j
    let c := s.chan key
    let n := (s.hands key + unseen) % 2 ^ 32
    let near : Prop := match c.stamps with
      | a :: b :: _ => dist 32 n a < 2 ^ 20 ∧ dist 32 n b < 2 ^ 20
      | _ => False
    let stamped (c : Chan) : Chan := { c with stamps := n :: c.stamps.take 1 }
    let put (t : State) (c : Chan) : Prop := t.chan key = c ∧ ∀ q, q ≠ key → t.chan q = s.chan q
    let retires (t : State) : Prop :=
      (k = 2 → (t.chan (ckey 2 j)).retired = true ∧ t.mtuHeld j = 0 ∧
        ∀ r slot o, (s.task r).op slot = some o → o.mtu = some j → (s.task r).killable = true → (t.task r).st = .killed) ∧
      (k = 3 → (t.chan (ckey 3 j)).evac = true) ∧
      (k = 1 → j ∉ s.rcv.portRet → bit s.rcv.dumpCfg 25 = false → (t.chan (ckey 1 j)).retired = true ∧
        (t.eport j).retired = true ∧ (t.eport j).egen = ((s.eport j).egen + 1) % 65536 ∧ (t.eport j).held = 0 ∧
        ∀ n, s.portPart j = some n → n ∈ t.rcv.waiting ∧ (t.part n).portLost = true ∧ bit (t.part n).engines j = false)
    let begun (c : Chan) (w : Option StoredWord) (waits : Bool) : Chan :=
      if c.evac || (s.rcv.portRet.contains j && k == 1) then c
      else if c.detour.isSome then { c with queue := c.queue ++ [(x, w, waits)] }
      else { c with detour := some 0, xfer := x, word := w, waits := waits, more := 0 }
    let fixed : Chan := stamped { c with corrected := satAdd 0xFFFF c.corrected 1 }
    let bad : Chan := stamped { c with uncorr := satAdd 0xFFFF c.uncorr 1 }
    let late : Chan := stamped { c with hsTimeout := satAdd 0xFFFF c.hsTimeout 1 }
    let waited (t : State) : Prop := ∀ q, t.eport q = if k = 1 ∧ q = j
      then { s.eport q with hsTimeout := satAdd 0xFFFF (s.eport q).hsTimeout 1 } else s.eport q
    (∀ z, pathCheck z = .clean → exec (.channelFault kind i unseen (.word z) x) s = .next s) ∧
    (c.retired = false → ¬(near ∧ retirable k = true) →
      (∀ z y, pathCheck z = .corrected y → ∃ t, exec (.channelFault kind i unseen (.word z) x) s = .next t ∧
        put t fixed ∧ s.only t [.chans, .cnt]) ∧
      (∀ what, (what ∈ [FaultWhat.bothRails, .poisonedCompletion] ∨ ∃ z, what = .word z ∧ pathCheck z = .uncorrectable) →
        ∃ t, exec (.channelFault kind i unseen what x) s = .next t ∧ put t (begun bad none false) ∧ s.only t [.chans, .cnt]) ∧
      (∀ w, (∀ a e, w ≠ .bank a e) → ∃ t, exec (.channelFault kind i unseen (.stored w) x) s = .next t ∧
        put t (begun bad (some w) false) ∧ s.only t [.chans, .cnt]) ∧
      (∀ a e, let m := s.sto.ws.strike (a / 32) e
        ∃ t, exec (.channelFault kind i unseen (.stored (.bank a e)) x) s = .next t ∧ s.only t [.chans, .sto, .cnt] ∧
        match pathCheck (m.codeword none (a / 32)) with
        | .clean => put t c ∧ t.sto = { s.sto with ws := m.mend none (a / 32) (m.codeword none (a / 32)).data }
        | .corrected y => put t fixed ∧ t.sto = { s.sto with ws := m.mend none (a / 32) y.data }
        | .uncorrectable => put t (begun bad (some (.bank a e)) false) ∧ t.sto = { s.sto with ws := m }) ∧
      (¬(c.detour.isSome = true ∧ c.word = none ∧ c.xfer = x) →
        ∃ t, exec (.handshakeTimeout kind i unseen x) s = .next t ∧ put t (begun late none (k == 1)) ∧ waited t ∧
        s.only t [.chans, .ports, .cnt]) ∧
      (∀ d, c.detour = some d → d + 1 < 3 → c.word = none → c.xfer = x → s.xl.waiting = [] →
        ∃ t, exec (.handshakeTimeout kind i unseen x) s = .next t ∧ put t { late with detour := some (d + 1) } ∧ waited t ∧
        s.only t [.chans, .ports, .cnt])) ∧
    (c.retired = false → c.evac = false → near → retirable k = true → s.xl.waiting = [] →
      ∀ f ∈ [Instr.channelFault kind i unseen .bothRails x, .handshakeTimeout kind i unseen x], ∃ t, exec f s = .next t ∧ retires t) ∧
    (∀ d, c.detour = some d → ∃ t, exec (.detourReissue kind i unseen true) s = .next t ∧ put t c.nextDetour ∧
      t.sto = (match c.word with
        | some (.bank a _) => { s.sto with ws := s.sto.ws.settle (a / 32) }
        | _ => s.sto) ∧ s.only t [.chans, .sto, .cnt]) ∧
    (c.detour = none → ∀ ok, exec (.detourReissue kind i unseen ok) s = .next s) ∧
    (∀ d, c.detour = some d → c.retired = false → d + 1 < 3 → s.xl.waiting = [] →
      (c.word.isSome = true → ∃ t, exec (.detourReissue kind i unseen false) s = .next t ∧
        put t { c with detour := some (d + 1) } ∧ s.only t [.chans]) ∧
      (c.word = none → ¬(near ∧ retirable k = true) → ∃ t, exec (.detourReissue kind i unseen false) s = .next t ∧
        put t { (if c.waits then late else bad) with detour := some (d + 1) } ∧ (c.waits = true → waited t) ∧
        (c.waits = false → t.ports = s.ports) ∧ s.only t [.chans, .ports, .cnt])) ∧
    (c.detour = some 2 → c.retired = false → c.evac = false → s.xl.waiting = [] →
      (∀ w, c.word = some w → ∃ t, exec (.detourReissue kind i unseen false) s = .next t ∧ put t c.nextDetour ∧ match w with
        | .record r => (t.task r).withdrawn = true
        | .waypoint n => (t.wp n).poisoned = true
        | .object n => (t.obj n).poisoned = true
        | .extent n pg => ∀ e ∈ (t.obj n).exts, e.off ≤ pg → pg < e.off + e.len → e.bad = true
        | .queue f q => (t.queue (qkey f q)).poisoned = true
        | .geq n => ∀ e, Tab.get none t.geq.ring n = some e → s.geq.tail % 4096 ≠ n → e.flags / 8 % 2 = 1
        | .bank a _ => t.readLoc (.ws a) = none) ∧
      (c.word = none → retirable k = true → ∃ t, exec (.detourReissue kind i unseen false) s = .next t ∧ retires t) ∧
      (c.word = none → retirable k = false →
        (∀ r, c.xfer = .read (some r) → k ≠ 7 → k ≠ 9 → (s.task r).killable = true →
          ∃ t, exec (.detourReissue kind i unseen false) s = .next t ∧ (t.task r).st = .killed ∧
            (t.task r).after = some (.fail 0x17)) ∧
        (∀ r, c.xfer = .write r → (s.task r).killable = true →
          ∃ t, exec (.detourReissue kind i unseen false) s = .next t ∧ (t.task r).st = .killed ∧
            (t.task r).after = some (if s.verkai (s.task r).part then .fail 0x1C else .rerun)) ∧
        (∀ r, c.xfer = .write r → (s.task r).st = .committing → ∃ t, exec (.detourReissue kind i unseen false) s = .next t ∧
          (t.chan key).detour = some 3 ∧ (t.chan key).more = 0 ∧ t.tasks = s.tasks) ∧
        (∀ g q, c.xfer = .tag g → (s.xl.reqs.find? fun y => y.port == j && y.tag == g) = some q →
          ∃ t, exec (.detourReissue kind i unseen false) s = .next t ∧ t.xl.reqs = s.xl.reqs.erase q)))

/-- COMMAND_TIMEOUT and BANK_EVACUATION_DONE (13 R360, R365, R366): a task that has not committed fails with 0x10, an admin
list ends with it at once or after the command in progress, and a committed task goes on; a retiring bank that has been
emptied is retired, holds no unit that it held, and is in no enabled partition.
Where it rests on a choice of the model: log 1. -/
def Obligations.TimeoutsAndEvacuation : Prop :=
  ∀ (r bank : Nat) (s : State),
    let x := s.task r
    let c := Instr.commandTimeout r
    let stat := if x.cstat = 0 then 0x10 else x.cstat
    let becomes (y : Task) : Prop := ∃ t, exec c s = .next t ∧ t.task r = y ∧ (∀ q, q ≠ r → t.task q = s.task q) ∧ s.only t [.tasks, .cnt]
    (x.killable = true → ∃ t, exec c s = .next t ∧ (t.task r).st = .killed ∧ (t.task r).after = some (.fail 0x10) ∧
      (t.task r).gen = x.gen ∧ (t.task r).staged = [] ∧ (t.task r).drafts = [] ∧ (t.task r).thread = none) ∧
    (x.kind ≠ .admin → x.killable = false → exec c s = .next s) ∧
    (x.kind = .admin → x.st = .admitted ∨ x.st = .running →
      (s.adminBusy r = false → becomes { x with
        st := .committing, ending := .admin, released := true, cstat := stat, summary := pack [(32, x.admDone), (8, 0)] }) ∧
      (s.adminBusy r = true → becomes { x.met 0x10 0 with admStop := true })) ∧
    ((s.chan (ckey 3 bank)).evac = true → ∃ t, exec (.bankEvacuationDone bank) s = .next t ∧
      (t.chan (ckey 3 bank)).retired = true ∧ (t.chan (ckey 3 bank)).evac = false ∧
      (∀ u, unitBank u = bank → Tab.get none s.sto.units u ≠ none → Tab.get none t.sto.units u = none) ∧
      ∀ n, s.enabled n = true → bit (t.part n).banks bank = false)

/-- Resets (13 R369 to R371, R377; 15 R420): GO is refused with RESULT 2 during a reset and with 3 for a partition that is not
enabled, and otherwise begins one, of the whole VAI in every partition; a waiting automatic reset begins when none runs; the kill phase ends the slices of the
domain and kills its RUNNING tasks; the clear phase, once the domain has drained, raises PGEN, clears its ports and with a
whole reset reinitialises the shared units; the restart phase ends the reset and counts it.
Where it rests on a choice of the model: log 62, 78, 128. -/
def Obligations.Resets : Prop :=
  ∀ (p : Nat) (v : W64) (s : State),
    let x := s.rcv
    let ctrl : W32 := (merge (x.rstCtrl.setWidth 64) v (ones 17 16 ||| ones 5 0)).setWidth 32
    let n := fld v 5 0
    let operator : Prop := (s.func (pfKey p)).linkUp = true ∧ s.boot.operator = some p
    let inDomain (m : Nat) : Prop := m < 64 ∧ (s.part m).resetting = true
    let begins (t : State) (r : Rcv) (hit : Nat → Prop) : Prop := t.rcv = r ∧ s.reported t ∧
      (∀ m, (hit m → t.part m = { s.part m with resetting := true }) ∧ (¬hit m → t.part m = s.part m)) ∧
      s.only t [.rcv, .parts, .funcs, .sec]
    (operator →
      (bit v 31 = false → exec (.resetGo p v) s = .next { s with rcv := { x with rstCtrl := ctrl } }) ∧
      (bit v 31 = true → x.phase ≠ 0 → exec (.resetGo p v) s = .next { s with rcv := { x with rstCtrl := ctrl, result := 2 } }) ∧
      (bit v 31 = true → x.phase = 0 → bit v 16 = false → s.enabled n = false →
        exec (.resetGo p v) s = .next { s with rcv := { x with rstCtrl := ctrl, result := 3 } }) ∧
      (bit v 31 = true → x.phase = 0 → bit v 17 = false →
        (bit v 16 = false → s.enabled n = true → ∃ t, exec (.resetGo p v) s = .next t ∧ begins t
          { x with rstCtrl := ctrl, whole := false, part := n, auto := false, result := 0, phase := 2 } (· = n)) ∧
        (bit v 16 = true → ∃ t, exec (.resetGo p v) s = .next t ∧ begins t
          { x with rstCtrl := ctrl, whole := true, part := 0, auto := false, result := 0, phase := 2 } (· < 64))) ∧
      (bit v 31 = true → x.phase = 0 → bit v 17 = true → bit v 16 = true ∨ s.enabled n = true → x.dumpBusy = false →
        x.dumpOn = true → ∃ t, exec (.resetGo p v) s = .next t ∧ t.rcv.phase = 1 ∧ t.rcv.dumpBusy = true ∧
          t.rcv.dumpCause = 1 ∧ t.rcv.dumpScope = (if bit v 16 then 0xFF else n) ∧ s.reported t)) ∧
    (∀ k rest, x.phase = 0 → x.waiting = k :: rest → s.enabled k = true → bit x.dumpCfg 25 = false →
      ∃ t, exec .resetAutoStart s = .next t ∧ begins t
        { x with waiting := rest, whole := false, part := k, auto := true, result := 0, phase := 2 } (· = k)) ∧
    (∀ k rest, x.phase = 0 → x.waiting = k :: rest → s.enabled k = false → x.portRet = [] →
      exec .resetAutoStart s = .next { s with rcv := { x with waiting := rest } }) ∧
    (x.phase ≠ 0 ∨ x.waiting = [] → exec .resetAutoStart s = .next s) ∧
    (x.phase = 2 → ∃ t, exec .resetKillPhase s = .next t ∧ t.rcv.phase = 3 ∧
      (∀ m, inDomain m → (t.part m).running = false ∧ (t.part m).draining = false ∧ (t.part m).job = none) ∧
      (x.portRet = [] → ∀ r, inDomain (s.task r).part → (s.task r).st = .running → (s.task r).kind ≠ .admin →
        (t.task r).st = .killed ∧ (t.task r).after = some (if s.verkai (s.task r).part then .fail 0x1C else .rerun))) ∧
    (x.phase ≠ 2 → exec .resetKillPhase s = .next s) ∧
    (x.phase = 3 → (∀ m, inDomain m → s.drainOver m = true) → ∃ t, exec .resetClearPhase s = .next t ∧ t.rcv = { x with phase := 4 } ∧
      (∀ m, inDomain m → (t.part m).pgen = ((s.part m).pgen + 1) % 65536 ∧ (t.part m).wsValid = false ∧
        ∀ k ∈ s.portsOf m, s.latch.engines = true → (s.eport k).enable = true → (s.eport k).retired = false → (s.eport k).identified = true →
          k ∉ x.portRet → (t.eport k).identified = false ∧ (t.eport k).clearing = true ∧ (t.eport k).held = 0) ∧
      (x.whole = true → t.dbell = {} ∧ t.fetch = {} ∧ t.suTurn = []) ∧
      s.only t [.rcv, .parts, .ports, .sto, .dbell, .fetch, .suTurn]) ∧
    (x.phase ≠ 3 → exec .resetClearPhase s = .next s) ∧
    (x.phase = 4 → (∀ m, inDomain m → s.clearsLeft m = false) → ∃ t, exec .resetRestartPhase s = .next t ∧
      t.rcv.phase = 0 ∧ t.rcv.result = 1 ∧ (∀ m, m < 64 → (t.part m).resetting = false) ∧
      t.rcv.nWhole = (if x.whole then (x.nWhole + 1) % 2 ^ 32 else x.nWhole) ∧
      t.rcv.nPart = (if x.whole then x.nPart else (x.nPart + 1) % 2 ^ 32) ∧
      ∀ r, (s.task r).st = .killed → (s.task r).after = some .rerun → inDomain (s.task r).part → (s.task r).drained = true →
        (s.task r).withdrawn = false → (t.task r).st = .admitted ∧ (t.task r).ctx = (s.task r).start)

/-- Dumps and the test access port (13 R374 to R377; 15 R420, R429): GO starts a dump of its scope, ends it at once with RESULT 4
where no buffer is enabled, and does nothing while one runs; the next field is written as one 16-byte record behind the
header, valid with its value or withheld with 0, and the last one ends the dump; the first read through the test access port
sets DEBUG_READ and changes the report. Whether a field is valid there is open (the model's free value).
Where it rests on a choice of the model: log 29, 32, 33. -/
def Obligations.Dumps : Prop :=
  ∀ (p : Nat) (v : W64) (s : State),
    let x := s.rcv
    let ctrl : W32 := (merge (x.dumpCtrl.setWidth 64) v (ones 16 8 ||| ones 5 0)).setWidth 32
    let scope := if bit v 16 then 0xFF else fld v 5 0
    let fresh : Rcv := { x with dumpCtrl := ctrl, dumpRecords := 0, dumpWithheld := 0, dumpScope := scope, dumpCause := 0
                                dumpFoldA := 0, dumpFoldB := 0 }
    ((s.func (pfKey p)).linkUp = true → s.boot.operator = some p →
      (bit v 31 = false ∨ x.dumpBusy = true → exec (.dumpGo p v) s = .next { s with rcv := { x with dumpCtrl := ctrl } }) ∧
      (bit v 31 = true → x.dumpBusy = false → x.dumpOn = false →
        exec (.dumpGo p v) s = .next { s with rcv := { fresh with dumpResult := 4 } }) ∧
      (bit v 31 = true → x.dumpBusy = false → x.dumpOn = true → ∃ t, exec (.dumpGo p v) s = .next t ∧
        t.rcv = { fresh with dumpBusy := true, dumpResult := 0, dumpTodo := t.rcv.dumpTodo } ∧
        (scope ≠ 0xFF → t.rcv.dumpTodo.take 12 = fieldsOf 1 (offs 12) scope) ∧
        s.only t [.rcv])) ∧
    (∀ scan d rest, x.dumpBusy = true → x.dumpTodo = d :: rest →
      0x40 + 16 * (x.dumpRecords + 1) ≤ fld x.dumpCfg 19 0 * 4096 →
      ∀ c val held, (c = Instr.dumpFieldRead scan ∧ val = s.fieldValue scan d ∧ held = false) ∨
          (c = .dumpFieldWaitExpiry ∧ val = 0 ∧ held = true) →
        let bytes := leBytes 4 d.index ++ leBytes 2 d.field ++ leBytes 1 d.sec ++ leBytes 1 (b2n held) ++ leBytes 8 val.toNat
        ∀ u, s.dumpWrite (0x40 + 16 * x.dumpRecords) bytes = (u, true) →
          (rest ≠ [] → ∃ t, exec c s = .next t ∧ t.rcv = { x with
              dumpRecords := x.dumpRecords + 1, dumpWithheld := x.dumpWithheld + b2n held, dumpTodo := rest
              dumpFoldA := (foldWords 4 bytes x.dumpFoldA x.dumpFoldB).1, dumpFoldB := (foldWords 4 bytes x.dumpFoldA x.dumpFoldB).2 } ∧
            t.out = u.out ∧ t.sto = u.sto ∧ s.only t [.rcv, .out, .sto, .xl, .freeCtr, .cnt]) ∧
          (rest = [] → x.dumpNext = false → ∃ t, exec c s = .next t ∧ t.rcv.dumpBusy = false ∧ t.rcv.dumpTodo = [] ∧
            t.rcv.dumpRecords = x.dumpRecords + 1 ∧ (t.rcv.dumpResult = 1 ∨ t.rcv.dumpResult = 3) ∧
            s.only t [.rcv, .out, .sto, .xl, .freeCtr, .cnt, .objs] ∧ s.objsKept t)) ∧
    (x.dumpBusy = false → ∀ scan, exec (.dumpFieldRead scan) s = .next s ∧ exec .dumpFieldWaitExpiry s = .next s) ∧
    (∀ sec index field, ∃ t, exec (.tapRead sec index field) s = .next t ∧ t.latch = { s.latch with debugRead := true } ∧
      (t.out = .tapData true 0 :: s.out ∨
        t.out = .tapData false (s.fieldValue (Config.scanned s.freeCtr) ⟨sec, index, field⟩) :: s.out) ∧
      (s.latch.debugRead = false → s.reported t ∧ s.only t [.latch, .out, .freeCtr, .sec, .funcs]) ∧
      (s.latch.debugRead = true → s.only t [.out, .freeCtr]))

/-! ### Security (15 R404 to R426; 17 R448, R449) -/

/-- Mailbox channels (15 R404 to R408; 17 R449): GO of its requester captures 8 to 16 words, fills the request buffer and, of a
non-secure channel, interrupts the root of trust; another length is counted in BADLEN, and a write to a full buffer is a bus
error counted in ABORTS. The requester's status read takes the response and clears the counts; the receiver's takes the
request. A response of the root of trust fills the response buffer and, with IRQ_EN 1, signals the channel's vector of the
Operator PF: a message, or a pending bit while IRQ is 0 or the vector is masked. An empty channel powers down.
Where it rests on a choice of the model: log 1, 84. -/
def Obligations.MailboxChannels : Prop :=
  ∀ (w : Window) (c : Nat) (v : W64) (s : State),
    let k := mbxKey w c
    let m := s.mbx k
    let r := s.mbx c
    let n := fld v 4 0
    let put (k : Nat) (x : Mbx) (l : List Out) : State := { s.modMbx k (fun _ => x) with out := l ++ s.out }
    (c < 8 → w = .rot ∨ (∃ p, w = .pf p ∧ (s.func (pfKey p)).linkUp = true ∧ s.boot.operator = some p) →
      (m.reqFull = true → exec (.mbxGo w c v) s = .next (put k { m with aborts := satAdd 0xFF m.aborts 1 } [.busError w])) ∧
      (m.reqFull = false → bit v 31 = false → exec (.mbxGo w c v) s = .next s) ∧
      (m.reqFull = false → bit v 31 = true → n < 8 ∨ 16 < n →
        exec (.mbxGo w c v) s = .next (put k { m with badlen := satAdd 0xFF m.badlen 1 } [])) ∧
      (m.reqFull = false → bit v 31 = true → 8 ≤ n → n ≤ 16 → exec (.mbxGo w c v) s = .next (put k
        { m with cap := (List.range n).map fun i => Tab.get 0 m.req i, reqFull := true, awake := true }
        (if k < 8 then [.rotIrq (8 + k)] else []))) ∧
      exec (.mbxRspStatusRead w c) s = .next (put k { m with rspFull := false, badlen := 0, aborts := 0 } [.readData m.rspStatus])) ∧
    (c < 16 →
      let read : List Out := if c < 8 then [.readData r.rcvStatus] else []
      (r.reqFull = true → exec (.mbxRcvStatusRead c) s = .next (put c
        { r with reqFull := false, taken := r.taken ++ [r.cap] } read)) ∧
      (r.reqFull = false → exec (.mbxRcvStatusRead c) s = .next { s with out := read ++ s.out })) ∧
    (c < 8 →
      (r.rspFull = true → exec (.mbxRcvGo c v) s = .next { s with out := .busError .rot :: s.out }) ∧
      (r.rspFull = false → bit v 31 = false → exec (.mbxRcvGo c v) s = .next s) ∧
      (r.rspFull = false → bit v 31 = true → n < 8 ∨ 16 < n →
        exec (.mbxRcvGo c v) s = .next (put c { r with badlen := satAdd 0xFF r.badlen 1 } [])) ∧
      (r.rspFull = false → bit v 31 = true → 8 ≤ n → n ≤ 16 → ∃ t, exec (.mbxRcvGo c v) s = .next t ∧
        (t.mbx c).rspFull = true ∧ (t.mbx c).rspLen = n ∧ (t.mbx c).taken = r.taken.tail ∧ (t.mbx c).awake = true ∧
        (∀ i, Tab.get 0 (t.mbx c).rsp i = if i < n then Tab.get 0 r.rcvRsp i else Tab.get 0 r.rsp i) ∧
        (∀ j, j ≠ c → t.mbx j = s.mbx j) ∧ s.only t [.sec, .funcs, .out] ∧ (bit r.irq 8 = false → s.only t [.sec]) ∧
        ∀ p, bit r.irq 8 = true → s.boot.operator = some p →
          if s.latch.irq = true ∧ (Tab.get {} (s.func (pfKey p)).msix (fld r.irq 3 0)).masked = false
          then t.out = .msix (pfKey p) (fld r.irq 3 0) :: s.out ∧ t.funcs = s.funcs
          else (t.func (pfKey p)).pend = setBit (s.func (pfKey p)).pend (fld r.irq 3 0) ∧ t.out = s.out)) ∧
    (c < 16 → r.reqFull = false → r.rspFull = false →
      exec (.mailboxPowerDown c) s = .next (put c { r with awake := false } []))

/-- DESIGNATE, SET_MODE, FW_LOAD, FW_ARM, FW_STAGE, FW_ACTIVATE and FW_DISCARD, on well-formed requests (15 R411, R413, R415,
R420 to R425; 02 R39): a designation changes unless a fuse fixes it; the service mode leaves START and NORMAL once, and
withdraws the SET keys; a component is hashed into a bank that does not run; the first arming makes firmware ready and points
every selector at its bank, a later one and an activation begin the transition, in which every partition without a running
slice switches at once, and which the last switch ends with the fused version raised to the package's; staging takes a
package whose checks hold; discarding empties the other bank. Each request is answered with its RESULT.
Where it rests on a choice of the model: log 79, 81. -/
def Obligations.FirmwareAndMode : Prop :=
  ∀ (c : Nat) (q : List W32) (s : State),
    let w1 := reqWord q 1
    let b := fld w1 8 8
    let x := s.sec
    let answers (i : Instr) (k n res : Nat) (l : List W32) (e : State → Prop) : Prop :=
      ∃ t, exec i s = .next t ∧ s.answered t k q n res l ∧ e t
    let sec (t : State) : Sec := { t.sec with mbx := x.mbx }
    let same (y : Sec) (t : State) : Prop := sec t = y ∧ s.only t [.sec, .funcs, .out]
    let noted (res : Nat) : Sec := { x with lastResult := res }
    let switching (t : State) : Prop := s.reported t ∧ (sec t).lastResult = 0 ∧
      (∀ n, n < 64 → s.enabled n = false ∨ (s.part n).running = false → bit x.swapped n = false →
        (t.part n).fwSel = 1 - x.active ∧ ∀ k y, Tab.get none t.sec.keys k = some y → ¬(y.attested = true ∧ y.part = n)) ∧
      ((∃ n, n < 64 ∧ s.enabled n = true ∧ (s.part n).running = true ∧ bit x.swapped n = false) → t.sec.transition = true ∧
        t.sec.active = x.active) ∧
      ((∀ n, n < 64 → s.enabled n = true → (s.part n).running = true → bit x.swapped n = true) → t.sec.transition = false ∧
        t.sec.staged = false ∧ t.sec.active = 1 - x.active ∧ t.sec.raised = max x.raised x.pkgVersion) ∧
      s.only t [.sec, .funcs, .out, .parts]
    (c < 4 → s.asked (8 + c) q →
      (reqOp q = 0x01 → reqOk q 2 = true → w1.toNat < 4 →
        (s.boot.byFuse = true → answers (.designate c) (8 + c) 8 0x02 [] (same x)) ∧
        (s.boot.byFuse = false → s.boot.operator = some w1.toNat → answers (.designate c) (8 + c) 8 0 [] (same x)) ∧
        (s.boot.byFuse = false → s.boot.operator ≠ some w1.toNat → answers (.designate c) (8 + c) 8 0 [] fun t =>
          t.boot = { s.boot with operator := some w1.toNat } ∧ s.reported t ∧ s.only t [.sec, .funcs, .out, .boot])) ∧
      (reqOp q = 0x06 → reqOk q 2 = true → w1.toNat = 2 ∨ w1.toNat = 3 →
        (2 ≤ x.mode → answers (.setMode c) (8 + c) 8 0x0A [] (same x)) ∧
        (x.mode < 2 → answers (.setMode c) (8 + c) 8 0 [] fun t => t.sec.mode = w1.toNat ∧ s.reported t ∧
          (∀ e, e ∈ t.sec.keys ↔ e ∈ x.keys ∧ ∃ k, e.2 = some k ∧ k.attested = true) ∧ s.only t [.sec, .funcs, .out])) ∧
      (reqOp q = 0x02 → reqOk q 5 = true → (w1 &&& 0xFFFFFEFC#32) = 0 → fld w1 1 0 ≠ 3 → reqAddr q 2 % 4096 = 0 →
        1 ≤ (reqWord q 4).toNat → (reqWord q 4).toNat ≤ 4194304 →
        let l := s.pkgBytes (reqAddr q 2) (reqWord q 4).toNat
        (s.bankRuns b = true → answers (.fwLoad c) (8 + c) 13 0x03 [] (same (noted 0x03))) ∧
        (s.bankRuns b = false → none ∈ l → answers (.fwLoad c) (8 + c) 13 0x08 [] (same (noted 0x08))) ∧
        (s.bankRuns b = false → none ∉ l → answers (.fwLoad c) (8 + c) 13 0 (packWords 12 (beBytes 48 (sha384 (plain l)).toNat))
          (same { noted 0 with fw := Tab.set none x.fw (b * 4 + fld w1 1 0) (some (sha384 (plain l))) }))) ∧
      (reqOp q = 0x03 → reqOk q 2 = true → (w1 &&& 0xFFFFFEFF#32) = 0 →
        (s.latch.fwReady = false → answers (.fwArm c) (8 + c) 8 0 [] fun t => t.latch = { s.latch with fwReady := true } ∧
          t.sec.active = b ∧ s.reported t ∧ (∀ n, t.part n = if n < 64 then { s.part n with fwSel := b } else s.part n) ∧
          s.only t [.sec, .funcs, .out, .latch, .parts]) ∧
        (s.latch.fwReady = true → x.transition = true ∨ x.active = b →
          answers (.fwArm c) (8 + c) 8 0x03 [] (same (noted 0x03))) ∧
        (s.latch.fwReady = true → x.transition = false → x.active ≠ b → answers (.fwArm c) (8 + c) 8 0 [] switching))) ∧
    (c < 8 → s.asked c q →
      (∀ a, reqOp q = 0x20 → reqOk q 4 = true → 1 ≤ (reqWord q 3).toNat →
        let fits := s.inDevmem (reqAddr q 1) (reqWord q 3).toNat
        let whole : Prop := a.imageOk = true ∧ a.digestsOk = true ∧ ∀ i, i < 3 → (s.fwDigest (1 - x.active) i).isSome = true
        (x.staged = true ∨ x.transition = true → answers (.fwStage c a) c 8 0x03 [] (same (noted 0x03))) ∧
        (x.staged = false → x.transition = false → fits = false → answers (.fwStage c a) c 8 0x02 [] (same (noted 0x02))) ∧
        (x.staged = false → x.transition = false → fits = true → ¬whole → 
          answers (.fwStage c a) c 8 0x08 [] fun t => t.sec.staged = false ∧ t.sec.active = x.active ∧ s.only t [.sec, .funcs, .out]) ∧
        (x.staged = false → x.transition = false → fits = true → whole → answers (.fwStage c a) c 8 0 [] fun t =>
          t.sec.staged = true ∧ t.sec.fw = x.fw ∧ t.sec.pkgVersion = a.version ∧ t.sec.lastResult = 0 ∧ s.reported t ∧ s.only t [.sec, .funcs, .out])) ∧
      (reqOp q = 0x21 → reqOk q 1 = true →
        (x.staged = true → x.transition = false → answers (.fwActivate c) c 8 0 [] switching) ∧
        (x.staged = false ∨ x.transition = true → answers (.fwActivate c) c 8 0x03 [] (same (noted 0x03)))) ∧
      (reqOp q = 0x22 → reqOk q 1 = true →
        (x.transition = true → answers (.fwDiscard c) c 8 0x03 [] (same (noted 0x03))) ∧
        (x.transition = false → x.staged = false → answers (.fwDiscard c) c 8 0 [] (same (noted 0))) ∧
        (x.transition = false → x.staged = true → answers (.fwDiscard c) c 8 0 [] fun t => t.sec.staged = false ∧ s.reported t ∧
          (∀ e, e ∈ t.sec.fw ↔ e ∈ x.fw ∧ e.1 / 4 ≠ 1 - x.active) ∧ s.only t [.sec, .funcs, .out])))

/-- KEY_LOAD, KEY_CLEAR, KEY_RELEASE, KEY_IMPORT and KEY_WITHDRAW, on well-formed requests (15 R411, R414, R415, R421): a free slot
takes the key for an enabled partition, with the class that the command gives it; a release needs mode NORMAL; an import
destroys the ephemeral key of the PF that its blob names, and takes the key where the blob is of the present report, for the
same partition, and its tag matches under the key that the ECDH product gives; clearing and withdrawing empty the slot. Each
request is answered with its RESULT. Where it rests on a choice of the model: log 79, 80, 129. -/
def Obligations.KeySlots : Prop :=
  ∀ (c : Nat) (q : List W32) (s : State),
    let w1 := reqWord q 1
    let slot := fld w1 7 0
    let part := fld w1 21 16
    let answers (i : Instr) (k res : Nat) (f : Nat → Option Key) : Prop := ∃ t, exec i s = .next t ∧ s.answered t k q 8 res [] ∧
      (∀ n, Tab.get none t.sec.keys n = f n) ∧ t.sec.reportGen = s.sec.reportGen ∧ s.only t [.sec, .funcs, .out]
    let old (n : Nat) : Option Key := Tab.get none s.sec.keys n
    let put (x : Option Key) (n : Nat) : Option Key := if n = slot then x else old n
    (c < 4 → s.asked (8 + c) q →
      (reqOp q = 0x04 → reqOk q 10 = true → (w1 &&& 0x7FC0FF00#32) = 0 → slot ≠ 0 →
        (s.enabled part = false → answers (.keyLoad c) (8 + c) 0x02 old) ∧
        (s.enabled part = true → old slot ≠ none → answers (.keyLoad c) (8 + c) 0x03 old) ∧
        (s.enabled part = true → old slot = none → answers (.keyLoad c) (8 + c) 0 (put (some ⟨bit w1 31, part, keyOf q⟩)))) ∧
      (reqOp q = 0x05 → reqOk q 2 = true → w1.toNat < 256 → slot ≠ 0 → answers (.keyClear c) (8 + c) 0 (put none))) ∧
    (c < 8 → s.asked c q →
      (reqOp q = 0x25 → reqOk q 2 = true → w1.toNat < 256 → slot ≠ 0 → answers (.keyWithdraw c) c 0 (put none)) ∧
      (∀ key, reqOp q = 0x23 → reqOk q 3 = true → (w1 &&& 0xFFC0FF00#32) = 0 → slot ≠ 0 →
        (s.sec.mode ≠ 1 → answers (.keyRelease c key) c 0x0A old) ∧
        (s.sec.mode = 1 → s.enabled part = false → answers (.keyRelease c key) c 0x02 old) ∧
        (s.sec.mode = 1 → s.enabled part = true → old slot ≠ none → answers (.keyRelease c key) c 0x03 old) ∧
        (s.sec.mode = 1 → s.enabled part = true → old slot = none →
          (key = none → answers (.keyRelease c key) c 0x07 old) ∧
          ∀ v, key = some v → answers (.keyRelease c key) c 0 (put (some ⟨false, part, v⟩)))) ∧
      (∀ z, reqOp q = 0x24 → reqOk q 4 = true → (w1 &&& 0xFFC0FF00#32) = 0 → slot ≠ 0 →
        let fits : Prop := s.inDevmem (reqAddr q 2) 160 = true ∧ s.enabled part = true
        let l := s.pkgBytes (reqAddr q 2) 160
        let f := leAt (plain l) 0x64 1
        let key := unwrapKey z (plain l)
        let good : Prop := none ∉ l ∧ leAt (plain l) 0x60 4 = s.sec.reportGen ∧ f < 4 ∧ (s.func (pfKey f)).eph = some s.sec.reportGen
        (¬fits → answers (.keyImport c z) c 0x02 old) ∧
        (fits → s.sec.transition = true → answers (.keyImport c z) c 0x04 old) ∧
        (fits → s.sec.transition = false → (s.part part).resetting = true → answers (.keyImport c z) c 0x09 old) ∧
        (fits → s.sec.transition = false → (s.part part).resetting = false →
          (f < 4 → ∃ t, exec (.keyImport c z) s = .next t ∧ (t.func (pfKey f)).eph = none) ∧
          (¬good → answers (.keyImport c z) c 0x05 old) ∧
          (good → leAt (plain l) 0x65 1 ≠ part ∨ key = none → answers (.keyImport c z) c 0x06 old) ∧
          (good → leAt (plain l) 0x65 1 = part → ∀ v, key = some v →
            (old slot ≠ none → answers (.keyImport c z) c 0x03 old) ∧
            (old slot = none → answers (.keyImport c z) c 0 (put (some ⟨true, part, v⟩)))))))

/-- The SPDM relay (15 R416 to R418; the ephemeral key of R421): a request object reaches the root of trust as a whole, unless
one is being relayed or it is too long, a Discovery object is answered by the VAI itself, and an abort drops everything; FRAGMENT fetches the next at most 60 bytes of the
request, or appends its bytes to the response, which LAST makes ready.
Where it rests on a choice of the model: log 36, 82, 83, 130. -/
def Obligations.SpdmRelay : Prop :=
  ∀ (p : Nat) (data : List Byte) (q : List W32) (s : State), p < 4 →
    let d := (s.func (pfKey p)).doe
    let set (x : Doe) (l : List Out) : State := { s.modFunc (pfKey p) fun f => { f with doe := x } with out := l ++ s.out }
    ((s.func (pfKey p)).linkUp = true →
      (d.pending = false →
        (4096 < data.length → ∀ k, exec (.doeGo p k data) s = .next (set { d with error := true, req := [], sent := 0 } [])) ∧
        (data.length ≤ 4096 → exec (.doeGo p .spdm data) s =
          .next (set { d with req := data, sent := 0, pending := true, rsp := [], ready := false } [.rotIrq (16 + p)])) ∧
        (data.length ≤ 4096 → exec (.doeGo p .discovery data) s =
          .next (set { d with rsp := discoveryAnswer data, ready := true } []) ∧ exec (.doeGo p .other data) s = .next s)) ∧
      (d.pending = true → ∀ k, exec (.doeGo p k data) s = .next s) ∧
      exec (.doeAbort p) s = .next (set { aborted := true } [])) ∧
    (s.asked (12 + p) q → reqOp q = 0x7F → fragOk q = true →
      let n := fld (reqWord q 0) 13 8
      let tag := fld (reqWord q 0) 31 16
      let b := (d.req.drop d.sent).take 60
      let replies (last : Bool) (res : Nat) (b : List Byte) (y : Doe) : Prop := ∃ t, exec (.fragment (4 + p)) s = .next t ∧
        (t.mbx (12 + p)).rspFull = true ∧ (t.mbx (12 + p)).rspLen = 16 ∧ (t.mbx (12 + p)).taken = (s.mbx (12 + p)).taken.tail ∧
        Tab.get 0 (t.mbx (12 + p)).rsp 0 = BitVec.ofNat 32 (tag * 2 ^ 16 + b2n last * 2 ^ 15 + b.length * 2 ^ 8 + res) ∧
        (∀ i, i < 15 → Tab.get 0 (t.mbx (12 + p)).rsp (1 + i) = BitVec.ofNat 32 (leAt (b ++ List.replicate 60 0) (4 * i) 4)) ∧
        (t.func (pfKey p)).doe = y ∧ (∀ k, k ≠ pfKey p → t.func k = s.func k) ∧ s.only t [.sec, .funcs, .out]
      (d.aborted = true → replies false 0x0B [] { d with aborted := false }) ∧
      (d.aborted = false → n = 0 → d.pending = false → replies false 0 [] d) ∧
      (d.aborted = false → n = 0 → d.pending = true → replies (d.req.length ≤ d.sent + b.length) 0 b
        { d with sent := d.sent + b.length, pending := decide (d.sent + b.length < d.req.length) }) ∧
      (d.aborted = false → 0 < n → d.rsp.length + n ≤ 4096 →
        replies false 0 [] { d with rsp := d.rsp ++ fragBytes q n, ready := bit (reqWord q 0) 15 }) ∧
      (d.aborted = false → 4096 < d.rsp.length + n → 0 < n → replies false 0x01 [] { d with rsp := [] }))

/-! ### Tenancy, functions, counters and registers (00 R7 to R9; 02 R38 to R68; 16 R430 to R436) -/

/-- VF_BIND, VF_RANGE and PART_CFG writes of the Operator PF (02 R43 to R45, R53, R54; 03 R73; 15 R415, R420): one that meets
every condition is taken (a binding that changes VALID or PARTITION raises VF_GEN, an enable starts the partition's slice
count and loop anew, a disable withdraws its keys), any other changes nothing and is recorded in CFG_RESULT with the refusal
code of a condition that fails. Where it rests on a choice of the model: log 87, 101. -/
def Obligations.TenancyWrites : Prop :=
  ∀ (p n : Nat) (v : W64) (s : State), (s.func (pfKey p)).linkUp = true → s.boot.operator = some p →
    (n < 1024 →
      let old := (s.func n).bind
      let new := merge old v (ones 31 31 ||| ones 23 16 ||| ones 5 0)
      let live := (s.liveQueues n).length
      let inRange : Prop := bit new 31 = true → (s.vfPort n).isSome = true
      let enabled : Prop := s.enabled (fld new 5 0) = true
      let idle : Prop := live = 0 ∨ (fld new 5 0 = fld old 5 0 ∧ (bit old 31 = true → bit new 31 = true) ∧ live ≤ fld new 23 16)
      let fits : Prop := bit new 31 = true → s.quotaSum n + fld new 23 16 ≤ 16320
      let refused (code : Nat) : Prop := exec (.vfBindWrite p n v) s = .next (s.refuse p code (0x20000 + 8 * n))
      (inRange → fld new 23 16 ≤ 64 → enabled → idle → fits → exec (.vfBindWrite p n v) s = .next (s.modFunc n fun f =>
        { f with bind := new, bindGen := if bit old 31 = bit new 31 ∧ fld old 5 0 = fld new 5 0 then f.bindGen else (f.bindGen + 1) % 65536 })) ∧
      (¬inRange ∨ 64 < fld new 23 16 → refused 0x02) ∧
      (inRange → fld new 23 16 ≤ 64 → ¬enabled → refused 0x0C) ∧
      (inRange → fld new 23 16 ≤ 64 → enabled → ¬idle → refused 0x05) ∧
      (inRange → fld new 23 16 ≤ 64 → enabled → idle → ¬fits → refused 0x04)) ∧
    (n < 4 →
      let new := merge ((s.func (pfKey n)).range.setWidth 64) v (ones 26 16 ||| ones 9 0)
      let b := fld new 9 0
      let c := fld new 26 16
      let apart : Prop := ∀ q, q < 4 → q ≠ n → ¬(0 < c ∧ 0 < s.vfCount q ∧ b < s.vfBase q + s.vfCount q ∧ s.vfBase q < b + c)
      let refused (code : Nat) : Prop := exec (.vfRangeWrite p n v) s = .next (s.refuse p code (0x24000 + 8 * n))
      (apart → b + c ≤ 1024 → (s.func (pfKey n)).vfEnable = false → exec (.vfRangeWrite p n v) s =
        .next (s.modFunc (pfKey n) fun f => { f with range := new.setWidth 32 })) ∧
      (¬apart → refused 0x03) ∧ (apart → 1024 < b + c → refused 0x02) ∧
      (apart → b + c ≤ 1024 → (s.func (pfKey n)).vfEnable = true → refused 0x09)) ∧
    (n < 64 →
      let x := s.part n
      let new := merge x.cfg v (ones 40 32 ||| ones 9 8 ||| ones 0 0)
      let th := fld new 40 32
      let some' : Prop := x.engines ≠ 0 ∧ x.banks ≠ 0 ∧ 1 ≤ th ∧ 1 ≤ extCount x.extents
      let apart : Prop := (∀ m, m < 64 → m ≠ n → s.enabled m = true → x.engines &&& (s.part m).engines = 0 ∧
          x.banks &&& (s.part m).banks = 0 ∧ extMeets x.extents (s.part m).extents = false) ∧
        (s.rcv.rszPhase ≠ 0 → s.rszHolds n = false → x.engines &&& s.rcv.rszMovE = 0 ∧ x.banks &&& s.rcv.rszMovB = 0)
      let fits : Prop := extBase x.extents + extCount x.extents ≤ 1048576 ∧ th + s.threadsOthers n ≤ 256
      let whole : Prop := ∀ i, i < 64 → (bit x.engines i = true → (s.chan (ckey 1 i)).retired = false) ∧
        (bit x.banks i = true → (s.chan (ckey 3 i)).retired = false)
      let taken (c : Instr) (e : State → Prop) : Prop := ∃ t, exec c s = .next t ∧ (t.part n).cfg = new ∧ s.reported t ∧ e t ∧
        (∀ m, m ≠ n → t.part m = s.part m) ∧ s.only t [.parts, .funcs, .sec]
      let refused (c : Instr) (code : Nat) : Prop := exec c s = .next (s.refuse p code (0x10000 + n * 0x100))
      (bit x.cfg 0 = false → bit new 0 = true → th ≤ 256 → fld new 9 8 ≤ 1 →
        (some' → apart → fits → whole → taken (.partitionEnable p n v) fun t => (t.part n).slices = 0 ∧
          (t.part n).prev = none ∧ (t.part n).cvy.restart = true ∧ (t.part n).engines = x.engines ∧ (t.part n).banks = x.banks ∧
          ((t.part n).stepNs, (t.part n).endNs) = t.stepTimes n) ∧
        (¬some' → refused (.partitionEnable p n v) 0x0A) ∧ (some' → ¬apart → refused (.partitionEnable p n v) 0x03) ∧
        (some' → apart → ¬fits → refused (.partitionEnable p n v) 0x04) ∧
        (some' → apart → fits → ¬whole → refused (.partitionEnable p n v) 0x0B)) ∧
      (bit x.cfg 0 = true → bit new 0 = false → th = fld x.cfg 40 32 → fld new 9 8 = fld x.cfg 9 8 →
        (s.boundVfs n = [] → th ≤ 256 → fld new 9 8 ≤ 1 → taken (.partitionDisable p n v) fun t =>
          ∀ e, e ∈ t.sec.keys ↔ e ∈ s.sec.keys ∧ ∃ k, e.2 = some k ∧ k.part ≠ n) ∧
        (s.boundVfs n ≠ [] → refused (.partitionDisable p n v) 0x06)) ∧
      (bit x.cfg 0 = true → th ≠ fld x.cfg 40 32 ∨ fld new 9 8 ≠ fld x.cfg 9 8 → refused (.partitionDisable p n v) 0x07))

/-- Resize (02 R57 to R63): GO is refused while one is in progress; a check that fails leaves its code in RESULT; with a source
it waits in phase 1, where CANCEL ends it with RESULT 2, for a boundary of the source; then its resources leave the source
and phase 2 scrubs the banks, whose every byte reads zero, and clears the ports; at a boundary of the destination they join
it, with RESULT 1. Where it rests on a choice of the model: log 67, 101, 103. -/
def Obligations.ResizeSteps : Prop :=
  ∀ (p bank : Nat) (v : W64) (s : State),
    let x := s.rcv
    let new := merge (x.rszCtrl.setWidth 64) v (ones 24 16 ||| ones 14 8 ||| ones 6 0)
    let th := fld x.rszAct 24 16
    let operator : Prop := (s.func (pfKey p)).linkUp = true ∧ s.boot.operator = some p
    let others (t : State) (o : Option Nat) : Prop := ∀ m, o ≠ some m → (s.part m).engines &&& x.rszMovE = 0 →
      t.part m = s.part m
    (operator → bit v 31 = true →
      (x.rszPhase ≠ 0 → exec (.resizeGo p v) s = .next (s.refuse p 0x08 0x14000)) ∧
      (x.rszPhase = 0 → s.rszCheck new ≠ 0 → exec (.resizeGo p v) s = .next { s with rcv := { x with
        rszCtrl := new.setWidth 32, rszResult := s.rszCheck new, rszRetired := false } }) ∧
      (x.rszPhase = 0 → s.rszCheck new = 0 → bit new 6 = false → exec (.resizeGo p v) s = .next { s with rcv := { x with
        rszCtrl := new.setWidth 32, rszResult := 0, rszRetired := false, rszPhase := 1, rszAct := new.setWidth 32
        rszMovE := x.rszEngines, rszMovB := x.rszBanks, rszScrubbed := 0, rszCleared := 0 } }) ∧
      (x.rszPhase = 0 → s.rszCheck new = 0 → bit new 6 = true → ∃ t, exec (.resizeGo p v) s = .next t ∧ t.rcv.rszPhase = 2 ∧
        t.rcv.rszMovE = x.rszEngines ∧ t.rcv.rszMovB = x.rszBanks ∧ s.only t [.rcv, .ports, .parts])) ∧
    (operator → bit v 31 = false → bit v 30 = true →
      (x.rszPhase = 1 → exec (.resizeCancel p v) s = .next { s with rcv := { x with
        rszCtrl := new.setWidth 32, rszPhase := 0, rszResult := 2 } }) ∧
      (x.rszPhase ≠ 1 → exec (.resizeCancel p v) s = .next { s with rcv := { x with rszCtrl := new.setWidth 32 } })) ∧
    (s.srcReady = true → s.atBoundary x.src = true → ∃ t, exec .resizeSourceStep s = .next t ∧
      t.rcv = { x with rszPhase := 2, rszCleared := t.rcv.rszCleared } ∧
      (∀ n, x.src = some n → (t.part n).engines = (s.part n).engines &&& ~~~x.rszMovE ∧
        (t.part n).banks = (s.part n).banks &&& ~~~x.rszMovB ∧ fld (t.part n).cfg 40 32 = s.threadsCfg n - th ∧
        fld (t.part n).cfg 31 0 = fld (s.part n).cfg 31 0) ∧
      (∀ k, k < 64 → bit x.rszMovE k = true → s.latch.engines = true → (s.eport k).retired = false →
        (t.eport k).clearing = true ∧ (t.eport k).egen = ((s.eport k).egen + 1) % 65536) ∧
      (∀ k, k < 64 → bit x.rszMovE k = true → s.latch.engines = false ∨ (s.eport k).retired = true →
        bit t.rcv.rszCleared k = true) ∧
      (∀ k, bit x.rszMovE k = false → t.eport k = s.eport k) ∧ others t x.src ∧ s.only t [.rcv, .ports, .parts]) ∧
    (s.srcReady = false → exec .resizeSourceStep s = .next s) ∧
    (x.rszPhase = 2 → bank < 64 → bit x.rszMovB bank = true → bit x.rszScrubbed bank = false →
      ∃ t, exec (.scrubComplete bank) s = .next t ∧ t.rcv = { x with rszScrubbed := setBit x.rszScrubbed bank } ∧
        (∀ a, a / 33554432 = bank → t.readLoc (.ws a) = some 0) ∧
        (∀ a, a / 33554432 ≠ bank → t.readLoc (.ws a) = s.readLoc (.ws a)) ∧ s.only t [.rcv, .sto]) ∧
    (s.dstReady = true → s.atBoundary x.dst = true → ∃ t, exec .resizeDestinationStep s = .next t ∧
      t.rcv = { x with rszPhase := 0, rszResult := 1 } ∧ s.reported t ∧
      (∀ n, x.dst = some n → (t.part n).engines = (s.part n).engines ||| x.rszMovE ∧
        (t.part n).banks = (s.part n).banks ||| x.rszMovB ∧ (t.part n).portLost = false ∧ (t.part n).cvy.restart = true ∧
        (s.threadsCfg n + th < 512 → fld (t.part n).cfg 40 32 = s.threadsCfg n + th)) ∧
      (∀ m, x.dst ≠ some m → t.part m = s.part m) ∧ s.only t [.rcv, .parts, .funcs, .sec]) ∧
    (s.dstReady = false → exec .resizeDestinationStep s = .next s)

/-- Function-level reset and the host link (02 R48, R49, R68): an FLR of an enabled VF destroys its queues, returns its registers
to their reset values and disarms its export slots, which keep handle and vector; the binding stays. A PF's is ignored and
counted. The loss of a link does the same to the port's enabled VFs, and destroys its PF's admin queues; partitions, bindings
and ranges stay. Where it rests on a choice of the model: log 9, 65, 106, 109. -/
def Obligations.FunctionResetsAndLinks : Prop :=
  ∀ (vf p : Nat) (s : State),
    let destroyed (t : State) (f : Nat) : Prop := ∀ k, k / 64 = f → (s.queue k).st ≠ .absent → (t.queue k).st = .destroying ∧
      (t.queue k).gen = (s.queue k).gen ∧ (t.queue k).head = (s.queue k).head ∧ (t.queue k).milestone = (s.queue k).milestone
    let killed (t : State) (f : Nat) : Prop := ∀ r, (s.task r).qk / 64 = f → (s.queue (s.task r).qk).st ≠ .absent →
      (s.queue (s.task r).qk).st ≠ .destroying → (s.task r).killable = true →
        (t.task r).st = .killed ∧ (t.task r).after = some (.fail 0x16)
    let cleared (t : State) (f : Nat) : Prop :=
      (t.func f).cmdResult = 0 ∧ (t.func f).errSum = 0 ∧ (t.func f).winDrop = 0 ∧ (t.func f).wpRefused = 0 ∧
      (t.func f).wpStale = 0 ∧ (t.func f).msix = [] ∧ (t.func f).pend = 0 ∧
      ∀ j, Tab.get {} (t.func f).slots j = { (Tab.get {} (s.func f).slots j : Slot) with armed := false, target := 0 }
    let kept (t : State) : Prop := (∀ f, (t.func f).bind = (s.func f).bind ∧ (t.func f).range = (s.func f).range) ∧
      (∀ n, (t.part n).cfg = (s.part n).cfg ∧ (t.part n).engines = (s.part n).engines ∧ (t.part n).banks = (s.part n).banks) ∧
      t.objs.next = s.objs.next ∧ t.sec = s.sec ∧ t.boot = s.boot ∧ t.rcv = s.rcv ∧ t.latch = s.latch
    ((∃ h, h < 4 ∧ (s.func (pfKey h)).linkUp = true ∧ vf ∈ s.enabledVfs h) → ∃ t, exec (.vfFlr vf) s = .next t ∧
      destroyed t vf ∧ killed t vf ∧ cleared t vf ∧ kept t ∧ (∀ f, (t.func f).linkUp = (s.func f).linkUp) ∧
      (∀ l, l ∈ t.wps.lans → ∀ k, l.kind ≠ .slot vf k)) ∧
    ((s.func (pfKey p)).linkUp = true → exec (.pfFlrWrite p) s = .next (s.modFunc (pfKey p) fun f =>
      { f with authDenied := satAdd 0xFFFFFFFF f.authDenied 1 })) ∧
    ((s.func (pfKey p)).linkUp = false → exec (.pfFlrWrite p) s = .next s) ∧
    (∃ t, exec (.hostLinkLoss p) s = .next t ∧ (t.func (pfKey p)).linkUp = false ∧
      (∀ f, f ≠ pfKey p → (t.func f).linkUp = (s.func f).linkUp) ∧ destroyed t (pfKey p) ∧
      (∀ f ∈ s.enabledVfs p, f < 1024 → destroyed t f ∧ cleared t f) ∧ kept t) ∧
    exec (.hostLinkReturn p) s = .next (s.modFunc (pfKey p) fun f => { f with linkUp := true })

/-- CNT_CFG_WRITE, COUNTER_SAMPLE_POINT, REGISTER_READ and REGISTER_WRITE (00 R7 to R9; 02 R39, R42, R64, R65; 16 R430 to R434): a
mode that the event allows is set, another refused; 16 ns pass and each level counter takes its level, or one where the level
is above its threshold, as its filter sees it; a read answers the part of the word it names, a hole and a misformed access zero, and a read without
the right zero with a count; a write to plain registers of the Operator PF is taken bit by bit, one to a hole is discarded,
and another PF's is refused. Where it rests on a choice of the model: log 5, 9, 12, 18, 86. -/
def Obligations.CountersAndRegisters : Prop :=
  ∀ (p e off size : Nat) (v : W64) (s : State), p < 4 → (s.func (pfKey p)).linkUp = true →
    let o := off - off % 8
    let cfg := merge (s.cntCfg e) v (ones 47 47 ||| ones 45 40 ||| ones 33 32 ||| ones 31 0)
    let new := if bit v 63 then clrBit cfg 63 else cfg
    let wr := Instr.registerWrite (.mmio (.pf p) off size) v
    let rd := Instr.registerRead (.mmio (.pf p) off size)
    let reply (x : W64) : State := { s with out := .readData x :: s.out }
    let part := if size = 8 then fun x : W64 => x else if off % 8 = 4 then fun x => x >>> 32 else fun x => x &&& 0xFFFFFFFF#64
    let formed : Prop := (size = 4 ∨ size = 8) ∧ off % size = 0
    (s.boot.operator = some p →
      (cntDefined e = true → modeAllowed e (fld new 33 32) = true → exec (.cntCfgWrite p e v) s =
        .next { s with cnt := { s.cnt with cfg := Tab.set none s.cnt.cfg e (some new) } }) ∧
      (cntDefined e = true → modeAllowed e (fld new 33 32) = false → exec (.cntCfgWrite p e v) s =
        .next (s.refuse p 0x02 (0x61000 + e * 8))) ∧
      (cntDefined e = false → exec (.cntCfgWrite p e v) s = .next s)) ∧
    (s.boot.operator ≠ some p → exec (.cntCfgWrite p e v) s = .next (s.notOperator p (0x61000 + e * 8))) ∧
    (∃ t, exec .counterSamplePoint s = .next t ∧ t.now = s.now + 16 ∧ t.cnt.ticks16 = s.cnt.ticks16 + 1 ∧
      (∀ k ∈ [0x021, 0x022, 0x0C2, 0x1E1], Tab.get 0 t.cnt.cnt k = match s.cntMode k with
        | 1 => satAdd (2 ^ 64 - 1) (Tab.get 0 s.cnt.cnt k) (min (s.level k (s.cntFilter k)) (2 ^ 32 - 1))
        | 2 => if fld (s.cntCfg k) 31 0 < s.level k (s.cntFilter k) then satAdd (2 ^ 64 - 1) (Tab.get 0 s.cnt.cnt k) 1 else Tab.get 0 s.cnt.cnt k
        | _ => Tab.get 0 s.cnt.cnt k) ∧
      (∀ k, k ∉ [0x021, 0x022, 0x0C2, 0x1E1] → Tab.get 0 t.cnt.cnt k = Tab.get 0 s.cnt.cnt k) ∧ s.only t [.now, .cnt]) ∧
    (¬formed → exec rd s = .next (reply 0) ∧ exec wr s = .next s) ∧
    (formed → s.pfReg p o = none → exec rd s = .next (reply 0) ∧ exec wr s = .next s) ∧
    (formed → ∀ wide x, s.pfReg p o = some (wide, x) → wide = true ∨ ¬(size = 4 ∧ off % 8 = 4) →
      (s.boot.operator = some p → ∃ t, exec rd s = .next t ∧ t.out = .readData (part x) :: s.out ∧
        s.only t [.out, .funcs, .queues, .parts, .ports, .sec, .geq, .cnt, .objs] ∧
        (o < 0x40 → t = reply (part x)) ∧ (o = 0x48 → (t.func (pfKey p)).cfgResult = 0) ∧
        (o = 0x50 → (t.func (pfKey p)).authDenied = 0) ∧ (o = 0x30020 → t.geq = { s.geq with lost := 0 })) ∧
      (s.boot.operator ≠ some p → s.boot.operator.isSome = true → 0x10000 ≤ o → o < 0x20000 →
        exec rd s = .next { (s.modFunc (pfKey p) fun f => { f with authDenied := satAdd 0xFFFFFFFF f.authDenied 1 }) with
          out := .readData 0 :: s.out }) ∧
      (s.boot.operator ≠ some p → 0x10000 ≤ o → exec wr s = .next (s.notOperator p off))) ∧
    (s.boot.operator = some p → size = 8 → off % 8 = 0 →
      let put (l : List Field) (g : State → Prop) : Prop := ∃ t, exec wr s = .next t ∧ g t ∧ (∀ k, t.func k = s.func k) ∧ s.only t (.funcs :: l)
      (off = 0x14008 → put [.rcv] fun t => t.rcv = { s.rcv with rszEngines := v }) ∧
      (off = 0x14010 → put [.rcv] fun t => t.rcv = { s.rcv with rszBanks := v }) ∧
      (off = 0x200000 → put [.rcv] fun t => t.rcv = { s.rcv with dumpAddr := merge s.rcv.dumpAddr v (ones 63 12) }) ∧
      (off = 0x30000 → put [.geq] fun t => t.geq = { s.geq with base := merge s.geq.base v (ones 63 18 ||| ones 0 0) }) ∧
      (off = 0x63000 → put [.cnt] fun t => t.cnt = { s.cnt with smpBase := merge s.cnt.smpBase v (ones 63 6) }) ∧
      (∀ n, n < 64 → off = 0x10000 + n * 0x100 + 0x30 → put [.parts] fun t => (t.part n).budget = v.setWidth 32 ∧
        ∀ m, m ≠ n → t.part m = s.part m) ∧
      (∀ n, n < 64 → off = 0x10000 + n * 0x100 + 0x08 → s.enabled n = false → put [.parts] fun t =>
        t.part n = { s.part n with engines := v, stepNs := (t.part n).stepNs, endNs := (t.part n).endNs } ∧
        ((t.part n).stepNs, (t.part n).endNs) = t.stepTimes n ∧ ∀ m, m ≠ n → t.part m = s.part m) ∧
      (∀ n, n < 64 → off = 0x10000 + n * 0x100 + 0x08 → s.enabled n = true → ∃ t, exec wr s = .next t ∧
        (t.func (pfKey p)).cfgResult = BitVec.ofNat 32 (0x07 * 2 ^ 24 + off) ∧ (∀ k, k ≠ pfKey p → t.func k = s.func k) ∧ s.only t [.funcs])) ∧
    (exec (.registerWrite (.cfg (.pf p) .atsEnable) v) s = .next (s.modFunc (pfKey p) fun f => { f with atsEn := bit v 0 }) ∧
      exec (.registerWrite (.cfg (.pf p) .vfEnable) v) s = .next (s.modFunc (pfKey p) fun f => { f with vfEnable := bit v 0 }) ∧
      exec (.registerRead (.cfg (.pf p) .numVfs)) s = .next (reply (BitVec.ofNat 64 (s.func (pfKey p)).numVfs)) ∧
      exec (.registerRead (.cfg (.pf p) .totalVfs)) s = .next (reply (BitVec.ofNat 64 (fld (s.func (pfKey p)).range 26 16))))
end

