-- ==== Sys2Proof/Laws/Tab.lean ====
section
/-! SUPPORT. Sparse tables: reading after writing, and the canonical form that every write keeps. -/

namespace Sys2Proof.Machine

variable {α : Type}

theorem Tab.find?_erase_self (t : Tab α) (k : Nat) : Tab.find? (Tab.erase t k) k = none := by
  induction t with
  | nil => rfl
  | cons e t ih =>
    obtain ⟨i, a⟩ := e
    by_cases h : i = k
    · simpa [Tab.erase, h] using ih
    · simpa [Tab.erase, Tab.find?, h] using ih

theorem Tab.find?_erase_ne (t : Tab α) {j k : Nat} (h : j ≠ k) : Tab.find? (Tab.erase t k) j = Tab.find? t j := by
  induction t with
  | nil => rfl
  | cons e t ih =>
    obtain ⟨i, a⟩ := e
    by_cases hk : i = k
    · subst hk
      simp [Tab.erase, Tab.find?, ih, Ne.symm h]
    · rw [Tab.erase, if_neg hk, Tab.find?, Tab.find?, ih]

theorem Tab.find?_insert_self (t : Tab α) (k : Nat) (v : α) (h : Tab.find? t k = none) :
    Tab.find? (Tab.insert t k v) k = some v := by
  induction t with
  | nil => simp [Tab.insert, Tab.find?]
  | cons e t ih =>
    obtain ⟨i, a⟩ := e
    by_cases hk : i = k
    · simp [Tab.find?, hk] at h
    · simp only [Tab.find?, hk, if_false] at h
      by_cases hl : i < k <;> simp [Tab.insert, Tab.find?, hl, hk, ih h]

theorem Tab.find?_insert_ne (t : Tab α) {j k : Nat} (v : α) (h : j ≠ k) :
    Tab.find? (Tab.insert t k v) j = Tab.find? t j := by
  induction t with
  | nil => simp [Tab.insert, Tab.find?, Ne.symm h]
  | cons e t ih =>
    obtain ⟨i, a⟩ := e
    by_cases hl : i < k
    · rw [Tab.insert, if_pos hl, Tab.find?, Tab.find?, ih]
    · simp [Tab.insert, Tab.find?, hl, Ne.symm h]

@[simp] theorem Tab.find?_put_self (t : Tab α) (k : Nat) (v : α) : Tab.find? (Tab.put t k v) k = some v :=
  Tab.find?_insert_self _ _ _ (Tab.find?_erase_self t k)

theorem Tab.find?_put_ne (t : Tab α) {j k : Nat} (v : α) (h : j ≠ k) : Tab.find? (Tab.put t k v) j = Tab.find? t j := by
  rw [Tab.put, Tab.find?_insert_ne _ _ h, Tab.find?_erase_ne _ h]

/-- Reading the entry just written. -/
@[simp] theorem Tab.get_set_self [DecidableEq α] (d : α) (t : Tab α) (k : Nat) (v : α) :
    Tab.get d (Tab.set d t k v) k = v := by
  by_cases h : v = d
  · simp [Tab.get, Tab.set, h, Tab.find?_erase_self]
  · simp [Tab.get, Tab.set, h]

/-- Writing one entry leaves every other one alone. -/
theorem Tab.get_set_ne [DecidableEq α] (d : α) (t : Tab α) {j k : Nat} (v : α) (h : j ≠ k) :
    Tab.get d (Tab.set d t k v) j = Tab.get d t j := by
  by_cases hv : v = d
  · simp [Tab.get, Tab.set, hv, Tab.find?_erase_ne t h]
  · simp [Tab.get, Tab.set, hv, Tab.find?_put_ne t v h]

theorem Tab.get_set [DecidableEq α] (d : α) (t : Tab α) (j k : Nat) (v : α) :
    Tab.get d (Tab.set d t k v) j = if j = k then v else Tab.get d t j := by
  by_cases h : j = k
  · subst h; simp
  · simp [h, Tab.get_set_ne d t v h]

/-! ### The canonical form -/

theorem Tab.wfFrom_mono [DecidableEq α] (d : α) (t : Tab α) {a b : Nat} (h : Tab.wfFrom d b t = true) (hab : a ≤ b) :
    Tab.wfFrom d a t = true := by
  cases t with
  | nil => rfl
  | cons e t =>
    obtain ⟨i, v⟩ := e
    simp only [Tab.wfFrom, Bool.and_eq_true, decide_eq_true_eq] at h ⊢
    exact ⟨⟨by omega, h.1.2⟩, h.2⟩

theorem Tab.wfFrom_erase [DecidableEq α] (d : α) (t : Tab α) (k : Nat) :
    ∀ lo, Tab.wfFrom d lo t = true → Tab.wfFrom d lo (Tab.erase t k) = true := by
  induction t with
  | nil => intro lo _; rfl
  | cons e t ih =>
    obtain ⟨i, a⟩ := e
    intro lo h
    simp only [Tab.wfFrom, Bool.and_eq_true, decide_eq_true_eq] at h
    by_cases hk : i = k
    · simp only [Tab.erase, hk, if_true]
      exact Tab.wfFrom_mono d _ (ih (i + 1) h.2) (by omega)
    · simp only [Tab.erase, hk, if_false, Tab.wfFrom, Bool.and_eq_true, decide_eq_true_eq]
      exact ⟨h.1, ih _ h.2⟩

theorem Tab.wfFrom_insert [DecidableEq α] (d : α) (t : Tab α) (k : Nat) (v : α) (hv : v ≠ d)
    (hk : Tab.find? t k = none) :
    ∀ lo, lo ≤ k → Tab.wfFrom d lo t = true → Tab.wfFrom d lo (Tab.insert t k v) = true := by
  induction t with
  | nil => intro lo hlo _; simp [Tab.insert, Tab.wfFrom, hlo, hv]
  | cons e t ih =>
    obtain ⟨i, a⟩ := e
    intro lo hlo h
    simp only [Tab.wfFrom, Bool.and_eq_true, decide_eq_true_eq] at h
    by_cases hik : i = k
    · simp [Tab.find?, hik] at hk
    · simp only [Tab.find?, hik, if_false] at hk
      by_cases hl : i < k
      · simp only [Tab.insert, hl, if_true, Tab.wfFrom, Bool.and_eq_true, decide_eq_true_eq]
        exact ⟨h.1, ih hk _ (by omega) h.2⟩
      · simp only [Tab.insert, hl, if_false, Tab.wfFrom, Bool.and_eq_true, decide_eq_true_eq]
        exact ⟨⟨hlo, hv⟩, ⟨⟨by omega, h.1.2⟩, h.2⟩⟩

/-- Writing keeps the canonical form. -/
theorem Tab.wf_set [DecidableEq α] (d : α) (t : Tab α) (k : Nat) (v : α) (h : Tab.wf d t = true) :
    Tab.wf d (Tab.set d t k v) = true := by
  unfold Tab.set
  split
  · exact Tab.wfFrom_erase d t k 0 h
  · next hv =>
    exact Tab.wfFrom_insert d _ k v hv (Tab.find?_erase_self t k) 0 (by omega) (Tab.wfFrom_erase d t k 0 h)

end Sys2Proof.Machine
end

