-- ==== Sys2Proof/Laws/State.lean ====
section
/-! SUPPORT. What each named update of State changes and what it leaves alone: one lemma per field per update. -/

namespace Sys2Proof.Machine

variable (s : State)

/-! ### modFunc -/

@[simp] theorem State.modFunc_pending (k : Nat) (g : Func → Func) : (s.modFunc k g).pending = s.pending := rfl
@[simp] theorem State.modFunc_latch (k : Nat) (g : Func → Func) : (s.modFunc k g).latch = s.latch := rfl
@[simp] theorem State.modFunc_boot (k : Nat) (g : Func → Func) : (s.modFunc k g).boot = s.boot := rfl
@[simp] theorem State.modFunc_queues (k : Nat) (g : Func → Func) : (s.modFunc k g).queues = s.queues := rfl
@[simp] theorem State.modFunc_tasks (k : Nat) (g : Func → Func) : (s.modFunc k g).tasks = s.tasks := rfl
@[simp] theorem State.modFunc_parts (k : Nat) (g : Func → Func) : (s.modFunc k g).parts = s.parts := rfl
@[simp] theorem State.modFunc_ports (k : Nat) (g : Func → Func) : (s.modFunc k g).ports = s.ports := rfl
@[simp] theorem State.modFunc_mtus (k : Nat) (g : Func → Func) : (s.modFunc k g).mtus = s.mtus := rfl
@[simp] theorem State.modFunc_suTurn (k : Nat) (g : Func → Func) : (s.modFunc k g).suTurn = s.suTurn := rfl
@[simp] theorem State.modFunc_chans (k : Nat) (g : Func → Func) : (s.modFunc k g).chans = s.chans := rfl
@[simp] theorem State.modFunc_objs (k : Nat) (g : Func → Func) : (s.modFunc k g).objs = s.objs := rfl
@[simp] theorem State.modFunc_sto (k : Nat) (g : Func → Func) : (s.modFunc k g).sto = s.sto := rfl
@[simp] theorem State.modFunc_wps (k : Nat) (g : Func → Func) : (s.modFunc k g).wps = s.wps := rfl
@[simp] theorem State.modFunc_xl (k : Nat) (g : Func → Func) : (s.modFunc k g).xl = s.xl := rfl
@[simp] theorem State.modFunc_rbuf (k : Nat) (g : Func → Func) : (s.modFunc k g).rbuf = s.rbuf := rfl
@[simp] theorem State.modFunc_geq (k : Nat) (g : Func → Func) : (s.modFunc k g).geq = s.geq := rfl
@[simp] theorem State.modFunc_rcv (k : Nat) (g : Func → Func) : (s.modFunc k g).rcv = s.rcv := rfl
@[simp] theorem State.modFunc_sec (k : Nat) (g : Func → Func) : (s.modFunc k g).sec = s.sec := rfl
@[simp] theorem State.modFunc_cnt (k : Nat) (g : Func → Func) : (s.modFunc k g).cnt = s.cnt := rfl
@[simp] theorem State.modFunc_dbell (k : Nat) (g : Func → Func) : (s.modFunc k g).dbell = s.dbell := rfl
@[simp] theorem State.modFunc_fetch (k : Nat) (g : Func → Func) : (s.modFunc k g).fetch = s.fetch := rfl
@[simp] theorem State.modFunc_waitTasks (k : Nat) (g : Func → Func) : (s.modFunc k g).waitTasks = s.waitTasks := rfl
@[simp] theorem State.modFunc_out (k : Nat) (g : Func → Func) : (s.modFunc k g).out = s.out := rfl
@[simp] theorem State.modFunc_freeCtr (k : Nat) (g : Func → Func) : (s.modFunc k g).freeCtr = s.freeCtr := rfl
@[simp] theorem State.modFunc_stamp (k : Nat) (g : Func → Func) : (s.modFunc k g).stamp = s.stamp := rfl
@[simp] theorem State.modFunc_now (k : Nat) (g : Func → Func) : (s.modFunc k g).now = s.now := rfl
@[simp] theorem State.modFunc_queue (k : Nat) (g : Func → Func) (j : Nat) : (s.modFunc k g).queue j = s.queue j := rfl
@[simp] theorem State.modFunc_task (k : Nat) (g : Func → Func) (j : Nat) : (s.modFunc k g).task j = s.task j := rfl
@[simp] theorem State.modFunc_part (k : Nat) (g : Func → Func) (j : Nat) : (s.modFunc k g).part j = s.part j := rfl
@[simp] theorem State.modFunc_eport (k : Nat) (g : Func → Func) (j : Nat) : (s.modFunc k g).eport j = s.eport j := rfl
@[simp] theorem State.modFunc_chan (k : Nat) (g : Func → Func) (j : Nat) : (s.modFunc k g).chan j = s.chan j := rfl
@[simp] theorem State.modFunc_mtuHeld (k : Nat) (g : Func → Func) (j : Nat) : (s.modFunc k g).mtuHeld j = s.mtuHeld j := rfl
@[simp] theorem State.modFunc_obj (k : Nat) (g : Func → Func) (j : Nat) : (s.modFunc k g).obj j = s.obj j := rfl
@[simp] theorem State.modFunc_wp (k : Nat) (g : Func → Func) (j : Nat) : (s.modFunc k g).wp j = s.wp j := rfl
@[simp] theorem State.modFunc_func_self (k : Nat) (g : Func → Func) : (s.modFunc k g).func k = g (s.func k) := Tab.get_set_self _ _ _ _
theorem State.modFunc_func_ne (k : Nat) (g : Func → Func) {j : Nat} (h : j ≠ k) : (s.modFunc k g).func j = s.func j :=
  Tab.get_set_ne _ _ _ h
theorem State.modFunc_func (k : Nat) (g : Func → Func) (j : Nat) : (s.modFunc k g).func j = if j = k then g (s.func k) else s.func j :=
  Tab.get_set _ _ _ _ _

/-! ### modQueue -/

@[simp] theorem State.modQueue_pending (k : Nat) (g : Queue → Queue) : (s.modQueue k g).pending = s.pending := rfl
@[simp] theorem State.modQueue_latch (k : Nat) (g : Queue → Queue) : (s.modQueue k g).latch = s.latch := rfl
@[simp] theorem State.modQueue_boot (k : Nat) (g : Queue → Queue) : (s.modQueue k g).boot = s.boot := rfl
@[simp] theorem State.modQueue_funcs (k : Nat) (g : Queue → Queue) : (s.modQueue k g).funcs = s.funcs := rfl
@[simp] theorem State.modQueue_tasks (k : Nat) (g : Queue → Queue) : (s.modQueue k g).tasks = s.tasks := rfl
@[simp] theorem State.modQueue_parts (k : Nat) (g : Queue → Queue) : (s.modQueue k g).parts = s.parts := rfl
@[simp] theorem State.modQueue_ports (k : Nat) (g : Queue → Queue) : (s.modQueue k g).ports = s.ports := rfl
@[simp] theorem State.modQueue_mtus (k : Nat) (g : Queue → Queue) : (s.modQueue k g).mtus = s.mtus := rfl
@[simp] theorem State.modQueue_suTurn (k : Nat) (g : Queue → Queue) : (s.modQueue k g).suTurn = s.suTurn := rfl
@[simp] theorem State.modQueue_chans (k : Nat) (g : Queue → Queue) : (s.modQueue k g).chans = s.chans := rfl
@[simp] theorem State.modQueue_objs (k : Nat) (g : Queue → Queue) : (s.modQueue k g).objs = s.objs := rfl
@[simp] theorem State.modQueue_sto (k : Nat) (g : Queue → Queue) : (s.modQueue k g).sto = s.sto := rfl
@[simp] theorem State.modQueue_wps (k : Nat) (g : Queue → Queue) : (s.modQueue k g).wps = s.wps := rfl
@[simp] theorem State.modQueue_xl (k : Nat) (g : Queue → Queue) : (s.modQueue k g).xl = s.xl := rfl
@[simp] theorem State.modQueue_rbuf (k : Nat) (g : Queue → Queue) : (s.modQueue k g).rbuf = s.rbuf := rfl
@[simp] theorem State.modQueue_geq (k : Nat) (g : Queue → Queue) : (s.modQueue k g).geq = s.geq := rfl
@[simp] theorem State.modQueue_rcv (k : Nat) (g : Queue → Queue) : (s.modQueue k g).rcv = s.rcv := rfl
@[simp] theorem State.modQueue_sec (k : Nat) (g : Queue → Queue) : (s.modQueue k g).sec = s.sec := rfl
@[simp] theorem State.modQueue_cnt (k : Nat) (g : Queue → Queue) : (s.modQueue k g).cnt = s.cnt := rfl
@[simp] theorem State.modQueue_dbell (k : Nat) (g : Queue → Queue) : (s.modQueue k g).dbell = s.dbell := rfl
@[simp] theorem State.modQueue_fetch (k : Nat) (g : Queue → Queue) : (s.modQueue k g).fetch = s.fetch := rfl
@[simp] theorem State.modQueue_waitTasks (k : Nat) (g : Queue → Queue) : (s.modQueue k g).waitTasks = s.waitTasks := rfl
@[simp] theorem State.modQueue_out (k : Nat) (g : Queue → Queue) : (s.modQueue k g).out = s.out := rfl
@[simp] theorem State.modQueue_freeCtr (k : Nat) (g : Queue → Queue) : (s.modQueue k g).freeCtr = s.freeCtr := rfl
@[simp] theorem State.modQueue_stamp (k : Nat) (g : Queue → Queue) : (s.modQueue k g).stamp = s.stamp := rfl
@[simp] theorem State.modQueue_now (k : Nat) (g : Queue → Queue) : (s.modQueue k g).now = s.now := rfl
@[simp] theorem State.modQueue_func (k : Nat) (g : Queue → Queue) (j : Nat) : (s.modQueue k g).func j = s.func j := rfl
@[simp] theorem State.modQueue_task (k : Nat) (g : Queue → Queue) (j : Nat) : (s.modQueue k g).task j = s.task j := rfl
@[simp] theorem State.modQueue_part (k : Nat) (g : Queue → Queue) (j : Nat) : (s.modQueue k g).part j = s.part j := rfl
@[simp] theorem State.modQueue_eport (k : Nat) (g : Queue → Queue) (j : Nat) : (s.modQueue k g).eport j = s.eport j := rfl
@[simp] theorem State.modQueue_chan (k : Nat) (g : Queue → Queue) (j : Nat) : (s.modQueue k g).chan j = s.chan j := rfl
@[simp] theorem State.modQueue_mtuHeld (k : Nat) (g : Queue → Queue) (j : Nat) : (s.modQueue k g).mtuHeld j = s.mtuHeld j := rfl
@[simp] theorem State.modQueue_obj (k : Nat) (g : Queue → Queue) (j : Nat) : (s.modQueue k g).obj j = s.obj j := rfl
@[simp] theorem State.modQueue_wp (k : Nat) (g : Queue → Queue) (j : Nat) : (s.modQueue k g).wp j = s.wp j := rfl
@[simp] theorem State.modQueue_queue_self (k : Nat) (g : Queue → Queue) : (s.modQueue k g).queue k = g (s.queue k) := Tab.get_set_self _ _ _ _
theorem State.modQueue_queue_ne (k : Nat) (g : Queue → Queue) {j : Nat} (h : j ≠ k) : (s.modQueue k g).queue j = s.queue j :=
  Tab.get_set_ne _ _ _ h
theorem State.modQueue_queue (k : Nat) (g : Queue → Queue) (j : Nat) : (s.modQueue k g).queue j = if j = k then g (s.queue k) else s.queue j :=
  Tab.get_set _ _ _ _ _

/-! ### modTask -/

@[simp] theorem State.modTask_pending (k : Nat) (g : Task → Task) : (s.modTask k g).pending = s.pending := rfl
@[simp] theorem State.modTask_latch (k : Nat) (g : Task → Task) : (s.modTask k g).latch = s.latch := rfl
@[simp] theorem State.modTask_boot (k : Nat) (g : Task → Task) : (s.modTask k g).boot = s.boot := rfl
@[simp] theorem State.modTask_funcs (k : Nat) (g : Task → Task) : (s.modTask k g).funcs = s.funcs := rfl
@[simp] theorem State.modTask_queues (k : Nat) (g : Task → Task) : (s.modTask k g).queues = s.queues := rfl
@[simp] theorem State.modTask_parts (k : Nat) (g : Task → Task) : (s.modTask k g).parts = s.parts := rfl
@[simp] theorem State.modTask_ports (k : Nat) (g : Task → Task) : (s.modTask k g).ports = s.ports := rfl
@[simp] theorem State.modTask_mtus (k : Nat) (g : Task → Task) : (s.modTask k g).mtus = s.mtus := rfl
@[simp] theorem State.modTask_suTurn (k : Nat) (g : Task → Task) : (s.modTask k g).suTurn = s.suTurn := rfl
@[simp] theorem State.modTask_chans (k : Nat) (g : Task → Task) : (s.modTask k g).chans = s.chans := rfl
@[simp] theorem State.modTask_objs (k : Nat) (g : Task → Task) : (s.modTask k g).objs = s.objs := rfl
@[simp] theorem State.modTask_sto (k : Nat) (g : Task → Task) : (s.modTask k g).sto = s.sto := rfl
@[simp] theorem State.modTask_wps (k : Nat) (g : Task → Task) : (s.modTask k g).wps = s.wps := rfl
@[simp] theorem State.modTask_xl (k : Nat) (g : Task → Task) : (s.modTask k g).xl = s.xl := rfl
@[simp] theorem State.modTask_rbuf (k : Nat) (g : Task → Task) : (s.modTask k g).rbuf = s.rbuf := rfl
@[simp] theorem State.modTask_geq (k : Nat) (g : Task → Task) : (s.modTask k g).geq = s.geq := rfl
@[simp] theorem State.modTask_rcv (k : Nat) (g : Task → Task) : (s.modTask k g).rcv = s.rcv := rfl
@[simp] theorem State.modTask_sec (k : Nat) (g : Task → Task) : (s.modTask k g).sec = s.sec := rfl
@[simp] theorem State.modTask_cnt (k : Nat) (g : Task → Task) : (s.modTask k g).cnt = s.cnt := rfl
@[simp] theorem State.modTask_dbell (k : Nat) (g : Task → Task) : (s.modTask k g).dbell = s.dbell := rfl
@[simp] theorem State.modTask_fetch (k : Nat) (g : Task → Task) : (s.modTask k g).fetch = s.fetch := rfl
@[simp] theorem State.modTask_waitTasks (k : Nat) (g : Task → Task) : (s.modTask k g).waitTasks = s.waitTasks := rfl
@[simp] theorem State.modTask_out (k : Nat) (g : Task → Task) : (s.modTask k g).out = s.out := rfl
@[simp] theorem State.modTask_freeCtr (k : Nat) (g : Task → Task) : (s.modTask k g).freeCtr = s.freeCtr := rfl
@[simp] theorem State.modTask_stamp (k : Nat) (g : Task → Task) : (s.modTask k g).stamp = s.stamp := rfl
@[simp] theorem State.modTask_now (k : Nat) (g : Task → Task) : (s.modTask k g).now = s.now := rfl
@[simp] theorem State.modTask_func (k : Nat) (g : Task → Task) (j : Nat) : (s.modTask k g).func j = s.func j := rfl
@[simp] theorem State.modTask_queue (k : Nat) (g : Task → Task) (j : Nat) : (s.modTask k g).queue j = s.queue j := rfl
@[simp] theorem State.modTask_part (k : Nat) (g : Task → Task) (j : Nat) : (s.modTask k g).part j = s.part j := rfl
@[simp] theorem State.modTask_eport (k : Nat) (g : Task → Task) (j : Nat) : (s.modTask k g).eport j = s.eport j := rfl
@[simp] theorem State.modTask_chan (k : Nat) (g : Task → Task) (j : Nat) : (s.modTask k g).chan j = s.chan j := rfl
@[simp] theorem State.modTask_mtuHeld (k : Nat) (g : Task → Task) (j : Nat) : (s.modTask k g).mtuHeld j = s.mtuHeld j := rfl
@[simp] theorem State.modTask_obj (k : Nat) (g : Task → Task) (j : Nat) : (s.modTask k g).obj j = s.obj j := rfl
@[simp] theorem State.modTask_wp (k : Nat) (g : Task → Task) (j : Nat) : (s.modTask k g).wp j = s.wp j := rfl
@[simp] theorem State.modTask_task_self (k : Nat) (g : Task → Task) : (s.modTask k g).task k = g (s.task k) := Tab.get_set_self _ _ _ _
theorem State.modTask_task_ne (k : Nat) (g : Task → Task) {j : Nat} (h : j ≠ k) : (s.modTask k g).task j = s.task j :=
  Tab.get_set_ne _ _ _ h
theorem State.modTask_task (k : Nat) (g : Task → Task) (j : Nat) : (s.modTask k g).task j = if j = k then g (s.task k) else s.task j :=
  Tab.get_set _ _ _ _ _

/-! ### modPart -/

@[simp] theorem State.modPart_pending (k : Nat) (g : Part → Part) : (s.modPart k g).pending = s.pending := rfl
@[simp] theorem State.modPart_latch (k : Nat) (g : Part → Part) : (s.modPart k g).latch = s.latch := rfl
@[simp] theorem State.modPart_boot (k : Nat) (g : Part → Part) : (s.modPart k g).boot = s.boot := rfl
@[simp] theorem State.modPart_funcs (k : Nat) (g : Part → Part) : (s.modPart k g).funcs = s.funcs := rfl
@[simp] theorem State.modPart_queues (k : Nat) (g : Part → Part) : (s.modPart k g).queues = s.queues := rfl
@[simp] theorem State.modPart_tasks (k : Nat) (g : Part → Part) : (s.modPart k g).tasks = s.tasks := rfl
@[simp] theorem State.modPart_ports (k : Nat) (g : Part → Part) : (s.modPart k g).ports = s.ports := rfl
@[simp] theorem State.modPart_mtus (k : Nat) (g : Part → Part) : (s.modPart k g).mtus = s.mtus := rfl
@[simp] theorem State.modPart_suTurn (k : Nat) (g : Part → Part) : (s.modPart k g).suTurn = s.suTurn := rfl
@[simp] theorem State.modPart_chans (k : Nat) (g : Part → Part) : (s.modPart k g).chans = s.chans := rfl
@[simp] theorem State.modPart_objs (k : Nat) (g : Part → Part) : (s.modPart k g).objs = s.objs := rfl
@[simp] theorem State.modPart_sto (k : Nat) (g : Part → Part) : (s.modPart k g).sto = s.sto := rfl
@[simp] theorem State.modPart_wps (k : Nat) (g : Part → Part) : (s.modPart k g).wps = s.wps := rfl
@[simp] theorem State.modPart_xl (k : Nat) (g : Part → Part) : (s.modPart k g).xl = s.xl := rfl
@[simp] theorem State.modPart_rbuf (k : Nat) (g : Part → Part) : (s.modPart k g).rbuf = s.rbuf := rfl
@[simp] theorem State.modPart_geq (k : Nat) (g : Part → Part) : (s.modPart k g).geq = s.geq := rfl
@[simp] theorem State.modPart_rcv (k : Nat) (g : Part → Part) : (s.modPart k g).rcv = s.rcv := rfl
@[simp] theorem State.modPart_sec (k : Nat) (g : Part → Part) : (s.modPart k g).sec = s.sec := rfl
@[simp] theorem State.modPart_cnt (k : Nat) (g : Part → Part) : (s.modPart k g).cnt = s.cnt := rfl
@[simp] theorem State.modPart_dbell (k : Nat) (g : Part → Part) : (s.modPart k g).dbell = s.dbell := rfl
@[simp] theorem State.modPart_fetch (k : Nat) (g : Part → Part) : (s.modPart k g).fetch = s.fetch := rfl
@[simp] theorem State.modPart_waitTasks (k : Nat) (g : Part → Part) : (s.modPart k g).waitTasks = s.waitTasks := rfl
@[simp] theorem State.modPart_out (k : Nat) (g : Part → Part) : (s.modPart k g).out = s.out := rfl
@[simp] theorem State.modPart_freeCtr (k : Nat) (g : Part → Part) : (s.modPart k g).freeCtr = s.freeCtr := rfl
@[simp] theorem State.modPart_stamp (k : Nat) (g : Part → Part) : (s.modPart k g).stamp = s.stamp := rfl
@[simp] theorem State.modPart_now (k : Nat) (g : Part → Part) : (s.modPart k g).now = s.now := rfl
@[simp] theorem State.modPart_func (k : Nat) (g : Part → Part) (j : Nat) : (s.modPart k g).func j = s.func j := rfl
@[simp] theorem State.modPart_queue (k : Nat) (g : Part → Part) (j : Nat) : (s.modPart k g).queue j = s.queue j := rfl
@[simp] theorem State.modPart_task (k : Nat) (g : Part → Part) (j : Nat) : (s.modPart k g).task j = s.task j := rfl
@[simp] theorem State.modPart_eport (k : Nat) (g : Part → Part) (j : Nat) : (s.modPart k g).eport j = s.eport j := rfl
@[simp] theorem State.modPart_chan (k : Nat) (g : Part → Part) (j : Nat) : (s.modPart k g).chan j = s.chan j := rfl
@[simp] theorem State.modPart_mtuHeld (k : Nat) (g : Part → Part) (j : Nat) : (s.modPart k g).mtuHeld j = s.mtuHeld j := rfl
@[simp] theorem State.modPart_obj (k : Nat) (g : Part → Part) (j : Nat) : (s.modPart k g).obj j = s.obj j := rfl
@[simp] theorem State.modPart_wp (k : Nat) (g : Part → Part) (j : Nat) : (s.modPart k g).wp j = s.wp j := rfl
@[simp] theorem State.modPart_part_self (k : Nat) (g : Part → Part) : (s.modPart k g).part k = g (s.part k) := Tab.get_set_self _ _ _ _
theorem State.modPart_part_ne (k : Nat) (g : Part → Part) {j : Nat} (h : j ≠ k) : (s.modPart k g).part j = s.part j :=
  Tab.get_set_ne _ _ _ h
theorem State.modPart_part (k : Nat) (g : Part → Part) (j : Nat) : (s.modPart k g).part j = if j = k then g (s.part k) else s.part j :=
  Tab.get_set _ _ _ _ _

/-! ### modPort -/

@[simp] theorem State.modPort_pending (k : Nat) (g : EPort → EPort) : (s.modPort k g).pending = s.pending := rfl
@[simp] theorem State.modPort_latch (k : Nat) (g : EPort → EPort) : (s.modPort k g).latch = s.latch := rfl
@[simp] theorem State.modPort_boot (k : Nat) (g : EPort → EPort) : (s.modPort k g).boot = s.boot := rfl
@[simp] theorem State.modPort_funcs (k : Nat) (g : EPort → EPort) : (s.modPort k g).funcs = s.funcs := rfl
@[simp] theorem State.modPort_queues (k : Nat) (g : EPort → EPort) : (s.modPort k g).queues = s.queues := rfl
@[simp] theorem State.modPort_tasks (k : Nat) (g : EPort → EPort) : (s.modPort k g).tasks = s.tasks := rfl
@[simp] theorem State.modPort_parts (k : Nat) (g : EPort → EPort) : (s.modPort k g).parts = s.parts := rfl
@[simp] theorem State.modPort_mtus (k : Nat) (g : EPort → EPort) : (s.modPort k g).mtus = s.mtus := rfl
@[simp] theorem State.modPort_suTurn (k : Nat) (g : EPort → EPort) : (s.modPort k g).suTurn = s.suTurn := rfl
@[simp] theorem State.modPort_chans (k : Nat) (g : EPort → EPort) : (s.modPort k g).chans = s.chans := rfl
@[simp] theorem State.modPort_objs (k : Nat) (g : EPort → EPort) : (s.modPort k g).objs = s.objs := rfl
@[simp] theorem State.modPort_sto (k : Nat) (g : EPort → EPort) : (s.modPort k g).sto = s.sto := rfl
@[simp] theorem State.modPort_wps (k : Nat) (g : EPort → EPort) : (s.modPort k g).wps = s.wps := rfl
@[simp] theorem State.modPort_xl (k : Nat) (g : EPort → EPort) : (s.modPort k g).xl = s.xl := rfl
@[simp] theorem State.modPort_rbuf (k : Nat) (g : EPort → EPort) : (s.modPort k g).rbuf = s.rbuf := rfl
@[simp] theorem State.modPort_geq (k : Nat) (g : EPort → EPort) : (s.modPort k g).geq = s.geq := rfl
@[simp] theorem State.modPort_rcv (k : Nat) (g : EPort → EPort) : (s.modPort k g).rcv = s.rcv := rfl
@[simp] theorem State.modPort_sec (k : Nat) (g : EPort → EPort) : (s.modPort k g).sec = s.sec := rfl
@[simp] theorem State.modPort_cnt (k : Nat) (g : EPort → EPort) : (s.modPort k g).cnt = s.cnt := rfl
@[simp] theorem State.modPort_dbell (k : Nat) (g : EPort → EPort) : (s.modPort k g).dbell = s.dbell := rfl
@[simp] theorem State.modPort_fetch (k : Nat) (g : EPort → EPort) : (s.modPort k g).fetch = s.fetch := rfl
@[simp] theorem State.modPort_waitTasks (k : Nat) (g : EPort → EPort) : (s.modPort k g).waitTasks = s.waitTasks := rfl
@[simp] theorem State.modPort_out (k : Nat) (g : EPort → EPort) : (s.modPort k g).out = s.out := rfl
@[simp] theorem State.modPort_freeCtr (k : Nat) (g : EPort → EPort) : (s.modPort k g).freeCtr = s.freeCtr := rfl
@[simp] theorem State.modPort_stamp (k : Nat) (g : EPort → EPort) : (s.modPort k g).stamp = s.stamp := rfl
@[simp] theorem State.modPort_now (k : Nat) (g : EPort → EPort) : (s.modPort k g).now = s.now := rfl
@[simp] theorem State.modPort_func (k : Nat) (g : EPort → EPort) (j : Nat) : (s.modPort k g).func j = s.func j := rfl
@[simp] theorem State.modPort_queue (k : Nat) (g : EPort → EPort) (j : Nat) : (s.modPort k g).queue j = s.queue j := rfl
@[simp] theorem State.modPort_task (k : Nat) (g : EPort → EPort) (j : Nat) : (s.modPort k g).task j = s.task j := rfl
@[simp] theorem State.modPort_part (k : Nat) (g : EPort → EPort) (j : Nat) : (s.modPort k g).part j = s.part j := rfl
@[simp] theorem State.modPort_chan (k : Nat) (g : EPort → EPort) (j : Nat) : (s.modPort k g).chan j = s.chan j := rfl
@[simp] theorem State.modPort_mtuHeld (k : Nat) (g : EPort → EPort) (j : Nat) : (s.modPort k g).mtuHeld j = s.mtuHeld j := rfl
@[simp] theorem State.modPort_obj (k : Nat) (g : EPort → EPort) (j : Nat) : (s.modPort k g).obj j = s.obj j := rfl
@[simp] theorem State.modPort_wp (k : Nat) (g : EPort → EPort) (j : Nat) : (s.modPort k g).wp j = s.wp j := rfl
@[simp] theorem State.modPort_eport_self (k : Nat) (g : EPort → EPort) : (s.modPort k g).eport k = g (s.eport k) := Tab.get_set_self _ _ _ _
theorem State.modPort_eport_ne (k : Nat) (g : EPort → EPort) {j : Nat} (h : j ≠ k) : (s.modPort k g).eport j = s.eport j :=
  Tab.get_set_ne _ _ _ h
theorem State.modPort_eport (k : Nat) (g : EPort → EPort) (j : Nat) : (s.modPort k g).eport j = if j = k then g (s.eport k) else s.eport j :=
  Tab.get_set _ _ _ _ _

/-! ### modChan -/

@[simp] theorem State.modChan_pending (k : Nat) (g : Chan → Chan) : (s.modChan k g).pending = s.pending := rfl
@[simp] theorem State.modChan_latch (k : Nat) (g : Chan → Chan) : (s.modChan k g).latch = s.latch := rfl
@[simp] theorem State.modChan_boot (k : Nat) (g : Chan → Chan) : (s.modChan k g).boot = s.boot := rfl
@[simp] theorem State.modChan_funcs (k : Nat) (g : Chan → Chan) : (s.modChan k g).funcs = s.funcs := rfl
@[simp] theorem State.modChan_queues (k : Nat) (g : Chan → Chan) : (s.modChan k g).queues = s.queues := rfl
@[simp] theorem State.modChan_tasks (k : Nat) (g : Chan → Chan) : (s.modChan k g).tasks = s.tasks := rfl
@[simp] theorem State.modChan_parts (k : Nat) (g : Chan → Chan) : (s.modChan k g).parts = s.parts := rfl
@[simp] theorem State.modChan_ports (k : Nat) (g : Chan → Chan) : (s.modChan k g).ports = s.ports := rfl
@[simp] theorem State.modChan_mtus (k : Nat) (g : Chan → Chan) : (s.modChan k g).mtus = s.mtus := rfl
@[simp] theorem State.modChan_suTurn (k : Nat) (g : Chan → Chan) : (s.modChan k g).suTurn = s.suTurn := rfl
@[simp] theorem State.modChan_objs (k : Nat) (g : Chan → Chan) : (s.modChan k g).objs = s.objs := rfl
@[simp] theorem State.modChan_sto (k : Nat) (g : Chan → Chan) : (s.modChan k g).sto = s.sto := rfl
@[simp] theorem State.modChan_wps (k : Nat) (g : Chan → Chan) : (s.modChan k g).wps = s.wps := rfl
@[simp] theorem State.modChan_xl (k : Nat) (g : Chan → Chan) : (s.modChan k g).xl = s.xl := rfl
@[simp] theorem State.modChan_rbuf (k : Nat) (g : Chan → Chan) : (s.modChan k g).rbuf = s.rbuf := rfl
@[simp] theorem State.modChan_geq (k : Nat) (g : Chan → Chan) : (s.modChan k g).geq = s.geq := rfl
@[simp] theorem State.modChan_rcv (k : Nat) (g : Chan → Chan) : (s.modChan k g).rcv = s.rcv := rfl
@[simp] theorem State.modChan_sec (k : Nat) (g : Chan → Chan) : (s.modChan k g).sec = s.sec := rfl
@[simp] theorem State.modChan_cnt (k : Nat) (g : Chan → Chan) : (s.modChan k g).cnt = s.cnt := rfl
@[simp] theorem State.modChan_dbell (k : Nat) (g : Chan → Chan) : (s.modChan k g).dbell = s.dbell := rfl
@[simp] theorem State.modChan_fetch (k : Nat) (g : Chan → Chan) : (s.modChan k g).fetch = s.fetch := rfl
@[simp] theorem State.modChan_waitTasks (k : Nat) (g : Chan → Chan) : (s.modChan k g).waitTasks = s.waitTasks := rfl
@[simp] theorem State.modChan_out (k : Nat) (g : Chan → Chan) : (s.modChan k g).out = s.out := rfl
@[simp] theorem State.modChan_freeCtr (k : Nat) (g : Chan → Chan) : (s.modChan k g).freeCtr = s.freeCtr := rfl
@[simp] theorem State.modChan_stamp (k : Nat) (g : Chan → Chan) : (s.modChan k g).stamp = s.stamp := rfl
@[simp] theorem State.modChan_now (k : Nat) (g : Chan → Chan) : (s.modChan k g).now = s.now := rfl
@[simp] theorem State.modChan_func (k : Nat) (g : Chan → Chan) (j : Nat) : (s.modChan k g).func j = s.func j := rfl
@[simp] theorem State.modChan_queue (k : Nat) (g : Chan → Chan) (j : Nat) : (s.modChan k g).queue j = s.queue j := rfl
@[simp] theorem State.modChan_task (k : Nat) (g : Chan → Chan) (j : Nat) : (s.modChan k g).task j = s.task j := rfl
@[simp] theorem State.modChan_part (k : Nat) (g : Chan → Chan) (j : Nat) : (s.modChan k g).part j = s.part j := rfl
@[simp] theorem State.modChan_eport (k : Nat) (g : Chan → Chan) (j : Nat) : (s.modChan k g).eport j = s.eport j := rfl
@[simp] theorem State.modChan_mtuHeld (k : Nat) (g : Chan → Chan) (j : Nat) : (s.modChan k g).mtuHeld j = s.mtuHeld j := rfl
@[simp] theorem State.modChan_obj (k : Nat) (g : Chan → Chan) (j : Nat) : (s.modChan k g).obj j = s.obj j := rfl
@[simp] theorem State.modChan_wp (k : Nat) (g : Chan → Chan) (j : Nat) : (s.modChan k g).wp j = s.wp j := rfl
@[simp] theorem State.modChan_chan_self (k : Nat) (g : Chan → Chan) : (s.modChan k g).chan k = g (s.chan k) := Tab.get_set_self _ _ _ _
theorem State.modChan_chan_ne (k : Nat) (g : Chan → Chan) {j : Nat} (h : j ≠ k) : (s.modChan k g).chan j = s.chan j :=
  Tab.get_set_ne _ _ _ h
theorem State.modChan_chan (k : Nat) (g : Chan → Chan) (j : Nat) : (s.modChan k g).chan j = if j = k then g (s.chan k) else s.chan j :=
  Tab.get_set _ _ _ _ _

/-! ### modObj -/

@[simp] theorem State.modObj_pending (k : Nat) (g : Obj → Obj) : (s.modObj k g).pending = s.pending := rfl
@[simp] theorem State.modObj_latch (k : Nat) (g : Obj → Obj) : (s.modObj k g).latch = s.latch := rfl
@[simp] theorem State.modObj_boot (k : Nat) (g : Obj → Obj) : (s.modObj k g).boot = s.boot := rfl
@[simp] theorem State.modObj_funcs (k : Nat) (g : Obj → Obj) : (s.modObj k g).funcs = s.funcs := rfl
@[simp] theorem State.modObj_queues (k : Nat) (g : Obj → Obj) : (s.modObj k g).queues = s.queues := rfl
@[simp] theorem State.modObj_tasks (k : Nat) (g : Obj → Obj) : (s.modObj k g).tasks = s.tasks := rfl
@[simp] theorem State.modObj_parts (k : Nat) (g : Obj → Obj) : (s.modObj k g).parts = s.parts := rfl
@[simp] theorem State.modObj_ports (k : Nat) (g : Obj → Obj) : (s.modObj k g).ports = s.ports := rfl
@[simp] theorem State.modObj_mtus (k : Nat) (g : Obj → Obj) : (s.modObj k g).mtus = s.mtus := rfl
@[simp] theorem State.modObj_suTurn (k : Nat) (g : Obj → Obj) : (s.modObj k g).suTurn = s.suTurn := rfl
@[simp] theorem State.modObj_chans (k : Nat) (g : Obj → Obj) : (s.modObj k g).chans = s.chans := rfl
@[simp] theorem State.modObj_sto (k : Nat) (g : Obj → Obj) : (s.modObj k g).sto = s.sto := rfl
@[simp] theorem State.modObj_wps (k : Nat) (g : Obj → Obj) : (s.modObj k g).wps = s.wps := rfl
@[simp] theorem State.modObj_xl (k : Nat) (g : Obj → Obj) : (s.modObj k g).xl = s.xl := rfl
@[simp] theorem State.modObj_rbuf (k : Nat) (g : Obj → Obj) : (s.modObj k g).rbuf = s.rbuf := rfl
@[simp] theorem State.modObj_geq (k : Nat) (g : Obj → Obj) : (s.modObj k g).geq = s.geq := rfl
@[simp] theorem State.modObj_rcv (k : Nat) (g : Obj → Obj) : (s.modObj k g).rcv = s.rcv := rfl
@[simp] theorem State.modObj_sec (k : Nat) (g : Obj → Obj) : (s.modObj k g).sec = s.sec := rfl
@[simp] theorem State.modObj_cnt (k : Nat) (g : Obj → Obj) : (s.modObj k g).cnt = s.cnt := rfl
@[simp] theorem State.modObj_dbell (k : Nat) (g : Obj → Obj) : (s.modObj k g).dbell = s.dbell := rfl
@[simp] theorem State.modObj_fetch (k : Nat) (g : Obj → Obj) : (s.modObj k g).fetch = s.fetch := rfl
@[simp] theorem State.modObj_waitTasks (k : Nat) (g : Obj → Obj) : (s.modObj k g).waitTasks = s.waitTasks := rfl
@[simp] theorem State.modObj_out (k : Nat) (g : Obj → Obj) : (s.modObj k g).out = s.out := rfl
@[simp] theorem State.modObj_freeCtr (k : Nat) (g : Obj → Obj) : (s.modObj k g).freeCtr = s.freeCtr := rfl
@[simp] theorem State.modObj_stamp (k : Nat) (g : Obj → Obj) : (s.modObj k g).stamp = s.stamp := rfl
@[simp] theorem State.modObj_now (k : Nat) (g : Obj → Obj) : (s.modObj k g).now = s.now := rfl
@[simp] theorem State.modObj_func (k : Nat) (g : Obj → Obj) (j : Nat) : (s.modObj k g).func j = s.func j := rfl
@[simp] theorem State.modObj_queue (k : Nat) (g : Obj → Obj) (j : Nat) : (s.modObj k g).queue j = s.queue j := rfl
@[simp] theorem State.modObj_task (k : Nat) (g : Obj → Obj) (j : Nat) : (s.modObj k g).task j = s.task j := rfl
@[simp] theorem State.modObj_part (k : Nat) (g : Obj → Obj) (j : Nat) : (s.modObj k g).part j = s.part j := rfl
@[simp] theorem State.modObj_eport (k : Nat) (g : Obj → Obj) (j : Nat) : (s.modObj k g).eport j = s.eport j := rfl
@[simp] theorem State.modObj_chan (k : Nat) (g : Obj → Obj) (j : Nat) : (s.modObj k g).chan j = s.chan j := rfl
@[simp] theorem State.modObj_mtuHeld (k : Nat) (g : Obj → Obj) (j : Nat) : (s.modObj k g).mtuHeld j = s.mtuHeld j := rfl
@[simp] theorem State.modObj_wp (k : Nat) (g : Obj → Obj) (j : Nat) : (s.modObj k g).wp j = s.wp j := rfl
@[simp] theorem State.modObj_obj_self (k : Nat) (g : Obj → Obj) : (s.modObj k g).obj k = g (s.obj k) := Tab.get_set_self _ _ _ _
theorem State.modObj_obj_ne (k : Nat) (g : Obj → Obj) {j : Nat} (h : j ≠ k) : (s.modObj k g).obj j = s.obj j :=
  Tab.get_set_ne _ _ _ h
theorem State.modObj_obj (k : Nat) (g : Obj → Obj) (j : Nat) : (s.modObj k g).obj j = if j = k then g (s.obj k) else s.obj j :=
  Tab.get_set _ _ _ _ _

/-! ### modWp -/

@[simp] theorem State.modWp_pending (k : Nat) (g : Wp → Wp) : (s.modWp k g).pending = s.pending := rfl
@[simp] theorem State.modWp_latch (k : Nat) (g : Wp → Wp) : (s.modWp k g).latch = s.latch := rfl
@[simp] theorem State.modWp_boot (k : Nat) (g : Wp → Wp) : (s.modWp k g).boot = s.boot := rfl
@[simp] theorem State.modWp_funcs (k : Nat) (g : Wp → Wp) : (s.modWp k g).funcs = s.funcs := rfl
@[simp] theorem State.modWp_queues (k : Nat) (g : Wp → Wp) : (s.modWp k g).queues = s.queues := rfl
@[simp] theorem State.modWp_tasks (k : Nat) (g : Wp → Wp) : (s.modWp k g).tasks = s.tasks := rfl
@[simp] theorem State.modWp_parts (k : Nat) (g : Wp → Wp) : (s.modWp k g).parts = s.parts := rfl
@[simp] theorem State.modWp_ports (k : Nat) (g : Wp → Wp) : (s.modWp k g).ports = s.ports := rfl
@[simp] theorem State.modWp_mtus (k : Nat) (g : Wp → Wp) : (s.modWp k g).mtus = s.mtus := rfl
@[simp] theorem State.modWp_suTurn (k : Nat) (g : Wp → Wp) : (s.modWp k g).suTurn = s.suTurn := rfl
@[simp] theorem State.modWp_chans (k : Nat) (g : Wp → Wp) : (s.modWp k g).chans = s.chans := rfl
@[simp] theorem State.modWp_objs (k : Nat) (g : Wp → Wp) : (s.modWp k g).objs = s.objs := rfl
@[simp] theorem State.modWp_sto (k : Nat) (g : Wp → Wp) : (s.modWp k g).sto = s.sto := rfl
@[simp] theorem State.modWp_xl (k : Nat) (g : Wp → Wp) : (s.modWp k g).xl = s.xl := rfl
@[simp] theorem State.modWp_rbuf (k : Nat) (g : Wp → Wp) : (s.modWp k g).rbuf = s.rbuf := rfl
@[simp] theorem State.modWp_geq (k : Nat) (g : Wp → Wp) : (s.modWp k g).geq = s.geq := rfl
@[simp] theorem State.modWp_rcv (k : Nat) (g : Wp → Wp) : (s.modWp k g).rcv = s.rcv := rfl
@[simp] theorem State.modWp_sec (k : Nat) (g : Wp → Wp) : (s.modWp k g).sec = s.sec := rfl
@[simp] theorem State.modWp_cnt (k : Nat) (g : Wp → Wp) : (s.modWp k g).cnt = s.cnt := rfl
@[simp] theorem State.modWp_dbell (k : Nat) (g : Wp → Wp) : (s.modWp k g).dbell = s.dbell := rfl
@[simp] theorem State.modWp_fetch (k : Nat) (g : Wp → Wp) : (s.modWp k g).fetch = s.fetch := rfl
@[simp] theorem State.modWp_waitTasks (k : Nat) (g : Wp → Wp) : (s.modWp k g).waitTasks = s.waitTasks := rfl
@[simp] theorem State.modWp_out (k : Nat) (g : Wp → Wp) : (s.modWp k g).out = s.out := rfl
@[simp] theorem State.modWp_freeCtr (k : Nat) (g : Wp → Wp) : (s.modWp k g).freeCtr = s.freeCtr := rfl
@[simp] theorem State.modWp_stamp (k : Nat) (g : Wp → Wp) : (s.modWp k g).stamp = s.stamp := rfl
@[simp] theorem State.modWp_now (k : Nat) (g : Wp → Wp) : (s.modWp k g).now = s.now := rfl
@[simp] theorem State.modWp_func (k : Nat) (g : Wp → Wp) (j : Nat) : (s.modWp k g).func j = s.func j := rfl
@[simp] theorem State.modWp_queue (k : Nat) (g : Wp → Wp) (j : Nat) : (s.modWp k g).queue j = s.queue j := rfl
@[simp] theorem State.modWp_task (k : Nat) (g : Wp → Wp) (j : Nat) : (s.modWp k g).task j = s.task j := rfl
@[simp] theorem State.modWp_part (k : Nat) (g : Wp → Wp) (j : Nat) : (s.modWp k g).part j = s.part j := rfl
@[simp] theorem State.modWp_eport (k : Nat) (g : Wp → Wp) (j : Nat) : (s.modWp k g).eport j = s.eport j := rfl
@[simp] theorem State.modWp_chan (k : Nat) (g : Wp → Wp) (j : Nat) : (s.modWp k g).chan j = s.chan j := rfl
@[simp] theorem State.modWp_mtuHeld (k : Nat) (g : Wp → Wp) (j : Nat) : (s.modWp k g).mtuHeld j = s.mtuHeld j := rfl
@[simp] theorem State.modWp_obj (k : Nat) (g : Wp → Wp) (j : Nat) : (s.modWp k g).obj j = s.obj j := rfl
@[simp] theorem State.modWp_wp_self (k : Nat) (g : Wp → Wp) : (s.modWp k g).wp k = g (s.wp k) := Tab.get_set_self _ _ _ _
theorem State.modWp_wp_ne (k : Nat) (g : Wp → Wp) {j : Nat} (h : j ≠ k) : (s.modWp k g).wp j = s.wp j :=
  Tab.get_set_ne _ _ _ h
theorem State.modWp_wp (k : Nat) (g : Wp → Wp) (j : Nat) : (s.modWp k g).wp j = if j = k then g (s.wp k) else s.wp j :=
  Tab.get_set _ _ _ _ _

/-! ### modMtu -/

@[simp] theorem State.modMtu_pending (k : Nat) (g : Nat → Nat) : (s.modMtu k g).pending = s.pending := rfl
@[simp] theorem State.modMtu_latch (k : Nat) (g : Nat → Nat) : (s.modMtu k g).latch = s.latch := rfl
@[simp] theorem State.modMtu_boot (k : Nat) (g : Nat → Nat) : (s.modMtu k g).boot = s.boot := rfl
@[simp] theorem State.modMtu_funcs (k : Nat) (g : Nat → Nat) : (s.modMtu k g).funcs = s.funcs := rfl
@[simp] theorem State.modMtu_queues (k : Nat) (g : Nat → Nat) : (s.modMtu k g).queues = s.queues := rfl
@[simp] theorem State.modMtu_tasks (k : Nat) (g : Nat → Nat) : (s.modMtu k g).tasks = s.tasks := rfl
@[simp] theorem State.modMtu_parts (k : Nat) (g : Nat → Nat) : (s.modMtu k g).parts = s.parts := rfl
@[simp] theorem State.modMtu_ports (k : Nat) (g : Nat → Nat) : (s.modMtu k g).ports = s.ports := rfl
@[simp] theorem State.modMtu_suTurn (k : Nat) (g : Nat → Nat) : (s.modMtu k g).suTurn = s.suTurn := rfl
@[simp] theorem State.modMtu_chans (k : Nat) (g : Nat → Nat) : (s.modMtu k g).chans = s.chans := rfl
@[simp] theorem State.modMtu_objs (k : Nat) (g : Nat → Nat) : (s.modMtu k g).objs = s.objs := rfl
@[simp] theorem State.modMtu_sto (k : Nat) (g : Nat → Nat) : (s.modMtu k g).sto = s.sto := rfl
@[simp] theorem State.modMtu_wps (k : Nat) (g : Nat → Nat) : (s.modMtu k g).wps = s.wps := rfl
@[simp] theorem State.modMtu_xl (k : Nat) (g : Nat → Nat) : (s.modMtu k g).xl = s.xl := rfl
@[simp] theorem State.modMtu_rbuf (k : Nat) (g : Nat → Nat) : (s.modMtu k g).rbuf = s.rbuf := rfl
@[simp] theorem State.modMtu_geq (k : Nat) (g : Nat → Nat) : (s.modMtu k g).geq = s.geq := rfl
@[simp] theorem State.modMtu_rcv (k : Nat) (g : Nat → Nat) : (s.modMtu k g).rcv = s.rcv := rfl
@[simp] theorem State.modMtu_sec (k : Nat) (g : Nat → Nat) : (s.modMtu k g).sec = s.sec := rfl
@[simp] theorem State.modMtu_cnt (k : Nat) (g : Nat → Nat) : (s.modMtu k g).cnt = s.cnt := rfl
@[simp] theorem State.modMtu_dbell (k : Nat) (g : Nat → Nat) : (s.modMtu k g).dbell = s.dbell := rfl
@[simp] theorem State.modMtu_fetch (k : Nat) (g : Nat → Nat) : (s.modMtu k g).fetch = s.fetch := rfl
@[simp] theorem State.modMtu_waitTasks (k : Nat) (g : Nat → Nat) : (s.modMtu k g).waitTasks = s.waitTasks := rfl
@[simp] theorem State.modMtu_out (k : Nat) (g : Nat → Nat) : (s.modMtu k g).out = s.out := rfl
@[simp] theorem State.modMtu_freeCtr (k : Nat) (g : Nat → Nat) : (s.modMtu k g).freeCtr = s.freeCtr := rfl
@[simp] theorem State.modMtu_stamp (k : Nat) (g : Nat → Nat) : (s.modMtu k g).stamp = s.stamp := rfl
@[simp] theorem State.modMtu_now (k : Nat) (g : Nat → Nat) : (s.modMtu k g).now = s.now := rfl
@[simp] theorem State.modMtu_func (k : Nat) (g : Nat → Nat) (j : Nat) : (s.modMtu k g).func j = s.func j := rfl
@[simp] theorem State.modMtu_queue (k : Nat) (g : Nat → Nat) (j : Nat) : (s.modMtu k g).queue j = s.queue j := rfl
@[simp] theorem State.modMtu_task (k : Nat) (g : Nat → Nat) (j : Nat) : (s.modMtu k g).task j = s.task j := rfl
@[simp] theorem State.modMtu_part (k : Nat) (g : Nat → Nat) (j : Nat) : (s.modMtu k g).part j = s.part j := rfl
@[simp] theorem State.modMtu_eport (k : Nat) (g : Nat → Nat) (j : Nat) : (s.modMtu k g).eport j = s.eport j := rfl
@[simp] theorem State.modMtu_chan (k : Nat) (g : Nat → Nat) (j : Nat) : (s.modMtu k g).chan j = s.chan j := rfl
@[simp] theorem State.modMtu_obj (k : Nat) (g : Nat → Nat) (j : Nat) : (s.modMtu k g).obj j = s.obj j := rfl
@[simp] theorem State.modMtu_wp (k : Nat) (g : Nat → Nat) (j : Nat) : (s.modMtu k g).wp j = s.wp j := rfl
@[simp] theorem State.modMtu_mtuHeld_self (k : Nat) (g : Nat → Nat) : (s.modMtu k g).mtuHeld k = g (s.mtuHeld k) := Tab.get_set_self _ _ _ _
theorem State.modMtu_mtuHeld_ne (k : Nat) (g : Nat → Nat) {j : Nat} (h : j ≠ k) : (s.modMtu k g).mtuHeld j = s.mtuHeld j :=
  Tab.get_set_ne _ _ _ h
theorem State.modMtu_mtuHeld (k : Nat) (g : Nat → Nat) (j : Nat) : (s.modMtu k g).mtuHeld j = if j = k then g (s.mtuHeld k) else s.mtuHeld j :=
  Tab.get_set _ _ _ _ _

/-! ### modWps -/

@[simp] theorem State.modWps_pending (g : WpStore → WpStore) : (s.modWps g).pending = s.pending := rfl
@[simp] theorem State.modWps_latch (g : WpStore → WpStore) : (s.modWps g).latch = s.latch := rfl
@[simp] theorem State.modWps_boot (g : WpStore → WpStore) : (s.modWps g).boot = s.boot := rfl
@[simp] theorem State.modWps_funcs (g : WpStore → WpStore) : (s.modWps g).funcs = s.funcs := rfl
@[simp] theorem State.modWps_queues (g : WpStore → WpStore) : (s.modWps g).queues = s.queues := rfl
@[simp] theorem State.modWps_tasks (g : WpStore → WpStore) : (s.modWps g).tasks = s.tasks := rfl
@[simp] theorem State.modWps_parts (g : WpStore → WpStore) : (s.modWps g).parts = s.parts := rfl
@[simp] theorem State.modWps_ports (g : WpStore → WpStore) : (s.modWps g).ports = s.ports := rfl
@[simp] theorem State.modWps_mtus (g : WpStore → WpStore) : (s.modWps g).mtus = s.mtus := rfl
@[simp] theorem State.modWps_suTurn (g : WpStore → WpStore) : (s.modWps g).suTurn = s.suTurn := rfl
@[simp] theorem State.modWps_chans (g : WpStore → WpStore) : (s.modWps g).chans = s.chans := rfl
@[simp] theorem State.modWps_objs (g : WpStore → WpStore) : (s.modWps g).objs = s.objs := rfl
@[simp] theorem State.modWps_sto (g : WpStore → WpStore) : (s.modWps g).sto = s.sto := rfl
@[simp] theorem State.modWps_wps (g : WpStore → WpStore) : (s.modWps g).wps = g s.wps := rfl
@[simp] theorem State.modWps_xl (g : WpStore → WpStore) : (s.modWps g).xl = s.xl := rfl
@[simp] theorem State.modWps_rbuf (g : WpStore → WpStore) : (s.modWps g).rbuf = s.rbuf := rfl
@[simp] theorem State.modWps_geq (g : WpStore → WpStore) : (s.modWps g).geq = s.geq := rfl
@[simp] theorem State.modWps_rcv (g : WpStore → WpStore) : (s.modWps g).rcv = s.rcv := rfl
@[simp] theorem State.modWps_sec (g : WpStore → WpStore) : (s.modWps g).sec = s.sec := rfl
@[simp] theorem State.modWps_cnt (g : WpStore → WpStore) : (s.modWps g).cnt = s.cnt := rfl
@[simp] theorem State.modWps_dbell (g : WpStore → WpStore) : (s.modWps g).dbell = s.dbell := rfl
@[simp] theorem State.modWps_fetch (g : WpStore → WpStore) : (s.modWps g).fetch = s.fetch := rfl
@[simp] theorem State.modWps_waitTasks (g : WpStore → WpStore) : (s.modWps g).waitTasks = s.waitTasks := rfl
@[simp] theorem State.modWps_out (g : WpStore → WpStore) : (s.modWps g).out = s.out := rfl
@[simp] theorem State.modWps_freeCtr (g : WpStore → WpStore) : (s.modWps g).freeCtr = s.freeCtr := rfl
@[simp] theorem State.modWps_stamp (g : WpStore → WpStore) : (s.modWps g).stamp = s.stamp := rfl
@[simp] theorem State.modWps_now (g : WpStore → WpStore) : (s.modWps g).now = s.now := rfl
@[simp] theorem State.modWps_func (g : WpStore → WpStore) (j : Nat) : (s.modWps g).func j = s.func j := rfl
@[simp] theorem State.modWps_queue (g : WpStore → WpStore) (j : Nat) : (s.modWps g).queue j = s.queue j := rfl
@[simp] theorem State.modWps_task (g : WpStore → WpStore) (j : Nat) : (s.modWps g).task j = s.task j := rfl
@[simp] theorem State.modWps_part (g : WpStore → WpStore) (j : Nat) : (s.modWps g).part j = s.part j := rfl
@[simp] theorem State.modWps_eport (g : WpStore → WpStore) (j : Nat) : (s.modWps g).eport j = s.eport j := rfl
@[simp] theorem State.modWps_chan (g : WpStore → WpStore) (j : Nat) : (s.modWps g).chan j = s.chan j := rfl
@[simp] theorem State.modWps_mtuHeld (g : WpStore → WpStore) (j : Nat) : (s.modWps g).mtuHeld j = s.mtuHeld j := rfl
@[simp] theorem State.modWps_obj (g : WpStore → WpStore) (j : Nat) : (s.modWps g).obj j = s.obj j := rfl

/-! ### modBoot -/

@[simp] theorem State.modBoot_pending (g : Boot → Boot) : (s.modBoot g).pending = s.pending := rfl
@[simp] theorem State.modBoot_latch (g : Boot → Boot) : (s.modBoot g).latch = s.latch := rfl
@[simp] theorem State.modBoot_boot (g : Boot → Boot) : (s.modBoot g).boot = g s.boot := rfl
@[simp] theorem State.modBoot_funcs (g : Boot → Boot) : (s.modBoot g).funcs = s.funcs := rfl
@[simp] theorem State.modBoot_queues (g : Boot → Boot) : (s.modBoot g).queues = s.queues := rfl
@[simp] theorem State.modBoot_tasks (g : Boot → Boot) : (s.modBoot g).tasks = s.tasks := rfl
@[simp] theorem State.modBoot_parts (g : Boot → Boot) : (s.modBoot g).parts = s.parts := rfl
@[simp] theorem State.modBoot_ports (g : Boot → Boot) : (s.modBoot g).ports = s.ports := rfl
@[simp] theorem State.modBoot_mtus (g : Boot → Boot) : (s.modBoot g).mtus = s.mtus := rfl
@[simp] theorem State.modBoot_suTurn (g : Boot → Boot) : (s.modBoot g).suTurn = s.suTurn := rfl
@[simp] theorem State.modBoot_chans (g : Boot → Boot) : (s.modBoot g).chans = s.chans := rfl
@[simp] theorem State.modBoot_objs (g : Boot → Boot) : (s.modBoot g).objs = s.objs := rfl
@[simp] theorem State.modBoot_sto (g : Boot → Boot) : (s.modBoot g).sto = s.sto := rfl
@[simp] theorem State.modBoot_wps (g : Boot → Boot) : (s.modBoot g).wps = s.wps := rfl
@[simp] theorem State.modBoot_xl (g : Boot → Boot) : (s.modBoot g).xl = s.xl := rfl
@[simp] theorem State.modBoot_rbuf (g : Boot → Boot) : (s.modBoot g).rbuf = s.rbuf := rfl
@[simp] theorem State.modBoot_geq (g : Boot → Boot) : (s.modBoot g).geq = s.geq := rfl
@[simp] theorem State.modBoot_rcv (g : Boot → Boot) : (s.modBoot g).rcv = s.rcv := rfl
@[simp] theorem State.modBoot_sec (g : Boot → Boot) : (s.modBoot g).sec = s.sec := rfl
@[simp] theorem State.modBoot_cnt (g : Boot → Boot) : (s.modBoot g).cnt = s.cnt := rfl
@[simp] theorem State.modBoot_dbell (g : Boot → Boot) : (s.modBoot g).dbell = s.dbell := rfl
@[simp] theorem State.modBoot_fetch (g : Boot → Boot) : (s.modBoot g).fetch = s.fetch := rfl
@[simp] theorem State.modBoot_waitTasks (g : Boot → Boot) : (s.modBoot g).waitTasks = s.waitTasks := rfl
@[simp] theorem State.modBoot_out (g : Boot → Boot) : (s.modBoot g).out = s.out := rfl
@[simp] theorem State.modBoot_freeCtr (g : Boot → Boot) : (s.modBoot g).freeCtr = s.freeCtr := rfl
@[simp] theorem State.modBoot_stamp (g : Boot → Boot) : (s.modBoot g).stamp = s.stamp := rfl
@[simp] theorem State.modBoot_now (g : Boot → Boot) : (s.modBoot g).now = s.now := rfl
@[simp] theorem State.modBoot_func (g : Boot → Boot) (j : Nat) : (s.modBoot g).func j = s.func j := rfl
@[simp] theorem State.modBoot_queue (g : Boot → Boot) (j : Nat) : (s.modBoot g).queue j = s.queue j := rfl
@[simp] theorem State.modBoot_task (g : Boot → Boot) (j : Nat) : (s.modBoot g).task j = s.task j := rfl
@[simp] theorem State.modBoot_part (g : Boot → Boot) (j : Nat) : (s.modBoot g).part j = s.part j := rfl
@[simp] theorem State.modBoot_eport (g : Boot → Boot) (j : Nat) : (s.modBoot g).eport j = s.eport j := rfl
@[simp] theorem State.modBoot_chan (g : Boot → Boot) (j : Nat) : (s.modBoot g).chan j = s.chan j := rfl
@[simp] theorem State.modBoot_mtuHeld (g : Boot → Boot) (j : Nat) : (s.modBoot g).mtuHeld j = s.mtuHeld j := rfl
@[simp] theorem State.modBoot_obj (g : Boot → Boot) (j : Nat) : (s.modBoot g).obj j = s.obj j := rfl
@[simp] theorem State.modBoot_wp (g : Boot → Boot) (j : Nat) : (s.modBoot g).wp j = s.wp j := rfl

/-! ### modSto -/

@[simp] theorem State.modSto_pending (g : Storage → Storage) : (s.modSto g).pending = s.pending := rfl
@[simp] theorem State.modSto_latch (g : Storage → Storage) : (s.modSto g).latch = s.latch := rfl
@[simp] theorem State.modSto_boot (g : Storage → Storage) : (s.modSto g).boot = s.boot := rfl
@[simp] theorem State.modSto_funcs (g : Storage → Storage) : (s.modSto g).funcs = s.funcs := rfl
@[simp] theorem State.modSto_queues (g : Storage → Storage) : (s.modSto g).queues = s.queues := rfl
@[simp] theorem State.modSto_tasks (g : Storage → Storage) : (s.modSto g).tasks = s.tasks := rfl
@[simp] theorem State.modSto_parts (g : Storage → Storage) : (s.modSto g).parts = s.parts := rfl
@[simp] theorem State.modSto_ports (g : Storage → Storage) : (s.modSto g).ports = s.ports := rfl
@[simp] theorem State.modSto_mtus (g : Storage → Storage) : (s.modSto g).mtus = s.mtus := rfl
@[simp] theorem State.modSto_suTurn (g : Storage → Storage) : (s.modSto g).suTurn = s.suTurn := rfl
@[simp] theorem State.modSto_chans (g : Storage → Storage) : (s.modSto g).chans = s.chans := rfl
@[simp] theorem State.modSto_objs (g : Storage → Storage) : (s.modSto g).objs = s.objs := rfl
@[simp] theorem State.modSto_sto (g : Storage → Storage) : (s.modSto g).sto = g s.sto := rfl
@[simp] theorem State.modSto_wps (g : Storage → Storage) : (s.modSto g).wps = s.wps := rfl
@[simp] theorem State.modSto_xl (g : Storage → Storage) : (s.modSto g).xl = s.xl := rfl
@[simp] theorem State.modSto_rbuf (g : Storage → Storage) : (s.modSto g).rbuf = s.rbuf := rfl
@[simp] theorem State.modSto_geq (g : Storage → Storage) : (s.modSto g).geq = s.geq := rfl
@[simp] theorem State.modSto_rcv (g : Storage → Storage) : (s.modSto g).rcv = s.rcv := rfl
@[simp] theorem State.modSto_sec (g : Storage → Storage) : (s.modSto g).sec = s.sec := rfl
@[simp] theorem State.modSto_cnt (g : Storage → Storage) : (s.modSto g).cnt = s.cnt := rfl
@[simp] theorem State.modSto_dbell (g : Storage → Storage) : (s.modSto g).dbell = s.dbell := rfl
@[simp] theorem State.modSto_fetch (g : Storage → Storage) : (s.modSto g).fetch = s.fetch := rfl
@[simp] theorem State.modSto_waitTasks (g : Storage → Storage) : (s.modSto g).waitTasks = s.waitTasks := rfl
@[simp] theorem State.modSto_out (g : Storage → Storage) : (s.modSto g).out = s.out := rfl
@[simp] theorem State.modSto_freeCtr (g : Storage → Storage) : (s.modSto g).freeCtr = s.freeCtr := rfl
@[simp] theorem State.modSto_stamp (g : Storage → Storage) : (s.modSto g).stamp = s.stamp := rfl
@[simp] theorem State.modSto_now (g : Storage → Storage) : (s.modSto g).now = s.now := rfl
@[simp] theorem State.modSto_func (g : Storage → Storage) (j : Nat) : (s.modSto g).func j = s.func j := rfl
@[simp] theorem State.modSto_queue (g : Storage → Storage) (j : Nat) : (s.modSto g).queue j = s.queue j := rfl
@[simp] theorem State.modSto_task (g : Storage → Storage) (j : Nat) : (s.modSto g).task j = s.task j := rfl
@[simp] theorem State.modSto_part (g : Storage → Storage) (j : Nat) : (s.modSto g).part j = s.part j := rfl
@[simp] theorem State.modSto_eport (g : Storage → Storage) (j : Nat) : (s.modSto g).eport j = s.eport j := rfl
@[simp] theorem State.modSto_chan (g : Storage → Storage) (j : Nat) : (s.modSto g).chan j = s.chan j := rfl
@[simp] theorem State.modSto_mtuHeld (g : Storage → Storage) (j : Nat) : (s.modSto g).mtuHeld j = s.mtuHeld j := rfl
@[simp] theorem State.modSto_obj (g : Storage → Storage) (j : Nat) : (s.modSto g).obj j = s.obj j := rfl
@[simp] theorem State.modSto_wp (g : Storage → Storage) (j : Nat) : (s.modSto g).wp j = s.wp j := rfl

/-! ### modRcv -/

@[simp] theorem State.modRcv_pending (g : Rcv → Rcv) : (s.modRcv g).pending = s.pending := rfl
@[simp] theorem State.modRcv_latch (g : Rcv → Rcv) : (s.modRcv g).latch = s.latch := rfl
@[simp] theorem State.modRcv_boot (g : Rcv → Rcv) : (s.modRcv g).boot = s.boot := rfl
@[simp] theorem State.modRcv_funcs (g : Rcv → Rcv) : (s.modRcv g).funcs = s.funcs := rfl
@[simp] theorem State.modRcv_queues (g : Rcv → Rcv) : (s.modRcv g).queues = s.queues := rfl
@[simp] theorem State.modRcv_tasks (g : Rcv → Rcv) : (s.modRcv g).tasks = s.tasks := rfl
@[simp] theorem State.modRcv_parts (g : Rcv → Rcv) : (s.modRcv g).parts = s.parts := rfl
@[simp] theorem State.modRcv_ports (g : Rcv → Rcv) : (s.modRcv g).ports = s.ports := rfl
@[simp] theorem State.modRcv_mtus (g : Rcv → Rcv) : (s.modRcv g).mtus = s.mtus := rfl
@[simp] theorem State.modRcv_suTurn (g : Rcv → Rcv) : (s.modRcv g).suTurn = s.suTurn := rfl
@[simp] theorem State.modRcv_chans (g : Rcv → Rcv) : (s.modRcv g).chans = s.chans := rfl
@[simp] theorem State.modRcv_objs (g : Rcv → Rcv) : (s.modRcv g).objs = s.objs := rfl
@[simp] theorem State.modRcv_sto (g : Rcv → Rcv) : (s.modRcv g).sto = s.sto := rfl
@[simp] theorem State.modRcv_wps (g : Rcv → Rcv) : (s.modRcv g).wps = s.wps := rfl
@[simp] theorem State.modRcv_xl (g : Rcv → Rcv) : (s.modRcv g).xl = s.xl := rfl
@[simp] theorem State.modRcv_rbuf (g : Rcv → Rcv) : (s.modRcv g).rbuf = s.rbuf := rfl
@[simp] theorem State.modRcv_geq (g : Rcv → Rcv) : (s.modRcv g).geq = s.geq := rfl
@[simp] theorem State.modRcv_rcv (g : Rcv → Rcv) : (s.modRcv g).rcv = g s.rcv := rfl
@[simp] theorem State.modRcv_sec (g : Rcv → Rcv) : (s.modRcv g).sec = s.sec := rfl
@[simp] theorem State.modRcv_cnt (g : Rcv → Rcv) : (s.modRcv g).cnt = s.cnt := rfl
@[simp] theorem State.modRcv_dbell (g : Rcv → Rcv) : (s.modRcv g).dbell = s.dbell := rfl
@[simp] theorem State.modRcv_fetch (g : Rcv → Rcv) : (s.modRcv g).fetch = s.fetch := rfl
@[simp] theorem State.modRcv_waitTasks (g : Rcv → Rcv) : (s.modRcv g).waitTasks = s.waitTasks := rfl
@[simp] theorem State.modRcv_out (g : Rcv → Rcv) : (s.modRcv g).out = s.out := rfl
@[simp] theorem State.modRcv_freeCtr (g : Rcv → Rcv) : (s.modRcv g).freeCtr = s.freeCtr := rfl
@[simp] theorem State.modRcv_stamp (g : Rcv → Rcv) : (s.modRcv g).stamp = s.stamp := rfl
@[simp] theorem State.modRcv_now (g : Rcv → Rcv) : (s.modRcv g).now = s.now := rfl
@[simp] theorem State.modRcv_func (g : Rcv → Rcv) (j : Nat) : (s.modRcv g).func j = s.func j := rfl
@[simp] theorem State.modRcv_queue (g : Rcv → Rcv) (j : Nat) : (s.modRcv g).queue j = s.queue j := rfl
@[simp] theorem State.modRcv_task (g : Rcv → Rcv) (j : Nat) : (s.modRcv g).task j = s.task j := rfl
@[simp] theorem State.modRcv_part (g : Rcv → Rcv) (j : Nat) : (s.modRcv g).part j = s.part j := rfl
@[simp] theorem State.modRcv_eport (g : Rcv → Rcv) (j : Nat) : (s.modRcv g).eport j = s.eport j := rfl
@[simp] theorem State.modRcv_chan (g : Rcv → Rcv) (j : Nat) : (s.modRcv g).chan j = s.chan j := rfl
@[simp] theorem State.modRcv_mtuHeld (g : Rcv → Rcv) (j : Nat) : (s.modRcv g).mtuHeld j = s.mtuHeld j := rfl
@[simp] theorem State.modRcv_obj (g : Rcv → Rcv) (j : Nat) : (s.modRcv g).obj j = s.obj j := rfl
@[simp] theorem State.modRcv_wp (g : Rcv → Rcv) (j : Nat) : (s.modRcv g).wp j = s.wp j := rfl

/-! ### modSec -/

@[simp] theorem State.modSec_pending (g : Sec → Sec) : (s.modSec g).pending = s.pending := rfl
@[simp] theorem State.modSec_latch (g : Sec → Sec) : (s.modSec g).latch = s.latch := rfl
@[simp] theorem State.modSec_boot (g : Sec → Sec) : (s.modSec g).boot = s.boot := rfl
@[simp] theorem State.modSec_funcs (g : Sec → Sec) : (s.modSec g).funcs = s.funcs := rfl
@[simp] theorem State.modSec_queues (g : Sec → Sec) : (s.modSec g).queues = s.queues := rfl
@[simp] theorem State.modSec_tasks (g : Sec → Sec) : (s.modSec g).tasks = s.tasks := rfl
@[simp] theorem State.modSec_parts (g : Sec → Sec) : (s.modSec g).parts = s.parts := rfl
@[simp] theorem State.modSec_ports (g : Sec → Sec) : (s.modSec g).ports = s.ports := rfl
@[simp] theorem State.modSec_mtus (g : Sec → Sec) : (s.modSec g).mtus = s.mtus := rfl
@[simp] theorem State.modSec_suTurn (g : Sec → Sec) : (s.modSec g).suTurn = s.suTurn := rfl
@[simp] theorem State.modSec_chans (g : Sec → Sec) : (s.modSec g).chans = s.chans := rfl
@[simp] theorem State.modSec_objs (g : Sec → Sec) : (s.modSec g).objs = s.objs := rfl
@[simp] theorem State.modSec_sto (g : Sec → Sec) : (s.modSec g).sto = s.sto := rfl
@[simp] theorem State.modSec_wps (g : Sec → Sec) : (s.modSec g).wps = s.wps := rfl
@[simp] theorem State.modSec_xl (g : Sec → Sec) : (s.modSec g).xl = s.xl := rfl
@[simp] theorem State.modSec_rbuf (g : Sec → Sec) : (s.modSec g).rbuf = s.rbuf := rfl
@[simp] theorem State.modSec_geq (g : Sec → Sec) : (s.modSec g).geq = s.geq := rfl
@[simp] theorem State.modSec_rcv (g : Sec → Sec) : (s.modSec g).rcv = s.rcv := rfl
@[simp] theorem State.modSec_sec (g : Sec → Sec) : (s.modSec g).sec = g s.sec := rfl
@[simp] theorem State.modSec_cnt (g : Sec → Sec) : (s.modSec g).cnt = s.cnt := rfl
@[simp] theorem State.modSec_dbell (g : Sec → Sec) : (s.modSec g).dbell = s.dbell := rfl
@[simp] theorem State.modSec_fetch (g : Sec → Sec) : (s.modSec g).fetch = s.fetch := rfl
@[simp] theorem State.modSec_waitTasks (g : Sec → Sec) : (s.modSec g).waitTasks = s.waitTasks := rfl
@[simp] theorem State.modSec_out (g : Sec → Sec) : (s.modSec g).out = s.out := rfl
@[simp] theorem State.modSec_freeCtr (g : Sec → Sec) : (s.modSec g).freeCtr = s.freeCtr := rfl
@[simp] theorem State.modSec_stamp (g : Sec → Sec) : (s.modSec g).stamp = s.stamp := rfl
@[simp] theorem State.modSec_now (g : Sec → Sec) : (s.modSec g).now = s.now := rfl
@[simp] theorem State.modSec_func (g : Sec → Sec) (j : Nat) : (s.modSec g).func j = s.func j := rfl
@[simp] theorem State.modSec_queue (g : Sec → Sec) (j : Nat) : (s.modSec g).queue j = s.queue j := rfl
@[simp] theorem State.modSec_task (g : Sec → Sec) (j : Nat) : (s.modSec g).task j = s.task j := rfl
@[simp] theorem State.modSec_part (g : Sec → Sec) (j : Nat) : (s.modSec g).part j = s.part j := rfl
@[simp] theorem State.modSec_eport (g : Sec → Sec) (j : Nat) : (s.modSec g).eport j = s.eport j := rfl
@[simp] theorem State.modSec_chan (g : Sec → Sec) (j : Nat) : (s.modSec g).chan j = s.chan j := rfl
@[simp] theorem State.modSec_mtuHeld (g : Sec → Sec) (j : Nat) : (s.modSec g).mtuHeld j = s.mtuHeld j := rfl
@[simp] theorem State.modSec_obj (g : Sec → Sec) (j : Nat) : (s.modSec g).obj j = s.obj j := rfl
@[simp] theorem State.modSec_wp (g : Sec → Sec) (j : Nat) : (s.modSec g).wp j = s.wp j := rfl

/-! ### modCnt -/

@[simp] theorem State.modCnt_pending (g : Cnt → Cnt) : (s.modCnt g).pending = s.pending := rfl
@[simp] theorem State.modCnt_latch (g : Cnt → Cnt) : (s.modCnt g).latch = s.latch := rfl
@[simp] theorem State.modCnt_boot (g : Cnt → Cnt) : (s.modCnt g).boot = s.boot := rfl
@[simp] theorem State.modCnt_funcs (g : Cnt → Cnt) : (s.modCnt g).funcs = s.funcs := rfl
@[simp] theorem State.modCnt_queues (g : Cnt → Cnt) : (s.modCnt g).queues = s.queues := rfl
@[simp] theorem State.modCnt_tasks (g : Cnt → Cnt) : (s.modCnt g).tasks = s.tasks := rfl
@[simp] theorem State.modCnt_parts (g : Cnt → Cnt) : (s.modCnt g).parts = s.parts := rfl
@[simp] theorem State.modCnt_ports (g : Cnt → Cnt) : (s.modCnt g).ports = s.ports := rfl
@[simp] theorem State.modCnt_mtus (g : Cnt → Cnt) : (s.modCnt g).mtus = s.mtus := rfl
@[simp] theorem State.modCnt_suTurn (g : Cnt → Cnt) : (s.modCnt g).suTurn = s.suTurn := rfl
@[simp] theorem State.modCnt_chans (g : Cnt → Cnt) : (s.modCnt g).chans = s.chans := rfl
@[simp] theorem State.modCnt_objs (g : Cnt → Cnt) : (s.modCnt g).objs = s.objs := rfl
@[simp] theorem State.modCnt_sto (g : Cnt → Cnt) : (s.modCnt g).sto = s.sto := rfl
@[simp] theorem State.modCnt_wps (g : Cnt → Cnt) : (s.modCnt g).wps = s.wps := rfl
@[simp] theorem State.modCnt_xl (g : Cnt → Cnt) : (s.modCnt g).xl = s.xl := rfl
@[simp] theorem State.modCnt_rbuf (g : Cnt → Cnt) : (s.modCnt g).rbuf = s.rbuf := rfl
@[simp] theorem State.modCnt_geq (g : Cnt → Cnt) : (s.modCnt g).geq = s.geq := rfl
@[simp] theorem State.modCnt_rcv (g : Cnt → Cnt) : (s.modCnt g).rcv = s.rcv := rfl
@[simp] theorem State.modCnt_sec (g : Cnt → Cnt) : (s.modCnt g).sec = s.sec := rfl
@[simp] theorem State.modCnt_cnt (g : Cnt → Cnt) : (s.modCnt g).cnt = g s.cnt := rfl
@[simp] theorem State.modCnt_dbell (g : Cnt → Cnt) : (s.modCnt g).dbell = s.dbell := rfl
@[simp] theorem State.modCnt_fetch (g : Cnt → Cnt) : (s.modCnt g).fetch = s.fetch := rfl
@[simp] theorem State.modCnt_waitTasks (g : Cnt → Cnt) : (s.modCnt g).waitTasks = s.waitTasks := rfl
@[simp] theorem State.modCnt_out (g : Cnt → Cnt) : (s.modCnt g).out = s.out := rfl
@[simp] theorem State.modCnt_freeCtr (g : Cnt → Cnt) : (s.modCnt g).freeCtr = s.freeCtr := rfl
@[simp] theorem State.modCnt_stamp (g : Cnt → Cnt) : (s.modCnt g).stamp = s.stamp := rfl
@[simp] theorem State.modCnt_now (g : Cnt → Cnt) : (s.modCnt g).now = s.now := rfl
@[simp] theorem State.modCnt_func (g : Cnt → Cnt) (j : Nat) : (s.modCnt g).func j = s.func j := rfl
@[simp] theorem State.modCnt_queue (g : Cnt → Cnt) (j : Nat) : (s.modCnt g).queue j = s.queue j := rfl
@[simp] theorem State.modCnt_task (g : Cnt → Cnt) (j : Nat) : (s.modCnt g).task j = s.task j := rfl
@[simp] theorem State.modCnt_part (g : Cnt → Cnt) (j : Nat) : (s.modCnt g).part j = s.part j := rfl
@[simp] theorem State.modCnt_eport (g : Cnt → Cnt) (j : Nat) : (s.modCnt g).eport j = s.eport j := rfl
@[simp] theorem State.modCnt_chan (g : Cnt → Cnt) (j : Nat) : (s.modCnt g).chan j = s.chan j := rfl
@[simp] theorem State.modCnt_mtuHeld (g : Cnt → Cnt) (j : Nat) : (s.modCnt g).mtuHeld j = s.mtuHeld j := rfl
@[simp] theorem State.modCnt_obj (g : Cnt → Cnt) (j : Nat) : (s.modCnt g).obj j = s.obj j := rfl
@[simp] theorem State.modCnt_wp (g : Cnt → Cnt) (j : Nat) : (s.modCnt g).wp j = s.wp j := rfl

/-! ### modGeq -/

@[simp] theorem State.modGeq_pending (g : Geq → Geq) : (s.modGeq g).pending = s.pending := rfl
@[simp] theorem State.modGeq_latch (g : Geq → Geq) : (s.modGeq g).latch = s.latch := rfl
@[simp] theorem State.modGeq_boot (g : Geq → Geq) : (s.modGeq g).boot = s.boot := rfl
@[simp] theorem State.modGeq_funcs (g : Geq → Geq) : (s.modGeq g).funcs = s.funcs := rfl
@[simp] theorem State.modGeq_queues (g : Geq → Geq) : (s.modGeq g).queues = s.queues := rfl
@[simp] theorem State.modGeq_tasks (g : Geq → Geq) : (s.modGeq g).tasks = s.tasks := rfl
@[simp] theorem State.modGeq_parts (g : Geq → Geq) : (s.modGeq g).parts = s.parts := rfl
@[simp] theorem State.modGeq_ports (g : Geq → Geq) : (s.modGeq g).ports = s.ports := rfl
@[simp] theorem State.modGeq_mtus (g : Geq → Geq) : (s.modGeq g).mtus = s.mtus := rfl
@[simp] theorem State.modGeq_suTurn (g : Geq → Geq) : (s.modGeq g).suTurn = s.suTurn := rfl
@[simp] theorem State.modGeq_chans (g : Geq → Geq) : (s.modGeq g).chans = s.chans := rfl
@[simp] theorem State.modGeq_objs (g : Geq → Geq) : (s.modGeq g).objs = s.objs := rfl
@[simp] theorem State.modGeq_sto (g : Geq → Geq) : (s.modGeq g).sto = s.sto := rfl
@[simp] theorem State.modGeq_wps (g : Geq → Geq) : (s.modGeq g).wps = s.wps := rfl
@[simp] theorem State.modGeq_xl (g : Geq → Geq) : (s.modGeq g).xl = s.xl := rfl
@[simp] theorem State.modGeq_rbuf (g : Geq → Geq) : (s.modGeq g).rbuf = s.rbuf := rfl
@[simp] theorem State.modGeq_geq (g : Geq → Geq) : (s.modGeq g).geq = g s.geq := rfl
@[simp] theorem State.modGeq_rcv (g : Geq → Geq) : (s.modGeq g).rcv = s.rcv := rfl
@[simp] theorem State.modGeq_sec (g : Geq → Geq) : (s.modGeq g).sec = s.sec := rfl
@[simp] theorem State.modGeq_cnt (g : Geq → Geq) : (s.modGeq g).cnt = s.cnt := rfl
@[simp] theorem State.modGeq_dbell (g : Geq → Geq) : (s.modGeq g).dbell = s.dbell := rfl
@[simp] theorem State.modGeq_fetch (g : Geq → Geq) : (s.modGeq g).fetch = s.fetch := rfl
@[simp] theorem State.modGeq_waitTasks (g : Geq → Geq) : (s.modGeq g).waitTasks = s.waitTasks := rfl
@[simp] theorem State.modGeq_out (g : Geq → Geq) : (s.modGeq g).out = s.out := rfl
@[simp] theorem State.modGeq_freeCtr (g : Geq → Geq) : (s.modGeq g).freeCtr = s.freeCtr := rfl
@[simp] theorem State.modGeq_stamp (g : Geq → Geq) : (s.modGeq g).stamp = s.stamp := rfl
@[simp] theorem State.modGeq_now (g : Geq → Geq) : (s.modGeq g).now = s.now := rfl
@[simp] theorem State.modGeq_func (g : Geq → Geq) (j : Nat) : (s.modGeq g).func j = s.func j := rfl
@[simp] theorem State.modGeq_queue (g : Geq → Geq) (j : Nat) : (s.modGeq g).queue j = s.queue j := rfl
@[simp] theorem State.modGeq_task (g : Geq → Geq) (j : Nat) : (s.modGeq g).task j = s.task j := rfl
@[simp] theorem State.modGeq_part (g : Geq → Geq) (j : Nat) : (s.modGeq g).part j = s.part j := rfl
@[simp] theorem State.modGeq_eport (g : Geq → Geq) (j : Nat) : (s.modGeq g).eport j = s.eport j := rfl
@[simp] theorem State.modGeq_chan (g : Geq → Geq) (j : Nat) : (s.modGeq g).chan j = s.chan j := rfl
@[simp] theorem State.modGeq_mtuHeld (g : Geq → Geq) (j : Nat) : (s.modGeq g).mtuHeld j = s.mtuHeld j := rfl
@[simp] theorem State.modGeq_obj (g : Geq → Geq) (j : Nat) : (s.modGeq g).obj j = s.obj j := rfl
@[simp] theorem State.modGeq_wp (g : Geq → Geq) (j : Nat) : (s.modGeq g).wp j = s.wp j := rfl

/-! ### modXl -/

@[simp] theorem State.modXl_pending (g : Xl → Xl) : (s.modXl g).pending = s.pending := rfl
@[simp] theorem State.modXl_latch (g : Xl → Xl) : (s.modXl g).latch = s.latch := rfl
@[simp] theorem State.modXl_boot (g : Xl → Xl) : (s.modXl g).boot = s.boot := rfl
@[simp] theorem State.modXl_funcs (g : Xl → Xl) : (s.modXl g).funcs = s.funcs := rfl
@[simp] theorem State.modXl_queues (g : Xl → Xl) : (s.modXl g).queues = s.queues := rfl
@[simp] theorem State.modXl_tasks (g : Xl → Xl) : (s.modXl g).tasks = s.tasks := rfl
@[simp] theorem State.modXl_parts (g : Xl → Xl) : (s.modXl g).parts = s.parts := rfl
@[simp] theorem State.modXl_ports (g : Xl → Xl) : (s.modXl g).ports = s.ports := rfl
@[simp] theorem State.modXl_mtus (g : Xl → Xl) : (s.modXl g).mtus = s.mtus := rfl
@[simp] theorem State.modXl_suTurn (g : Xl → Xl) : (s.modXl g).suTurn = s.suTurn := rfl
@[simp] theorem State.modXl_chans (g : Xl → Xl) : (s.modXl g).chans = s.chans := rfl
@[simp] theorem State.modXl_objs (g : Xl → Xl) : (s.modXl g).objs = s.objs := rfl
@[simp] theorem State.modXl_sto (g : Xl → Xl) : (s.modXl g).sto = s.sto := rfl
@[simp] theorem State.modXl_wps (g : Xl → Xl) : (s.modXl g).wps = s.wps := rfl
@[simp] theorem State.modXl_xl (g : Xl → Xl) : (s.modXl g).xl = g s.xl := rfl
@[simp] theorem State.modXl_rbuf (g : Xl → Xl) : (s.modXl g).rbuf = s.rbuf := rfl
@[simp] theorem State.modXl_geq (g : Xl → Xl) : (s.modXl g).geq = s.geq := rfl
@[simp] theorem State.modXl_rcv (g : Xl → Xl) : (s.modXl g).rcv = s.rcv := rfl
@[simp] theorem State.modXl_sec (g : Xl → Xl) : (s.modXl g).sec = s.sec := rfl
@[simp] theorem State.modXl_cnt (g : Xl → Xl) : (s.modXl g).cnt = s.cnt := rfl
@[simp] theorem State.modXl_dbell (g : Xl → Xl) : (s.modXl g).dbell = s.dbell := rfl
@[simp] theorem State.modXl_fetch (g : Xl → Xl) : (s.modXl g).fetch = s.fetch := rfl
@[simp] theorem State.modXl_waitTasks (g : Xl → Xl) : (s.modXl g).waitTasks = s.waitTasks := rfl
@[simp] theorem State.modXl_out (g : Xl → Xl) : (s.modXl g).out = s.out := rfl
@[simp] theorem State.modXl_freeCtr (g : Xl → Xl) : (s.modXl g).freeCtr = s.freeCtr := rfl
@[simp] theorem State.modXl_stamp (g : Xl → Xl) : (s.modXl g).stamp = s.stamp := rfl
@[simp] theorem State.modXl_now (g : Xl → Xl) : (s.modXl g).now = s.now := rfl
@[simp] theorem State.modXl_func (g : Xl → Xl) (j : Nat) : (s.modXl g).func j = s.func j := rfl
@[simp] theorem State.modXl_queue (g : Xl → Xl) (j : Nat) : (s.modXl g).queue j = s.queue j := rfl
@[simp] theorem State.modXl_task (g : Xl → Xl) (j : Nat) : (s.modXl g).task j = s.task j := rfl
@[simp] theorem State.modXl_part (g : Xl → Xl) (j : Nat) : (s.modXl g).part j = s.part j := rfl
@[simp] theorem State.modXl_eport (g : Xl → Xl) (j : Nat) : (s.modXl g).eport j = s.eport j := rfl
@[simp] theorem State.modXl_chan (g : Xl → Xl) (j : Nat) : (s.modXl g).chan j = s.chan j := rfl
@[simp] theorem State.modXl_mtuHeld (g : Xl → Xl) (j : Nat) : (s.modXl g).mtuHeld j = s.mtuHeld j := rfl
@[simp] theorem State.modXl_obj (g : Xl → Xl) (j : Nat) : (s.modXl g).obj j = s.obj j := rfl
@[simp] theorem State.modXl_wp (g : Xl → Xl) (j : Nat) : (s.modXl g).wp j = s.wp j := rfl

/-! ### send -/

@[simp] theorem State.send_pending (o : Out) : (s.send o).pending = s.pending := rfl
@[simp] theorem State.send_latch (o : Out) : (s.send o).latch = s.latch := rfl
@[simp] theorem State.send_boot (o : Out) : (s.send o).boot = s.boot := rfl
@[simp] theorem State.send_funcs (o : Out) : (s.send o).funcs = s.funcs := rfl
@[simp] theorem State.send_queues (o : Out) : (s.send o).queues = s.queues := rfl
@[simp] theorem State.send_tasks (o : Out) : (s.send o).tasks = s.tasks := rfl
@[simp] theorem State.send_parts (o : Out) : (s.send o).parts = s.parts := rfl
@[simp] theorem State.send_ports (o : Out) : (s.send o).ports = s.ports := rfl
@[simp] theorem State.send_mtus (o : Out) : (s.send o).mtus = s.mtus := rfl
@[simp] theorem State.send_suTurn (o : Out) : (s.send o).suTurn = s.suTurn := rfl
@[simp] theorem State.send_chans (o : Out) : (s.send o).chans = s.chans := rfl
@[simp] theorem State.send_objs (o : Out) : (s.send o).objs = s.objs := rfl
@[simp] theorem State.send_sto (o : Out) : (s.send o).sto = s.sto := rfl
@[simp] theorem State.send_wps (o : Out) : (s.send o).wps = s.wps := rfl
@[simp] theorem State.send_xl (o : Out) : (s.send o).xl = s.xl := rfl
@[simp] theorem State.send_rbuf (o : Out) : (s.send o).rbuf = s.rbuf := rfl
@[simp] theorem State.send_geq (o : Out) : (s.send o).geq = s.geq := rfl
@[simp] theorem State.send_rcv (o : Out) : (s.send o).rcv = s.rcv := rfl
@[simp] theorem State.send_sec (o : Out) : (s.send o).sec = s.sec := rfl
@[simp] theorem State.send_cnt (o : Out) : (s.send o).cnt = s.cnt := rfl
@[simp] theorem State.send_dbell (o : Out) : (s.send o).dbell = s.dbell := rfl
@[simp] theorem State.send_fetch (o : Out) : (s.send o).fetch = s.fetch := rfl
@[simp] theorem State.send_waitTasks (o : Out) : (s.send o).waitTasks = s.waitTasks := rfl
@[simp] theorem State.send_out (o : Out) : (s.send o).out = o :: s.out := rfl
@[simp] theorem State.send_freeCtr (o : Out) : (s.send o).freeCtr = s.freeCtr := rfl
@[simp] theorem State.send_stamp (o : Out) : (s.send o).stamp = s.stamp := rfl
@[simp] theorem State.send_now (o : Out) : (s.send o).now = s.now := rfl
@[simp] theorem State.send_func (o : Out) (j : Nat) : (s.send o).func j = s.func j := rfl
@[simp] theorem State.send_queue (o : Out) (j : Nat) : (s.send o).queue j = s.queue j := rfl
@[simp] theorem State.send_task (o : Out) (j : Nat) : (s.send o).task j = s.task j := rfl
@[simp] theorem State.send_part (o : Out) (j : Nat) : (s.send o).part j = s.part j := rfl
@[simp] theorem State.send_eport (o : Out) (j : Nat) : (s.send o).eport j = s.eport j := rfl
@[simp] theorem State.send_chan (o : Out) (j : Nat) : (s.send o).chan j = s.chan j := rfl
@[simp] theorem State.send_mtuHeld (o : Out) (j : Nat) : (s.send o).mtuHeld j = s.mtuHeld j := rfl
@[simp] theorem State.send_obj (o : Out) (j : Nat) : (s.send o).obj j = s.obj j := rfl
@[simp] theorem State.send_wp (o : Out) (j : Nat) : (s.send o).wp j = s.wp j := rfl

/-! ### nextFree -/

@[simp] theorem State.nextFree_pending : (s.nextFree).pending = s.pending := rfl
@[simp] theorem State.nextFree_latch : (s.nextFree).latch = s.latch := rfl
@[simp] theorem State.nextFree_boot : (s.nextFree).boot = s.boot := rfl
@[simp] theorem State.nextFree_funcs : (s.nextFree).funcs = s.funcs := rfl
@[simp] theorem State.nextFree_queues : (s.nextFree).queues = s.queues := rfl
@[simp] theorem State.nextFree_tasks : (s.nextFree).tasks = s.tasks := rfl
@[simp] theorem State.nextFree_parts : (s.nextFree).parts = s.parts := rfl
@[simp] theorem State.nextFree_ports : (s.nextFree).ports = s.ports := rfl
@[simp] theorem State.nextFree_mtus : (s.nextFree).mtus = s.mtus := rfl
@[simp] theorem State.nextFree_suTurn : (s.nextFree).suTurn = s.suTurn := rfl
@[simp] theorem State.nextFree_chans : (s.nextFree).chans = s.chans := rfl
@[simp] theorem State.nextFree_objs : (s.nextFree).objs = s.objs := rfl
@[simp] theorem State.nextFree_sto : (s.nextFree).sto = s.sto := rfl
@[simp] theorem State.nextFree_wps : (s.nextFree).wps = s.wps := rfl
@[simp] theorem State.nextFree_xl : (s.nextFree).xl = s.xl := rfl
@[simp] theorem State.nextFree_rbuf : (s.nextFree).rbuf = s.rbuf := rfl
@[simp] theorem State.nextFree_geq : (s.nextFree).geq = s.geq := rfl
@[simp] theorem State.nextFree_rcv : (s.nextFree).rcv = s.rcv := rfl
@[simp] theorem State.nextFree_sec : (s.nextFree).sec = s.sec := rfl
@[simp] theorem State.nextFree_cnt : (s.nextFree).cnt = s.cnt := rfl
@[simp] theorem State.nextFree_dbell : (s.nextFree).dbell = s.dbell := rfl
@[simp] theorem State.nextFree_fetch : (s.nextFree).fetch = s.fetch := rfl
@[simp] theorem State.nextFree_waitTasks : (s.nextFree).waitTasks = s.waitTasks := rfl
@[simp] theorem State.nextFree_out : (s.nextFree).out = s.out := rfl
@[simp] theorem State.nextFree_freeCtr : (s.nextFree).freeCtr = s.freeCtr + 1 := rfl
@[simp] theorem State.nextFree_stamp : (s.nextFree).stamp = s.stamp := rfl
@[simp] theorem State.nextFree_now : (s.nextFree).now = s.now := rfl
@[simp] theorem State.nextFree_func (j : Nat) : (s.nextFree).func j = s.func j := rfl
@[simp] theorem State.nextFree_queue (j : Nat) : (s.nextFree).queue j = s.queue j := rfl
@[simp] theorem State.nextFree_task (j : Nat) : (s.nextFree).task j = s.task j := rfl
@[simp] theorem State.nextFree_part (j : Nat) : (s.nextFree).part j = s.part j := rfl
@[simp] theorem State.nextFree_eport (j : Nat) : (s.nextFree).eport j = s.eport j := rfl
@[simp] theorem State.nextFree_chan (j : Nat) : (s.nextFree).chan j = s.chan j := rfl
@[simp] theorem State.nextFree_mtuHeld (j : Nat) : (s.nextFree).mtuHeld j = s.mtuHeld j := rfl
@[simp] theorem State.nextFree_obj (j : Nat) : (s.nextFree).obj j = s.obj j := rfl
@[simp] theorem State.nextFree_wp (j : Nat) : (s.nextFree).wp j = s.wp j := rfl

/-! ### nextStamp -/

@[simp] theorem State.nextStamp_pending : (s.nextStamp).pending = s.pending := rfl
@[simp] theorem State.nextStamp_latch : (s.nextStamp).latch = s.latch := rfl
@[simp] theorem State.nextStamp_boot : (s.nextStamp).boot = s.boot := rfl
@[simp] theorem State.nextStamp_funcs : (s.nextStamp).funcs = s.funcs := rfl
@[simp] theorem State.nextStamp_queues : (s.nextStamp).queues = s.queues := rfl
@[simp] theorem State.nextStamp_tasks : (s.nextStamp).tasks = s.tasks := rfl
@[simp] theorem State.nextStamp_parts : (s.nextStamp).parts = s.parts := rfl
@[simp] theorem State.nextStamp_ports : (s.nextStamp).ports = s.ports := rfl
@[simp] theorem State.nextStamp_mtus : (s.nextStamp).mtus = s.mtus := rfl
@[simp] theorem State.nextStamp_suTurn : (s.nextStamp).suTurn = s.suTurn := rfl
@[simp] theorem State.nextStamp_chans : (s.nextStamp).chans = s.chans := rfl
@[simp] theorem State.nextStamp_objs : (s.nextStamp).objs = s.objs := rfl
@[simp] theorem State.nextStamp_sto : (s.nextStamp).sto = s.sto := rfl
@[simp] theorem State.nextStamp_wps : (s.nextStamp).wps = s.wps := rfl
@[simp] theorem State.nextStamp_xl : (s.nextStamp).xl = s.xl := rfl
@[simp] theorem State.nextStamp_rbuf : (s.nextStamp).rbuf = s.rbuf := rfl
@[simp] theorem State.nextStamp_geq : (s.nextStamp).geq = s.geq := rfl
@[simp] theorem State.nextStamp_rcv : (s.nextStamp).rcv = s.rcv := rfl
@[simp] theorem State.nextStamp_sec : (s.nextStamp).sec = s.sec := rfl
@[simp] theorem State.nextStamp_cnt : (s.nextStamp).cnt = s.cnt := rfl
@[simp] theorem State.nextStamp_dbell : (s.nextStamp).dbell = s.dbell := rfl
@[simp] theorem State.nextStamp_fetch : (s.nextStamp).fetch = s.fetch := rfl
@[simp] theorem State.nextStamp_waitTasks : (s.nextStamp).waitTasks = s.waitTasks := rfl
@[simp] theorem State.nextStamp_out : (s.nextStamp).out = s.out := rfl
@[simp] theorem State.nextStamp_freeCtr : (s.nextStamp).freeCtr = s.freeCtr := rfl
@[simp] theorem State.nextStamp_stamp : (s.nextStamp).stamp = s.stamp + 1 := rfl
@[simp] theorem State.nextStamp_now : (s.nextStamp).now = s.now := rfl
@[simp] theorem State.nextStamp_func (j : Nat) : (s.nextStamp).func j = s.func j := rfl
@[simp] theorem State.nextStamp_queue (j : Nat) : (s.nextStamp).queue j = s.queue j := rfl
@[simp] theorem State.nextStamp_task (j : Nat) : (s.nextStamp).task j = s.task j := rfl
@[simp] theorem State.nextStamp_part (j : Nat) : (s.nextStamp).part j = s.part j := rfl
@[simp] theorem State.nextStamp_eport (j : Nat) : (s.nextStamp).eport j = s.eport j := rfl
@[simp] theorem State.nextStamp_chan (j : Nat) : (s.nextStamp).chan j = s.chan j := rfl
@[simp] theorem State.nextStamp_mtuHeld (j : Nat) : (s.nextStamp).mtuHeld j = s.mtuHeld j := rfl
@[simp] theorem State.nextStamp_obj (j : Nat) : (s.nextStamp).obj j = s.obj j := rfl
@[simp] theorem State.nextStamp_wp (j : Nat) : (s.nextStamp).wp j = s.wp j := rfl

/-! ### handshakes -/

@[simp] theorem State.handshakes_pending (k i n : Nat) : (s.handshakes k i n).pending = s.pending := rfl
@[simp] theorem State.handshakes_latch (k i n : Nat) : (s.handshakes k i n).latch = s.latch := rfl
@[simp] theorem State.handshakes_boot (k i n : Nat) : (s.handshakes k i n).boot = s.boot := rfl
@[simp] theorem State.handshakes_funcs (k i n : Nat) : (s.handshakes k i n).funcs = s.funcs := rfl
@[simp] theorem State.handshakes_queues (k i n : Nat) : (s.handshakes k i n).queues = s.queues := rfl
@[simp] theorem State.handshakes_tasks (k i n : Nat) : (s.handshakes k i n).tasks = s.tasks := rfl
@[simp] theorem State.handshakes_parts (k i n : Nat) : (s.handshakes k i n).parts = s.parts := rfl
@[simp] theorem State.handshakes_ports (k i n : Nat) : (s.handshakes k i n).ports = s.ports := rfl
@[simp] theorem State.handshakes_mtus (k i n : Nat) : (s.handshakes k i n).mtus = s.mtus := rfl
@[simp] theorem State.handshakes_suTurn (k i n : Nat) : (s.handshakes k i n).suTurn = s.suTurn := rfl
@[simp] theorem State.handshakes_chans (k i n : Nat) : (s.handshakes k i n).chans = s.chans := rfl
@[simp] theorem State.handshakes_objs (k i n : Nat) : (s.handshakes k i n).objs = s.objs := rfl
@[simp] theorem State.handshakes_sto (k i n : Nat) : (s.handshakes k i n).sto = s.sto := rfl
@[simp] theorem State.handshakes_wps (k i n : Nat) : (s.handshakes k i n).wps = s.wps := rfl
@[simp] theorem State.handshakes_xl (k i n : Nat) : (s.handshakes k i n).xl = s.xl := rfl
@[simp] theorem State.handshakes_rbuf (k i n : Nat) : (s.handshakes k i n).rbuf = s.rbuf := rfl
@[simp] theorem State.handshakes_geq (k i n : Nat) : (s.handshakes k i n).geq = s.geq := rfl
@[simp] theorem State.handshakes_rcv (k i n : Nat) : (s.handshakes k i n).rcv = s.rcv := rfl
@[simp] theorem State.handshakes_sec (k i n : Nat) : (s.handshakes k i n).sec = s.sec := rfl
@[simp] theorem State.handshakes_dbell (k i n : Nat) : (s.handshakes k i n).dbell = s.dbell := rfl
@[simp] theorem State.handshakes_fetch (k i n : Nat) : (s.handshakes k i n).fetch = s.fetch := rfl
@[simp] theorem State.handshakes_waitTasks (k i n : Nat) : (s.handshakes k i n).waitTasks = s.waitTasks := rfl
@[simp] theorem State.handshakes_out (k i n : Nat) : (s.handshakes k i n).out = s.out := rfl
@[simp] theorem State.handshakes_freeCtr (k i n : Nat) : (s.handshakes k i n).freeCtr = s.freeCtr := rfl
@[simp] theorem State.handshakes_stamp (k i n : Nat) : (s.handshakes k i n).stamp = s.stamp := rfl
@[simp] theorem State.handshakes_now (k i n : Nat) : (s.handshakes k i n).now = s.now := rfl
@[simp] theorem State.handshakes_func (k i n j : Nat) : (s.handshakes k i n).func j = s.func j := rfl
@[simp] theorem State.handshakes_queue (k i n j : Nat) : (s.handshakes k i n).queue j = s.queue j := rfl
@[simp] theorem State.handshakes_task (k i n j : Nat) : (s.handshakes k i n).task j = s.task j := rfl
@[simp] theorem State.handshakes_part (k i n j : Nat) : (s.handshakes k i n).part j = s.part j := rfl
@[simp] theorem State.handshakes_eport (k i n j : Nat) : (s.handshakes k i n).eport j = s.eport j := rfl
@[simp] theorem State.handshakes_chan (k i n j : Nat) : (s.handshakes k i n).chan j = s.chan j := rfl
@[simp] theorem State.handshakes_mtuHeld (k i n j : Nat) : (s.handshakes k i n).mtuHeld j = s.mtuHeld j := rfl
@[simp] theorem State.handshakes_obj (k i n j : Nat) : (s.handshakes k i n).obj j = s.obj j := rfl
@[simp] theorem State.handshakes_wp (k i n j : Nat) : (s.handshakes k i n).wp j = s.wp j := rfl
@[simp] theorem State.handshakes_hands_self (k i n : Nat) :
    (s.handshakes k i n).hands (ckey k i) = (s.hands (ckey k i) + n) % 2 ^ 32 := Tab.get_set_self _ _ _ _

end Sys2Proof.Machine
end

