-- ==== Sys2Proof/Laws/Done.lean ====
section
/-! SUPPORT. How a command ends: the outcome is a next state, and beyond what the command did only the level events may
have counted. The algebra of `State.only`, and what counting changes. -/

namespace Sys2Proof.Machine

set_option Elab.async false

/-! ### `State.only` -/

theorem State.only_refl (s : State) (l : List Field) : s.only s l := by
  intro f _
  cases f <;> rfl

theorem State.only_mono {s t : State} {l m : List Field} (h : s.only t l) (hl : ∀ f ∈ l, f ∈ m) : s.only t m :=
  fun f hf => h f fun hm => hf (hl f hm)

/-- Widen a frame to a list that holds it; the containment is decided. -/
theorem State.only.sub {s t : State} {l m : List Field} (h : s.only t l)
    (hl : (l.all fun f => m.contains f) = true := by decide) : s.only t m :=
  State.only_mono h fun f hf => by simpa using List.all_eq_true.mp hl f hf

theorem State.only_trans {s t u : State} {l : List Field} (h : s.only t l) (g : t.only u l) : s.only u l := by
  intro f hf
  have h1 := h f hf
  have h2 := g f hf
  cases f <;> exact h2.trans h1

/-- `State.only_trans` with the later change first. -/
theorem State.only_after {s t u : State} {l : List Field} (g : t.only u l) (h : s.only t l) : s.only u l :=
  State.only_trans h g

/-- Two changes after one another, each within its own parts. -/
theorem State.only_append {s t u : State} {l m : List Field} (h : s.only t l) (g : t.only u m) : s.only u (l ++ m) :=
  State.only_trans (State.only_mono h fun _ hf => List.mem_append_left _ hf)
    (State.only_mono g fun _ hf => List.mem_append_right _ hf)

theorem State.only_each {α : Type} {l : List Field} (g : State → α → State) (hg : ∀ u a, State.only u (g u a) l)
    (as : List α) : ∀ s : State, s.only (s.each as g) l := by
  induction as with
  | nil => exact fun s => State.only_refl s l
  | cons a t ih => exact fun s => State.only_trans (hg s a) (ih (g s a))

/-- What each application keeps, a fold over a list keeps. -/
theorem State.each_keeps {α : Type} {P : State → Prop} {g : State → α → State} (hg : ∀ u a, P u → P (g u a))
    (as : List α) : ∀ s : State, P s → P (s.each as g) := by
  induction as with
  | nil => exact fun s h => h
  | cons a t ih => exact fun s h => ih _ (hg s a h)

theorem State.only_ite {s t u : State} {l : List Field} (c : Prop) [Decidable c] (h : s.only t l) (g : s.only u l) :
    s.only (if c then t else u) l := by
  split <;> assumption

/-! ### Each update stays within its part -/

section
variable (s : State)

theorem State.only_modFunc (k : Nat) (g : Func → Func) : s.only (s.modFunc k g) [.funcs] := by
  intro f hf; cases f <;> first | rfl | exact absurd (List.mem_singleton.mpr rfl) hf
theorem State.only_modQueue (k : Nat) (g : Queue → Queue) : s.only (s.modQueue k g) [.queues] := by
  intro f hf; cases f <;> first | rfl | exact absurd (List.mem_singleton.mpr rfl) hf
theorem State.only_modTask (k : Nat) (g : Task → Task) : s.only (s.modTask k g) [.tasks] := by
  intro f hf; cases f <;> first | rfl | exact absurd (List.mem_singleton.mpr rfl) hf
theorem State.only_modPart (k : Nat) (g : Part → Part) : s.only (s.modPart k g) [.parts] := by
  intro f hf; cases f <;> first | rfl | exact absurd (List.mem_singleton.mpr rfl) hf
theorem State.only_modPort (k : Nat) (g : EPort → EPort) : s.only (s.modPort k g) [.ports] := by
  intro f hf; cases f <;> first | rfl | exact absurd (List.mem_singleton.mpr rfl) hf
theorem State.only_modChan (k : Nat) (g : Chan → Chan) : s.only (s.modChan k g) [.chans] := by
  intro f hf; cases f <;> first | rfl | exact absurd (List.mem_singleton.mpr rfl) hf
theorem State.only_modObj (k : Nat) (g : Obj → Obj) : s.only (s.modObj k g) [.objs] := by
  intro f hf; cases f <;> first | rfl | exact absurd (List.mem_singleton.mpr rfl) hf
theorem State.only_modWp (k : Nat) (g : Wp → Wp) : s.only (s.modWp k g) [.wps] := by
  intro f hf; cases f <;> first | rfl | exact absurd (List.mem_singleton.mpr rfl) hf
theorem State.only_modMtu (k : Nat) (g : Nat → Nat) : s.only (s.modMtu k g) [.mtus] := by
  intro f hf; cases f <;> first | rfl | exact absurd (List.mem_singleton.mpr rfl) hf
theorem State.only_modWps (g : WpStore → WpStore) : s.only (s.modWps g) [.wps] := by
  intro f hf; cases f <;> first | rfl | exact absurd (List.mem_singleton.mpr rfl) hf
theorem State.only_modBoot (g : Boot → Boot) : s.only (s.modBoot g) [.boot] := by
  intro f hf; cases f <;> first | rfl | exact absurd (List.mem_singleton.mpr rfl) hf
theorem State.only_modSto (g : Storage → Storage) : s.only (s.modSto g) [.sto] := by
  intro f hf; cases f <;> first | rfl | exact absurd (List.mem_singleton.mpr rfl) hf
theorem State.only_modRcv (g : Rcv → Rcv) : s.only (s.modRcv g) [.rcv] := by
  intro f hf; cases f <;> first | rfl | exact absurd (List.mem_singleton.mpr rfl) hf
theorem State.only_modSec (g : Sec → Sec) : s.only (s.modSec g) [.sec] := by
  intro f hf; cases f <;> first | rfl | exact absurd (List.mem_singleton.mpr rfl) hf
theorem State.only_modCnt (g : Cnt → Cnt) : s.only (s.modCnt g) [.cnt] := by
  intro f hf; cases f <;> first | rfl | exact absurd (List.mem_singleton.mpr rfl) hf
theorem State.only_modGeq (g : Geq → Geq) : s.only (s.modGeq g) [.geq] := by
  intro f hf; cases f <;> first | rfl | exact absurd (List.mem_singleton.mpr rfl) hf
theorem State.only_modXl (g : Xl → Xl) : s.only (s.modXl g) [.xl] := by
  intro f hf; cases f <;> first | rfl | exact absurd (List.mem_singleton.mpr rfl) hf
theorem State.only_send (o : Out) : s.only (s.send o) [.out] := by
  intro f hf; cases f <;> first | rfl | exact absurd (List.mem_singleton.mpr rfl) hf
theorem State.only_nextFree : s.only s.nextFree [.freeCtr] := by
  intro f hf; cases f <;> first | rfl | exact absurd (List.mem_singleton.mpr rfl) hf
theorem State.only_nextStamp : s.only s.nextStamp [.stamp] := by
  intro f hf; cases f <;> first | rfl | exact absurd (List.mem_singleton.mpr rfl) hf

end

/-! ### Counting -/

theorem State.only_cntRaw (s : State) (e inc : Nat) : s.only (s.cntRaw e inc) [.cnt] := State.only_modCnt s _

theorem State.only_tickN (s : State) (e inc : Nat) (p : Option Nat) : s.only (s.tickN e inc p) [.cnt] := by
  unfold State.tickN
  exact State.only_ite _ (State.only_cntRaw s e inc) (State.only_refl s _)

theorem State.only_tick (s : State) (e : Nat) (p : Option Nat) : s.only (s.tick e p) [.cnt] := State.only_tickN s e 1 p

theorem State.only_sampleLevel (s : State) (e v n : Nat) (p : Option Nat) : s.only (s.sampleLevel e v n p) [.cnt] := by
  unfold State.sampleLevel
  split
  · exact State.only_refl s _
  · split
    · exact State.only_cntRaw s _ _
    · exact State.only_ite _ (State.only_cntRaw s _ _) (State.only_refl s _)
    · exact State.only_refl s _

theorem State.only_levelEdge (s t : State) (e : Nat) : t.only (s.levelEdge t e) [.cnt] := by
  unfold State.levelEdge
  exact State.only_ite _ (State.only_cntRaw t e 1) (State.only_refl t _)

theorem State.only_levelEdges (s t : State) : t.only (s.levelEdges t) [.cnt] :=
  State.only_each (fun u e => s.levelEdge u e) (fun u e => State.only_levelEdge s u e) _ t

theorem State.only_vfTick (s : State) (fk i n : Nat) : s.only (s.vfTick fk i n) [.funcs] := by
  unfold State.vfTick
  exact State.only_ite _ (State.only_modFunc s _ _) (State.only_refl s _)

/-! ### A part that is the same holds the same entries -/

theorem State.func_of {s t : State} (h : t.funcs = s.funcs) (k : Nat) : t.func k = s.func k := by unfold State.func; rw [h]
theorem State.queue_of {s t : State} (h : t.queues = s.queues) (k : Nat) : t.queue k = s.queue k := by unfold State.queue; rw [h]
theorem State.task_of {s t : State} (h : t.tasks = s.tasks) (k : Nat) : t.task k = s.task k := by unfold State.task; rw [h]
theorem State.part_of {s t : State} (h : t.parts = s.parts) (k : Nat) : t.part k = s.part k := by unfold State.part; rw [h]
theorem State.eport_of {s t : State} (h : t.ports = s.ports) (k : Nat) : t.eport k = s.eport k := by unfold State.eport; rw [h]
theorem State.chan_of {s t : State} (h : t.chans = s.chans) (k : Nat) : t.chan k = s.chan k := by unfold State.chan; rw [h]
theorem State.obj_of {s t : State} (h : t.objs = s.objs) (k : Nat) : t.obj k = s.obj k := by unfold State.obj; rw [h]
theorem State.wp_of {s t : State} (h : t.wps = s.wps) (k : Nat) : t.wp k = s.wp k := by unfold State.wp; rw [h]
theorem State.mtuHeld_of {s t : State} (h : t.mtus = s.mtus) (k : Nat) : t.mtuHeld k = s.mtuHeld k := by unfold State.mtuHeld; rw [h]

/-! ### How a command ends -/

/-- A command that sets no latch answers a next state, which differs from what the command made of the state in the
counts of level events alone. -/
theorem done_next (s t : State) :
    ∃ u, done s t = .next u ∧ u.pending = s.pending ∧ u.latch = s.latch ∧ t.only u [.cnt, .pending, .latch] := by
  refine ⟨_, rfl, rfl, rfl, ?_⟩
  have h := State.only_levelEdges s t
  intro f hf
  simp only [List.mem_cons, List.not_mem_nil, or_false, not_or] at hf
  have := h f (by simpa using hf.1)
  cases f <;> first | exact this | simp at hf

/-- A command that may set latches keeps those that are set. -/
theorem doneL_next (s t : State) :
    ∃ u, doneL s t = .next u ∧ u.pending = s.pending ∧ u.latch = s.latch.join t.latch ∧
      t.only u [.cnt, .pending, .latch] := by
  refine ⟨_, rfl, rfl, rfl, ?_⟩
  have h := State.only_levelEdges s t
  intro f hf
  simp only [List.mem_cons, List.not_mem_nil, or_false, not_or] at hf
  have := h f (by simpa using hf.1)
  cases f <;> first | exact this | simp at hf

/-- The next state of a command that sets no latch: what the command left alone is left alone, but for the counts of level
events, and the parts it reached are as it made them. -/
theorem done_spec (s b : State) : ∃ u, done s b = .next u ∧ u.pending = s.pending ∧ u.latch = s.latch ∧
    (∀ f, f ∉ ([.cnt, .pending, .latch] : List Field) → f.same b u) ∧
    ∀ l : List Field, .cnt ∈ l → s.only b l → s.only u l := by
  obtain ⟨u, hu, hp, hl, ho⟩ := done_next s b
  refine ⟨u, hu, hp, hl, ho, fun l hc hs f hf => ?_⟩
  by_cases e1 : f = .pending
  · subst e1; exact hp
  · by_cases e2 : f = .latch
    · subst e2; exact hl
    · have a := hs f hf
      have b := ho f (by
        simp only [List.mem_cons, List.not_mem_nil, or_false, not_or]
        exact ⟨fun e => hf (e ▸ hc), e1, e2⟩)
      cases f <;> exact b.trans a

/-- Where tasks, MTU credits, dispatches in progress and power stay, no level event counts. -/
theorem State.levelEdges_same (s t : State) (ht : t.tasks = s.tasks) (hm : t.mtus = s.mtus)
    (hp : t.boot.power = s.boot.power)
    (hd : ∀ n, (t.part n).seqr.length = (s.part n).seqr.length := by intro _; rfl) : s.levelEdges t = t := by
  have h : ∀ e, s.levelEdge t e = t := by
    intro e
    have : s.level e (t.cntFilter e) = t.level e (t.cntFilter e) := by
      simp only [State.level, State.mtuHeldBy, ht, hm, hp, hd]
    simp [State.levelEdge, this]
  simp [State.levelEdges, h]

theorem done_same (s t : State) (ht : t.tasks = s.tasks) (hm : t.mtus = s.mtus)
    (hp : t.boot.power = s.boot.power) (hq : t.pending = s.pending) (hl : t.latch = s.latch)
    (hd : ∀ n, (t.part n).seqr.length = (s.part n).seqr.length := by intro _; rfl) : done s t = .next t := by
  rw [done, State.levelEdges_same s t ht hm hp hd, ← hq, ← hl]

theorem doneL_same (s t : State) (ht : t.tasks = s.tasks) (hm : t.mtus = s.mtus)
    (hp : t.boot.power = s.boot.power) (hq : t.pending = s.pending)
    (hd : ∀ n, (t.part n).seqr.length = (s.part n).seqr.length := by intro _; rfl) :
    doneL s t = .next { t with latch := s.latch.join t.latch } := by
  rw [doneL, State.levelEdges_same s t ht hm hp hd, ← hq]

@[simp] theorem Latch.join_self (l : Latch) : l.join l = l := by
  simp [Latch.join]

theorem Latch.join_of_le (a b : Latch) (h : a.le b = true) : a.join b = b := of_decide_eq_true h

theorem Latch.le_join (a b : Latch) : a.le (a.join b) = true := by
  simp [Latch.le, Latch.join]

end Sys2Proof.Machine
end

