-- ==== Sys2Proof/Laws/Mem.lean ====
section
/-! SUPPORT. Addressed storage: reading after writing, and the canonical form that every operation on a storage keeps. -/

namespace Sys2Proof.Machine

set_option Elab.async false

/-! ### Reading after writing -/

@[simp] theorem Mem.unlisted_write (d : Option Byte) (m : Mem) (a : Nat) (b : Byte) (x : Nat) :
    (m.write d a b).unlisted d x = m.unlisted d x := rfl

/-- A byte just written reads as what was written. -/
theorem Mem.read_write_self (d : Option Byte) (m : Mem) (a : Nat) (b : Byte) : (m.write d a b).read d a = some b := by
  have hz : (m.bad.filter fun w => w != a / 32).contains (a / 32) = false := by simp
  have hu : (m.write d a b).unlisted d a = m.unlisted d a := rfl
  by_cases h : m.unlisted d a = some b
  · simp only [Mem.read, hu]
    simp [Mem.write, h, Tab.find?_erase_self]
  · simp only [Mem.read, hu]
    simp [Mem.write, h]

/-- A write leaves every byte outside its 32-byte word alone, poison marks included. -/
theorem Mem.read_write_far (d : Option Byte) (m : Mem) (a : Nat) (b : Byte) (x : Nat) (h : x / 32 ≠ a / 32) :
    (m.write d a b).read d x = m.read d x := by
  have hx : x ≠ a := fun e => h (by rw [e])
  have hu : (m.write d a b).unlisted d x = m.unlisted d x := rfl
  have hb : (m.write d a b).bad.contains (x / 32) = m.bad.contains (x / 32) := by
    simp [Mem.write, h, List.contains_eq_mem]
  have hc : Tab.find? (m.write d a b).cells x = Tab.find? m.cells x := by
    by_cases hd : m.unlisted d a = some b
    · simp [Mem.write, hd, Tab.find?_erase_ne _ hx]
    · simp [Mem.write, hd, Tab.find?_put_ne _ b hx]
  simp only [Mem.read, hb, hc, hu]

/-! ### The canonical form -/

/-- No listed byte equals what its unlisted address reads as, and addresses rise from `lo`. -/
def Mem.cellsFrom (d : Option Byte) (m : Mem) : Nat → List Host.Cell → Prop
  | _, [] => True
  | lo, (a, b) :: t => lo ≤ a ∧ m.unlisted d a ≠ some b ∧ Mem.cellsFrom d m (a + 1) t

theorem Mem.cellsFrom_mono (d : Option Byte) (m : Mem) {lo hi : Nat} (l : List Host.Cell) (h : m.cellsFrom d hi l)
    (hl : lo ≤ hi) : m.cellsFrom d lo l := by
  cases l with
  | nil => trivial
  | cons c t => exact ⟨by have := h.1; omega, h.2.1, h.2.2⟩

theorem Mem.wf_iff (d : Option Byte) (m : Mem) : m.wf d = true ↔ m.cellsFrom d 0 m.cells := by
  have key : ∀ l : List Host.Cell, ∀ lo, (∀ c ∈ l, lo ≤ c.1) →
      ((Mem.rising l && l.all fun c => decide (m.unlisted d c.1 ≠ some c.2)) = true ↔ m.cellsFrom d lo l) := by
    intro l
    induction l with
    | nil => intro lo _; simp [Mem.rising, Mem.cellsFrom]
    | cons c t ih =>
      intro lo hlo
      obtain ⟨a, b⟩ := c
      cases t with
      | nil =>
        have := hlo (a, b) (by simp)
        simp [Mem.rising, Mem.cellsFrom, this]
      | cons c' t' =>
        obtain ⟨a', b'⟩ := c'
        have h0 := hlo (a, b) (by simp)
        simp only [Mem.rising, Mem.cellsFrom, List.all_cons, Bool.and_eq_true, decide_eq_true_eq] at ih ⊢
        constructor
        · rintro ⟨⟨hlt, hr⟩, hb, hb', hall⟩
          have hge : ∀ c ∈ ((a', b') :: t'), a + 1 ≤ c.1 := by
            have hsort : ∀ (l : List Host.Cell) (x : Nat) (y : Byte), Mem.rising ((x, y) :: l) = true →
                ∀ c ∈ l, x < c.1 := by
              intro l
              induction l with
              | nil => intro x y _ c hc; simp at hc
              | cons e l ihl =>
                intro x y hr c hc
                obtain ⟨e1, e2⟩ := e
                simp only [Mem.rising, Bool.and_eq_true, decide_eq_true_eq] at hr
                rcases List.mem_cons.mp hc with rfl | hc
                · exact hr.1
                · exact lt_trans hr.1 (ihl e1 e2 hr.2 c hc)
            intro c hc
            rcases List.mem_cons.mp hc with rfl | hc
            · exact hlt
            · exact Nat.succ_le_of_lt (lt_trans hlt (hsort t' a' b' hr c hc))
          exact ⟨h0, hb, (ih (a + 1) hge).mp ⟨hr, hb', hall⟩⟩
        · rintro ⟨_, hb, hlt, hb', hrest⟩
          have hge : ∀ c ∈ ((a', b') :: t'), a + 1 ≤ c.1 := by
            have hlow : ∀ (l : List Host.Cell) (x : Nat), m.cellsFrom d x l → ∀ c ∈ l, x ≤ c.1 := by
              intro l
              induction l with
              | nil => intro x _ c hc; simp at hc
              | cons e l ihl =>
                intro x hx c hc
                obtain ⟨e1, e2⟩ := e
                rcases List.mem_cons.mp hc with rfl | hc
                · exact hx.1
                · have h1 := ihl (e1 + 1) hx.2.2 c hc
                  have h2 := hx.1
                  omega
            exact hlow _ _ ⟨hlt, hb', hrest⟩
          obtain ⟨hr, hb1, hall⟩ := (ih (a + 1) hge).mpr ⟨hlt, hb', hrest⟩
          exact ⟨⟨by omega, hr⟩, hb, hb1, hall⟩
  exact key m.cells 0 (by simp)

theorem Mem.cellsFrom_congr (d : Option Byte) (m n : Mem) (h : ∀ x, m.unlisted d x = n.unlisted d x) :
    ∀ (l : List Host.Cell) (lo : Nat), m.cellsFrom d lo l → n.cellsFrom d lo l
  | [], _, _ => trivial
  | (_, _) :: t, _, hl => ⟨hl.1, by rw [← h]; exact hl.2.1, Mem.cellsFrom_congr d m n h t _ hl.2.2⟩

theorem Mem.cellsFrom_erase (d : Option Byte) (m : Mem) (k : Nat) :
    ∀ (l : List Host.Cell) (lo : Nat), m.cellsFrom d lo l → m.cellsFrom d lo (Tab.erase l k)
  | [], _, _ => trivial
  | (a, b) :: t, lo, h => by
    by_cases hk : a = k
    · simp only [Tab.erase, hk, if_true]
      exact Mem.cellsFrom_mono d m _ (Mem.cellsFrom_erase d m k t _ h.2.2) (by have := h.1; omega)
    · simp only [Tab.erase, hk, if_false]
      exact ⟨h.1, h.2.1, Mem.cellsFrom_erase d m k t _ h.2.2⟩

theorem Mem.cellsFrom_insert (d : Option Byte) (m : Mem) (k : Nat) (v : Byte) (hv : m.unlisted d k ≠ some v) :
    ∀ (l : List Host.Cell) (lo : Nat), lo ≤ k → Tab.find? l k = none → m.cellsFrom d lo l →
      m.cellsFrom d lo (Tab.insert l k v)
  | [], _, hlo, _, _ => ⟨hlo, hv, trivial⟩
  | (a, b) :: t, lo, hlo, hk, h => by
    by_cases hak : a = k
    · simp [Tab.find?, hak] at hk
    · simp only [Tab.find?, hak, if_false] at hk
      by_cases hl : a < k
      · simp only [Tab.insert, hl, if_true]
        exact ⟨h.1, h.2.1, Mem.cellsFrom_insert d m k v hv t _ (by omega) hk h.2.2⟩
      · simp only [Tab.insert, hl, if_false]
        exact ⟨hlo, hv, by omega, h.2.1, h.2.2⟩

/-- Writing a byte keeps the canonical form. -/
theorem Mem.wf_write (d : Option Byte) (m : Mem) (a : Nat) (b : Byte) (h : m.wf d = true) :
    (m.write d a b).wf d = true := by
  rw [Mem.wf_iff] at h ⊢
  by_cases hu : m.unlisted d a = some b
  · have hc : (m.write d a b).cells = Tab.erase m.cells a := by simp [Mem.write, hu]
    rw [hc]
    exact Mem.cellsFrom_congr d m (m.write d a b) (fun _ => rfl) _ _ (Mem.cellsFrom_erase d m a _ _ h)
  · have hc : (m.write d a b).cells = Tab.put m.cells a b := by simp [Mem.write, hu]
    rw [hc]
    exact Mem.cellsFrom_congr d m (m.write d a b) (fun _ => rfl) _ _
      (Mem.cellsFrom_insert d m a b hu _ _ (by omega) (Tab.find?_erase_self _ _) (Mem.cellsFrom_erase d m a _ _ h))

/-- Writing bytes keeps the canonical form. -/
theorem Mem.wf_writeBytes (d : Option Byte) (l : List Byte) :
    ∀ (m : Mem) (a : Nat), m.wf d = true → (m.writeBytes d a l).wf d = true := by
  induction l with
  | nil => exact fun m _ h => h
  | cons b t ih => exact fun m a h => ih _ _ (Mem.wf_write d m a b h)

theorem insertRising_mem (l : List Nat) (k x : Nat) : x ∈ insertRising l k ↔ x = k ∨ x ∈ l := by
  induction l with
  | nil => simp [insertRising]
  | cons i t ih =>
    unfold insertRising
    split
    · simp [ih]; tauto
    · split
      · next _ h => subst h; simp
      · simp

/-- Making a page zero keeps the canonical form. -/
theorem Mem.wf_zeroPage (d : Option Byte) (m : Mem) (p : Nat) (h : m.wf d = true) : (m.zeroPage d p).wf d = true := by
  rw [Mem.wf_iff] at h ⊢
  have hun : ∀ x, x / 4096 ≠ p → (m.zeroPage d p).unlisted d x = m.unlisted d x := by
    intro x hx
    by_cases hd : d = some 0
    · simp [Mem.unlisted, Mem.zeroPage, hd]
    · have hz : (m.zeroPage d p).zero = insertRising m.zero p := by
        unfold Mem.zeroPage
        exact if_neg hd
      simp only [Mem.unlisted, hz, List.contains_eq_mem, insertRising_mem, hx, false_or]
  have key : ∀ (l : List Host.Cell) (lo : Nat), m.cellsFrom d lo l →
      (m.zeroPage d p).cellsFrom d lo (l.filter fun c => c.1 / 4096 != p) := by
    intro l
    induction l with
    | nil => intro lo _; trivial
    | cons c t ih =>
      intro lo hl
      obtain ⟨a, b⟩ := c
      by_cases hp : a / 4096 = p
      · have : ((a, b) :: t).filter (fun c : Host.Cell => c.1 / 4096 != p) = t.filter fun c => c.1 / 4096 != p := by
          simp [hp]
        rw [this]
        exact Mem.cellsFrom_mono d _ _ (ih _ hl.2.2) (by have := hl.1; omega)
      · have : ((a, b) :: t).filter (fun c : Host.Cell => c.1 / 4096 != p) =
            (a, b) :: t.filter fun c => c.1 / 4096 != p := by simp [hp]
        rw [this]
        exact ⟨hl.1, by rw [hun a hp]; exact hl.2.1, ih _ hl.2.2⟩
  exact key _ _ h

theorem Mem.wf_zeroPages (d : Option Byte) (l : List Nat) : ∀ m : Mem, m.wf d = true → (m.zeroPages d l).wf d = true := by
  induction l with
  | nil => exact fun m h => h
  | cons p t ih => exact fun m h => ih _ (Mem.wf_zeroPage d m p h)

/-- A poison mark keeps the canonical form. -/
theorem Mem.wf_poison (d : Option Byte) (m : Mem) (w : Nat) (h : m.wf d = true) : (m.poison w).wf d = true := h

theorem Mem.wf_copyByte (d : Option Byte) (m : Mem) (src dst : Nat) (h : m.wf d = true) :
    (m.copyByte d src dst).wf d = true := by
  unfold Mem.copyByte
  split
  · exact Mem.wf_write d m dst _ h
  · exact h

end Sys2Proof.Machine
end

