-- ==== Sys2Proof/Laws/Ops.lean ====
section
/-! SUPPORT. What each shared operation of Machine/Ops.lean may change: refusals, interrupts, translations, host accesses,
the Global Error Queue, storage. -/

namespace Sys2Proof.Machine

set_option Elab.async false

/-! ### Refusals, interrupts, error bits -/

theorem State.only_denied (s : State) (p : Nat) : s.only (s.denied p) [.funcs] := State.only_modFunc s _ _
theorem State.only_refuse (s : State) (p c o : Nat) : s.only (s.refuse p c o) [.funcs] := State.only_modFunc s _ _
theorem State.only_notOperator (s : State) (p o : Nat) : s.only (s.notOperator p o) [.funcs] :=
  State.only_trans (State.only_denied s p) (State.only_refuse _ _ _ _)

/-- A write to an Operator-only register changes functions alone where it is refused. -/
theorem State.only_opWrite (s : State) (p o : Nat) (g : State → State) {l : List Field} (hl : .funcs ∈ l)
    (hg : s.only (g s) l) : s.only (s.opWrite p o g) l := by
  unfold State.opWrite
  refine State.only_ite _ (State.only_refl s _) (State.only_ite _ hg ?_)
  exact State.only_mono (State.only_notOperator s p o) (by simpa using hl)

/-- The Operator PF's write to a register only it may write. -/
theorem State.opWrite_op (s : State) (p o : Nat) (g : State → State) (hl : (s.func (pfKey p)).linkUp = true)
    (ho : s.boot.operator = some p) : s.opWrite p o g = g s := by
  simp [State.opWrite, hl, State.isOp, ho]

/-- Another PF's write is refused with NOT_OPERATOR and counted (02 R39, R42). -/
theorem State.opWrite_other (s : State) (p o : Nat) (g : State → State) (hl : (s.func (pfKey p)).linkUp = true)
    (ho : s.boot.operator ≠ some p) : s.opWrite p o g = s.notOperator p o := by
  simp [State.opWrite, hl, State.isOp, ho]

theorem State.only_signalVec (s : State) (fk v : Nat) : s.only (s.signalVec fk v) [.funcs, .out] := by
  unfold State.signalVec
  exact State.only_ite _ (State.only_send s _).sub (State.only_modFunc s _ _).sub

theorem State.only_signalQueue (s : State) (qk : Nat) : s.only (s.signalQueue qk) [.funcs, .out] := by
  unfold State.signalQueue
  exact State.only_ite _ (State.only_signalVec s _ _) (State.only_refl s _)

theorem State.only_setErrBit (s : State) (qk : Nat) : s.only (s.setErrBit qk) [.funcs, .out] := by
  unfold State.setErrBit
  exact State.only_ite _ (State.only_refl s _)
    (State.only_trans (State.only_modFunc s _ _).sub (State.only_signalQueue _ _))

theorem State.only_bumpReport (s : State) : s.only s.bumpReport [.funcs, .sec] :=
  State.only_trans ((State.only_each _ (fun u p => State.only_modFunc u _ _) _ _).sub) (State.only_modSec _ _).sub

theorem State.only_withdrawKeys (s : State) (f : Key → Bool) : s.only (s.withdrawKeys f) [.sec] := State.only_modSec s _

/-! ### Storage -/

theorem State.only_writeLoc (s : State) (l : Loc) (b : Option Byte) : s.only (s.writeLoc l b) [.sto] := by
  unfold State.writeLoc
  split
  all_goals first
    | exact State.only_modSto s _
    | exact State.only_refl s _

theorem State.only_writeRange (l : List (Option Byte)) :
    ∀ (s : State) (x : Loc), s.only (s.writeRange x l) [.sto] := by
  induction l with
  | nil => exact fun s _ => State.only_refl s _
  | cons b t ih => exact fun s x => State.only_trans (State.only_writeLoc s x b) (ih _ _)

theorem State.only_handshakes (s : State) (k i n : Nat) : s.only (s.handshakes k i n) [.cnt] := by
  intro f hf
  cases f <;> first | rfl | simp at hf

theorem State.only_sendWrite (s : State) (sp : Space) (l : List (Option Byte)) (x : Loc) :
    s.only (s.sendWrite sp l x) [.out, .cnt] := by
  cases x <;> first
    | exact State.only_refl s _
    | exact State.only_after (State.only_send _ _).sub (State.only_handshakes s _ _ _).sub

theorem State.only_hostWriteP (s : State) (sp : Space) (a : Nat) (l : List (Option Byte)) :
    s.only (s.hostWriteP sp a l) [.out, .cnt, .sto] := by
  refine State.only_each _ (fun u c => ?_) _ s
  split
  · exact State.only_after (State.only_writeRange _ _ _).sub (State.only_sendWrite u _ _ _).sub
  · exact State.only_refl u _

theorem State.only_hostWrite (s : State) (sp : Space) (a : Nat) (l : List Byte) :
    s.only (s.hostWrite sp a l) [.out, .cnt, .sto] := State.only_hostWriteP s sp a _

theorem State.only_ctxRefuse (s : State) : s.only s.ctxRefuse [.objs] := by
  intro f hf
  cases f <;> first | rfl | simp at hf

/-- What a write of the VAI's own records may change, written or not. -/
theorem State.only_ownWrite (s : State) (sp : Space) (a : Nat) (l : List Byte) :
    s.only (s.ownWrite sp a l).1 [.out, .cnt, .sto, .xl, .freeCtr, .objs] := by
  have hput : ∀ u : State, u.only (if u.ctxBad sp a l.length = true then (u.ctxRefuse, false) else (u.hostWrite sp a l, true)).1
      [.out, .cnt, .sto, .xl, .freeCtr, .objs] := by
    intro u
    split
    · exact (State.only_ctxRefuse u).sub
    · exact (State.only_hostWrite u sp a l).sub
  unfold State.ownWrite
  dsimp only
  split
  · exact State.only_refl s _
  · split
    · split
      · exact hput s
      · exact State.only_refl s _
    · split
      · exact (State.only_nextFree s).sub
      · exact State.only_after (State.only_modXl _ _).sub (State.only_after (hput _)
          (State.only_after (State.only_modXl _ _).sub (State.only_nextFree s).sub))

theorem State.objsKept_refl (s : State) : s.objsKept s := ⟨s.objs.ctxRefused, rfl⟩

theorem State.objsKept_of_objs {s t : State} (h : t.objs = s.objs) : s.objsKept t := ⟨s.objs.ctxRefused, h⟩

theorem State.objsKept_trans {s t u : State} (h : s.objsKept t) (g : t.objsKept u) : s.objsKept u := by
  obtain ⟨c, hc⟩ := h
  obtain ⟨d, hd⟩ := g
  exact ⟨d, by rw [hd, hc]⟩

/-- Of the objects' part, a write of the VAI's own records changes at most the count of refused requests. -/
theorem State.objsKept_ownWrite (s : State) (sp : Space) (a : Nat) (l : List Byte) : s.objsKept (s.ownWrite sp a l).1 := by
  have hput : ∀ u : State, u.objsKept (if u.ctxBad sp a l.length = true then (u.ctxRefuse, false) else (u.hostWrite sp a l, true)).1 := by
    intro u
    split
    · exact ⟨_, rfl⟩
    · exact State.objsKept_of_objs (State.only_hostWrite u sp a l .objs (by decide))
  unfold State.ownWrite
  dsimp only
  split
  · exact State.objsKept_refl s
  · split
    · split
      · exact hput s
      · exact State.objsKept_refl s
    · split
      · exact State.objsKept_refl s
      · exact hput (s.nextFree.modXl _)

theorem State.objsKept_of_ownWrite {s u : State} {sp : Space} {a : Nat} {l : List Byte} {b : Bool}
    (h : s.ownWrite sp a l = (u, b)) : s.objsKept u := by
  have := State.objsKept_ownWrite s sp a l
  rwa [h] at this

theorem State.only_of_ownWrite {s u : State} {sp : Space} {a : Nat} {l : List Byte} {b : Bool}
    (h : s.ownWrite sp a l = (u, b)) : s.only u [.out, .cnt, .sto, .xl, .freeCtr, .objs] := by
  have := State.only_ownWrite s sp a l
  rwa [h] at this

theorem State.only_holdUnit (s : State) (u : Nat) (w : WUnit) : s.only (s.holdUnit u w) [.sto] := State.only_modSto s _
theorem State.only_freeUnit (s : State) (u : Nat) : s.only (s.freeUnit u) [.sto] := State.only_modSto s _
theorem State.only_zeroPage (s : State) (p : PageRef) : s.only (s.zeroPage p) [.sto] := by
  cases p <;> exact State.only_modSto s _

theorem State.only_freePage (s : State) (p : PageRef) : s.only (s.freePage p) [.sto] := by
  unfold State.freePage
  split
  · exact State.only_modSto s _
  · split
    · exact State.only_ite _ (State.only_freeUnit s _) (State.only_holdUnit s _ _)
    · exact State.only_refl s _

theorem State.only_freePages (s : State) (l : List PageRef) : s.only (s.freePages l) [.sto] :=
  State.only_each _ State.only_freePage l s

/-! ### The storage keeps its canonical form -/

/-- Every storage is in canonical form. -/
def State.stoWf (s : State) : Prop :=
  s.sto.ws.wf none = true ∧ s.sto.pkg.wf (some 0) = true ∧ ∀ p, (s.hostMem p).wf (some 0) = true

theorem State.reset_stoWf : State.reset.stoWf := ⟨rfl, rfl, fun _ => rfl⟩

theorem State.writeLoc_stoWf (s : State) (l : Loc) (b : Option Byte) (h : s.stoWf) : (s.writeLoc l b).stoWf := by
  obtain ⟨hw, hp, hh⟩ := h
  cases l with
  | ws a =>
    refine ⟨?_, hp, hh⟩
    cases b with
    | none => exact Mem.wf_poison none _ _ hw
    | some v => exact Mem.wf_write none _ _ _ hw
  | pkg a =>
    refine ⟨hw, ?_, hh⟩
    cases b with
    | none => exact Mem.wf_poison (some 0) _ _ hp
    | some v => exact Mem.wf_write (some 0) _ _ _ hp
  | host p a =>
    refine ⟨hw, hp, fun q => ?_⟩
    have hg : ∀ m : Mem, (s.modSto fun x => { x with host := Tab.set Mem.empty x.host p m }).hostMem q =
        if q = p then m else s.hostMem q := fun m => Tab.get_set _ _ _ _ _
    have hm : ∀ m : Mem, m.wf (some 0) = true →
        ((s.modSto fun x => { x with host := Tab.set Mem.empty x.host p m }).hostMem q).wf (some 0) = true := by
      intro m hm
      rw [hg]
      split
      · exact hm
      · exact hh q
    cases b with
    | none => exact hm _ (Mem.wf_poison (some 0) _ (a / 32) (hh p))
    | some v => exact hm _ (Mem.wf_write (some 0) _ a v (hh p))
  | peer _ _ _ => exact ⟨hw, hp, hh⟩
  | refused => exact ⟨hw, hp, hh⟩

theorem State.writeRange_stoWf (l : List (Option Byte)) :
    ∀ (s : State) (x : Loc), s.stoWf → (s.writeRange x l).stoWf := by
  induction l with
  | nil => exact fun s _ h => h
  | cons b t ih => exact fun s x h => ih _ _ (State.writeLoc_stoWf s x b h)

theorem State.hostWriteP_stoWf (s : State) (sp : Space) (a : Nat) (l : List (Option Byte)) (h : s.stoWf) :
    (s.hostWriteP sp a l).stoWf := by
  refine State.each_keeps (P := State.stoWf) (fun u c hu => ?_) _ s h
  split
  · next x _ =>
    refine State.writeRange_stoWf _ _ _ ?_
    cases x <;> exact hu
  · exact hu

theorem State.zeroPage_stoWf (s : State) (p : PageRef) (h : s.stoWf) : (s.zeroPage p).stoWf := by
  cases p with
  | ws p => exact ⟨Mem.wf_zeroPage none _ _ h.1, h.2.1, h.2.2⟩
  | pkg p => exact ⟨h.1, Mem.wf_zeroPage (some 0) _ _ h.2.1, h.2.2⟩

/-! ### Host requests and translations -/

theorem State.only_issueReq (s : State) (p : Nat) (k : ReqKind) (w : Who) (d : Nat) :
    s.only (s.issueReq p k w d) [.xl, .cnt] := by
  unfold State.issueReq
  split
  · exact State.only_after (State.only_modXl _ _).sub (State.only_handshakes s _ _ _).sub
  · exact State.only_refl s _

theorem State.only_priPump (s : State) (p : Nat) : s.only (s.priPump p) [.xl, .cnt, .funcs, .out] := by
  unfold State.priPump
  split
  · split
    · exact State.only_refl s _
    · exact State.only_trans (State.only_modXl s _).sub
        (State.only_trans (State.only_tick _ _ _).sub (State.only_trans (State.only_vfTick _ _ _ _).sub (State.only_send _ _).sub))
  · exact State.only_refl s _

theorem State.only_askPage (s : State) (w : Who) (sp : Space) (g : Nat) (b : Bool) :
    s.only (s.askPage w sp g b) [.xl, .cnt, .funcs, .out] := by
  unfold State.askPage
  split
  · exact (State.only_modXl s _).sub
  · exact State.only_trans (State.only_modXl s _).sub (State.only_priPump _ _)

theorem State.only_useX (s : State) (w : Who) (sp : Space) (g : Nat) : s.only (s.useX w sp g) [.xl] := by
  unfold State.useX
  exact State.only_ite _ (State.only_refl s _) (State.only_modXl s _)

theorem State.only_priFailed (s : State) : s.only s.priFailed [.objs] := by
  intro f hf
  cases f <;> first | rfl | simp at hf

theorem State.only_tryPage (s : State) (w : Who) (sp : Space) (g : Nat) (b : Bool) :
    s.only (s.tryPage w sp g b).1 [.xl, .cnt, .funcs, .out, .objs] := by
  have h1 : s.only (s.dropFail w (.xlate sp g)) [.xl, .cnt, .funcs, .out, .objs] := (State.only_modXl s _).sub
  have h2 : s.only (s.useX w sp g) [.xl, .cnt, .funcs, .out, .objs] := (State.only_useX s w sp g).sub
  have h3 : s.only s.priFailed [.xl, .cnt, .funcs, .out, .objs] := (State.only_priFailed s).sub
  have h4 : s.only (s.askPage w sp g b) [.xl, .cnt, .funcs, .out, .objs] := (State.only_askPage s w sp g b).sub
  have h5 : s.only ((s.tick 0x100 (some (s.partOf sp.fk))).issueReq sp.port (.xlate sp g) w 0)
      [.xl, .cnt, .funcs, .out, .objs] :=
    State.only_after (State.only_issueReq _ _ _ _ _).sub (State.only_tick s _ _).sub
  have h0 := State.only_refl s [.xl, .cnt, .funcs, .out, .objs]
  unfold State.tryPage
  split
  · exact h1
  · split
    · exact h0
    · split
      · next e _ =>
        dsimp only
        generalize (if b = true then e.w else e.r) = c
        generalize ((s.func (s.priPf sp.fk)).lockout || !(s.func (s.priPf sp.fk)).priEn) = d
        cases c
        · cases d
          · exact h4
          · exact h3
        · exact h2
      · split
        · exact h0
        · dsimp only
          exact h5

theorem State.only_tryPages (w : Who) (sp : Space) (b : Bool) :
    ∀ (n : Nat) (s : State) (g : Nat), s.only (s.tryPages w sp b g n).1 [.xl, .cnt, .funcs, .out, .objs] := by
  intro n
  induction n with
  | zero => exact fun s g => State.only_refl s _
  | succ n ih =>
    intro s g
    unfold State.tryPages
    have h := State.only_tryPage s w sp g b
    split
    · next t e he =>
      rw [he] at h
      exact State.only_trans h (ih t (g + 1))
    · exact h

theorem State.only_tryRange (s : State) (w : Who) (sp : Space) (a n : Nat) (b : Bool) :
    s.only (s.tryRange w sp a n b).1 [.xl, .cnt, .funcs, .out, .objs] := State.only_tryPages w sp b _ s _

/-! ### The Global Error Queue -/

theorem State.only_geqMirror (s : State) (r : GeqRec) :
    s.only (s.geqMirror r) [.out, .cnt, .sto, .xl, .freeCtr, .objs] := by
  unfold State.geqMirror
  split
  · exact State.only_ite _ (State.only_ownWrite s _ _ _) (State.only_refl s _)
  · exact State.only_refl s _

theorem State.only_geqIrq (s : State) : s.only s.geqIrq [.funcs, .out] := by
  unfold State.geqIrq
  split
  · exact State.only_ite _ (State.only_signalVec s _ _) (State.only_refl s _)
  · exact State.only_refl s _

/-- The parts that posting a record may change. -/
theorem State.only_geqPost (s : State) (r : GeqRec) (k : Option GKey) :
    s.only (s.geqPost r k) [.geq, .cnt, .funcs, .out, .sto, .xl, .freeCtr, .objs] := by
  unfold State.geqPost
  split
  · exact (State.only_modGeq s _).sub
  · split
    · exact (State.only_modGeq s _).sub
    · have h : s.only (((s.geqMirror (s.geqStamped r k)).modGeq fun g => g.put s.now (s.geqStamped r k) k).tick 0x1C0 none)
          [.geq, .cnt, .funcs, .out, .sto, .xl, .freeCtr, .objs] :=
        State.only_after (State.only_tick _ _ _).sub (State.only_after (State.only_modGeq _ _).sub (State.only_geqMirror s _).sub)
      exact State.only_ite _ h (State.only_after (State.only_geqIrq _).sub h)

/-- A record that the limit does not hold back and that finds room is posted (13 R354 to R356). -/
theorem State.geqPost_geq (s : State) (r : GeqRec) (k : Option GKey) (hk : (k.any fun k => s.limited k) = false)
    (hf : s.geq.full = false) : (s.geqPost r k).geq = s.geq.put s.now (s.geqStamped r k) k := by
  have hm : (s.geqMirror (s.geqStamped r k)).geq = s.geq := State.only_geqMirror s _ .geq (by decide)
  have h2 := State.only_tick ((s.geqMirror (s.geqStamped r k)).modGeq fun g => g.put s.now (s.geqStamped r k) k)
      0x1C0 none .geq (by decide)
  have h3 : (((s.geqMirror (s.geqStamped r k)).modGeq fun g => g.put s.now (s.geqStamped r k) k).tick 0x1C0 none).geq =
      s.geq.put s.now (s.geqStamped r k) k := h2.trans (by rw [State.modGeq_geq, hm])
  have h1 := State.only_geqIrq (((s.geqMirror (s.geqStamped r k)).modGeq fun g => g.put s.now (s.geqStamped r k) k).tick
      0x1C0 none) .geq (by decide)
  simp only [State.geqPost, hk, hf, Bool.false_eq_true, if_false]
  split
  · exact h3
  · exact h1.trans h3

theorem State.only_geqNotice (s : State) (q st : Nat) :
    s.only (s.geqNotice q st) [.geq, .cnt, .funcs, .out, .sto, .xl, .freeCtr, .objs] := State.only_geqPost s _ _

theorem State.only_notice (s : State) (q st : Nat) :
    s.only (s.notice q st) [.geq, .cnt, .funcs, .out, .sto, .xl, .freeCtr, .objs] :=
  State.only_trans (State.only_setErrBit s q).sub (State.only_geqNotice _ _ _)

theorem State.only_geqChannel (s : State) (a b c d e : Nat) :
    s.only (s.geqChannel a b c d e) [.geq, .cnt, .funcs, .out, .sto, .xl, .freeCtr, .objs] := State.only_geqPost s _ _

end Sys2Proof.Machine
end

