-- ==== Sys2Proof/Laws/Counters.lean ====
section
/-! SUPPORT. What counting and the precise sampler may change. -/

namespace Sys2Proof.Machine

set_option Elab.async false

theorem State.only_tagItem (s : State) (g : Tagged) : s.only (s.tagItem g) [.cnt, .freeCtr] := by
  unfold State.tagItem
  dsimp only
  refine State.only_ite _ ?_ (State.only_refl s _)
  exact State.only_ite _ (State.only_after (State.only_tick _ _ _).sub (State.only_after (State.only_modCnt _ _).sub
    (State.only_nextFree s).sub)) (State.only_nextFree s).sub

/-- With sampling off nothing is tagged. -/
theorem State.tagItem_off (s : State) (g : Tagged) (h : bit s.cnt.smpCfg 0 = false) : s.tagItem g = s := by
  simp [State.tagItem, h]

theorem State.only_sampleLost (s : State) : s.only s.sampleLost [.cnt] :=
  State.only_after (State.only_tick _ _ _) (State.only_modCnt s _)

theorem State.only_writeSample (s : State) (g : Tagged) (k : Bool) :
    s.only (s.writeSample g k) [.cnt, .out, .sto, .xl, .freeCtr, .objs] := by
  unfold State.writeSample
  dsimp only
  split
  · exact (State.only_sampleLost s).sub
  · split
    · exact (State.only_sampleLost s).sub
    · split
      · next u hu =>
        have h : s.only u [.cnt, .out, .sto, .xl, .freeCtr, .objs] := (State.only_of_ownWrite hu).sub
        exact State.only_trans h (State.only_sampleLost u).sub
      · next u hu =>
        have h : s.only u [.cnt, .out, .sto, .xl, .freeCtr, .objs] := (State.only_of_ownWrite hu).sub
        have h2 : u.only { u with freeCtr := u.freeCtr + 4, cnt := { u.cnt with
            smpTail := (u.cnt.smpTail + 1) % 2 ^ 32, smpOvf := false } } [.cnt, .out, .sto, .xl, .freeCtr, .objs] := by
          intro f hf
          cases f <;> first | rfl | simp at hf
        exact State.only_trans h h2

/-- Noting a stall's cause changes the counters' part alone. -/
theorem State.only_noteStall (s : State) (r c : Nat) : s.only (s.noteStall r c) [.cnt] := State.only_modCnt s _
theorem State.only_tagDtag (s : State) (d : Nat) (f : Tagged → Bool) : s.only (s.tagDtag d f) [.cnt] := State.only_modCnt s _

theorem State.objsKept_writeSample (s : State) (g : Tagged) (k : Bool) : s.objsKept (s.writeSample g k) := by
  have hl : ∀ u : State, u.objsKept u.sampleLost := fun u =>
    State.objsKept_of_objs (State.only_sampleLost u .objs (by decide))
  unfold State.writeSample
  dsimp only
  split
  · exact hl s
  · split
    · exact hl s
    · split
      · next u hu => exact State.objsKept_trans (State.objsKept_of_ownWrite hu) (hl u)
      · next u hu => exact State.objsKept_trans (State.objsKept_of_ownWrite hu) (State.objsKept_of_objs rfl)

theorem State.objsKept_endTags (s : State) (f : Tagged → Bool) (k : Bool) : s.objsKept (s.endTags f k) := by
  unfold State.endTags
  dsimp only
  split
  · exact State.objsKept_refl s
  · exact State.each_keeps (P := s.objsKept) (fun u g hu => State.objsKept_trans hu (State.objsKept_writeSample u g k)) _ _
      (State.objsKept_of_objs rfl)

theorem State.only_endTags (s : State) (f : Tagged → Bool) (k : Bool) :
    s.only (s.endTags f k) [.cnt, .out, .sto, .xl, .freeCtr, .objs] := by
  unfold State.endTags
  dsimp only
  refine State.only_ite _ (State.only_refl s _) ?_
  exact State.only_after (State.only_each _ (fun u g => State.only_writeSample u g k) _ _) (State.only_modCnt s _).sub

/-- With no tagged item in flight none ends. -/
theorem State.endTags_none (s : State) (f : Tagged → Bool) (k : Bool) (h : s.cnt.tags = []) : s.endTags f k = s := by
  simp [State.endTags, h]

/-! ### Tenant counters leave the rest of a function alone -/

theorem State.funcsKept_refl (s : State) : s.funcsKept s := fun k => ⟨(s.func k).cnt, rfl⟩

theorem State.funcsKept_of_funcs {s t : State} (h : t.funcs = s.funcs) : s.funcsKept t := by
  intro k
  refine ⟨(s.func k).cnt, ?_⟩
  show Tab.get {} t.funcs k = _
  rw [h]
  rfl

theorem State.funcsKept_trans {s t u : State} (h : s.funcsKept t) (g : t.funcsKept u) : s.funcsKept u := by
  intro k
  obtain ⟨c, hc⟩ := h k
  obtain ⟨d, hd⟩ := g k
  exact ⟨d, by rw [hd, hc]⟩

theorem State.funcsKept_vfTick (s : State) (fk i n : Nat) : s.funcsKept (s.vfTick fk i n) := by
  unfold State.vfTick
  split
  · intro k
    rw [State.modFunc_func]
    split
    · next h => subst h; exact ⟨_, rfl⟩
    · exact ⟨(s.func k).cnt, rfl⟩
  · exact State.funcsKept_refl s

end Sys2Proof.Machine
end

