-- ==== Sys2Proof/Laws/Exec.lean ====
section
/-! SUPPORT. The shape of every command: all but the eleven that may set a latch, and POWER_ON, end in `done`. -/

namespace Sys2Proof.Machine

set_option Elab.async false

/-- The commands that may set a latch (14 R383, R391, R394, R397; 15 R413, R423). -/
def latching : Instr → Bool
  | .calibrationWindowEnd => true
  | .voltageSample _ => true
  | .trimSample _ _ => true
  | .vaiEnableRun _ => true
  | .vaiEnableEngines _ => true
  | .vaiEnableQueues _ => true
  | .vaiEnableIrq _ => true
  | .registerWrite _ _ => true
  | .tapRead _ _ _ => true
  | .fwArm _ => true
  | .powerOn => true
  | _ => false

/-- A command that sets no latch ends in `done`. -/
theorem exec_done (c : Instr) (s : State) (h : latching c = false) : ∃ t, exec c s = done s t := by
  cases c <;> first
    | (simp [latching] at h; done)
    | exact ⟨_, rfl⟩

end Sys2Proof.Machine
end

