-- ==== Sys2Proof/Laws/Latch.lean ====
section
/-! SUPPORT. Which latches a command may set: the latches of the shared operations of the commands that end in `doneL`. -/

namespace Sys2Proof.Machine

set_option Elab.async false

theorem State.each_latch {α : Type} (g : State → α → State) (hg : ∀ u a, (g u a).latch = u.latch) (l : List α) :
    ∀ s : State, (s.each l g).latch = s.latch := by
  induction l with
  | nil => exact fun s => rfl
  | cons a t ih => exact fun s => (ih (g s a)).trans (hg s a)

@[simp] theorem State.forward_latch (s : State) (k a b c d e : Nat) : (s.forward k a b c d e).latch = s.latch := rfl
@[simp] theorem State.bumpReport_latch (s : State) : s.bumpReport.latch = s.latch :=
  State.each_latch (fun u p => u.modFunc (pfKey p) fun f => { f with eph := none }) (fun _ _ => rfl) [0, 1, 2, 3] s
@[simp] theorem State.recomputeStep_latch (s : State) (n : Nat) : (s.recomputeStep n).latch = s.latch := rfl

@[simp] theorem State.modeNormal_latch (s : State) : s.modeNormal.latch = s.latch := by
  unfold State.modeNormal
  split
  · exact State.bumpReport_latch _
  · rfl

@[simp] theorem State.dimEnd_latch (s t : State) : (s.dimEnd t).latch = t.latch := by
  unfold State.dimEnd
  split
  · rw [State.modeNormal_latch, State.each_latch]
    · rfl
    · intro u a; rfl
  · rfl

@[simp] theorem State.latchTo_latch (s : State) (l : Latch) : (s.latchTo l).latch = l := State.dimEnd_latch s _

@[simp] theorem State.signalVec_latch (s : State) (fk v : Nat) : (s.signalVec fk v).latch = s.latch := by
  unfold State.signalVec
  split <;> rfl

@[simp] theorem State.refuse_latch (s : State) (p c o : Nat) : (s.refuse p c o).latch = s.latch := rfl
@[simp] theorem State.notOperator_latch (s : State) (p o : Nat) : (s.notOperator p o).latch = s.latch := rfl

@[simp] theorem State.respond_latch (s : State) (k : Nat) (l : List W32) : (s.respond k l).latch = s.latch := by
  unfold State.respond
  simp only
  split
  · rfl
  · split
    · split
      · simp; rfl
      · rfl
    · rfl

theorem State.answer_latch (s : State) (k : Nat) (q : List W32) (x : State × Nat × List W32) :
    (s.answer k q x).latch = s.latch ∨ (s.answer k q x).latch = x.1.latch := by
  unfold State.answer
  simp only
  split
  · right
    rw [State.respond_latch]
    split <;> split <;> rfl
  · left
    simp

theorem State.secure_latch (s : State) (c op : Nat) (ok : List W32 → Bool) (g : List W32 → State × Nat × List W32)
    (P : Latch → Prop) (hs : P s.latch) (hg : ∀ q, P (g q).1.latch) : P (s.secure c op ok g).latch := by
  unfold State.secure
  split
  · unfold State.command
    split
    · exact hs
    · split
      · exact hs
      · split
        · next req _ _ _ _ =>
          rcases State.answer_latch s (8 + c) req (if ok req = true then g req else (s, 0x01, [])) with h | h
          · rw [h]; exact hs
          · rw [h]; split
            · exact hg _
            · exact hs
        · exact hs
  · exact hs

@[simp] theorem State.sendIdentReq_latch (s : State) (k : Nat) : (s.sendIdentReq k).latch = s.latch := by
  unfold State.sendIdentReq
  split <;> rfl

@[simp] theorem State.flushFunc_latch (s : State) (fk : Nat) : (s.flushFunc fk).latch = s.latch := by
  unfold State.flushFunc
  apply State.each_latch
  intro u a
  split <;> rfl

@[simp] theorem State.enableEffect_latch (s : State) (i : Nat) : (s.enableEffect i).latch = s.latch := by
  unfold State.enableEffect
  split
  · apply State.each_latch
    intro u a
    split
    · exact State.sendIdentReq_latch u a
    · rfl
  · exact State.each_latch _ (fun u a => State.flushFunc_latch u a) _ s
  · rfl

theorem Latch.le_iff (a b : Latch) : a.le b = true ↔
    (a.run = true → b.run = true) ∧ (a.engines = true → b.engines = true) ∧ (a.queues = true → b.queues = true) ∧
    (a.irq = true → b.irq = true) ∧ (a.fwReady = true → b.fwReady = true) ∧ (a.candleCal = true → b.candleCal = true) ∧
    (a.vConv = true → b.vConv = true) ∧ (a.trimConv = true → b.trimConv = true) ∧
    (a.debugRead = true → b.debugRead = true) := by
  have key : ∀ x y : Bool, (x || y) = y ↔ (x = true → y = true) := by decide
  obtain ⟨b1, b2, b3, b4, b5, b6, b7, b8, b9⟩ := b
  simp only [Latch.le, Latch.join, decide_eq_true_eq, Latch.mk.injEq, key]

theorem Latch.le_refl (a : Latch) : a.le a = true := (Latch.le_iff a a).mpr (by simp)

theorem Latch.le_trans {a b c : Latch} (h : a.le b = true) (g : b.le c = true) : a.le c = true := by
  rw [Latch.le_iff] at h g ⊢
  obtain ⟨h1, h2, h3, h4, h5, h6, h7, h8, h9⟩ := h
  obtain ⟨g1, g2, g3, g4, g5, g6, g7, g8, g9⟩ := g
  exact ⟨g1 ∘ h1, g2 ∘ h2, g3 ∘ h3, g4 ∘ h4, g5 ∘ h5, g6 ∘ h6, g7 ∘ h7, g8 ∘ h8, g9 ∘ h9⟩

theorem Latch.ordered_iff (l : Latch) : l.ordered = true ↔
    (l.irq = true → l.queues = true) ∧ (l.queues = true → l.run = true) ∧ (l.engines = true → l.run = true) ∧
    (l.run = true → l.fwReady = true) := by
  have key : ∀ x y : Bool, ((!x) || y) = true ↔ (x = true → y = true) := by decide
  simp only [Latch.ordered, Bool.and_eq_true, key, and_assoc]

/-- A bit of VAI_ENABLE is set only when its prerequisite holds (14 R384), and no set latch is cleared. -/
theorem Latch.enable_spec (l m : Latch) (i : Nat) (h : l.enable i = some m) :
    l.le m = true ∧ (l.ordered = true → m.ordered = true) := by
  rw [Latch.le_iff, Latch.ordered_iff, Latch.ordered_iff]
  unfold Latch.enable at h
  split at h
  · split at h
    · next hc =>
      injection h with h
      subst h
      rw [Bool.or_eq_true] at hc
      refine ⟨by simp, fun ho => ⟨ho.1, fun _ => rfl, fun _ => rfl, fun _ => ?_⟩⟩
      exact hc.elim ho.2.2.2 id
    · simp at h
  · split at h
    · next hc =>
      injection h with h
      subst h
      exact ⟨by simp, fun ho => ⟨ho.1, ho.2.1, fun _ => hc, ho.2.2.2⟩⟩
    · simp at h
  · split at h
    · next hc =>
      injection h with h
      subst h
      exact ⟨by simp, fun ho => ⟨fun _ => rfl, fun _ => hc, ho.2.2.1, ho.2.2.2⟩⟩
    · simp at h
  · split at h
    · next hc =>
      injection h with h
      subst h
      exact ⟨by simp, fun ho => ⟨fun _ => hc, ho.2.1, ho.2.2.1, ho.2.2.2⟩⟩
    · simp at h
  · simp at h

theorem State.enableBit_latch (s : State) (i : Nat) :
    s.latch.le (s.enableBit i).latch = true ∧ (s.latch.ordered = true → (s.enableBit i).latch.ordered = true) := by
  unfold State.enableBit
  split
  · simp [Latch.le_refl]
  · next l hl =>
    split
    · simp [Latch.le_refl]
    · rw [State.enableEffect_latch]
      exact Latch.enable_spec _ _ _ hl

/-- A write to VAI_ENABLE clears no latch and keeps the enable order. -/
theorem State.enableWrite_latch (s : State) (v : W64) :
    s.latch.le (s.enableWrite v).latch = true ∧ (s.latch.ordered = true → (s.enableWrite v).latch.ordered = true) := by
  have step : ∀ (l : List Nat) (u : State), u.latch.le (u.each l fun t i => if bit v i then t.enableBit i else t).latch = true ∧
      (u.latch.ordered = true → (u.each l fun t i => if bit v i then t.enableBit i else t).latch.ordered = true) := by
    intro l
    induction l with
    | nil => intro u; simp [State.each, Latch.le_refl]
    | cons a t ih =>
      intro u
      have h1 := ih (if bit v a then u.enableBit a else u)
      by_cases hb : bit v a = true
      · rw [if_pos hb] at h1
        have h2 := State.enableBit_latch u a
        have he : u.each (a :: t) (fun t i => if bit v i then t.enableBit i else t) =
            (u.enableBit a).each t fun t i => if bit v i then t.enableBit i else t := by simp [State.each, hb]
        rw [he]
        exact ⟨Latch.le_trans h2.1 h1.1, fun h => h1.2 (h2.2 h)⟩
      · rw [if_neg hb] at h1
        have he : u.each (a :: t) (fun t i => if bit v i then t.enableBit i else t) =
            u.each t fun t i => if bit v i then t.enableBit i else t := by simp [State.each, hb]
        rw [he]
        exact h1
  exact step [0, 1, 2, 3] (s.modBoot fun b => { b with refused := 0 })

theorem State.opWrite_enable_latch (s : State) (p o : Nat) (v : W64) :
    s.latch.le (s.opWrite p o fun t => t.enableWrite v).latch = true ∧
      (s.latch.ordered = true → (s.opWrite p o fun t => t.enableWrite v).latch.ordered = true) := by
  unfold State.opWrite
  split
  · simp [Latch.le_refl]
  · split
    · exact State.enableWrite_latch s v
    · simp [Latch.le_refl]

@[simp] theorem State.fwSwitch_latch (s : State) (l : List Nat) : (s.fwSwitch l).latch = s.latch := by
  unfold State.fwSwitch
  simp only
  have h : ∀ (g : State → Nat → State), (∀ u a, (g u a).latch = u.latch) → (s.each l g).latch = s.latch :=
    fun g hg => State.each_latch g hg l s
  split
  · exact h _ fun _ _ => rfl
  · exact h _ fun _ _ => rfl

@[simp] theorem State.activate_latch (s : State) : s.activate.latch = s.latch := by
  unfold State.activate
  simp

/-- The latches that a command may set, and only in the enable order. -/
theorem State.regWrite_latch (s : State) (t : Target) (v : W64) (h : writesEnable t = true) :
    s.latch.le (s.regWrite t v).latch = true ∧ (s.latch.ordered = true → (s.regWrite t v).latch.ordered = true) := by
  cases t with
  | cfg w r => simp [writesEnable] at h
  | mmio w off size =>
    cases w with
    | vf p i => simp [writesEnable] at h
    | rot => simp [writesEnable] at h
    | pf p =>
      simp only [writesEnable, beq_iff_eq] at h
      simp only [State.regWrite]
      split
      · unfold State.pfWrite
        simp only [h]
        split
        · simp [Latch.le_refl]
        · exact State.opWrite_enable_latch s p off _
      · simp [Latch.le_refl]

end Sys2Proof.Machine
end

