-- ==== Sys2Proof/Laws/Route.lean ====
section
/-! SUPPORT. How a route word issues: from a thread that stands at the word, issuing runs the word's meaning; a word that is
no operation moves its own task's program counter and counts route steps. -/

namespace Sys2Proof.Machine

set_option Elab.async false

/-- A thread that stands at a word of opcode `opc` whose fields pass issues it (05 R133, R135, R137). -/
theorem State.issue_ready (s : State) (r opc : Nat) (w : W128) (chk : W128 → Bool) (mine : Task → W128 → Bool)
    (k : W128 → State → State) (h : s.ready r w = true) (hd : opcodeDefined opc = true) (ho : opcodeOf w = opc)
    (hc : chk w = true) (hm : mine (s.task r) w = true) : s.issue r opc chk mine k = k w s := by
  unfold State.ready at h
  simp only [Bool.and_eq_true, Bool.or_eq_true, decide_eq_true_eq, beq_iff_eq] at h
  obtain ⟨⟨⟨⟨h1, h2⟩, h3⟩, h4⟩, h5⟩ := h
  have hb : s.bringCb r = .ok s := by simp [State.bringCb, h2]
  have hl : s.bringLine r (s.task r).ctx.pc = .ok s := by
    unfold State.bringLine
    dsimp only
    rw [if_pos (by simpa using h4)]
  unfold State.issue
  simp only [h1, hb, hl, h5, ho, hd, hc, hm, Nat.not_le.mpr h3]
  simp

/-! ### Words that are no operation -/

theorem State.only_steps (s : State) (r n : Nat) : s.only (s.steps r n) [.cnt, .funcs] := by
  unfold State.steps
  dsimp only
  refine State.only_after (State.only_vfTick _ _ _ _).sub (State.only_after (State.only_tickN _ _ _ _).sub ?_)
  split
  · exact (State.only_handshakes s _ _ _).sub
  · exact State.only_refl s _

theorem State.steps_task (s : State) (r n q : Nat) : (s.steps r n).task q = s.task q :=
  State.task_of (State.only_steps s r n .tasks (by decide)) q

theorem State.funcsKept_steps (s : State) (r n : Nat) : s.funcsKept (s.steps r n) := by
  unfold State.steps
  dsimp only
  refine State.funcsKept_trans (State.funcsKept_of_funcs ?_) (State.funcsKept_vfTick _ _ _ _)
  rw [State.only_tickN _ _ _ _ .funcs (by decide)]
  split <;> rfl

/-- The parts that issuing a word may change. -/
theorem State.only_issued (s : State) (r : Nat) (w : W128) (n pc : Nat) (slot : Option Nat) (d : Nat) :
    s.only (s.issued r w n pc slot d) [.tasks, .cnt, .funcs, .freeCtr] :=
  State.only_after (State.only_steps _ _ _).sub (State.only_after (State.only_modTask _ _ _).sub
    (State.only_after (State.only_modCnt _ _).sub (State.only_tagItem s _).sub))

theorem State.tagItem_task (s : State) (g : Tagged) (q : Nat) : (s.tagItem g).task q = s.task q :=
  State.task_of (State.only_tagItem s g .tasks (by decide)) q

/-- Issuing a word moves its own task's program counter and ends its stall. -/
theorem State.issued_task (s : State) (r : Nat) (w : W128) (n pc : Nat) (slot : Option Nat) (d : Nat) :
    (s.issued r w n pc slot d).task r = (s.task r).at' pc := by
  unfold State.issued
  dsimp only
  rw [State.steps_task, State.modTask_task_self, State.modCnt_task, State.tagItem_task]
  rfl

theorem State.issued_task_ne (s : State) (r : Nat) (w : W128) (n pc : Nat) (slot : Option Nat) (d : Nat) {q : Nat}
    (h : q ≠ r) : (s.issued r w n pc slot d).task q = s.task q := by
  unfold State.issued
  dsimp only
  rw [State.steps_task, State.modTask_task_ne _ _ _ h, State.modCnt_task, State.tagItem_task]

theorem State.issued_funcsKept (s : State) (r : Nat) (w : W128) (n pc : Nat) (slot : Option Nat) (d : Nat) :
    s.funcsKept (s.issued r w n pc slot d) := by
  refine State.funcsKept_trans (State.funcsKept_of_funcs ?_) (State.funcsKept_steps _ _ _)
  rw [State.modTask_funcs, State.modCnt_funcs]
  exact State.only_tagItem s _ .funcs (by decide)

/-- What a word that is no operation does when it has been issued (04 R131; 05 R133): its task stands at `pc`; only counts
and a sample record change beside it, and with the sampler off only counts. -/
theorem State.issuedDone_spec (s : State) (r : Nat) (w : W128) (n pc : Nat) :
    (s.issuedDone r w n pc).task r = (s.task r).at' pc ∧ (∀ q, q ≠ r → (s.issuedDone r w n pc).task q = s.task q) ∧
    s.only (s.issuedDone r w n pc) (.tasks :: countParts) ∧ s.funcsKept (s.issuedDone r w n pc) ∧
    s.objsKept (s.issuedDone r w n pc) ∧
    (s.unsampled = true → s.only (s.issuedDone r w n pc) [.tasks, .cnt, .funcs]) := by
  have he : ∀ q, (s.issuedDone r w n pc).task q = (s.issued r w n pc none 0).task q := by
    intro q
    show Tab.get {} (State.endTags _ _ _).tasks q = _
    rw [State.only_endTags _ _ _ .tasks (by decide)]
    rfl
  refine ⟨(he r).trans (State.issued_task s r w n pc none 0), fun q hq =>
    (he q).trans (State.issued_task_ne s r w n pc none 0 hq), ?_, ?_, ?_, ?_⟩
  · exact State.only_after (State.only_endTags _ _ _).sub (State.only_issued s r w n pc none 0).sub
  · exact State.funcsKept_trans (State.issued_funcsKept s r w n pc none 0)
      (State.funcsKept_of_funcs (State.only_endTags _ _ _ .funcs (by decide)))
  · exact State.objsKept_trans (State.objsKept_of_objs (State.only_issued s r w n pc none 0 .objs (by decide)))
      (State.objsKept_endTags _ _ _)
  · intro h
    simp only [State.unsampled, Bool.and_eq_true, Bool.not_eq_true', List.isEmpty_iff] at h
    have h1 : ∀ g, s.tagItem g = s := fun g => State.tagItem_off s g h.1
    have h2 : (s.issued r w n pc none 0).cnt.tags = [] := by
      have ht : ∀ (u : State) (e i : Nat) (p : Option Nat), (u.tickN e i p).cnt.tags = u.cnt.tags := by
        intro u e i p
        unfold State.tickN State.cntRaw State.modCnt
        split
        · dsimp only
          split <;> rfl
        · rfl
      have hv : ∀ (u : State) (a b c : Nat), (u.vfTick a b c).cnt = u.cnt := fun u a b c =>
        State.only_vfTick u a b c .cnt (by decide)
      unfold State.issued State.steps
      dsimp only
      rw [hv, ht, h1]
      split <;> exact h.2
    have h3 : s.issuedDone r w n pc = s.issued r w n pc none 0 := State.endTags_none _ _ _ h2
    rw [h3]
    unfold State.issued
    dsimp only
    rw [h1]
    exact State.only_after (State.only_steps _ _ _).sub (State.only_after (State.only_modTask _ _ _).sub (State.only_modCnt s _).sub)

/-- A scalar word whose guard holds writes its result (05 R138, R139). -/
theorem State.alu_ready (s : State) (r opc : Nat) (w : W128) (ps sa sb : Bool) (f : Bool → W64 → W64 → W64) (a b : W64)
    (h : s.ready r w = true) (hd : opcodeDefined opc = true) (ho : opcodeOf w = opc) (hc : chkA ps sa sb w = true)
    (ha : (s.task r).opA w sa = some a) (hb : (s.task r).opB w sb = some b) :
    s.alu r opc ps sa sb f = (if (s.task r).guard w then s.modTask r fun t =>
      t.setS (fld w 111 106) (f (t.pred (fld w 115 113)) a b) else s).issuedDone r w 1 ((s.task r).ctx.pc + 1) := by
  unfold State.alu
  rw [State.issue_ready s r opc w _ _ _ h hd ho hc rfl]
  simp only [ha, hb]

/-- A command that issues its word, after it may have changed its own task. -/
theorem State.issues_from (s v : State) (c : Instr) (r : Nat) (w : W128) (n pc : Nat) (h : exec c s = done s (v.issuedDone r w n pc))
    (hv : s.only v [.tasks]) (hq : ∀ q, q ≠ r → v.task q = s.task q) : s.issues c r ((v.task r).at' pc) := by
  obtain ⟨h1, h2, h3, h4, h6, h5⟩ := State.issuedDone_spec v r w n pc
  obtain ⟨u, hu, _, _, ho, fix⟩ := done_spec s (v.issuedDone r w n pc)
  have ht : ∀ q, u.task q = (v.issuedDone r w n pc).task q := State.task_of (ho .tasks (by decide))
  refine ⟨u, h.trans hu, (ht r).trans h1, fun q h => ?_, fix _ (by decide) (State.only_after h3 hv.sub), ?_, ?_,
    fun hs => fix _ (by decide) (State.only_after (h5 ?_) hv.sub)⟩
  · rw [ht q, h2 q h, hq q h]
  · exact State.funcsKept_trans (State.funcsKept_of_funcs (hv .funcs (by decide)))
      (State.funcsKept_trans h4 (State.funcsKept_of_funcs (ho .funcs (by decide))))
  · exact State.objsKept_trans (State.objsKept_of_objs (hv .objs (by decide)))
      (State.objsKept_trans h6 (State.objsKept_of_objs (ho .objs (by decide))))
  · have : v.cnt = s.cnt := hv .cnt (by decide)
    simpa [State.unsampled, this] using hs

/-- A command that changes its own task and issues the word that its thread stands at. -/
theorem State.issues_of (s : State) (c : Instr) (r : Nat) (w : W128) (n pc : Nat) (g : Task → Task)
    (h : exec c s = done s ((s.modTask r g).issuedDone r w n pc)) : s.issues c r ((g (s.task r)).at' pc) := by
  have := State.issues_from s _ c r w n pc h (State.only_modTask s r g) fun q hq => State.modTask_task_ne _ _ _ hq
  rwa [State.modTask_task_self] at this

/-- A command that issues its word and changes nothing else of its task. -/
theorem State.issues_skip (s : State) (c : Instr) (r : Nat) (w : W128) (n pc : Nat)
    (h : exec c s = done s (s.issuedDone r w n pc)) : s.issues c r ((s.task r).at' pc) :=
  State.issues_from s s c r w n pc h (State.only_refl s _) fun _ _ => rfl

/-- A scalar instruction whose guard holds (05 R139). -/
theorem State.alu_issues (s : State) (c : Instr) (r opc : Nat) (w : W128) (ps sa sb : Bool) (f : Bool → W64 → W64 → W64)
    (a b v : W64) (he : exec c s = done s (s.alu r opc ps sa sb f)) (h : s.ready r w = true)
    (hg : (s.task r).guard w = true) (hd : opcodeDefined opc = true) (ho : opcodeOf w = opc)
    (hc : chkA ps sa sb w = true) (ha : (s.task r).opA w sa = some a) (hb : (s.task r).opB w sb = some b)
    (hv : f ((s.task r).pred (fld w 115 113)) a b = v) :
    s.issues c r (((s.task r).setS (fld w 111 106) v).at' ((s.task r).ctx.pc + 1)) := by
  rw [State.alu_ready s r opc w ps sa sb f a b h hd ho hc ha hb, if_pos hg] at he
  have := State.issues_of s c r w 1 _ _ he
  rwa [hv] at this

/-- A scalar instruction whose guard is false (05 R138). -/
theorem State.alu_skips (s : State) (c : Instr) (r opc : Nat) (w : W128) (ps sa sb : Bool) (f : Bool → W64 → W64 → W64)
    (a b : W64) (he : exec c s = done s (s.alu r opc ps sa sb f)) (h : s.ready r w = true)
    (hg : (s.task r).guard w = false) (hd : opcodeDefined opc = true) (ho : opcodeOf w = opc)
    (hc : chkA ps sa sb w = true) (ha : (s.task r).opA w sa = some a) (hb : (s.task r).opB w sb = some b) :
    s.issues c r ((s.task r).at' ((s.task r).ctx.pc + 1)) := by
  rw [State.alu_ready s r opc w ps sa sb f a b h hd ho hc ha hb, if_neg (by simp [hg])] at he
  exact State.issues_skip s c r w 1 _ he

end Sys2Proof.Machine
end

