-- ==== Sys2Proof/Laws/Occupy.lean ====
section
/-! SUPPORT. How an operation word issues: from a thread that may issue it, its operation takes its slot and draws its
references (04 R104 to R107; 06 R160). -/

namespace Sys2Proof.Machine

set_option Elab.async false

/-- A thread that may issue an operation word whose fields pass makes its issue checks. -/
theorem State.issueOp_ready (s : State) (r opc : Nat) (w : W128) (chk : W128 → Bool) (mine : Task → W128 → Bool)
    (sels : W128 → List Nat) (vs : List W64) (k : W128 → List W64 → State → State) (h : s.readyOp r w (sels w) vs)
    (hd : opcodeDefined opc = true) (ho : opcodeOf w = opc) (hc : chk w = true) (hm : mine (s.task r) w = true) :
    s.issueOp r opc chk mine sels k = k w vs s := by
  obtain ⟨h1, h2, h3, h4⟩ := h
  unfold State.issueOp
  rw [State.issue_ready s r opc w chk mine _ h1 hd ho hc hm]
  subst ho
  have h5 : (opcodeIsTile (opcodeOf w) && s.verkai (s.task r).part && (s.part (s.task r).part).draining) = false := by
    simpa [Bool.and_eq_true, and_assoc] using h4
  simp only [h5, h2, h3]
  simp

/-- References drawn one after the other. -/
theorem State.drawRefs_spec (r : Nat) (l : List Nat) : ∀ s : State,
    let t := l.foldl (fun u n => u.drawRef r n) s
    t.task r = { s.task r with refs := refsWith (s.task r).refs l } ∧ (∀ q, q ≠ r → t.task q = s.task q) ∧
    t.objs = { s.objs with tab := t.objs.tab } ∧ s.only t [.tasks, .objs] ∧ (l = [] → t.objs = s.objs) ∧
    (∀ n, t.obj n = if n ∈ l ∧ n ∉ (s.task r).refs then { s.obj n with held := (s.obj n).held + 1 } else s.obj n) := by
  induction l with
  | nil => intro s; exact ⟨rfl, fun _ _ => rfl, rfl, State.only_refl _ _, fun _ => rfl, fun n => by simp⟩
  | cons a l ih =>
    intro s
    dsimp only [List.foldl_cons]
    obtain ⟨h1, h2, h3, h4, -, h6⟩ := ih (s.drawRef r a)
    by_cases hm : (s.task r).refs.contains a = true
    · have he : s.drawRef r a = s := by unfold State.drawRef; rw [if_pos hm]
      rw [he] at h1 h2 h3 h4 h6 ⊢
      refine ⟨?_, h2, h3, h4, by simp, ?_⟩
      · rw [h1]; unfold refsWith; rw [List.foldl_cons, if_pos hm]
      · intro n
        rw [h6 n]
        have : a ∈ (s.task r).refs := by simpa using hm
        by_cases hn : n = a
        · subst hn; simp [this]
        · simp [hn]
    · have he : s.drawRef r a = (s.modTask r fun t => { t with refs := t.refs ++ [a] }).modObj a fun o => { o with held := o.held + 1 } := by
        unfold State.drawRef; rw [if_neg hm]
      have hna : a ∉ (s.task r).refs := by simpa using hm
      have t0 : (s.drawRef r a).task r = { s.task r with refs := (s.task r).refs ++ [a] } := by
        rw [he, State.modObj_task, State.modTask_task_self]
      have t1 : ∀ q, q ≠ r → (s.drawRef r a).task q = s.task q := by
        intro q hq
        rw [he, State.modObj_task, State.modTask_task_ne _ _ _ hq]
      have o0 : (s.drawRef r a).obj a = { s.obj a with held := (s.obj a).held + 1 } := by
        rw [he, State.modObj_obj_self, State.modTask_obj]
      have o1 : ∀ n, n ≠ a → (s.drawRef r a).obj n = s.obj n := by
        intro n hn
        rw [he, State.modObj_obj_ne _ _ _ hn, State.modTask_obj]
      have o2 : (s.drawRef r a).objs = { s.objs with tab := (s.drawRef r a).objs.tab } := by rw [he]; rfl
      have o3 : s.only (s.drawRef r a) [.tasks, .objs] := by
        rw [he]
        exact State.only_after (State.only_modObj _ _ _).sub (State.only_modTask s _ _).sub
      refine ⟨?_, fun q hq => (h2 q hq).trans (t1 q hq), ?_, State.only_trans o3 h4, by simp, ?_⟩
      · rw [h1, t0]; unfold refsWith; rw [List.foldl_cons, if_neg hm]
      · rw [h3, o2]
      · intro n
        rw [h6 n, t0]
        by_cases hn : n = a
        · subst hn
          simp [o0, hna]
        · rw [o1 n hn]
          simp [hn]

theorem State.tagItem_unsampled (s : State) (g : Tagged) (h : s.unsampled = true) : s.tagItem g = s := by
  simp only [State.unsampled, Bool.and_eq_true, Bool.not_eq_true', List.isEmpty_iff] at h
  exact State.tagItem_off s g h.1

/-- Bit `i` of a bitmap in which bit `n` was set. -/
theorem setBit_getLsbD (v : W64) (n i : Nat) (hi : i < 64) : (setBit v n).getLsbD i = (v.getLsbD i || decide (i = n)) := by
  unfold setBit
  rw [BitVec.getLsbD_or, BitVec.getLsbD_ofNat, Nat.testBit_two_pow]
  simp [hi, eq_comm]

/-- A mask's bits set one by one. -/
theorem setBits_spec (n i : Nat) (hi : i < 64) (l : List Nat) : ∀ m : W64, (l.foldl (fun m j => if j = n then m else setBit m j) m).getLsbD i =
    (m.getLsbD i || (decide (i ≠ n) && decide (i ∈ l))) := by
  induction l with
  | nil => simp
  | cons a l ih =>
    intro m
    rw [List.foldl_cons, ih]
    by_cases ha : a = n
    · subst ha
      by_cases h : i = a <;> simp [h]
    · rw [if_neg ha]
      have : (setBit m a).getLsbD i = (m.getLsbD i || decide (i = a)) := by
        exact setBit_getLsbD m a i hi
      rw [this]
      by_cases h : i = a
      · subst h; simp [ha]
      · simp [h]

/-- The mask of an operation at issue: the occupied slots that its word names, other than its own (04 R107). -/
def maskOf (t : Task) (w : W128) : W64 :=
  (t.named (w.setWidth 64)).foldl (fun m i => if i = opnumOf w then m else setBit m i) 0

/-- Taking a slot (04 R104, R106, R107). -/
theorem State.occupy_spec (b : State) (r : Nat) (w : W128) (k : OpKind) (n d : Nat) :
    let v := b.occupy r w k n d
    let o : Op := { kind := k, deps := maskOf (b.task r) w, phase := if maskOf (b.task r) w = 0 then .ready else .open
                    iss := (b.task r).issN, ord := b.stamp }
    v.task r = { (b.task r).at' ((b.task r).ctx.pc + 1) with
      issN := (b.task r).issN + 1, win := Tab.set none (b.task r).win (opnumOf w) (some o) } ∧
    (∀ q, q ≠ r → v.task q = b.task q) ∧ b.only v [.tasks, .cnt, .funcs, .freeCtr, .stamp] ∧ b.funcsKept v ∧
    (b.unsampled = true → b.only v [.tasks, .cnt, .funcs, .stamp]) := by
  have e : b.occupy r w k n d = (((b.issued r w n ((b.task r).ctx.pc + 1) (some (opnumOf w)) d).nextIss r).modTask r fun t =>
    { t with win := Tab.set none t.win (opnumOf w) (some { kind := k, deps := maskOf (b.task r) w, phase := if maskOf (b.task r) w = 0 then .ready else .open, iss := (b.task r).issN, ord := b.stamp }) }).nextStamp := rfl
  have h1 := State.issued_task b r w n ((b.task r).ctx.pc + 1) (some (opnumOf w)) d
  have h2 := fun q => State.issued_task_ne b r w n ((b.task r).ctx.pc + 1) (some (opnumOf w)) d (q := q)
  have h3 := State.only_issued b r w n ((b.task r).ctx.pc + 1) (some (opnumOf w)) d
  have h4 := State.issued_funcsKept b r w n ((b.task r).ctx.pc + 1) (some (opnumOf w)) d
  have h5 : b.unsampled = true → b.only (b.issued r w n ((b.task r).ctx.pc + 1) (some (opnumOf w)) d) [.tasks, .cnt, .funcs] := by
    intro h
    unfold State.issued
    dsimp only
    rw [State.tagItem_unsampled _ _ h]
    exact State.only_after (State.only_steps _ _ _).sub (State.only_after (State.only_modTask _ _ _).sub (State.only_modCnt b _).sub)
  dsimp only
  rw [e]
  generalize b.issued r w n ((b.task r).ctx.pc + 1) (some (opnumOf w)) d = v at *
  generalize maskOf (b.task r) w = m
  unfold State.nextIss
  refine ⟨?_, ?_, ?_, ?_, ?_⟩
  · rw [State.nextStamp_task, State.modTask_task_self, State.modTask_task_self, h1]
    rfl
  · intro q hq
    rw [State.nextStamp_task, State.modTask_task_ne _ _ _ hq, State.modTask_task_ne _ _ _ hq, h2 q hq]
  · exact State.only_after (State.only_nextStamp _).sub (State.only_after (State.only_modTask _ _ _).sub
      (State.only_after (State.only_modTask _ _ _).sub h3.sub))
  · exact State.funcsKept_trans h4 (State.funcsKept_of_funcs rfl)
  · intro h
    exact State.only_after (State.only_nextStamp _).sub (State.only_after (State.only_modTask _ _ _).sub
      (State.only_after (State.only_modTask _ _ _).sub (h5 h).sub))

/-- A command that issues an operation whose checks hold: it occupies its slot. -/
theorem State.occupies_of (s : State) (c : Instr) (r : Nat) (w : W128) (k : OpKind) (l : List Nat) (n d : Nat)
    (h : exec c s = done s ((l.foldl (fun u n => u.drawRef r n) s).occupy r w k n d)) : s.occupies c r w k l := by
  obtain ⟨h1, h2, h3, h4, h5, h6⟩ := State.drawRefs_spec r l s
  generalize l.foldl (fun u n => u.drawRef r n) s = b at *
  obtain ⟨g1, g2, g3, g4, g5⟩ := State.occupy_spec b r w k n d
  generalize b.occupy r w k n d = v at *
  obtain ⟨u, hu, -, -, ho, hf⟩ := done_spec s v
  have ht : ∀ q, u.task q = v.task q := State.task_of (ho .tasks (by decide))
  have hst : b.stamp = s.stamp := h4 .stamp (by decide)
  have hobj : u.objs = b.objs := (ho .objs (by decide)).trans (g3 .objs (by decide))
  have hn : (b.task r).named = (s.task r).named := by rw [h1]; rfl
  have hw : (b.task r).issN = (s.task r).issN := by rw [h1]
  refine ⟨u, { kind := k, deps := maskOf (b.task r) w, phase := if maskOf (b.task r) w = 0 then .ready else .open
               iss := (b.task r).issN, ord := b.stamp }, h.trans hu, ?_, ?_, ?_, ?_, ?_, ?_, ?_, ?_, ?_, ?_⟩
  · dsimp only; rw [hst, hw]
  · intro i hi
    dsimp only
    unfold maskOf
    rw [setBits_spec _ _ hi, hn]
    simp
  · rw [ht, g1, h1]
    rfl
  · intro q hq
    rw [ht, g2 q hq, h2 q hq]
  · rw [hobj, h3]
  · intro m
    have := h6 m
    rw [← this]
    exact State.obj_of hobj m
  · exact hf _ (by decide) (State.only_after g3.sub h4.sub)
  · exact State.funcsKept_trans (State.funcsKept_trans (State.funcsKept_of_funcs (h4 .funcs (by decide))) g4)
      (State.funcsKept_of_funcs (ho .funcs (by decide)))
  · intro hs
    have hb : b.unsampled = true := by
      unfold State.unsampled
      rw [show b.cnt = s.cnt from h4 .cnt (by decide)]
      exact hs
    exact hf _ (by decide) (State.only_after (g5 hb).sub h4.sub)
  · intro e; rw [hobj, h5 e]

/-- Issue checks that hold let an operation draw its references and take its slot (06 R158 to R160). -/
theorem State.issueData_ok (s : State) (r : Nat) (w : W128) (names : List Name) (k : OpKind) (n d : Nat) (bad perm : Bool)
    (hb : bad = false) (hp : perm = false) (h : s.namesStatus (s.task r).fk names = 0) :
    s.issueData r w bad perm names k n d = ((names.map (·.num)).foldl (fun u n => u.drawRef r n) s).occupy r w k n d := by
  unfold State.issueData
  simp [hb, hp, h, List.foldl_map]

end Sys2Proof.Machine
end

