-- ==== Sys2Proof/WellFormed.lean ====
section
/-! DEFINITION. Which commands are well formed: every number that an operand holds lies in the range its field has in
the manual (PFs and host ports 0 to 3, VFs 0 to 1,023, queues 0 to 63, records 0 to 262,143, and so on). A command
that is not well formed names nothing the block has. -/

namespace Sys2Proof

/-- A window names an existing PF, and a local VF number below 1,024 (02 R38, R44). -/
def Window.wf : Window → Bool
  | .pf p => p < 4
  | .vf p i => p < 4 && i < 1024
  | .rot => true

/-- A register access: a byte offset inside the window and a size of a bus access (00 R7, 17 R445, R447). -/
def Target.wf : Target → Bool
  | .mmio w off size => w.wf && (match w with
      | .pf _ => off < 0x400000
      | .vf _ _ => off < 0x10000
      | .rot => off < 0x2000) && 0 < size && size ≤ 64
  | .cfg w _ => w.wf && w != .rot

/-- Tags are 16 bits each (07 R196). -/
def Tag.wf (t : Tag) : Bool := t.pgen < 65536 && t.egen < 65536 && t.dtag < 65536

/-- A completion's page number fits 52 bits; read data is at most one page (13 R362, 11 R317). -/
def HostCpl.wf : HostCpl → Bool
  | .data bytes => bytes.length ≤ 4096
  | .xlat _ _ page => page < 2 ^ 52
  | .refused => true
  | .poisoned => true

/-- A channel: its kind (13 R378; 9 for an internal bus) and instance (13 R361). -/
def chanWf (kind i : Nat) : Bool :=
  match kind with
  | 1 => i < 64
  | 2 => i < 16
  | 3 => i < 64
  | 4 => i < 8
  | 5 => i < 4
  | 6 => i < 1
  | 7 => i < 32
  | 8 => i < 8
  | 9 => i < 4096
  | _ => false

/-- A function key: VF n is n, PF p is 1024 + p. -/
def funcWf (f : Nat) : Bool := f < 1028

/-- A word that arrives has 32 data symbols at most; the upset symbols of a stored word are symbols of its codeword. -/
def FaultWhat.wf : FaultWhat → Bool
  | .word c => c.data.length ≤ 32
  | .stored (.bank _ e) => e.all fun x => x.1 < 35
  | _ => true

/-- The operands of a command lie in the ranges of their fields. -/
def Instr.wf : Instr → Bool
  | .powerOn | .calibrationWindowEnd | .referenceClockStop | .referenceClockStart | .dimLate => true
  | .voltageSample pace => pace < 65536
  | .trimSample path x => path < 4096 && x.margin < 256
  | .trimApply path => path < 4096
  | .vGrant code => code < 256
  | .pReport power temp => power < 65536 && temp < 256
  | .pState st limit => st < 3 && limit < 65536
  | .vaiEnableRun p | .vaiEnableEngines p | .vaiEnableQueues p | .vaiEnableIrq p => p < 4
  | .registerWrite t _ => t.wf
  | .registerRead t => t.wf
  | .vfBindWrite p n _ => p < 4 && n < 1024
  | .vfRangeWrite p port _ => p < 4 && port < 4
  | .partitionEnable p n _ | .partitionDisable p n _ | .endNow p n _ | .loopRestart p n _ => p < 4 && n < 64
  | .resizeGo p _ | .resizeCancel p _ | .resetGo p _ | .dumpGo p _ => p < 4
  | .resizeSourceStep | .resizeDestinationStep => true
  | .scrubComplete bank | .bankEvacuationDone bank => bank < 64
  | .eportEnable p k _ | .eportReset p k _ => p < 4 && k < 64
  | .vfFlr vf => vf < 1024
  | .pfFlrWrite p | .hostLinkLoss p | .hostLinkReturn p | .priEnableToggle p | .doeAbort p => p < 4
  | .doorbell w q _ => w.wf && q < 64
  | .ringSlotCreditDraw => true
  | .descriptorFetch data => data.length ≤ 320
  | .slotReadRetry f q | .queueQuiesced f q | .queueAbsent f q | .submissionRetire f q => funcWf f && q < 64
  | .queueCreate w q | .queueEnable w q | .queueQuiesce w q | .queueDestroy w q | .heldClear w q => w.wf && q < 64
  | .qCplHeadWrite w q _ => w.wf && q < 64
  | .taskStart n thread => n < 64 && thread < 256
  | .taskResume r thread => r < 262144 && thread < 256
  | .taskPark r | .add r | .sub r | .mullo r | .mulhu r | .and r | .or r | .xor r | .shl r | .shr r | .sar r
  | .minu r | .maxu r | .mins r | .maxs r | .sel r | .mov r | .clz r | .popc r | .cmp r | .br r | .brp r | .loop r
  | .wait r | .signal r | .join r | .enqueue r | .yield r | .commit r | .abort r | .dispatch r | .copy r | .fill r
  | .gather r | .convert r | .kvCompress r | .kvExpand r | .decrypt r | .fold r | .sample r | .publish r | .pin r
  | .unpin r | .openwin r | .closewin r | .verkaiSuspend r | .continuationAdmit r | .recordRelease r | .taskRetire r
  | .objCreate r | .objFree r | .extSet r | .extClear r | .extRead r | .objQuery r | .importSet r | .importClear r
  | .wpCreate r | .wpFree r | .wpExport r | .wpImportSet r | .commandTimeout r => r < 262144
  | .operationStart r slot | .convoyMemberJoin r slot => r < 262144 && slot < 64
  | .mtuOperationComplete id slot => id < 2 ^ 32 && slot < 64
  | .samplingUnitTake k | .sampleComplete k => k < 8
  | .retiringStorageRelease _ => true
  | .bundleFetch n | .convoyHoldExpiry n | .convoyAssemble n | .sliceBegin n | .sliceTimerExpiry n | .drainComplete n
  | .drainTimeout n => n < 64
  | .bundleOffer n port => n < 64 && port < 64
  | .accept k t _ | .abandonAck k t _ => k < 64 && t.wf
  | .post k t unit index _ => k < 64 && t.wf && unit < 256 && index < 2 ^ 32
  | .wdone k t | .clearDone k t => k < 64 && t.wf
  | .fault k t unit _ => k < 64 && t.wf && unit < 256
  | .ident k t units _ => k < 64 && t.wf && units < 256
  | .atsInvalidation p f pasid page pages =>
      p < 4 && funcWf f && (match pasid with
        | some x => decide (x < 2 ^ 20)
        | none => true) && page < 2 ^ 52 && 0 < pages
  | .priResponse p _ _ | .priTimeout p _ => p < 4
  | .hostCompletion p tag c => p < 4 && tag < 1024 && c.wf
  | .peerWindowWrite _ _ data => data.length ≤ 4096
  | .peerWindowRead _ _ len => len ≤ 4096
  | .peerSignal _ _ => true
  | .wpSignal w k _ | .wpArm w k _ => w.wf && w != .rot && k < 256
  | .waypointSignalApply => true
  | .channelFault kind i count what _ => chanWf kind i && count < 2 ^ 32 && what.wf
  | .handshakeTimeout kind i count _ | .detourReissue kind i count _ => chanWf kind i && count < 2 ^ 32
  | .resetAutoStart | .resetKillPhase | .resetClearPhase | .resetRestartPhase => true
  | .dumpFieldRead _ | .dumpFieldWaitExpiry => true
  | .tapRead sec _ _ => sec < 256
  | .mbxGo w c _ | .mbxRspStatusRead w c => (match w with
      | .pf p => decide (p < 4)
      | .rot => true
      | .vf _ _ => false) && c < 8
  | .mbxRcvStatusRead c | .mbxRcvGo c _ | .fwActivate c | .fwDiscard c | .keyRelease c _
  | .keyImport c _ | .keyWithdraw c => c < 8
  | .mailboxPowerDown c => c < 16
  | .designate c | .fwLoad c | .fwArm c | .keyLoad c | .keyClear c | .setMode c => c < 4
  | .fragment c => 4 ≤ c && c < 8
  | .doeGo p _ data => p < 4 && data.length ≤ 2 ^ 20
  | .cntCfgWrite p e _ => p < 4 && e < 512
  | .counterSamplePoint => true
  | .fwStage c a => c < 8 && a.version < 65536
  | .engineMemoryRequest k t _ _ _ len data => k < 64 && t.wf && data.length ≤ len
  | .forwardMessageLatch k => k < 64

end Sys2Proof
end

