-- ==== Sys2Proof/Tests/Slice0.lean ====
section
/-! SUPPORT. Tests: ill-formed commands that WellFormed refuses, one small step or more per command, and for each statement
states and operands that meet its hypotheses, clause by clause. -/

namespace Sys2Proof.Tests

set_option Elab.async false

open Sys2Proof.Machine

/-! ### Helpers -/

/-- The command answers a next state, in which `p` holds. -/
def nextIs (o : Host.Outcome State Fault Refusal) (p : State → Bool) : Bool := match o with
  | .next t => p t
  | _ => false

/-- Command `c` on `s` answers a next state in which `p` holds. -/
def ran (c : Instr) (s : State) (p : State → Bool) : Bool := nextIs (exec c s) p

/-- A route word from its fields, each a value and the position of its lowest bit. -/
def rw' (l : List (Nat × Nat)) : W128 := BitVec.ofNat 128 (l.map fun x => x.1 * 2 ^ x.2).sum

/-- Every latch set but DEBUG_READ: the block runs outside dim mode. -/
def live : Latch := { run := true, engines := true, queues := true, irq := true, fwReady := true, candleCal := true, vConv := true, trimConv := true }

/-- An enabled native partition with 4 threads, engine port 0, bank 0 and 64 extents, in a slice of VF 0. -/
def part0 : Part :=
  { cfg := 0x0000000400000001#64, engines := 1, banks := 1, extents := 0x0000004000000000#64, running := true
    job := some (.plain 0 1 0) }

/-- VF 0, bound to partition 0 with a quota of 64 queues. -/
def vf0 : Func := { bind := 0x80400000#64, atsEn := true }

/-- PF 0 with a range of 8 VFs, VF Enable set and ATS and PRI enabled. -/
def pf0 : Func := { range := 0x00080000#32, vfEnable := true, numVfs := 8, atsEn := true, priEn := true, priAlloc := 8 }

/-- A block in use: PF 0 designated, partition 0 enabled and running, VF 0 bound to it. -/
def base : State :=
  { latch := live, boot := { operator := some 0 }, funcs := [(0, vf0), (1024, pf0)], parts := [(0, part0)] }

/-- A task that runs one inline word. -/
def taskOf (w : W128) : Task :=
  { gen := 1, st := .running, q := 0, qgen := 1, part := 0, job := .plain 0 1 0, progLen := 1, inl := [w], thread := some 0 }

/-- `base` with that task in record 0. -/
def word (w : W128) (g : Task → Task := id) : State := { base with tasks := [(0, g (taskOf w))] }

/-! ### Well-formedness: one ill-formed command for each check -/

theorem test_wf_refuses_bringup : [Instr.voltageSample 65536, .trimSample 4096 ⟨0, .none⟩, .trimSample 0 ⟨256, .none⟩, .trimApply 4096, .vGrant 256,
    .pReport 65536 0, .pReport 0 256, .pState 3 0, .pState 0 65536, .vaiEnableRun 4, .vaiEnableEngines 4, .vaiEnableQueues 4,
    .vaiEnableIrq 4].all (fun c => !c.wf) = true := by decide

theorem test_wf_refuses_registers : [Instr.registerWrite (.mmio (.pf 4) 0 8) 0, .registerRead (.mmio (.pf 0) 0x400000 8),
    .registerRead (.mmio (.vf 0 1024) 0 8), .registerRead (.mmio (.vf 0 0) 0x10000 8), .registerWrite (.mmio .rot 0x2000 8) 0,
    .registerRead (.mmio (.pf 0) 0 0), .registerRead (.mmio (.pf 0) 0 65), .registerRead (.cfg .rot .numVfs),
    .registerRead (.cfg (.vf 4 0) .numVfs), .cntCfgWrite 4 0 0, .cntCfgWrite 0 512 0].all (fun c => !c.wf) = true := by decide

theorem test_wf_refuses_tenancy : [Instr.vfBindWrite 4 0 0, .vfBindWrite 0 1024 0, .vfRangeWrite 4 0 0, .vfRangeWrite 0 4 0,
    .partitionEnable 4 0 0, .partitionEnable 0 64 0, .partitionDisable 0 64 0, .endNow 0 64 0, .loopRestart 4 0 0, .resizeGo 4 0,
    .resizeCancel 4 0, .resetGo 4 0, .dumpGo 4 0, .scrubComplete 64, .bankEvacuationDone 64, .eportEnable 4 0 0, .eportEnable 0 64 0,
    .eportReset 0 64 0, .vfFlr 1024, .pfFlrWrite 4, .hostLinkLoss 4, .hostLinkReturn 4, .priEnableToggle 4].all (fun c => !c.wf) = true := by
  decide

theorem test_wf_refuses_queues : [Instr.doorbell (.pf 4) 0 0, .doorbell (.pf 0) 64 0,
    .slotReadRetry 1028 0, .slotReadRetry 0 64, .queueQuiesced 1028 0, .queueAbsent 0 64, .submissionRetire 1028 0,
    .queueCreate (.pf 0) 64, .queueEnable (.vf 0 1024) 0, .queueQuiesce (.pf 4) 0, .queueDestroy (.pf 0) 64, .heldClear (.pf 0) 64,
    .qCplHeadWrite (.pf 0) 64 0].all (fun c => !c.wf) = true := by decide

theorem test_wf_refuses_tasks : [Instr.taskStart 64 0, .taskStart 0 256, .taskResume 262144 0, .taskResume 0 256, .taskPark 262144,
    .add 262144, .commit 262144, .operationStart 262144 0, .operationStart 0 64, .mtuOperationComplete (taskId 0 1) 64, .mtuOperationComplete (taskId 0 16384) 0,
    .convoyMemberJoin 0 64, .samplingUnitTake 8, .sampleComplete 8, .recordRelease 262144, .objCreate 262144,
    .commandTimeout 262144, .sliceBegin 64, .drainTimeout 64, .convoyAssemble 64].all (fun c => !c.wf) = true := by decide

theorem test_wf_refuses_ports : [Instr.bundleFetch 64, .bundleOffer 64 0, .bundleOffer 0 64, .accept 64 ⟨0, 0, 0⟩ 0,
    .accept 0 ⟨65536, 0, 0⟩ 0, .accept 0 ⟨0, 65536, 0⟩ 0, .accept 0 ⟨0, 0, 65536⟩ 0, .post 0 ⟨0, 0, 0⟩ 256 0 0, .post 0 ⟨0, 0, 0⟩ 0 (2 ^ 32) 0,
    .wdone 64 ⟨0, 0, 0⟩, .fault 0 ⟨0, 0, 0⟩ 256 0, .abandonAck 64 ⟨0, 0, 0⟩ 0, .clearDone 64 ⟨0, 0, 0⟩, .ident 0 ⟨0, 0, 0⟩ 256 0,
    .engineMemoryRequest 64 ⟨0, 0, 0⟩ none .read 0 0 [], .engineMemoryRequest 0 ⟨0, 0, 0⟩ none .write 0 0 [1],
    .forwardMessageLatch 64].all (fun c => !c.wf) = true := by decide

theorem test_wf_refuses_hosts : [Instr.atsInvalidation 4 0 none 0 1, .atsInvalidation 0 1028 none 0 1, .atsInvalidation 0 0 (some (2 ^ 20)) 0 1,
    .atsInvalidation 0 0 none (2 ^ 52) 1, .atsInvalidation 0 0 none 0 0, .priResponse 4 0 .success, .priTimeout 4 0,
    .hostCompletion 4 0 .refused, .hostCompletion 0 1024 .refused, .hostCompletion 0 0 (.xlat true true (2 ^ 52)),
    .peerWindowRead 0 0 4097, .wpSignal .rot 0 0, .wpSignal (.pf 0) 256 0, .wpArm (.pf 4) 0 0].all (fun c => !c.wf) = true := by decide

theorem test_wf_refuses_long_data : (HostCpl.data (List.replicate 4097 0)).wf = false ∧ (Instr.descriptorFetch (List.replicate 321 0)).wf = false ∧
    (Instr.peerWindowWrite 0 0 (List.replicate 4097 0)).wf = false := by decide +kernel

theorem test_wf_refuses_faults : [Instr.channelFault 0 0 0 .bothRails .none, .channelFault 1 64 0 .bothRails .none,
    .channelFault 2 16 0 .bothRails .none, .channelFault 3 64 0 .bothRails .none, .channelFault 1 0 0 (.stored (.bank 0 [(35, 1)])) .none,
    .channelFault 1 0 0 (.word ⟨List.replicate 33 0, 0, 0, 0⟩) .none, .handshakeTimeout 4 8 0 .none, .handshakeTimeout 5 4 0 .none,
    .handshakeTimeout 6 1 0 .none, .detourReissue 7 32 0 true, .detourReissue 8 8 0 true, .detourReissue 9 4096 0 true,
    .detourReissue 1 0 (2 ^ 32) true, .tapRead 256 0 0].all (fun c => !c.wf) = true := by decide

theorem test_wf_refuses_security : [Instr.mbxGo (.pf 4) 0 0, .mbxGo .rot 8 0, .mbxRspStatusRead (.vf 0 0) 0, .mbxRcvStatusRead 8,
    .mbxRcvGo 8 0, .fwStage 8 ⟨true, true, 0⟩, .fwStage 0 ⟨true, true, 65536⟩, .fwActivate 8, .fwDiscard 8, .keyRelease 8 none, .keyImport 8 0, .keyWithdraw 8,
    .mailboxPowerDown 16, .designate 4, .fwLoad 4, .fwArm 4, .keyLoad 4, .keyClear 4, .setMode 4, .fragment 3, .fragment 8,
    .doeGo 4 .spdm [], .doeAbort 4].all (fun c => !c.wf) = true := by decide

/-! ### Bring-up, loops and power (14) -/

theorem test_step_runs_front : nextIs (step { base with pending := [.vGrant 7, .vGrant 8] }) (fun t =>
    t.boot.vGrant == 7 && t.pending == [Instr.vGrant 8]) = true := by decide +kernel

theorem test_step_idles : nextIs (step base) (fun t => decide (t = base)) = true := by decide +kernel

/-- 14 R381: the enables are gone, what the fuse holds stays. -/
theorem test_power_on : ran .powerOn { base with boot := { operator := some 2, byFuse := true, windows := 3 } }
    (fun t => t.latch == {} && t.boot.operator == some 2 && t.boot.windows == 0 && t.parts == []) = true := by decide +kernel

/-- Witness of StepKeepsEnableOrder: a step from an ordered state that sets RUN. -/
theorem witness_enable_order : let s : State := { latch := { fwReady := true }, boot := { operator := some 0 }, pending := [.vaiEnableRun 0] }
    (s.latch.ordered && nextIs (step s) (fun t => t.latch.run && t.latch.ordered)) = true := by decide +kernel

/-- Witness of LatchesStayUntilPowerOn: a command other than POWER_ON outside dim mode, a phase of a reset, and POWER_ON. -/
theorem witness_latches_stay : (!base.latch.dim && ran .dimLate base (fun t => base.latch.le t.latch) &&
    ran .resetKillPhase { base with rcv := { phase := 2 } } (fun t => t.latch == live && t.rcv.phase == 3) && ran .powerOn base (fun t => t.latch.dim)) = true := by
  decide +kernel

/-- Witness of CalibrationAndReferenceClock, both clauses: with and without the clock. -/
theorem witness_calibration : (!State.reset.boot.noRef && ran .calibrationWindowEnd State.reset (fun t => t.boot.windows == 1 && t.latch.candleCal) &&
    ran .referenceClockStop State.reset (fun t => t.boot.noRef && ran .calibrationWindowEnd t (fun u => decide (u = t)) &&
      ran .referenceClockStart t (fun u => !u.boot.noRef))) = true := by decide +kernel

/-- A block whose dim mode ends with the latch that `l` still lacks, at the next sample of the loop. -/
def dimming (l : Latch) (b : Boot := {}) : State := { latch := l, boot := { b with operator := some 0 }, parts := [(0, part0)], ports := [(0, { enable := true, identified := true, ident := 0x00100000#64 })] }

/-- Dim mode is over: the loop restarts at the next boundary, the step time is there, the mode is NORMAL and the report moves on. -/
def dimEnded (t : State) : Bool := !t.latch.dim && (t.part 0).cvy.due && (t.part 0).stepNs == (t.stepTimes 0).1 && t.sec.mode == 1 && t.sec.reportGen == 1

/-- Witness of the end of dim mode by each of the three loops (14 R389). -/
theorem witness_dim_ends : let c := dimming { vConv := true, trimConv := true }
    let v := dimming { candleCal := true, trimConv := true } { vReq := some 60, vN := 40, vCfg := 0x0100640038408001#64 }
    let m := dimming { candleCal := true, vConv := true } { trimCfg := 0x00100804#32, trims := (List.range 4096).map fun i => (i, { code := some 9, n := 255, run := if i = 5 then 63 else 64 }) }
    (c.latch.dim && ran .calibrationWindowEnd c dimEnded && v.latch.dim && ran (.voltageSample 128) v dimEnded && m.latch.dim && ran (.trimSample 5 ⟨16, .none⟩) m dimEnded) = true := by
  decide +kernel

/-- A voltage loop 33 samples in, with request 30, cap 90.0 W, VMAX 56, VMIN 64 - 8 and a dead band of 8 (14 R393). -/
def volt (power : Nat) (pstate : Nat := 0) (n : Nat := 40) : State :=
  { base with boot := { vReq := some 60, vN := n, power := power, pstate := pstate, vCfg := 0x0100640038408000#64 } }

/-- Witness of VoltageLoopSample: EMERGENCY asks for code 0; above 15/16 of the cap the request falls; before 32 samples it stays (14 R393). -/
theorem test_voltage_sample : (ran (.voltageSample 0) (volt 0 2) (fun t => t.boot.vReq == some 0) &&
    ran (.voltageSample 0) (volt 1500) (fun t => t.boot.vReq == some 59 && t.boot.vCapped) &&
    ran (.voltageSample 65535) (volt 0 0 10) (fun t => t.boot.vReq == some 60 && t.boot.vN == 11)) = true := by decide +kernel

/-- Paths of 4,096: path 5 at trim `c` after `n` samples, hold `h`; FLOOR 8, TARGET 16, BAND 4 (14 R396). -/
def trimmed (c n h : Nat) : State :=
  { base with boot := { trimCfg := 0x00100804#32, trims := [(5, { code := some c, n := n, hold := h })] } }

/-- Witness of TrimLoopSample, each clause at its edge (14 R396): below FLOOR; sample 16; above TARGET + BAND with HOLD 0 and
255; TARGET + BAND. -/
theorem witness_trim_sample : let x (m : Nat) (s : State) (p : Trim → Bool) := ran (.trimSample 5 ⟨m, .none⟩) s (fun t => p (Tab.get {} t.boot.trims 5))
    (x 7 (trimmed 62 40 9) (fun q => q.code == some 63 && q.hold == 0) && x 3 (trimmed 10 40 0) (fun q => q.code == some 16) &&
    x 21 (trimmed 10 15 3) (fun q => q.code == some 10 && q.hold == 3 && q.n == 16) &&
    x 21 (trimmed 10 16 0) (fun q => q.code == some 10 && q.hold == 1) && x 21 (trimmed 10 40 255) (fun q => q.code == some 9 && q.hold == 0) &&
    x 20 (trimmed 10 255 7) (fun q => q.code == some 10 && q.hold == 0 && q.n == 255)) = true := by decide +kernel

/-- A path below its floor at trim 63 is due a fault of its bus's channel, and counts in LIMITED (14 R396). -/
theorem test_trim_fault : let b := (trimmed 63 40 0).boot
    ((b.samplePath 5 7).2 && (b.trimmed 5 7).limited == 1 && (Tab.get {} (b.trimmed 5 7).trims 5).code == some 63) = true := by decide +kernel

/-- Witness of PowerMessagesAndDimLate: HOT above 95; DIM_LATE with room and with a full ring (14 R389, R390; 13 R356). -/
theorem witness_power : (ran (.vGrant 60) base (fun t => t.boot.vGrant == 60) &&
    ran (.pState 1 800) base (fun t => t.boot.pstate == 1 && t.boot.limitDw == 800) &&
    ran (.pState 2 800) base (fun t => t.boot.limitDw == 0 && t.boot.vReq == some 0 && t.out == [.vReq 0]) &&
    ran (.trimApply 5) (trimmed 10 40 0) (fun t => (Tab.get {} t.boot.trims 5).live == some 10) &&
    ran (.trimApply 5) { trimmed 10 40 0 with latch := {} } (fun t => (Tab.get {} t.boot.trims 5).live == none)) = true := by decide +kernel

theorem witness_dim_late : let r := State.reset
    let full : State := { r with geq := { r.geq with tail := 4096 } }
    (r.latch.dim && !r.boot.dimLate && !r.geq.full && ran .dimLate r (fun t => t.boot.dimLate && t.geq.tail == 1) &&
    full.geq.full && ran .dimLate full (fun t => t.geq.lost == 1 && t.geq.overflow && t.geq.tail == 4096)) = true := by decide +kernel

/-- Witness of EnableBits, every clause: each bit with and without its prerequisite, and another PF (14 R384 to R386). -/
theorem witness_enable_bits : let at' (l : Latch) : State := { base with latch := l }
    (ran (.vaiEnableRun 0) (at' { fwReady := true }) (fun t => t.latch.run && t.boot.refused == 0) &&
    ran (.vaiEnableRun 0) (at' {}) (fun t => !t.latch.run && t.boot.refused == 1) &&
    ran (.vaiEnableEngines 0) (at' { run := true }) (fun t => t.latch.engines) && ran (.vaiEnableEngines 0) (at' {}) (fun t => t.boot.refused == 2) &&
    ran (.vaiEnableQueues 0) (at' { run := true }) (fun t => t.latch.queues) && ran (.vaiEnableQueues 0) (at' {}) (fun t => t.boot.refused == 4) &&
    ran (.vaiEnableIrq 0) (at' { queues := true }) (fun t => t.latch.irq) && ran (.vaiEnableIrq 0) (at' {}) (fun t => t.boot.refused == 8) &&
    ran (.vaiEnableRun 1) (at' { fwReady := true }) (fun t => !t.latch.run && (t.func (pfKey 1)).authDenied == 1)) = true := by decide +kernel

/-! ### Route words (05) -/

/-- Format A word of opcode `op` on s0 and s1 into s2, guarded by p7 (05 R136, R139). -/
def alu (op : Nat) (more : List (Nat × Nat) := []) : W128 := rw' ([(op, 120), (7, 117), (2, 106), (0, 99), (1, 92)] ++ more)

/-- A task at word `w` with s0 = `a` and s1 = `b`. -/
def regs (w : W128) (a b : W64) (g : Task → Task := id) : State := word w fun t => g ((t.setS 0 a).setS 1 b)

/-- Word `w` is ready, and command `c` issues it: s2 becomes `v`, the program counter 1. -/
def writes (c : Nat → Instr) (w : W128) (a b v : W64) (g : Task → Task := id) : Bool :=
  let s := regs w a b g
  s.ready 0 w && (s.task 0).guard w && ran (c 0) s (fun t => (t.task 0).sreg 2 == v && (t.task 0).ctx.pc == 1)

/-- Witness of AluResults for the words with two operands. -/
theorem witness_alu_two : let ok (w : W128) := chkA false true true w && ((regs w 1 2).task 0).opA w true == some 1#64 && ((regs w 1 2).task 0).opB w true == some 2#64
    ([1, 2, 3, 4, 5, 6, 7, 8, 9, 10, 11, 12, 13, 14].all fun o => ok (alu o)) = true := by decide +kernel

theorem test_add_wraps : writes .add (alu 0x01) (-1) 3 2 = true := by decide +kernel
theorem test_sub_wraps : writes .sub (alu 0x02) 3 5 (-2) = true := by decide +kernel
theorem test_mullo : writes .mullo (alu 0x03) 0x8000000000000001#64 3 0x8000000000000003#64 = true := by decide +kernel
theorem test_mulhu : writes .mulhu (alu 0x04) (-1) (-1) (-2) = true := by decide +kernel
theorem test_and : writes .and (alu 0x05) 0xF0F0#64 0xFF00#64 0xF000#64 = true := by decide +kernel
theorem test_or : writes .or (alu 0x06) 0xF0F0#64 0xFF00#64 0xFFF0#64 = true := by decide +kernel
theorem test_xor : writes .xor (alu 0x07) 0xF0F0#64 0xFF00#64 0x0FF0#64 = true := by decide +kernel
theorem test_shl_uses_six_bits : writes .shl (alu 0x08) 3 0x7F#64 0x8000000000000000#64 = true := by decide +kernel
theorem test_shr_fills_zero : writes .shr (alu 0x09) 0x8000000000000010#64 4 0x0800000000000001#64 = true := by decide +kernel
theorem test_sar_fills_sign : writes .sar (alu 0x0A) 0x8000000000000010#64 4 0xF800000000000001#64 = true := by decide +kernel
theorem test_minu : writes .minu (alu 0x0B) (-1) 3 3 = true := by decide +kernel
theorem test_maxu : writes .maxu (alu 0x0C) (-1) 3 (-1) = true := by decide +kernel
theorem test_mins : writes .mins (alu 0x0D) (-1) 3 (-1) = true := by decide +kernel
theorem test_maxs : writes .maxs (alu 0x0E) (-1) 3 3 = true := by decide +kernel

/-- SEL by p1, set and clear. -/
theorem witness_sel : let w := alu 0x0F [(1, 113)]
    (chkA true true true w && writes .sel w 5 6 5 (fun t => t.setP 1 true) && writes .sel w 5 6 6) = true := by decide +kernel

/-- MOV of an immediate (BIMM). -/
theorem witness_mov : let w := rw' [(0x10, 120), (7, 117), (2, 106), (1, 91), (0xFEDCBA9876543210, 0)]
    (chkA false false true w && writes .mov w 5 6 0xFEDCBA9876543210#64) = true := by decide +kernel

/-- CLZ and POPC of 0 and of other values. -/
theorem witness_clz_popc : let w (o : Nat) := rw' [(o, 120), (7, 117), (2, 106)]
    (chkA false true false (w 0x11) && writes .clz (w 0x11) 0 9 64 && writes .clz (w 0x11) 0x10000#64 9 47 && writes .clz (w 0x11) (-1) 9 0 &&
    chkA false true false (w 0x12) && writes .popc (w 0x12) 0 9 0 && writes .popc (w 0x12) (-1) 9 64) = true := by decide +kernel

/-- Format C: condition `cond`, combination `comb`, into predicate `pd`. -/
def cmpw (cond comb pd : Nat) (more : List (Nat × Nat) := []) : W128 :=
  rw' ([(0x20, 120), (7, 117), (cond, 112), (pd, 109), (comb, 107), (0, 99), (1, 92)] ++ more)

/-- CMP leaves predicate `pd` as `v`, started from `old`. -/
def compares (cond comb pd : Nat) (a b : W64) (old v : Bool) : Bool :=
  let w := cmpw cond comb pd
  let s := regs w a b fun t => t.setP pd old
  s.ready 0 w && chkC w && (s.task 0).guard w && ran (.cmp 0) s (fun t => (t.task 0).pred pd == v && (t.task 0).pred 7 && (t.task 0).ctx.pc == 1)

/-- Witness of CmpAndFalseGuards: the ten orders on (-1, 3), and on equal values; TST and TZ (05 R140). -/
theorem witness_cmp_conditions : ([(0, false), (1, true), (2, false), (3, false), (4, true), (5, true), (6, true), (7, true), (8, false), (9, false), (10, true),
      (11, false)].all (fun x => compares x.1 0 3 (-1) 3 (!x.2) x.2) &&
    [(0, true), (1, false), (2, false), (3, true), (4, false), (5, true), (6, false), (7, true), (8, false), (9, true)].all
      (fun x => compares x.1 0 3 7 7 (!x.2) x.2)) = true := by decide +kernel

/-- SET, AND and OR into p3; a write to p7 is ignored. -/
theorem witness_cmp_combines : (compares 0 1 3 7 7 false false && compares 0 1 3 7 7 true true && compares 1 2 3 7 7 true true && compares 1 2 3 7 7 false false &&
    compares 1 0 7 7 7 true true) = true := by decide +kernel

/-- The guard of word `w` is false, and only the program counter moves. -/
def skipped (c : Nat → Instr) (w : W128) : Bool :=
  let s := regs w 4 5
  s.ready 0 w && !(s.task 0).guard w && ran (c 0) s (fun t => decide (t.task 0 = (s.task 0).at' 1))

/-- Witness of CmpAndFalseGuards: words whose guard is false (05 R138). -/
theorem witness_false_guards : (skipped .add (alu 0x01 [(1, 116)]) && skipped .mov (rw' [(0x10, 120), (7, 117), (1, 116), (2, 106), (1, 92)]) &&
    skipped .popc (rw' [(0x12, 120), (7, 117), (1, 116), (2, 106)]) && skipped .cmp (cmpw 0 0 3 [(1, 116)])) = true := by decide +kernel

/-- The word goes to program counter `pc`. -/
def goes (c : Nat → Instr) (w : W128) (a : W64) (pc : Nat) (g : Task → Task := id) : Bool :=
  let s := regs w a 0 g
  s.ready 0 w && ran (c 0) s (fun t => (t.task 0).ctx.pc == pc)

/-- Witness of BranchesLoopAndJoin: BR, the seven tests taken at their edge, and not taken (05 R141). -/
theorem witness_br : let w (c : Nat) := rw' [(0x30, 120), (c, 112), (9, 96)]
    (([0, 1, 2, 3, 4, 5, 6].all fun c => chkB (w c)) &&
    goes .br (w 0) 5 9 && goes .br (w 1) 0 9 && goes .br (w 1) 1 1 && goes .br (w 2) 1 9 && goes .br (w 2) 0 1 && goes .br (w 3) (-1) 9 && goes .br (w 3) 0 1 &&
    goes .br (w 4) 0 9 && goes .br (w 4) (-1) 1 && goes .br (w 5) 1 9 && goes .br (w 5) 0 1 && goes .br (w 6) 0 9 && goes .br (w 6) 1 1) = true := by
  decide +kernel

/-- Witness of BranchesLoopAndJoin: BRP with PNEG clear and set (05 R142). -/
theorem witness_brp : let w (n : Nat) := rw' [(0x31, 120), (2, 113), (n, 112), (9, 96)]
    (goes .brp (w 0) 0 1 && goes .brp (w 1) 0 9 && goes .brp (w 0) 0 9 (fun t => t.setP 2 true)) = true := by decide +kernel

/-- Witness of BranchesLoopAndJoin: LOOP at counts 0, 1 and 2 (05 R143). -/
theorem witness_loop : let w := rw' [(0x32, 120), (9, 96), (0, 90)]
    (goes .loop w 0 1 && goes .loop w 1 1 && goes .loop w 2 9 && ran (.loop 0) (regs w 2 0) (fun t => (t.task 0).sreg 0 == 1)) = true := by decide +kernel

/-- A fence-like operation in slot 3: a WAIT that runs. -/
def busy : Op := { kind := .wait 1 1, deps := 0, phase := .running, iss := 0 }

/-- Witness of BranchesLoopAndJoin: JOIN with its slot free and occupied (05 R149). -/
theorem witness_join : let w := rw' [(0x42, 120), (8, 0)]
    (goes .join w 0 1 && ran (.join 0) (regs w 0 0 fun t => { t with win := [(3, some busy)] }) (fun t => (t.task 0).ctx.pc == 0 && (t.task 0).stall == .join)) = true := by
  decide +kernel

/-! ### Operations at issue (05, 06) -/

/-- A reference to offset `off` of object `n` (06 R157). -/
def ref (n : Nat) (off : Nat := 0) : W64 := BitVec.ofNat 64 (n * 2 ^ 40 + off)

/-- An open object of VF 0 in partition 0: 16 pages reserved, the Waystation pages 8 n to 8 n + 3 mapped. -/
def obj0 (n : Nat) : Obj :=
  { st := .opened, reservedPg := 16, extMax := 8, exts := [⟨0, 4, .pages [.ws (8 * n), .ws (8 * n + 1), .ws (8 * n + 2), .ws (8 * n + 3)], false⟩] }

/-- `base` with objects 1 to 4, a LIVE waypoint 1 of VF 0 at GEN 5 and value 10, and ring-slot credits in queue 2. -/
def shop : State :=
  { base with
    objs := { tab := [(1, obj0 1), (2, obj0 2), (3, obj0 3), (4, obj0 4)], next := 5 }
    wps := { tab := [(1, { value := 10, live := true, gen := 5 })], next := 2 }
    queues := [(2, { st := .enabled, gen := 3, cfg := 0x0000000800000000#64 })] }

/-- Handle of waypoint 1 (12 R334). -/
def wp1 : W64 := 0x0005000000000001#64

/-- Operation word `op` with operation number 3, selectors s0 to s5 as far as `n`, other fields `more`, and mask bit 3, its own. -/
def opw (op n : Nat) (more : List (Nat × Nat) := []) : W128 :=
  rw' ([(op, 120), (3, 114), (8, 0)] ++ [(0, 107), (1, 100), (2, 93), (3, 86), (4, 79), (5, 72)].take n ++ more)

/-- A task of `shop` at word `w`, with the values `l` in s0 onward. -/
def with' (w : W128) (l : List W64) (g : Task → Task := id) : State :=
  { shop with tasks := [(0, g (l.zipIdx.foldl (fun t x => t.setS x.2 x.1) (taskOf w)))] }

/-- The thread stands at operation word `w`, its operands read as `l` (the hypotheses of `State.readyOp`). -/
def stands (s : State) (w : W128) (sels : List Nat) (l : List W64) : Bool :=
  s.ready 0 w && ((s.task 0).op (opnumOf w)).isNone && (s.task 0).srcs sels == some l && opnumOf w == 3

/-- Command `c` occupies slot 3 with the operation `k`, ready at once, and the program counter moves on. -/
def takes (c : Nat → Instr) (s : State) (k : OpKind) : Bool :=
  ran (c 0) s fun t => ((t.task 0).op 3).any (fun o => o.kind == k && o.phase == .ready) && (t.task 0).ctx.pc == 1

/-- Witness of WaitAndSignalOccupy. -/
theorem witness_wait_signal : let go (op : Nat) := with' (opw op 2) [wp1, 12]
    (stands (go 0x40) (opw 0x40 2) [0, 1] [wp1, 12] && chkTwo (opw 0x40 2) && (go 0x40).waitOk 0 wp1 && takes .wait (go 0x40) (.wait wp1 12) &&
    stands (go 0x41) (opw 0x41 2) [0, 1] [wp1, 12] && chkTwo (opw 0x41 2) && (go 0x41).sigOk 0 wp1 && ((go 0x41).task 0).signals == 0 &&
    takes .signal (go 0x41) (.signal wp1 12)) = true := by decide +kernel

/-- A WAIT on a handle of another generation fails its task with 0x18 (05 R145). -/
theorem test_wait_stale : ran (.wait 0) (with' (opw 0x40 2) [0x0004000000000001#64, 12]) (fun t => (t.task 0).st != .running || (t.task 0).after == some (.fail 0x18)) = true := by
  decide +kernel

/-- Witness of MovesOccupy: DISPATCH with a constant buffer and summaries, and as a convoy member with tokens at the limit. -/
theorem witness_dispatch : let w := opw 0x60 2 [(2, 95), (14, 90), (1, 99)]
    let x := rw' [(0x60, 120), (3, 114), (8, 0), (0, 107), (1, 89), (2, 82)]
    let s := with' w [ref 1 64, ref 2 128]
    let t := with' x [ref 1, 0, 0x100000]
    (chkDispatch w && stands s w [0, 1, 0] [ref 1 64, ref 2 128, ref 1 64] && s.namesStatus 0 [nameOf (ref 1 64) 0 false, nameOf (ref 2 128) 256 false] == 0 &&
    takes .dispatch s (.dispatch (ref 1 64) (some (ref 2 128)) 2 14 false 0) && ran (.dispatch 0) s (fun u => (u.task 0).refs == [1, 2] && (u.obj 2).held == 1) &&
    chkDispatch x && stands t x [0, 0, 2] [ref 1, ref 1, 0x100000] && takes .dispatch t (.dispatch (ref 1) none 0 0 true 0x100000)) = true := by decide +kernel

/-- Witness of MovesOccupy: COPY between objects, within one object without overlap, and of 0 bytes. -/
theorem witness_copy : let w := opw 0x68 3
    let go (d s : W64) (n : Nat) : Bool :=
      let a := with' w [d, s, BitVec.ofNat 64 n]
      chkMove 91 w && stands a w [0, 1, 2] [d, s, BitVec.ofNat 64 n] && a.namesStatus 0 [nameOf s n false, nameOf d n true] == 0 && takes .copy a (.copy d s n false)
    (go (ref 1) (ref 2) 65536 && go (ref 1 256) (ref 1) 256 && go (ref 1) (ref 1) 0) = true := by decide +kernel

/-- Witness of MovesOccupy: COPY to an import entry that the task's VF owns (WIN set). -/
theorem witness_copy_window : let w := opw 0x68 3
    let d : W64 := BitVec.ofNat 64 (7 * 2 ^ 40 + 2 ^ 39 + 16)
    let s := { with' w [d, ref 2, 64] with parts := [(0, { part0 with imports := [(7, some { vf := 0, dev := 2, handle := 9 })] })] }
    (chkMove 91 w && stands s w [0, 1, 2] [d, ref 2, 64] && orWin d && s.importOk 0 d && takes .copy s (.copy d (ref 2) 64 false)) = true := by decide +kernel

/-- Witness of MovesOccupy: FILL with a pattern of 8 bytes. -/
theorem witness_fill : let w := opw 0x69 3 [(3, 91)]
    let s := with' w [ref 1 8, 0x55, 24]
    (chkMove 90 w && stands s w [0, 1, 2] [ref 1 8, 0x55, 24] && s.namesStatus 0 [nameOf (ref 1 8) 24 true] == 0 && takes .fill s (.fill (ref 1 8) 0x55 24 3)) = true := by
  decide +kernel

/-- Witness of MovesOccupy: GATHER without a transform, and with a KV_EXPAND. -/
theorem witness_gather : let w := opw 0x6A 4
    let s := with' w [ref 1, ref 2, ref 3 4, 2]
    let xv : W64 := BitVec.ofNat 64 (2 * 2 ^ 60 + 12 * 2 ^ 56 + 5 * 2 ^ 46)
    let x := rw' [(0x6A, 120), (3, 114), (8, 0), (0, 107), (1, 100), (2, 93), (3, 86), (1, 80), (4, 73)]
    let t := with' x [ref 1, ref 2, ref 3 4, 2, xv]
    (chkGather w && stands s w [0, 1, 2, 3, 0] [ref 1, ref 2, ref 3 4, 2, ref 1] &&
    s.namesStatus 0 [nameOf (ref 1) 8192 true, nameOf (ref 2) 0 false, nameOf (ref 3 4) 8 false] == 0 &&
    takes .gather s (.gather (ref 1) (ref 2) (ref 3 4) 2 0 false none) &&
    chkGather x && stands t x [0, 1, 2, 3, 4] [ref 1, ref 2, ref 3 4, 2, xv] && (xfOf xv).op == 2 && xfOk xv 0 false &&
    takes .gather t (.gather (ref 1) (ref 2) (ref 3 4) 2 0 false (some (xfOf xv)))) = true := by decide +kernel

/-- A transform descriptor (06 R176). -/
def xfw (op src dst glog2 key : Nat) : W64 := BitVec.ofNat 64 (op * 2 ^ 60 + src * 2 ^ 56 + dst * 2 ^ 52 + glog2 * 2 ^ 46 + key * 2 ^ 32)

/-- XFORM of `n` elements from object 2 to 1, with object 3 beside them where `aux`. -/
def xformed (c : Nat → Instr) (v : W64) (n : Nat) (aux : Bool) (g : State → State := id) : Bool :=
  let w := if aux then opw 0x70 5 [(1, 78)] else opw 0x70 4
  let d := if fld v 63 60 = 4 then 0 else ref 1
  let w := if fld v 63 60 = 4 then rw' [(0x70, 120), (3, 114), (8, 0), (1, 100), (2, 93), (3, 86)] else w
  let s := g (with' w [d, ref 2, BitVec.ofNat 64 n, v, ref 3])
  chkXform w && s.ready 0 w && xfOk v n aux && takes c s (.xform d (ref 2) n (xfOf v) (if aux then some (ref 3) else none) none false)

/-- Witness of TransformsOccupy: one XFORM of each kind. -/
theorem witness_transforms : (xformed .convert (xfw 0 0 1 0 0) 64 false && xformed .kvCompress (xfw 1 0 12 5 0) 512 false &&
    xformed .kvExpand (xfw 2 12 0 5 0) 512 false && xformed .fold (xfw 4 0 0 0 0) 64 false &&
    xformed .decrypt (xfw 3 0 0 0 9) 64 true (fun s => { s with sec := { mode := 1, keys := [(9, some ⟨false, 0, 1⟩)] } })) = true := by decide +kernel

/-- A DECRYPT whose key slot belongs to another partition fails with 0x18 (09 R275). -/
theorem test_decrypt_key : xformed .decrypt (xfw 3 0 0 0 9) 64 true (fun s => { s with sec := { mode := 1, keys := [(9, some ⟨false, 1, 1⟩)] } }) = false := by
  decide +kernel

/-- Witness of ObjectOperationsOccupy: SAMPLE. -/
theorem witness_sample_issue : let w := opw 0x78 6 [(4, 68), (1, 67)]
    let l := [ref 1 4, ref 2 64, ref 3, 7, 2, 0x100#64]
    let s := with' w l
    (chkSample w && stands s w [0, 1, 2, 3, 4, 5] l &&
    s.namesStatus 0 [nameOf (ref 1 4) 1024 false, nameOf (ref 2 64) 64 false, nameOf (ref 3) 12 true] == 0 && (s.task 0).publishes == 0 &&
    takes .sample s (.sample (ref 1 4) (ref 2 64) (ref 3) 7 2 256 4 1)) = true := by decide +kernel

/-- Witness of ObjectOperationsOccupy: PUBLISH, PIN and UNPIN. -/
theorem witness_publish_pin : let p := opw 0x80 2
    let q (u : Nat) := opw 0x81 2 [(u, 99), (1 - u, 98), (5 * (1 - u), 94)]
    let s (w : W128) := with' w [ref 1, 4096]
    (chkTwo p && stands (s p) p [0, 1] [ref 1, 4096] && (s p).namesStatus 0 [nameOf (ref 1) 4096 true] == 0 && takes .publish (s p) (.publish (ref 1) 4096) &&
    chkPin (q 0) && chkPin (q 1) && stands (s (q 0)) (q 0) [0, 1] [ref 1, 4096] && takes .pin (s (q 0)) (.pin (ref 1) 4096 false (some 5)) &&
    takes .unpin (s (q 1)) (.pin (ref 1) 4096 true none)) = true := by decide +kernel

/-- Witness of ObjectOperationsOccupy: OPENWIN and CLOSEWIN. -/
theorem witness_windows : let w := opw 0x82 3 [(1, 91), (6, 87)]
    let s := with' w [ref 1, 4096, 255]
    let x := rw' [(0x83, 120), (3, 114), (8, 0), (0, 107)]
    let t := with' x [0x0001000000000007#64]
    (chkOpenwin w && stands s w [0, 1, 2] [ref 1, 4096, 255] && takes .openwin s (.openwin (ref 1) 4096 255 1 6) &&
    stands t x [0] [0x0001000000000007#64] && takes .closewin t (.closewin 0x0001000000000007#64)) = true := by decide +kernel

/-- ENQUEUE to queue 2 with a pointer: with a credit, without one, and in Verkai mode. -/
def enq : W128 := rw' [(0x50, 120), (3, 114), (1, 111), (2, 104), (0, 97), (4, 81), (1, 80), (1, 74)]
def enqAt : State := with' enq [0x1000, 0x2000]

/-- Witness of EnqueueDrawsCredit, each clause. -/
theorem witness_enqueue : let s := enqAt
    let empty := { s with queues := [(2, { st := .enabled, gen := 3, cfg := 0x0000000800000000#64, credHeld := 1000000 })] }
    let v := { s with parts := [(0, { part0 with cfg := 0x0000000400000101#64 })] }
    (stands s enq [0] [0x1000] && 0 < (s.queue 2).free && (s.task 0).enqueues == 0 && ran (.enqueue 0) s (fun t => (t.task 0).pred 1 && (t.queue 2).credHeld == 1 &&
      (t.task 0).staged == [(0, .enq 2 0x1000 4 (some 0x2000) [])]) &&
    (empty.queue 2).free == 0 && ran (.enqueue 0) empty (fun t => !(t.task 0).pred 1 && (t.task 0).staged == []) &&
    v.verkai 0 && ran (.enqueue 0) v (fun t => (t.task 0).pred 1 && ((t.task 0).op 3).any fun o => o.kind == .enqueue 2 0x1000 4 (some 0x2000) [] true)) = true := by
  decide +kernel

/-! ### Segments, threads and records (01, 04) -/

/-- A task with a Waystation draft of pages 0 and 1 of object 1, a staged publish, a staged signal and a staged ENQUEUE. -/
def stagedTask (w : W128) : State :=
  with' w [77] fun t => { t with
    staged := [(2, .enq 2 0x1000 4 none [0, 0, 0, 0]), (0, .pub 1 [(0, 4096)]), (1, .sig wp1 12)]
    issN := 3, refs := [1]
    drafts := [⟨1, 0, 4, .cow, [(0, .ws 100), (1, .ws 101), (2, .ws 102), (3, .ws 103)], [.ws 8, .ws 9, .ws 10, .ws 11], 0, [0], [], false⟩] }

/-- Witness of CommitYieldAbort, its three words, with drafts, signals and an ENQUEUE staged. -/
theorem witness_segment_ends : let c := rw' [(0x52, 120), (0, 107), (1, 106)]
    let y := rw' [(0x51, 120)]
    let a := rw' [(0x53, 120), (0, 107)]
    let held : State := { stagedTask a with queues := [(2, { st := .enabled, gen := 3, cfg := 0x0000000800000000#64, credHeld := 3 })] }
    ((stagedTask c).ready 0 c && ((stagedTask c).task 0).idle && chkT c && ((stagedTask c).task 0).backPages == [] &&
    ran (.commit 0) (stagedTask c) (fun t => (t.task 0).st == .committing && (t.task 0).summary == 77 && (t.task 0).wantRec && (t.task 0).drafts == [] &&
      t.wps.sigq == [(wp1, 12, .task 0 1 0 none)] && (t.task 0).staged == [(2, .enq 2 0x1000 4 none [0, 0, 0, 0])] && (t.task 0).sigs == 1) &&
    (stagedTask y).ready 0 y && ran (.yield 0) (stagedTask y) (fun t => (t.task 0).st == .committing && (t.task 0).ending == .yield && (t.task 0).sigs == 1) &&
    held.ready 0 a && chkT a && ran (.abort 0) held (fun t => (t.task 0).ending == .abort && (t.task 0).staged == [] && (t.task 0).drafts == [] &&
      (t.queue 2).credHeld == 2)) = true := by decide +kernel

/-- COMMIT with an occupied slot stands still (04 R108). -/
theorem test_commit_waits : let c := rw' [(0x52, 120), (0, 107), (1, 106)]
    ran (.commit 0) (with' c [77] fun t => { t with win := [(3, some busy)] }) (fun t => (t.task 0).st == .running && (t.task 0).stall == .join) = true := by
  decide +kernel

/-- A committed publish makes the draft's page the object's page; the old one retires (04 R111, 11 R308). -/
theorem test_commit_publishes : ran (.commit 0) (stagedTask (rw' [(0x52, 120), (0, 107), (1, 106)]))
    (fun t => (t.obj 1).exts.map (·.store) == [.pages [.ws 100, .ws 101, .ws 102, .ws 103]] &&
      t.sto.retiring.map (fun x => x.pages) == [[.ws 8, .ws 9, .ws 10, .ws 11]]) = true := by decide +kernel

/-- An ADMITTED task of the running job, with order `n`. -/
def waits (n : Nat) (front : Bool) : Task := { taskOf 0 with st := .admitted, thread := none, order := n, front := front }

/-- Witness of TaskStartTakesFirst: a rerun goes ahead of earlier work (04 R98, R119). -/
theorem witness_task_start : let s : State := { base with tasks := [(3, waits 1 false), (5, waits 4 true), (9, waits 2 true)] }
    ((s.part 0).job == some (.plain 0 1 0) && s.inSlice 0 && s.threadFree 0 255 && (firstTask (s.admittedOf 0 (.plain 0 1 0))).any (fun e => e.1 == 9) &&
    ran (.taskStart 0 255) s (fun t => (t.task 9).st == .running && (t.task 9).thread == some 255 && (t.task 3).st == .admitted)) = true := by decide +kernel

/-- Witness of ParkResumeSuspend: parking on a JOIN; resuming when its slot is free; a tile boundary in Verkai mode. -/
theorem witness_park_resume : let j := rw' [(0x42, 120), (8, 0)]
    let s := with' j [] fun t => { t with win := [(3, some busy)], stall := .join }
    let p := with' j [] fun t => { t with thread := none, stall := .parked, parked := some 0, lit := some 3 }
    let done := with' j [] fun t => { t with stall := .join }
    let v : State := { with' j [] (fun t => { t with win := [(3, some busy)] }) with
      parts := [(0, { part0 with cfg := 0x0000000400000101#64, draining := true, running := false, job := none })] }
    ((s.task 0).canIssue && (s.task 0).parkable && !(s.task 0).awaited && (s.pickUnit 0).isSome &&
    ran (.taskPark 0) s (fun t => (t.task 0).thread == none && (t.task 0).parked == some 0 && Tab.get 0 (t.part 0).tsUnits 0 == 1 && t.wps.lans == [⟨0, 0, .parked 0 1⟩]) &&
    (done.task 0).canIssue && (done.task 0).awaited && ran (.taskPark 0) done (fun t => t == done) && p.litFirst (p.task 0) &&
    (p.task 0).awaited && p.inSlice 0 && p.threadFree 0 7 && ran (.taskResume 0 7) p (fun t => (t.task 0).thread == some 7 && (t.task 0).parked == none) &&
    v.verkai 0 && !(v.task 0).tileBusy && (v.pickUnit 0).isSome && ran (.verkaiSuspend 0) v (fun t => (t.task 0).suspended && (t.task 0).thread == none &&
      ((t.task 0).op 3).any fun o => o.phase == .ready)) = true := by decide +kernel

/-- A COMMITTING host segment of submission 0 whose release is done. -/
def ended (e : Ending) : Task := { taskOf 0 with st := .committing, thread := none, released := true, ending := e, cstat := 0x17, summary := 5, wantRec := true, refs := [1] }

/-- Witness of TaskRetires, with a partition that runs no slice. -/
theorem witness_task_retires : let s : State := { shop with
      tasks := [(0, ended .commit)], parts := [(0, { part0 with running := false, job := none })]
      queues := [(0, { st := .enabled, gen := 1, subs := [⟨0, 0, 1, true, 0, none⟩] })] }
    ((s.task 0).st == .committing && (s.task 0).released && (s.task 0).sigs == 0 && !(s.part 0).running &&
    ran (.taskRetire 0) s (fun t => (t.task 0).st == .retired && (t.task 0).refs == [] &&
      (t.queue 0).subs == [⟨0, 0, 1, true, 0, some ⟨0x17, 5, false, false, true⟩⟩])) = true := by decide +kernel

/-- Witness of RecordReleaseRerunsOrEmpties: a rerun; an end with nothing waiting; an end with a task that waits. -/
theorem witness_record_release : let killed (a : After) : State := { base with tasks := [(2, { taskOf 0 with st := .killed, after := some a, thread := none })] }
    ((killed .rerun |>.task 2).drained && !(killed .rerun).resetHolds 0 &&
    ran (.recordRelease 2) (killed .rerun) (fun t => (t.task 2).st == .admitted && (t.task 2).gen == 2 && (t.task 2).front) &&
    ran (.recordRelease 2) (killed (.fail 0x19)) (fun t => (t.task 2).st == .empty && (t.task 2).gen == 1) &&
    ran (.recordRelease 2) { killed (.fail 0x19) with waitTasks := [waits 8 false] } (fun t => (t.task 0).st == .admitted && t.waitTasks == [] && (t.task 2).st == .empty)) = true := by
  decide +kernel

/-- Witness of ContinuationResumesContext: record 6 yields with s0 = 9 and program counter 4; record 0 continues. -/
theorem witness_continuation : let y : Task := { taskOf 0 with st := .retired, thread := none, ending := .yield, ctx := { s := [(0, 9)], pc := 4 } }
    let s : State := { base with tasks := [(6, y)] }
    ((s.pickUnit 0).isSome && ran (.continuationAdmit 6) s (fun t => (t.task 0).st == .admitted && (t.task 0).sreg 0 == 9 && (t.task 0).ctx.pc == 4 &&
      (t.task 0).resumed && (t.task 0).parked == some 0 && (t.task 6).st == .empty)) = true := by decide +kernel

/-! ### Operations at start and completion (04, 06, 10) -/

/-- An operation in slot 3 of a RUNNING task of `shop`, ready, with issue number 0. -/
def opAt (k : OpKind) (g : Op → Op := id) (f : Part → Part := id) : State :=
  { with' 0 [] (fun t => { t with win := [(3, some (g { kind := k, deps := 0, phase := .ready, iss := 0 }))] }) with parts := [(0, f part0)] }

/-- The hypotheses of OperationStarts for slot 3, and then what OPERATION_START leaves. -/
def starts (k : OpKind) (p : State → Bool) (f : Part → Part := id) : Bool :=
  let s := opAt k id f
  ((s.task 0).op 3).any (fun o => o.phase == .ready && !s.heldBack (s.task 0) o) && ran (.operationStart 0 3) s p

/-- Slot 3 is free. -/
def freed (t : State) : Bool := ((t.task 0).op 3).isNone

/-- Witness of OperationStarts: size 0, WAIT at its target and beyond it and short of it, the three that stage. -/
theorem witness_starts : (starts (.copy (ref 1) (ref 2) 0 false) freed && starts (.wait wp1 10) freed && starts (.wait wp1 9) freed &&
    starts (.wait wp1 11) (fun t => !freed t && t.wps.lans == [⟨1, 11, .wait 0 3⟩]) &&
    starts (.signal wp1 12) (fun t => freed t && (t.task 0).staged == [(0, .sig wp1 12)]) &&
    starts (.openwin (ref 1) 4096 255 1 6) (fun t => freed t && (t.task 0).staged == [(0, .openW 255 1 0 4096 1 0)] && Tab.get 0 (t.task 0).ctx.u 6 == 0x00010000000000FF#64) &&
    starts (.closewin 0x0001000000000007#64) (fun t => freed t && (t.task 0).staged == [(0, .closeW 0x0001000000000007#64)])) = true := by decide +kernel

/-- Witness of OperationStarts for what draws an MTU credit, with and without one; the MTU is that of the first bank. -/
theorem witness_starts_mtu : let run (k : OpKind) := starts k (fun t => ((t.task 0).op 3).any (fun o => o.phase == .running && o.mtu == some 0) && t.mtuHeld 0 == 1)
    let full : State := { opAt (.fill (ref 1) 0 64 0) with mtus := [(0, 100)] }
    (run (.copy (ref 1) (ref 2) 64 false) && run (.fill (ref 1) 0 64 0) && run (.xform (ref 1) (ref 2) 64 (xfOf (xfw 0 0 1 0 0)) none none false) &&
    run (.xform 0 (ref 2) 64 (xfOf (xfw 4 0 0 0 0)) none none false) && full.opMtu 0 3 [ref 1] == some 0 && full.mtuFree 0 == 0 &&
    ran (.operationStart 0 3) full (fun t => decide (t = full))) = true := by decide +kernel

/-- A state with bytes at the start of Waystation page `p`. -/
def stored (s : State) (p : Nat) (l : List Byte) : State := l.zipIdx.foldl (fun s x => s.writeLoc (.ws (p * 4096 + x.2)) (some x.1)) s

/-- Witness of OperationStarts for a KV_EXPAND: its source is read as it starts; a page whose first bytes are not its mark ends the task (09 R267). -/
theorem witness_starts_early : let o : OpKind := .xform (ref 1) (ref 2) 512 (xfOf (xfw 2 12 0 5 0)) none none false
    let s (l : List Byte) : State := stored { opAt o with sto := { ws := { cells := [], zero := [16], bad := [] } } } 16 l
    let w (l : List Byte) : State := (s l).startMove 0 3 [ref 1, ref 2] [] (fun _ _ => 0) 0
    let read (l : List Byte) (bad : Bool) : Bool := match ((w l).task 0).op 3 with
      | some y => y.early && (match (w l).readTiles 0 3 y.toRead with
        | .ok v => ((v.task 0).op 3).any Op.zkBad == bad && (v.task 0).killable
        | _ => false)
      | none => false
    (read [0x36, 0x5A, 5] false && ran (.operationStart 0 3) (s [0x36, 0x5A, 5]) (fun t => ((t.task 0).op 3).any (fun x => x.phase == .running && x.data.length == 704)) &&
    read [0x36, 0x5B, 5] true && ran (.operationStart 0 3) (s [0x36, 0x5B, 5]) (fun t => (t.task 0).st == .killed && (t.task 0).after == some (.fail 0x19) && freed t)) = true := by
  decide +kernel

/-- A Verkai SIGNAL starts by leaving for the Waypoint Store and keeps its slot until it is applied (05 R148). -/
theorem test_signal_verkai : starts (.signal wp1 12) (fun t => t.wps.sigq == [(wp1, 12, .task 0 1 0 (some 3))] && !freed t)
    (fun p => { p with cfg := 0x0000000400000101#64 }) = true := by decide +kernel

/-- A running operation of the slot, with MTU 0's credit and the contents `cap`. -/
def running (k : OpKind) (cap : List Byte := []) : State :=
  { opAt k (fun o => { o with phase := .running, mtu := some 0, cap := cap }) with mtus := [(0, 1)] }

/-- The hypotheses of MovesComplete for slot 3 of record 0, and then what command `c` leaves. -/
def completes (c : Instr) (s : State) (p : State → Bool) : Bool := match (s.task 0).op 3 with
  | none => false
  | some o => o.phase == .running && o.mtu == some 0 && !s.verkai (s.task 0).part && (s.task 0).st == .running && s.unsampled && o.res == [] &&
    o.writes.all (fun y => !(s.obj (orNum y.1)).scratch) && match s.readTiles 0 3 o.toRead with
    | .ok u => (match (u.task 0).op 3 with
      | none => false
      | some o' => match o'.compute o'.pieces with
        | .error _ => false
        | .ok x => match u.writeTiles 0 3 (o'.toWrite x) with
          | .ok _ => ran c s p
          | _ => false)
    | _ => false

/-- A draft of object `n` on Waystation pages 100 to 103, of which page 0 has been copied. -/
def draftOf (n : Nat) : Draft := ⟨n, 0, 4, .cow, [(0, .ws 100), (1, .ws 101), (2, .ws 102), (3, .ws 103)], [.ws (8 * n)], 0, [0], [], false⟩

/-- A task's state with that draft. -/
def drafted (n : Nat) (s : State) : State := s.modTask 0 fun t => { t with drafts := [draftOf n] }

/-- A FILL of 16 bytes: they lie in the draft, and the object keeps its own. -/
theorem witness_fill_completes : completes (.mtuOperationComplete (taskId 0 1) 3) (drafted 1 (running (.fill (ref 1 8) 0x1122334455667788#64 16 3))) (fun t => freed t && t.mtuHeld 0 == 0 &&
      t.readLoc (.ws (100 * 4096 + 8)) == some 0x88 && t.readLoc (.ws (100 * 4096 + 23)) == some 0x11 && t.readLoc (.ws (100 * 4096 + 24)) == none &&
      t.readLoc (.ws (8 * 4096 + 8)) == none) = true := by decide +kernel

/-- A CONVERT of the binary32 values 1.0, -2.0, 0.5 and 3.0 to binary16 (09 R255). -/
theorem witness_convert_completes : let s := drafted 1 (stored (running (.xform (ref 1) (ref 2) 4 (xfOf (xfw 0 0 1 0 0)) none none false)) 16 [0, 0, 0x80, 0x3F, 0, 0, 0, 0xC0, 0, 0, 0, 0x3F, 0, 0, 0x40, 0x40])
    completes (.mtuOperationComplete (taskId 0 1) 3) s (fun t => freed t && t.mtuHeld 0 == 0 &&
      (List.range 8).map (fun i => t.readLoc (.ws (100 * 4096 + i))) == [0x00, 0x3C, 0x00, 0xC0, 0x00, 0x38, 0x00, 0x42].map some) = true := by decide +kernel

/-- A SAMPLE with TEMP 0 of the bfloat16 logits 1.0 and 2.0 draws token 1, at position 0 with MAX_POS 2 (10 R285 to R292). -/
theorem witness_sample_completes : let cap : List Byte := leBytes 4 0 ++ leBytes 4 0x3F800000 ++ leBytes 16 0 ++ leBytes 4 7 ++ leBytes 4 2 ++ leBytes 32 0
    let s := drafted 3 (stored (running (.sample (ref 1) (ref 2) (ref 3) 7 0 2 4 0) cap) 8 [0x80, 0x3F, 0x00, 0x40])
    let s := s.modTask 0 fun t => { t with win := t.win.map fun e => (e.1, e.2.map fun o => { o with taken := true }) }
    (((s.suOps 0 fun o => o.taken && o.phase == .running).map fun x => (x.1, x.2.1)) == [(0, 3)] && completes (.sampleComplete 0) s (fun t => freed t && Tab.get 0 (t.task 0).ctx.u 4 == 1 &&
      (List.range 4).map (fun i => t.readLoc (.ws (100 * 4096 + i))) == [0x01, 0x00, 0x00, 0x80].map some)) = true := by decide +kernel

/-- Witness of the turn of a Sampling Unit: MTU 0 has a SAMPLE, MTU 1 none; the turn is 1, so unit 0 takes it from the other. -/
theorem witness_sampling_unit : let s : State := { running (.sample (ref 1) (ref 2) (ref 3) 7 2 256 4 1) with suTurn := [(0, 1)] }
    ((s.suOps 0 fun o => o.taken) == [] && firstStarted (s.suOps 0 fun o => o.phase == .running && o.mtu == some 1) == none &&
    ran (.samplingUnitTake 0) s (fun t => ((t.task 0).op 3).any (·.taken) && Tab.get 0 t.suTurn 0 == 1)) = true := by decide +kernel

/-- Witness of StoredBytesAndRetiringPages: storage that no draft reads is released. -/
theorem witness_retiring : let s : State := { base with sto := { pkgUsed := [5, 6], retiring := [⟨1, 0, [.pkg 5, .ws 4], 0⟩] } }
    ((s.sto.retiring[0]?).any (fun x => !s.stillRead x) && ran (.retiringStorageRelease 0) s (fun t => t.sto.pkgUsed == [6] && t.sto.retiring == [])) = true := by
  decide +kernel

/-! ### Arithmetic: the manual's worked examples (09, 10) and a NIST vector -/

/-- The element bytes of one binary32 value converted to format `df` under rounding `rnd`. -/
def conv (v df rnd : Nat) : List Byte := (convertBytes 0 df 1 rnd 0 0 (leBytes 4 v) []).1

/-- The conversions of the table at 09 R264: 300, 500 and 70,000. -/
theorem test_convert_examples : (conv 0x43960000 3 0 == [0x79] && conv 0x43960000 3 2 == [0x79] && conv 0x43FA0000 3 0 == [0x7F] && conv 0x43FA0000 3 2 == [0x7E] &&
    conv 0x43FA0000 3 3 == [0x7E] && conv 0x4788B800 1 0 == [0x00, 0x7C] && conv 0x4788B800 1 2 == [0xFF, 0x7B] && conv 0x4788B800 1 3 == [0xFF, 0x7B]) = true := by
  decide +kernel

/-- The MXFP4 block of that table: amax 3.0 gives S = 0x7E, 0.7 gives element 0x3, and 3.0 gives 0x7. -/
theorem test_convert_mx : let l := (convertBytes 0 9 32 0 0 0 (leBytes 4 0x40400000 ++ leBytes 4 0x3F333333 ++ List.replicate 120 0) []).1
    (l.length == 32 && l.take 2 == [0x7E, 0] && l.drop 16 == 0x37#8 :: List.replicate 15 0) = true := by decide +kernel

/-- Row 3 of the ZK6 worked example (09), as exact values of its bfloat16 elements. -/
def zkRow : List Exact :=
  let l := [(0, 0x3E9A), (1, 0x3D80), (2, 0x4130), (3, 0xC030), (7, 0x7FC0), (11, 0x3E40), (19, 0xC0D0), (30, 0x4078)]
  (List.range 32).map fun c => (elemFmt 2).decode (((l.find? fun x => x.1 == c).map (·.2)).getD 0)

/-- KV_COMPRESS of that row: its scale, its codes and its escape entries. -/
theorem test_kv_compress_example : (zk6Scale [zkRow] == 0x7C &&
    ([0, 1, 2, 3, 7, 11, 19, 30].map fun c => ((zk6Row 0x7C 0 0 0 zkRow).1).getD c 0) == [2, 0, 0x20, 0x2A, 0x20, 2, 0x20, 31] &&
    (zk6Row 0x7C 0 0 0 zkRow).2 == [0x41300002, 0x7FC00007, 0xC0D00013]) = true := by decide +kernel

/-- AES as FIPS 197 gives it (09 R274): a value of the S-box, and a column mixed. -/
theorem test_aes : (sbox 0x53 == 0xED && sbox 0 == 0x63 && mixColumn [0xDB, 0x13, 0x53, 0x45] == [0x8E, 0x4D, 0xA1, 0xBC]) = true := by decide +kernel

/-- FOLD: two words of 1 and 2 fold to a = 3 and b = 1 + 3 (06 R179). -/
theorem test_fold : foldOf (leBytes 4 1 ++ leBytes 4 2) = 0x0000000400000003#64 := by decide +kernel

/-- The parameters of 10's worked example. -/
def params10 : Params := { temp := 0x3F000000, rep := 0x40000000, freq := 0x3F000000, topP := 0x3F666666, minP := 0x3E800000, topK := 4, win := 4, eos := 7, maxPos := 4096 }

/-- The logits after temperature and penalties, the weights, top-p, min-p and the two tokens left (10 worked example). -/
theorem test_sample_example : let logits := [0x3F000000, 0x3FC00000, 0x40000000, 0x3FC00000, 0xBF000000, 0x3FE00000, 0x3E800000, 0xBF800000]
    let hist := [0x80000005, 0, 0x80000009, 0x80000005, 0x80000002]
    let ls := logits.zipIdx.map fun x => stage params10 (countOf hist x.2) x.1
    let ws := (topCands 4 ls).map fun c => weight c.1 0x40400000
    (ls == [0x3F800000, 0x40400000, 0x3FC00000, 0x40400000, 0xBF800000, 0x3F400000, 0x3F000000, 0xC0000000] &&
    (topCands 4 ls).map (·.2) == [1, 3, 2, 0] && ws == [2147483648, 2147483648, 479168370, 290630308] && topPKeep params10.topP ws == 3 &&
    minPKeep params10.minP (ws.take 3) == 2 && [1, 3].contains (selectToken params10 hist 7 6 logits)) = true := by decide +kernel

/-! ### Dispatches and engine ports (07) -/

/-- The last bundle of a stream, one step, BOUND all ones, whose lane 0 posts (07 R189). -/
def bundle0 : Bundle := { idx := 0, last := true, count := 1, hdr := 0x3F014000C0FFFFFF#64, slots := [0x80000000#32, 0, 0, 0] }

/-- A dispatch of slot 3 of record 0: one port, port 0, one bundle, SUMCOMB ADD and SUMMASK bit 0; DTAG 5. -/
def disp0 : Disp :=
  { owner := .task 0 1 3, dtag := 5, obj := 1, off := 0, nports := 1, bundles := 1, wcet := 100, sumcomb := 3, summask := 1, cbuf := [], mtu := 0, running := true
    lps := [{ port := 0, cb := true }], acc := [0], accKey := [0] }

/-- An enabled, identified port 0 of partition 0, EGEN 7; PART_GEN 9; the dispatch `d` runs. -/
def port0 : EPort := { enable := true, egen := 7, identified := true, ident := 0x00100000#64 }
def streaming (d : Disp) (e : EPort := port0) : State :=
  { with' 0 [] (fun t => { t with win := [(3, some { kind := .dispatch (ref 1) none 2 1 false 0, deps := 0, phase := .running, iss := 0, mtu := some 0 })] }) with
    parts := [(0, { part0 with pgen := 9, seqr := [d] })], ports := [(0, e)], mtus := [(0, 1)] }

/-- The dispatch with its bundle fetched, offered and accepted as the numbers say. -/
def dispAt (offered accepted : Nat) (g : LPort → LPort := id) (f : Disp → Disp := id) : Disp :=
  f { disp0 with next := 1, steps := 1, fetched := [bundle0], lps := [g { port := 0, cb := true, offered := offered, accepted := accepted }] }

def tag0 : Tag := ⟨9, 7, 5⟩

/-- Witness of BundlesFetchedAndOffered, fetch: the bundle's bytes at 0x40 of the stream. -/
theorem witness_bundle_fetch : let s := stored (streaming disp0) 8 (List.replicate 64 0 ++ leBytes 8 0x3F01400000FFFFFF ++ leBytes 4 0x80000000 ++ leBytes 12 0)
    (s.dispIdx 0 (fun d => d.running && !d.stopping) == some 0 && disp0.wantsMore && s.dispReader 0 disp0 == some (0, 3) &&
    disp0.bundleOk 0x3F01400000FFFFFF#64 [0x80000000#32, 0, 0, 0] &&
    ran (.bundleFetch 0) s (fun t => (t.part 0).seqr.map (fun d => (d.next, d.steps, d.fetched.map (·.slots))) == [(1, 1, [[0x80000000#32, 0, 0, 0]])])) = true := by
  decide +kernel

/-- Witness of BundlesFetchedAndOffered, offer: with 15 credits held, and with the constant buffer still to send. -/
theorem witness_bundle_offer : let s := streaming (dispAt 0 0) { port0 with held := 15 }
    let c := streaming (dispAt 0 0 fun l => { l with cb := false })
    ((s.eport 0).usable && ran (.bundleOffer 0 0) s (fun t => (t.eport 0).held == 16 && (t.eport 0).fwd.map (fun m => (m.kind, m.pgen, m.egen, m.dtag)) == [(0, 9, 7, 5)] &&
      (t.part 0).seqr.map (fun d => d.lps.map fun l => (l.offered, l.posts)) == [[(1, [(0, 0)])]]) &&
    ran (.bundleOffer 0 0) c (fun t => (t.eport 0).fwd.length == 17)) = true := by decide +kernel

/-- No offer beyond the 16 credits (07 R195). -/
theorem test_offer_needs_credit : ran (.bundleOffer 0 0) (streaming (dispAt 0 0) { port0 with held := 16 }) (fun t => (t.eport 0).fwd == []) = true := by decide +kernel

/-- Witness of ReturnMessages: ACCEPT, POST, WDONE that completes, ABANDON_ACK, FAULT of a running and of a stopping one. -/
theorem witness_return_messages : let s := streaming (dispAt 1 0 fun l => { l with posts := [(0, 0)] }) { port0 with held := 1 }
    let w := streaming (dispAt 1 1 (fun l => { l with lastAcc := true }) fun d => { d with acc := [41] })
    let x := streaming (dispAt 1 0 id fun d => { d with stopping := true }) { port0 with held := 1 }
    ((s.matchRet 0 tag0).isSome && ran (.accept 0 tag0 0x00640032#64) s (fun t => (t.eport 0).held == 0 &&
      (t.part 0).seqr.map (fun d => (d.occC, d.occM, d.lps.map (·.lastAcc))) == [(50, 100, [true])] && t.hands (ckey 1 0) == 1) &&
    ran (.post 0 tag0 0 0 41) s (fun t => (t.part 0).seqr.map (fun d => d.acc) == [[41]]) &&
    (w.matchRet 0 tag0).isSome && ran (.wdone 0 tag0) w (fun t => (t.part 0).seqr == [] && freed t && t.mtuHeld 0 == 0 && Tab.get 0 (t.task 0).ctx.u 2 == 41) &&
    (x.matchRet 0 tag0).isSome && ran (.abandonAck 0 tag0 9) x (fun t => (t.eport 0).held == 0) &&
    ran (.fault 0 tag0 1 2) s (fun t => (t.task 0).st == .killed && (t.task 0).after == some (.fail 0x11)) && ran (.fault 0 tag0 1 2) x (fun t => (t.task 0).st == .running)) = true := by
  decide +kernel

/-- A POST of `v` under SUMCOMB `code`, on an accumulator `old` kept from the post `key`, leaves `new`. -/
def posts (code : Nat) (old v : W64) (key : Nat) (new : W64) : Bool :=
  ran (.post 0 tag0 0 0 v) (streaming (dispAt 1 0 (fun l => { l with posts := [(0, 0)] }) fun d => { d with sumcomb := code, acc := [old], accKey := [key] }))
    fun t => (t.part 0).seqr.map (fun d => d.acc) == [[new]]

/-- Witness of ReturnMessages: SUMCOMB LAST with a later and an earlier post, MAXU, MAXF above, not above and NaN (07 R203). -/
theorem witness_post_codes : (posts 0 7 9 1 9 && posts 0 7 9 2 7 && posts 1 7 9 0 9 && posts 1 9 7 0 9 && posts 2 0x3F800000 0x40000000 0 0x40000000 &&
    posts 2 0x40000000 0x3F800000 0 0x40000000 && posts 2 0x80000000 0 0 0 && posts 2 0x3F800000 0x7FC00000 0 0x3F800000 && posts 3 7 9 0 16) = true := by decide +kernel

/-- Witness of ReturnMessages: the WDONE that completes a convoy, whose one member is at its last entry (08 R231, R235). -/
theorem witness_convoy_completes : let s := streaming (dispAt 1 1 (fun l => { l with lastAcc := true }) fun d => { d with owner := .convoy })
    let m : Member := { r := 0, gen := 1, slot := 3, stream := ref 1, cb := [], tokens := 1, next := 1, joined := 0 }
    let s := s.modPart 0 fun p => { p with cvy := { p.cvy with members := [(0, some m)], run := some [⟨0, 0, 1, 0, true, 0, 1, 0⟩] } }
    ((s.part 0).seqr.all (fun d => !d.drained) && (s.matchRet 0 tag0).isSome && ran (.wdone 0 tag0) s (fun t => (t.part 0).seqr == [] && (t.part 0).cvy.run == none &&
      (Tab.get none (t.part 0).cvy.members 0).isNone && freed t && t.mtuHeld 0 == 0)) = true := by decide +kernel

/-- A POST outside SUMMASK ends the task with 0x11 (07 R203); a return with another DTAG is late (R199). -/
theorem test_post_outside : (ran (.post 0 tag0 0 1 41) (streaming (dispAt 1 0 fun l => { l with posts := [(0, 0)] })) (fun t => (t.task 0).after == some (.fail 0x11)) &&
    ran (.post 0 ⟨9, 7, 6⟩ 0 0 41) (streaming (dispAt 1 0)) (fun t => (t.eport 0).late == 1)) = true := by decide +kernel

/-- Witness of PortMessagesAndControl: CLEAR_DONE, IDENT with and without a step time, a latch, the two writes, late messages. -/
theorem witness_port_messages : let s : State := { base with ports := [(0, { port0 with clearing := true, identified := false, asked := true, fwd := [⟨0, 9, 7, 5, 0, 0, 0⟩] })] }
    let off : State := { base with ports := [(0, { port0 with enable := false, held := 3 })] }
    (ran (.clearDone 0 ⟨0, 7, 0⟩) s (fun t => !(t.eport 0).clearing) && ran (.ident 0 ⟨0, 7, 0⟩ 4 0x00100000#64) s (fun t => (t.eport 0).identified) &&
    ran (.ident 0 ⟨0, 7, 0⟩ 4 0x0000FFFF#64) s (fun t => !(t.eport 0).identified) && ran (.ident 0 ⟨0, 7, 0⟩ 3 0x00100000#64) s (fun t => !(t.eport 0).identified) &&
    ran (.forwardMessageLatch 0) s (fun t => (t.eport 0).fwd == [] && t.hands (ckey 1 0) == 1) &&
    ran (.eportEnable 0 0 1) off (fun t => (t.eport 0).enable && (t.eport 0).fwd.map (·.kind) == [4]) && ran (.eportEnable 0 0 0) s (fun t => !(t.eport 0).enable) &&
    ran (.eportReset 0 0 3) off (fun t => (t.eport 0).egen == 8 && (t.eport 0).held == 0 && (t.eport 0).clearing && (t.eport 0).fwd.any fun m => m.kind == 3 && m.egen == 8) &&
    ran (.ident 0 ⟨0, 7, 0⟩ 4 0x00100000#64) off (fun t => (t.eport 0).late == 1 && (t.eport 0).identified == port0.identified) &&
    s.matchRet 0 tag0 == none && ran (.wdone 0 tag0) s (fun t => (t.eport 0).late == 1) &&
    ran (.accept 0 tag0 0) { base with ports := [(0, { port0 with retired := true, late := 65535 })] } (fun t => (t.eport 0).late == 65535)) = true := by decide +kernel

/-! ### Engine, peer and host requests, waypoints (11, 12, 13) -/

/-- A running dispatch on object 1, which is scratch, of a task that may use object 2. -/
def asking : State := { stored (streaming (dispAt 1 0)) 8 [5, 6, 7, 8] with objs := { tab := [(1, { obj0 1 with attr := 1 }), (2, obj0 2)], next := 3 } }

/-- Witness of EngineRequests: a read and a write of scratch, and a check that fails (object 3 is FREE). -/
theorem witness_engine_requests : let s := { asking with tasks := asking.tasks.map fun e => (e.1, { e.2 with scr := [(1, 0, 4)] }) }
    ((s.matchRet 0 tag0).isSome && s.engineStatus 0 (ref 1) 4 false == 0 && !s.inHole 1 0 4 && !s.poolBad 1 0 4 && s.hostSegs (s.task 0) 1 0 4 == [] &&
    ran (.engineMemoryRequest 0 tag0 none .read (ref 1) 4 []) s (fun t => t.out == [.engineReply 0 [some 5, some 6, some 7, some 8]] && (t.task 0).refs == [1]) &&
    s.engineStatus 0 (ref 1) 2 true == 0 && ran (.engineMemoryRequest 0 tag0 none .write (ref 1) 2 [9, 10]) s (fun t => t.readLoc (.ws 32768) == some 9 &&
      t.readLoc (.ws 32769) == some 10 && t.readLoc (.ws 32770) == some 7) &&
    s.engineStatus 0 (ref 3) 4 false == 0x18 && ran (.engineMemoryRequest 0 tag0 none .read (ref 3) 4 []) s (fun t => (t.task 0).after == some (.fail 0x18))) = true := by
  decide +kernel

/-- A window 7 of VF 0 on bytes 4,096 to 8,191 of object 1, open to reads and writes at GEN 3; its handle. -/
def windowed : State := { shop with funcs := [(0, { vf0 with wins := [(7, { isOpen := true, gen := 3, obj := 1, off := 4096, len := 4096, acc := 3 })] }), (1024, pf0)] }
def win7 : W64 := 0x0003000000000007#64

/-- Witness of PeerWindowMessages: the last byte of the window, and one beyond. -/
theorem witness_peer_window : let s := stored windowed 9 [1, 2]
    (s.peerOk win7 4095 1 true && ran (.peerWindowWrite win7 4095 [0xAB]) s (fun t => t.readLoc (.ws (9 * 4096 + 4095)) == some 0xAB) &&
    s.peerOk win7 0 2 false && ran (.peerWindowRead win7 0 2) s (fun t => t.out == [.fabricReply 0 [1, 2]]) &&
    !s.peerOk win7 4095 2 true && ran (.peerWindowWrite win7 4095 [1, 2]) s (fun t => (t.func 0).winDrop == 1) &&
    !s.peerOk win7 4096 1 false && ran (.peerWindowRead win7 4096 1) s (fun t => (t.func 0).winDrop == 1 && t.out == [.fabricReply 0x18 []])) = true := by decide +kernel

/-- An operation of record 0 that waits, a translation of page 16 and one of page 17, and requests with tags 3 and 4. -/
def sp0 : Space := ⟨0, 0, none⟩
def asked : State :=
  { opAt (.copy (ref 1) (ref 2) 64 false) with xl :=
    { ents := [⟨sp0, 16, true, true, 0x40⟩, ⟨sp0, 17, true, true, 0x41⟩], users := [(sp0, 16, .op 0 1 3), (sp0, 17, .op 0 1 3)]
      reqs := [⟨0, 3, .xlate sp0 18, .op 0 1 3, 0, false, false⟩, ⟨0, 4, .read sp0 65536 4, .op 0 1 3, 0x40000, false, false⟩]
      pri := [⟨sp0, 17, true, [.op 0 1 3], true⟩] } }

/-- AtsInvalidation: page 16 goes, page 17 stays. -/
theorem test_ats_invalidation : ran (.atsInvalidation 0 0 none 15 2) asked (fun t => t.xl.ents.map (·.page) == [17] && t.out == [.invalidationDone 0]) = true := by
  decide +kernel

/-- Witness of PageResponses: each response, the timeout, and the toggle that ends a lockout (11 R320). -/
theorem witness_page_responses : ((asked.priAt 0 0).isSome && asked.xl.waiting == [] &&
    ran (.priResponse 0 0 .success) asked (fun t => t.findX sp0 17 == none && t.xl.fails == [] && t.xl.pri == []) &&
    ran (.priResponse 0 0 .invalid) asked (fun t => t.xl.fails == [(.op 0 1 3, .xlate sp0 17)] && t.objs.priFail == 1) &&
    ran (.priTimeout 0 0) asked (fun t => t.objs.priFail == 1) &&
    ran (.priResponse 0 0 .failure) asked (fun t => (t.func 1024).lockout && ran (.priEnableToggle 0) t (fun u => !(u.func 1024).lockout))) = true := by decide +kernel

/-- Witness of HostCompletions: a translation, data of a live and of a killed task, a refusal, poisoned data. -/
theorem witness_host_completions : let dead : State := { asked with tasks := [(0, { taskOf 0 with gen := 2 })] }
    (asked.whoLive (.op 0 1 3) && ran (.hostCompletion 0 3 (.xlat true false 0x99)) asked (fun t => (t.findX sp0 18).any (fun e => e.dst == 0x99 && e.r && !e.w) && t.xl.reqs.length == 1) &&
    ran (.hostCompletion 0 4 (.data [1, 2, 3, 4])) asked (fun t => t.gotOf (.op 0 1 3) == [(sp0, 65536, 4)] && t.readLoc (.host 0 0x40003) == some 4 && t.xl.reqs.length == 1) &&
    !dead.whoLive (.op 0 1 3) && ran (.hostCompletion 0 4 (.data [1, 2, 3, 4])) dead (fun t => t.xl.reqs.length == 1 && t.readLoc (.host 0 0x40003) == some 0) &&
    ran (.hostCompletion 0 3 .refused) asked (fun t => t.xl.fails == [(.op 0 1 3, .xlate sp0 18)]) &&
    ran (.hostCompletion 0 3 .poisoned) asked (fun t => (t.chan (ckey 5 0)).uncorr == 1 && t.xl.reqs.length == 2)) = true := by decide +kernel

/-- Witness of HostCompletions for a pin cache: a translation of a page that a pin covers, and of one that none does (11 R310, R318). -/
theorem witness_pin_completions : let s (pins : List Pin) : State := { base with
      objs := { tab := [(1, { st := .opened, place := 4, reservedPg := 16, exts := [⟨0, 4, .host 0x12000, false⟩] })], next := 2 }
      parts := [(0, { part0 with pins := pins })], xl := { reqs := [⟨0, 3, .xlate sp0 18, .pin 0, 0, false, false⟩] } }
    let held := s [⟨0, 1, 0, 4096, none⟩]
    (held.pinHolds sp0 18 && held.whoLive (.pin 0) && ran (.hostCompletion 0 3 (.xlat true true 0x99)) held (fun t => (t.findX sp0 18).any (·.dst == 0x99) && t.xl.reqs == []) &&
    !(s []).pinHolds sp0 18 && ran (.hostCompletion 0 3 (.xlat true true 0x99)) (s []) (fun t => (t.findX sp0 18).isNone && t.xl.reqs == [])) = true := by decide +kernel

/-- Slot 4 of VF 0 names waypoint 1, vector 2; a lantern of a WAIT waits for 12, one of slot 5 for 20. -/
def beacon : State :=
  { opAt (.wait wp1 12) (fun o => { o with phase := .running }) with
    funcs := [(0, { vf0 with slots := [(4, { handle := wp1, vector := 2 }), (5, { handle := wp1, vector := 3, armed := true, target := 20 })] }), (1024, pf0)]
    wps := { tab := [(1, { value := 10, live := true, gen := 5 })], next := 2, lans := [⟨1, 12, .wait 0 3⟩, ⟨1, 20, .slot 0 5⟩] } }

/-- Witness of SignalsApply, through a slot: ahead with the first lantern, with both; equal, behind, stale; no waypoint behind slot 6. -/
theorem witness_signals : let go (v : W64) (p : State → Bool) : Bool := ran (.wpSignal (.vf 0 0) 4 v) beacon p
    (beacon.winFunc (.vf 0 0) == some 0 && (beacon.sigBy wp1 (.window 0)).2 &&
    go 12 (fun t => (t.wp 1).value == 12 && freed t && t.wps.lans == [⟨1, 20, .slot 0 5⟩]) &&
    go 20 (fun t => t.wps.lans == [] && !(Tab.get {} (t.func 0).slots 5 : Slot).armed && t.out == []) &&
    go 10 (fun t => decide (t = beacon)) && go 9 (fun t => decide (t = beacon)) && go (10 + 0x8000000000000000#64) (fun t => (t.wp 1).value == 10 && (t.func 0).wpStale == 1) &&
    ran (.wpSignal (.vf 0 0) 6 12) beacon (fun t => (t.wp 1).value == 10 && (t.func 0).wpRefused == 1)) = true := by decide +kernel

/-- A peer's signal needs a waypoint that is exported to peers (12 R346, R347). -/
theorem test_peer_signal : let s : State := { base with wps := { tab := [(1, { value := 10, live := true, gen := 5, peer := true })], next := 2 } }
    (ran (.peerSignal wp1 11) s (fun t => (t.wp 1).value == 11) && ran (.peerSignal wp1 11) shop (fun t => (t.wp 1).value == 10)) = true := by decide +kernel

/-- A COMMITTING task with one signal on its way, before a peer's. -/
def released (h v : W64) : State :=
  { with' 0 [] (fun t => { t with st := .committing, sigs := 1 }) with wps := { shop.wps with sigq := [(h, v, .task 0 1 0 none), (wp1, 99, .peer)] } }

/-- Witness of ReleasedSignalsApply: ahead, stale, and of a generation that is gone. -/
theorem witness_released_signals : (ran .waypointSignalApply (released wp1 11) (fun t => (t.wp 1).value == 11 && (t.task 0).sigs == 0 && (t.task 0).cstat == 0 &&
      t.wps.sigq.length == 1) &&
    ran .waypointSignalApply (released wp1 (10 + 0x8000000000000000#64)) (fun t => (t.wp 1).value == 10 && (t.task 0).cstat == 0x14) &&
    ran .waypointSignalApply (released 1 11) (fun t => (t.wp 1).value == 10 && (t.task 0).cstat == 0x18)) = true := by decide +kernel

/-- Witness of ArmedSlots: reached, not reached, and without a waypoint. -/
theorem witness_armed_slots : (beacon.waitOk 0 wp1 && ran (.wpArm (.vf 0 0) 4 10) beacon (fun t => !(Tab.get {} (t.func 0).slots 4 : Slot).armed && bit (t.func 0).pend 2) &&
    ran (.wpArm (.vf 0 0) 5 11) beacon (fun t => (Tab.get {} (t.func 0).slots 5 : Slot).target == 11 && t.wps.lans == [⟨1, 12, .wait 0 3⟩, ⟨1, 11, .slot 0 5⟩]) &&
    ran (.wpArm (.vf 0 0) 6 11) beacon (fun t => (t.func 0).wpRefused == 1)) = true := by decide +kernel

/-! ### Queues (03) -/

/-- Queue 5 of VF 0 in the worked example of chained entries (03): 16 slots, GEN 0x2C, HEAD and TAIL 0xFF_FFFA, 11 credits held. -/
def q5 : Queue :=
  { base := 0x10000, cplBase := 0x20000, size := 0x00000604#32, st := .enabled, gen := 0x2C, head := 0xFFFFFA, tail := 0xFFFFFA, credHeld := 11, expSeq := 0x7D0 }

/-- `base` with that queue, changed by `g`, and translations of the pages of its rings. -/
def queued (g : Queue → Queue := id) : State :=
  { base with queues := [(5, g q5)], xl := { ents := [⟨sp0, 16, true, true, 0x110⟩, ⟨sp0, 32, true, true, 0x120⟩], users := [(sp0, 16, .slots 5), (sp0, 32, .record 5)] } }

/-- Witness of QueueCommands: every command in a state that takes it and in one that does not. -/
theorem witness_queue_commands : let at' (st : QSt) := queued fun q => { q with st := st }
    let go (c : Instr) (s : State) (st : QSt) (code : Nat) : Bool := ran c s fun t => (t.queue 5).st == st && (t.func 0).cmdResult == code
    let w := Window.vf 0 0
    ((base.winFunc w) == some 0 && (at' .absent |>.takeShadow 5).isSome && ran (.queueCreate w 5) (at' .absent) (fun t => (t.queue 5).st == .created &&
      (t.queue 5).gen == 0x2D && (t.queue 5).head == 0 && (t.queue 5).size == 0x00000604#32 && (t.func 0).cmdResult == 0) &&
    go (.queueCreate w 5) { at' .absent with latch := {} } .absent 0x07 && go (.queueCreate w 5) (at' .quiesced) .quiesced 0x02 &&
    go (.queueEnable w 5) (at' .created) .enabled 0 && go (.queueEnable w 5) (at' .quiesced) .enabled 0 && go (.queueEnable w 5) (at' .enabled) .enabled 0x02 &&
    go (.queueQuiesce w 5) (at' .enabled) .quiescing 0 && go (.queueQuiesce w 5) (at' .created) .created 0x02 &&
    go (.queueDestroy w 5) (at' .quiescing) .destroying 0 && go (.queueDestroy w 5) (at' .destroying) .destroying 0x02 && go (.queueDestroy w 5) (at' .absent) .absent 0x02) = true := by
  decide +kernel

/-- A queue of the highest generation is created with GEN 1; a task of a destroyed queue is killed with 0x16 (03 R77, R96). -/
theorem test_queue_generation : (ran (.queueCreate (.vf 0 0) 5) (queued fun q => { q with st := .absent, gen := 255 }) (fun t => (t.queue 5).gen == 1) &&
    ran (.queueDestroy (.vf 0 0) 5) { queued with tasks := [(0, { taskOf 0 with q := 5, qgen := 0x2C, job := .plain 5 0x2C 0 })] }
      (fun t => (t.task 0).st == .killed && (t.task 0).after == some (.fail 0x16))) = true := by decide +kernel

/-- Witness of QueueEndsAndHeads: both ends; a head write at the ring's limit and beyond; HELD_CLEAR. -/
theorem witness_queue_ends : let w := Window.vf 0 0
    let held := queued fun q => { q with held := true, heldRec := [1], c := 64 }
    (ran (.queueQuiesced 0 5) (queued fun q => { q with st := .quiescing, credHeld := 0 }) (fun t => (t.queue 5).st == .quiesced) &&
    ran (.queueAbsent 0 5) (queued fun q => { q with st := .destroying, credHeld := 0, shadow := [3] }) (fun t => (t.queue 5).st == .absent && (t.queue 5).shadow == []) &&
    ran (.qCplHeadWrite w 5 0) held (fun t => (t.queue 5).cplHead == 0 && (t.queue 5).refused == 0) &&
    ran (.qCplHeadWrite w 5 0xFFFFFF) held (fun t => (t.queue 5).cplHead == 0 && (t.queue 5).refused == 1) && ran (.heldClear w 5) held (fun t => !(t.queue 5).held)) = true := by
  decide +kernel

/-- Witness of Doorbells, on the worked example (03): orders 1, 4 and 5, the largest tail taken, and a doorbell backwards. -/
theorem witness_doorbells : let w := Window.vf 0 0
    (ran (.doorbell w 5 0x2C000003) (queued) (fun t => (t.queue 5).tail == 3 && (t.queue 5).refused == 0) &&
    ran (.doorbell w 5 0x2B000004) (queued) (fun t => (t.queue 5).stale == 1 && (t.queue 5).tail == 0xFFFFFA) &&
    ran (.doorbell w 5 0x2C000015) (queued fun q => { q with tail := 3, head := 0xFFFFFF }) (fun t => (t.queue 5).refused == 1 && bit (t.func 0).errSum 5 && (t.queue 5).tail == 3) &&
    ran (.doorbell w 5 0x2C00000F) (queued fun q => { q with tail := 3, head := 0xFFFFFF }) (fun t => (t.queue 5).tail == 15 && (t.queue 5).refused == 0) &&
    ran (.doorbell w 5 0x2C000002) (queued fun q => { q with tail := 3 }) (fun t => (t.queue 5).tail == 3 && (t.queue 5).refused == 1) &&
    ran (.doorbell w 5 0x2C000003) (queued fun q => { q with st := .quiescing }) (fun t => (t.queue 5).refused == 1)) = true := by decide +kernel

/-- Witness of Doorbells: nine slots for five free credits are noted as overload, with a record and no error bit (08 R249). -/
theorem witness_overload : let s := queued
    ((s.queue 5).uncredited == 0 && (s.queue 5).free == 5 && !s.limited (.queue 5 0x1A) && !s.geq.full && ran (.doorbell (.vf 0 0) 5 0x2C000003) s (fun t =>
      Tab.get 0 (t.func 0).cnt 10 == 1 && (t.part 0).overload == 1 && (t.func 0).errSum == 0 && (Tab.get none t.geq.ring 0).any (fun r => r.status == 0x1A && r.flags == 3 && r.queue == 5)) &&
    ran (.doorbell (.vf 0 0) 5 0x2CFFFFFF) s (fun t => (t.queue 5).tail == 0xFFFFFF && (t.part 0).overload == 0 && t.geq.tail == 0)) = true := by decide +kernel

/-- Submission A of the example: SEQ 0x7D0, CHAIN 4, IRQ, a program of 16 inline words. -/
def subA : List Byte := leBytes 8 (0x7D0 * 2 ^ 32 + 0x2C * 2 ^ 24 + 4 * 2 ^ 13 + 2 ^ 12) ++ leBytes 8 0 ++ leBytes 8 16 ++ leBytes 40 0 ++ (List.range 16).flatMap fun i => leBytes 16 (i + 1)

/-- Witness of CreditsAndFetch: one draw; A fetched; the same bytes under another SEQ, which are malformed; a retry. -/
theorem witness_credits_and_fetch : let s := queued fun q => { q with tail := 3 }
    let f := queued fun q => { q with tail := 3, credHeld := 16, credited := 5 }
    let m := queued fun q => { q with tail := 3, credHeld := 16, credited := 5, expSeq := 0x7D1 }
    ((s.queue 5).canDraw && ran .ringSlotCreditDraw s (fun t => (t.queue 5).credHeld == 12 && (t.queue 5).credited == 1) &&
    slotsOf (BitVec.ofNat 64 (leAt subA 0 8)) == 5 && f.emptyRec == some 0 && ran (.descriptorFetch subA) f (fun t => (t.queue 5).head == 0xFFFFFF && (t.queue 5).expSeq == 0x7D1 &&
      (t.queue 5).credited == 0 && (t.queue 5).credHeld == 16 && (t.task 0).st == .admitted && (t.task 0).progLen == 16 && (t.task 0).word 15 == 16 && (t.task 0).sreg 63 == 0x7D0 && (t.task 0).sreg 62 == 5) &&
    malformed 0x2C 0x7D1 false subA && ran (.descriptorFetch subA) m (fun t => (t.task 0).st == .empty && (t.queue 5).subs.map (fun x => (x.slots, x.fin.map (·.status))) == [(5, some 0x19)]) &&
    ran (.slotReadRetry 0 5) (queued fun q => { q with unreadable := true }) (fun t => !(t.queue 5).unreadable)) = true := by decide +kernel

/-- Witness of CreditsAndFetch: a submission beyond its participant's deficit, and no MTU credit free (08 R247; 01 R19). -/
theorem witness_fetch_waits : let f := queued fun q => { q with tail := 3, credHeld := 16, credited := 5, needs := 0 }
    let m : State := { f with mtus := (List.range 16).map fun i => (i, 100) }
    let d := (f.fetch.turnTo (f.funcsWhere f.fetchable) f.nextSize).map (·.2)
    (d.any (fun x => x.nextQ 0 (f.queuesWhere f.fetchable 0) == some 5 && 5 ≤ Tab.get 0 x.deficit 0) && (m.drawFetch 5).isNone && ran (.descriptorFetch subA) m (fun t => t == m)) = true := by
  decide +kernel

/-- A decided submission of SEQ 0x200 in the worked example of records (03): CQ_LOG2 6, completion index `c`. -/
def retiring (c : Nat) (silent : Bool := false) : State :=
  queued fun q => { q with c := c, cplHead := c, milestone := 0x202, subs := [⟨0, 0x202, 1, false, 9, some ⟨0, 77, false, silent, true⟩⟩], due := [.host], credHeld := 1 }

/-- Witness of SubmissionsRetire: a record at position 0 with PHASE 1 and MILESTONE_LO 0x203; a silent one; a full ring; an ENQUEUED one. -/
theorem witness_retire : let e := queued fun q => { q with due := [.enq 7 9 0x17 5 true], credHeld := 1, cplHead := 0, c := 0 }
    let full := queued fun q => { q with c := 64, due := [.host], subs := [⟨0, 0x202, 1, false, 9, some ⟨0, 77, false, false, true⟩⟩] }
    (ran (.submissionRetire 0 5) (retiring 0x200) (fun t => (t.queue 5).c == 0x201 && (t.queue 5).milestone == 0x203 && (t.queue 5).credHeld == 0 && t.out.any fun o => match o with
      | .hostWrite 0 0 _ a d => a == 0x120000 && d.length == 32
      | _ => false) &&
    ran (.submissionRetire 0 5) (retiring 0x200 true) (fun t => (t.queue 5).c == 0x200 && (t.queue 5).milestone == 0x203 && t.out == []) &&
    (full.queue 5).cplFull && ran (.submissionRetire 0 5) full (fun t => decide (t = full)) &&
    ran (.submissionRetire 0 5) e (fun t => (t.queue 5).c == 1 && (t.queue 5).due == [] && (t.queue 5).milestone == 0)) = true := by decide +kernel

/-- Witness of SubmissionsRetire: the queue's vector 3, asked for by the queue, is a message, or a pending bit while it is masked (03 R92). -/
theorem witness_retire_signals : let s (l : Latch) (m : Bool) : State := { retiring 0x200 with latch := l, funcs := [(0, { vf0 with msix := [(3, { masked := m })] }), (1024, pf0)] }
    let s (l : Latch) (m : Bool) (c : W64) : State := (s l m).modQueue 5 fun q => { q with cfg := c }
    let go (l : Latch) (m : Bool) (c : W64) (p : State → Bool) : Bool := ran (.submissionRetire 0 5) (s l m c) p
    (go live false 0x303#64 (fun t => t.out.head? == some (.msix 0 3) && (t.func 0).pend == 0) && go live true 0x303#64 (fun t => bit (t.func 0).pend 3 && t.out.length == 1) &&
    go { live with irq := false } false 0x303#64 (fun t => bit (t.func 0).pend 3) && go live false 0x301#64 (fun t => (t.func 0).pend == 0 && t.out.length == 1) &&
    go live false 0x302#64 (fun t => (t.func 0).pend == 0 && t.out.length == 1)) = true := by decide +kernel

/-! ### Slices and convoys (08) -/

/-- A partition between slices with a job of VF 0 that has an ADMITTED task. -/
def idle0 : State :=
  { base with
    parts := [(0, { part0 with running := false, job := none, jobs := [⟨.plain 0 1 0, 0, 4⟩] })], ports := [(0, port0)]
    tasks := [(0, { taskOf 0 with st := .admitted, thread := none })], boot := { operator := some 0 } }

/-- Witness of Slices: begin; the timer on a native and a Verkai partition, with a first and a third pre-emption; END_NOW with the
least SLICE_US; RESTART; a drain that is over; one that lasts. -/
theorem witness_slices : let run (cfg : W64) (n : Nat) : State := { base with parts := [(0, { part0 with cfg := cfg })], tasks := [(0, { taskOf 0 with preempts := n })] }
    let drain : State := { base with parts := [(0, { part0 with running := false, draining := true, cvy := { units := [2] } })], sto := { units := [(2, some ⟨0, .convoy, []⟩)] } }
    (idle0.enabled 0 && idle0.between 0 && !idle0.starved 0 && !idle0.resizeDue 0 && (chooseJob (idle0.part 0).prevVf (idle0.readyJobs 0)).isSome && idle0.foreignPorts 0 0 == [] &&
    ran (.sliceBegin 0) idle0 (fun t => (t.part 0).running && (t.part 0).job == some (.plain 0 1 0) && (t.part 0).slices == 1) &&
    ran (.sliceTimerExpiry 0) (run 0x0000000400000001#64 0) (fun t => (t.part 0).draining && (t.task 0).st == .killed && (t.task 0).after == some .rerun) &&
    ran (.sliceTimerExpiry 0) (run 0x0000000400000001#64 2) (fun t => (t.task 0).after == some (.fail 0x10)) &&
    ran (.sliceTimerExpiry 0) (run 0x0000000400000101#64 0) (fun t => (t.part 0).draining && (t.task 0).st == .running) &&
    ran (.endNow 0 0 0x80000064#64) (run 0x0000000400000001#64 0) (fun t => (t.part 0).draining && (t.part 0).sliceUs == 100) &&
    ran (.loopRestart 0 0 0x0000000100002000#64) { base with parts := [(0, { part0 with cvy := { restart := false } })] } (fun t => (t.part 0).cvy.restart) &&
    drain.drainOver 0 && !drain.rerunsDue 0 && ran (.drainComplete 0) drain (fun t => !(t.part 0).draining && (t.part 0).job == none && t.sto.units == []) &&
    ran (.drainTimeout 0) drain (fun t => t.rcv.waiting == [0])) = true := by decide +kernel

/-- A member with `tokens` of which `next` are done. -/
def member (r tokens next : Nat) : Member := { r := r, gen := 1, slot := 3, stream := ref 1, cb := [], tokens := tokens, next := next, joined := 0 }

/-- The running native partition with a convoy buffer and the loop in use: BUDGET 8,192, C 512. -/
def convoying (c : Cvy → Cvy := id) (o : Op → Op := id) : State :=
  { opAt (.dispatch (ref 1) none 0 0 true 3000) (fun x => o { x with phase := .joining }) with
    parts := [(0, { part0 with cvy := c { units := [0], c := 512, f := 8192, restart := false } })], ports := [(0, port0)] }

/-- Witness of Convoys: a join with the buffer there, and one that takes it; the hold; an assembly of two members. -/
theorem witness_convoys : let s := convoying
    let f := convoying fun c => { c with units := [] }
    let h := convoying fun c => { c with members := [(0, some (member 0 1 0))] }
    let a := convoying (fun c => { c with hold := true, members := [(0, some (member 0 1 0)), (1, some { member 0 3000 488 with joined := 1 })] }) (fun o => { o with phase := .member, cap := List.replicate 64 0 })
    (s.cvyBuffer 0 != none && ran (.convoyMemberJoin 0 3) s (fun t => ((t.task 0).op 3).any (·.phase == .member) && (Tab.get none (t.part 0).cvy.members 0).any (·.tokens == 3000)) &&
    ran (.convoyMemberJoin 0 3) f (fun t => (t.part 0).cvy.units.length == 18) && ran (.convoyHoldExpiry 0) h (fun t => (t.part 0).cvy.hold) &&
    (a.part 0).cvy.live.length == 2 && ran (.convoyAssemble 0) a (fun t => ((t.part 0).cvy.run.map fun l => l.map fun e => (e.mslot, e.ntok, e.base)) == some [(0, 1, 0), (1, 512, 1)] &&
      (t.part 0).cvy.num == 1 && (t.part 0).cvy.tabB && (t.part 0).dtag == 1 && (t.part 0).seqr.length == 1 && t.mtuHeld 0 == 1)) = true := by decide +kernel

/-- The loop's worked example (08): convoys 63 to 65, which close it. -/
theorem test_loop_example : let c62 : Cvy := { n := 62, c := 512, f := 8192, cf := 36864, mf := 61440, restart := false }
    let c63 := c62.update 45056 60416
    let c64 := c63.update 45056 60416
    let c65 := c64.update 49152 59392
    ((c63.cf, c63.mf, c63.c) == (37888, 61312, 512) && (c64.cf, c64.mf, c64.c, c64.f) == (38784, 61200, 640, 8192) && (c65.cf, c65.mf, c65.c) == (40080, 60974, 768)) = true := by
  decide +kernel

/-! ### Admin command lists (11, 12) -/

/-- The 64 bytes of a command: OP, and fields as (offset, bytes, value). -/
def cmdBytes (op : Nat) (l : List (Nat × Nat × Nat)) : List Byte :=
  leBytes 64 (op + (l.map fun x => x.2.2 * 256 ^ x.1).sum)

/-- An admin list of PF 0 in record 0 with that one command inline, in `s`; the host bytes at 0x30000 of its space have been read. -/
def listing (s : State) (b : List Byte) : State :=
  { s with
    tasks := [(0, { gen := 1, st := .admitted, kind := .admin, fk := 1024, qgen := 1, progLen := 4, inl := words128 4 b, got := [(⟨0, 1024, none⟩, 0x30000, 16)] })]
    xl := { ents := [⟨⟨0, 1024, none⟩, 0x30, true, true, 0x130⟩], users := [(⟨0, 1024, none⟩, 0x30, .op 0 1 1)] } }

/-- The list stands before command `c` with those bytes, and no check fails (`State.admReady`, but for its ranges). -/
def admits (s : State) (c : AdmCmd) (b : List Byte) : Bool :=
  (listing s b).listRuns 0 && leAt b 0 1 == c.op && layoutOk c.used b && firstBad (c.rows 0 b (listing s b)) == (0, 0)

/-- The list has ended well after one command. -/
def listDone (t : State) : Bool := (t.task 0).admDone == 1 && (t.task 0).cstat == 0 && (t.task 0).st == .committing

/-- `shop` with a HOST object 1 of 8 extents, two of them mapped. -/
def hosted : State :=
  { shop with objs := { tab := [(1, { st := .opened, place := 4, reservedPg := 16, extMax := 8, exts := [⟨0, 4, .host 0x100000, false⟩, ⟨8, 4, .host 0x200000, false⟩] })], next := 2, released := [7] } }

/-- Witness of AdminObjectCommands: every command with its checks passed. -/
theorem witness_admin_objects : let create := cmdBytes 1 [(0x12, 1, 4), (0x18, 4, 16), (0x20, 2, 8)]
    let free := cmdBytes 2 [(0x10, 4, 1)]
    let extSet := cmdBytes 3 [(0x10, 4, 1), (0x14, 4, 1), (0x18, 8, 0x30000)]
    let clear := cmdBytes 4 [(0x10, 4, 1), (0x14, 4, 4), (0x18, 4, 8)]
    let read := cmdBytes 5 [(0x10, 4, 1), (0x14, 2, 1), (0x16, 2, 9), (0x18, 8, 0x30000)]
    let query := cmdBytes 6 [(0x10, 4, 1), (0x18, 8, 0x30000)]
    let rec' : State := (List.range 16).zip (leBytes 8 0x00400300 ++ leBytes 8 (2 * 2 ^ 27 + 4)) |>.foldl (fun s x => s.writeLoc (.host 0 (0x130000 + x.1)) (some x.2)) hosted
    (admits hosted cmdObjCreate create && ran (.objCreate 0) (listing hosted create) (fun t => listDone t && (t.obj 2).st == .opened && (t.obj 2).place == 4 && t.objs.next == 3) &&
    admits hosted cmdObjFree free && ran (.objFree 0) (listing hosted free) (fun t => listDone t && (t.obj 1).st == .released && t.objs.released == [7, 1]) &&
    admits rec' cmdExtSet extSet && ran (.extSet 0) (listing rec' extSet) (fun t => listDone t && (t.obj 1).exts.map (·.off) == [0, 4, 8] && (t.obj 1).exts.map (·.len) == [4, 2, 4]) &&
    admits hosted cmdExtClear clear && ran (.extClear 0) (listing hosted clear) (fun t => listDone t && (t.obj 1).exts.map (·.off) == [0]) &&
    admits hosted cmdExtRead read && ran (.extRead 0) (listing hosted read) (fun t => listDone t && t.out == [.hostWrite 0 1024 none 0x130000 ((leBytes 8 0x200300 ++ leBytes 8 (4 * 2 ^ 27 + 8)).map some)]) &&
    admits hosted cmdObjQuery query && ran (.objQuery 0) (listing hosted query) (fun t => listDone t && t.out.length == 1)) = true := by decide +kernel

/-- OBJ_FREE of an object that a task refers to leaves it CLOSING; a range that cuts an extent ends the list with 0x19 (11 R311, R315). -/
theorem test_admin_objects : let free := cmdBytes 2 [(0x10, 4, 1)]
    let clear := cmdBytes 4 [(0x10, 4, 1), (0x14, 4, 2), (0x18, 4, 8)]
    (ran (.objFree 0) (listing { hosted with objs := { hosted.objs with tab := [(1, { obj0 1 with held := 1 })] } } free) (fun t => (t.obj 1).st == .closing) &&
    ran (.extClear 0) (listing hosted clear) (fun t => (t.obj 1).exts.length == 2 && (t.task 0).cstat == 0x19 && (t.task 0).admDone == 0)) = true := by decide +kernel

/-- Witness of AdminWaypointCommands: every command; WP_EXPORT with a handle and with 0; WP_FREE with and without a WAIT. -/
theorem witness_admin_waypoints : let imp := cmdBytes 7 [(0x12, 2, 4095), (0x14, 1, 63), (0x18, 8, 9)]
    let impc := cmdBytes 8 [(0x12, 2, 4095)]
    let create := cmdBytes 9 [(0x12, 1, 3), (0x13, 1, 1), (0x14, 1, 1), (0x18, 8, 50)]
    let free := cmdBytes 10 [(0x18, 8, 0x0005000000000001)]
    let exp (h : Nat) := cmdBytes 11 [(0x12, 1, 4), (0x13, 1, 63), (0x18, 8, h)]
    let wimp := cmdBytes 12 [(0x12, 2, 3), (0x14, 1, 2), (0x18, 8, 9)]
    (admits shop cmdImportSet imp && ran (.importSet 0) (listing shop imp) (fun t => listDone t && Tab.get none (t.part 0).imports 4095 == some ⟨0, 63, 9⟩) &&
    admits shop cmdImportClear impc && ran (.importClear 0) (listing { shop with parts := [(0, { part0 with imports := [(4095, some ⟨0, 63, 9⟩)] })] } impc) (fun t => listDone t && (t.part 0).imports == []) &&
    admits shop cmdWpCreate create && shop.wpNumber == some 2 && ran (.wpCreate 0) (listing shop create) (fun t => listDone t && (t.wp 2).live && (t.wp 2).gen == 1 && (t.wp 2).value == 50 && (t.wp 2).sigScope == 3) &&
    admits shop cmdWpFree free && ran (.wpFree 0) (listing shop free) (fun t => listDone t && !(t.wp 1).live && t.wps.freed == [1]) &&
    admits beacon cmdWpExport (exp 0x0005000000000001) && ran (.wpExport 0) (listing beacon (exp 0x0005000000000001)) (fun t => listDone t && (Tab.get {} (t.func 0).slots 4 : Slot).vector == 63) &&
    admits beacon cmdWpExport (exp 0) && ran (.wpExport 0) (listing beacon (exp 0)) (fun t => listDone t && Tab.get {} (t.func 0).slots 4 == ({} : Slot)) &&
    admits shop cmdWpImportSet wimp && ran (.wpImportSet 0) (listing shop wimp) (fun t => listDone t && Tab.get none (t.part 0).wpImports 3 == some ⟨0, 2, 9⟩)) = true := by decide +kernel

/-- A WAIT on a waypoint that is freed fails with 0x18 (12 R339). -/
theorem test_wp_free_wait : let free := cmdBytes 10 [(0x18, 8, 0x0005000000000001)]
    let s := listing beacon free
    ran (.wpFree 0) { s with tasks := s.tasks ++ [(1, { (beacon.task 0) with job := .plain 0 1 1 })] } (fun t => (t.task 1).after == some (.fail 0x18) && !(t.wp 1).live) = true := by
  decide +kernel

/-! ### Faults, resets and dumps (13) -/

/-- A channel with two fault stamps and a detour that has made `n` attempts. -/
def chanAt (n : Option Nat) (x : Transfer := .none) (w : Option StoredWord := none) : Chan := { stamps := [0x3050000, 0x3000000], detour := n, xfer := x, word := w }

/-- `shop` with a task whose COPY runs on MTU 6, and that channel `key`. -/
def faulty (key : Nat) (c : Chan) : State :=
  { opAt (.copy (ref 1) (ref 2) 64 false) (fun o => { o with phase := .running, mtu := some 6 }) with chans := [(key, c)], mtus := [(6, 1)] }

/-- A word as it arrives with one symbol in error, and with two. -/
def oneBad : Codeword := (pcEncode (List.replicate 32 7)).flip 3 1
def twoBad : Codeword := oneBad.flip 34 1

/-- Witness of ChannelFaultsAndDetours: the first fault of each kind, a clean word, and one more behind a detour. -/
theorem witness_channel_faults : let s := faulty (ckey 2 6) {}
    let is (c : Instr) (p : Chan → Bool) : Bool := ran c s (fun t => p (t.chan (ckey 2 6)))
    let behind : State := faulty (ckey 2 6) { detour := some 1, xfer := .write 3 }
    (pathCheck (pcEncode (List.replicate 32 7)) == .clean && ran (.channelFault 2 6 5 (.word (pcEncode (List.replicate 32 7))) .none) s (fun t => t == s) &&
    pathCheck oneBad == .corrected (pcEncode (List.replicate 32 7)) && pathCheck twoBad == .uncorrectable &&
    is (.channelFault 2 6 5 (.word oneBad) .none) (fun c => c.corrected == 1 && c.stamps == [5] && c.detour == none) &&
    is (.channelFault 2 6 5 (.word twoBad) (.read (some 0))) (fun c => c.uncorr == 1 && c.detour == some 0 && c.xfer == .read (some 0)) &&
    is (.channelFault 2 6 5 .bothRails .none) (fun c => c.uncorr == 1 && c.detour == some 0) &&
    is (.channelFault 2 6 5 (.stored (.record 7)) .none) (fun c => c.uncorr == 1 && c.word == some (.record 7)) &&
    is (.handshakeTimeout 2 6 5 .none) (fun c => c.hsTimeout == 1 && c.detour == some 0 && !c.waits) &&
    ran (.channelFault 2 6 5 .bothRails (.read (some 0))) behind (fun t => (t.chan (ckey 2 6)).queue == [(.read (some 0), none, false)] && (t.chan (ckey 2 6)).detour == some 1) &&
    ran (.handshakeTimeout 2 6 5 (.write 3)) behind (fun t => (t.chan (ckey 2 6)).detour == some 2 && (t.chan (ckey 2 6)).queue == []) &&
    ran (.handshakeTimeout 1 0 5 .none) base (fun t => (t.eport 0).hsTimeout == 1 && (t.chan (ckey 1 0)).hsTimeout == 1 && (t.chan (ckey 1 0)).waits)) = true := by decide +kernel

/-- Witness of ChannelFaultsAndDetours for a word of a bank: its code is clean, one symbol is upset and mended, two are (01 R35, R36). -/
theorem witness_bank_words : let s := stored (faulty (ckey 3 0) {}) 0 (List.replicate 96 7)
    let go (e : List (Nat × Byte)) (p : State → Chan → Bool) : Bool := ran (.channelFault 3 0 0 (.stored (.bank 64 e)) .none) s (fun t => p t (t.chan (ckey 3 0)))
    (go [] (fun t c => c == {} && t.sto == s.sto) && go [(3, 1)] (fun t c => c.corrected == 1 && t.sto == s.sto) &&
    go [(3, 1), (0, 9)] (fun t c => c.uncorr == 1 && c.detour == some 0 && c.word == some (.bank 64 [(3, 1), (0, 9)]) && t.sto.ws.upset.length == 2)) = true := by
  decide +kernel

/-- The worked example of 13: a third fault of MTU 6 within 2^20 handshakes retires it, and its task is killed for rerun; one more
handshake away it does not. -/
theorem test_mtu_retires : (ran (.handshakeTimeout 2 6 0x30C0000 (.write 0)) (faulty (ckey 2 6) (chanAt none)) (fun t => (t.chan (ckey 2 6)).retired && t.mtuHeld 6 == 0 &&
      (t.task 0).st == .killed && (t.task 0).after == some .rerun) &&
    ran (.handshakeTimeout 2 6 0x3100000 (.write 0)) (faulty (ckey 2 6) (chanAt none)) (fun t => !(t.chan (ckey 2 6)).retired)) = true := by decide +kernel

/-- Witness of the third fault of a bank and of an engine port. -/
theorem witness_retirements : (ran (.channelFault 3 0 0x30C0000 .bothRails .none) (faulty (ckey 3 0) (chanAt none)) (fun t => (t.chan (ckey 3 0)).evac) &&
    ran (.handshakeTimeout 1 0 0x30C0000 .none) { faulty (ckey 1 0) (chanAt none) with ports := [(0, { port0 with held := 3 })] } (fun t => (t.eport 0).retired && (t.eport 0).egen == 8 &&
      (t.eport 0).held == 0 && t.rcv.waiting == [0] && (t.part 0).portLost && (t.part 0).engines == 0)) = true := by decide +kernel

/-- Witness of the detours: success, further failures, and the third for each stored word and for a read. -/
theorem witness_detours : let go (key : Nat) (c : Chan) (i : Instr) (p : State → Bool) : Bool := ran i { faulty key c with geq := { ring := [(4, some (geqRec 0x1B 5))], tail := 5 } } p
    let word (w : StoredWord) (p : State → Bool) : Bool := go (ckey 6 0) (chanAt (some 2) .none (some w)) (.detourReissue 6 0 9 false) p
    let key := ckey 5 0
    (go key (chanAt (some 1)) (.detourReissue 5 0 9 true) (fun t => (t.chan key).detour == none) &&
    go key (chanAt (some 1) .none (some (.bank 64 []))) (.detourReissue 5 0 9 false) (fun t => (t.chan key).detour == some 2 && (t.chan key).uncorr == 0) &&
    go key (chanAt (some 1)) (.detourReissue 5 0 9 false) (fun t => (t.chan key).detour == some 2 && (t.chan key).uncorr == 1) &&
    word (.record 7) (fun t => (t.task 7).withdrawn) && word (.waypoint 1) (fun t => (t.wp 1).poisoned) && word (.object 2) (fun t => (t.obj 2).poisoned) &&
    word (.queue 0 2) (fun t => (t.queue 2).poisoned) && word (.geq 4) (fun t => (Tab.get none t.geq.ring 4).any fun e => e.flags / 8 % 2 == 1) &&
    word (.bank 64 []) (fun t => t.readLoc (.ws 64) == none) &&
    go (ckey 2 6) (chanAt (some 2)) (.detourReissue 2 6 0x30C0000 false) (fun t => (t.chan (ckey 2 6)).retired) &&
    go key (chanAt (some 2) (.read (some 0))) (.detourReissue 5 0 9 false) (fun t => (t.task 0).after == some (.fail 0x17))) = true := by decide +kernel

/-- Witness of the other detours: one more wait of a port, a lost extent entry, a host port's read, a task's write, and that of a COMMITTING task. -/
theorem witness_detours_more : let key := ckey 5 0
    let commit (c : Chan) : State := { faulty key c with tasks := [(0, ended .commit)] }
    let read : State := { faulty key (chanAt (some 2) (.tag 4)) with xl := asked.xl }
    (ran (.detourReissue 1 0 9 false) (faulty (ckey 1 0) { chanAt (some 0) with waits := true, stamps := [] }) (fun t => (t.chan (ckey 1 0)).detour == some 1 &&
      (t.chan (ckey 1 0)).hsTimeout == 1 && (t.eport 0).hsTimeout == 1 && (t.chan (ckey 1 0)).uncorr == 0) &&
    ran (.detourReissue 6 0 9 false) (faulty (ckey 6 0) (chanAt (some 2) .none (some (.extent 2 1)))) (fun t => (t.obj 2).exts.map (·.bad) == [true] && !(t.obj 2).poisoned) &&
    ran (.detourReissue 5 0 9 false) read (fun t => t.xl.reqs.map (·.tag) == [3]) &&
    ran (.detourReissue 5 0 9 false) (faulty key (chanAt (some 2) (.write 0))) (fun t => (t.task 0).after == some .rerun) &&
    ran (.detourReissue 5 0 9 false) (commit (chanAt (some 2) (.write 0))) (fun t => (t.chan key).detour == some 3 && (t.chan key).more == 0 && (t.task 0).st == .committing)) = true := by
  decide +kernel

/-- Witness of TimeoutsAndEvacuation: a task, a committed task, an admin list between and within commands, a bank. -/
theorem witness_timeouts : let list := listing shop (cmdBytes 6 [(0x10, 4, 1), (0x18, 8, 0x30000)])
    let busyList := { list with tasks := list.tasks.map fun e => (e.1, { e.2 with admBusy := true }), xl := { reqs := [⟨0, 3, .xlate ⟨0, 1024, none⟩ 0x30, .op 0 1 1, 0, false, false⟩] } }
    let evac : State := { base with chans := [(ckey 3 0, { evac := true })] }
    (ran (.commandTimeout 0) (opAt (.wait wp1 12)) (fun t => (t.task 0).st == .killed && (t.task 0).after == some (.fail 0x10)) &&
    ran (.commandTimeout 0) { base with tasks := [(0, ended .commit)] } (fun t => (t.task 0).st == .committing) &&
    !list.adminBusy 0 && ran (.commandTimeout 0) list (fun t => (t.task 0).st == .committing && (t.task 0).cstat == 0x10) &&
    busyList.adminBusy 0 && ran (.commandTimeout 0) busyList (fun t => (t.task 0).admStop && (t.task 0).st == .admitted) &&
    ran (.bankEvacuationDone 0) evac (fun t => (t.chan (ckey 3 0)).retired && !(t.chan (ckey 3 0)).evac && (t.part 0).banks == 0)) = true := by decide +kernel

/-- A reset of partition 0 in phase `n`, with its port, its running task, and an enabled dump buffer where `d`. -/
def resetAt (n : Nat) (whole : Bool := false) (d : Bool := false) (g : State → State := id) : State :=
  g { word 0 with
    parts := [(0, { part0 with pgen := 6, resetting := n != 0 })], ports := [(0, port0)], dbell := { turn := 5 }
    rcv := { phase := n, whole := whole, dumpAddr := 0x30000, dumpCfg := if d then 0x01000001#64 else 0 }
    xl := { ents := [⟨⟨0, 1024, none⟩, 0x30, true, true, 0x130⟩] } }

/-- Witness of Resets: the writes without GO, refused, accepted with and without a dump; the automatic start; each phase. -/
theorem witness_resets : let go (v : W64) (s : State) (p : State → Bool) : Bool := ran (.resetGo 0 v) s p
    let auto := resetAt 0 false false fun s => { s with rcv := { s.rcv with waiting := [0] } }
    (go 0x00010000#64 (resetAt 0) (fun t => t.rcv.rstCtrl == 0x00010000#32 && t.rcv.phase == 0) && go 0x80000000#64 (resetAt 2) (fun t => t.rcv.result == 2) &&
    go 0x80000009#64 (resetAt 0) (fun t => t.rcv.result == 3 && t.rcv.phase == 0) && go 0x80000000#64 (resetAt 0) (fun t => t.rcv.phase == 2 && (t.part 0).resetting && t.sec.reportGen == 1) &&
    go 0x80010000#64 (resetAt 0) (fun t => t.rcv.phase == 2 && t.rcv.whole && (t.part 0).resetting) &&
    go 0x80020000#64 (resetAt 0 false true) (fun t => t.rcv.phase == 1 && t.rcv.dumpBusy && t.rcv.dumpCause == 1) &&
    ran .resetAutoStart auto (fun t => t.rcv.phase == 2 && t.rcv.auto && t.rcv.waiting == [])) = true := by decide +kernel

theorem witness_reset_phases : let kill := resetAt 2
    let clear := resetAt 3 true false fun s => { s with tasks := [], parts := s.parts.map fun e => (e.1, { e.2 with running := false, job := none }) }
    let restart := resetAt 4 false false fun s => { s with tasks := [(0, { taskOf 0 with st := .killed, thread := none, after := some .rerun })] }
    (ran .resetKillPhase kill (fun t => t.rcv.phase == 3 && !(t.part 0).running && (t.task 0).st == .killed && (t.task 0).after == some .rerun) &&
    clear.drainOver 0 && ran .resetClearPhase clear (fun t => t.rcv.phase == 4 && (t.part 0).pgen == 7 && (t.eport 0).clearing && !(t.eport 0).identified && t.dbell == {}) &&
    !restart.clearsLeft 0 && ran .resetRestartPhase restart (fun t => t.rcv.phase == 0 && t.rcv.result == 1 && t.rcv.nPart == 1 && (t.task 0).st == .admitted)) = true := by decide +kernel

/-- A Verkai partition's reset fails its running task with 0x1C (13 R370; 04 R129). -/
theorem test_reset_verkai : ran .resetKillPhase (resetAt 2 false false fun s => { s with parts := s.parts.map fun e => (e.1, { e.2 with cfg := 0x0000000400000101#64 }) })
    (fun t => (t.task 0).after == some (.fail 0x1C)) = true := by decide +kernel

/-- A dump that runs, with fields to come. -/
def dumping (l : List DField) : State := resetAt 0 false true fun s => { s with rcv := { s.rcv with dumpBusy := true, dumpTodo := l } }

/-- Witness of Dumps: GO without a buffer and with one; a field with more to come; the last one; one withheld. -/
theorem witness_dumps : (ran (.dumpGo 0 0x80000000#64) (resetAt 0) (fun t => t.rcv.dumpResult == 4 && !t.rcv.dumpBusy) &&
    ran (.dumpGo 0 0x80000000#64) (resetAt 0 false true) (fun t => t.rcv.dumpBusy && t.rcv.dumpTodo.take 12 == fieldsOf 1 (offs 12) 0) &&
    ((dumping [⟨1, 0, 0⟩, ⟨1, 0, 8⟩]).dumpWrite 0x40 (leBytes 16 0)).2 &&
    ran (.dumpFieldRead 0) (dumping [⟨1, 0, 0⟩, ⟨1, 0, 8⟩]) (fun t => t.rcv.dumpRecords == 1 && t.rcv.dumpTodo == [⟨1, 0, 8⟩] && t.rcv.dumpWithheld == 0 &&
      t.out == [.hostWrite 0 1024 none 0x130040 ((leBytes 4 0 ++ leBytes 2 0 ++ [1, 0] ++ leBytes 8 0x0000000400000001).map some)]) &&
    ran .dumpFieldWaitExpiry (dumping [⟨1, 0, 0⟩, ⟨1, 0, 8⟩]) (fun t => t.rcv.dumpWithheld == 1 && t.rcv.dumpRecords == 1) &&
    ran .dumpFieldWaitExpiry (dumping [⟨1, 0, 0⟩]) (fun t => !t.rcv.dumpBusy && t.rcv.dumpResult == 1)) = true := by decide +kernel

/-- The first read through the test access port sets DEBUG_READ and changes the report (15 R420, R429). -/
theorem test_tap_read : ran (.tapRead 1 0 0) base (fun t => t.latch.debugRead && t.sec.reportGen == 1) = true := by decide +kernel

/-! ### Security (15) -/

/-- A channel with a request held by its receiver (`State.asked`). -/
def asked' (k : Nat) (q : List W32) (s : State := base) : State := s.modMbx k fun m => { m with taken := [q] }

/-- A request: OP and TAG, and its further words. -/
def req (op : Nat) (l : List W32) : List W32 :=
  let q := BitVec.ofNat 32 (op * 2 ^ 24 + 7 * 2 ^ 16) :: l
  q ++ List.replicate (8 - q.length) 0

/-- The response in channel `k`: its length and RESULT with the echoed OP and TAG. -/
def tells (k n op res : Nat) (t : State) : Bool :=
  (t.mbx k).rspFull && (t.mbx k).rspLen == n && Tab.get 0 (t.mbx k).rsp 0 == BitVec.ofNat 32 (op * 2 ^ 24 + 7 * 2 ^ 16 + res) && (t.mbx k).taken == []

/-- Witness of MailboxChannels: each register of a channel, at the shortest and longest lengths. -/
theorem witness_mailbox : let full : State := base.modMbx 3 fun m => { m with reqFull := true, cap := [1], aborts := 254, badlen := 2 }
    let rfull : State := base.modMbx 3 fun m => { m with rspFull := true, rspLen := 8, badlen := 2 }
    let on (i : Instr) (s : State) (p : Mbx → Bool) : Bool := ran i s (fun t => p (t.mbx 3))
    (on (.mbxGo (.pf 0) 3 0x80000008#64) full (fun m => m.aborts == 255) && ran (.mbxGo (.pf 0) 3 8) base (fun t => t == base) &&
    on (.mbxGo (.pf 0) 3 0x80000007#64) base (fun m => m.badlen == 1) && on (.mbxGo (.pf 0) 3 0x80000011#64) base (fun m => m.badlen == 1) &&
    ran (.mbxGo (.pf 0) 3 0x80000010#64) base (fun t => (t.mbx 3).reqFull && (t.mbx 3).cap.length == 16 && t.out == [.rotIrq 11]) &&
    ran (.mbxGo .rot 3 0x80000008#64) base (fun t => (t.mbx 11).reqFull && (t.mbx 11).cap.length == 8 && t.out == []) &&
    on (.mbxRspStatusRead (.pf 0) 3) rfull (fun m => !m.rspFull && m.badlen == 0) &&
    on (.mbxRcvStatusRead 3) full (fun m => !m.reqFull && m.taken == [[1]]) && ran (.mbxRcvStatusRead 3) base (fun t => t.out.length == 1) &&
    ran (.mbxRcvGo 3 0x80000008#64) rfull (fun t => t.out == [.busError .rot]) && ran (.mbxRcvGo 3 8) base (fun t => t == base) &&
    on (.mbxRcvGo 3 0x80000007#64) base (fun m => m.badlen == 1) && on (.mbxRcvGo 3 0x80000010#64) base (fun m => m.rspFull && m.rspLen == 16) &&
    on (.mailboxPowerDown 3) (base.modMbx 3 fun m => { m with awake := true }) (fun m => !m.awake)) = true := by decide +kernel

/-- Witness of MailboxChannels: a response with IRQ_EN 1 signals vector 5 of the Operator PF, or leaves it pending (15 R407, R408). -/
theorem witness_mailbox_signals : let s (l : Latch) (m : Bool) : State := { base.modMbx 3 fun x => { x with irq := 0x105#32 } with latch := l, funcs := [(1024, { pf0 with msix := [(5, { masked := m })] })] }
    let go (l : Latch) (m : Bool) (p : State → Bool) : Bool := ran (.mbxRcvGo 3 0x80000008#64) (s l m) p
    (go live false (fun t => t.out == [.msix 1024 5] && (t.func 1024).pend == 0) && go live true (fun t => t.out == [] && bit (t.func 1024).pend 5) &&
    go { live with irq := false } false (fun t => t.out == [] && bit (t.func 1024).pend 5)) = true := by decide +kernel

/-- Witness of FirmwareAndMode: a request of 8 words to DESIGNATE PF 3 is answered with TAG 7 and RESULT 0, and changes the report (15 R410, R420; 02 R39). -/
theorem witness_designate : let q := req 1 [3]
    let fused : State := { base with boot := { base.boot with byFuse := true } }
    (ran (.designate 0) (asked' 8 q) (fun t => tells 8 8 1 0 t && t.boot.operator == some 3 && t.sec.reportGen == 1) &&
    ran (.designate 3) (asked' 11 (req 1 [0])) (fun t => tells 11 8 1 0 t && t.sec.reportGen == 0) &&
    ran (.designate 0) (asked' 8 q fused) (fun t => tells 8 8 1 2 t && t.boot.operator == some 0)) = true := by decide +kernel

/-- Witness of FirmwareAndMode, SET_MODE: a SET key is withdrawn and an ATTESTED one stays (15 R413, R415). -/
theorem witness_set_mode : let s : State := base.modSec fun x => { x with mode := 1, keys := [(1, some ⟨false, 0, 5⟩), (2, some ⟨true, 0, 6⟩)] }
    (ran (.setMode 0) (asked' 8 (req 6 [2]) s) (fun t => tells 8 8 6 0 t && t.sec.mode == 2 && t.sec.keys == [(2, some ⟨true, 0, 6⟩)]) &&
    ran (.setMode 0) (asked' 8 (req 6 [3]) (s.modSec fun x => { x with mode := 2 })) (fun t => tells 8 8 6 10 t && t.sec.mode == 2)) = true := by decide +kernel

/-- Witness of FirmwareAndMode: FW_LOAD hashes its component: SHA-384 of "abc" (FIPS 180-4) in bytes 0 to 2 of package memory (15 R411, R422). -/
theorem test_fw_load : let s : State := ((base.writeLoc (.pkg 0) (some 0x61)).writeLoc (.pkg 1) (some 0x62)).writeLoc (.pkg 2) (some 0x63)
    let q := req 2 [0x101, 0, 0, 3]
    (ran (.fwLoad 0) (asked' 8 q s) (fun t => tells 8 13 2 0 t && Tab.get 0 (t.mbx 8).rsp 1 == 0x3f7500cb#32 && Tab.get 0 (t.mbx 8).rsp 12 == 0xa725c834#32 &&
      t.sec.fw.length == 1) &&
    ran (.fwLoad 0) (asked' 8 (req 2 [1, 0, 0, 3]) s) (fun t => tells 8 13 2 3 t && t.sec.lastResult == 3) &&
    ran (.fwLoad 0) (asked' 8 q (s.writeLoc (.pkg 2) none)) (fun t => tells 8 13 2 8 t && t.sec.fw == [])) = true := by decide +kernel

/-- A block with bank 1 loaded, PF 0 with 16 units of device memory at 0x10000. -/
def loaded (g : Sec → Sec := id) : State :=
  { base with objs := { devmemBase := [(0, 0x10000)], devmemSize := [(0, 16)] }, sec := g { fw := [(4, some 1), (5, some 2), (6, some 3)] } }

/-- Witness of FirmwareAndMode, FW_ARM: the first arming, a refusal, and a transition that waits for the running partition. -/
theorem witness_fw_arm : (ran (.fwArm 0) (asked' 8 (req 3 [0x100]) { loaded with latch := { live with fwReady := false } }) (fun t => tells 8 8 3 0 t && t.latch.fwReady && t.sec.active == 1 && (t.part 63).fwSel == 1) &&
    ran (.fwArm 0) (asked' 8 (req 3 [0]) loaded) (fun t => tells 8 8 3 3 t && !t.sec.transition) &&
    ran (.fwArm 0) (asked' 8 (req 3 [0x100]) loaded) (fun t => tells 8 8 3 0 t && t.sec.transition && t.sec.active == 0 && (t.part 0).fwSel == 0 && (t.part 1).fwSel == 1)) = true := by decide +kernel

/-- Witness of FirmwareAndMode, FW_STAGE, FW_ACTIVATE and FW_DISCARD: each outcome; an activation with no running slice ends at once (15 R424). -/
theorem witness_firmware : let q := req 0x20 [0x10000, 0, 16]
    let st (a : StageAnswer) (s : State) (res : Nat) (p : State → Bool) : Bool := ran (.fwStage 2 a) (asked' 2 q s) (fun t => tells 2 8 0x20 res t && p t)
    let staged := loaded fun x => { x with staged := true }
    let idle : State := { (loaded fun x => { x with staged := true, pkgVersion := 5 }) with parts := [] }
    (st ⟨true, true, 3⟩ loaded 0 (fun t => t.sec.staged && t.sec.pkgVersion == 3 && t.sec.reportGen == 1) && st ⟨true, false, 3⟩ loaded 8 (fun t => t.sec.fw == []) && st ⟨false, true, 3⟩ loaded 8 (fun t => !t.sec.staged) &&
    st ⟨true, true, 3⟩ { loaded with objs := {} } 2 (fun t => !t.sec.staged) && st ⟨true, true, 3⟩ staged 3 (fun t => t.sec.staged) &&
    ran (.fwActivate 2) (asked' 2 (req 0x21 []) staged) (fun t => tells 2 8 0x21 0 t && t.sec.transition && t.sec.active == 0) &&
    ran (.fwActivate 2) (asked' 2 (req 0x21 []) idle) (fun t => tells 2 8 0x21 0 t && !t.sec.transition && t.sec.active == 1 && t.sec.raised == 5) &&
    ran (.fwActivate 2) (asked' 2 (req 0x21 []) loaded) (tells 2 8 0x21 3) &&
    ran (.fwDiscard 2) (asked' 2 (req 0x22 []) staged) (fun t => tells 2 8 0x22 0 t && t.sec.fw == [] && !t.sec.staged) &&
    ran (.fwDiscard 2) (asked' 2 (req 0x22 []) loaded) (fun t => tells 2 8 0x22 0 t && t.sec.fw.length == 3) &&
    ran (.fwDiscard 2) (asked' 2 (req 0x22 []) (loaded fun x => { x with transition := true })) (tells 2 8 0x22 3)) = true := by decide +kernel

/-- Witness of KeySlots, slots 1 and 255 (15 R411, R414, R415). -/
theorem witness_keys : let used := loaded fun x => { x with mode := 1, keys := [(1, some ⟨true, 0, 5⟩)] }
    let kl (w1 : W32) (res : Nat) (p : State → Bool) : Bool := ran (.keyLoad 0) (asked' 8 (req 4 ([w1, 0x03020100, 0, 0, 0, 0, 0, 0, 0x1F000000])) used) (fun t => tells 8 8 4 res t && p t)
    let kr (key : Option KeyBits) (s : State) (w1 : W32) (res : Nat) (p : State → Bool) : Bool := ran (.keyRelease 0 key) (asked' 0 (req 0x23 [w1, 9]) s) (fun t => tells 0 8 0x23 res t && p t)
    (kl 0x800000FF#32 0 (fun t => Tab.get none t.sec.keys 255 == some ⟨true, 0, 0x1F00000000000000000000000000000000000000000000000000000003020100#256⟩) && kl 1 3 (fun _ => true) && kl 0x003F00FF#32 2 (fun _ => true) &&
    ran (.keyClear 0) (asked' 8 (req 5 [1]) used) (fun t => tells 8 8 5 0 t && t.sec.keys == []) && ran (.keyWithdraw 0) (asked' 0 (req 0x25 [1]) used) (fun t => tells 0 8 0x25 0 t && t.sec.keys == []) &&
    kr (some 6) used 2 0 (fun t => Tab.get none t.sec.keys 2 == some ⟨false, 0, 6⟩) && kr none used 2 7 (fun _ => true) && kr (some 6) used 1 3 (fun _ => true) &&
    kr (some 6) used 0x00010002#32 2 (fun _ => true) && kr (some 6) loaded 2 10 (fun _ => true)) = true := by decide +kernel

/-- `loaded` with a key blob of REPORT_GEN 0 for PF 0 and partition `p` at 0x10000, and PF 0's ephemeral key of generation 0.
The blob wraps the key 6 under Z = 7 for partition 0 (AES-256-GCM of an independent program). -/
def blob (p : Byte := 0) : State :=
  let l := p :: (List.replicate 10 0 ++ leBytes 32 0x9defae77a65c156f910d66d98bfcec0e6369b19ac74b14891e08b3f69d1ad4f7 ++ leBytes 16 0x6424f172c3c6ffeb50f7a23d3286f53e)
  { l.zipIdx.foldl (fun s x => s.writeLoc (.pkg (0x10065 + x.2)) (some x.1)) loaded with funcs := [(0, vf0), (1024, { pf0 with eph := some 0 })] }

/-- KEY_IMPORT of the blob with ECDH product `z` into the slot of `w1` answers `res`, and leaves the ephemeral key or not. -/
def imports (z : BitVec 384) (s : State) (w1 : W32) (res : Nat) (gone : Bool) (p : State → Bool := fun _ => true) : Bool :=
  ran (.keyImport 1 z) (asked' 1 (req 0x24 [w1, 0x10000, 0]) s) fun t => tells 1 8 0x24 res t && (t.func 1024).eph.isNone == gone && p t

/-- Witness of KeySlots, KEY_IMPORT: the key of a good blob; another product, and another partition (15 R421). -/
theorem witness_key_import : imports 7#384 (blob 0) 9 0 true (fun t => Tab.get none t.sec.keys 9 == some ⟨true, 0, 6⟩) = true := by decide +kernel
theorem witness_key_import_tag : (imports 8#384 (blob 0) 9 6 true && imports 7#384 (blob 1) 9 6 true) = true := by
  decide +kernel

/-- Witness of KeySlots, KEY_IMPORT: the RESULTs of the other checks, in order, and the good blob with its slot loaded. -/
theorem witness_key_import_refused : (imports 7#384 loaded 9 5 true && imports 7#384 ((blob 0).modSec fun x => { x with reportGen := 1 }) 9 5 true &&
    ((blob 0).loadKey 9 ⟨true, 0, 1⟩).keyLoaded 9 && ((blob 0).loadKey 9 ⟨true, 0, 1⟩).pkgBytes 0x10000 160 == (blob 0).pkgBytes 0x10000 160 && imports 7#384 ((blob 0).modSec fun x => { x with transition := true }) 9 4 false &&
    imports 7#384 { (blob 0) with parts := [(0, { part0 with resetting := true })] } 9 9 false && imports 7#384 (blob 0) 0x00010009#32 2 false) = true := by
  decide +kernel

/-- PF 0 with a DOE instance, and a FRAGMENT in secure channel 4. -/
def doed (d : Doe) (q : List W32 := []) : State := asked' 12 q { base with funcs := [(1024, { pf0 with doe := d })] }

/-- A FRAGMENT request with BYTES `n` and LAST. -/
def frag (n : Nat) (last : Bool) : List W32 := BitVec.ofNat 32 (0x7F070000 + b2n last * 2 ^ 15 + n * 2 ^ 8) :: List.replicate 15 0

/-- Witness of SpdmRelay: a request object of 61 bytes in two fragments, a response, an abort, and objects that are too long. -/
theorem witness_spdm : let d := fun t : State => (t.func 1024).doe
    let said (n : Nat) (w : W32) (t : State) : Bool := (t.mbx 12).rspFull && (t.mbx 12).rspLen == 16 && Tab.get 0 (t.mbx 12).rsp 0 == w && n == (d t).sent
    let held (n : Nat) : Doe := { req := List.replicate 61 3, sent := n, pending := true }
    (ran (.doeGo 0 .spdm [1, 2]) (doed {}) (fun t => (d t).pending && (d t).req == [1, 2] && t.out == [.rotIrq 16]) &&
    ran (.doeGo 0 .spdm (List.replicate 4097 0)) (doed {}) (fun t => (d t).error && !(d t).pending) &&
    ran (.doeGo 0 .spdm [4]) (doed (held 0)) (fun t => d t == held 0) && ran (.doeAbort 0) (doed (held 0)) (fun t => d t == { aborted := true }) &&
    ran (.fragment 4) (doed { aborted := true } (frag 0 false)) (fun t => said 0 0x7F07000B#32 t && !(d t).aborted) &&
    ran (.fragment 4) (doed {} (frag 0 false)) (said 0 0x7F070000#32) && ran (.fragment 4) (doed (held 0) (frag 0 false)) (fun t => said 60 0x7F073C00#32 t && (d t).pending) &&
    ran (.fragment 4) (doed (held 60) (frag 0 false)) (fun t => said 61 0x7F078100#32 t && !(d t).pending && Tab.get 0 (t.mbx 12).rsp 1 == 3) &&
    fragOk (frag 60 false) && ran (.fragment 4) (doed {} (frag 60 false)) (fun t => (d t).rsp.length == 60 && !(d t).ready) &&
    ran (.fragment 4) (doed { rsp := List.replicate 4096 0 } (frag 1 false)) (fun t => said 0 0x7F070001#32 t && (d t).rsp == [])) = true := by decide +kernel

/-! ### Tenancy, functions, counters and registers (02, 16) -/

/-- The refusal code in CFG_RESULT of PF 0, and its offset. -/
def refused (code off : Nat) (t : State) : Bool := (t.func 1024).cfgResult == BitVec.ofNat 32 (code * 2 ^ 24 + off)

/-- Witness of TenancyWrites for VF_BIND: taken with the quota at its limit, moved to another partition, and each refusal. -/
theorem witness_vf_bind : let two : State := { base with parts := [(0, part0), (1, part0)] }
    let q : State := { two with queues := [(5, { st := .enabled })] }
    let go (n : Nat) (v : W64) (s : State) (p : State → Bool) : Bool := ran (.vfBindWrite 0 n v) s p
    (go 7 0x80400000#64 base (fun t => (t.func 7).bind == 0x80400000#64 && (t.func 7).bindGen == 1) &&
    go 0 0x80200000#64 base (fun t => (t.func 0).bindGen == 0) && go 0 0x80400001#64 two (fun t => (t.func 0).bindGen == 1) &&
    go 1 0x00400002#64 base (refused 12 0x20008) && go 8 0x80400000#64 base (refused 2 0x20040) && go 1 0x80410000#64 base (refused 2 0x20008) && go 1 0x80400002#64 base (refused 12 0x20008) &&
    go 0 0x80400001#64 q (refused 5 0x20000) && go 0 0x80000000#64 q (refused 5 0x20000) && go 0 0x80010000#64 q (fun t => (t.func 0).cfgResult == 0) &&
    go 1 0x80010000#64 { base with funcs := (List.range 255).map (fun i => (8 + i, { bind := 0x80400000#64 })) ++ base.funcs.drop 1 } (refused 4 0x20008)) = true := by decide +kernel

/-- Witness of TenancyWrites for VF_RANGE: up to the last VF, next to another port's, and each refusal (02 R44). -/
theorem witness_vf_range : let off : State := { base with funcs := [(0, vf0), (1024, { pf0 with vfEnable := false }), (1025, { range := 0x00080008#32 })] }
    let go (n : Nat) (v : W64) (p : State → Bool) : Bool := ran (.vfRangeWrite 0 n v) off p
    (go 3 0x03F00010#64 (fun t => (t.func 1027).range == 0x03F00010#32) && go 3 0x00000009#64 (fun t => (t.func 1027).range == 0x00000009#32) && go 0 0x00080000#64 (fun t => (t.func 1024).range == 0x00080000#32) &&
    go 0 0x00090000#64 (refused 3 0x24000) && go 3 0x03F10010#64 (refused 2 0x24018) && ran (.vfRangeWrite 0 0 0x00010000#64) base (refused 9 0x24000)) = true := by decide +kernel

/-- Partition 1 disabled with `x`, and partition 0 enabled, without running slices. -/
def second (x : Part) (g : State → State := id) : State := g { base with parts := [(0, part0), (1, x)] }

/-- A disabled partition with port 1, bank 1 and the last extent. -/
def part1 : Part := { engines := 2, banks := 2, extents := 0x00000001000FFFFF#64, slices := 9, portLost := true }

/-- Witness of TenancyWrites for PART_CFG: an enable with all the threads left and its refusals; a disable and its refusals (02 R53, R54). -/
theorem witness_part_cfg : let en (x : Part) (th : Nat) (p : State → Bool) : Bool := ran (.partitionEnable 0 1 (BitVec.ofNat 64 (th * 2 ^ 32 + 1))) (second x) p
    let dis (n : Nat) (v : W64) (s : State) (p : State → Bool) : Bool := ran (.partitionDisable 0 n v) s p
    let keyed : State := { base with funcs := base.funcs.drop 1, sec := { keys := [(1, some ⟨false, 0, 5⟩), (2, some ⟨true, 1, 5⟩)] } }
    (en part1 252 (fun t => t.enabled 1 && (t.part 1).slices == 0 && !(t.part 1).portLost && t.sec.reportGen == 1) && en part1 253 (refused 4 0x10100) &&
    en { part1 with banks := 0 } 1 (refused 10 0x10100) && en { part1 with engines := 3 } 1 (refused 3 0x10100) && en { part1 with extents := 0x00000002000FFFFF#64 } 1 (refused 4 0x10100) &&
    ran (.partitionEnable 0 1 0x100000001#64) (second part1 fun s => { s with chans := [(ckey 3 1, { retired := true })] }) (refused 11 0x10100) &&
    dis 0 0x400000000#64 keyed (fun t => !t.enabled 0 && t.sec.keys == [(2, some ⟨true, 1, 5⟩)] && t.sec.reportGen == 1) &&
    dis 0 0x400000000#64 base (refused 6 0x10000) && dis 0 0x300000000#64 base (refused 7 0x10000) && dis 0 0x300000001#64 base (refused 7 0x10000)) = true := by decide +kernel

/-- Two partitions at boundaries, with 2 ports and banks in partition 0; RESIZE_ENGINES and RESIZE_BANKS name its second ones. -/
def resizing (x : Rcv → Rcv := id) : State :=
  { base with
    parts := [(0, { part0 with engines := 3, banks := 3, running := false, job := none }), (1, { part1 with cfg := 0x0000000100000001#64, engines := 4, banks := 4 })]
    ports := [(0, port0), (1, port0)], rcv := x { rszEngines := 2, rszBanks := 2 } }

/-- A resize of partition 0 to 1 with 3 threads in phase `n`. -/
def moving (n : Nat) (x : Rcv → Rcv := id) : State := resizing fun r => x { r with rszPhase := n, rszAct := 0x00030100#32, rszMovE := 2, rszMovB := 2 }

/-- Witness of ResizeSteps: GO with a source, without one, refused and failed; CANCEL; the two steps. -/
theorem witness_resize : let go (v : W64) (s : State) (p : State → Bool) : Bool := ran (.resizeGo 0 v) s p
    let free := resizing fun r => { r with rszEngines := 8, rszBanks := 8 }
    (go 0x80030100#64 resizing (fun t => t.rcv.rszPhase == 1 && t.rcv.rszAct == 0x00030100#32) && go 0x80040100#64 resizing (fun t => t.rcv.rszResult == 10 && t.rcv.rszPhase == 0) &&
    go 0x80030200#64 resizing (fun t => t.rcv.rszResult == 12) && go 0x80030100#64 (moving 1) (refused 8 0x14000) &&
    go 0x80030140#64 free (fun t => t.rcv.rszPhase == 2 && t.rcv.rszMovE == 8 && t.rcv.rszCleared == 0 && (t.eport 3).clearing) &&
    ran (.resizeCancel 0 0x40030100#64) (moving 1) (fun t => t.rcv.rszPhase == 0 && t.rcv.rszResult == 2) && ran (.resizeCancel 0 0x40000000#64) (moving 2) (fun t => t.rcv.rszPhase == 2) &&
    (moving 1).srcReady && (moving 1).atBoundary (some 0) && ran .resizeSourceStep (moving 1) (fun t => t.rcv.rszPhase == 2 && (t.part 0).engines == 1 && (t.part 0).banks == 1 && t.threadsCfg 0 == 1 &&
      (t.eport 1).clearing && (t.eport 1).egen == 8 && !(t.eport 0).clearing) && !resizing.srcReady &&
    ran .resizeSourceStep { moving 1 with ports := [(1, { port0 with retired := true })] } (fun t => t.rcv.rszCleared == 2) &&
    ran .resizeSourceStep { moving 1 with latch := {} } (fun t => t.rcv.rszCleared == 2) && !(moving 2).dstReady &&
    ran .resizeDestinationStep (moving 2 fun r => { r with rszScrubbed := 2, rszCleared := 2 }) (fun t => t.rcv.rszPhase == 0 && t.rcv.rszResult == 1 && (t.part 1).engines == 6 && (t.part 1).banks == 6 &&
      t.threadsCfg 1 == 4 && t.sec.reportGen == 1)) = true := by decide +kernel

/-- 02 R60: the last byte of the moving bank reads zero after its scrub, the byte after it as before. -/
theorem test_scrub : let s := ((moving 2).writeLoc (.ws 67108863) (some 5)).writeLoc (.ws 67108864) (some 6)
    (ran (.scrubComplete 1) s (fun t => t.rcv.rszScrubbed == 2 && t.readLoc (.ws 67108863) == some 0 && t.readLoc (.ws 67108864) == some 6) &&
    ran (.scrubComplete 2) s (fun t => t.rcv.rszScrubbed == 0 && t.readLoc (.ws 67108863) == some 5)) = true := by decide +kernel

/-- VF 0 with a queue, a running task of it, an armed slot, and counts; PF 0 with an admin queue. -/
def tenant : State :=
  { queued with
    funcs := [(0, { vf0 with errSum := 1, winDrop := 2, slots := [(5, { handle := wp1, vector := 3, armed := true, target := 20 })], msix := [(0, { addr := 4 })] }), (1024, pf0)]
    queues := [(5, q5), (65536, { st := .enabled, gen := 2 })], wps := { tab := [(1, { live := true, gen := 5 })], next := 2, lans := [⟨1, 20, .slot 0 5⟩] }
    tasks := [(0, { taskOf 0 with q := 5, qgen := 0x2C })] }

/-- Witness of FunctionResetsAndLinks: the reset of VF 0; of a PF, with and without a link; a link lost and returned. -/
theorem witness_flr : let flr (t : State) : Bool := (t.queue 5).st == .destroying && (t.queue 5).gen == 0x2C && (t.func 0).errSum == 0 && (t.func 0).winDrop == 0 &&
      (t.func 0).msix == [] && (t.func 0).bind == 0x80400000#64 && (Tab.get {} (t.func 0).slots 5 : Slot) == { handle := wp1, vector := 3 } && (t.task 0).after == some (.fail 0x16)
    let down : State := { base with funcs := [(1024, { pf0 with linkUp := false })] }
    ((tenant.enabledVfs 0).contains 0 && (tenant.task 0).killable && ran (.vfFlr 0) tenant (fun t => flr t && (t.func 1024).linkUp && t.wps.lans == [] && (t.queue 65536).st == .enabled) &&
    ran (.pfFlrWrite 0) base (fun t => (t.func 1024).authDenied == 1) && ran (.pfFlrWrite 0) down (fun t => t == down) &&
    ran (.hostLinkLoss 0) tenant (fun t => flr t && !(t.func 1024).linkUp && (t.queue 65536).st == .destroying) && ran (.hostLinkReturn 0) down (fun t => (t.func 1024).linkUp)) = true := by decide +kernel

/-- Witness of CountersAndRegisters for counters: an EDGE event, a level with a threshold, no such event; levels sampled. -/
theorem witness_counters : let thr : State := { (faulty 0 {}) with cnt := { cfg := [(0x0C2, some 0x200000000#64), (0x022, some 0x100000000#64)], cnt := [(0x021, 2 ^ 64 - 1)] } }
    (cntDefined 0x001 && ran (.cntCfgWrite 0 1 0x800000000000#64) base (fun t => t.cntCfg 1 == 0x800000000000#64) &&
    modeAllowed 0x0C2 2 && ran (.cntCfgWrite 0 0x0C2 0x200000005#64) base (fun t => t.cntCfg 0x0C2 == 0x200000005#64) &&
    ran (.cntCfgWrite 0 1 0x100000000#64) base (refused 2 0x61008) && ran (.cntCfgWrite 0 0x021 0x200000000#64) base (refused 2 0x61108) &&
    ran (.cntCfgWrite 1 1 0) base (fun t => (t.func 1025).cfgResult == 0x01061008#32 && (t.func 1025).authDenied == 1) &&
    ran .counterSamplePoint thr (fun t => t.now == 16 && Tab.get 0 t.cnt.cnt 0x021 == 2 ^ 64 - 1 && Tab.get 0 t.cnt.cnt 0x0C2 == 1 && Tab.get 0 t.cnt.cnt 0x022 == 0)) = true := by decide +kernel

/-- Witness of CountersAndRegisters for registers: reads of a whole word and of each half, holes, misformed accesses, the reads that
clear, another PF's accesses, the writes of plain registers, and configuration space. -/
theorem witness_registers : let s : State := { base with
      funcs := [(0, vf0), (1024, { pf0 with cfgResult := 7, authDenied := 8 })], geq := { lost := 3 }, parts := [(0, { part0 with engines := 0x123456789#64 })] }
    let rd (p off size : Nat) (v : W64) (g : State → Bool) : Bool := ran (.registerRead (.mmio (.pf p) off size)) s (fun t => t.out == [.readData v] && g t)
    let wr (p off size : Nat) (v : W64) (g : State → Bool) : Bool := ran (.registerWrite (.mmio (.pf p) off size) v) s g
    let same (t : State) : Bool := t == s
    (rd 0 0x10008 8 0x123456789#64 (fun _ => true) && rd 0 0x10008 4 0x23456789#64 (fun _ => true) && rd 0 0x1000C 4 1 (fun _ => true) && rd 0 0x1000C 8 0 (fun _ => true) &&
    rd 0 0x3FFFF8 8 0 (fun _ => true) && wr 0 0x3FFFF8 8 1 same && wr 0 0x1000A 4 1 same && wr 0 0x10030 2 1 same &&
    rd 0 0x48 4 7 (fun t => (t.func 1024).cfgResult == 0) && rd 0 0x50 4 8 (fun t => (t.func 1024).authDenied == 0) && rd 0 0x30020 4 3 (fun t => t.geq.lost == 0) &&
    rd 1 0x10008 8 0 (fun t => (t.func 1025).authDenied == 1) && wr 1 0x10030 4 9 (fun t => (t.func 1025).cfgResult == 0x01010030#32) &&
    wr 0 0x14008 8 5 (fun t => t.rcv.rszEngines == 5) && wr 0 0x200000 8 0x1FFF#64 (fun t => t.rcv.dumpAddr == 0x1000#64) && wr 0 0x63000 8 0xFF#64 (fun t => t.cnt.smpBase == 0xC0#64) &&
    wr 0 0x30000 8 0xFFFFF#64 (fun t => t.geq.base == 0xC0001#64) && wr 0 0x13F30 8 7 (fun t => (t.part 63).budget == 7) && wr 0 0x13F08 8 7 (fun t => (t.part 63).engines == 7) &&
    wr 0 0x10008 8 7 (refused 7 0x10008) && ran (.registerWrite (.cfg (.pf 0) .atsEnable) 0) s (fun t => !(t.func 1024).atsEn) &&
    ran (.registerRead (.cfg (.pf 0) .numVfs)) s (fun t => t.out == [.readData 8]) && ran (.registerRead (.cfg (.pf 0) .totalVfs)) s (fun t => t.out == [.readData 8]) &&
    ran (.registerWrite (.cfg (.pf 0) .vfEnable) 0) s (fun t => !(t.func 1024).vfEnable)) = true := by decide +kernel

/-- 01 R34, R36: g(x) is (x + 1)(x + 2)(x + 4) = x^3 + 7x^2 + 14x + 8; one symbol in error, at either end, is corrected, and two
are detected. The word with d_0 = 1 alone has the check bits x^3 mod g. -/
theorem test_path_code : let c : Codeword := pcEncode [1, 2, 0xFF]
    (pcG == (8, 14, 7) && pathcodeCheck [1] == (8, 14, 7) && pathcodeCheck [1, 0, 0] == (8, 14, 7) && pathCheck c == .clean &&
    pathCheck (c.flip 0 0x80) == .corrected c && pathCheck (c.flip 5 1) == .corrected c && pathCheck (c.flip 3 1) == .corrected c &&
    pathCheck ((c.flip 1 3).flip 4 3) == .uncorrectable) = true := by decide +kernel

end Sys2Proof.Tests
end

section
/-! The scalar words and the branches (05 R139, R141 to R143, R149): the arithmetic that the spec's table states by numbers,
what a decided branch and a standing thread leave behind, and the two statements about these words. -/

namespace Sys2Proof.Machine

/-! ### The results of 05 R139 as numbers -/

theorem ofNat_toNat_self (x : W64) : BitVec.ofNat 64 x.toNat = x := (BitVec.ofNat_toNat 64 x).trans (BitVec.setWidth_eq x)

theorem mul_eq_ofNat (a b : W64) : a * b = BitVec.ofNat 64 (a.toNat * b.toNat) := by
  rw [BitVec.ofNat_mul, ofNat_toNat_self, ofNat_toNat_self]

theorem shiftLeft_eq_ofNat (a : W64) (n : Nat) : a <<< n = BitVec.ofNat 64 (a.toNat * 2 ^ n) := by
  apply BitVec.eq_of_toNat_eq
  rw [BitVec.toNat_shiftLeft, BitVec.toNat_ofNat, Nat.shiftLeft_eq]

theorem ushiftRight_eq_ofNat (a : W64) (n : Nat) : a >>> n = BitVec.ofNat 64 (a.toNat / 2 ^ n) := by
  have h : a.toNat / 2 ^ n < 2 ^ 64 := lt_of_le_of_lt (Nat.div_le_self _ _) a.isLt
  apply BitVec.eq_of_toNat_eq
  rw [BitVec.toNat_ushiftRight, BitVec.toNat_ofNat, Nat.shiftRight_eq_div_pow, Nat.mod_eq_of_lt h]

theorem sshiftRight_eq_ofInt (a : W64) (n : Nat) : a.sshiftRight n = BitVec.ofInt 64 (a.toInt / 2 ^ n) := by
  rw [BitVec.sshiftRight, Int.shiftRight_eq_div_pow]
  norm_cast

/-- The smaller of two words in an order that a number of each gives, as that number's word. -/
theorem ite_le_eq_min {α : Type} [LinearOrder α] (f : W64 → α) (g : α → W64) (hg : ∀ x, g (f x) = x) (a b : W64) :
    (if f a ≤ f b then a else b) = g (min (f a) (f b)) := by
  rw [min_def]
  split <;> simp only [hg]

/-- The larger of two words in an order that a number of each gives, as that number's word. -/
theorem ite_le_eq_max {α : Type} [LinearOrder α] (f : W64 → α) (g : α → W64) (hg : ∀ x, g (f x) = x) (a b : W64) :
    (if f a ≤ f b then b else a) = g (max (f a) (f b)) := by
  rw [max_def]
  split <;> simp only [hg]

/-- CLZ counts zero bits from the top: the bits above are 0, and the next one, if there is one, is 1. -/
theorem clz64_spec (a : W64) : ∃ n, n ≤ 64 ∧ clz64 a = BitVec.ofNat 64 n ∧
    (∀ i, 64 - n ≤ i → i < 64 → a.getLsbD i = false) ∧ (n < 64 → a.getLsbD (63 - n) = true) := by
  by_cases h : a = 0
  · exact ⟨64, le_rfl, by rw [clz64, if_pos h]; rfl, by simp [h], fun hn => absurd hn (by decide)⟩
  · have ha : a.toNat ≠ 0 := fun e => h (BitVec.eq_of_toNat_eq e)
    have hl : Nat.log2 a.toNat < 64 := (Nat.log2_lt ha).mpr a.isLt
    refine ⟨63 - Nat.log2 a.toNat, by omega, by rw [clz64, if_neg h], fun i hi _ => ?_, fun _ => ?_⟩
    · have above : a.toNat < 2 ^ i := (Nat.log2_lt ha).mp (by omega)
      exact Nat.testBit_lt_two_pow above
    · rw [show 63 - (63 - Nat.log2 a.toNat) = Nat.log2 a.toNat by omega]
      exact Nat.testBit_log2 ha

/-! ### Branches and stalls -/

@[simp] theorem Task.setS_pc (t : Task) (k : Nat) (v : W64) : (t.setS k v).ctx.pc = t.ctx.pc := rfl

/-- A command that decides its word's branch, after it may have changed its own task (05 R141 to R143). -/
theorem State.branch_issues (s v : State) (c : Instr) (r : Nat) (w : W128) (taken : Bool)
    (h : exec c s = done s (v.branch r w taken)) (hv : s.only v [.tasks]) (hq : ∀ q, q ≠ r → v.task q = s.task q) :
    s.issues c r ((v.task r).at' (if taken then targetOf w else (v.task r).ctx.pc + 1)) := by
  cases taken with
  | true => exact State.issues_from s v c r w 2 _ h hv hq
  | false => exact State.issues_from s v c r w 1 _ h hv hq

/-- A command that decides its word's branch and changes nothing else of its task. -/
theorem State.branch_issues_same (s : State) (c : Instr) (r : Nat) (w : W128) (taken : Bool)
    (h : exec c s = done s (s.branch r w taken)) :
    s.issues c r ((s.task r).at' (if taken then targetOf w else (s.task r).ctx.pc + 1)) :=
  State.branch_issues s s c r w taken h (State.only_refl s _) fun _ _ => rfl

/-- A command that leaves its thread standing for the cause `k`: the task notes it, and only counts change beside. -/
theorem State.stallAt_stands (s : State) (c : Instr) (r : Nat) (k : Stall) (h : exec c s = done s (s.stallAt r k)) :
    ∃ u, exec c s = .next u ∧ u.task r = { s.task r with stall := k } ∧ (∀ q, q ≠ r → u.task q = s.task q) ∧
      s.only u [.tasks, .cnt] := by
  obtain ⟨u, hu, -, -, ho, fix⟩ := done_spec s (s.stallAt r k)
  have ht : ∀ q, u.task q = (s.stallAt r k).task q := State.task_of (ho .tasks (by decide))
  have hn : ∀ q, (s.noteStall r k.code).task q = s.task q := State.task_of (State.only_noteStall s r _ .tasks (by decide))
  refine ⟨u, h.trans hu, ?_, fun q hq => ?_, fix _ (by decide) ?_⟩
  · rw [ht, State.stallAt, State.modTask_task_self, hn]
  · rw [ht, State.stallAt, State.modTask_task_ne _ _ _ hq, hn]
  · exact State.only_after (State.only_modTask _ _ _).sub (State.only_noteStall s r _).sub

/-! ### The branch words at issue -/

/-- BR whose operand has the value `v`, which COND 0 does not read (05 R141). -/
theorem State.br_issues (s : State) (r : Nat) (w : W128) (v : W64) (h : s.ready r w = true) (ho : opcodeOf w = 0x30)
    (hc : chkB w = true) (hs : fld w 115 112 ≠ 0 → (s.task r).src (fld w 95 89) = some v) :
    s.issues (.br r) r ((s.task r).at' (if brTest (fld w 115 112) v then targetOf w else (s.task r).ctx.pc + 1)) := by
  apply State.branch_issues_same
  show execBr r s = _
  rw [execBr, State.issue_ready s r _ w _ _ _ h rfl ho hc rfl]
  by_cases h0 : fld w 115 112 = 0
  · simp only [h0, if_true, brTest]
  · simp only [h0, if_false, hs h0]

/-- BRP (05 R142). -/
theorem State.brp_issues (s : State) (r : Nat) (w : W128) (h : s.ready r w = true) (ho : opcodeOf w = 0x31)
    (hr : fld w 119 116 = 0) (hz : fld w 95 0 = 0) :
    s.issues (.brp r) r ((s.task r).at'
      (if (s.task r).pred (fld w 115 113) != bit w 112 then targetOf w else (s.task r).ctx.pc + 1)) := by
  apply State.branch_issues_same
  show execBrp r s = _
  rw [execBrp, State.issue_ready s r _ w _ _ _ h rfl ho (by simp [hr, hz]) rfl]

/-- What LOOP does where its thread stands at it (05 R143). -/
theorem exec_loop_ready (s : State) (r : Nat) (w : W128) (h : s.ready r w = true) (ho : opcodeOf w = 0x32)
    (hr : fld w 119 112 = 0) (hz : fld w 89 0 = 0) :
    let k := fld w 95 90
    let c := (s.task r).sreg k
    exec (.loop r) s = done s (if c = 0 then s.branch r w false
      else (s.modTask r fun t => t.setS k (c - 1)).branch r w (c - 1 != 0)) := by
  show execLoop r s = _
  rw [execLoop, State.issue_ready s r _ w _ _ _ h rfl ho (by simp [hr, hz]) rfl]

/-- LOOP with a count of 0 leaves it and falls through. -/
theorem State.loop_zero_issues (s : State) (r : Nat) (w : W128) (h : s.ready r w = true) (ho : opcodeOf w = 0x32)
    (hr : fld w 119 112 = 0) (hz : fld w 89 0 = 0) (hk : (s.task r).sreg (fld w 95 90) = 0) :
    s.issues (.loop r) r ((s.task r).at' ((s.task r).ctx.pc + 1)) := by
  have he := exec_loop_ready s r w h ho hr hz
  simp only [hk, if_true] at he
  exact State.branch_issues_same s _ r w false he

/-- LOOP with another count decrements it, and branches unless the count was 1. -/
theorem State.loop_succ_issues (s : State) (r : Nat) (w : W128) (h : s.ready r w = true) (ho : opcodeOf w = 0x32)
    (hr : fld w 119 112 = 0) (hz : fld w 89 0 = 0) (hk : (s.task r).sreg (fld w 95 90) ≠ 0) :
    s.issues (.loop r) r (((s.task r).setS (fld w 95 90) ((s.task r).sreg (fld w 95 90) - 1)).at'
      (if (s.task r).sreg (fld w 95 90) = 1 then (s.task r).ctx.pc + 1 else targetOf w)) := by
  have he := exec_loop_ready s r w h ho hr hz
  simp only [hk, if_false] at he
  have hb := State.branch_issues s _ _ r w _ he (State.only_modTask s r _) fun q hq => State.modTask_task_ne _ _ _ hq
  rw [State.modTask_task_self] at hb
  have last : ((s.task r).sreg (fld w 95 90) - 1 != 0) = !decide ((s.task r).sreg (fld w 95 90) = 1) := by
    rw [bne, beq_eq_decide, decide_eq_decide.mpr sub_eq_zero]
  rw [last] at hb
  simpa using hb

/-- What JOIN does where its thread stands at it (05 R149). -/
theorem exec_join_ready (s : State) (r : Nat) (w : W128) (h : s.ready r w = true) (ho : opcodeOf w = 0x42)
    (hz : fld w 119 64 = 0) :
    exec (.join r) s = done s (if ((s.task r).named (w.setWidth 64)).isEmpty then s.issuedDone r w 1 ((s.task r).ctx.pc + 1)
      else s.stallAt r .join) := by
  show execJoin r s = _
  rw [execJoin, State.issue_ready s r _ w _ _ _ h rfl ho (by simp [hz]) rfl]

/-! ### The statements -/

/-- Settles O12: the model's results are the numbers of 05 R139, and a scalar word whose guard holds writes its result. -/
theorem aluResults : Obligations.AluResults := by
  intro r w s h hg
  dsimp only
  refine ⟨fun a b hc ha hb => ?_, fun a b hc ha hb ho => ?_, fun b hc hb ho => ?_, fun a hc ha => ⟨fun ho => ?_, fun ho => ?_⟩⟩
  · have two : ∀ (c : Instr) (opc : Nat) (f : W64 → W64 → W64) (v : W64),
        exec c s = done s (s.alu r opc false true true fun _ a b => f a b) → opcodeDefined opc = true → f a b = v →
        opcodeOf w = opc → s.issues c r (((s.task r).setS (fld w 111 106) v).at' ((s.task r).ctx.pc + 1)) :=
      fun c opc f v he hd hv ho => State.alu_issues s c r opc w _ _ _ _ a b v he h hg hd ho hc ha hb hv
    exact ⟨two (.add r) _ _ _ rfl rfl rfl,
      two (.sub r) _ _ _ rfl rfl rfl,
      two (.mullo r) _ _ _ rfl rfl (mul_eq_ofNat a b),
      two (.mulhu r) _ _ _ rfl rfl rfl,
      two (.and r) _ _ _ rfl rfl rfl,
      two (.or r) _ _ _ rfl rfl rfl,
      two (.xor r) _ _ _ rfl rfl rfl,
      two (.shl r) _ _ _ rfl rfl (shiftLeft_eq_ofNat a (fld b 5 0)),
      two (.shr r) _ _ _ rfl rfl (ushiftRight_eq_ofNat a (fld b 5 0)),
      two (.sar r) _ _ _ rfl rfl (sshiftRight_eq_ofInt a (fld b 5 0)),
      two (.minu r) _ _ _ rfl rfl (ite_le_eq_min BitVec.toNat _ ofNat_toNat_self a b),
      two (.maxu r) _ _ _ rfl rfl (ite_le_eq_max BitVec.toNat _ ofNat_toNat_self a b),
      two (.mins r) _ _ _ rfl rfl (ite_le_eq_min BitVec.toInt _ (fun _ => BitVec.ofInt_toInt) a b),
      two (.maxs r) _ _ _ rfl rfl (ite_le_eq_max BitVec.toInt _ (fun _ => BitVec.ofInt_toInt) a b)⟩
  · exact State.alu_issues s _ r _ w _ _ _ _ a b _ rfl h hg rfl ho hc ha hb rfl
  · exact State.alu_issues s _ r _ w _ _ _ _ 0 b _ rfl h hg rfl ho hc rfl hb rfl
  · obtain ⟨n, hn, hv, zeros, one⟩ := clz64_spec a
    exact ⟨n, hn, State.alu_issues s _ r _ w _ _ _ _ a 0 _ rfl h hg rfl ho hc ha rfl hv, zeros, one⟩
  · exact State.alu_issues s _ r _ w _ _ _ _ a 0 _ rfl h hg rfl ho hc ha rfl rfl

/-- Settles O14, word by word; JOIN by whether its mask names an occupied slot. -/
theorem branchesLoopAndJoin : Obligations.BranchesLoopAndJoin := by
  intro r w s h
  refine ⟨fun v ho hc hs => ?_, fun ho hr hz => ?_, fun ho hr hz => ⟨?_, ?_⟩, fun ho hz => ⟨fun hn => ?_, fun hn => ?_⟩⟩
  · simp only [ne_eq, decide_not]
    exact State.br_issues s r w v h ho hc hs
  · exact State.brp_issues s r w h ho hr hz
  · exact State.loop_zero_issues s r w h ho hr hz
  · exact State.loop_succ_issues s r w h ho hr hz
  · have he := exec_join_ready s r w h ho hz
    rw [hn] at he
    exact State.issues_skip s _ r w 1 _ he
  · have he := exec_join_ready s r w h ho hz
    rw [if_neg (by simpa using hn)] at he
    exact State.stallAt_stands s _ r .join he

end Sys2Proof.Machine
end

section
/-! The latches across the commands (14 R383, R387, R391, R394, R397; 15 R411, R429): a command that sets no latch leaves them
all, one that may set some joins them to those that are set, and the latches of dim mode grow only, so that dim mode is not
entered again before POWER_ON. -/

namespace Sys2Proof.Machine

/-! ### Dim mode as a predicate of the latches -/

/-- Dim mode is over exactly when all three loops have converged (14 R387). -/
theorem Latch.dim_eq_false_iff (l : Latch) :
    l.dim = false ↔ l.candleCal = true ∧ l.vConv = true ∧ l.trimConv = true := by
  simp [Latch.dim, and_assoc]

theorem Latch.dim_iff (l : Latch) : l.dim = true ↔ ¬(l.candleCal = true ∧ l.vConv = true ∧ l.trimConv = true) := by
  rw [← Latch.dim_eq_false_iff, Bool.not_eq_false]

/-- Where no latch is cleared, dim mode is not entered again. -/
theorem Latch.dim_eq_false_of_le {a b : Latch} (h : a.le b = true) (hd : a.dim = false) : b.dim = false := by
  obtain ⟨-, -, -, -, -, cal, volt, trim, -⟩ := (Latch.le_iff a b).mp h
  obtain ⟨hcal, hvolt, htrim⟩ := a.dim_eq_false_iff.mp hd
  exact b.dim_eq_false_iff.mpr ⟨cal hcal, volt hvolt, trim htrim⟩

/-! ### What a command does to the latches -/

/-- The commands that may set a latch end in `doneL`, but for POWER_ON. -/
theorem exec_doneL (c : Instr) (s : State) (h : latching c = true) (hp : c ≠ .powerOn) : ∃ t, exec c s = doneL s t := by
  cases c with
  | powerOn => exact absurd rfl hp
  | calibrationWindowEnd | voltageSample | trimSample | vaiEnableRun | vaiEnableEngines | vaiEnableQueues | vaiEnableIrq
  | registerWrite | tapRead | fwArm => exact ⟨_, rfl⟩
  | _ => exact absurd h Bool.false_ne_true

theorem exec_latch_eq {c : Instr} {s t : State} (h : latching c = false) (he : exec c s = .next t) : t.latch = s.latch := by
  obtain ⟨b, hb⟩ := exec_done c s h
  obtain ⟨u, hu, -, hl, -⟩ := done_next s b
  obtain rfl : u = t := Host.Outcome.next.inj (hu.symm.trans (hb.symm.trans he))
  exact hl

/-- No command but POWER_ON clears a latch (14 R383). -/
theorem exec_latch_le {c : Instr} {s t : State} (hp : c ≠ .powerOn) (he : exec c s = .next t) :
    s.latch.le t.latch = true := by
  by_cases h : latching c = true
  · obtain ⟨b, hb⟩ := exec_doneL c s h hp
    obtain ⟨u, hu, -, hl, -⟩ := doneL_next s b
    obtain rfl : u = t := Host.Outcome.next.inj (hu.symm.trans (hb.symm.trans he))
    rw [hl]
    exact Latch.le_join _ _
  · rw [exec_latch_eq (Bool.eq_false_of_not_eq_true h) he]
    exact Latch.le_refl _

/-- The phases of a reset set no latch (14 R383; 13 R371). -/
theorem latching_resetPhase {c : Instr} (h : c = .resetKillPhase ∨ c = .resetClearPhase ∨ c = .resetRestartPhase) :
    latching c = false := by
  obtain rfl | rfl | rfl := h <;> rfl

theorem exec_powerOn_latch {s t : State} (he : exec .powerOn s = .next t) : t.latch = State.reset.latch :=
  (congrArg State.latch (Host.Outcome.next.inj he)).symm

/-! ### The statement -/

/-- Settles O5: every command but POWER_ON joins to the latches that are set, or leaves them, as the reset phases do; POWER_ON
clears them all. -/
theorem latchesStayUntilPowerOn : Obligations.LatchesStayUntilPowerOn := by
  refine ⟨fun c s t hp he => ?_, fun s t he => ?_, Latch.dim_iff⟩
  · have hle := exec_latch_le hp he
    exact ⟨hle, Latch.dim_eq_false_of_le hle, fun hc => exec_latch_eq (latching_resetPhase hc) he⟩
  · rw [exec_powerOn_latch he]
    rfl

end Sys2Proof.Machine
end

section
/-! What every command keeps: the queue of commands (01 R14) and the order of the enables (14 R384). -/

namespace Sys2Proof.Machine

set_option Elab.async false

/-- Settles O2: POWER_ON keeps the queue by its definition, and every other command ends in `done` or `doneL`, which do. -/
theorem commandsAnswerAndKeepQueue : Obligations.CommandsAnswerAndKeepQueue := by
  intro c s
  by_cases hl : latching c = true
  · by_cases hp : c = .powerOn
    · subst hp
      exact ⟨_, rfl, rfl⟩
    · obtain ⟨b, hb⟩ := exec_doneL c s hl hp
      obtain ⟨t, ht, pend, -⟩ := doneL_next s b
      exact ⟨t, hb.trans ht, pend⟩
  · obtain ⟨b, hb⟩ := exec_done c s (Bool.eq_false_of_not_eq_true hl)
    obtain ⟨t, ht, pend, -⟩ := done_next s b
    exact ⟨t, hb.trans ht, pend⟩

/-! ### The order of the enables -/

/-- The order asks of each enable that another one is set, so joining two latches in order keeps it. -/
theorem Latch.ordered_join {a b : Latch} (ha : a.ordered = true) (hb : b.ordered = true) : (a.join b).ordered = true := by
  rw [Latch.ordered_iff] at ha hb ⊢
  obtain ⟨ha1, ha2, ha3, ha4⟩ := ha
  obtain ⟨hb1, hb2, hb3, hb4⟩ := hb
  have key : ∀ x y u v : Bool, (x = true → y = true) → (u = true → v = true) → (x || u) = true → (y || v) = true := by decide
  exact ⟨key _ _ _ _ ha1 hb1, key _ _ _ _ ha2 hb2, key _ _ _ _ ha3 hb3, key _ _ _ _ ha4 hb4⟩

/-- A latch that is no enable may be set in any order. -/
theorem Latch.ordered_congr {a b : Latch} (h : a.ordered = true) (hi : b.irq = a.irq) (hq : b.queues = a.queues)
    (he : b.engines = a.engines) (hr : b.run = a.run) (hf : b.fwReady = a.fwReady ∨ b.fwReady = true) :
    b.ordered = true := by
  rw [Latch.ordered_iff] at h ⊢
  obtain ⟨h1, h2, h3, h4⟩ := h
  rw [hi, hq, he, hr]
  exact ⟨h1, h2, h3, fun run => hf.elim (fun e => e.trans (h4 run)) id⟩

/-- A command that may set latches makes a state in whose latches the enables stand in order (14 R384). -/
theorem exec_doneL_ordered (c : Instr) (s : State) (h : latching c = true) (hp : c ≠ .powerOn)
    (ho : s.latch.ordered = true) : ∃ t, exec c s = doneL s t ∧ t.latch.ordered = true := by
  cases c with
  | powerOn => exact absurd rfl hp
  | calibrationWindowEnd =>
    refine ⟨_, rfl, ?_⟩
    split
    · exact ho
    · rw [State.latchTo_latch]
      exact Latch.ordered_congr ho rfl rfl rfl rfl (.inl rfl)
  | voltageSample pace =>
    refine ⟨_, rfl, ?_⟩
    rw [State.send_latch]
    split
    · rw [State.latchTo_latch]
      exact Latch.ordered_congr ho rfl rfl rfl rfl (.inl rfl)
    · exact ho
  | trimSample path x =>
    refine ⟨_, rfl, ?_⟩
    dsimp only
    split
    · rw [State.latchTo_latch]
      exact Latch.ordered_congr ho rfl rfl rfl rfl (.inl rfl)
    · exact ho
  | vaiEnableRun p | vaiEnableEngines p | vaiEnableQueues p | vaiEnableIrq p =>
    exact ⟨_, rfl, (State.opWrite_enable_latch s p 0x10 _).2 ho⟩
  | registerWrite t v =>
    refine ⟨_, rfl, ?_⟩
    dsimp only
    split
    · next hw => exact (State.regWrite_latch s t v hw).2 ho
    · exact ho
  | tapRead sec index field =>
    refine ⟨_, rfl, ?_⟩
    split
    · exact ho
    · rw [State.bumpReport_latch]
      exact Latch.ordered_congr ho rfl rfl rfl rfl (.inl rfl)
  | fwArm c =>
    refine ⟨_, rfl, State.secure_latch _ _ _ _ _ (fun l => l.ordered = true) ho fun q => ?_⟩
    dsimp only
    split
    · rw [State.bumpReport_latch, State.each_latch _ fun _ _ => State.modPart_latch _ _ _]
      exact Latch.ordered_congr ho rfl rfl rfl rfl (.inr rfl)
    · split
      · exact ho
      · rw [State.activate_latch]
        exact ho
  | _ => exact absurd h Bool.false_ne_true

/-- Every command keeps the order of the enables. -/
theorem exec_ordered {c : Instr} {s t : State} (ho : s.latch.ordered = true) (he : exec c s = .next t) :
    t.latch.ordered = true := by
  by_cases h : latching c = true
  · by_cases hp : c = .powerOn
    · subst hp
      rw [exec_powerOn_latch he]
      rfl
    · obtain ⟨b, hb, hbo⟩ := exec_doneL_ordered c s h hp ho
      obtain ⟨u, hu, -, hl, -⟩ := doneL_next s b
      obtain rfl : u = t := Host.Outcome.next.inj (hu.symm.trans (hb.symm.trans he))
      rw [hl]
      exact Latch.ordered_join ho hbo
  · rw [exec_latch_eq (Bool.eq_false_of_not_eq_true h) he]
    exact ho

/-- Settles O4: an idle step changes nothing, and a step that takes a command runs it on the same latches. -/
theorem stepKeepsEnableOrder : Obligations.StepKeepsEnableOrder := by
  intro s t ho he
  unfold step at he
  split at he
  · obtain rfl : s = t := Host.Outcome.next.inj he
    exact ho
  · next c rest _ => exact exec_ordered (s := { s with pending := rest }) ho he

end Sys2Proof.Machine
end

section
/-! The attestation report and the end of dim mode (14 R389; 15 R413, R418 to R420). -/

namespace Sys2Proof.Machine

set_option Elab.async false

/-! ### The report -/

/-- The report shows the latch DEBUG_READ, the designation, the partitions and the firmware, mode and versions of the security
state (15 R418, R419). -/
theorem State.report_congr {s t : State} (hp : t.parts = s.parts) (hb : t.boot.byFuse = s.boot.byFuse)
    (ho : t.boot.operator = s.boot.operator) (hd : t.latch.debugRead = s.latch.debugRead)
    (hs : t.sec = { s.sec with reportGen := t.sec.reportGen, shown := t.sec.shown, mbx := t.sec.mbx, keys := t.sec.keys }) :
    t.report = s.report := by
  unfold State.report State.fwDigest State.domain State.partShown State.enabled State.threadsCfg State.part
  rw [hs, hp, hb, ho, hd]

theorem State.bumpReport_sec (s : State) :
    s.bumpReport.sec = { s.sec with reportGen := (s.sec.reportGen + 1) % 2 ^ 32, shown := s.report } := rfl

theorem State.bumpReport_report (s : State) : s.bumpReport.report = s.report := by
  have h := State.only_bumpReport s
  have hb : s.bumpReport.boot = s.boot := h .boot (by decide)
  refine State.report_congr (h .parts (by decide)) (by rw [hb]) (by rw [hb]) (by rw [State.bumpReport_latch]) ?_
  rw [State.bumpReport_sec]

/-- Only the ephemeral keys of the PFs are destroyed (15 R420). -/
theorem State.bumpReport_func (s : State) (k : Nat) :
    s.bumpReport.func k = if k ∈ [1024, 1025, 1026, 1027] then { s.func k with eph := none } else s.func k := by
  unfold State.bumpReport State.each
  simp only [List.foldl_cons, List.foldl_nil, State.modSec_func, State.modFunc_func, pfKey]
  by_cases h : k ∈ [1024, 1025, 1026, 1027]
  · simp only [List.mem_cons, List.not_mem_nil, or_false] at h
    obtain rfl | rfl | rfl | rfl := h <;> simp
  · simp only [List.mem_cons, List.not_mem_nil, or_false, not_or] at h
    simp [h]

theorem State.bumpReport_reported (s : State) : s.reported s.bumpReport := by
  refine ⟨rfl, (State.bumpReport_report s).symm, fun p hp => ?_, fun k => ?_⟩
  · rw [State.bumpReport_func, if_pos (by simp [pfKey]; omega)]
  · rw [State.bumpReport_func]
    split <;> rfl

/-- What follows an increment of REPORT_GEN and leaves functions, security state and report alone keeps what it did. -/
theorem State.reported.congr {s t u : State} (h : s.reported t) (hf : u.funcs = t.funcs) (hs : u.sec = t.sec)
    (hr : u.report = t.report) : s.reported u := by
  obtain ⟨gen, shown, eph, func⟩ := h
  have e := State.func_of hf
  refine ⟨hs ▸ gen, ?_, fun p hp => ?_, fun k => ?_⟩
  · rw [hs, hr, shown]
  · rw [e, eph p hp]
  · rw [e, func k]

/-- What comes before an increment of REPORT_GEN may change anything but functions and REPORT_GEN. -/
theorem State.reported.of_eq {s v t : State} (h : v.reported t) (hf : v.funcs = s.funcs)
    (hs : v.sec.reportGen = s.sec.reportGen) : s.reported t := by
  obtain ⟨gen, shown, eph, func⟩ := h
  refine ⟨hs ▸ gen, shown, eph, fun k => ?_⟩
  rw [func k, State.func_of hf]

/-! ### The end of dim mode -/

/-- The step times of a partition depend on its engine ports and on dim mode (07 R209; 14 R388). -/
theorem State.stepTimes_congr {s t : State} (n : Nat) (hp : t.ports = s.ports) (hl : t.latch = s.latch)
    (he : (t.part n).engines = (s.part n).engines) : t.stepTimes n = s.stepTimes n := by
  unfold State.stepTimes State.portsOf State.eport
  rw [he, hl, hp]

/-- What the end of dim mode makes of a partition whose step times are `x` (14 R389). -/
def Part.afterDim (p : Part) (x : Nat × Nat) : Part :=
  { p with stepNs := x.1, endNs := x.2, cvy := { p.cvy with due := true } }

/-- What the end of dim mode does to partition `n` (14 R389). -/
def State.partAfterDim (s : State) (n : Nat) : State :=
  (s.recomputeStep n).modPart n fun q => { q with cvy := { q.cvy with due := true } }

theorem State.only_partAfterDim (s : State) (n : Nat) : s.only (s.partAfterDim n) [.parts] :=
  State.only_after (State.only_modPart _ _ _) (State.only_modPart s _ _)

theorem State.partAfterDim_part (s : State) (n k : Nat) :
    (s.partAfterDim n).part k = if k = n then (s.part n).afterDim (s.stepTimes n) else s.part k := by
  unfold State.partAfterDim State.recomputeStep
  simp only [State.modPart_part]
  split <;> rfl

theorem State.partAfterDim_stepTimes (s : State) (n k : Nat) : (s.partAfterDim n).stepTimes k = s.stepTimes k := by
  refine State.stepTimes_congr k rfl rfl ?_
  rw [State.partAfterDim_part]
  split
  · next h => rw [h]; rfl
  · rfl

theorem State.each_partAfterDim_part (l : List Nat) : ∀ (s : State) (k : Nat),
    (s.each l State.partAfterDim).part k = if k ∈ l then (s.part k).afterDim (s.stepTimes k) else s.part k := by
  induction l with
  | nil => exact fun s k => rfl
  | cons n l ih =>
    intro s k
    refine (ih (s.partAfterDim n) k).trans ?_
    rw [State.partAfterDim_stepTimes, State.partAfterDim_part]
    by_cases hn : k = n
    · subst hn
      simp [Part.afterDim]
    · simp [hn]

theorem State.only_modeNormal (s : State) : s.only s.modeNormal [.funcs, .sec] := by
  unfold State.modeNormal
  exact State.only_ite _ (State.only_after (State.only_bumpReport _) (State.only_modSec s _).sub) (State.only_refl s _)

/-- The service mode leaves START for NORMAL, with a new report (15 R413, R420). -/
theorem State.modeNormal_spec (s : State) : (s.sec.mode = 0 → s.modeNormal.sec.mode = 1 ∧ s.reported s.modeNormal) ∧
    (s.sec.mode ≠ 0 → s.modeNormal = s) := by
  unfold State.modeNormal
  refine ⟨fun h => ?_, fun h => if_neg h⟩
  rw [if_pos h]
  exact ⟨rfl, (State.bumpReport_reported _).of_eq rfl rfl⟩

/-- The state as dim mode leaves it, before the service mode changes (14 R389). -/
def State.undimmed (s : State) : State :=
  (s.modBoot fun b => { b with heldTo := s.stamp }).each (List.range 64) State.partAfterDim

theorem State.only_undimmed (s : State) : s.only s.undimmed [.boot, .parts] :=
  State.only_after (State.only_each (fun u n => u.partAfterDim n) State.only_partAfterDim _ _).sub (State.only_modBoot s _).sub

theorem State.undimmed_boot (s : State) : s.undimmed.boot = { s.boot with heldTo := s.stamp } :=
  State.only_each (fun u n => u.partAfterDim n) State.only_partAfterDim _ _ .boot (by decide)

theorem State.undimmed_part (s : State) (n : Nat) :
    s.undimmed.part n = if n < 64 then (s.part n).afterDim (s.stepTimes n) else s.part n := by
  unfold State.undimmed
  rw [State.each_partAfterDim_part]
  simp only [List.mem_range]
  rfl

theorem State.dimEnd_eq (s t : State) (hs : s.latch.dim = true) (ht : t.latch.dim = false) :
    s.dimEnd t = t.undimmed.modeNormal := by
  unfold State.dimEnd
  rw [hs, ht]
  rfl

theorem State.dimEnd_none (s t : State) (h : ¬(s.latch.dim = true ∧ t.latch.dim = false)) : s.dimEnd t = t := by
  unfold State.dimEnd
  rw [if_neg (by simpa using h)]

/-- Where dim mode ends, it is over in the sense of 14 R389. -/
theorem State.dimEnd_dimOver (s t : State) (hs : s.latch.dim = true) (ht : t.latch.dim = false) :
    t.dimOver (s.dimEnd t) := by
  rw [State.dimEnd_eq s t hs ht]
  have hn := State.only_modeNormal t.undimmed
  have hu := State.only_undimmed t
  have hsec : t.undimmed.sec = t.sec := hu .sec (by decide)
  have hfuncs : t.undimmed.funcs = t.funcs := hu .funcs (by decide)
  obtain ⟨start, other⟩ := State.modeNormal_spec t.undimmed
  rw [hsec] at start other
  have hp : ∀ n, t.undimmed.modeNormal.part n = t.undimmed.part n := State.part_of (hn .parts (by decide))
  have hl : t.undimmed.modeNormal.latch = t.latch := (State.modeNormal_latch _).trans (hu .latch (by decide))
  have hports : t.undimmed.modeNormal.ports = t.ports := (hn .ports (by decide)).trans (hu .ports (by decide))
  refine ⟨fun n h => ?_, ?_, fun h => ⟨(start h).1, ((start h).2).of_eq hfuncs (by rw [hsec])⟩, fun h => ?_⟩
  · have e : t.undimmed.modeNormal.part n = (t.part n).afterDim (t.stepTimes n) := by
      rw [hp, State.undimmed_part, if_pos h]
    rw [e, State.stepTimes_congr n hports hl (by rw [e]; rfl)]
    exact ⟨rfl, rfl⟩
  · rw [show t.undimmed.modeNormal.boot = t.undimmed.boot from hn .boot (by decide), State.undimmed_boot]
  · rw [other h]
    exact ⟨hsec, hfuncs⟩

/-- What comes before the end of dim mode may change anything but the parts that it speaks of. -/
theorem State.dimOver.of_eq {s v t : State} (h : v.dimOver t) (hp : v.parts = s.parts) (hs : v.sec = s.sec)
    (hf : v.funcs = s.funcs) (hst : v.stamp = s.stamp) : s.dimOver t := by
  obtain ⟨part, held, start, other⟩ := h
  rw [hs] at start other
  rw [hf] at other
  refine ⟨fun n hn => ?_, hst ▸ held, fun h => ⟨(start h).1, (start h).2.of_eq hf (by rw [hs])⟩, other⟩
  rw [← State.part_of hp n]
  exact part n hn

/-- What follows the end of dim mode and leaves alone the parts that it speaks of keeps it over. -/
theorem State.dimOver.congr {s t u : State} (h : s.dimOver t) (ho : t.only u [.pending, .cnt, .out]) : s.dimOver u := by
  obtain ⟨part, held, start, other⟩ := h
  have hp : u.parts = t.parts := ho .parts (by decide)
  have hb : u.boot = t.boot := ho .boot (by decide)
  have hl : u.latch = t.latch := ho .latch (by decide)
  have hs : u.sec = t.sec := ho .sec (by decide)
  have hf : u.funcs = t.funcs := ho .funcs (by decide)
  refine ⟨fun n hn => ?_, by rw [hb, held], fun h => ⟨hs ▸ (start h).1, (start h).2.congr hf hs ?_⟩, fun h => ?_⟩
  · rw [State.part_of hp, State.stepTimes_congr n (ho .ports (by decide)) hl (by rw [State.part_of hp])]
    exact part n hn
  · exact State.report_congr hp (by rw [hb]) (by rw [hb]) (by rw [hl]) (by rw [hs])
  · rw [hs, hf]
    exact other h

theorem State.only_dimEnd (s t : State) : t.only (s.dimEnd t) [.boot, .parts, .sec, .funcs] := by
  by_cases h : s.latch.dim = true ∧ t.latch.dim = false
  · rw [State.dimEnd_eq s t h.1 h.2]
    exact State.only_after (State.only_modeNormal _).sub (State.only_undimmed t).sub
  · rw [State.dimEnd_none s t h]
    exact State.only_refl t _

/-- The end of dim mode marks in the part of start-up only from when operations are held back no more. -/
theorem State.dimEnd_boot (s t : State) : ∃ h, (s.dimEnd t).boot = { t.boot with heldTo := h } := by
  by_cases h : s.latch.dim = true ∧ t.latch.dim = false
  · refine ⟨t.stamp, ?_⟩
    rw [State.dimEnd_eq s t h.1 h.2, show t.undimmed.modeNormal.boot = t.undimmed.boot from
      State.only_modeNormal _ .boot (by decide), State.undimmed_boot]
  · exact ⟨t.boot.heldTo, by rw [State.dimEnd_none s t h]⟩

/-- The dispatches in progress outlast dim mode. -/
theorem State.dimEnd_seqr (s t : State) (n : Nat) : ((s.dimEnd t).part n).seqr = (t.part n).seqr := by
  by_cases h : s.latch.dim = true ∧ t.latch.dim = false
  · rw [State.dimEnd_eq s t h.1 h.2, State.part_of (State.only_modeNormal t.undimmed .parts (by decide)), State.undimmed_part]
    split <;> rfl
  · rw [State.dimEnd_none s t h]

end Sys2Proof.Machine
end

section
/-! Start-up, the adaptive loops, power and the enables (14). -/

namespace Sys2Proof.Machine

set_option Elab.async false

/-! ### POWER_ON -/

theorem State.only_powerOn {s t : State} (he : exec .powerOn s = .next t) :
    State.reset.only t [.pending, .boot, .sto, .sec, .cnt, .out, .freeCtr] := by
  obtain rfl := Host.Outcome.next.inj he
  intro f hf
  cases f <;> first | rfl | simp at hf

/-- Settles O6, part by part. -/
theorem powerOnResets : Obligations.PowerOnResets := fun _ =>
  ⟨_, rfl, State.only_powerOn rfl, rfl, rfl, rfl, rfl, rfl, rfl, rfl⟩

/-! ### A loop's sample, which may end dim mode -/

theorem doneL_self (s : State) : doneL s s = .next s := by
  rw [doneL_same s s rfl rfl rfl rfl, Latch.join_self]

/-- Setting the latches that are set changes nothing. -/
theorem State.latchTo_self (t : State) : t.latchTo t.latch = t := State.dimEnd_none t t (by simp)

/-- Setting latches after a change of the part of start-up (14 R387, R389): the latches are `l`; where dim mode ends with
them it is over, and otherwise nothing else changes. -/
theorem State.latchTo_spec (s t : State) (l : Latch) (ht : s.only t [.boot]) :
    (t.latchTo l).latch = l ∧ s.only (t.latchTo l) [.latch, .boot, .parts, .sec, .funcs] ∧
    (s.latch.dim = true → l.dim = false → s.dimOver (t.latchTo l)) ∧
    (l.dim = s.latch.dim → t.latchTo l = { t with latch := l }) := by
  have hl : t.latch = s.latch := ht .latch (by decide)
  refine ⟨State.latchTo_latch t l, ?_, fun hd h => ?_, fun h => ?_⟩
  · refine State.only_after (State.only_dimEnd t _).sub (State.only_after ?_ ht.sub)
    intro f hf
    cases f <;> first | rfl | simp at hf
  · exact (State.dimEnd_dimOver t _ (hl ▸ hd) h).of_eq (ht .parts (by decide)) (ht .sec (by decide)) (ht .funcs (by decide))
      (ht .stamp (by decide))
  · refine State.dimEnd_none t _ ?_
    rintro ⟨h1, h2⟩
    rw [hl, ← h] at h1
    exact Bool.false_ne_true (h2.symm.trans h1)

/-- A command that changes the part of start-up, but not the power, sets latches and may send: no level event counts. -/
theorem doneL_latchTo (s t u : State) (l : Latch) (ht : s.only t [.boot]) (hp : t.boot.power = s.boot.power)
    (hle : s.latch.le l = true) (hu : (t.latchTo l).only u [.out]) : doneL s u = .next u := by
  have ho : t.only (t.latchTo l) [.latch, .boot, .parts, .sec, .funcs] :=
    (State.latchTo_spec t t l (State.only_refl t _)).2.1
  have boot : u.boot.power = s.boot.power := by
    rw [hu .boot (by decide)]
    obtain ⟨h, hb⟩ := State.dimEnd_boot t { t with latch := l }
    exact (congrArg Boot.power hb).trans hp
  have latch : u.latch = l := (hu .latch (by decide)).trans (State.latchTo_latch t l)
  have seqr : ∀ n, (u.part n).seqr.length = (s.part n).seqr.length := by
    intro n
    rw [State.part_of (hu .parts (by decide)), ← State.part_of (ht .parts (by decide)) n]
    exact congrArg List.length (State.dimEnd_seqr t _ n)
  rw [doneL_same s u ((hu .tasks (by decide)).trans ((ho .tasks (by decide)).trans (ht .tasks (by decide))))
    ((hu .mtus (by decide)).trans ((ho .mtus (by decide)).trans (ht .mtus (by decide)))) boot
    ((hu .pending (by decide)).trans ((ho .pending (by decide)).trans (ht .pending (by decide)))) seqr, latch,
    Latch.join_of_le _ _ hle, ← latch]

theorem Latch.le_candleCal (l : Latch) : l.le { l with candleCal := true } = true := by simp [Latch.le_iff]
theorem Latch.le_vConv (l : Latch) (b : Bool) : l.le { l with vConv := l.vConv || b } = true := by
  simp +contextual [Latch.le_iff]
theorem Latch.le_trimConv (l : Latch) (b : Bool) : l.le { l with trimConv := l.trimConv || b } = true := by
  simp +contextual [Latch.le_iff]

/-! ### The reference clock and calibration -/

/-- Settles O7: the clock's edges set a flag, and a window's end sets CANDLE_CAL, with which dim mode may end. -/
theorem calibrationAndReferenceClock : Obligations.CalibrationAndReferenceClock := by
  intro s
  refine ⟨done_same _ _ rfl rfl rfl rfl rfl, done_same _ _ rfl rfl rfl rfl rfl, fun h => ?_, fun h => ?_⟩
  · show doneL s (if s.boot.noRef then s else _) = _
    rw [if_pos h, doneL_self]
  · have he : exec .calibrationWindowEnd s = doneL s (if s.boot.noRef then s else
        (s.modBoot fun b => { b with windows := (b.windows + 1) % 2 ^ 32 }).latchTo { s.latch with candleCal := true }) := rfl
    rw [h, if_neg Bool.false_ne_true] at he
    have ho := State.only_modBoot s fun b => { b with windows := (b.windows + 1) % 2 ^ 32 }
    obtain ⟨latch, only, ends, same⟩ := State.latchTo_spec s _ { s.latch with candleCal := true } ho
    refine ⟨_, he.trans (doneL_latchTo s _ _ _ ho rfl (Latch.le_candleCal _) (State.only_refl _ _)), ?_, latch, only,
      fun hd h => ends hd (latch ▸ h), fun h => ?_⟩
    · obtain ⟨x, hb⟩ := State.dimEnd_boot (s.modBoot fun b => { b with windows := (b.windows + 1) % 2 ^ 32 })
        { (s.modBoot fun b => { b with windows := (b.windows + 1) % 2 ^ 32 }) with latch := { s.latch with candleCal := true } }
      exact congrArg Boot.windows hb
    · rw [same (latch ▸ h)]
      refine ⟨?_, rfl⟩
      intro f hf
      cases f <;> first | rfl | simp at hf

/-! ### The voltage loop -/

/-- The cases of the request after a sample (14 R393), each with what the ones before it leave. -/
theorem Boot.sampleReq_spec (b : Boot) (n pace : Nat) :
    let r := (b.sampleReq n pace).1
    let vmax := fld b.vCfg 47 40
    let vmin := fld b.vCfg 39 32
    let db := fld b.vCfg 19 12
    (b.pstate = 2 → r = 0) ∧
    (b.pstate ≠ 2 → b.cap * 15 < b.power * 10 → r = max (b.req - 1) vmin ∧ (b.sampleReq n pace).2 = true) ∧
    (b.pstate ≠ 2 → b.power * 10 ≤ b.cap * 15 → (b.sampleReq n pace).2 = false) ∧
    (b.pstate ≠ 2 → b.power * 10 ≤ b.cap * 15 → n ≤ 32 ∨ bit b.vCfg 0 = true → r = b.req) ∧
    (b.pstate ≠ 2 → b.power * 10 ≤ b.cap * 15 → 32 < n → bit b.vCfg 0 = false → b.sp + db < pace →
      b.power * 5 ≤ b.cap * 7 → r = min (b.req + min 4 (1 + (pace - b.sp) / 16)) vmax) ∧
    (b.pstate ≠ 2 → b.power * 10 ≤ b.cap * 15 → 32 < n → bit b.vCfg 0 = false → pace + db < b.sp → b.trimOk = true →
      r = max (b.req - 1) vmin) ∧
    (b.pstate ≠ 2 → b.power * 10 ≤ b.cap * 15 → pace ≤ b.sp + db → b.sp ≤ pace + db → r = b.req) := by
  have free : ∀ {c : Nat}, bit b.vCfg 0 = false → 32 < c → (decide (c ≤ 32) || bit b.vCfg 0) = false := fun h hc => by
    simp [h, hc]
  dsimp only
  unfold Boot.sampleReq
  refine ⟨fun h => ?_, fun h hc => ?_, fun h hc => ?_, fun h hc ho => ?_, fun h hc hn hf hp hpow => ?_,
    fun h hc hn hf hp ht => ?_, fun h hc h1 h2 => ?_⟩
  · simp only [h, if_true]
  · simp only [h, hc, if_true, if_false, and_self]
  · simp only [h, Nat.not_lt.mpr hc, if_false]
    split
    · rfl
    · split
      · rfl
      · split <;> rfl
  · have ho' : (decide (n ≤ 32) || bit b.vCfg 0) = true := by simpa using ho
    simp only [h, Nat.not_lt.mpr hc, ho', if_true, if_false]
  · simp only [h, Nat.not_lt.mpr hc, free hf hn, hp, hpow, decide_true, Bool.and_self, Bool.false_eq_true, if_true, if_false]
  · have low : ¬(b.sp + fld b.vCfg 19 12 < pace) := by omega
    simp only [h, Nat.not_lt.mpr hc, free hf hn, low, hp, ht, decide_true, decide_false, Bool.and_self, Bool.false_and,
      Bool.false_eq_true, if_true, if_false]
  · have high : ¬(b.sp + fld b.vCfg 19 12 < pace) := by omega
    have low : ¬(pace + fld b.vCfg 19 12 < b.sp) := by omega
    simp only [h, Nat.not_lt.mpr hc, high, low, decide_false, Bool.false_and, Bool.false_eq_true, if_false, ite_self]

/-- What a voltage sample does: the loop's sample, V_CONV where it is due, and the request sent (14 R393, R394). -/
theorem exec_voltageSample_eq (pace : Nat) (s : State) :
    exec (.voltageSample pace) s = doneL s (((s.modBoot fun b => b.voltage pace).latchTo
      { s.latch with vConv := s.latch.vConv || (s.boot.voltage pace).vDone }).send (.vReq (s.boot.voltage pace).req)) := by
  show doneL s (State.send (if (s.boot.voltage pace).vDone then _ else _) _) = _
  have hs : (s.modBoot fun b => b.voltage pace).latchTo { s.latch with vConv := s.latch.vConv || false } =
      s.modBoot fun b => b.voltage pace := by
    simpa using State.latchTo_self (s.modBoot fun b => b.voltage pace)
  cases (s.boot.voltage pace).vDone with
  | true => simp only [if_true, Bool.or_true]; rfl
  | false => rw [if_neg Bool.false_ne_true, hs]; rfl

/-- Settles O8: the request is the one that the rule's cases give, and dim mode may end with V_CONV. -/
theorem voltageLoopSample : Obligations.VoltageLoopSample := by
  intro pace s
  dsimp only
  have ho := State.only_modBoot s fun b => b.voltage pace
  obtain ⟨latch, only, ends, same⟩ := State.latchTo_spec s _ { s.latch with vConv := s.latch.vConv || (s.boot.voltage pace).vDone } ho
  have he := (exec_voltageSample_eq pace s).trans
    (doneL_latchTo s _ _ _ ho rfl (Latch.le_vConv _ _) (State.only_send _ _))
  obtain ⟨h, hb⟩ := State.dimEnd_boot (s.modBoot fun b => b.voltage pace) { (s.modBoot fun b => b.voltage pace) with
    latch := { s.latch with vConv := s.latch.vConv || (s.boot.voltage pace).vDone } }
  change (State.latchTo _ _).boot = { s.boot.voltage pace with heldTo := h } at hb
  generalize (s.modBoot fun b => b.voltage pace).latchTo
    { s.latch with vConv := s.latch.vConv || (s.boot.voltage pace).vDone } = v at *
  obtain ⟨emergency, capped, uncapped, held, up, down, band⟩ := s.boot.sampleReq_spec (min (s.boot.vN + 1) 65535) pace
  have cap : (v.send (.vReq (s.boot.voltage pace).req)).boot.vCapped = (s.boot.sampleReq (min (s.boot.vN + 1) 65535) pace).2 := by
    rw [State.send_boot, hb]
    rfl
  refine ⟨_, (s.boot.sampleReq (min (s.boot.vN + 1) 65535) pace).1, he, ?_, ?_, ?_, ?_, emergency,
    fun h hc => ⟨(capped h hc).1, cap.trans (capped h hc).2⟩, fun h hc => cap.trans (uncapped h hc), held, up, down, band,
    ?_, ?_, fun hd h => (ends hd ?_).congr (State.only_send _ _).sub, fun h => ?_⟩
  · rw [State.send_boot, hb]; rfl
  · rw [State.send_boot, hb]; rfl
  · rw [State.send_boot, hb]; rfl
  · rw [State.send_out, only .out (by decide)]; rfl
  · rw [State.send_latch, latch, State.send_boot, hb]; rfl
  · exact State.only_after (State.only_send _ _).sub only.sub
  · rwa [State.send_latch, latch] at h
  · rw [State.send_latch, latch] at h
    rw [same h]
    refine State.only_after (State.only_send _ _).sub ?_
    intro f hf
    cases f <;> first | rfl | simp at hf

/-! ### The trim loop -/

/-- The cases of a path's sample (14 R396), where its channel does not fault. -/
theorem Boot.samplePath_spec (b : Boot) (x m : Nat) (h : ¬(m < fld b.trimCfg 15 8 ∧ b.trim x = 63)) :
    let new := (b.samplePath x m).1
    let old := Tab.get {} b.trims x
    let c := b.trim x
    let floor := fld b.trimCfg 15 8
    let top := fld b.trimCfg 23 16 + fld b.trimCfg 7 0
    let n := min (old.n + 1) 255
    (b.samplePath x m).2 = false ∧ new.n = n ∧ new.margin = m ∧
      (m < floor → new.code = some (min (c + (floor - m) + 1) 63) ∧ new.hold = 0) ∧
      (floor ≤ m → n ≤ 16 ∨ bit b.trimCfg 24 = true → new.code = some c ∧ new.hold = old.hold) ∧
      (floor ≤ m → 16 < n → bit b.trimCfg 24 = false → top < m → old.hold + 1 ≠ 256 →
        new.code = some c ∧ new.hold = old.hold + 1) ∧
      (floor ≤ m → 16 < n → bit b.trimCfg 24 = false → top < m → old.hold + 1 = 256 →
        new.code = some (c - 1) ∧ new.hold = 0) ∧
      (floor ≤ m → 16 < n → bit b.trimCfg 24 = false → m ≤ top → new.code = some c ∧ new.hold = 0) := by
  dsimp only
  unfold Boot.samplePath
  dsimp only
  generalize min ((Tab.get {} b.trims x).n + 1) 255 = n
  by_cases hf : m < fld b.trimCfg 15 8
  · have hc : b.trim x ≠ 63 := fun e => h ⟨hf, e⟩
    simp [hf, hc, Nat.not_le.mpr hf]
  · by_cases hopen : n ≤ 16 ∨ bit b.trimCfg 24 = true
    · have shut : ∀ {p : Prop}, 16 < n → bit b.trimCfg 24 = false → p := fun h1 h2 =>
        (hopen.elim (fun h => Nat.not_le.mpr h1 h) fun h => Bool.false_ne_true (h2.symm.trans h)).elim
      simp only [hf, if_false, Bool.or_eq_true, decide_eq_true_eq, hopen, if_true]
      exact ⟨trivial, trivial, trivial, fun h => h.elim, fun _ _ => ⟨trivial, trivial⟩, fun _ h1 h2 => shut h1 h2,
        fun _ h1 h2 => shut h1 h2, fun _ h1 h2 => shut h1 h2⟩
    · obtain ⟨hn, hb⟩ := not_or.mp hopen
      rw [Bool.not_eq_true] at hb
      by_cases ht : fld b.trimCfg 23 16 + fld b.trimCfg 7 0 < m
      · by_cases hh : (Tab.get {} b.trims x).hold + 1 = 256
        · simp [hf, hn, hb, ht, hh, Nat.not_le.mpr ht]
        · simp [hf, hn, hb, ht, hh, Nat.not_le.mpr ht]
      · simp [hf, hn, hb, ht]

/-- What a trim sample does where the path's channel does not fault (14 R396, R397). -/
theorem exec_trimSample_eq (x : Nat) (y : PathSample) (s : State) (h : (s.boot.samplePath x y.margin).2 = false) :
    exec (.trimSample x y) s = doneL s ((s.modBoot fun b => b.trimmed x y.margin).latchTo
      { s.latch with trimConv := s.latch.trimConv || decide ((s.boot.trimmed x y.margin).converged = 4096) }) := by
  have he : exec (.trimSample x y) s = execTrimSample x y s := rfl
  rw [he, execTrimSample, h]
  dsimp only [State.modBoot_boot]
  rw [if_neg Bool.false_ne_true]
  by_cases hc : (s.boot.trimmed x y.margin).converged = 4096
  · simp only [hc, decide_true, Bool.or_true]; rfl
  · have hs : (s.modBoot fun b => b.trimmed x y.margin).latchTo { s.latch with trimConv := s.latch.trimConv || false } =
        s.modBoot fun b => b.trimmed x y.margin := by
      simpa using State.latchTo_self (s.modBoot fun b => b.trimmed x y.margin)
    simp only [hc, decide_false, hs]; rfl

/-- Settles O9: the path's sample is the one that the rule's cases give, and dim mode may end with TRIM_CONV. -/
theorem trimLoopSample : Obligations.TrimLoopSample := by
  intro x y s
  dsimp only
  intro hx
  obtain ⟨fine, sampled⟩ := s.boot.samplePath_spec x y.margin hx
  have ho := State.only_modBoot s fun b => b.trimmed x y.margin
  obtain ⟨latch, only, ends, same⟩ := State.latchTo_spec s _
    { s.latch with trimConv := s.latch.trimConv || decide ((s.boot.trimmed x y.margin).converged = 4096) } ho
  have he := (exec_trimSample_eq x y s fine).trans
    (doneL_latchTo s _ _ _ ho rfl (Latch.le_trimConv _ _) (State.only_refl _ _))
  obtain ⟨h, hb⟩ := State.dimEnd_boot (s.modBoot fun b => b.trimmed x y.margin) { (s.modBoot fun b => b.trimmed x y.margin) with
    latch := { s.latch with trimConv := s.latch.trimConv || decide ((s.boot.trimmed x y.margin).converged = 4096) } }
  change (State.latchTo _ _).boot = { s.boot.trimmed x y.margin with heldTo := h } at hb
  generalize (s.modBoot fun b => b.trimmed x y.margin).latchTo
    { s.latch with trimConv := s.latch.trimConv || decide ((s.boot.trimmed x y.margin).converged = 4096) } = v at *
  have new : Tab.get {} v.boot.trims x = (s.boot.samplePath x y.margin).1 := by
    rw [hb]
    exact Tab.get_set_self _ _ _ _
  refine ⟨_, he, ?_, fun z hz => ?_, ?_, only, fun hd h => ends hd (latch ▸ h), fun h => ?_⟩
  · rw [new]
    exact sampled
  · rw [hb]
    exact Tab.get_set_ne _ _ _ hz
  · rw [latch, hb]; rfl
  · rw [same (latch ▸ h)]
    intro f hf
    cases f <;> first | rfl | simp at hf

end Sys2Proof.Machine
end

section
/-! The chip power manager and VAI_ENABLE (14 R383 to R386, R389, R390, R399, R400). -/

namespace Sys2Proof.Machine

set_option Elab.async false

/-! ### The power manager, live trims, DIM_LATE -/

theorem State.objsKept_geqMirror (s : State) (r : GeqRec) : s.objsKept (s.geqMirror r) := by
  unfold State.geqMirror
  split
  · split
    · exact State.objsKept_ownWrite s _ _ _
    · exact State.objsKept_refl s
  · exact State.objsKept_refl s

/-- Posting a record may count a request that its host refuses for its context, and changes no object (11 R323; 13 R356). -/
theorem State.objsKept_geqPost (s : State) (r : GeqRec) (k : Option GKey) : s.objsKept (s.geqPost r k) := by
  unfold State.geqPost
  split
  · exact State.objsKept_of_objs rfl
  · split
    · exact State.objsKept_of_objs rfl
    · have h : s.objsKept (((s.geqMirror (s.geqStamped r k)).modGeq fun g => g.put s.now (s.geqStamped r k) k).tick 0x1C0 none) :=
        State.objsKept_trans (State.objsKept_geqMirror s _) (State.objsKept_trans (State.objsKept_of_objs rfl)
          (State.objsKept_of_objs (State.only_tick _ _ _ .objs (by decide))))
      dsimp only
      split
      · exact h
      · exact State.objsKept_trans h (State.objsKept_of_objs (State.only_geqIrq _ .objs (by decide)))

/-- A record that finds the ring full is counted as lost (13 R356). -/
theorem State.geqPost_full (s : State) (r : GeqRec) (k : Option GKey) (hk : (k.any fun k => s.limited k) = false)
    (hf : s.geq.full = true) : (s.geqPost r k).geq = { s.geq with lost := satAdd 0xFFFFFFFF s.geq.lost 1, overflow := true } := by
  simp only [State.geqPost, hk, hf, Bool.false_eq_true, if_false, if_true, State.modGeq_geq]

/-- A record of DIM_LATE (14 R390). -/
def dimLateRec : GeqRec := { geqRec 0x10 6 with flags := 2 }

/-- A command that leaves tasks, credits, partitions and power alone counts no level event. -/
theorem done_of_only {s t : State} {l : List Field} (h : s.only t l) (hp : t.boot.power = s.boot.power)
    (hl : ∀ f ∈ [Field.pending, .latch, .tasks, .mtus, .parts], f ∉ l := by decide) : done s t = .next t :=
  done_same s t (h .tasks (hl _ (by decide))) (h .mtus (hl _ (by decide))) hp (h .pending (hl _ (by decide)))
    (h .latch (hl _ (by decide))) fun n => by rw [State.part_of (h .parts (hl _ (by decide)))]

theorem exec_dimLate_due (s : State) (hd : s.latch.dim = true) (hl : s.boot.dimLate = false) :
    exec .dimLate s = .next ((s.modBoot fun b => { b with dimLate := true }).geqPost dimLateRec none) := by
  have he : exec .dimLate s = done s (if s.latch.dim && !s.boot.dimLate then
    (s.modBoot fun b => { b with dimLate := true }).geqPost dimLateRec none else s) := rfl
  have ho := State.only_geqPost (s.modBoot fun b => { b with dimLate := true }) dimLateRec none
  have hb : ((s.modBoot fun b => { b with dimLate := true }).geqPost dimLateRec none).boot = _ := ho .boot (by decide)
  rw [he, hd, hl, Bool.not_false, Bool.and_true, if_pos rfl]
  exact done_of_only (State.only_append (State.only_modBoot s _) ho) (by rw [hb]; rfl)

theorem exec_dimLate_set (s : State) (hl : s.boot.dimLate = true) : exec .dimLate s = .next s := by
  have he : exec .dimLate s = done s (if s.latch.dim && !s.boot.dimLate then _ else s) := rfl
  rw [he, hl, Bool.not_true, Bool.and_false, if_neg Bool.false_ne_true]
  exact done_same s s rfl rfl rfl rfl rfl

/-- P_REPORT (14 R399): the levels of power may count. -/
theorem exec_pReport_spec (s : State) (power temp : Nat) : ∃ t, exec (.pReport power temp) s = .next t ∧
    t.boot = { s.boot with power := power, temp := temp, hot := decide (95 < temp) } ∧ s.only t [.boot, .cnt, .freeCtr] := by
  obtain ⟨t, ht, -, -, ho, fix⟩ := done_spec s (((s.modBoot fun b => { b with
    power := power, temp := temp, hot := 95 < temp }).tickN 0x1E0 (Config.energy s.freeCtr) none).nextFree)
  have hn := State.only_tickN (s.modBoot fun b => { b with power := power, temp := temp, hot := 95 < temp }) 0x1E0
    (Config.energy s.freeCtr) none
  refine ⟨t, ht, ?_, fix _ (by decide) ?_⟩
  · rw [ho .boot (by decide), State.nextFree_boot, hn .boot (by decide)]
    rfl
  · exact State.only_after (State.only_nextFree _).sub (State.only_after hn.sub (State.only_modBoot s _).sub)

/-- Settles O10, message by message. -/
theorem powerMessagesAndDimLate : Obligations.PowerMessagesAndDimLate := by
  intro s
  refine ⟨fun code => done_same _ _ rfl rfl rfl rfl rfl, exec_pReport_spec s, fun st limit h => ?_, fun limit => ?_,
    fun x h => ?_, fun x h => ?_, fun hd hl => ?_⟩
  · have he : exec (.pState st limit) s = done s (if st = 2 then _ else _) := rfl
    rw [he, if_neg h]
    simp only [h, if_false]
    exact done_same _ _ rfl rfl rfl rfl rfl
  · exact done_same _ _ rfl rfl rfl rfl rfl
  · have he : exec (.trimApply x) s = done s (if s.latch.dim then s else _) := rfl
    rw [he, h, if_neg Bool.false_ne_true]
    exact done_same _ _ rfl rfl rfl rfl rfl
  · have he : exec (.trimApply x) s = done s (if s.latch.dim then s else _) := rfl
    rw [he, h, if_pos rfl]
    exact done_same _ _ rfl rfl rfl rfl rfl
  · have ho := State.only_geqPost (s.modBoot fun b => { b with dimLate := true }) dimLateRec none
    refine ⟨_, exec_dimLate_due s hd hl, ho .boot (by decide), exec_dimLate_set _ ?_, fun hf => ?_, fun hf => ?_, ?_, ?_⟩
    · rw [ho .boot (by decide)]
      rfl
    · exact State.geqPost_geq _ dimLateRec none rfl hf
    · exact State.geqPost_full _ dimLateRec none rfl hf
    · exact State.only_after ho.sub (State.only_modBoot s _).sub
    · exact State.objsKept_trans (State.objsKept_of_objs rfl) (State.objsKept_geqPost _ _ _)

/-! ### VAI_ENABLE -/

theorem State.only_forward (s : State) (k a b c d e : Nat) : s.only (s.forward k a b c d e) [.ports] := State.only_modPort s _ _

theorem State.only_sendIdentReq (s : State) (k : Nat) : s.only (s.sendIdentReq k) [.ports] := by
  unfold State.sendIdentReq
  exact State.only_ite _ (State.only_after (State.only_forward _ _ _ _ _ _ _) (State.only_modPort s _ _)) (State.only_refl s _)

theorem State.only_flushFunc (s : State) (fk : Nat) : s.only (s.flushFunc fk) [.funcs, .out] :=
  State.only_each _ (fun u _ => State.only_ite _ (State.only_refl u _)
    (State.only_after (State.only_send _ _).sub (State.only_modFunc u _ _).sub)) _ s

/-- What a bit of VAI_ENABLE starts (14 R385, R386). -/
theorem State.only_enableEffect_engines (s : State) : s.only (s.enableEffect 1) [.ports] :=
  State.only_each _ (fun u k => State.only_ite _ (State.only_sendIdentReq u k) (State.only_refl u _)) _ s

theorem State.only_enableEffect_irq (s : State) : s.only (s.enableEffect 3) [.funcs, .out] :=
  State.only_each _ (fun u fk => State.only_flushFunc u fk) _ s

/-- Writing one bit, with nothing refused yet (14 R384): the bit's latch where its prerequisite holds. -/
theorem State.enableBit_of_none (s : State) (i : Nat) (h : s.latch.enable i = none) :
    (s.modBoot fun b => { b with refused := 0 }).enableBit i = { s with boot := { s.boot with refused := 2 ^ i } } := by
  unfold State.enableBit
  rw [State.modBoot_latch, h]
  simp [State.modBoot]

theorem State.enableBit_of_some (s : State) (i : Nat) {l : Latch} (h : s.latch.enable i = some l) :
    let u := { s with latch := l, boot := { s.boot with refused := 0 } }
    (s.modBoot fun b => { b with refused := 0 }).enableBit i = if l = s.latch then u else u.enableEffect i := by
  unfold State.enableBit
  rw [State.modBoot_latch, h]
  dsimp only
  split
  · next e => subst e; rfl
  · rfl

/-- The Operator PF's write of one bit of VAI_ENABLE. -/
theorem State.opWrite_enable (s : State) (p : Nat) (hl : (s.func (pfKey p)).linkUp = true) (ho : s.boot.operator = some p)
    (v : W64) (i : Nat) (hv : ∀ u : State, (u.each [0, 1, 2, 3] fun t j => if bit v j then t.enableBit j else t) = u.enableBit i) :
    (s.opWrite p 0x10 fun t => t.enableWrite v) = (s.modBoot fun b => { b with refused := 0 }).enableBit i :=
  (State.opWrite_op s p 0x10 _ hl ho).trans (hv _)

/-- A write of a bit of VAI_ENABLE touches nothing whose level counts. -/
theorem doneL_enable (s u : State) (h : s.only u [.latch, .boot, .ports, .funcs, .out]) (hp : u.boot.power = s.boot.power)
    (hle : s.latch.le u.latch = true) : doneL s u = .next u := by
  rw [doneL_same s u (h .tasks (by decide)) (h .mtus (by decide)) hp (h .pending (by decide)) (fun n => by
    rw [State.part_of (h .parts (by decide))]), Latch.join_of_le _ _ hle]

/-- A refused bit is recorded and nothing else changes. -/
theorem doneL_enable_none (s : State) (i : Nat) (h : s.latch.enable i = none) :
    doneL s ((s.modBoot fun b => { b with refused := 0 }).enableBit i) =
      .next { s with boot := { s.boot with refused := 2 ^ i } } := by
  rw [State.enableBit_of_none s i h]
  refine doneL_enable s _ ?_ rfl (Latch.le_refl _)
  intro f hf
  cases f <;> first | rfl | simp at hf

/-- A bit that is taken and starts nothing. -/
theorem doneL_enable_plain (s : State) (i : Nat) {l : Latch} (h : s.latch.enable i = some l)
    (he : ∀ u : State, u.enableEffect i = u) : doneL s ((s.modBoot fun b => { b with refused := 0 }).enableBit i) =
      .next { s with latch := l, boot := { s.boot with refused := 0 } } := by
  rw [State.enableBit_of_some s i h]
  dsimp only
  rw [he, ite_self]
  refine doneL_enable s _ ?_ rfl (Latch.enable_spec _ _ _ h).1
  intro f hf
  cases f <;> first | rfl | simp at hf

/-- A bit that is taken: its latch is set, and what it starts follows. -/
theorem doneL_enable_some (s : State) (i : Nat) {l : Latch} {fs : List Field} (h : s.latch.enable i = some l)
    (hs : (fs.all fun f => [Field.latch, .boot, .ports, .funcs, .out].contains f) = true)
    (hb : .boot ∉ fs) (he : ∀ u : State, u.only (u.enableEffect i) fs) :
    ∃ t, doneL s ((s.modBoot fun b => { b with refused := 0 }).enableBit i) = .next t ∧ t.latch = l ∧
      t.boot = { s.boot with refused := 0 } ∧ s.only t (.latch :: .boot :: fs) := by
  have hle : s.latch.le l = true := (Latch.enable_spec _ _ _ h).1
  have set : s.only { s with latch := l, boot := { s.boot with refused := 0 } } [.latch, .boot] := by
    intro f hf
    cases f <;> first | rfl | simp at hf
  have eff : ∀ u : State, (u.enableEffect i).boot = u.boot := fun u => he u .boot hb
  rw [State.enableBit_of_some s i h]
  dsimp only
  split
  · next e =>
    refine ⟨_, doneL_enable s _ set.sub rfl hle, rfl, rfl, State.only_mono set ?_⟩
    intro f hf
    rcases List.mem_cons.mp hf with rfl | hf
    · exact List.mem_cons_self
    · exact List.mem_cons_of_mem _ (List.mem_cons.mpr (.inl (List.mem_singleton.mp hf)))
  · have only : s.only (({ s with latch := l, boot := { s.boot with refused := 0 } } : State).enableEffect i) (.latch :: .boot :: fs) :=
      State.only_append set (he _)
    refine ⟨_, doneL_enable s _ (State.only_mono only ?_) (by rw [eff]) ?_, State.enableEffect_latch _ _, eff _, only⟩
    · intro f hf
      rcases List.mem_cons.mp hf with rfl | hf
      · decide
      · rcases List.mem_cons.mp hf with rfl | hf
        · decide
        · simpa using List.all_eq_true.mp hs f hf
    · rw [State.enableEffect_latch]
      exact hle

/-- Settles O11, bit by bit. -/
theorem enableBits : Obligations.EnableBits := by
  intro p s hl
  refine ⟨fun ho => ?_, fun ho c hc => ?_⟩
  · have w : ∀ v i, (∀ u : State, (u.each [0, 1, 2, 3] fun t j => if bit v j then t.enableBit j else t) = u.enableBit i) →
        doneL s (s.opWrite p 0x10 fun t => t.enableWrite v) = doneL s ((s.modBoot fun b => { b with refused := 0 }).enableBit i) :=
      fun v i hv => congrArg (doneL s) (State.opWrite_enable s p hl ho v i hv)
    have run : exec (.vaiEnableRun p) s = _ := w 1 0 fun _ => rfl
    have engines : exec (.vaiEnableEngines p) s = _ := w 2 1 fun _ => rfl
    have queues : exec (.vaiEnableQueues p) s = _ := w 4 2 fun _ => rfl
    have irq : exec (.vaiEnableIrq p) s = _ := w 8 3 fun _ => rfl
    rw [run, engines, queues, irq]
    refine ⟨fun h => ?_, fun h1 h2 => ?_, fun h => ?_, fun h => ?_, fun h => ?_, fun h => ?_, fun h => ?_, fun h => ?_⟩
    · exact doneL_enable_plain s 0 (if_pos (by simpa using h)) fun _ => rfl
    · exact doneL_enable_none s 0 (if_neg (by simp [h1, h2]))
    · exact doneL_enable_some s 1 (if_pos h) rfl (by decide) State.only_enableEffect_engines
    · exact doneL_enable_none s 1 (if_neg (by simp [h]))
    · exact doneL_enable_plain s 2 (if_pos h) fun _ => rfl
    · exact doneL_enable_none s 2 (if_neg (by simp [h]))
    · exact doneL_enable_some s 3 (if_pos h) rfl (by decide) State.only_enableEffect_irq
    · exact doneL_enable_none s 3 (if_neg (by simp [h]))
  · have he : ∀ v, doneL s (s.opWrite p 0x10 fun t => t.enableWrite v) = .next (s.notOperator p 0x10) := fun v => by
      rw [State.opWrite_other s p 0x10 _ hl ho]
      exact doneL_enable s _ (State.only_notOperator s p _).sub rfl (Latch.le_refl _)
    simp only [List.mem_cons, List.not_mem_nil, or_false] at hc
    obtain rfl | rfl | rfl | rfl := hc <;> exact he _

end Sys2Proof.Machine
end

section
/-! CMP and words whose guard is false (05 R138, R140). -/

namespace Sys2Proof.Machine

set_option Elab.async false

/-! ### Predicates -/

/-- A number in which bit `i` is replaced: what lies above it and below it stays. -/
theorem testBit_replace (n i j : Nat) (v : Bool) :
    (n - b2n (n.testBit i) * 2 ^ i + b2n v * 2 ^ i).testBit j = if j = i then v else n.testBit j := by
  have h2n : ∀ b : Bool, b2n b = b.toNat := by decide
  have split : n = 2 ^ i * (2 * (n / 2 ^ (i + 1)) + (n.testBit i).toNat) + n % 2 ^ i := by
    have h1 := Nat.div_add_mod n (2 ^ (i + 1))
    have h2 : n % 2 ^ (i + 1) = n % 2 ^ i + 2 ^ i * (n.testBit i).toNat := by
      rw [Nat.toNat_testBit, Nat.mod_pow_succ]
    rw [h2, pow_succ] at h1
    rw [mul_add, ← mul_assoc, pow_succ]
    omega
  have low : n % 2 ^ i < 2 ^ i := Nat.mod_lt _ (Nat.two_pow_pos i)
  have new : n - b2n (n.testBit i) * 2 ^ i + b2n v * 2 ^ i = 2 ^ i * (2 * (n / 2 ^ (i + 1)) + v.toNat) + n % 2 ^ i := by
    rw [h2n, h2n, mul_comm _ (2 ^ i), mul_comm _ (2 ^ i)]
    rw [mul_add] at split ⊢
    omega
  rw [new, Nat.testBit_two_pow_mul_add _ low]
  have old := congrArg (Nat.testBit · j) split
  simp only [Nat.testBit_two_pow_mul_add _ low] at old
  rw [old]
  have top : ∀ (b : Bool) (m k : Nat), (2 * m + b.toNat).testBit (k + 1) = m.testBit k := by
    intro b m k
    rw [Nat.testBit_succ]
    congr 1
    cases b <;> simp only [Bool.toNat_true, Bool.toNat_false] <;> omega
  have bot : ∀ (b : Bool) (m : Nat), (2 * m + b.toNat).testBit 0 = b := by
    intro b m
    cases b <;> simp [Nat.testBit_zero]
  rcases Nat.lt_trichotomy j i with h | h | h
  · simp [h, Nat.ne_of_lt h]
  · simp [h, bot]
  · obtain ⟨k, rfl⟩ := Nat.exists_eq_add_of_lt h
    have e : i + k + 1 - i = k + 1 := by omega
    have above : ¬(i + k + 1 < i) := by omega
    have ne : i + k + 1 ≠ i := by omega
    simp only [above, ne, if_false, e, top]

/-- Reading a predicate after one was written (04 R103). -/
theorem Task.setP_pred (t : Task) (i : Nat) (v : Bool) (j : Nat) (hj : j < 7) :
    (t.setP i v).pred j = if j = i then v else t.pred j := by
  unfold Task.setP
  split
  · next h => rw [if_neg (by omega)]
  · simp only [Task.pred, bit, BitVec.toNat_ofNat]
    rw [show (j == 7) = false by simp; omega, Bool.false_or, Bool.false_or, Nat.testBit_mod_two_pow, testBit_replace]
    simp [show j < 8 by omega]

@[simp] theorem Task.pred_seven (t : Task) : t.pred 7 = true := rfl

@[simp] theorem Task.at'_pred (t : Task) (pc i : Nat) : (t.at' pc).pred i = t.pred i := rfl

/-- Writing a predicate changes the predicates alone. -/
theorem Task.setP_eq (t : Task) (i : Nat) (v : Bool) : t.setP i v = { t with ctx := { t.ctx with p := (t.setP i v).ctx.p } } := by
  unfold Task.setP
  split <;> rfl

/-! ### Conditions -/

/-- The conditions of CMP as the relations that make them true (05 R140). -/
theorem cmpCond_spec (c : Nat) (hc : c < 12) (a b : W64) : cmpCond c a b =
    ((if a = b then [0, 3, 5, 7, 9] else [1]).contains c ||
      (decide (a.toNat < b.toNat) && [2, 3].contains c) || (decide (b.toNat < a.toNat) && [4, 5].contains c) ||
      (decide (a.toInt < b.toInt) && [6, 7].contains c) || (decide (b.toInt < a.toInt) && [8, 9].contains c) ||
      (decide (a &&& b ≠ 0) && c == 10) || (decide (a &&& b = 0) && c == 11)) := by
  have leN : ∀ x y : W64, (decide (x.toNat ≤ y.toNat)) = (decide (x = y) || decide (x.toNat < y.toNat)) := by
    intro x y
    rw [← Bool.decide_or, decide_eq_decide, ← BitVec.toNat_inj, le_iff_eq_or_lt]
  have leI : ∀ x y : W64, (decide (x.toInt ≤ y.toInt)) = (decide (x = y) || decide (x.toInt < y.toInt)) := by
    intro x y
    rw [← Bool.decide_or, decide_eq_decide, ← BitVec.toInt_inj, le_iff_eq_or_lt]
  have hab : ∀ l m : List Nat, (if a = b then l else m).contains c = if a = b then l.contains c else m.contains c :=
    fun l m => by split <;> rfl
  rw [hab]
  by_cases h : a = b
  · subst h
    interval_cases c <;> simp [cmpCond, bne, beq_eq_decide]
  · interval_cases c <;> simp [cmpCond, leN, leI, h, Ne.symm h, bne, beq_eq_decide]

/-! ### The statement -/

/-- CMP where its thread stands at it and its operands have been posted (05 R138, R140). -/
theorem exec_cmp_ready (s : State) (r : Nat) (w : W128) (a b : W64) (h : s.ready r w = true) (ho : opcodeOf w = 0x20)
    (hc : chkC w = true) (ha : (s.task r).opA w true = some a) (hb : (s.task r).opB w true = some b) :
    exec (.cmp r) s = done s ((if (s.task r).guard w then s.modTask r fun t => t.setP (fld w 111 109)
      (cmpComb (fld w 108 107) (t.pred (fld w 111 109)) (cmpCond (fld w 115 112) a b)) else s).issuedDone r w 1
      ((s.task r).ctx.pc + 1)) := by
  show execCmp r s = _
  rw [execCmp, State.issue_ready s r _ w _ _ _ h rfl ho hc rfl]
  simp only [ha, hb]

theorem chkC_cond_lt {w : W128} (h : chkC w = true) : fld w 115 112 < 12 := by
  simp only [chkC, Bool.and_eq_true, decide_eq_true_eq] at h
  obtain ⟨⟨⟨⟨-, hlt⟩, -⟩, -⟩, -⟩ := h
  exact hlt

/-- Settles O13: CMP writes what its condition and its combination give, and a false guard leaves the program counter's
advance alone. -/
theorem cmpAndFalseGuards : Obligations.CmpAndFalseGuards := by
  intro r w s h
  dsimp only
  refine ⟨fun a b ho hc hg ha hb => ?_, fun hg => ⟨fun a b ha hb => ⟨fun ho hc => ?_, fun ho hc => ?_⟩,
    fun b hb ho hc => ?_, fun a ha ho hc => ?_⟩⟩
  · have he := exec_cmp_ready s r w a b h ho hc ha hb
    rw [hg, if_pos rfl] at he
    refine ⟨_, State.issues_of s _ r w 1 _ _ he, ?_, Task.pred_seven _, fun i hi => ?_⟩
    · rw [Task.setP_eq]
      rfl
    · rw [Task.at'_pred, Task.setP_pred _ _ _ _ hi, ← cmpCond_spec _ (chkC_cond_lt hc)]
      generalize fld w 108 107 = c
      match c with
      | 0 => rfl
      | 1 => rfl
      | _ + 2 => rfl
  · exact State.alu_skips s _ r _ w _ _ _ _ a b rfl h hg rfl ho hc ha hb
  · have he := exec_cmp_ready s r w a b h ho hc ha hb
    rw [hg, if_neg Bool.false_ne_true] at he
    exact State.issues_skip s _ r w 1 _ he
  · exact State.alu_skips s _ r _ w _ _ _ _ 0 b rfl h hg rfl ho hc rfl hb
  · exact State.alu_skips s _ r _ w _ _ _ _ a 0 rfl h hg rfl ho hc ha rfl

end Sys2Proof.Machine
end

section
/-! Operation words at issue: WAIT, SIGNAL, and the operations on memory objects (05 R145, R147; 06 R158 to R185). -/

namespace Sys2Proof.Machine

set_option Elab.async false

/-! ### WAIT and SIGNAL -/

/-- An operation word that names no object and passes its checks takes its slot. -/
theorem State.occupies_plain (s : State) (c : Instr) (r opc : Nat) (w : W128) (chk : W128 → Bool)
    (sels : W128 → List Nat) (vs : List W64) (k : W128 → List W64 → State → State) (op : OpKind) (n d : Nat)
    (he : exec c s = done s (s.issueOp r opc chk (fun _ _ => true) sels k)) (h : s.readyOp r w (sels w) vs)
    (hd : opcodeDefined opc = true) (ho : opcodeOf w = opc) (hc : chk w = true) (hk : k w vs s = s.occupy r w op n d) :
    s.occupies c r w op [] := by
  rw [State.issueOp_ready s r opc w chk _ sels vs k h hd ho hc rfl, hk] at he
  exact State.occupies_of s c r w op [] n d he

/-- Settles O15: the checks of WAIT and of SIGNAL hold. -/
theorem waitAndSignalOccupy : Obligations.WaitAndSignalOccupy := by
  intro r w h v s hr hc
  refine ⟨fun ho hw => ?_, fun ho hs hn => ?_⟩
  · exact State.occupies_plain s (.wait r) r 0x40 w chkTwo _ [h, v] _ _ 2 0 rfl hr rfl ho hc (if_pos hw)
  · have handle : (s.sigOk (s.task r).fk h || (s.wpImport (s.task r).fk h).isSome) = true := by simpa using hs
    have room : (!s.verkai (s.task r).part && decide (32 ≤ (s.task r).signals)) = false := by
      rcases hn with hv | hn
      · simp [hv]
      · simp [Nat.not_le.mpr hn]
    refine State.occupies_plain s (.signal r) r 0x41 w chkTwo _ [h, v] _ _ 2 0 rfl hr rfl ho hc ?_
    simp only [List.getD_cons_zero, handle, room, Bool.not_true, Bool.false_eq_true, if_false, List.getD_cons_succ]

/-! ### Operations on memory objects -/

/-- An operation word that names objects, whose checks hold, takes its slot and draws its references (06 R158 to R160). -/
theorem State.occupies_data (s : State) (c : Instr) (r opc : Nat) (w : W128) (chk : W128 → Bool)
    (mine : Task → W128 → Bool) (sels : W128 → List Nat) (vs : List W64) (k : W128 → List W64 → State → State)
    (bad perm : Bool) (names : List Name) (op : OpKind) (n d : Nat)
    (he : exec c s = done s (s.issueOp r opc chk mine sels k)) (h : s.readyOp r w (sels w) vs)
    (hd : opcodeDefined opc = true) (ho : opcodeOf w = opc) (hc : chk w = true) (hm : mine (s.task r) w = true)
    (hk : k w vs s = s.issueData r w bad perm names op n d) (hb : bad = false) (hp : perm = false)
    (hn : s.namesStatus (s.task r).fk names = 0) : s.occupies c r w op (names.map (·.num)) := by
  rw [State.issueOp_ready s r opc w chk mine sels vs k h hd ho hc hm, hk,
    State.issueData_ok s r w names op n d bad perm hb hp hn] at he
  exact State.occupies_of s c r w op _ n d he

@[simp] theorem nameOf_num (w : W64) (n : Nat) (b : Bool) : (nameOf w n b).num = orNum w := rfl

/-- Settles O16, operation by operation. -/
theorem movesOccupy : Obligations.MovesOccupy := by
  intro r w s
  dsimp only
  refine ⟨fun ss scb tok ho hc hr huc hsum hcvy hss hal hcb hn => ?_, fun d x len ho hc hr hx (hl : len.toNat ≤ 4294967296) => ⟨fun hw (hnum : orNum d < 4096) hi hn => ?_,
    fun hw hnum hmeet hn => ?_⟩, fun d pat len ho hc hr hd (hl : len.toNat ≤ 4294967296) ha hb hn => ?_, fun d b x n xv ho hc hr hd hb hx hn ha1 ha2 ha3 hxf hn' => ?_⟩
  · have hall : (if bit w 99 then some scb else none).any (fun c => !refOk c || orOff c % 64 != 0) = false := by
      rw [Option.any_eq_false]
      intro c hc
      obtain ⟨h1, h2⟩ := hcb c hc
      simp [h1, h2]
    have conv : bit w 89 = true → fld w 94 90 = 0 ∧ tok.toNat ≠ 0 ∧ tok.toNat ≤ 1048576 := fun hb =>
      ⟨(hcvy hb).1, Nat.ne_of_gt (hcvy hb).2.1, (hcvy hb).2.2⟩
    have := State.occupies_data s (.dispatch r) r 0x60 w chkDispatch _ _ [ss, scb, tok] _ _ _ _ _ 4 _ rfl hr rfl ho hc rfl rfl
      (by simp +contextual [Nat.not_lt.mpr huc, Nat.not_lt.mpr hsum, conv, hss, hal, hall]) rfl hn
    simpa [Function.comp_def] using this
  · have := State.occupies_data s (.copy r) r 0x68 w (chkMove 91) _ _ [d, x, len] _ _ _ _ _ 2 _ rfl hr rfl ho hc rfl rfl
      (by simp [hx, hw, hnum, hl]) (by simp [hw, hi]) (by simpa [hw] using hn)
    simpa [hw] using this
  · have := State.occupies_data s (.copy r) r 0x68 w (chkMove 91) _ _ [d, x, len] _ _ _ _ _ 2 _ rfl hr rfl ho hc rfl rfl
      (by simpa [hx, hw, hnum, hl] using hmeet) (by simp [hw]) (by simpa [hw] using hn)
    simpa [hw] using this
  · exact State.occupies_data s (.fill r) r 0x69 w (chkMove 90) _ _ [d, pat, len] _ _ _ _ _ 2 _ rfl hr rfl ho hc rfl rfl
      (by simp [hd, hl, ha, hb]) rfl hn
  · exact State.occupies_data s (.gather r) r 0x6A w chkGather _ _ [d, b, x, n, xv] _ _ _ _ _ 2 _ rfl hr rfl ho hc rfl rfl
      (by simpa [hd, hb, hx, hn, ha1, ha2, ha3] using hxf) rfl hn'

/-! ### XFORM -/

/-- Operands that have all been posted have been posted one by one. -/
theorem Task.srcs_cons {t : Task} {x : Nat} {l : List Nat} {v : W64} {vs : List W64} (h : t.srcs (x :: l) = some (v :: vs)) :
    t.src x = some v ∧ t.srcs l = some vs := by
  rw [Task.srcs] at h
  split at h
  · next hx hl =>
    injection h with h
    injection h with h1 h2
    exact ⟨hx.trans (congrArg some h1), hl.trans (congrArg some h2)⟩
  · exact absurd h (Option.some_ne_none _).symm

/-- The word is an XFORM of the operation that its descriptor names. -/
theorem xformMine_of {t : Task} {w : W128} {a b c xv : W64} {l : List W64} {x y z : Nat} {m : List Nat} (op : Nat)
    (h : t.srcs (x :: y :: z :: fld w 92 86 :: m) = some (a :: b :: c :: xv :: l)) (ho : (xfOf xv).op = op) :
    xformMine op t w = true := by
  have hv : t.src (fld w 92 86) = some xv := (Task.srcs_cons (Task.srcs_cons (Task.srcs_cons (Task.srcs_cons h).2).2).2).1
  unfold xformMine
  split
  · rfl
  · rw [hv]
    simp only [Bool.or_eq_true, beq_iff_eq]
    exact .inl ho

/-- Settles O17: the five operations have one issue, whose checks hold. -/
theorem transformsOccupy : Obligations.TransformsOccupy := by
  intro r w d x n xv a s ho hc hr
  dsimp only
  intro hok hx hal haux hfold hdst hn hkey
  have checks : ∀ c op, exec c s = done s (s.xformIssue r op) → (xfOf xv).op = op →
      s.occupies c r w (.xform d x n.toNat (xfOf xv) (if bit w 78 then some a else none)
        (if bit w 77 then some (fld w 76 73) else none) (bit w 72))
        (orNum x :: (if (xfOf xv).op = 4 then [] else [orNum d]) ++ (if bit w 78 then some a else none).toList.map orNum) := by
    intro c op he hop
    have ⟨_, _, hsrc, _⟩ := hr
    have hany : (if bit w 78 then some a else none).any (fun c => !refOk c || ((xfOf xv).op == 0 && orOff c % 4 != 0)) = false := by
      rw [Option.any_eq_false]
      intro c hc
      obtain ⟨h1, h2⟩ := haux c hc
      simpa [h1] using h2
    have hslot : ((xfOf xv).op == 3 && (s.keyFor (s.task r).part (xfOf xv).key).isNone) = false := by
      by_cases h : (xfOf xv).op = 3
      · simpa [h, Option.isSome_iff_ne_none] using hkey h
      · simp [h]
    have := State.occupies_data s c r 0x70 w chkXform (xformMine op) _ [d, x, n, xv, a] _ _ _ _ _ 3 _ he hr rfl ho hc
      (xformMine_of op hsrc hop) rfl (by simpa [hok, hx, hal, hany] using ⟨hfold, hdst⟩) hslot (by simpa using hn)
    simpa [Function.comp_def, apply_ite (List.map Name.num)] using this
  exact ⟨checks _ 0 rfl, checks _ 1 rfl, checks _ 2 rfl, checks _ 3 rfl, checks _ 4 rfl⟩

/-! ### SAMPLE, PUBLISH, PIN, UNPIN, OPENWIN, CLOSEWIN -/

/-- A segment of a Verkai partition stages nothing, and a native one has room below the limit (06 R182). -/
theorem publishes_room {s : State} {t : Task} (h : s.verkai t.part = true ∨ t.publishes < 64) :
    (!s.verkai t.part && decide (64 ≤ t.publishes)) = false := by
  rcases h with h | h
  · simp [h]
  · simp [Nat.not_le.mpr h]

/-- Settles O18, operation by operation. -/
theorem objectOperationsOccupy : Obligations.ObjectOperationsOccupy := by
  intro r w s
  dsimp only
  refine ⟨fun l p h key pos n ho hc hr hl hp hh hn0 (hn : n.toNat ≤ 1048576) hal hap room hn' => ?_, fun o n hr hok =>
    ⟨fun ho hc room hn => ?_, fun ho hc hn => ⟨fun hb => ?_, fun hb => ?_⟩⟩,
    fun o n k ho hc hr hok hn0 (hn : n.toNat ≤ 4294967296) hk hn' => ?_, fun h ho hz hs hr hf => ?_⟩
  · have hroom := publishes_room room
    exact State.occupies_data s (.sample r) r 0x78 w chkSample _ _ [l, p, h, key, pos, n] _ _ _ _ _ 3 _ rfl hr rfl ho hc rfl
      rfl (by simpa [hl, hp, hh, Nat.ne_of_gt hn0, hn, hap] using ⟨hal, by simpa using hroom⟩) rfl hn'
  · have hroom : (!s.verkai (s.task r).part && n.toNat != 0 && decide (64 ≤ (s.task r).publishes)) = false := by
      rcases room with h0 | room
      · simp [h0]
      · rw [Bool.and_right_comm, publishes_room room, Bool.false_and]
    exact State.occupies_data s (.publish r) r 0x80 w chkTwo _ _ [o, n] _ _ _ _ _ 2 _ rfl hr rfl ho hc rfl rfl
      (by rw [Bool.or_eq_false_iff]; exact ⟨by simp [hok], hroom⟩) rfl hn
  · exact State.occupies_data s (.pin r) r 0x81 w chkPin _ _ [o, n] _ _ _ _ _ 2 _ rfl hr rfl ho hc (by simp [hb]) rfl
      (by simp [hok]) rfl hn
  · exact State.occupies_data s (.unpin r) r 0x81 w chkPin _ _ [o, n] _ _ _ _ _ 2 _ rfl hr rfl ho hc (by simp [hb]) rfl
      (by simp [hok]) rfl hn
  · exact State.occupies_data s (.openwin r) r 0x82 w chkOpenwin _ _ [o, n, k] _ _ _ _ _ 2 _ rfl hr rfl ho hc rfl rfl
      (by simp [hok, Nat.ne_of_gt hn0, hn, hk]) rfl hn'
  · exact State.occupies_data s (.closewin r) r 0x83 w _ _ _ [h] _ _ _ _ _ 2 _ rfl hr rfl ho (by simp [hz, hs]) rfl rfl
      rfl (by simp [hf]) rfl

end Sys2Proof.Machine
end

section
/-! ENQUEUE at issue (04 R125; 05 R150 to R152). -/

namespace Sys2Proof.Machine

set_option Elab.async false

/-- A word that is no operation, issued after the command has changed its own task and queues: `u` is the next state. -/
theorem done_issuedDone_spec (s v : State) (r : Nat) (w : W128) (n pc : Nat) (hv : s.only v [.tasks, .queues])
    (hq : ∀ q, q ≠ r → v.task q = s.task q) : ∃ u, done s (v.issuedDone r w n pc) = .next u ∧
    u.task r = (v.task r).at' pc ∧ (∀ q, q ≠ r → u.task q = s.task q) ∧ u.queues = v.queues ∧
    s.only u (.tasks :: .queues :: .stamp :: countParts) ∧ s.funcsKept u ∧ s.objsKept u := by
  obtain ⟨h1, h2, h3, h4, h5, -⟩ := State.issuedDone_spec v r w n pc
  obtain ⟨u, hu, -, -, ho, fix⟩ := done_spec s (v.issuedDone r w n pc)
  have ht : ∀ q, u.task q = (v.issuedDone r w n pc).task q := State.task_of (ho .tasks (by decide))
  refine ⟨u, hu, (ht r).trans h1, fun q h => (ht q).trans ((h2 q h).trans (hq q h)), ?_,
    fix _ (by decide) (State.only_after h3.sub hv.sub), ?_, ?_⟩
  · exact (ho .queues (by decide)).trans (h3 .queues (by decide))
  · exact State.funcsKept_trans (State.funcsKept_of_funcs (hv .funcs (by decide)))
      (State.funcsKept_trans h4 (State.funcsKept_of_funcs (ho .funcs (by decide))))
  · exact State.objsKept_trans (State.objsKept_of_objs (hv .objs (by decide)))
      (State.objsKept_trans h5 (State.objsKept_of_objs (ho .objs (by decide))))

/-- An operation that takes its slot, after the command has changed its own task and queues: `u` is the next state. -/
theorem done_occupy_spec (s v : State) (r : Nat) (w : W128) (k : OpKind) (n d : Nat) (hv : s.only v [.tasks, .queues])
    (hq : ∀ q, q ≠ r → v.task q = s.task q) : ∃ u, ∃ o : Op, done s (v.occupy r w k n d) = .next u ∧
    u.task r = { (v.task r).at' ((v.task r).ctx.pc + 1) with
      issN := (v.task r).issN + 1, win := Tab.set none (v.task r).win (opnumOf w) (some o) } ∧
    o.kind = k ∧ o.iss = (v.task r).issN ∧
    (∀ i, i < 64 → (o.deps.getLsbD i = true ↔ i ≠ opnumOf w ∧ i ∈ (v.task r).named (w.setWidth 64))) ∧
    (∀ q, q ≠ r → u.task q = s.task q) ∧ u.queues = v.queues ∧
    s.only u (.tasks :: .queues :: .stamp :: countParts) ∧ s.funcsKept u ∧ s.objsKept u := by
  obtain ⟨g1, g2, g3, g4, -⟩ := State.occupy_spec v r w k n d
  obtain ⟨u, hu, -, -, ho, fix⟩ := done_spec s (v.occupy r w k n d)
  have ht : ∀ q, u.task q = (v.occupy r w k n d).task q := State.task_of (ho .tasks (by decide))
  refine ⟨u, _, hu, (ht r).trans g1, rfl, rfl, fun i hi => ?_, fun q h => (ht q).trans ((g2 q h).trans (hq q h)), ?_,
    fix _ (by decide) (State.only_after g3.sub hv.sub), ?_, ?_⟩
  · dsimp only [maskOf]
    rw [setBits_spec _ _ hi]
    simp
  · exact (ho .queues (by decide)).trans (g3 .queues (by decide))
  · exact State.funcsKept_trans (State.funcsKept_of_funcs (hv .funcs (by decide)))
      (State.funcsKept_trans g4 (State.funcsKept_of_funcs (ho .funcs (by decide))))
  · exact State.objsKept_of_objs ((ho .objs (by decide)).trans ((g3 .objs (by decide)).trans (hv .objs (by decide))))

/-! ### The draw of a credit -/

/-- An ENQUEUE tells its predicate whether it has drawn a ring-slot credit of queue `qk`, and draws it (05 R151). -/
def State.enqDraw (s : State) (r pd qk : Nat) (drawn : Bool) : State :=
  let u := s.modTask r fun t => t.setP pd drawn
  if drawn then u.modQueue qk fun x => { x with credHeld := x.credHeld + 1 } else u

section
variable (s : State) (r pd qk : Nat) (drawn : Bool)

theorem State.only_enqDraw : s.only (s.enqDraw r pd qk drawn) [.tasks, .queues] := by
  unfold State.enqDraw
  exact State.only_ite _ (State.only_after (State.only_modQueue _ _ _).sub (State.only_modTask s _ _).sub)
    (State.only_modTask s _ _).sub

theorem State.enqDraw_tasks : (s.enqDraw r pd qk drawn).tasks = (s.modTask r fun t => t.setP pd drawn).tasks := by
  unfold State.enqDraw
  cases drawn <;> rfl

theorem State.enqDraw_task_self : (s.enqDraw r pd qk drawn).task r = (s.task r).setP pd drawn := by
  rw [State.task_of (State.enqDraw_tasks s r pd qk drawn), State.modTask_task_self]

theorem State.enqDraw_task_ne {q : Nat} (h : q ≠ r) : (s.enqDraw r pd qk drawn).task q = s.task q := by
  rw [State.task_of (State.enqDraw_tasks s r pd qk drawn), State.modTask_task_ne _ _ _ h]

theorem State.enqDraw_queue_of_drawn (k : Nat) : (s.enqDraw r pd qk true).queue k =
    if k = qk then { s.queue qk with credHeld := (s.queue qk).credHeld + 1 } else s.queue k := by
  unfold State.enqDraw
  rw [if_pos rfl, State.modQueue_queue]
  rfl

end

/-! ### The statement -/

/-- Writing a predicate and moving on may be done in either order. -/
theorem Task.setP_at' (t : Task) (i : Nat) (v : Bool) (pc : Nat) : (t.setP i v).at' pc = (t.at' pc).setP i v := by
  unfold Task.setP
  split <;> rfl

@[simp] theorem Task.setP_pc (t : Task) (i : Nat) (v : Bool) : (t.setP i v).ctx.pc = t.ctx.pc := by
  rw [Task.setP_eq]
@[simp] theorem Task.setP_issN (t : Task) (i : Nat) (v : Bool) : (t.setP i v).issN = t.issN := by
  rw [Task.setP_eq]
@[simp] theorem Task.setP_win (t : Task) (i : Nat) (v : Bool) : (t.setP i v).win = t.win := by
  rw [Task.setP_eq]
@[simp] theorem Task.setP_staged (t : Task) (i : Nat) (v : Bool) : (t.setP i v).staged = t.staged := by
  rw [Task.setP_eq]
@[simp] theorem Task.setP_named (t : Task) (i : Nat) (v : Bool) : (t.setP i v).named = t.named := by
  rw [Task.setP_eq]
  rfl

/-- What ENQUEUE does when it is issued and its checks hold (05 R150 to R152). -/
theorem exec_enqueue_ready (r : Nat) (w : W128) (pa : W64) (s : State) (ho : opcodeOf w = 0x50) (hz : fld w 73 64 = 0)
    (hs : selOk (fld w 103 97) = true) (hr : s.readyOp r w [fld w 103 97] [pa]) :
    let t := s.task r
    let len := fld w 96 81
    let ptr := bit w 80
    let scb := fld w 79 74
    let q := if bit w 110 then fld (t.sreg (fld w 109 104)) 5 0 else fld w 109 104
    let qk := qkey t.fk q
    let cbp := if ptr then some (t.sreg scb).toNat else none
    let cb := if ptr then [] else (List.range 4).map fun i => t.sreg (scb + i)
    let drawn := (s.queue qk).st == .enabled && decide (0 < (s.queue qk).free)
    let v := s.enqDraw r (fld w 113 111) qk drawn
    len ≠ 0 → pa.toNat % 16 = 0 → (ptr = false → scb ≤ 60) → (ptr = true → (t.sreg scb).toNat % 64 = 0) →
    (s.verkai t.part = false → t.enqueues < 16) →
    exec (.enqueue r) s = done s (if s.verkai t.part then v.occupy r w (.enqueue q pa.toNat len cbp cb drawn) 4 0
      else if !drawn then (v.nextIss r).issuedDone r w 4 (t.ctx.pc + 1)
      else ((v.modTask r fun t => { t with staged := t.staged ++ [(t.issN, .enq q pa.toNat len cbp cb)] }).nextIss r).issuedDone
        r w 4 (t.ctx.pc + 1)) := by
  dsimp only
  intro hlen hpa hscb hptr hroom
  show execEnqueue r s = _
  rw [execEnqueue, State.issueOp_ready s r _ w _ _ _ _ _ hr rfl ho (by simp [hz, hs]) rfl]
  have sound : ¬(fld w 96 81 = 0 ∨ pa.toNat % 16 ≠ 0 ∨ (bit w 80 = false ∧ 60 < fld w 79 74) ∨
      (bit w 80 = true ∧ ((s.task r).sreg (fld w 79 74)).toNat % 64 ≠ 0) ∨
      (s.verkai (s.task r).part = false ∧ 16 ≤ (s.task r).enqueues)) := by
    rintro (h | h | ⟨h1, h2⟩ | ⟨h1, h2⟩ | ⟨h1, h2⟩)
    · exact hlen h
    · exact h hpa
    · exact Nat.not_lt.mpr (hscb h1) h2
    · exact h2 (hptr h1)
    · exact Nat.not_le.mpr (hroom h1) h2
  refine congrArg (done s) ((if_neg sound).trans ?_)
  dsimp only
  generalize ((s.queue (qkey (s.task r).fk _)).st == QSt.enabled && _) = drawn
  cases drawn <;> rfl

/-- Settles O19: the credit is drawn where the queue has one; a native task has staged its ENQUEUE then, and a Verkai one
holds its slot. -/
theorem enqueueDrawsCredit : Obligations.EnqueueDrawsCredit := by
  intro r w pa s ho hz hs hr
  have he := exec_enqueue_ready r w pa s ho hz hs hr
  dsimp only at he ⊢
  intro hlen hpa hscb hptr hroom
  replace he := he hlen hpa hscb hptr hroom
  generalize (if bit w 110 then fld ((s.task r).sreg (fld w 109 104)) 5 0 else fld w 109 104) = q at *
  generalize ((s.queue (qkey (s.task r).fk q)).st == QSt.enabled && decide (0 < (s.queue (qkey (s.task r).fk q)).free)) = drawn at *
  have only := State.only_enqDraw s r (fld w 113 111) (qkey (s.task r).fk q) drawn
  have self := State.enqDraw_task_self s r (fld w 113 111) (qkey (s.task r).fk q) drawn
  have other := fun k (h : k ≠ r) => State.enqDraw_task_ne s r (fld w 113 111) (qkey (s.task r).fk q) drawn h
  have undrawn : drawn = false → (s.enqDraw r (fld w 113 111) (qkey (s.task r).fk q) drawn).queues = s.queues := fun h => by
    rw [h]; rfl
  have charged : drawn = true → ∀ k, (s.enqDraw r (fld w 113 111) (qkey (s.task r).fk q) drawn).queue k = if k = qkey (s.task r).fk q
      then { s.queue k with credHeld := (s.queue k).credHeld + 1 } else s.queue k := fun h k => by
    subst h
    rw [State.enqDraw_queue_of_drawn]
    split
    · next h => rw [h]
    · rfl
  have queues : ∀ u : State, u.queues = (s.enqDraw r (fld w 113 111) (qkey (s.task r).fk q) drawn).queues →
      (drawn = false → u.queues = s.queues) ∧ (drawn = true →
        u.queue (qkey (s.task r).fk q) = { s.queue (qkey (s.task r).fk q) with credHeld := (s.queue (qkey (s.task r).fk q)).credHeld + 1 } ∧
        ∀ k, k ≠ qkey (s.task r).fk q → u.queue k = s.queue k) := fun u hu =>
    ⟨fun h => hu.trans (undrawn h), fun h => ⟨by rw [State.queue_of hu, charged h, if_pos rfl],
      fun k hk => by rw [State.queue_of hu, charged h, if_neg hk]⟩⟩
  generalize s.enqDraw r (fld w 113 111) (qkey (s.task r).fk q) drawn = v at *
  cases hv : s.verkai (s.task r).part with
  | true =>
    rw [hv, if_pos rfl] at he
    obtain ⟨u, o, hu, task, kind, iss, deps, others, qs, frame, funcs, objs⟩ := done_occupy_spec s v r w _ 4 0 only other
    refine ⟨u, he.trans hu, (queues u qs).1, (queues u qs).2, fun h => absurd h Bool.true_eq_false.mp, fun _ =>
      ⟨o, ?_, kind, by rw [iss, self, Task.setP_issN], fun i hi => ?_⟩, others, frame, funcs, objs⟩
    · rw [task, self, Task.setP_at', Task.setP_pc, Task.setP_issN, Task.setP_win]
    · rw [deps i hi, self, Task.setP_named]
  | false =>
    rw [hv, if_neg Bool.false_ne_true] at he
    obtain ⟨x, hx, hother, hqs, htask, hex⟩ : ∃ x : State, s.only x [.tasks, .queues] ∧ (∀ k, k ≠ r → x.task k = s.task k) ∧
        x.queues = v.queues ∧ x.task r = { (s.task r).setP (fld w 113 111) drawn with
          issN := (s.task r).issN + 1
          staged := (s.task r).staged ++ if drawn then [((s.task r).issN, .enq q pa.toNat (fld w 96 81)
            (if bit w 80 then some ((s.task r).sreg (fld w 79 74)).toNat else none)
            (if bit w 80 then [] else (List.range 4).map fun i => (s.task r).sreg (fld w 79 74 + i)))] else [] } ∧
        exec (.enqueue r) s = done s (x.issuedDone r w 4 ((s.task r).ctx.pc + 1)) := by
      cases drawn with
      | false =>
        refine ⟨_, State.only_after (State.only_modTask v r _).sub only, fun k hk => ?_, rfl, ?_, he⟩
        · rw [State.modTask_task_ne _ _ _ hk, other k hk]
        · rw [State.modTask_task_self, self]
          simp
      | true =>
        refine ⟨_, State.only_after (State.only_modTask _ r _).sub (State.only_after (State.only_modTask v r _).sub only),
          fun k hk => ?_, rfl, ?_, he⟩
        · rw [State.modTask_task_ne _ _ _ hk, State.modTask_task_ne _ _ _ hk, other k hk]
        · rw [State.modTask_task_self, State.modTask_task_self, self]
          simp
    obtain ⟨u, hu, task, others, qs, frame, funcs, objs⟩ := done_issuedDone_spec s x r w 4 ((s.task r).ctx.pc + 1) hx hother
    refine ⟨u, hex.trans hu, (queues u (qs.trans hqs)).1, (queues u (qs.trans hqs)).2, fun _ => ?_,
      fun h => absurd h Bool.false_ne_true, others, frame, funcs, objs⟩
    rw [task, htask, ← Task.setP_at']
    rfl

end Sys2Proof.Machine
end

section
/-! Drafts given up and published (06 R164 to R166; 11 R305 to R309): what publishing does to the objects, and which parts it
may change. -/

namespace Sys2Proof.Machine

set_option Elab.async false

/-! ### Which parts publishing may change -/

theorem State.only_copyPage (s : State) (p q : PageRef) : s.only (s.copyPage p q) [.sto] :=
  State.only_each _ (fun u _ => State.only_writeLoc u _ _) _ s

theorem State.only_setExt (s : State) (n lo hi : Nat) (e : Ext) : s.only (s.setExt n lo hi e) [.objs, .sto, .stamp] := by
  unfold State.setExt
  exact State.only_ite _ (State.only_modObj s _ _).sub (State.only_after (State.only_nextStamp _).sub
    (State.only_after (State.only_modSto _ _).sub (State.only_modObj s _ _).sub))

/-- One granule's write-back sends bytes, or counts a refused request, or does neither. -/
theorem State.only_granuleBack (s : State) (ok bad : Bool) (sp : Space) (a : Nat) (l : List (Option Byte)) :
    s.only (if !ok then s else if bad then s.ctxRefuse else s.hostWriteP sp a l) [.out, .cnt, .sto, .objs] :=
  State.only_ite _ (State.only_refl s _) (State.only_ite _ (State.only_ctxRefuse s).sub (State.only_hostWriteP s _ _ _).sub)

theorem State.objsKept_granuleBack (s : State) (ok bad : Bool) (sp : Space) (a : Nat) (l : List (Option Byte)) :
    s.objsKept (if !ok then s else if bad then s.ctxRefuse else s.hostWriteP sp a l) := by
  split
  · exact State.objsKept_refl s
  · split
    · exact ⟨_, rfl⟩
    · exact State.objsKept_of_objs (State.only_hostWriteP s _ _ _ .objs (by decide))

theorem State.only_writeBack (n : Nat) (d : Draft) (l : List Nat) : ∀ s : State,
    s.only (s.writeBack n d l).1 [.out, .cnt, .sto, .objs] ∧ s.objsKept (s.writeBack n d l).1 := by
  induction l with
  | nil => exact fun s => ⟨State.only_refl s _, State.objsKept_refl s⟩
  | cons g l ih =>
    intro s
    rw [State.writeBack]
    split
    · exact ih s
    · split
      · dsimp only
        generalize hu : (if !_ then s else if s.ctxBad _ _ 64 then s.ctxRefuse else s.hostWriteP _ _ _) = u
        have h1 : s.only u [.out, .cnt, .sto, .objs] := hu ▸ State.only_granuleBack s _ _ _ _ _
        have h2 : s.objsKept u := hu ▸ State.objsKept_granuleBack s _ _ _ _ _
        exact ⟨State.only_trans h1 (ih u).1, State.objsKept_trans h2 (ih u).2⟩
      · exact ih s

/-- The pages of a copied extent that were not written are filled from their source before publication (11 R306). -/
def State.fillCow (s : State) (d : Draft) : State :=
  s.each (List.range d.len) fun u i => if d.touched.contains i then u else
    match Tab.find? d.pages i, d.src[i]? with
    | some p, some q => u.copyPage q p
    | _, _ => u

theorem State.only_fillCow (s : State) (d : Draft) : s.only (s.fillCow d) [.sto] := by
  refine State.only_each _ (fun u i => ?_) _ s
  refine State.only_ite _ (State.only_refl u _) ?_
  split
  · exact State.only_copyPage u _ _
  · exact State.only_refl u _

theorem State.only_publishDraft (s : State) (d : Draft) : s.only (s.publishDraft d).1 [.out, .cnt, .sto, .objs, .stamp] := by
  unfold State.publishDraft
  split
  · exact State.only_after (State.only_freePages _ _).sub (State.only_writeBack d.obj d d.gran s).1.sub
  · exact State.only_after (State.only_setExt _ _ _ _ _).sub (State.only_fillCow s d).sub
  · exact (State.only_setExt s _ _ _ _).sub
  · exact (State.only_setExt s _ _ _ _).sub

/-! ### What publishing does to an object -/

/-- The length in pages of the extent that a draft becomes (11 R309): a replacement has the pages that it holds. -/
def Draft.extLen (d : Draft) : Nat := if d.kind = .repl then d.pages.length else d.len

/-- The extent that a draft becomes. -/
def Draft.ext (d : Draft) : Ext := { off := d.off, len := d.extLen, store := .pages d.own }

/-- The end of the range in which a draft replaces the extents of an object with slots of `slot` pages. -/
def Draft.until (d : Draft) (slot : Nat) : Nat := d.off + if d.kind = .repl then slot else d.len

/-- An object with a draft published: its extents in the draft's range give way to the draft's. -/
def Obj.publish (o : Obj) (d : Draft) : Obj :=
  { o with exts := insertExt d.ext (o.exts.filter fun x => !(x.off < d.until o.slotPg && d.off < x.off + x.len)) }

theorem State.setExt_obj (s : State) (n lo hi : Nat) (e : Ext) (k : Nat) : (s.setExt n lo hi e).obj k =
    if k = n then { s.obj n with exts := insertExt e ((s.obj n).exts.filter fun x => !(x.off < hi && lo < x.off + x.len)) }
    else s.obj k := by
  unfold State.setExt
  dsimp only
  split <;> simp only [State.nextStamp_obj, State.modSto_obj, State.modObj_obj]

theorem State.obj_of_kept {s t : State} (h : s.objsKept t) (k : Nat) : t.obj k = s.obj k := by
  obtain ⟨c, hc⟩ := h
  unfold State.obj
  rw [hc]

/-- Publishing a draft of a host extent changes no object, and any other draft becomes an extent of its object (06 R164 to
R166; 11 R306 to R309). -/
theorem State.publishDraft_obj (s : State) (d : Draft) (k : Nat) : (s.publishDraft d).1.obj k =
    if k = d.obj ∧ d.kind ≠ .host then (s.obj k).publish d else s.obj k := by
  have set : ∀ (u : State) (hi len : Nat), u.objs = s.objs → hi = d.until (s.obj d.obj).slotPg → len = d.extLen → d.kind ≠ .host →
      (u.setExt d.obj d.off hi { off := d.off, len := len, store := .pages d.own }).obj k =
        if k = d.obj ∧ d.kind ≠ .host then (s.obj k).publish d else s.obj k := by
    intro u hi len hu hhi hlen hk
    subst hhi hlen
    rw [State.setExt_obj, State.obj_of hu, State.obj_of hu]
    by_cases h : k = d.obj
    · subst h
      rw [if_pos rfl, if_pos ⟨rfl, hk⟩]
      rfl
    · rw [if_neg h, if_neg fun e => h e.1]
  unfold State.publishDraft
  split
  · next hk =>
    rw [if_neg fun h => h.2 hk, State.obj_of (State.only_freePages _ _ .objs (by decide)),
      State.obj_of_kept (State.only_writeBack d.obj d d.gran s).2]
  · next hk =>
    refine set (s.fillCow d) _ _ (State.only_fillCow s d .objs (by decide)) ?_ ?_ (by rw [hk]; decide) <;>
      simp [Draft.until, Draft.extLen, hk]
  · next hk =>
    refine set s _ _ rfl ?_ ?_ (by rw [hk]; decide) <;> simp [Draft.until, Draft.extLen, hk]
  · next hk =>
    refine set s _ _ rfl ?_ ?_ (by rw [hk]; decide) <;> simp [Draft.until, Draft.extLen, hk]

/-! ### Several drafts -/

/-- A draft that a list of ranges names is published, another one gives its pages up (06 R164). -/
def State.settleDraft (s : State) (ranges : List (Nat × Nat × Nat)) (d : Draft) : State :=
  if !d.lost && ranges.any fun g => d.meets g.1 g.2.1 g.2.2 then (s.publishDraft d).1 else s.freePages d.own

theorem State.publishAll_state (s : State) (r : Nat) (ranges : List (Nat × Nat × Nat)) : (s.publishAll r ranges).1 =
    (s.modTask r fun t => { t with drafts := [] }).each (s.task r).drafts fun u d => u.settleDraft ranges d := by
  have fold : ∀ (l : List Draft) (x : State × Nat), (l.foldl (fun x d =>
      if !d.lost && ranges.any fun g => d.meets g.1 g.2.1 g.2.2 then
        let (u, st) := x.1.publishDraft d
        (u, if x.2 = 0 then st else x.2)
      else (x.1.freePages d.own, x.2)) x).1 = x.1.each l fun u d => u.settleDraft ranges d := by
    intro l
    induction l with
    | nil => exact fun x => rfl
    | cons d l ih =>
      intro x
      rw [List.foldl_cons, ih]
      unfold State.each
      rw [List.foldl_cons]
      congr 1
      unfold State.settleDraft
      split <;> rfl
  exact fold _ _

theorem State.only_settleDraft (s : State) (ranges : List (Nat × Nat × Nat)) (d : Draft) :
    s.only (s.settleDraft ranges d) [.out, .cnt, .sto, .objs, .stamp] :=
  State.only_ite _ (State.only_publishDraft s d) (State.only_freePages s _).sub

theorem State.only_publishAll (s : State) (r : Nat) (ranges : List (Nat × Nat × Nat)) :
    s.only (s.publishAll r ranges).1 [.tasks, .out, .cnt, .sto, .objs, .stamp] := by
  rw [State.publishAll_state]
  exact State.only_after (State.only_each _ (fun u d => State.only_settleDraft u ranges d) _ _).sub (State.only_modTask s _ _).sub

/-- Publishing changes of the tasks its own one's drafts alone. -/
theorem State.publishAll_tasks (s : State) (r : Nat) (ranges : List (Nat × Nat × Nat)) :
    (s.publishAll r ranges).1.tasks = (s.modTask r fun t => { t with drafts := [] }).tasks := by
  rw [State.publishAll_state]
  exact State.only_each _ (fun u d => State.only_settleDraft u ranges d) _ _ .tasks (by decide)

/-- A draft of object `n` that the ranges name and that becomes an extent. -/
def Draft.enters (ranges : List (Nat × Nat × Nat)) (n : Nat) (d : Draft) : Bool :=
  (!d.lost && ranges.any fun g => d.meets g.1 g.2.1 g.2.2) && (d.obj == n && d.kind != .host)

theorem State.settleDraft_obj (s : State) (ranges : List (Nat × Nat × Nat)) (d : Draft) (n : Nat) :
    (s.settleDraft ranges d).obj n = if d.enters ranges n then (s.obj n).publish d else s.obj n := by
  unfold State.settleDraft Draft.enters
  split
  · next h =>
    rw [State.publishDraft_obj, h]
    simp only [Bool.true_and, Bool.and_eq_true, bne_iff_ne, beq_iff_eq, eq_comm (a := n)]
  · next h =>
    rw [Bool.not_eq_true] at h
    rw [State.obj_of (State.only_freePages s _ .objs (by decide)), h]
    rfl

/-- The objects after a task's drafts have been settled: the named ones entered them one after the other. -/
theorem State.publishAll_obj (s : State) (r : Nat) (ranges : List (Nat × Nat × Nat)) (n : Nat) :
    (s.publishAll r ranges).1.obj n = ((s.task r).drafts.filter fun d => d.enters ranges n).foldl Obj.publish (s.obj n) := by
  have fold : ∀ (l : List Draft) (u : State), (u.each l fun u d => u.settleDraft ranges d).obj n =
      (l.filter fun d => d.enters ranges n).foldl Obj.publish (u.obj n) := by
    intro l
    induction l with
    | nil => exact fun u => rfl
    | cons d l ih =>
      intro u
      refine (ih _).trans ?_
      rw [State.settleDraft_obj, List.filter_cons]
      split <;> rfl
  rw [State.publishAll_state, fold]
  rfl

/-! ### The extents after publication -/

theorem mem_insertExt (e x : Ext) (l : List Ext) : x ∈ insertExt e l ↔ x = e ∨ x ∈ l := by
  induction l with
  | nil => simp [insertExt]
  | cons y l ih =>
    rw [insertExt]
    split
    · rw [List.mem_cons, ih, List.mem_cons]
      tauto
    · rw [List.mem_cons]

theorem Obj.mem_publish (o : Obj) (d : Draft) (x : Ext) : x ∈ (o.publish d).exts ↔
    x = d.ext ∨ (x ∈ o.exts ∧ ¬(x.off < d.until o.slotPg ∧ d.off < x.off + x.len)) := by
  unfold Obj.publish
  rw [mem_insertExt, List.mem_filter, Bool.not_eq_true', ← Bool.not_eq_true, Bool.and_eq_true, decide_eq_true_eq, decide_eq_true_eq]

/-- Publishing leaves of an object all but its extents. -/
theorem Obj.publish_fold_eq (l : List Draft) : ∀ o : Obj, l.foldl Obj.publish o = { o with exts := (l.foldl Obj.publish o).exts } := by
  induction l with
  | nil => exact fun o => rfl
  | cons d l ih => exact fun o => (ih (o.publish d)).trans rfl

/-- An extent after publication was there before or comes from a draft. -/
theorem Obj.mem_publish_fold (l : List Draft) : ∀ (o : Obj) (x : Ext), x ∈ (l.foldl Obj.publish o).exts →
    x ∈ o.exts ∨ ∃ d ∈ l, x = d.ext := by
  induction l with
  | nil => exact fun o x h => .inl h
  | cons d l ih =>
    intro o x h
    rcases ih (o.publish d) x h with h | ⟨e, he, hx⟩
    · rcases (Obj.mem_publish o d x).mp h with h | ⟨h, -⟩
      · exact .inr ⟨d, List.mem_cons_self, h⟩
      · exact .inl h
    · exact .inr ⟨e, List.mem_cons_of_mem _ he, hx⟩

/-- The range of an object with slots of `slot` pages that a draft and its extent lie in ends here. -/
def Draft.reach (d : Draft) (slot : Nat) : Nat := d.off + max d.extLen (if d.kind = .repl then slot else 0)

/-- An extent that no later draft meets stays. -/
theorem Obj.mem_publish_fold_of_apart (l : List Draft) : ∀ (o : Obj) (x : Ext), x ∈ o.exts →
    (∀ d ∈ l, x.off + x.len ≤ d.off ∨ d.reach o.slotPg ≤ x.off) → x ∈ (l.foldl Obj.publish o).exts := by
  induction l with
  | nil => exact fun o x h _ => h
  | cons d l ih =>
    intro o x hx h
    refine ih (o.publish d) x ((Obj.mem_publish o d x).mpr (.inr ⟨hx, ?_⟩)) fun e he => h e (List.mem_cons_of_mem _ he)
    rintro ⟨h1, h2⟩
    have reach : d.until o.slotPg ≤ d.reach o.slotPg := by
      unfold Draft.until Draft.reach Draft.extLen
      split <;> omega
    rcases h d List.mem_cons_self with h | h <;> omega

/-- Drafts that do not meet all become extents. -/
theorem Obj.ext_mem_publish_fold (l : List Draft) : ∀ (o : Obj),
    (l.Pairwise fun a b => a.reach o.slotPg ≤ b.off ∨ b.reach o.slotPg ≤ a.off) → ∀ d ∈ l, d.ext ∈ (l.foldl Obj.publish o).exts := by
  induction l with
  | nil => exact fun o _ d h => absurd h List.not_mem_nil
  | cons a l ih =>
    intro o hp d hd
    obtain ⟨ha, hl⟩ := List.pairwise_cons.mp hp
    rcases List.mem_cons.mp hd with rfl | hd
    · refine Obj.mem_publish_fold_of_apart l (o.publish d) d.ext ((Obj.mem_publish o d _).mpr (.inl rfl)) fun b hb => ?_
      have within : d.off + d.extLen ≤ d.reach o.slotPg := by
        unfold Draft.reach
        omega
      exact (ha b hb).imp (fun h => within.trans h) id
    · exact ih (o.publish a) hl d hd

/-- A device object is published as far as its last extent reaches (11 R304). -/
theorem Obj.le_publishedPg (o : Obj) (h : o.isHost = false) (x : Ext) (hx : x ∈ o.exts) : x.off + x.len ≤ o.publishedPg := by
  have fold : ∀ (l : List Ext) (m : Nat), m ≤ l.foldl (fun m e => max m (e.off + e.len)) m ∧
      ∀ x ∈ l, x.off + x.len ≤ l.foldl (fun m e => max m (e.off + e.len)) m := by
    intro l
    induction l with
    | nil => exact fun m => ⟨le_rfl, fun x h => absurd h List.not_mem_nil⟩
    | cons e l ih =>
      intro m
      obtain ⟨h1, h2⟩ := ih (max m (e.off + e.len))
      refine ⟨(le_max_left _ _).trans h1, fun x hx => ?_⟩
      rcases List.mem_cons.mp hx with rfl | hx
      · exact (le_max_right _ _).trans h1
      · exact h2 x hx
  unfold Obj.publishedPg
  rw [h]
  exact (fold o.exts 0).2 x hx

end Sys2Proof.Machine
end

section
/-! The end of a segment: COMMIT, YIELD and ABORT (04 R112, R114, R123; 05 R153 to R155). -/

namespace Sys2Proof.Machine

set_option Elab.async false

/-! ### What a release may change -/

/-- From `s` to `t` only the parts of `l` change, no task but that of record `r`, and of this one only what `f` erases. -/
def State.ownTask (s : State) (r : Nat) (f : Task → Task) (l : List Field) (t : State) : Prop :=
  s.only t l ∧ (∀ q, q ≠ r → t.task q = s.task q) ∧ f (t.task r) = f (s.task r)

section
variable {r : Nat} {f : Task → Task}

theorem State.ownTask_refl (s : State) (l : List Field) : s.ownTask r f l s :=
  ⟨State.only_refl s l, fun _ _ => rfl, rfl⟩

theorem State.ownTask_of_only {s t : State} {l m : List Field} (h : s.only t l) (ht : .tasks ∉ l := by decide)
    (hl : (l.all fun f => m.contains f) = true := by decide) : s.ownTask r f m t :=
  ⟨h.sub hl, fun q _ => State.task_of (h .tasks ht) q, congrArg f (State.task_of (h .tasks ht) r)⟩

theorem State.ownTask.mono {s t : State} {g : Task → Task} {l m : List Field} (h : s.ownTask r f l t)
    (hg : ∀ x, g (f x) = g x := by intro x; rfl) (hl : (l.all fun f => m.contains f) = true := by decide) : s.ownTask r g m t :=
  ⟨h.1.sub hl, h.2.1, (hg _).symm.trans ((congrArg g h.2.2).trans (hg _))⟩

theorem State.ownTask_trans {s t u : State} {l : List Field} (h : s.ownTask r f l t) (g : t.ownTask r f l u) :
    s.ownTask r f l u :=
  ⟨State.only_trans h.1 g.1, fun q hq => (g.2.1 q hq).trans (h.2.1 q hq), g.2.2.trans h.2.2⟩

theorem State.ownTask_modTask (s : State) (g : Task → Task) {l : List Field} (hl : .tasks ∈ l)
    (hg : ∀ x, f (g x) = f x := by intro x; rfl) : s.ownTask r f l (s.modTask r g) :=
  ⟨State.only_mono (State.only_modTask s r _) (by simpa using hl), fun q hq => State.modTask_task_ne _ _ _ hq,
    (congrArg f (State.modTask_task_self s r g)).trans (hg _)⟩

theorem State.ownTask_ite {s t u : State} {l : List Field} (c : Prop) [Decidable c] (h : s.ownTask r f l t)
    (g : s.ownTask r f l u) : s.ownTask r f l (if c then t else u) := by
  split <;> assumption

theorem State.ownTask_each {α : Type} {l : List Field} {g : State → α → State}
    (hg : ∀ u a, State.ownTask u r f l (g u a)) (as : List α) (s : State) : s.ownTask r f l (s.each as g) :=
  State.each_keeps (P := s.ownTask r f l) (fun u a hu => State.ownTask_trans hu (hg u a)) as s (State.ownTask_refl s l)

end

/-- A task without the status that its commit has met (04 R451). -/
def Task.unmet (t : Task) : Task := { t with cstat := 0, badAt := 0 }

/-- A task without that status and without its drafts. -/
def Task.undrafted (t : Task) : Task := { t with cstat := 0, badAt := 0, drafts := [] }

theorem Task.met_unmet (st a : Nat) (t : Task) : (Task.met st a t).unmet = t.unmet := by
  unfold Task.met
  split <;> rfl

theorem Task.met_undrafted (st a : Nat) (t : Task) : (Task.met st a t).undrafted = t.undrafted := by
  unfold Task.met
  split <;> rfl

/-- The parts that a release may change (04 R112). -/
def releaseParts : List Field := [.tasks, .sto, .objs, .parts, .wps, .xl, .rbuf, .geq, .out, .funcs, .cnt, .freeCtr, .stamp]

theorem State.ownTask_dropGran (s : State) (r n pg : Nat) : s.ownTask r Task.undrafted [.tasks, .xl, .cnt, .funcs, .out, .objs]
    (s.dropGran r n pg) :=
  State.ownTask_trans (State.ownTask_modTask s _ (by decide)) (State.ownTask_modTask _ _ (by decide) (Task.met_undrafted _ _))

theorem State.ownTask_prepBack (r : Nat) (l : List (Nat × Nat)) : ∀ s : State,
    s.ownTask r Task.undrafted [.tasks, .xl, .cnt, .funcs, .out, .objs] (s.prepBack r l).1 := by
  induction l with
  | nil => exact fun s => State.ownTask_refl s _
  | cons e l ih =>
    obtain ⟨n, pg⟩ := e
    intro s
    rw [State.prepBack]
    split
    · exact ih s
    · split
      · exact ih s
      · have h : ∀ sp g x, s.tryPage (.op r (s.task r).gen 64) sp g true = x →
            s.ownTask r Task.undrafted [.tasks, .xl, .cnt, .funcs, .out, .objs] x.1 := fun sp g x hx =>
          hx ▸ State.ownTask_of_only (State.only_tryPage s _ sp g true)
        split
        · next u _ heq => exact State.ownTask_trans (h _ _ _ heq) (ih u)
        · next u heq => exact h _ _ _ heq
        · next u heq => exact State.ownTask_trans (h _ _ _ heq) (State.ownTask_trans (State.ownTask_dropGran u r n pg) (ih _))

/-! ### The steps of a release -/

theorem State.only_sendPeer (s : State) (v imp off : Nat) (data : List Byte) : s.only (s.sendPeer v imp off data) [.out, .cnt] := by
  unfold State.sendPeer
  split
  · exact State.only_each _ (fun u i => State.only_after (State.only_send _ _).sub (State.only_handshakes u _ _ _).sub) _ s
  · exact State.only_refl s _

/-- The data of remote COPYs leaves and their draft pages are free (06 R174). -/
def State.sendRemotes (s : State) (r : Nat) (l : List (Nat × Stg)) : State :=
  s.each l fun u e => match e.2 with
    | .remote imp off len ps => (u.sendDraft r imp off ps len).freePages ps
    | _ => u

theorem State.ownTask_sendRemotes (s : State) (r : Nat) (l : List (Nat × Stg)) :
    s.ownTask r Task.unmet [.tasks, .out, .cnt, .sto] (s.sendRemotes r l) := by
  refine State.ownTask_each (fun u e => ?_) l s
  split
  · refine State.ownTask_trans (t := u.sendDraft r _ _ _ _) ?_ (State.ownTask_of_only (State.only_freePages _ _))
    unfold State.sendDraft
    exact State.ownTask_ite _ (State.ownTask_of_only (State.only_sendPeer u _ _ _ _))
      (State.ownTask_modTask u _ (by decide) (Task.met_unmet _ _))
  · exact State.ownTask_refl u _

/-- Windows open and close (06 R185). -/
def State.moveWindows (s : State) (r : Nat) (l : List (Nat × Stg)) : State :=
  s.each l fun u e => match e.2 with
    | .openW win obj off len acc g => u.openWin r win obj off len acc g
    | .closeW h => u.closeWin r h
    | _ => u

theorem State.only_openWin (s : State) (r win obj off len acc g : Nat) :
    s.only (s.openWin r win obj off len acc g) [.geq, .cnt, .funcs, .out, .sto, .xl, .freeCtr, .objs] ∧
      s.objsKept (s.openWin r win obj off len acc g) := by
  unfold State.openWin
  dsimp only
  split
  · exact ⟨(State.only_modFunc s _ _).sub, State.objsKept_of_objs rfl⟩
  · exact ⟨State.only_geqNotice s _ _, State.objsKept_geqPost s _ _⟩

theorem State.only_closeWin (s : State) (r : Nat) (h : W64) : s.only (s.closeWin r h) [.funcs] := by
  unfold State.closeWin
  exact State.only_ite _ (State.only_modFunc s _ _) (State.only_refl s _)

theorem State.only_moveWindows (s : State) (r : Nat) (l : List (Nat × Stg)) :
    s.only (s.moveWindows r l) [.geq, .cnt, .funcs, .out, .sto, .xl, .freeCtr, .objs] ∧ s.objsKept (s.moveWindows r l) := by
  refine ⟨State.only_each _ (fun u e => ?_) l s, State.each_keeps (P := s.objsKept) (fun u e hu => ?_) l s (State.objsKept_refl s)⟩
  · split
    · exact (State.only_openWin u r _ _ _ _ _ _).1
    · exact (State.only_closeWin u r _).sub
    · exact State.only_refl u _
  · split
    · exact State.objsKept_trans hu (State.only_openWin u r _ _ _ _ _ _).2
    · exact State.objsKept_trans hu (State.objsKept_of_objs (State.only_closeWin u r _ .objs (by decide)))
    · exact hu

/-- Signals leave (12 R347). -/
def State.releaseSigs (s : State) (r : Nat) (l : List (Nat × Stg)) : State :=
  s.each l fun u e => match e.2 with
    | .sig h v => u.releaseSig r none h v
    | _ => u

/-- A signal to a local waypoint (12 R336). -/
def isLocalSig (e : Nat × Stg) : Bool := match e.2 with
  | .sig h _ => !bit h 47
  | _ => false

/-- The local signals among staged effects, as the Waypoint Store queues them for the task `t` of record `r` (12 R341). -/
def Task.localSigs (t : Task) (r : Nat) (l : List (Nat × Stg)) : List (W64 × W64 × SigSrc) := l.filterMap fun e => match e.2 with
  | .sig h x => if bit h 47 then none else some (h, x, .task r t.gen t.fk none)
  | _ => none

theorem State.only_releaseSig (s : State) (r : Nat) (slot : Option Nat) (h v : W64) :
    s.only (s.releaseSig r slot h v) [.out, .cnt, .wps] := by
  unfold State.releaseSig
  dsimp only
  refine State.only_ite _ ?_ (State.only_modWps s _).sub
  split
  · exact State.only_after (State.only_send _ _).sub (State.only_handshakes s _ _ _).sub
  · exact State.only_refl s _

theorem State.only_releaseSigs (s : State) (r : Nat) (l : List (Nat × Stg)) : s.only (s.releaseSigs r l) [.out, .cnt, .wps] := by
  refine State.only_each _ (fun u e => ?_) l s
  split
  · exact State.only_releaseSig u r _ _ _
  · exact State.only_refl u _

/-- The local signals join the Waypoint Store's queue in their order; remote ones do not. -/
theorem State.releaseSigs_sigq (r : Nat) (l : List (Nat × Stg)) : ∀ s : State,
    (s.releaseSigs r l).wps.sigq = s.wps.sigq ++ (s.task r).localSigs r l := by
  induction l with
  | nil => exact fun s => (List.append_nil _).symm
  | cons e l ih =>
    obtain ⟨i, x⟩ := e
    intro s
    cases x with
    | sig h v =>
      refine (ih (s.releaseSig r none h v)).trans ?_
      have ht : (s.releaseSig r none h v).task r = s.task r :=
        State.task_of (State.only_releaseSig s r none h v .tasks (by decide)) r
      rw [ht]
      cases hb : bit h 47 with
      | true =>
        have hw : (s.releaseSig r none h v).wps = s.wps := by
          unfold State.releaseSig
          dsimp only
          rw [if_pos hb]
          split <;> rfl
        simp [hw, Task.localSigs, hb]
      | false =>
        have hw : (s.releaseSig r none h v).wps.sigq = s.wps.sigq ++ [(h, v, .task r (s.task r).gen (s.task r).fk none)] := by
          unfold State.releaseSig
          simp [hb]
        simp [hw, Task.localSigs, hb]
    | _ => exact ih s

theorem Task.localSigs_length (t : Task) (r : Nat) (l : List (Nat × Stg)) : (l.filter isLocalSig).length = (t.localSigs r l).length := by
  induction l with
  | nil => rfl
  | cons e l ih =>
    obtain ⟨i, x⟩ := e
    unfold Task.localSigs at ih ⊢
    cases x with
    | sig h v => cases hb : bit h 47 <;> simp [isLocalSig, hb, ih]
    | _ => simpa [isLocalSig] using ih

/-- The pins of a task that has committed are its task's no more (06 R183). -/
def State.keepPins (s : State) (r : Nat) (t : Task) : State :=
  s.modPart t.part fun p => { p with pins := p.pins.map fun x => if x.task == some (r, t.gen) then { x with task := none } else x }

/-- A record whose release has been carried out: what it staged is gone, but for its ENQUEUEs (04 R112). -/
def Task.afterRelease (l : List (Nat × Stg)) (n : Nat) (t : Task) : Task :=
  { t with released := true, sigs := n, staged := l.filter fun e => match e.2 with
    | .enq .. => true
    | _ => false }

/-- A release, once its translations are held, step by step (04 R112). -/
theorem State.releaseNow_eq (s : State) (r : Nat) : s.releaseNow r =
    let t := s.task r
    let l := sortIss t.staged
    let x := s.publishAll r t.pubs
    ((((((x.1.modTask r (Task.met x.2 (if x.2 = 0x17 then s.badAmong (t.hostDrafts.flatMap Draft.granLocs) else 0))).sendRemotes r
      l).moveWindows r l).releaseSigs r l).keepPins r t).modTask r (Task.afterRelease l (l.filter isLocalSig).length)) := rfl

/-- What a release does once its translations are held (04 R112): the drafts are settled, the local signals are on their way in
issue order, and of what was staged the ENQUEUEs stay. -/
theorem State.releaseNow_spec (s : State) (r : Nat) :
    let u := s.releaseNow r
    let t := s.task r
    let l := sortIss t.staged
    s.only u releaseParts ∧ (∀ q, q ≠ r → u.task q = s.task q) ∧
    (∃ x : Task, x.unmet = { t.unmet with drafts := [] } ∧ u.task r = x.afterRelease l (t.localSigs r l).length) ∧
    u.wps.sigq = s.wps.sigq ++ t.localSigs r l ∧
    ∀ n, u.obj n = (t.drafts.filter fun d => d.enters t.pubs n).foldl Obj.publish (s.obj n) := by
  have hp := State.only_publishAll s r (s.task r).pubs
  have hpt : ∀ q, (s.publishAll r (s.task r).pubs).1.task q = (s.modTask r fun t => { t with drafts := [] }).task q :=
    State.task_of (State.publishAll_tasks s r _)
  have hpo := State.publishAll_obj s r (s.task r).pubs
  rw [State.releaseNow_eq]
  dsimp only
  rw [Task.localSigs_length (s.task r) r]
  generalize (if (s.publishAll r (s.task r).pubs).2 = 0x17 then s.badAmong ((s.task r).hostDrafts.flatMap Draft.granLocs) else 0) = bad
  generalize s.publishAll r (s.task r).pubs = x at *
  have hm : x.1.ownTask r Task.unmet releaseParts (x.1.modTask r (Task.met x.2 bad)) :=
    State.ownTask_modTask x.1 _ (by decide) (Task.met_unmet _ _)
  have hmo : x.1.objsKept (x.1.modTask r (Task.met x.2 bad)) := State.objsKept_of_objs rfl
  have hmw : (x.1.modTask r (Task.met x.2 bad)).wps = s.wps := hp .wps (by decide)
  generalize x.1.modTask r (Task.met x.2 bad) = a at *
  generalize sortIss (s.task r).staged = l at *
  have hr := State.ownTask_sendRemotes a r l
  generalize a.sendRemotes r l = b at *
  have hw := State.only_moveWindows b r l
  generalize b.moveWindows r l = c at *
  have hs := State.only_releaseSigs c r l
  have hq := State.releaseSigs_sigq r l c
  generalize c.releaseSigs r l = d at *
  have hc : x.1.ownTask r Task.unmet releaseParts c :=
    State.ownTask_trans hm (State.ownTask_trans hr.mono (State.ownTask_of_only hw.1))
  obtain ⟨only, other, own⟩ := State.ownTask_trans hc (State.ownTask_of_only hs)
  have drafted : (x.1.task r).unmet = { (s.task r).unmet with drafts := [] } := by
    rw [hpt, State.modTask_task_self]
    rfl
  have sigs : (c.task r).localSigs r l = (s.task r).localSigs r l := by
    have := congrArg (fun t => Task.localSigs t r l) (hc.2.2.trans drafted)
    exact this
  have kept : x.1.objsKept d := State.objsKept_trans hmo (State.objsKept_trans (State.objsKept_of_objs (hr.1 .objs (by decide)))
    (State.objsKept_trans hw.2 (State.objsKept_of_objs (hs .objs (by decide)))))
  have sigq : d.wps.sigq = s.wps.sigq ++ (s.task r).localSigs r l := by
    rw [hq, sigs, show c.wps = s.wps from (hw.1 .wps (by decide)).trans ((hr.1 .wps (by decide)).trans hmw)]
  refine ⟨?_, fun q hne => ?_, ⟨d.task r, own.trans drafted, ?_⟩, sigq, fun n => ?_⟩
  · exact State.only_after (State.only_modTask _ _ _).sub (State.only_after (State.only_modPart d _ _).sub
      (State.only_after only hp.sub))
  · rw [State.modTask_task_ne _ _ _ hne, State.keepPins, State.modPart_task, other q hne, hpt, State.modTask_task_ne _ _ _ hne]
  · rw [State.modTask_task_self]
    rfl
  · rw [State.modTask_obj, State.keepPins, State.modPart_obj, State.obj_of_kept kept, hpo]

/-- A task without what its release makes of it. -/
def Task.unreleased (t : Task) : Task := { t.undrafted with released := false, sigs := 0, staged := [] }

theorem Task.afterRelease_unreleased (t : Task) (l : List (Nat × Stg)) (n : Nat) :
    (t.afterRelease l n).unreleased = t.unmet.unreleased := rfl

theorem Task.unmet_unreleased (t : Task) : Task.unreleased { t.unmet with drafts := [] } = t.unreleased := rfl

/-- A release, carried out or not, changes of its task only what it must (04 R112). -/
theorem State.ownTask_release (s : State) (r : Nat) : s.ownTask r Task.unreleased releaseParts (s.release r) := by
  unfold State.release
  dsimp only
  split
  · exact State.ownTask_refl s _
  · have h := State.ownTask_prepBack r (s.task r).backPages s
    split
    · next u heq =>
      rw [heq] at h
      exact h.mono
    · next u heq =>
      rw [heq] at h
      obtain ⟨only, other, ⟨x, hx, htask⟩, -⟩ := State.releaseNow_spec u r
      refine State.ownTask_trans (t := u) h.mono ⟨only, other, ?_⟩
      rw [htask, Task.afterRelease_unreleased, hx, Task.unmet_unreleased]

/-- Without host pages to write back a release is carried out at once. -/
theorem State.release_eq (s : State) (r : Nat) (hr : (s.task r).released = false) (h : (s.task r).backPages = []) :
    s.release r = s.releaseNow r := by
  unfold State.release
  dsimp only
  rw [hr, h]
  rfl

/-! ### The end of a segment -/

/-- A thread that stands at the end of a segment with every slot free ends it (04 R108). -/
theorem State.endSeg_ready (s : State) (r opc steps : Nat) (w : W128) (v : W64) (chk : W128 → Bool)
    (k : W64 → Bool → State → State) (h : s.ready r w = true) (hi : (s.task r).idle = true) (hd : opcodeDefined opc = true)
    (ho : opcodeOf w = opc) (hc : chk w = true) (hv : (if opc = 0x51 then some 0 else (s.task r).src (fld w 113 107)) = some v) :
    s.endSeg r opc steps chk k = k v (bit w 106) (s.issued r w steps ((s.task r).ctx.pc + 1) none 0) := by
  unfold State.endSeg
  rw [State.issue_ready s r opc w chk _ _ h hd ho hc rfl]
  simp only [hi, Bool.not_true, Bool.false_eq_true, if_false, hv]

/-- A task as it moves to COMMITTING past the word at which it stood (01 R16; 04 R112). -/
def Task.ended (t : Task) (e : Ending) (v : W64) (b : Bool) : Task :=
  { t.at' (t.ctx.pc + 1) with st := .committing, ending := e, summary := v, wantRec := b, thread := none, got := [], released := false }

/-- The word has been issued and the record moves to COMMITTING. -/
def State.endAt (s : State) (r : Nat) (w : W128) (steps : Nat) (e : Ending) (v : W64) (b : Bool) : State :=
  (s.issued r w steps ((s.task r).ctx.pc + 1) none 0).toCommitting r e v b

theorem State.only_dropBuf (s : State) (r gen : Nat) : s.only (s.dropBuf r gen) [.rbuf] := by
  intro f hf
  cases f <;> first | rfl | simp at hf

theorem State.endAt_spec (s : State) (r : Nat) (w : W128) (steps : Nat) (e : Ending) (v : W64) (b : Bool) :
    s.only (s.endAt r w steps e v b) [.tasks, .cnt, .funcs, .freeCtr, .rbuf] ∧
    (s.endAt r w steps e v b).task r = (s.task r).ended e v b ∧ ∀ q, q ≠ r → (s.endAt r w steps e v b).task q = s.task q := by
  have hi := State.only_issued s r w steps ((s.task r).ctx.pc + 1) none 0
  have ht := State.issued_task s r w steps ((s.task r).ctx.pc + 1) none 0
  have hn := fun q => State.issued_task_ne s r w steps ((s.task r).ctx.pc + 1) none 0 (q := q)
  unfold State.endAt State.toCommitting
  generalize s.issued r w steps ((s.task r).ctx.pc + 1) none 0 = u at *
  have hb : ∀ q, (u.dropBuf r (u.task r).gen).task q = u.task q := fun q => rfl
  refine ⟨State.only_after (State.only_modTask _ _ _).sub (State.only_after (State.only_dropBuf u _ _).sub hi.sub), ?_, fun q hq => ?_⟩
  · rw [State.modTask_task_self, hb, ht]
    rfl
  · rw [State.modTask_task_ne _ _ _ hq, hb, hn q hq]

/-! ### The published objects -/

/-- A draft of the task that a staged PUBLISH names (06 R164). -/
def Task.publishes' (t : Task) (d : Draft) : Prop :=
  d ∈ t.drafts ∧ d.lost = false ∧ ∃ g ∈ t.pubs, d.meets g.1 g.2.1 g.2.2 = true

theorem Task.mem_enters (t : Task) (n : Nat) (d : Draft) :
    d ∈ (t.drafts.filter fun d => d.enters t.pubs n) ↔ t.publishes' d ∧ d.obj = n ∧ d.kind ≠ .host := by
  simp [Task.publishes', Draft.enters, and_assoc]

/-- What publication makes of the objects (06 R164 to R166; 11 R304, R309): a named draft of a device object becomes an
extent, as far as the drafts do not meet; no other extent is new, and an object without a named draft stays. -/
theorem published_objects (t : Task) (o u : Nat → Obj)
    (hu : ∀ n, u n = (t.drafts.filter fun d => d.enters t.pubs n).foldl Obj.publish (o n))
    (hp : t.drafts.Pairwise fun a b => a.obj = b.obj →
      a.reach (o a.obj).slotPg ≤ b.off ∨ b.reach (o b.obj).slotPg ≤ a.off) :
    (∀ d, t.publishes' d → d.kind ≠ .host → 0 < d.extLen → ∃ e ∈ (u d.obj).exts,
      e.off = d.off ∧ e.len = d.extLen ∧ e.store = .pages d.own ∧
      ((u d.obj).isHost = false → d.off + d.extLen ≤ (u d.obj).publishedPg)) ∧
    (∀ n, ∀ e ∈ (u n).exts, e ∈ (o n).exts ∨
      ∃ d, t.publishes' d ∧ d.obj = n ∧ e.off = d.off ∧ e.len = d.extLen ∧ e.store = .pages d.own) ∧
    ∀ n, (∀ d, t.publishes' d → d.obj ≠ n) → u n = o n := by
  refine ⟨fun d hd hk _ => ?_, fun n e he => ?_, fun n hn => ?_⟩
  · have apart : (t.drafts.filter fun x => x.enters t.pubs d.obj).Pairwise fun a b =>
        a.reach (o d.obj).slotPg ≤ b.off ∨ b.reach (o d.obj).slotPg ≤ a.off := by
      refine (hp.filter _).imp_of_mem fun {a b} ha hb h => ?_
      obtain ⟨-, ea, -⟩ := (t.mem_enters d.obj a).mp ha
      obtain ⟨-, eb, -⟩ := (t.mem_enters d.obj b).mp hb
      rw [ea, eb] at h
      exact h rfl
    have hin : d.ext ∈ (u d.obj).exts :=
      hu d.obj ▸ Obj.ext_mem_publish_fold _ _ apart d ((t.mem_enters d.obj d).mpr ⟨hd, rfl, hk⟩)
    exact ⟨d.ext, hin, rfl, rfl, rfl, fun h => Obj.le_publishedPg _ h _ hin⟩
  · rw [hu] at he
    rcases Obj.mem_publish_fold _ _ _ he with h | ⟨d, hd, rfl⟩
    · exact .inl h
    · obtain ⟨hd, ho, -⟩ := (t.mem_enters n d).mp hd
      exact .inr ⟨d, hd, ho, rfl, rfl, rfl⟩
  · have none : (t.drafts.filter fun d => d.enters t.pubs n) = [] := by
      refine List.eq_nil_iff_forall_not_mem.mpr fun d hd => ?_
      obtain ⟨hd, ho, -⟩ := (t.mem_enters n d).mp hd
      exact hn d hd ho
    rw [hu, none]
    rfl

/-! ### COMMIT and YIELD -/

/-- A command that ends its segment with a release: how its record stands, and what it has released where no host page needs a
write-back. -/
theorem done_release_spec (s : State) (r : Nat) (w : W128) (steps : Nat) (e : Ending) (v : W64) (b : Bool) :
    let t := s.task r
    let l := sortIss t.staged
    ∃ u, done s ((s.endAt r w steps e v b).release r) = .next u ∧ (u.task r).unreleased = (t.ended e v b).unreleased ∧
    (t.backPages = [] → (u.task r).released = true ∧ (u.task r).drafts = [] ∧
      (u.task r).staged = (l.filter fun e => match e.2 with
        | .enq .. => true
        | _ => false) ∧
      (u.task r).sigs = (t.localSigs r l).length ∧ u.wps.sigq = s.wps.sigq ++ t.localSigs r l ∧
      ∀ n, u.obj n = (t.drafts.filter fun d => d.enters t.pubs n).foldl Obj.publish (s.obj n)) ∧
    (∀ q, q ≠ r → u.task q = s.task q) ∧ s.only u releaseParts := by
  obtain ⟨only, self, others⟩ := State.endAt_spec s r w steps e v b
  generalize s.endAt r w steps e v b = x at *
  obtain ⟨only', others', own⟩ := State.ownTask_release x r
  obtain ⟨u, hu, -, -, ho, fix⟩ := done_spec s (x.release r)
  have ht : ∀ q, u.task q = (x.release r).task q := State.task_of (ho .tasks (by decide))
  refine ⟨u, hu, ?_, fun hb => ?_, fun q hq => ?_, fix _ (by decide) (State.only_after only' only.sub)⟩
  · rw [ht, own, self]
  · have he : x.release r = x.releaseNow r := State.release_eq x r (by rw [self]; rfl) (by rw [self]; exact hb)
    obtain ⟨-, -, ⟨y, hy, hrel⟩, hq, hobj⟩ := State.releaseNow_spec x r
    rw [self] at hy hrel hq hobj
    rw [he] at ht ho
    rw [ht, hrel]
    refine ⟨rfl, congrArg Task.drafts hy, rfl, rfl, ?_, fun n => ?_⟩
    · rw [ho .wps (by decide), hq, only .wps (by decide)]
      rfl
    · rw [State.obj_of (ho .objs (by decide)), hobj, State.obj_of (only .objs (by decide))]
      rfl
  · rw [ht, others' q hq, others q hq]

/-! ### ABORT -/

/-- A staged ENQUEUE of a task of function `fk` to the queue with key `k` (04 R125). -/
def stagesEnq (fk k : Nat) (e : Nat × Stg) : Bool := match e.2 with
  | .enq q .. => qkey fk q == k
  | _ => false

/-- One staged effect that is given up: an ENQUEUE returns its ring-slot credit, a remote COPY its draft pages (04 R115). -/
def State.dropStg (s : State) (fk : Nat) (e : Nat × Stg) : State := match e.2 with
  | .enq q .. => s.modQueue (qkey fk q) (Queue.give 1)
  | .remote _ _ _ ps => s.freePages ps
  | _ => s

theorem State.only_dropStg (s : State) (fk : Nat) (e : Nat × Stg) : s.only (s.dropStg fk e) [.queues, .sto] := by
  unfold State.dropStg
  split
  · exact (State.only_modQueue s _ _).sub
  · exact (State.only_freePages s _).sub
  · exact State.only_refl s _

theorem State.dropStg_queue (s : State) (fk : Nat) (e : Nat × Stg) (k : Nat) : (s.dropStg fk e).queue k =
    { s.queue k with credHeld := (s.queue k).credHeld - if stagesEnq fk k e then 1 else 0 } := by
  obtain ⟨i, x⟩ := e
  cases x with
  | enq q pa len cbp cb =>
    have he : s.dropStg fk (i, .enq q pa len cbp cb) = s.modQueue (qkey fk q) (Queue.give 1) := rfl
    rw [he, State.modQueue_queue]
    by_cases h : k = qkey fk q
    · simp [h, stagesEnq, Queue.give]
    · simp [h, Ne.symm h, stagesEnq]
  | remote imp off len ps => exact State.queue_of (State.only_freePages s ps .queues (by decide)) k
  | _ => rfl

theorem State.each_dropStg_queue (fk k : Nat) (l : List (Nat × Stg)) : ∀ s : State,
    (s.each l fun u e => u.dropStg fk e).queue k =
      { s.queue k with credHeld := (s.queue k).credHeld - (l.filter (stagesEnq fk k)).length } := by
  induction l with
  | nil => exact fun s => rfl
  | cons e l ih =>
    intro s
    refine (ih (s.dropStg fk e)).trans ?_
    rw [State.dropStg_queue, List.filter_cons]
    split
    · simp only [List.length_cons, Nat.sub_sub, Nat.add_comm]
    · rfl

theorem State.dropStaged_eq (s : State) (r : Nat) : s.dropStaged r =
    (s.modTask r fun t => { t with staged := [] }).each (s.task r).staged fun u e => u.dropStg (s.task r).fk e := rfl

theorem State.only_dropDrafts (s : State) (r : Nat) : s.only (s.dropDrafts r) [.tasks, .sto] :=
  State.only_after (State.only_freePages _ _).sub (State.only_modTask s _ _).sub

theorem State.dropDrafts_tasks (s : State) (r : Nat) : (s.dropDrafts r).tasks = (s.modTask r fun t => { t with drafts := [] }).tasks :=
  State.only_freePages _ _ .tasks (by decide)

/-- What ABORT does at its end: drafts, staged effects and pins are given up (04 R114; 05 R155). -/
def State.abortEnd (s : State) (r : Nat) : State :=
  (((s.dropStaged r).dropDrafts r).dropPins r).modTask r fun t => { t with released := true }

theorem State.abortEnd_spec (s : State) (r : Nat) :
    s.only (s.abortEnd r) [.tasks, .queues, .sto, .parts] ∧
    (s.abortEnd r).task r = { s.task r with staged := [], drafts := [], released := true } ∧
    (∀ q, q ≠ r → (s.abortEnd r).task q = s.task q) ∧
    ∀ k, (s.abortEnd r).queue k =
      { s.queue k with credHeld := (s.queue k).credHeld - ((s.task r).staged.filter (stagesEnq (s.task r).fk k)).length } := by
  have hs : (s.modTask r fun t => { t with staged := [] }).only (s.dropStaged r) [.queues, .sto] :=
    State.dropStaged_eq s r ▸ State.only_each _ (fun u e => State.only_dropStg u _ e) _ _
  have hq := fun k => State.each_dropStg_queue (s.task r).fk k (s.task r).staged (s.modTask r fun t => { t with staged := [] })
  rw [← State.dropStaged_eq] at hq
  unfold State.abortEnd State.dropPins
  generalize s.dropStaged r = a at *
  have hst : ∀ q, a.task q = (s.modTask r fun t => { t with staged := [] }).task q := State.task_of (hs .tasks (by decide))
  have hd := State.only_dropDrafts a r
  have hdt : ∀ q, (a.dropDrafts r).task q = (a.modTask r fun t => { t with drafts := [] }).task q :=
    State.task_of (State.dropDrafts_tasks a r)
  generalize a.dropDrafts r = b at *
  refine ⟨?_, ?_, fun q hne => ?_, fun k => ?_⟩
  · exact State.only_after (State.only_modTask _ _ _).sub (State.only_after (State.only_modPart _ _ _).sub
      (State.only_after hd.sub (State.only_after hs.sub (State.only_modTask s _ _).sub)))
  · rw [State.modTask_task_self, State.modPart_task, hdt, State.modTask_task_self, hst, State.modTask_task_self]
  · rw [State.modTask_task_ne _ _ _ hne, State.modPart_task, hdt, State.modTask_task_ne _ _ _ hne, hst, State.modTask_task_ne _ _ _ hne]
  · rw [State.modTask_queue, State.modPart_queue, State.queue_of (hd .queues (by decide)), hq]
    rfl

/-! ### The statement -/

/-- How a record stands whose segment has ended. -/
theorem Task.ended_fields {t u : Task} {e : Ending} {v : W64} {b : Bool} (h : u.unreleased = (t.ended e v b).unreleased) :
    u.st = .committing ∧ u.ending = e ∧ u.summary = v ∧ u.wantRec = b ∧ u.thread = none ∧ u.ctx.pc = t.ctx.pc + 1 ∧
      u.gen = t.gen ∧ u.kind = t.kind ∧ u.job = t.job := by
  have same : ∀ {α : Type} (g : Task → α), g u.unreleased = g (t.ended e v b).unreleased := fun g => congrArg g h
  exact ⟨same Task.st, same Task.ending, same Task.summary, same Task.wantRec, same Task.thread, same fun t => t.ctx.pc,
    same Task.gen, same Task.kind, same Task.job⟩

/-- Settles O20: COMMIT and YIELD release, ABORT gives up, and the three leave their record as its end needs it. -/
theorem commitYieldAbort : Obligations.CommitYieldAbort := by
  intro r w v s h hi
  dsimp only
  refine ⟨fun ho hc hv => ?_, fun ho hz => ?_, fun ho hc hv => ?_⟩
  · have he : exec (.commit r) s = done s ((s.endAt r w 4 .commit v (bit w 106)).release r) :=
      congrArg (done s) (State.endSeg_ready s r 0x52 4 w v chkT _ h hi rfl ho hc hv)
    obtain ⟨u, hu, own, rel, others, frame⟩ := done_release_spec s r w 4 .commit v (bit w 106)
    refine ⟨u, he.trans hu, Task.ended_fields own, fun hb => ?_, others, frame⟩
    obtain ⟨h1, h2, h3, h4, h5, h6⟩ := rel hb
    exact ⟨h1, h2, h3, h4, h5, published_objects (s.task r) s.obj u.obj h6⟩
  · have he : exec (.yield r) s = done s ((s.endAt r w 24 .yield 0 false).release r) :=
      congrArg (done s) (State.endSeg_ready s r 0x51 24 w 0 _ _ h hi rfl ho (by simp [hz]) rfl)
    obtain ⟨u, hu, own, rel, others, frame⟩ := done_release_spec s r w 24 .yield 0 false
    refine ⟨u, he.trans hu, Task.ended_fields own, fun hb => ?_, others, frame⟩
    obtain ⟨h1, h2, h3, h4, h5, h6⟩ := rel hb
    exact ⟨h1, h2, h3, h4, h5, published_objects (s.task r) s.obj u.obj h6⟩
  · have he : exec (.abort r) s = done s ((s.endAt r w 2 .abort v (bit w 106)).abortEnd r) :=
      congrArg (done s) (State.endSeg_ready s r 0x53 2 w v chkT _ h hi rfl ho hc hv)
    obtain ⟨only, self, others⟩ := State.endAt_spec s r w 2 .abort v (bit w 106)
    generalize s.endAt r w 2 .abort v (bit w 106) = x at *
    obtain ⟨only', self', others', queues⟩ := State.abortEnd_spec x r
    obtain ⟨u, hu, -, -, ho, fix⟩ := done_spec s (x.abortEnd r)
    have ht : ∀ q, u.task q = (x.abortEnd r).task q := State.task_of (ho .tasks (by decide))
    have task : u.task r = { (s.task r).ended .abort v (bit w 106) with staged := [], drafts := [], released := true } := by
      rw [ht, self', self]
    refine ⟨u, he.trans hu, Task.ended_fields (by rw [task]; rfl), by rw [task], by rw [task], fun k => ?_, fun q hq => ?_,
      fix _ (by decide) (State.only_after only'.sub only.sub), State.objsKept_of_objs ?_⟩
    · rw [State.queue_of (ho .queues (by decide)), queues, self, State.queue_of (only .queues (by decide))]
      rfl
    · rw [ht, others' q hq, others q hq]
    · rw [ho .objs (by decide), only' .objs (by decide), only .objs (by decide)]

end Sys2Proof.Machine
end

section
/-! Steps, power-on, and the Scheduler's hold on tasks: start, park, resume, suspend (04 R98 to R102, R130; 12 R348). -/

namespace Sys2Proof.Machine

set_option Elab.async false

/-- Settles O1: a step is `exec` of the front command by its definition. -/
theorem stepRunsFrontCommand : Obligations.StepRunsFrontCommand := by
  intro c rest s
  rfl

/-- Settles O3: each part of the reset state holds its default. -/
theorem resetIsInert : Obligations.ResetIsInert := by
  have func : ∀ v, State.reset.func v = {} := fun _ => rfl
  have part : ∀ n, State.reset.part n = {} := fun _ => rfl
  have clear : ∀ i, bit (0#64) i = false := fun i => by simp [bit]
  refine ⟨rfl, rfl, rfl, rfl, rfl, rfl, fun _ => rfl, fun n => ?_, fun _ => rfl, fun v => ?_, fun _ => rfl, rfl, rfl, rfl, rfl⟩
  · simp [State.enabled, part, clear]
  · simp [State.bound, func, clear]

/-! ### The order in which threads take tasks -/

theorem Task.before_self (a : Task) : a.before a = false := by
  simp [Task.before]

/-- No task comes before another that comes before it, and coming not before is transitive. -/
theorem Task.before_asymm {a b : Task} (h : a.before b = true) : b.before a = false := by
  unfold Task.before at *
  cases ha : a.front <;> cases hb : b.front <;> simp_all <;> omega

theorem Task.not_before_trans {a b c : Task} (h : a.before b = false) (g : b.before c = false) : a.before c = false := by
  unfold Task.before at *
  cases ha : a.front <;> cases hb : b.front <;> cases hc : c.front <;> simp_all <;> omega

theorem firstTask_cons_ne_none (x : Nat × Task) (l : List (Nat × Task)) : firstTask (x :: l) ≠ none := by
  rw [firstTask]
  split
  · exact Option.some_ne_none x
  · split <;> exact Option.some_ne_none _

theorem firstTask_eq_none {l : List (Nat × Task)} (h : firstTask l = none) : l = [] := by
  cases l with
  | nil => rfl
  | cons x l => exact absurd h (firstTask_cons_ne_none x l)

/-- The first task of a list is in it, and none of the list comes before it. -/
theorem firstTask_spec (l : List (Nat × Task)) : ∀ x, firstTask l = some x → x ∈ l ∧ ∀ e ∈ l, e.2.before x.2 = false := by
  induction l with
  | nil => exact fun x h => nomatch h
  | cons a l ih =>
    intro x h
    rw [firstTask] at h
    split at h
    · next hl =>
      obtain rfl := firstTask_eq_none hl
      obtain rfl := Option.some.inj h
      exact ⟨List.mem_singleton_self a, fun e he => by rw [List.mem_singleton.mp he]; exact Task.before_self _⟩
    · next y hl =>
      obtain ⟨hy, hmin⟩ := ih y hl
      split at h
      · next hb =>
        obtain rfl := Option.some.inj h
        refine ⟨List.mem_cons_of_mem a hy, fun e he => ?_⟩
        rcases List.mem_cons.mp he with rfl | he
        · exact Task.before_asymm hb
        · exact hmin e he
      · next hb =>
        obtain rfl := Option.some.inj h
        refine ⟨List.mem_cons_self .., fun e he => ?_⟩
        rcases List.mem_cons.mp he with rfl | he
        · exact Task.before_self _
        · exact Task.not_before_trans (hmin e he) (Bool.eq_false_of_not_eq_true hb)

/-! ### Task state -/

theorem State.only_unpark (s : State) (r : Nat) : s.only (s.unpark r) [.tasks, .parts, .sto] := by
  unfold State.unpark
  dsimp only
  split
  · exact State.only_refl s _
  · exact State.only_ite _
      (State.only_after (State.only_freeUnit _ _).sub (State.only_after (State.only_modTask _ _ _).sub (State.only_modPart s _ _).sub))
      (State.only_after (State.only_modTask _ _ _).sub (State.only_modPart s _ _).sub)

theorem State.unpark_of_none (s : State) (r : Nat) (h : (s.task r).parked = none) : s.unpark r = s := by
  unfold State.unpark
  dsimp only
  rw [h]

/-- A task whose place in task state is free stands as before, without that place (04 R102). -/
theorem State.unpark_tasks (s : State) (r : Nat) :
    (s.unpark r).task r = { s.task r with parked := none } ∧ ∀ q, q ≠ r → (s.unpark r).task q = s.task q := by
  unfold State.unpark
  dsimp only
  split
  · next h => exact ⟨by rw [← h], fun _ _ => rfl⟩
  · next k h =>
    generalize hp : s.modPart _ _ = x
    have hx : ∀ q, x.task q = s.task q := fun q => hp ▸ rfl
    have key : ∀ q, (if Tab.get 0 (s.part (s.task r).part).tsUnits k - 1 = 0
        then (x.modTask r fun t => { t with parked := none }).freeUnit k
        else x.modTask r fun t => { t with parked := none }).task q = (x.modTask r fun t => { t with parked := none }).task q := fun q => by
      split <;> rfl
    refine ⟨?_, fun q hq => ?_⟩
    · rw [key, State.modTask_task_self, hx]
    · rw [key, State.modTask_task_ne _ _ _ hq, hx]

/-- Room for a context in partition `n`'s task state (04 R102). -/
def State.hasRoom (s : State) (n : Nat) : Prop := (∃ e ∈ (s.part n).tsUnits, e.2 < 64) ∨ (s.pickUnit n).isSome = true

/-- A context is put in unit `k` of partition `n`'s task state. -/
def State.putContext (s : State) (n k : Nat) : State :=
  s.modPart n fun p => { p with tsUnits := Tab.set 0 p.tsUnits k (Tab.get 0 p.tsUnits k + 1) }

theorem State.putContext_held (s : State) (n k : Nat) :
    Tab.get 0 ((s.putContext n k).part n).tsUnits k = Tab.get 0 (s.part n).tsUnits k + 1 := by
  unfold State.putContext
  rw [State.modPart_part_self]
  exact Tab.get_set_self 0 (s.part n).tsUnits k (Tab.get 0 (s.part n).tsUnits k + 1)

/-- With room for it, a context takes a place in a unit of its partition (04 R102). -/
theorem State.takeContext_spec (s : State) (n : Nat) (h : s.hasRoom n) : ∃ k v, s.takeContext n = some (k, v) ∧
    s.only v [.parts, .sto] ∧ Tab.get 0 (v.part n).tsUnits k = Tab.get 0 (s.part n).tsUnits k + 1 := by
  unfold State.takeContext
  dsimp only
  cases hf : List.find? (fun (e : Nat × Nat) => e.2 < 64) (s.part n).tsUnits with
  | some e => exact ⟨e.1, _, rfl, (State.only_modPart s _ _).sub, State.putContext_held s n e.1⟩
  | none =>
    rcases h with ⟨e, he, hlt⟩ | h
    · exact absurd hlt (by simpa using List.find?_eq_none.mp hf e he)
    · obtain ⟨k, hk⟩ := Option.isSome_iff_exists.mp h
      have ht : s.takeUnits n .taskState 1 = some ([k], s.holdUnit k ⟨n, .taskState, []⟩) := by
        simp only [State.takeUnits, hk]
      rw [ht]
      refine ⟨k, _, rfl, State.only_after (State.only_modPart _ _ _).sub (State.only_holdUnit s _ _).sub, ?_⟩
      exact State.putContext_held (s.holdUnit k ⟨n, .taskState, []⟩) n k

/-! ### Start -/

/-- Settles O21: the first ADMITTED task of the running job starts on the free thread. -/
theorem taskStartTakesFirst : Obligations.TaskStartTakesFirst := by
  intro n th r j x s hj hin hth hx
  obtain ⟨mem, first⟩ := firstTask_spec _ _ hx
  refine ⟨mem, first, ?_⟩
  have he : exec (.taskStart n th) s =
      done s ((s.unpark r).modTask r fun t => { t with st := .running, thread := some th, stall := .none }) := by
    refine congrArg (done s) ?_
    rw [hj]
    simp only [hin, hth, hx]
    rfl
  obtain ⟨self, others⟩ := State.unpark_tasks s r
  obtain ⟨u, hu, -, -, ho, fix⟩ := done_spec s ((s.unpark r).modTask r fun t => { t with st := .running, thread := some th, stall := .none })
  have ht := State.task_of (ho .tasks (by decide))
  refine ⟨u, he.trans hu, ?_, fun q hq => ?_, fix _ (by decide) ?_, fun hp => fix _ (by decide) ?_⟩
  · rw [ht, State.modTask_task_self, self]
  · rw [ht, State.modTask_task_ne _ _ _ hq, others q hq]
  · exact State.only_after (State.only_modTask _ _ _).sub (State.only_unpark s r).sub
  · rw [State.unpark_of_none s r hp]
    exact (State.only_modTask s _ _).sub

/-! ### Park, resume, suspend -/

/-- The frame of a task that leaves or takes a thread: its context's place, its lanterns, and counts (04 R102). -/
def parkParts : List Field := [.tasks, .parts, .sto, .wps, .cnt, .funcs]

/-- A task's saved context takes its place, and its route steps count. -/
theorem State.saved_spec (s : State) (r c : Nat) {v : State} (hv : s.only v [.parts, .sto]) :
    let u := (v.noteStall r c).steps r 16
    s.only u [.parts, .sto, .cnt, .funcs] ∧ s.funcsKept u ∧ (∀ q, u.task q = s.task q) ∧ u.parts = v.parts ∧ u.wps = s.wps := by
  have hn := State.only_noteStall v r c
  have hs := State.only_steps (v.noteStall r c) r 16
  have only : s.only ((v.noteStall r c).steps r 16) [.parts, .sto, .cnt, .funcs] :=
    State.only_after hs.sub (State.only_after hn.sub hv.sub)
  refine ⟨only, ?_, State.task_of (only .tasks (by decide)), ?_, only .wps (by decide)⟩
  · exact State.funcsKept_trans (State.funcsKept_of_funcs ((hn .funcs (by decide)).trans (hv .funcs (by decide))))
      (State.funcsKept_steps _ _ _)
  · exact (hs .parts (by decide)).trans (hn .parts (by decide))

/-- The state of a task that has parked (04 R102). -/
def Task.parkedAt (t : Task) (k : Nat) : Task :=
  { t.keepLine with parked := some k, thread := none, stall := .parked, lit := none }

theorem State.park_spec (s : State) (r : Nat) (hi : (s.task r).canIssue = true) (hp : (s.task r).parkable = true)
    (ha : (s.task r).awaited = false) (hr : s.hasRoom (s.task r).part) : ∃ u k, exec (.taskPark r) s = .next u ∧
      u.task r = (s.task r).parkedAt k ∧
      Tab.get 0 (u.part (s.task r).part).tsUnits k = Tab.get 0 (s.part (s.task r).part).tsUnits k + 1 ∧
      u.wps = { s.wps with lans := s.wps.lans ++ [⟨0, 0, .parked r (s.task r).gen⟩] } ∧
      (∀ q, q ≠ r → u.task q = s.task q) ∧ s.only u parkParts ∧ s.funcsKept u := by
  obtain ⟨k, v, hv, ov, held⟩ := State.takeContext_spec s _ hr
  obtain ⟨only, fk, tasks, parts, wps⟩ := State.saved_spec s r Stall.parked.code ov
  have he : exec (.taskPark r) s = done s ((((v.noteStall r Stall.parked.code).steps r 16).modTask r fun t => t.parkedAt k).modWps
      fun w => { w with lans := w.lans ++ [⟨0, 0, .parked r (s.task r).gen⟩] }) := by
    refine congrArg (done s) ?_
    simp only [hi, hp, ha, hv]
    rfl
  generalize (v.noteStall r Stall.parked.code).steps r 16 = w at *
  obtain ⟨u, hu, -, -, ho, fix⟩ := done_spec s ((w.modTask r fun t => t.parkedAt k).modWps
    fun w => { w with lans := w.lans ++ [⟨0, 0, .parked r (s.task r).gen⟩] })
  have ht : ∀ q, u.task q = (w.modTask r fun t => t.parkedAt k).task q := State.task_of (ho .tasks (by decide))
  have hw := ho .wps (by decide)
  refine ⟨u, k, he.trans hu, ?_, ?_, ?_, fun q hq => ?_, fix _ (by decide) ?_, ?_⟩
  · rw [ht, State.modTask_task_self, tasks]
  · rw [State.part_of ((ho .parts (by decide)).trans parts)]
    exact held
  · rw [hw, State.modWps_wps, State.modTask_wps, wps]
  · rw [ht, State.modTask_task_ne _ _ _ hq, tasks]
  · exact State.only_after (State.only_modWps _ _).sub (State.only_after (State.only_modTask _ _ _).sub only.sub)
  · exact State.funcsKept_trans fk (State.funcsKept_of_funcs (ho .funcs (by decide)))

theorem State.park_awaited (s : State) (r : Nat) (ha : (s.task r).awaited = true) : exec (.taskPark r) s = .next s := by
  have he : exec (.taskPark r) s = done s s := by
    refine congrArg (done s) (if_neg ?_)
    simp [ha]
  exact he.trans (done_same s s rfl rfl rfl rfl rfl)

/-- The state of a parked or suspended task that has a thread again (04 R102, R130). -/
def Task.resumedOn (t : Task) (th : Nat) : Task :=
  { t with parked := none, thread := some th, suspended := false, stall := .none, lit := none }

theorem State.resume_spec (s : State) (r th : Nat) (hs : (s.task r).st = .running) (hn : (s.task r).thread = none)
    (hp : (s.task r).parked.isSome = true) (hin : s.inSlice (s.task r).part = true)
    (hj : (s.part (s.task r).part).job = some (s.task r).job) (hf : s.threadFree (s.task r).part th = true)
    (hl : (s.task r).suspended = true ∨ s.litFirst (s.task r) = true) : ∃ u, exec (.taskResume r th) s = .next u ∧
      u.task r = (s.task r).resumedOn th ∧ (∀ q, q ≠ r → u.task q = s.task q) ∧
      s.only u [.tasks, .parts, .sto, .cnt, .funcs] ∧ s.funcsKept u := by
  have he : exec (.taskResume r th) s = done s (((s.unpark r).steps r 16).modTask r fun t =>
      { t with thread := some th, suspended := false, stall := .none, lit := none }) := by
    refine congrArg (done s) (if_pos ?_)
    simp [hs, hn, hp, hin, hj, hf, hl]
  obtain ⟨self, others⟩ := State.unpark_tasks s r
  have hu := State.only_unpark s r
  have ht := State.steps_task (s.unpark r) r 16
  have hst := State.only_steps (s.unpark r) r 16
  have hk := State.funcsKept_steps (s.unpark r) r 16
  generalize (s.unpark r).steps r 16 = w at *
  obtain ⟨u, hx, -, -, ho, fix⟩ := done_spec s (w.modTask r fun t =>
      { t with thread := some th, suspended := false, stall := .none, lit := none })
  have hut := State.task_of (ho .tasks (by decide))
  refine ⟨u, he.trans hx, ?_, fun q hq => ?_, fix _ (by decide) ?_, ?_⟩
  · rw [hut, State.modTask_task_self, ht, self]
    rfl
  · rw [hut, State.modTask_task_ne _ _ _ hq, ht, others q hq]
  · exact State.only_after (State.only_modTask _ _ _).sub (State.only_after hst.sub hu.sub)
  · exact State.funcsKept_trans (State.funcsKept_of_funcs (hu .funcs (by decide)))
      (State.funcsKept_trans hk (State.funcsKept_of_funcs (ho .funcs (by decide))))

/-- The lanterns of record `r` are those of its parked task and of its WAITs. -/
theorem State.mem_dropLanterns (s : State) (r : Nat) (l : Lantern) : l ∈ (s.dropLanterns r).wps.lans ↔
    l ∈ s.wps.lans ∧ ∀ k, l.kind ≠ .wait r k ∧ l.kind ≠ .parked r k := by
  unfold State.dropLanterns
  rw [State.modWps_wps, List.mem_filter]
  refine and_congr_right fun _ => ?_
  cases hk : l.kind with
  | wait q k => simp
  | parked q k => simp
  | slot f k => simp

/-- The state of a task that is suspended with its context in unit `k` (04 R130). -/
def Task.suspendedAt (t : Task) (k : Nat) : Task :=
  { t.rearm.keepLine with parked := some k, suspended := true, thread := none, stall := .parked, lit := none }

/-- A task with a place for its context in unit `k` is suspended: its WAITs are to be armed again, its lanterns are out. -/
theorem State.suspend_spec (s v : State) (r k : Nat) (he : exec (.verkaiSuspend r) s = done s ((v.dropLanterns r).modTask r fun t =>
      { t.rearm.keepLine with suspended := true, thread := none, stall := .parked, lit := none }))
    (self : v.task r = { s.task r with parked := some k }) (others : ∀ q, q ≠ r → v.task q = s.task q)
    (only : s.only v [.tasks, .parts, .sto, .cnt, .funcs]) (fk : s.funcsKept v) : ∃ u, exec (.verkaiSuspend r) s = .next u ∧
      u.task r = (s.task r).suspendedAt k ∧ u.parts = v.parts ∧ u.wps = { s.wps with lans := u.wps.lans } ∧
      (∀ l, l ∈ u.wps.lans ↔ l ∈ s.wps.lans ∧ ∀ k, l.kind ≠ .wait r k ∧ l.kind ≠ .parked r k) ∧
      (∀ q, q ≠ r → u.task q = s.task q) ∧ s.only u parkParts ∧ s.funcsKept u := by
  have hd : v.only (v.dropLanterns r) [.wps] := State.only_modWps v _
  have hw : (v.dropLanterns r).wps = { s.wps with lans := (v.dropLanterns r).wps.lans } := by
    rw [← only .wps (by decide)]
    rfl
  have hm := State.mem_dropLanterns v r
  rw [only .wps (by decide)] at hm
  generalize v.dropLanterns r = w at *
  obtain ⟨u, hu, -, -, ho, fix⟩ := done_spec s (w.modTask r fun t =>
      { t.rearm.keepLine with suspended := true, thread := none, stall := .parked, lit := none })
  have ht := State.task_of (ho .tasks (by decide))
  have huw : u.wps = w.wps := ho .wps (by decide)
  refine ⟨u, he.trans hu, ?_, (ho .parts (by decide)).trans (hd .parts (by decide)), ?_, fun l => ?_, fun q hq => ?_,
    fix _ (by decide) ?_, ?_⟩
  · rw [ht, State.modTask_task_self, State.task_of (hd .tasks (by decide)), self]
    rfl
  · rw [huw]
    exact hw
  · rw [huw]
    exact hm l
  · rw [ht, State.modTask_task_ne _ _ _ hq, State.task_of (hd .tasks (by decide)), others q hq]
  · exact State.only_after (State.only_modTask _ _ _).sub (State.only_after hd.sub only.sub)
  · exact State.funcsKept_trans fk (State.funcsKept_of_funcs ((ho .funcs (by decide)).trans (hd .funcs (by decide))))

/-- Settles O22: park, resume and suspend each move the task's context and change of the task only what their rules name. -/
theorem parkResumeSuspend : Obligations.ParkResumeSuspend := by
  intro r th s
  refine ⟨fun hi hp ha hr => State.park_spec s r hi hp ha hr, fun _ ha => State.park_awaited s r ha,
    fun hs hn hp hin hj hf hl => State.resume_spec s r th hs hn hp hin hj hf hl, fun hs hn hv hd hb hr => ?_⟩
  have noted := State.only_noteStall s r Stall.parked.code
  have nt : ∀ q, (s.noteStall r Stall.parked.code).task q = s.task q := State.task_of (noted .tasks (by decide))
  cases hp : (s.task r).parked with
  | some k =>
    have he : exec (.verkaiSuspend r) s = done s (((s.noteStall r Stall.parked.code).dropLanterns r).modTask r fun t =>
        { t.rearm.keepLine with suspended := true, thread := none, stall := .parked, lit := none }) := by
      refine congrArg (done s) ?_
      simp [hs, hn, hv, hd, hb, hp]
    obtain ⟨u, hu, task, -, wps, lans, rest⟩ := State.suspend_spec s _ r k he (by rw [nt, ← hp]) (fun q _ => nt q) noted.sub
      (State.funcsKept_of_funcs (noted .funcs (by decide)))
    exact ⟨u, hu, ⟨k, task, (fun h => nomatch h), fun _ => rfl⟩, wps, lans, rest⟩
  | none =>
    have room : (s.noteStall r Stall.parked.code).hasRoom (s.task r).part := hr.resolve_left (by simp [hp])
    obtain ⟨k, v, hk, ov, held⟩ := State.takeContext_spec _ _ room
    have hst := State.only_steps v r 16
    have only : s.only (v.steps r 16) [.parts, .sto, .cnt, .funcs] := State.only_after hst.sub (State.only_after ov.sub noted.sub)
    have he : exec (.verkaiSuspend r) s = done s ((((v.steps r 16).modTask r fun t => { t with parked := some k }).dropLanterns r).modTask
        r fun t => { t.rearm.keepLine with suspended := true, thread := none, stall := .parked, lit := none }) := by
      refine congrArg (done s) ?_
      simp [hs, hn, hv, hd, hb, hp, hk]
    have tasks : ∀ q, (v.steps r 16).task q = s.task q := State.task_of (only .tasks (by decide))
    obtain ⟨u, hu, task, parts, wps, lans, rest⟩ := State.suspend_spec s _ r k he
      (by rw [State.modTask_task_self, tasks]) (fun q hq => by rw [State.modTask_task_ne _ _ _ hq, tasks])
      (State.only_after (State.only_modTask _ _ _).sub only.sub)
      (State.funcsKept_trans (State.funcsKept_of_funcs ((ov .funcs (by decide)).trans (noted .funcs (by decide))))
        (State.funcsKept_trans (State.funcsKept_steps v r 16) (State.funcsKept_of_funcs rfl)))
    refine ⟨u, hu, ⟨k, task, fun _ => ?_, fun h => nomatch h⟩, wps, lans, rest⟩
    show Tab.get 0 (u.part _).tsUnits k = _
    rw [State.part_of (parts.trans (hst .parts (by decide)))]
    exact held

end Sys2Proof.Machine
end

section
/-! What the end of a run may reach (04 R115 to R122; 07 R205): one frame for kills, drains of dispatches, and their
records. -/

namespace Sys2Proof.Machine

set_option Elab.async false

/-! ### The frame of a run's end -/

/-- The parts of the state that the end of a run may reach. -/
def reapParts : List Field :=
  [.tasks, .queues, .parts, .ports, .mtus, .objs, .sto, .wps, .xl, .rbuf, .geq, .cnt, .out, .funcs, .freeCtr, .stamp]

/-- A queue without its submissions, records due and ring-slot credits. -/
def Queue.unended (q : Queue) : Queue := { q with subs := [], due := [], credHeld := 0 }
/-- A partition without its dispatches, convoy members, pins and places in task state. -/
def Part.unended (p : Part) : Part := { p with seqr := [], cvy := { p.cvy with members := [], run := none }, pins := [], tsUnits := [] }
/-- A function without its tenant counters and pending vectors. -/
def Func.unended (f : Func) : Func := { f with cnt := [], pend := 0 }
/-- Of the function with key `k`, what the end of a run leaves: only a PF's vectors may become pending. -/
def Func.unendedAs (k : Nat) (f : Func) : Func := if k < 1024 then { f with cnt := [] } else f.unended
/-- A port without its credits and forward channel. -/
def EPort.unended (e : EPort) : EPort := { e with held := 0, fwd := [], lastTag := 0 }

/-- Of the parts that the end of a run may reach, what it leaves as it is. -/
def State.unended (s : State) :
    (Nat → Queue) × (Nat → Part) × (Nat → Func) × (Nat → EPort) × WpStore × Xl × Nat :=
  (fun k => (s.queue k).unended, fun n => (s.part n).unended, fun f => (s.func f).unendedAs f, fun k => (s.eport k).unended,
    { s.wps with lans := [] }, { s.xl with users := [], ents := [], fails := [], pri := [] }, s.objs.next)

/-- A task whose window has lost operations, and that is otherwise as it was. -/
structure Task.fewerOps (t u : Task) : Prop where
  same : { u with win := [] } = { t with win := [] }
  ops : ∀ k, u.op k = none ∨ u.op k = t.op k
  sub : u.win.Sublist t.win

/-- A task without its window. -/
def Task.unwin (t : Task) : Task := { t with win := [] }

/-- A task without what its run holds. -/
def Task.bare (t : Task) : Task :=
  { t with win := [], staged := [], drafts := [], refs := [], parked := none, thread := none, suspended := false
           stall := .none, lit := none, scr := [], lines := [], got := [] }

/-- From `s` to `t` a run of record `r` gives things up: other tasks lose operations alone, of its own task only what `f` erases
changes and no slot is filled; waypoints, and storage units that are free, stay, and no MTU's credits grow. -/
structure State.reaps (r : Nat) (f : Task → Task) (s t : State) : Prop where
  only : s.only t reapParts
  kept : t.unended = s.unended
  others : ∀ q, q ≠ r → (s.task q).fewerOps (t.task q)
  own : f (t.task r) = f (s.task r)
  ops : ∀ k, (s.task r).op k = none → (t.task r).op k = none
  mtus : ∀ m, t.mtuHeld m ≤ s.mtuHeld m
  units : ∀ u, Tab.get none s.sto.units u = none → Tab.get none t.sto.units u = none
  lans : ∀ l ∈ t.wps.lans, l ∈ s.wps.lans

theorem Task.fewerOps_refl (t : Task) : t.fewerOps t := ⟨rfl, fun _ => .inr rfl, List.Sublist.refl _⟩

theorem Task.fewerOps_trans {t u v : Task} (h : t.fewerOps u) (g : u.fewerOps v) : t.fewerOps v := by
  refine ⟨g.same.trans h.same, fun k => ?_, g.sub.trans h.sub⟩
  rcases g.ops k with e | e
  · exact .inl e
  · rcases h.ops k with f | f
    · exact .inl (e.trans f)
    · exact .inr (e.trans f)

theorem Task.fewerOps_none {t u : Task} (h : t.fewerOps u) {k : Nat} (hk : t.op k = none) : u.op k = none := by
  rcases h.ops k with e | e
  · exact e
  · exact e.trans hk

section
variable {r : Nat} {f : Task → Task}

theorem State.reaps.mono {s t : State} (h : s.reaps r f t) (g : Task → Task) (hg : ∀ x, g (f x) = g x := by intro x; rfl) :
    s.reaps r g t :=
  ⟨h.only, h.kept, h.others, (hg _).symm.trans ((congrArg g h.own).trans (hg _)), h.ops, h.mtus, h.units, h.lans⟩

theorem State.reaps_refl (s : State) : s.reaps r f s :=
  ⟨State.only_refl s _, rfl, fun _ _ => Task.fewerOps_refl _, rfl, fun _ h => h, fun _ => le_refl _, fun _ h => h, fun _ h => h⟩

theorem State.reaps_trans {s t u : State} (h : s.reaps r f t) (g : t.reaps r f u) : s.reaps r f u :=
  ⟨State.only_trans h.only g.only, g.kept.trans h.kept, fun q hq => Task.fewerOps_trans (h.others q hq) (g.others q hq),
    g.own.trans h.own, fun k hk => g.ops k (h.ops k hk), fun m => (g.mtus m).trans (h.mtus m),
    fun u hu => g.units u (h.units u hu), fun l hl => h.lans l (g.lans l hl)⟩

theorem State.reaps_ite {s t u : State} (c : Prop) [Decidable c] (h : s.reaps r f t) (g : s.reaps r f u) :
    s.reaps r f (if c then t else u) := by
  split <;> assumption

theorem State.reaps_each {α : Type} {g : State → α → State} (hg : ∀ u a, State.reaps r f u (g u a)) (as : List α) (s : State) :
    s.reaps r f (s.each as g) :=
  State.each_keeps (P := s.reaps r f) (fun u a hu => State.reaps_trans hu (hg u a)) as s (State.reaps_refl s)

theorem State.reaps_foldl {α : Type} {g : State → α → State} (hg : ∀ u a, State.reaps r f u (g u a)) (as : List α) :
    ∀ s : State, s.reaps r f (as.foldl g s) := by
  induction as with
  | nil => exact State.reaps_refl
  | cons a as ih => exact fun s => State.reaps_trans (hg s a) (ih _)

/-- A step that reaches some of these parts only, and leaves of them what the end of a run must. -/
theorem State.reaps_of {s t : State} (only : s.only t reapParts) (kept : t.unended = s.unended)
    (tasks : t.tasks = s.tasks := by rfl) (mtus : t.mtus = s.mtus := by rfl) (units : t.sto.units = s.sto.units := by rfl)
    (lans : t.wps.lans = s.wps.lans := by rfl) : s.reaps r f t := by
  have ht := State.task_of tasks
  refine ⟨only, kept, fun q _ => ?_, by rw [ht], fun k hk => by rw [ht]; exact hk, fun m => (State.mtuHeld_of mtus m).le,
    fun u hu => by rw [units]; exact hu, fun l hl => lans ▸ hl⟩
  rw [ht]
  exact Task.fewerOps_refl _

/-- The parts that hold counts, messages and free values alone. -/
def tallyParts : List Field := [.rbuf, .geq, .cnt, .out, .freeCtr, .stamp]

theorem State.unended_of {s t : State} (hq : t.queues = s.queues) (hp : t.parts = s.parts) (hf : t.funcs = s.funcs)
    (hk : t.ports = s.ports) (hw : t.wps = s.wps) (hx : t.xl = s.xl) (ho : t.objs = s.objs) : t.unended = s.unended := by
  unfold State.unended
  rw [hw, hx, ho]
  simp only [State.queue_of hq, State.part_of hp, State.func_of hf, State.eport_of hk]

/-- Of a step that reaches none of the parts that tenants share, the frame asks nothing. -/
theorem State.reaps_of_only {s t : State} {l : List Field} (h : s.only t l)
    (hl : (l.all fun f => tallyParts.contains f) = true := by decide) : s.reaps r f t := by
  have out : ∀ f, f ∉ tallyParts → f.same s t := h.sub hl
  refine State.reaps_of (State.only_mono out (by decide)) ?_ (out .tasks (by decide)) (out .mtus (by decide)) ?_ ?_
  · exact State.unended_of (out .queues (by decide)) (out .parts (by decide)) (out .funcs (by decide)) (out .ports (by decide))
      (out .wps (by decide)) (out .xl (by decide)) (out .objs (by decide))
  · rw [out .sto (by decide)]
  · rw [out .wps (by decide)]

/-! ### Changes of one part -/

theorem unended_fun {α β : Type} {f : Nat → α} {g : Nat → α} (e : Nat → α → β) (k : Nat) (h : α → α)
    (hg : ∀ j, g j = if j = k then h (f k) else f j) (he : ∀ x, e k (h x) = e k x) : (fun j => e j (g j)) = fun j => e j (f j) := by
  funext j
  rw [hg]
  split
  · next hj => rw [hj, he]
  · rfl

theorem State.reaps_modQueue (s : State) (k : Nat) (g : Queue → Queue) (hg : ∀ q, (g q).unended = q.unended := by intro _; rfl) :
    s.reaps r f (s.modQueue k g) :=
  State.reaps_of ((State.only_modQueue s k g).sub)
    (congrArg (fun f => (f, s.unended.2)) (unended_fun (fun _ => Queue.unended) k g (State.modQueue_queue s k g) hg))

theorem State.reaps_modPart (s : State) (k : Nat) (g : Part → Part) (hg : ∀ q, (g q).unended = q.unended := by intro _; rfl) :
    s.reaps r f (s.modPart k g) :=
  State.reaps_of ((State.only_modPart s k g).sub)
    (congrArg (fun f => (s.unended.1, f, s.unended.2.2)) (unended_fun (fun _ => Part.unended) k g (State.modPart_part s k g) hg))

theorem State.reaps_modFunc (s : State) (k : Nat) (g : Func → Func) (hg : ∀ q, (g q).unendedAs k = q.unendedAs k := by intro _; rfl) :
    s.reaps r f (s.modFunc k g) :=
  State.reaps_of ((State.only_modFunc s k g).sub)
    (congrArg (fun f => (s.unended.1, s.unended.2.1, f, s.unended.2.2.2)) (unended_fun Func.unendedAs k g (State.modFunc_func s k g) hg))

theorem State.reaps_modPort (s : State) (k : Nat) (g : EPort → EPort) (hg : ∀ q, (g q).unended = q.unended := by intro _; rfl) :
    s.reaps r f (s.modPort k g) :=
  State.reaps_of ((State.only_modPort s k g).sub)
    (congrArg (fun f => (s.unended.1, s.unended.2.1, s.unended.2.2.1, f, s.unended.2.2.2.2))
      (unended_fun (fun _ => EPort.unended) k g (State.modPort_eport s k g) hg))

theorem State.reaps_modXl (s : State) (g : Xl → Xl)
    (hg : ∀ x : Xl, { g x with users := [], ents := [], fails := [], pri := [] } = { x with users := [], ents := [], fails := [], pri := [] } := by
      intro _; rfl) : s.reaps r f (s.modXl g) :=
  State.reaps_of ((State.only_modXl s g).sub)
    (congrArg (fun x => (s.unended.1, s.unended.2.1, s.unended.2.2.1, s.unended.2.2.2.1, s.unended.2.2.2.2.1, x, s.objs.next)) (hg s.xl))

theorem State.reaps_objs {s t : State} (h : s.only t [.objs]) (hn : t.objs.next = s.objs.next) : s.reaps r f t := by
  have := h .tasks (by decide)
  refine State.reaps_of h.sub ?_ (h .tasks (by decide)) (h .mtus (by decide)) (by rw [h .sto (by decide)]) (by rw [h .wps (by decide)])
  unfold State.unended
  rw [h .wps (by decide), h .xl (by decide), hn]
  simp only [State.queue_of (h .queues (by decide)), State.part_of (h .parts (by decide)), State.func_of (h .funcs (by decide)),
    State.eport_of (h .ports (by decide))]

theorem State.reaps_modObj (s : State) (k : Nat) (g : Obj → Obj) : s.reaps r f (s.modObj k g) :=
  State.reaps_objs (State.only_modObj s k g) rfl

theorem State.reaps_sto {s t : State} (h : s.only t [.sto]) (hu : ∀ u, Tab.get none s.sto.units u = none → Tab.get none t.sto.units u = none) :
    s.reaps r f t := by
  have ht := State.task_of (h .tasks (by decide))
  refine ⟨h.sub, ?_, fun q _ => by rw [ht]; exact Task.fewerOps_refl _, by rw [ht], fun k hk => by rw [ht]; exact hk,
    fun m => (State.mtuHeld_of (h .mtus (by decide)) m).le, hu, fun l hl => by rw [h .wps (by decide)] at hl; exact hl⟩
  exact State.unended_of (h .queues (by decide)) (h .parts (by decide)) (h .funcs (by decide)) (h .ports (by decide))
    (h .wps (by decide)) (h .xl (by decide)) (h .objs (by decide))

theorem State.reaps_modMtu (s : State) (k : Nat) : s.reaps r f (s.modMtu k (· - 1)) := by
  refine ⟨(State.only_modMtu s k _).sub, rfl, fun q _ => Task.fewerOps_refl _, rfl, fun _ h => h, fun m => ?_, fun _ h => h, fun _ h => h⟩
  rw [State.modMtu_mtuHeld]
  split
  · next h => exact h ▸ Nat.sub_le _ _
  · exact le_refl _

theorem State.reaps_dropLans (s : State) (p : Lantern → Bool) :
    s.reaps r f (s.modWps fun w => { w with lans := w.lans.filter p }) :=
  ⟨(State.only_modWps s _).sub, rfl, fun _ _ => Task.fewerOps_refl _, rfl, fun _ h => h, fun _ => le_refl _, fun _ h => h,
    fun _ hl => List.mem_of_mem_filter hl⟩

/-- A change of the ending task that touches what its run holds, and fills no slot. -/
theorem State.reaps_modTask (s : State) (g : Task → Task) (hg : ∀ t, f (g t) = f t := by intro _; rfl)
    (ho : ∀ (t : Task) k, t.op k = none → (g t).op k = none := by intro _ _ h; exact h) : s.reaps r f (s.modTask r g) := by
  refine ⟨(State.only_modTask s r g).sub, rfl, fun q hq => ?_, ?_, fun k hk => ?_, fun _ => le_refl _, fun _ h => h, fun _ h => h⟩
  · rw [State.modTask_task_ne _ _ _ hq]
    exact Task.fewerOps_refl _
  · rw [State.modTask_task_self, hg]
  · rw [State.modTask_task_self]
    exact ho _ k hk

end

section
variable {r : Nat} {f : Task → Task}

/-! ### Slots and storage -/

theorem Tab.erase_sublist {α : Type} (t : Tab α) (k : Nat) : (Tab.erase t k).Sublist t := by
  induction t with
  | nil => exact List.Sublist.refl _
  | cons e t ih =>
    obtain ⟨i, a⟩ := e
    rw [Tab.erase]
    split
    · exact ih.trans (List.sublist_cons_self _ _)
    · exact ih.cons_cons _

theorem Task.freeSlot_fewerOps (t : Task) (k : Nat) : t.fewerOps { t with win := Tab.set none t.win k none } := by
  refine ⟨rfl, fun j => ?_, by unfold Tab.set; rw [if_pos rfl]; exact Tab.erase_sublist t.win k⟩
  by_cases h : j = k
  · subst h
    exact .inl (Tab.get_set_self none t.win j none)
  · exact .inr (Tab.get_set_ne none t.win none h)

theorem State.reaps_dropUse (s : State) (p : Space × Nat × Who → Bool) : s.reaps r f (s.dropUse p) := by
  unfold State.dropUse
  exact State.reaps_ite _ (State.reaps_refl s) (State.reaps_modXl s _)

theorem State.reaps_dropX (s : State) (p : Who → Bool) : s.reaps r f (s.dropX p) := State.reaps_dropUse s _

/-- A slot of any task is freed. -/
theorem State.reaps_emptySlot (s : State) (q k : Nat) : s.reaps r Task.unwin (s.modTask q fun t => { t with win := Tab.set none t.win k none }) := by
  by_cases hq : q = r
  · subst hq
    exact State.reaps_modTask s _ (fun _ => rfl) fun t j h => Task.fewerOps_none (t.freeSlot_fewerOps k) h
  · refine ⟨(State.only_modTask s q _).sub, rfl, fun j _ => ?_, ?_, fun j h => ?_, fun _ => le_refl _, fun _ h => h, fun _ h => h⟩
    · rw [State.modTask_task]
      split
      · next h => exact h ▸ Task.freeSlot_fewerOps _ k
      · exact Task.fewerOps_refl _
    · rw [State.modTask_task_ne _ _ _ (Ne.symm hq)]
    · rw [State.modTask_task_ne _ _ _ (Ne.symm hq)]
      exact h

theorem State.reaps_freeSlot (s : State) (q k : Nat) : s.reaps r Task.unwin (s.freeSlot q k) := by
  unfold State.freeSlot
  exact State.reaps_trans (State.reaps_emptySlot s q k) (State.reaps_dropX _ _)

theorem State.reaps_modOp (s : State) (k : Nat) (g : Op → Op) : s.reaps r Task.unwin (s.modOp r k g) := by
  refine State.reaps_modTask s _ (fun _ => rfl) fun t j h => ?_
  by_cases e : j = k
  · subst e
    exact (Tab.get_set_self none t.win j _).trans (by rw [h]; rfl)
  · exact (Tab.get_set_ne none t.win _ e).trans h

theorem State.reaps_freeUnit (s : State) (u : Nat) : s.reaps r f (s.freeUnit u) := by
  refine State.reaps_sto (State.only_freeUnit s u) fun v hv => ?_
  refine (Tab.get_set none s.sto.units v u none).trans ?_
  split
  · rfl
  · exact hv

theorem State.reaps_freePage (s : State) (p : PageRef) : s.reaps r f (s.freePage p) := by
  cases p with
  | pkg p => exact State.reaps_sto (State.only_modSto s _) fun _ h => h
  | ws p =>
    unfold State.freePage
    dsimp only
    split
    · next w hw =>
      refine State.reaps_ite _ (State.reaps_freeUnit s _) (State.reaps_sto (State.only_holdUnit s _ _) fun v hv => ?_)
      have hne : v ≠ p / 16 := fun e => by
        rw [e, hw] at hv
        exact Option.some_ne_none w hv
      unfold State.holdUnit
      rw [State.modSto_sto, Tab.get_set_ne _ _ _ hne]
      exact hv
    · exact State.reaps_refl s

theorem State.reaps_freePages (s : State) (l : List PageRef) : s.reaps r f (s.freePages l) :=
  State.reaps_each State.reaps_freePage l s

/-- Object `n`'s number waits to be given out again (11 R297). -/
def State.noteReleased (s : State) (n : Nat) : State := { s with objs := { s.objs with released := s.objs.released ++ [n] } }

theorem State.reaps_noteReleased (s : State) (n : Nat) : s.reaps r f (s.noteReleased n) :=
  State.reaps_objs (fun f hf => by cases f <;> first | rfl | simp at hf) rfl

/-- What the release of an object frees, step by step (11 R311). -/
theorem State.releaseObj_eq (s : State) (n : Nat) : s.releaseObj n =
    ((((((s.freePages ((s.obj n).exts.flatMap fun e => match e.store with
      | .pages l => l
      | .host _ => [])).freePages ((s.sto.retiring.filter fun r => r.obj == n).flatMap (·.pages))).modSto fun m =>
      { m with retiring := m.retiring.filter fun r => r.obj != n }).modPart (s.obj n).part fun p =>
      { p with pins := p.pins.filter fun x => x.obj != n }).modObj n fun o =>
      { st := .released, vf := o.vf, pf := o.pf }).noteReleased n) := rfl

theorem State.reaps_releaseObj (s : State) (n : Nat) : s.reaps r f (s.releaseObj n) := by
  rw [State.releaseObj_eq]
  refine State.reaps_trans ?_ (State.reaps_noteReleased _ n)
  refine State.reaps_trans ?_ (State.reaps_modObj _ n _)
  refine State.reaps_trans ?_ (State.reaps_modPart _ _ _)
  refine State.reaps_trans ?_ (State.reaps_sto (State.only_modSto _ _) fun _ h => h)
  exact State.reaps_trans (State.reaps_freePages _ _) (State.reaps_freePages _ _)

theorem State.reaps_settleObj (s : State) (n : Nat) : s.reaps r f (s.settleObj n) := by
  unfold State.settleObj
  exact State.reaps_ite _ (State.reaps_releaseObj s n) (State.reaps_refl s)

theorem State.reaps_dropRefs (s : State) : s.reaps r Task.bare (s.dropRefs r) :=
  State.reaps_trans (State.reaps_modTask s _)
    (State.reaps_each (fun u n => State.reaps_trans (State.reaps_modObj u n _) (State.reaps_settleObj _ n)) _ _)

/-! ### Records of errors and samples -/

theorem State.writeLoc_units (s : State) (l : Loc) (b : Option Byte) : (s.writeLoc l b).sto.units = s.sto.units := by
  unfold State.writeLoc
  split <;> rfl

theorem State.reaps_writeRange (l : List (Option Byte)) : ∀ (s : State) (x : Loc), s.reaps r f (s.writeRange x l) := by
  induction l with
  | nil => exact fun s _ => State.reaps_refl s
  | cons b l ih =>
    intro s x
    exact State.reaps_trans (State.reaps_sto (State.only_writeLoc s x b) fun _ h => by rw [State.writeLoc_units]; exact h) (ih _ _)

theorem State.reaps_hostWrite (s : State) (sp : Space) (a : Nat) (l : List Byte) : s.reaps r f (s.hostWrite sp a l) := by
  refine State.reaps_each (fun u c => ?_) _ s
  split
  · exact State.reaps_trans (State.reaps_of_only (State.only_sendWrite u sp _ _)) (State.reaps_writeRange _ _ _)
  · exact State.reaps_refl u

theorem State.reaps_ctxRefuse (s : State) : s.reaps r f s.ctxRefuse := State.reaps_objs (State.only_ctxRefuse s) rfl

theorem State.reaps_nextFree (s : State) : s.reaps r f s.nextFree := State.reaps_of_only (State.only_nextFree s)

theorem State.reaps_ownWrite (s : State) (sp : Space) (a : Nat) (l : List Byte) : s.reaps r f (s.ownWrite sp a l).1 := by
  have put : ∀ u : State, s.reaps r f u →
      s.reaps r f (if u.ctxBad sp a l.length then (u.ctxRefuse, false) else (u.hostWrite sp a l, true)).1 := fun u hu => by
    split
    · exact State.reaps_trans hu (State.reaps_ctxRefuse u)
    · exact State.reaps_trans hu (State.reaps_hostWrite u sp a l)
  unfold State.ownWrite
  dsimp only
  split
  · exact State.reaps_refl s
  · split
    · split
      · exact put s (State.reaps_refl s)
      · exact State.reaps_refl s
    · split
      · exact State.reaps_nextFree s
      · next d _ =>
        have held := State.reaps_modXl (r := r) (f := f) s.nextFree (fun x => { x with ents := x.ents ++ [⟨sp, a / 4096, true, true, d⟩] })
        refine State.reaps_trans (put _ (State.reaps_trans (State.reaps_nextFree s) held)) ?_
        exact State.reaps_modXl _ (fun x => { x with ents := x.ents.filter (· != ⟨sp, a / 4096, true, true, d⟩) })

theorem State.reaps_signalVec (s : State) (fk v : Nat) (hk : 1024 ≤ fk) : s.reaps r f (s.signalVec fk v) := by
  refine State.reaps_ite _ (State.reaps_of_only (State.only_send s _)) (State.reaps_modFunc s _ _ fun q => ?_)
  unfold Func.unendedAs
  rw [if_neg (Nat.not_lt.2 hk), if_neg (Nat.not_lt.2 hk)]
  rfl

theorem State.reaps_tick (s : State) (e : Nat) (p : Option Nat) : s.reaps r f (s.tick e p) := State.reaps_of_only (State.only_tick s e p)

theorem State.reaps_nextStamp (s : State) : s.reaps r f s.nextStamp := State.reaps_of_only (State.only_nextStamp s)

theorem State.reaps_vfTick (s : State) (fk i n : Nat) : s.reaps r f (s.vfTick fk i n) :=
  State.reaps_ite _ (State.reaps_modFunc s _ _) (State.reaps_refl s)

theorem State.reaps_geqPost (s : State) (x : GeqRec) (k : Option GKey) : s.reaps r f (s.geqPost x k) := by
  have put : s.reaps r f (((s.geqMirror (s.geqStamped x k)).modGeq fun g => g.put s.now (s.geqStamped x k) k).tick 0x1C0 none) := by
    refine State.reaps_trans ?_ (State.reaps_tick _ _ _)
    refine State.reaps_trans ?_ (State.reaps_of_only (State.only_modGeq _ _))
    unfold State.geqMirror
    split
    · split
      · exact State.reaps_ownWrite s _ _ _
      · exact State.reaps_refl s
    · exact State.reaps_refl s
  unfold State.geqPost
  dsimp only
  refine State.reaps_ite _ (State.reaps_of_only (State.only_modGeq s _)) (State.reaps_ite _ (State.reaps_of_only (State.only_modGeq s _)) ?_)
  split
  · exact put
  · refine State.reaps_trans put ?_
    unfold State.geqIrq
    split
    · exact State.reaps_ite _ (State.reaps_signalVec _ _ _ (Nat.le_add_right _ _)) (State.reaps_refl _)
    · exact State.reaps_refl _

theorem State.reaps_geqStatus (s : State) (qk p st src tid seq bad : Nat) : s.reaps r f (s.geqStatus qk p st src tid seq bad) :=
  State.reaps_ite _ (State.reaps_refl s) (State.reaps_geqPost s _ _)

theorem State.reaps_sampleLost (s : State) : s.reaps r f s.sampleLost :=
  State.reaps_trans (State.reaps_of_only (State.only_modCnt s _)) (State.reaps_tick _ _ _)

theorem State.reaps_writeSample (s : State) (g : Tagged) (b : Bool) : s.reaps r f (s.writeSample g b) := by
  unfold State.writeSample
  dsimp only
  split
  · exact State.reaps_sampleLost s
  · split
    · exact State.reaps_sampleLost s
    · generalize hx : s.ownWrite _ _ _ = x
      have hr : s.reaps r f x.1 := hx ▸ State.reaps_ownWrite s _ _ _
      obtain ⟨u, b⟩ := x
      cases b with
      | false => exact State.reaps_trans hr (State.reaps_sampleLost u)
      | true => exact State.reaps_trans hr (State.reaps_of_only (l := [.freeCtr, .cnt]) fun f hf => by
          cases f <;> first | rfl | simp at hf)

theorem State.reaps_endTags (s : State) (p : Tagged → Bool) (b : Bool) : s.reaps r f (s.endTags p b) := by
  unfold State.endTags
  exact State.reaps_ite _ (State.reaps_refl s) (State.reaps_trans (State.reaps_of_only (State.only_modCnt s _))
    (State.reaps_each (fun u g => State.reaps_writeSample u g b) _ _))

/-! ### Dispatches (07 R205) -/

theorem State.reaps_modDisp (s : State) (n i : Nat) (g : Disp → Disp) : s.reaps r f (s.modDisp n i g) := by
  unfold State.modDisp
  exact State.reaps_modPart s n _

theorem State.reaps_forward (s : State) (k a b : Nat) (h x y : W64) : s.reaps r f (s.forward k a b h x y) := by
  unfold State.forward
  exact State.reaps_modPort s k _

theorem State.reaps_stopDisp (s : State) (n i : Nat) : s.reaps r f (s.stopDisp n i) := by
  unfold State.stopDisp
  split
  · exact State.reaps_refl s
  · exact State.reaps_ite _ (State.reaps_refl s)
      (State.reaps_trans (State.reaps_modDisp s n i _) (State.reaps_each (fun u l => State.reaps_forward u _ _ _ _ _ _) _ _))

theorem State.reaps_sendCbuf (s : State) (n i k : Nat) : s.reaps r f (s.sendCbuf n i k) := by
  unfold State.sendCbuf
  split
  · exact State.reaps_refl s
  · exact State.reaps_trans (State.reaps_modDisp s n i _) (State.reaps_each (fun u w => State.reaps_forward u _ _ _ _ _ _) _ _)

theorem State.reaps_runNext (s : State) (n : Nat) : s.reaps r f (s.runNext n) := by
  unfold State.runNext
  split
  · exact State.reaps_refl s
  · split
    · exact State.reaps_refl s
    · exact State.reaps_trans (State.reaps_modDisp s n _ _) (State.reaps_each (fun u l => State.reaps_sendCbuf u n _ _) _ _)

theorem State.reaps_endStop (n : Nat) (s : State) (d : Disp) : s.reaps r Task.unwin (State.endStop n s d) := by
  unfold State.endStop
  dsimp only
  have held : s.reaps r Task.unwin ((s.modMtu d.mtu (· - 1)).each d.lps fun u l =>
      u.modPort l.port fun e => { e with held := e.held - (l.offered - l.accepted) }) :=
    State.reaps_trans (State.reaps_modMtu s _) (State.reaps_each (fun u l => State.reaps_modPort u _ _) _ _)
  split
  · exact State.reaps_ite _ (State.reaps_trans held (State.reaps_freeSlot _ _ _)) (State.reaps_trans held (State.reaps_tick _ _ _))
  · exact State.reaps_trans held (State.reaps_modPart _ _ _)

theorem State.reaps_settleStops (s : State) (n : Nat) : s.reaps r Task.unwin (s.settleStops n) := by
  unfold State.settleStops
  exact State.reaps_ite _ (State.reaps_refl s) (State.reaps_trans (State.reaps_modPart s n _)
    (State.reaps_trans (State.reaps_each (State.reaps_endStop n) _ _) (State.reaps_runNext _ n)))

theorem State.reaps_dropMember (s : State) (n q g k : Nat) : s.reaps r Task.unwin (s.dropMember n q g k) := by
  unfold State.dropMember
  dsimp only
  split
  · exact State.reaps_modPart s n _
  · refine State.reaps_ite _ ?_ (State.reaps_modPart s n _)
    split
    · exact State.reaps_trans (State.reaps_modPart s n _) (State.reaps_trans (State.reaps_stopDisp _ _ _) (State.reaps_settleStops _ _))
    · exact State.reaps_modPart s n _

/-! ### What a run gives up (04 R115) -/

theorem State.reaps_dropOpPages (s : State) (k : Nat) : s.reaps r Task.unwin (s.dropOpPages r k) := by
  unfold State.dropOpPages
  split
  · exact State.reaps_ite _ (State.reaps_refl s) (State.reaps_trans (State.reaps_modOp s k _) (State.reaps_freePages _ _))
  · exact State.reaps_refl s

theorem State.reaps_killOp (s : State) (e : Nat × Option Op) : s.reaps r Task.unwin (s.killOp r e) := by
  unfold State.killOp
  split
  · exact State.reaps_refl s
  · dsimp only
    have pages := State.reaps_dropOpPages (r := r) s e.1
    refine State.reaps_trans pages ?_
    split
    · refine State.reaps_trans (State.reaps_modOp _ e.1 fun o => { o with phase := .drain }) ?_
      split
      · exact State.reaps_trans (State.reaps_stopDisp _ _ _) (State.reaps_settleStops _ _)
      · exact State.reaps_freeSlot _ _ _
    · exact State.reaps_trans (State.reaps_dropMember _ _ _ _ _) (State.reaps_freeSlot _ _ _)
    · exact State.reaps_trans (State.reaps_modQueue _ _ _) (State.reaps_freeSlot _ _ _)
    · exact State.reaps_ite _ (State.reaps_modOp _ _ _) (State.reaps_freeSlot _ _ _)
    · exact State.reaps_refl _
    · exact State.reaps_freeSlot _ _ _

theorem State.reaps_dropStaged (s : State) : s.reaps r Task.bare (s.dropStaged r) := by
  refine State.reaps_trans (State.reaps_modTask s fun t => { t with staged := [] }) (State.reaps_each (fun u e => ?_) _ _)
  split
  · exact State.reaps_modQueue u _ _
  · exact State.reaps_freePages u _
  · exact State.reaps_refl u

theorem State.reaps_dropDrafts (s : State) : s.reaps r Task.bare (s.dropDrafts r) :=
  State.reaps_trans (State.reaps_modTask s _) (State.reaps_freePages _ _)

theorem State.reaps_unpark (s : State) : s.reaps r Task.bare (s.unpark r) := by
  unfold State.unpark
  dsimp only
  split
  · exact State.reaps_refl s
  · next u _ =>
    have place := State.reaps_modPart (r := r) (f := Task.bare) s (s.task r).part fun p =>
      { p with tsUnits := Tab.set 0 p.tsUnits u (Tab.get 0 (s.part (s.task r).part).tsUnits u - 1) }
    have parked := State.reaps_trans place (State.reaps_modTask _ fun t => { t with parked := none })
    split
    · exact State.reaps_trans parked (State.reaps_freeUnit _ u)
    · exact parked

theorem State.reaps_dropWaits (s : State) (q g : Nat) : s.reaps r f (s.dropWaits q g) := by
  unfold State.dropWaits
  exact State.reaps_trans (State.reaps_dropX s _) (State.reaps_modXl _ _)

theorem State.reaps_dropPins (s : State) (q : Nat) : s.reaps r f (s.dropPins q) := by
  unfold State.dropPins
  exact State.reaps_modPart s _ _

theorem State.reaps_dropLanterns (s : State) (q : Nat) : s.reaps r f (s.dropLanterns q) := by
  unfold State.dropLanterns
  exact State.reaps_dropLans s _

theorem State.reaps_dropBuf (s : State) (q g : Nat) : s.reaps r f (s.dropBuf q g) :=
  State.reaps_of_only (State.only_dropBuf s q g)

/-- A task whose run has ended holds no thread, and of what the run held only what its operations still do. -/
def Task.runOver (t : Task) : Task :=
  { t with thread := none, suspended := false, stall := .none, lit := none, scr := [], lines := [], got := [] }

/-- What a run gives up, step by step (04 R115). -/
theorem State.discardRun_eq (s : State) (r : Nat) : s.discardRun r =
    ((((((((((((s.task r).win.foldl (fun u e => u.killOp r e) s).dropStaged r).dropDrafts r).dropPins r).dropRefs r).unpark
      r).dropLanterns r).dropWaits r (s.task r).gen).dropBuf r (s.task r).gen).modTask r Task.runOver).endTags
      (fun g => g.r == r && g.gen == (s.task r).gen) true) := rfl

/-- Everything that a run gives up stays within the frame of its end. -/
theorem State.reaps_discardRun (s : State) : s.reaps r Task.bare (s.discardRun r) := by
  rw [State.discardRun_eq]
  refine State.reaps_trans ?_ (State.reaps_endTags _ _ _)
  refine State.reaps_trans ?_ (State.reaps_modTask _ Task.runOver)
  refine State.reaps_trans ?_ (State.reaps_dropBuf _ _ _)
  refine State.reaps_trans ?_ (State.reaps_dropWaits _ _ _)
  refine State.reaps_trans ?_ (State.reaps_dropLanterns _ _)
  refine State.reaps_trans ?_ (State.reaps_unpark _)
  refine State.reaps_trans ?_ (State.reaps_dropRefs _)
  refine State.reaps_trans ?_ (State.reaps_dropPins _ _)
  refine State.reaps_trans ?_ (State.reaps_dropDrafts _)
  refine State.reaps_trans ?_ (State.reaps_dropStaged _)
  exact (State.reaps_foldl State.reaps_killOp _ s).mono Task.bare

/-! ### Records of submissions (03 R87, R90) -/

theorem Queue.pump_unended (k : Nat) : ∀ q : Queue, (q.pump k).unended = q.unended := by
  induction k with
  | zero => exact fun _ => rfl
  | succ k ih =>
    intro q
    rw [Queue.pump]
    split
    · split
      · exact ih _
      · rfl
    · rfl

theorem State.reaps_finishSub (s : State) (qk ord st : Nat) (v : W64) (a b c : Bool) (bad : Nat) :
    s.reaps r f (s.finishSub qk ord st v a b c bad) := by
  unfold State.finishSub
  split
  · exact State.reaps_refl s
  · refine State.reaps_ite _ (State.reaps_refl s) ?_
    have fin : ∀ g : List Sub → List Sub, s.reaps r f (s.modQueue qk fun q =>
        ({ q with subs := g q.subs } : Queue).pump (g q.subs).length) := fun g =>
      State.reaps_modQueue s qk _ fun q => Queue.pump_unended _ _
    dsimp only
    split
    · exact fin _
    · exact State.reaps_trans (fin _) (State.reaps_geqStatus _ _ _ _ _ _ _ _)

theorem State.reaps_dueEnq (s : State) (qk p seq tid st : Nat) (v : W64) (c : Bool) (bad : Nat) :
    s.reaps r f (s.dueEnq qk p seq tid st v c bad) := by
  unfold State.dueEnq
  exact State.reaps_trans (State.reaps_modQueue s qk _) (State.reaps_geqStatus _ _ _ _ _ _ _ _)

end

end Sys2Proof.Machine
end

section
/-! Kills: how a killed record stands, and that other records lose at most operations (01 R17; 04 R115 to R122). -/

namespace Sys2Proof.Machine

set_option Elab.async false

section
variable {r : Nat}

/-! ### What a run's end makes of its task -/

theorem State.dropStaged_unwin (s : State) : ((s.dropStaged r).task r).unwin = { (s.task r).unwin with staged := [] } := by
  have h : (s.modTask r fun t => { t with staged := [] }).reaps r Task.unwin (s.dropStaged r) :=
    State.dropStaged_eq s r ▸ State.reaps_each (fun u e => by
      unfold State.dropStg
      split
      · exact State.reaps_modQueue u _ _
      · exact State.reaps_freePages u _
      · exact State.reaps_refl u) _ _
  rw [h.own, State.modTask_task_self]
  rfl

theorem State.dropDrafts_unwin (s : State) : ((s.dropDrafts r).task r).unwin = { (s.task r).unwin with drafts := [] } := by
  rw [State.task_of (State.dropDrafts_tasks s r), State.modTask_task_self]
  rfl

theorem State.dropRefs_eq (s : State) (r : Nat) : s.dropRefs r =
    (s.modTask r fun t => { t with refs := [] }).each (s.task r).refs fun u n =>
      (u.modObj n fun o => { o with held := o.held - 1 }).settleObj n := rfl

theorem State.dropRefs_unwin (s : State) : ((s.dropRefs r).task r).unwin = { (s.task r).unwin with refs := [] } := by
  have h : (s.modTask r fun t => { t with refs := [] }).reaps r Task.unwin (s.dropRefs r) :=
    State.dropRefs_eq s r ▸ State.reaps_each (fun u n => State.reaps_trans (State.reaps_modObj u n _) (State.reaps_settleObj _ n)) _ _
  rw [h.own, State.modTask_task_self]
  rfl

/-- A run that has ended holds nothing but the operations that drain (04 R115). -/
theorem State.discardRun_unwin (s : State) : ((s.discardRun r).task r).unwin = (s.task r).bare := by
  rw [State.discardRun_eq, (State.reaps_endTags (f := Task.unwin) _ _ _).own, State.modTask_task_self]
  have ops := (State.reaps_foldl (r := r) State.reaps_killOp (s.task r).win s).own
  generalize (s.task r).win.foldl (fun u e => u.killOp r e) s = a at *
  have staged := a.dropStaged_unwin (r := r)
  generalize a.dropStaged r = b at *
  have drafts := b.dropDrafts_unwin (r := r)
  generalize b.dropDrafts r = c at *
  have pins := (State.reaps_dropPins (r := r) (f := Task.unwin) c r).own
  generalize c.dropPins r = d at *
  have refs := d.dropRefs_unwin (r := r)
  generalize d.dropRefs r = e at *
  have place := congrArg Task.unwin (e.unpark_tasks r).1
  generalize e.unpark r = g at *
  have lanterns := (State.reaps_dropLanterns (r := r) (f := Task.unwin) g r).own
  generalize g.dropLanterns r = h at *
  have waits := (State.reaps_dropWaits (r := r) (f := Task.unwin) h r (s.task r).gen).own
  generalize h.dropWaits r (s.task r).gen = i at *
  have buf := (State.reaps_dropBuf (r := r) (f := Task.unwin) i r (s.task r).gen).own
  generalize i.dropBuf r (s.task r).gen = j at *
  have all : (j.task r).unwin = { (s.task r).unwin with staged := [], drafts := [], refs := [], parked := none } := by
    rw [buf, waits, lanterns, place]
    exact congrArg (fun t : Task => { t with parked := none }) (refs.trans (congrArg (fun t : Task => { t with refs := [] })
      (pins.trans (drafts.trans (congrArg (fun t : Task => { t with drafts := [] }) (staged.trans
        (congrArg (fun t : Task => { t with staged := [] }) ops)))))))
  exact congrArg Task.runOver all

/-! ### Kills -/

/-- A task without what a kill changes. -/
def Task.dead (t : Task) : Task := { t.bare with st := .killed, after := none, order := 0, front := true, preempts := 0 }

/-- A killed record stands in its task's place with the consequence `a` (01 R17; 04 R116). -/
def Task.killedBy (t u : Task) (a : After) : Prop :=
  ∃ o, u.unwin = { t.bare with st := .killed, after := some a, order := o, front := true, preempts := u.preempts }

theorem Task.killedBy_fields {t u : Task} {a : After} (h : t.killedBy u a) : u.st = .killed ∧ u.after = some a ∧
    u.gen = t.gen ∧ u.staged = [] ∧ u.drafts = [] ∧ u.thread = none ∧ u.withdrawn = t.withdrawn ∧ u.kind = t.kind ∧ u.part = t.part := by
  obtain ⟨o, h⟩ := h
  have same : ∀ {α : Type} (g : Task → α), g u.unwin = g { t.bare with
      st := .killed, after := some a, order := o, front := true, preempts := u.preempts } := fun g => congrArg g h
  exact ⟨same Task.st, same Task.after, same Task.gen, same Task.staged, same Task.drafts, same Task.thread,
    same Task.withdrawn, same Task.kind, same Task.part⟩

/-- A task whose run has ended is killed with a consequence. -/
def Task.slain (a : After) (o : Nat) (t : Task) : Task := { t with st := .killed, after := some a, order := o, front := true }

/-- What follows a kill once its record is killed: the rerun waits, or the submission's outcome is decided (04 R116). -/
def State.afterKill (s : State) (r : Nat) (t : Task) (a : After) (quiet : Bool) : State := match a with
  | .rerun => (s.tick 0x011 (some t.part)).vfTick t.fk 3 1
  | .fail st =>
    let s := s.vfTick t.fk 11 1
    if t.kind = .host then s.finishSub t.qk t.ord st 0 false false false t.badAt
    else
      let s := s.modQueue t.qk (Queue.give 1)
      if quiet then s else s.dueEnq t.qk t.part t.seq (taskId r t.gen) st 0 false t.badAt

theorem State.kill_eq (s : State) (r : Nat) (a : After) (quiet : Bool) (h : (s.task r).killable = true) : s.kill r a quiet =
    (((s.discardRun r).modTask r (Task.slain a s.stamp)).nextStamp).afterKill r (s.task r) a quiet := by
  unfold State.kill
  dsimp only
  rw [h, Bool.not_true, if_neg Bool.false_ne_true]
  cases a <;> rfl

theorem State.kill_of_not (s : State) (r : Nat) (a : After) (quiet : Bool) (h : (s.task r).killable = false) : s.kill r a quiet = s := by
  unfold State.kill
  dsimp only
  rw [h]
  rfl

theorem State.reaps_afterKill (s : State) (f : Task → Task) (t : Task) (a : After) (quiet : Bool) : s.reaps r f (s.afterKill r t a quiet) := by
  unfold State.afterKill
  split
  · exact State.reaps_trans (State.reaps_tick _ _ _) (State.reaps_vfTick _ _ _ _)
  · dsimp only
    refine State.reaps_trans (State.reaps_vfTick s t.fk 11 1) ?_
    refine State.reaps_ite _ (State.reaps_finishSub _ _ _ _ _ _ _ _ _) ?_
    exact State.reaps_trans (State.reaps_modQueue _ t.qk (Queue.give 1)) (State.reaps_ite _ (State.reaps_refl _) (State.reaps_dueEnq _ _ _ _ _ _ _ _ _))

/-- A killed task stands as it must, and the frame is that of its run's end. -/
theorem State.kill_spec (s : State) (r : Nat) (a : After) (quiet : Bool) (h : (s.task r).killable = true) :
    (s.task r).killedBy ((s.kill r a quiet).task r) a ∧ ((s.kill r a quiet).task r).preempts = (s.task r).preempts := by
  have hd := State.discardRun_unwin (r := r) s
  rw [State.kill_eq s r a quiet h]
  generalize s.discardRun r = d at *
  have own := (State.reaps_afterKill (r := r) ((d.modTask r (Task.slain a s.stamp)).nextStamp) Task.unwin (s.task r) a quiet).own
  generalize ((d.modTask r (Task.slain a s.stamp)).nextStamp).afterKill r (s.task r) a quiet = u at *
  have key : (u.task r).unwin = (s.task r).bare.slain a s.stamp := by
    rw [own, State.task_of (State.only_nextStamp (d.modTask r (Task.slain a s.stamp)) .tasks (by decide)), State.modTask_task_self]
    exact congrArg (Task.slain a s.stamp) hd
  have same : (u.task r).preempts = (s.task r).preempts := by
    have := congrArg Task.preempts key
    exact this
  refine ⟨⟨s.stamp, ?_⟩, same⟩
  rw [key, same]
  rfl

theorem State.reaps_kill (s : State) (a : After) (quiet : Bool) : s.reaps r Task.dead (s.kill r a quiet) := by
  cases h : (s.task r).killable with
  | false =>
    rw [State.kill_of_not s r a quiet h]
    exact State.reaps_refl s
  | true =>
    rw [State.kill_eq s r a quiet h]
    refine State.reaps_trans ?_ (State.reaps_afterKill _ _ _ _ _)
    refine State.reaps_trans ?_ (State.reaps_nextStamp _)
    exact State.reaps_trans ((State.reaps_discardRun s).mono Task.dead) (State.reaps_modTask _ (Task.slain _ _))

end

/-! ### Several kills -/

theorem Task.fewerOps_same {α : Type} {t u : Task} (h : t.fewerOps u) (g : Task → α) (hg : ∀ x : Task, g { x with win := [] } = g x := by
    intro x; rfl) : g u = g t :=
  (hg u).symm.trans ((congrArg g h.same).trans (hg t))

theorem Task.fewerOps_killable {t u : Task} (h : t.fewerOps u) : u.killable = t.killable := Task.fewerOps_same h Task.killable

/-- A killed task is as it was but for what a kill changes. -/
theorem Task.killedBy_dead {t u : Task} {a : After} (h : t.killedBy u a) : u.dead = t.dead := by
  obtain ⟨o, h⟩ := h
  have := congrArg Task.dead h
  exact this

theorem Task.killable_of_killed {u : Task} (h : u.st = .killed) : u.killable = false := by
  simp [Task.killable, h]

/-- A task that has lost operations at most, or, if it could be, has been killed. -/
def Task.culled (t u : Task) : Prop :=
  t.fewerOps u ∨ (t.killable = true ∧ (∃ a, t.killedBy u a) ∧ ∀ k, t.op k = none → u.op k = none)

theorem Task.killedBy_trans {t u v : Task} {a : After} (h : t.fewerOps u) (g : u.killedBy v a) : t.killedBy v a := by
  obtain ⟨o, g⟩ := g
  refine ⟨o, g.trans ?_⟩
  have := congrArg (fun x : Task => { x.bare with st := .killed, after := some a, order := o, front := true, preempts := v.preempts }) h.same
  exact this

theorem Task.killedBy_fewer {t u v : Task} {a : After} (h : t.killedBy u a) (g : u.fewerOps v) : t.killedBy v a := by
  obtain ⟨o, h⟩ := h
  have p : v.preempts = u.preempts := Task.fewerOps_same g Task.preempts
  refine ⟨o, ?_⟩
  rw [p]
  exact g.same.trans h

theorem Task.culled_trans {t u v : Task} (h : t.culled u) (g : u.culled v) : t.culled v := by
  rcases h with h | ⟨hk, ⟨a, ha⟩, ho⟩
  · rcases g with g | ⟨gk, ⟨b, hb⟩, go⟩
    · exact .inl (Task.fewerOps_trans h g)
    · exact .inr ⟨(Task.fewerOps_killable h).symm.trans gk, ⟨b, Task.killedBy_trans h hb⟩, fun k hk => go k (Task.fewerOps_none h hk)⟩
  · rcases g with g | ⟨gk, -⟩
    · exact .inr ⟨hk, ⟨a, Task.killedBy_fewer ha g⟩, fun k hk => Task.fewerOps_none g (ho k hk)⟩
    · obtain ⟨st, -⟩ := Task.killedBy_fields ha
      rw [Task.killable_of_killed st] at gk
      exact absurd gk Bool.false_ne_true

/-- From `s` to `t` runs end: killable tasks may have been killed, and what the end of a run leaves stays. -/
structure State.culls (s t : State) : Prop where
  only : s.only t reapParts
  kept : t.unended = s.unended
  tasks : ∀ q, (s.task q).culled (t.task q)
  mtus : ∀ m, t.mtuHeld m ≤ s.mtuHeld m
  units : ∀ u, Tab.get none s.sto.units u = none → Tab.get none t.sto.units u = none
  lans : ∀ l ∈ t.wps.lans, l ∈ s.wps.lans

theorem State.culls_refl (s : State) : s.culls s :=
  ⟨State.only_refl s _, rfl, fun _ => .inl (Task.fewerOps_refl _), fun _ => le_refl _, fun _ h => h, fun _ h => h⟩

theorem State.culls_trans {s t u : State} (h : s.culls t) (g : t.culls u) : s.culls u :=
  ⟨State.only_trans h.only g.only, g.kept.trans h.kept, fun q => Task.culled_trans (h.tasks q) (g.tasks q),
    fun m => (g.mtus m).trans (h.mtus m), fun u hu => g.units u (h.units u hu), fun l hl => h.lans l (g.lans l hl)⟩

/-- What touches no task but in its window culls none. -/
theorem State.culls_of_reaps {r : Nat} {s t : State} (h : s.reaps r Task.dead t) (hr : (s.task r).culled (t.task r)) : s.culls t := by
  refine ⟨h.only, h.kept, fun q => ?_, h.mtus, h.units, h.lans⟩
  by_cases hq : q = r
  · rw [hq]
    exact hr
  · exact .inl (h.others q hq)

/-- A step that ends no run, and fits the frame for every record. -/
theorem State.culls_of_all {s t : State} (h : ∀ r, s.reaps r Task.unwin t) : s.culls t := by
  refine ⟨(h 0).only, (h 0).kept, fun q => ?_, (h 0).mtus, (h 0).units, (h 0).lans⟩
  exact .inl ((h (q + 1)).others q (Nat.ne_of_lt (Nat.lt_succ_self q)))

theorem State.culls_kill (s : State) (r : Nat) (a : After) (quiet : Bool) : s.culls (s.kill r a quiet) := by
  have frame := State.reaps_kill (r := r) s a quiet
  refine State.culls_of_reaps frame ?_
  cases h : (s.task r).killable with
  | false =>
    rw [State.kill_of_not s r a quiet h]
    exact .inl (Task.fewerOps_refl _)
  | true => exact .inr ⟨h, ⟨a, (State.kill_spec s r a quiet h).1⟩, frame.ops⟩

theorem State.culls_ite {s t u : State} (c : Prop) [Decidable c] (h : s.culls t) (g : s.culls u) : s.culls (if c then t else u) := by
  split <;> assumption

theorem State.culls_foldl {α : Type} {g : State → α → State} (hg : ∀ u a, State.culls u (g u a)) (as : List α) :
    ∀ s : State, s.culls (as.foldl g s) := by
  induction as with
  | nil => exact State.culls_refl
  | cons a as ih => exact fun s => State.culls_trans (hg s a) (ih _)

theorem State.culls_each {α : Type} {g : State → α → State} (hg : ∀ u a, State.culls u (g u a)) (as : List α) (s : State) :
    s.culls (s.each as g) := State.culls_foldl hg as s

section
variable {s t : State} (h : t.unended = s.unended)
include h

theorem State.queue_unended (k : Nat) : (t.queue k).unended = (s.queue k).unended := by
  have := congrFun (congrArg (fun x => x.1) h) k
  exact this

theorem State.part_unended (n : Nat) : (t.part n).unended = (s.part n).unended := by
  have := congrFun (congrArg (fun x => x.2.1) h) n
  exact this

theorem State.func_unendedAs (f : Nat) : (t.func f).unendedAs f = (s.func f).unendedAs f := by
  have := congrFun (congrArg (fun x => x.2.2.1) h) f
  exact this

theorem State.func_unended (f : Nat) : (t.func f).unended = (s.func f).unended := by
  have e := congrArg Func.unended (State.func_unendedAs h f)
  unfold Func.unendedAs at e
  split at e <;> exact e

/-- Of a VF, the end of a run changes the tenant counters alone. -/
theorem State.vf_unended (f : Nat) (hf : f < 1024) : { t.func f with cnt := [] } = { s.func f with cnt := [] } := by
  have e := State.func_unendedAs h f
  unfold Func.unendedAs at e
  rwa [if_pos hf, if_pos hf] at e

theorem State.eport_unended (k : Nat) : (t.eport k).unended = (s.eport k).unended := by
  have := congrFun (congrArg (fun x => x.2.2.2.1) h) k
  exact this

theorem State.wps_unended : { t.wps with lans := [] } = { s.wps with lans := [] } := by
  have := congrArg (fun x => x.2.2.2.2.1) h
  exact this

theorem State.xl_unended : { t.xl with users := [], ents := [], fails := [], pri := [] } =
    { s.xl with users := [], ents := [], fails := [], pri := [] } := by
  have := congrArg (fun x => x.2.2.2.2.2.1) h
  exact this

/-- What the end of a run leaves of a queue, a partition, a function or a port is as it was. -/
theorem State.queue_same {α : Type} (g : Queue → α) (k : Nat) (hg : ∀ q, g q.unended = g q := by intro _; rfl) :
    g (t.queue k) = g (s.queue k) := (hg _).symm.trans ((congrArg g (State.queue_unended h k)).trans (hg _))

theorem State.part_same {α : Type} (g : Part → α) (n : Nat) (hg : ∀ p, g p.unended = g p := by intro _; rfl) :
    g (t.part n) = g (s.part n) := (hg _).symm.trans ((congrArg g (State.part_unended h n)).trans (hg _))

theorem State.func_same {α : Type} (g : Func → α) (f : Nat) (hg : ∀ x, g x.unended = g x := by intro _; rfl) :
    g (t.func f) = g (s.func f) := (hg _).symm.trans ((congrArg g (State.func_unended h f)).trans (hg _))

theorem State.eport_same {α : Type} (g : EPort → α) (k : Nat) (hg : ∀ x, g x.unended = g x := by intro _; rfl) :
    g (t.eport k) = g (s.eport k) := (hg _).symm.trans ((congrArg g (State.eport_unended h k)).trans (hg _))

end

/-- The same partitions, so the same mode of each (02 R52). -/
theorem State.verkai_of_unended {s t : State} (h : t.unended = s.unended) (n : Nat) : t.verkai n = s.verkai n := by
  have cfg : (t.part n).cfg = (s.part n).cfg := State.part_same h Part.cfg n
  unfold State.verkai
  rw [cfg]

theorem State.culls_failTask (s : State) (r st : Nat) : s.culls (s.failTask r st) := State.culls_kill s r _ _

theorem State.reaps_failTask (s : State) (r st : Nat) : s.reaps r Task.dead (s.failTask r st) := State.reaps_kill s _ _

/-- A task that fails with a status stands so (04 R122). -/
theorem State.failTask_spec (s : State) (r st : Nat) (h : (s.task r).killable = true) :
    (s.task r).killedBy ((s.failTask r st).task r) (.fail st) := (State.kill_spec s r _ _ h).1

/-- What a fault's or reset's kill leaves to do: a rerun, or in Verkai mode status 0x1C (04 R116, R129). -/
def State.rerunAfter (s : State) (r : Nat) : After := if s.verkai (s.task r).part then .fail 0x1C else .rerun

theorem State.killRerun_eq (s : State) (r : Nat) : s.killRerun r = s.kill r (s.rerunAfter r) false := by
  unfold State.killRerun State.rerunAfter State.failTask
  split <;> rfl

/-- What a slice boundary's kill leaves to do (04 R119). -/
def Task.preemptAfter (t : Task) : After := if t.preempts + 1 = 3 then .fail 0x10 else .rerun

theorem State.killPreempt_spec (s : State) (r : Nat) (h : (s.task r).killable = true) (hs : (s.task r).st = .running) :
    s.reaps r Task.dead (s.killPreempt r) ∧ (s.task r).killedBy ((s.killPreempt r).task r) (s.task r).preemptAfter := by
  unfold State.killPreempt Task.preemptAfter
  dsimp only
  rw [if_neg (show ¬(!((s.task r).killable && (s.task r).st == .running)) = true by simp [h, hs])]
  split
  · exact ⟨State.reaps_failTask s r _, State.failTask_spec s r _ h⟩
  · have self := State.modTask_task_self s r fun t => { t with preempts := t.preempts + 1 }
    have frame : s.reaps r Task.dead (s.modTask r fun t => { t with preempts := t.preempts + 1 }) := State.reaps_modTask s _
    generalize (s.modTask r fun t => { t with preempts := t.preempts + 1 }) = v at *
    obtain ⟨⟨o, ho⟩, -⟩ := State.kill_spec v r .rerun false (by rw [self]; exact h)
    rw [self] at ho
    exact ⟨State.reaps_trans frame (State.reaps_kill v _ _), o, ho⟩

theorem State.killPreempt_of_not (s : State) (r : Nat) (h : ¬((s.task r).killable = true ∧ (s.task r).st = .running)) :
    s.killPreempt r = s := by
  unfold State.killPreempt
  dsimp only
  refine if_pos ?_
  cases hk : (s.task r).killable <;> simp_all

theorem State.culls_killPreempt (s : State) (r : Nat) : s.culls (s.killPreempt r) := by
  by_cases h : (s.task r).killable = true ∧ (s.task r).st = .running
  · obtain ⟨frame, task⟩ := State.killPreempt_spec s r h.1 h.2
    exact State.culls_of_reaps frame (.inr ⟨h.1, ⟨_, task⟩, frame.ops⟩)
  · rw [State.killPreempt_of_not s r h]
    exact State.culls_refl s

theorem State.culls_killRerun (s : State) (r : Nat) : s.culls (s.killRerun r) := State.killRerun_eq s r ▸ State.culls_kill s r _ _

theorem State.reaps_killRerun (s : State) (r : Nat) : s.reaps r Task.dead (s.killRerun r) := State.killRerun_eq s r ▸ State.reaps_kill s _ _

theorem State.killRerun_spec (s : State) (r : Nat) (h : (s.task r).killable = true) :
    (s.task r).killedBy ((s.killRerun r).task r) (s.rerunAfter r) := by
  rw [State.killRerun_eq]
  exact (State.kill_spec s r _ _ h).1

/-- A list of records is culled one by one, and its record `q`, where that kills, is killed. -/
theorem State.killed_of_mem_one {s : State} {g : State → Nat → State} {q : Nat} {a : After} (hc : ∀ u q, State.culls u (g u q))
    (hr : ∀ u q, State.reaps q Task.dead u (g u q))
    (hk : ∀ u, s.culls u → (s.task q).fewerOps (u.task q) → (s.task q).killedBy ((g u q).task q) a)
    (l : List Nat) (hq : q ∈ l) : (s.task q).killedBy ((l.foldl g s).task q) a := by
  have stays : ∀ (l : List Nat) (u : State), (s.task q).killedBy (u.task q) a → (s.task q).killedBy ((l.foldl g u).task q) a := by
    intro l u hu
    rcases (State.culls_foldl hc l u).tasks q with f | ⟨k, -⟩
    · exact Task.killedBy_fewer hu f
    · rw [Task.killable_of_killed (Task.killedBy_fields hu).1] at k
      exact absurd k Bool.false_ne_true
  have all : ∀ (l : List Nat) (u : State), s.culls u → (s.task q).fewerOps (u.task q) → q ∈ l →
      (s.task q).killedBy ((l.foldl g u).task q) a := by
    intro l
    induction l with
    | nil => exact fun u _ _ h => absurd h List.not_mem_nil
    | cons x l ih =>
      intro u hu hf hm
      by_cases hx : q = x
      · subst hx
        exact stays l _ (hk u hu hf)
      · refine ih (g u x) (State.culls_trans hu (hc u x)) (Task.fewerOps_trans hf ((hr u x).others q hx)) ?_
        exact (List.mem_cons.mp hm).resolve_left hx
  exact all l s (State.culls_refl s) (Task.fewerOps_refl _) hq

/-- A list of records is culled one by one, and `A` says what is left to do for each: every listed task that can be killed is. -/
theorem State.killed_of_mem {s : State} {g : State → Nat → State} (A : Nat → After) (hc : ∀ u q, State.culls u (g u q))
    (hr : ∀ u q, State.reaps q Task.dead u (g u q))
    (hk : ∀ u q, s.culls u → (s.task q).fewerOps (u.task q) → (s.task q).killable = true → (s.task q).killedBy ((g u q).task q) (A q))
    (l : List Nat) (q : Nat) (hq : q ∈ l) (h : (s.task q).killable = true) : (s.task q).killedBy ((l.foldl g s).task q) (A q) :=
  State.killed_of_mem_one hc hr (fun u hu hf => hk u q hu hf h) l hq

end Sys2Proof.Machine
end

section
/-! The life of a record after its run: TASK_RETIRE, RECORD_RELEASE, CONTINUATION_ADMIT (01 R15 to R17; 04 R112 to R124). -/

namespace Sys2Proof.Machine

set_option Elab.async false

/-! ### The lowest EMPTY record -/

/-- Where a number from `i` on satisfies `f`, the first one found is the lowest. -/
theorem firstFrom_of_mem (f : Nat → Bool) (fuel : Nat) : ∀ i r, i ≤ r → r < i + fuel → f r = true →
    ∃ k, firstFrom f fuel i = some k ∧ k ≤ r ∧ f k = true ∧ ∀ q, i ≤ q → q < k → f q = false := by
  induction fuel with
  | zero => exact fun i r h h' _ => absurd h' (by omega)
  | succ fuel ih =>
    intro i r h h' hr
    rw [firstFrom]
    cases hi : f i with
    | true => exact ⟨i, rfl, h, hi, fun q hq hq' => absurd hq' (by omega)⟩
    | false =>
      have hne : i ≠ r := fun e => by rw [e, hr] at hi; exact Bool.false_ne_true hi.symm
      obtain ⟨k, hk, hle, hf, hmin⟩ := ih (i + 1) r (by omega) (by omega) hr
      refine ⟨k, by simpa using hk, hle, hf, fun q hq hq' => ?_⟩
      rcases Nat.eq_or_lt_of_le hq with e | e
      · exact e ▸ hi
      · exact hmin q e hq'

theorem firstFrom_some (f : Nat → Bool) (fuel : Nat) : ∀ i k, firstFrom f fuel i = some k → f k = true := by
  induction fuel with
  | zero => exact fun i k h => nomatch h
  | succ fuel ih =>
    intro i k h
    rw [firstFrom] at h
    split at h
    · next hi => exact Option.some.inj h ▸ hi
    · exact ih (i + 1) k h

theorem State.emptyRec_some {s : State} {i : Nat} (h : s.emptyRec = some i) : (s.task i).st = .empty ∧ (s.task i).withdrawn = false := by
  have := firstFrom_some _ _ _ _ h
  simpa using this

/-- An EMPTY record that is not withdrawn bounds the lowest one (01 R15). -/
theorem State.emptyRec_le (s : State) (r : Nat) (hr : r < records) (hs : (s.task r).st = .empty) (hw : (s.task r).withdrawn = false) :
    ∃ i, s.emptyRec = some i ∧ i ≤ r ∧ (s.task i).st = .empty ∧ (s.task i).withdrawn = false ∧
      ∀ q, q < i → (s.task q).st ≠ .empty ∨ (s.task q).withdrawn = true := by
  obtain ⟨i, hi, hle, hf, hmin⟩ := firstFrom_of_mem (fun i => (s.task i).st == .empty && !(s.task i).withdrawn) records 0 r
    (Nat.zero_le r) (by omega) (by simp [hs, hw])
  obtain ⟨he, hn⟩ : (s.task i).st = .empty ∧ (s.task i).withdrawn = false := by simpa using hf
  refine ⟨i, hi, hle, he, hn, fun q hq => ?_⟩
  have := hmin q (Nat.zero_le q) hq
  by_cases h : (s.task q).st = .empty
  · exact .inr (by simpa [h] using this)
  · exact .inl h

/-! ### Admission (01 R15, R16) -/

/-- A task as it is ADMITTED in a record (01 R15, R16). -/
def Task.admittedAs (t : Task) (g o : Nat) : Task := { t with gen := g, st := .admitted, order := if t.front then t.order else o }

/-- A record keeps its task's identifier where its submission waits for it (03 R79). -/
def State.noteTid (s : State) (i g : Nat) (t : Task) : State :=
  if t.kind = .host ∨ t.kind = .admin then s.modQueue t.qk fun q =>
    { q with subs := q.subs.map fun x => if x.ord = t.ord then { x with tid := taskId i g } else x } else s

theorem State.only_noteTid (s : State) (i g : Nat) (t : Task) : s.only (s.noteTid i g t) [.queues] :=
  State.only_ite _ (State.only_modQueue s _ _) (State.only_refl s _)

theorem State.admitAt_eq (s : State) (i : Nat) (t : Task) : s.admitAt i t =
    let g := nextGen (s.task i).gen
    let u := ((s.modTask i fun _ => t.admittedAs g s.stamp).nextStamp).noteTid i g t
    (if t.kind = .admin || (t.front || t.resumed || s.jobKept t.part t.job) then u else u.noteJob t.part t.job t.fk).tick 0x010
      (if t.kind = .admin then none else some t.part) := rfl

theorem State.only_noteJob (s : State) (n : Nat) (j : Job) (vf : Nat) : s.only (s.noteJob n j vf) [.parts, .stamp] :=
  State.only_after (State.only_nextStamp _).sub (State.only_modPart s _ _).sub

/-- A task takes its record: the next generation, its place in the order, and no other record changes. -/
theorem State.admitAt_spec (s : State) (i : Nat) (t : Task) :
    let u := s.admitAt i t
    u.task i = t.admittedAs (nextGen (s.task i).gen) s.stamp ∧ (∀ q, q ≠ i → u.task q = s.task q) ∧
    s.only u [.tasks, .queues, .stamp, .parts, .cnt] ∧ (t.front = true ∨ t.resumed = true → s.only u [.tasks, .queues, .stamp, .cnt]) := by
  rw [State.admitAt_eq]
  dsimp only
  have tid := State.only_noteTid ((s.modTask i fun _ => t.admittedAs (nextGen (s.task i).gen) s.stamp).nextStamp) i (nextGen (s.task i).gen) t
  have stamp := State.only_nextStamp (s.modTask i fun _ => t.admittedAs (nextGen (s.task i).gen) s.stamp)
  have self := State.modTask_task_self s i fun _ => t.admittedAs (nextGen (s.task i).gen) s.stamp
  have others := fun q (h : q ≠ i) => State.modTask_task_ne s i (fun _ => t.admittedAs (nextGen (s.task i).gen) s.stamp) h
  have task := State.only_modTask s i fun _ => t.admittedAs (nextGen (s.task i).gen) s.stamp
  generalize (s.modTask i fun _ => t.admittedAs (nextGen (s.task i).gen) s.stamp) = a at *
  generalize (a.nextStamp).noteTid i (nextGen (s.task i).gen) t = b at *
  have hb : s.only b [.tasks, .queues, .stamp, .cnt] := State.only_after tid.sub (State.only_after stamp.sub task.sub)
  have bt : ∀ q, b.task q = a.task q := fun q => State.task_of ((tid .tasks (by decide)).trans (stamp .tasks (by decide))) q
  have job := State.only_noteJob b t.part t.job t.fk
  have tasks : ∀ (c : State) p, b.only c [.parts, .stamp] → ∀ q, (c.tick 0x010 p).task q = a.task q := fun c p hc q => by
    rw [State.task_of (State.only_tick c 0x010 p .tasks (by decide)), State.task_of (hc .tasks (by decide)), bt]
  refine ⟨?_, fun q hq => ?_, ?_, fun h => ?_⟩
  · rw [tasks _ _ (State.only_ite _ (State.only_refl b _) job), self]
  · rw [tasks _ _ (State.only_ite _ (State.only_refl b _) job), others q hq]
  · refine State.only_after (State.only_tick _ _ _).sub ?_
    exact State.only_ite _ hb.sub (State.only_after job.sub hb.sub)
  · refine State.only_after (State.only_tick _ _ _).sub ?_
    rw [if_pos (by rcases h with h | h <;> simp [h])]
    exact hb

/-! ### Slices that end with their job (08 R219) -/

/-- A partition whose slice runs for a job with a live task, or that runs none, ends none. -/
theorem State.idleEnd_of_calm (s : State) (n : Nat)
    (h : (s.part n).running = true → ∀ j, (s.part n).job = some j → s.jobLive n j = true) : s.idleEnd n = s := by
  unfold State.idleEnd
  split
  · next j hj =>
    refine if_neg fun hc => ?_
    simp only [Bool.and_eq_true, Bool.not_eq_true'] at hc
    rw [h hc.1 j hj] at hc
    exact Bool.noConfusion hc.2
  · rfl

/-- The job whose slice ends waits from now on (08 R218). -/
def State.waitsAnew (s : State) (n : Nat) (x : JobRec) : JobRec :=
  if (s.part n).job == some (x.job) then { x with since := s.stamp } else x

/-- The slice of a partition is over, and its job waits anew (08 R219). -/
def State.sliceOver (s : State) (n : Nat) : State :=
  (s.modPart n fun p => { p with running := false, draining := true, jobs := p.jobs.map (s.waitsAnew n) }).nextStamp

/-- The records of a partition's running tasks. -/
def State.runningOf (s : State) (n : Nat) : List Nat := s.recsWhere fun t => t.part == n && t.st == .running && t.kind != .admin

theorem State.endSlice_eq (s : State) (n : Nat) (h : (s.part n).running = true) : s.endSlice n =
    if (s.sliceOver n).verkai n then s.sliceOver n else ((s.sliceOver n).runningOf n).foldl State.killPreempt (s.sliceOver n) := by
  unfold State.endSlice
  dsimp only
  rw [if_neg (show ¬(!(s.part n).running) = true by simp [h])]
  rfl

theorem State.endSlice_of_not (s : State) (n : Nat) (h : (s.part n).running = false) : s.endSlice n = s := by
  unfold State.endSlice
  dsimp only
  rw [h]
  rfl

theorem State.only_sliceOver (s : State) (n : Nat) : s.only (s.sliceOver n) [.parts, .stamp] :=
  State.only_after (State.only_nextStamp _).sub (State.only_modPart s _ _).sub

/-- Pre-emption spares every task that does not run. -/
theorem State.spared_killPreempt (q : Nat) (l : List Nat) : ∀ s : State, (s.task q).st ≠ .running →
    (s.task q).fewerOps ((l.foldl State.killPreempt s).task q) := by
  induction l with
  | nil => exact fun s _ => Task.fewerOps_refl _
  | cons r l ih =>
    intro s hs
    have step : (s.task q).fewerOps ((s.killPreempt r).task q) := by
      by_cases h : (s.task r).killable = true ∧ (s.task r).st = .running
      · refine (State.killPreempt_spec s r h.1 h.2).1.others q fun e => ?_
        exact hs (e ▸ h.2)
      · rw [State.killPreempt_of_not s r h]
        exact Task.fewerOps_refl _
    exact Task.fewerOps_trans step (ih _ (by rw [Task.fewerOps_same step Task.st]; exact hs))

/-- The end of a slice spares every task that does not run (08 R223, R224). -/
theorem State.spared_endSlice (s : State) (n q : Nat) (h : (s.task q).st ≠ .running) :
    (s.task q).fewerOps ((s.endSlice n).task q) := by
  cases hr : (s.part n).running with
  | false =>
    rw [State.endSlice_of_not s n hr]
    exact Task.fewerOps_refl _
  | true =>
    have ht : ∀ q, (s.sliceOver n).task q = s.task q := State.task_of (State.only_sliceOver s n .tasks (by decide))
    rw [State.endSlice_eq s n hr, ← ht]
    split
    · exact Task.fewerOps_refl _
    · exact State.spared_killPreempt q _ _ (by rw [ht]; exact h)

theorem State.spared_idleEnd (s : State) (n q : Nat) (h : (s.task q).st ≠ .running) :
    (s.task q).fewerOps ((s.idleEnd n).task q) := by
  unfold State.idleEnd
  split
  · split
    · exact State.spared_endSlice s n q h
    · exact Task.fewerOps_refl _
  · exact Task.fewerOps_refl _

/-- The end of a slice culls, once its partition no longer runs it. -/
theorem State.culls_endSlice (s : State) (n : Nat) (h : (s.part n).running = true) : (s.sliceOver n).culls (s.endSlice n) := by
  rw [State.endSlice_eq s n h]
  exact State.culls_ite _ (State.culls_refl _) (State.culls_foldl State.culls_killPreempt _ _)

/-- What waits, and the frame, at the end of a slice that may be over. -/
theorem State.only_idleEnd (s : State) (n : Nat) : s.only (s.idleEnd n) reapParts ∧ (s.idleEnd n).xl.waiting = s.xl.waiting := by
  unfold State.idleEnd
  split
  · split
    · next j _ hc =>
      have hr : (s.part n).running = true := by
        simp only [Bool.and_eq_true] at hc
        exact hc.1
      have ends := State.only_sliceOver s n
      have cull := State.culls_endSlice s n hr
      refine ⟨State.only_trans ends.sub cull.only, ?_⟩
      have same : (s.sliceOver n).xl = s.xl := ends .xl (by decide)
      have waiting := congrArg Xl.waiting (State.xl_unended cull.kept)
      rw [← same]
      exact waiting
    · exact ⟨State.only_refl s _, rfl⟩
  · exact ⟨State.only_refl s _, rfl⟩

theorem State.engineAgain_of_none (s : State) (h : s.xl.waiting = []) : s.engineAgain = s := by
  unfold State.engineAgain
  rw [h]
  rfl

/-! ### RECORD_RELEASE -/

/-- The outcome is a next state in which `p` holds. -/
def nextHas (o : Host.Outcome State Fault Refusal) (p : State → Bool) : Bool := match o with
  | .next t => p t
  | _ => false

theorem nextHas_next {o : Host.Outcome State Fault Refusal} {p : State → Bool} {t : State} (h : nextHas o p = true) (ho : o = .next t) :
    p t = true := by
  rw [ho] at h
  exact h

/-- A task table that lists record 0 twice: the first entry, a killed task, is the one that counts; the second one keeps the
running job alive until the record is emptied, which removes both. -/
def twiceListed : State :=
  { tasks := [(0, { st := .killed, after := some (.fail 0) }), (0, { st := .running })]
    parts := [(0, { running := true, job := some (.plain 0 0 0) })] }

/-- Refutes O24: the statement does not ask for a table in canonical form. Where record 0 is listed twice, a job that is live
before the release of the record is gone with it, and the slice of its partition ends although the premise holds. -/
theorem not_recordReleaseRerunsOrEmpties : ¬ Obligations.RecordReleaseRerunsOrEmpties := by
  intro h
  obtain ⟨-, gives⟩ := h 0 twiceListed (by decide)
  obtain ⟨empties, -⟩ := gives (.inl ⟨by decide, by decide⟩) rfl
  obtain ⟨u, hu, -, calm⟩ := empties rfl
  obtain ⟨-, frame⟩ := calm fun _ j hj => by
    obtain rfl : Job.plain 0 0 0 = j := Option.some.inj hj
    decide
  have ends : nextHas (exec (.recordRelease 0) twiceListed) (fun t => !(t.part 0).running) = true := by decide +kernel
  have ended := nextHas_next ends hu
  have kept : (u.part 0).running = true := by
    rw [State.part_of (frame .parts (by decide))]
    rfl
  simp [kept] at ended

/-! ### CONTINUATION_ADMIT -/

theorem State.emptyRecord_task (s : State) (r q : Nat) : (s.emptyRecord r).task q =
    if q = r then { gen := (s.task r).gen, withdrawn := (s.task r).withdrawn } else s.task q := State.modTask_task s r _ q

/-- Settles O25: the given-up record bounds the lowest EMPTY one, which the continuation takes with the context saved. -/
theorem continuationResumesContext : Obligations.ContinuationResumesContext := by
  intro r s hr hs hy hw room
  obtain ⟨k, v, hv, frame, -⟩ := State.takeContext_spec s (s.task r).part room
  have vt : ∀ q, v.task q = s.task q := State.task_of (frame .tasks (by decide))
  have tasks : ∀ q, (v.emptyRecord r).task q =
      if q = r then { gen := (s.task r).gen, withdrawn := (s.task r).withdrawn } else s.task q := fun q => by
    rw [State.emptyRecord_task, vt, vt]
  obtain ⟨i, hi, hle, -, -, low⟩ := State.emptyRec_le (v.emptyRecord r) r hr (by rw [tasks, if_pos rfl]) (by rw [tasks, if_pos rfl]; exact hw)
  have gen : ((v.emptyRecord r).task i).gen = (s.task i).gen := by
    rw [tasks]
    split
    · next h => rw [h]
    · rfl
  have he : exec (.continuationAdmit r) s = done s ((v.emptyRecord r).admitAt i (s.nextSegment (s.task r) k)) := by
    refine congrArg (done s) ?_
    simp only [hs, hy, hv]
    refine (if_pos rfl).trans ?_
    unfold State.admission
    rw [hi]
  obtain ⟨task, others, -, only⟩ := State.admitAt_spec (v.emptyRecord r) i (s.nextSegment (s.task r) k)
  have only := only (.inr rfl)
  generalize (v.emptyRecord r).admitAt i (s.nextSegment (s.task r) k) = x at *
  obtain ⟨u, hu, -, -, ho, fix⟩ := done_spec s x
  have ht := State.task_of (ho .tasks (by decide))
  refine ⟨u, i, k, he.trans hu, hle, fun q hq => ?_, by rw [ht, task]; rfl, by rw [ht, task, ← gen]; rfl, by rw [ht, task]; rfl,
    by rw [ht, task]; rfl, by rw [ht, task]; rfl, by rw [ht, task]; rfl, by rw [ht, task]; rfl, by rw [ht, task]; rfl,
    fun hne => ?_, fun q hq hqi => ?_, fix _ (by decide) ?_⟩
  · have := low q hq
    rw [tasks, if_neg (by omega)] at this
    exact this
  · rw [ht, others r hne.symm, tasks, if_pos rfl]
  · rw [ht, others q hqi, tasks, if_neg hq]
  · exact State.only_after only.sub (State.only_after (State.only_modTask v r _).sub frame.sub)

/-! ### TASK_RETIRE -/

theorem State.only_noteReleased (s : State) (n : Nat) : s.only (s.noteReleased n) [.objs] := by
  intro f hf
  cases f <;> first | rfl | simp at hf

theorem State.only_releaseObj (s : State) (n : Nat) : s.only (s.releaseObj n) [.sto, .parts, .objs] := by
  rw [State.releaseObj_eq]
  refine State.only_after (State.only_noteReleased _ n).sub ?_
  refine State.only_after (State.only_modObj _ _ _).sub (State.only_after (State.only_modPart _ _ _).sub ?_)
  exact State.only_after (State.only_modSto _ _).sub (State.only_after (State.only_freePages _ _).sub (State.only_freePages _ _).sub)

theorem State.only_settleObj (s : State) (n : Nat) : s.only (s.settleObj n) [.sto, .parts, .objs] :=
  State.only_ite _ (State.only_releaseObj s n) (State.only_refl s _)

/-- References return: the task's list is empty, and objects that closed with their last reference are released (11 R311). -/
theorem State.only_dropRefs (s : State) (r : Nat) :
    (s.modTask r fun t => { t with refs := [] }).only (s.dropRefs r) [.sto, .parts, .objs] := by
  rw [State.dropRefs_eq]
  exact State.only_each _ (fun u n => State.only_after (State.only_settleObj _ n) (State.only_modObj u n _).sub) _ _

theorem State.only_dropX (s : State) (p : Who → Bool) : s.only (s.dropX p) [.xl] := by
  unfold State.dropX State.dropUse
  exact State.only_ite _ (State.only_refl s _) (State.only_modXl s _)

/-- An ENQUEUE that a release admits takes an EMPTY record, so a COMMITTING one stays (04 R112). -/
theorem State.releaseEnq_task (s : State) (r q pa len n : Nat) (cbp : Option Nat) (cb : List W64) (h : (s.task n).st ≠ .empty) :
    (s.releaseEnq r q pa len cbp cb).task n = s.task n := by
  unfold State.releaseEnq
  dsimp only
  split
  · unfold State.admission
    split
    · next i hi =>
      refine (State.admitAt_spec s i _).2.1 n fun e => h ?_
      rw [e]
      exact (State.emptyRec_some hi).1
    · rfl
  · exact State.task_of (State.only_geqNotice _ _ _ .tasks (by decide)) n

/-- A release's ENQUEUEs, in issue order (04 R112). -/
def State.releaseEnqs (s : State) (r : Nat) (l : List (Nat × Stg)) : State := s.each l fun u e => match e.2 with
  | .enq q pa len cbp cb => u.releaseEnq r q pa len cbp cb
  | _ => u

theorem State.releaseEnqs_task (s : State) (r n : Nat) (l : List (Nat × Stg)) (h : (s.task n).st ≠ .empty) :
    (s.releaseEnqs r l).task n = s.task n := by
  refine State.each_keeps (P := fun u => u.task n = s.task n) (fun u e hu => ?_) l s rfl
  split
  · exact (State.releaseEnq_task u r _ _ _ n _ _ (by rw [hu]; exact h)).trans hu
  · exact hu

/-- A record that is RETIRED: nothing is staged, and what it had read is forgotten. -/
def Task.retire (t : Task) : Task := { t with st := .retired, staged := [], lines := [], got := [] }

/-- The record is RETIRED once its ENQUEUEs have left and its references have returned. -/
def State.toRetired (s : State) (r : Nat) (t : Task) : State :=
  ((((s.dropRefs r).dropX (Who.ofTask r t.gen)).modTask r Task.retire).tick 0x012 (if t.kind = .admin then none else some t.part)).endTags
    (fun g => g.r == r && g.gen == t.gen) false

theorem State.retireNow_eq (s : State) (r : Nat) :
    s.retireNow r = ((s.releaseEnqs r (sortIss (s.task r).staged)).toRetired r (s.task r)).retired r := rfl

/-- What retiring reaches beside counts and samples. -/
def retireParts : List Field := [.tasks, .sto, .parts, .objs, .xl, .cnt, .out, .freeCtr, .funcs]

theorem State.toRetired_spec (s : State) (r : Nat) (t : Task) :
    ((s.toRetired r t).task r).unwin = Task.retire { (s.task r).unwin with refs := [] } ∧ s.only (s.toRetired r t) retireParts ∧
      ∀ n, ((s.toRetired r t).part n).running = (s.part n).running := by
  have refs := State.dropRefs_unwin (r := r) s
  have only := State.only_dropRefs s r
  have kept := (State.reaps_dropRefs (r := r) s).kept
  unfold State.toRetired
  generalize s.dropRefs r = a at *
  have drop := State.only_dropX a (Who.ofTask r t.gen)
  generalize a.dropX (Who.ofTask r t.gen) = b at *
  have self := State.modTask_task_self b r Task.retire
  have mod := State.only_modTask b r Task.retire
  generalize b.modTask r Task.retire = c at *
  have tick := State.only_tick c 0x012 (if t.kind = .admin then none else some t.part)
  generalize c.tick 0x012 (if t.kind = .admin then none else some t.part) = d at *
  have tags := State.only_endTags d (fun g => g.r == r && g.gen == t.gen) false
  generalize d.endTags (fun g => g.r == r && g.gen == t.gen) false = e at *
  refine ⟨?_, ?_, fun n => ?_⟩
  · rw [State.task_of (tags .tasks (by decide)), State.task_of (tick .tasks (by decide)), self, State.task_of (drop .tasks (by decide))]
    exact congrArg Task.retire refs
  · exact State.only_after tags.sub (State.only_after tick.sub (State.only_after mod.sub (State.only_after drop.sub
      (State.only_after only.sub (State.only_modTask s r _).sub))))
  · rw [State.part_of (tags .parts (by decide)), State.part_of (tick .parts (by decide)), State.part_of (mod .parts (by decide)),
      State.part_of (drop .parts (by decide))]
    exact State.part_same kept Part.running n

theorem State.reaps_retired (s : State) (r : Nat) (f : Task → Task) : s.reaps r f (s.retired r) := by
  unfold State.retired
  dsimp only
  split
  · exact State.reaps_refl s
  · refine State.reaps_trans (State.reaps_vfTick s (s.task r).fk 2 1) (State.reaps_ite _ (State.reaps_dueEnq _ _ _ _ _ _ _ _ _) ?_)
    have given := State.reaps_modQueue (r := r) (f := f) (s.vfTick (s.task r).fk 2 1) (s.task r).qk (Queue.give 1)
    exact State.reaps_ite _ (State.reaps_trans given (State.reaps_geqPost _ _ _)) given
  · exact State.reaps_finishSub _ _ _ _ _ _ _ _ _

/-- TASK_RETIRE of a record whose release is done: the record is RETIRED, and the slice of its partition may be over. -/
theorem State.taskRetire_exec (s : State) (r : Nat) (hs : (s.task r).st = .committing) (hr : (s.task r).released = true)
    (hg : (s.task r).sigs = 0) : exec (.taskRetire r) s =
      done s (if (s.task r).kind = .admin then s.retireNow r else (s.retireNow r).idleEnd (s.task r).part) := by
  have rel : s.release r = s := by
    unfold State.release
    dsimp only
    rw [hr]
    rfl
  refine congrArg (done s) ?_
  refine (if_neg (by simp [hs])).trans ?_
  rw [rel]
  refine (if_pos (by simp [hr, hg])).trans rfl

/-! The outcome of a host submission that its last segment ends (04 R112, R113; 03 R87). -/

theorem Queue.pump_subs (k : Nat) : ∀ q : Queue, (q.pump k).subs = q.subs := by
  induction k with
  | zero => exact fun _ => rfl
  | succ k ih =>
    intro q
    rw [Queue.pump]
    split
    · split
      · exact ih _
      · rfl
    · rfl

theorem State.geqStatus_queues (s : State) (qk p st src tid seq bad : Nat) : (s.geqStatus qk p st src tid seq bad).queues = s.queues := by
  unfold State.geqStatus
  split
  · rfl
  · exact State.only_geqPost _ _ _ .queues (by decide)

/-- The only submission with an ordinal, undecided so far, is decided. -/
theorem State.mem_finishSub (s : State) (qk ord st : Nat) (v : W64) (a b c : Bool) (bad : Nat) (x : Sub)
    (hx : x ∈ (s.queue qk).subs) (ho : x.ord = ord) (hu : ∀ y ∈ (s.queue qk).subs, y.ord = ord → y = x) (hf : x.fin = none) :
    { x with fin := some ⟨st, v, a, b, c⟩ } ∈ ((s.finishSub qk ord st v a b c bad).queue qk).subs := by
  have hfind : ((s.queue qk).subs.find? fun x => x.ord == ord) = some x := by
    cases h : (s.queue qk).subs.find? fun x => x.ord == ord with
    | none => exact absurd (List.find?_eq_none.mp h x hx) (by simp [ho])
    | some y =>
      have := List.find?_some h
      rw [hu y (List.mem_of_find?_eq_some h) (by simpa using this)]
  have mem : ∀ u : State, u.queues = (s.modQueue qk fun q =>
      ({ q with subs := q.subs.map fun y => if y.ord = ord then { y with fin := some ⟨st, v, a, b, c⟩ } else y } : Queue).pump
        (q.subs.map fun y => if y.ord = ord then { y with fin := some ⟨st, v, a, b, c⟩ } else y).length).queues →
      { x with fin := some ⟨st, v, a, b, c⟩ } ∈ (u.queue qk).subs := fun u hq => by
    rw [State.queue_of hq, State.modQueue_queue_self, Queue.pump_subs]
    exact List.mem_map.mpr ⟨x, hx, if_pos ho⟩
  unfold State.finishSub
  rw [hfind]
  dsimp only
  rw [hf, if_neg (by decide : ¬(none : Option Fin').isSome = true)]
  split
  · exact mem _ rfl
  · exact mem _ (State.geqStatus_queues _ _ _ _ _ _ _ _)

/-- A host segment that ends its submission decides it, without a record where its queue is being destroyed (03 R96). -/
theorem State.retired_host (s : State) (r : Nat) (hk : (s.task r).kind = .host) (he : (s.task r).ending ≠ .yield) :
    s.retired r = s.finishSub (s.task r).qk (s.task r).ord (s.task r).cstat (s.task r).summary false
      ((s.queue (s.task r).qk).st == .destroying) true (s.task r).badAt := by
  unfold State.retired
  dsimp only
  rw [hk]
  cases h : (s.task r).ending with
  | yield => exact absurd h he
  | _ => rfl

/-- Settles O23: the record is RETIRED as its release leaves it, and its submission is decided with what the commit met. -/
theorem taskRetires : Obligations.TaskRetires := by
  intro r s hs hr hg
  have enqs := State.releaseEnqs_task s r r (sortIss (s.task r).staged) (by rw [hs]; decide)
  obtain ⟨task, frame, runs⟩ := State.toRetired_spec (s.releaseEnqs r (sortIss (s.task r).staged)) r (s.task r)
  have he := State.taskRetire_exec s r hs hr hg
  rw [State.retireNow_eq] at he
  rw [enqs] at task
  have quiet : (s.task r).staged = [] → s.releaseEnqs r (sortIss (s.task r).staged) = s := fun h => by rw [h]; rfl
  generalize hv : (s.releaseEnqs r (sortIss (s.task r).staged)).toRetired r (s.task r) = v at *
  have out := State.reaps_retired v r Task.unwin
  have spared := State.spared_idleEnd (v.retired r) (s.task r).part r (by
    have := congrArg Task.st (out.own.trans task)
    rw [show ((v.retired r).task r).st = RecSt.retired from this]
    decide)
  have ends : ((if (s.task r).kind = .admin then v.retired r else (v.retired r).idleEnd (s.task r).part).task r).unwin =
      Task.retire { (s.task r).unwin with refs := [] } := by
    split
    · exact out.own.trans task
    · exact spared.same.trans (out.own.trans task)
  obtain ⟨u, hu, -, -, ho, -⟩ := done_spec s (if (s.task r).kind = .admin then v.retired r else (v.retired r).idleEnd (s.task r).part)
  have same : ∀ {α : Type} (g : Task → α), g (u.task r).unwin = g (Task.retire { (s.task r).unwin with refs := [] }) := fun g => by
    rw [State.task_of (ho .tasks (by decide)), ends]
  refine ⟨u, he.trans hu, same Task.st, same Task.staged, same Task.refs, same Task.gen, same Task.ctx, fun idle none kind last x hx hord uniq fin => ?_⟩
  have vs : s.only v retireParts := by
    rw [quiet none] at frame
    exact frame
  have qs : ∀ k, v.queue k = s.queue k := State.queue_of (vs .queues (by decide))
  have same' : ∀ {α : Type} (g : Task → α), g (v.task r).unwin = g (Task.retire { (s.task r).unwin with refs := [] }) := fun g => by
    rw [task]
  have still : (v.retired r).idleEnd (s.task r).part = v.retired r := State.idleEnd_of_calm _ _ fun h => by
    rw [State.part_same out.kept Part.running, runs, quiet none, idle] at h
    exact absurd h Bool.false_ne_true
  have decided := State.retired_host v r ((same' Task.kind).trans kind) (by rw [show (v.task r).ending = (s.task r).ending from same' Task.ending]; exact last)
  have qk : (v.task r).qk = (s.task r).qk := same' Task.qk
  have ord : (v.task r).ord = (s.task r).ord := same' Task.ord
  have stat : (v.task r).cstat = (s.task r).cstat := same' Task.cstat
  have sum : (v.task r).summary = (s.task r).summary := same' Task.summary
  rw [qk, ord, stat, sum, qs] at decided
  rw [State.queue_of (ho .queues (by decide)), if_neg (by rw [kind]; decide), still, decided]
  exact State.mem_finishSub v _ _ _ _ _ _ _ _ x (by rw [qs]; exact hx) hord (by rw [qs]; exact uniq) fin

end Sys2Proof.Machine
end

section
/-! Queues: access through windows, doorbells, the ends of a queue (03 R72, R76, R83, R91, R95, R96; 08 R249). -/

namespace Sys2Proof.Machine

set_option Elab.async false

/-! ### Local queues -/

theorem qkey_div (f q : Nat) (h : q < 64) : qkey f q / 64 = f := by
  unfold qkey
  omega

theorem qkey_mod (f q : Nat) (h : q < 64) : qkey f q % 64 = q := by
  unfold qkey
  omega

/-- Local queue `q` can be reached through window `w`: a PF has 16 queues, and a designation exists (02 R39; 03 R72). -/
def State.reaches (s : State) (w : Window) (q : Nat) : Prop := match w with
  | .pf _ => q < 16 ∧ s.boot.operator.isSome = true
  | _ => q < 64

theorem State.reaches_lt {s : State} {w : Window} {q : Nat} (h : s.reaches w q) : q < 64 := by
  cases w with
  | pf p => exact Nat.lt_trans h.1 (by decide)
  | vf p i => exact h
  | rot => exact h

theorem State.linkUp_of_pf {s : State} {p fk : Nat} (h : s.winFunc (.pf p) = some fk) : (s.func (pfKey p)).linkUp = true ∧ fk = pfKey p := by
  unfold State.winFunc at h
  dsimp only at h
  split at h
  · next hc =>
    simp only [Bool.and_eq_true] at hc
    exact ⟨hc.2, (Option.some.inj h).symm⟩
  · exact absurd h (by simp)

/-- A write at an open PF acts (02 R39). -/
theorem State.pfOpen_open (s : State) (p off : Nat) (g : State → State) (hl : (s.func (pfKey p)).linkUp = true)
    (ho : s.boot.operator.isSome = true) : s.pfOpen p off g = g s := by
  unfold State.pfOpen
  rw [hl, Option.isNone_eq_false_iff.mpr ho]
  rfl

/-- A write through a window that reaches the queue acts on it (03 R72). -/
theorem State.onQueue_open (s : State) (w : Window) (q off fk : Nat) (g : Nat → State → State) (hw : s.winFunc w = some fk)
    (hr : s.reaches w q) : s.onQueue w q off g = g (qkey fk q) s := by
  unfold State.onQueue
  rw [hw]
  cases w with
  | pf p =>
    obtain ⟨hl, -⟩ := State.linkUp_of_pf hw
    dsimp only
    rw [if_pos hr.1]
    exact State.pfOpen_open s p off _ hl hr.2
  | vf p i => exact if_pos hr
  | rot => exact if_pos hr

/-- Only the value of a change at its own queue matters. -/
theorem State.modQueue_congr (s : State) (k : Nat) {g g' : Queue → Queue} (h : g (s.queue k) = g' (s.queue k)) :
    s.modQueue k g = s.modQueue k g' := by
  unfold State.modQueue
  rw [h]

/-- A command that changes one queue alone. -/
theorem done_modQueue (s : State) (k : Nat) (g : Queue → Queue) : done s (s.modQueue k g) = .next (s.modQueue k g) :=
  done_of_only (State.only_modQueue s k g) rfl

/-! ### The ends of a queue, completion heads -/

/-- Units that return are free, the others are held as before. -/
theorem State.units_freeUnits (l : List Nat) (u : Nat) : ∀ s : State,
    Tab.get none (s.each l State.freeUnit).sto.units u = if u ∈ l then none else Tab.get none s.sto.units u := by
  induction l with
  | nil => exact fun s => rfl
  | cons x l ih =>
    intro s
    refine (ih (s.freeUnit x)).trans ?_
    have free : Tab.get none (s.freeUnit x).sto.units u = if u = x then none else Tab.get none s.sto.units u :=
      Tab.get_set none s.sto.units u x none
    rw [free]
    by_cases hx : u = x
    · simp [hx]
    · simp [hx]

theorem State.only_freeUnits (s : State) (l : List Nat) : s.only (s.each l State.freeUnit) [.sto] :=
  State.only_each _ (fun u a => State.only_freeUnit u a) l s

/-- A queue that is ABSENT again: its shadow is free, and after an FLR its registers have their reset values (02 R48; 03 R96). -/
def Queue.absent (x : Queue) : Queue :=
  let x := { x with st := .absent, shadow := [] }
  if x.flr then x.flrReset else x

theorem Queue.absent_st (x : Queue) : x.absent.st = .absent ∧ x.absent.shadow = [] := by
  unfold Queue.absent
  dsimp only
  split <;> exact ⟨rfl, rfl⟩

theorem Queue.absent_of_not_flr (x : Queue) (h : x.flr = false) : x.absent = { x with st := .absent, shadow := [] } := by
  unfold Queue.absent
  dsimp only
  rw [h]
  rfl

theorem State.queueAbsent_spec (s : State) (f q : Nat) (hs : (s.queue (qkey f q)).st = .destroying) (hsubs : (s.queue (qkey f q)).subs = [])
    (hd : (s.queue (qkey f q)).due = []) (hc : (s.queue (qkey f q)).credHeld = 0) : ∃ t, exec (.queueAbsent f q) s = .next t ∧
      t.queue (qkey f q) = (s.queue (qkey f q)).absent ∧
      (∀ u, Tab.get none t.sto.units u = if u ∈ (s.queue (qkey f q)).shadow then none else Tab.get none s.sto.units u) ∧
      (∀ k, k ≠ qkey f q → t.queue k = s.queue k) ∧ s.only t [.queues, .sto, .xl] := by
  have he : exec (.queueAbsent f q) s = done s ((((s.modQueue (qkey f q) Queue.absent).each (s.queue (qkey f q)).shadow State.freeUnit).dropX
      fun w => w == .slots (qkey f q) || w == .record (qkey f q)).modSto fun m => { m with overflow := m.overflow.erase (qkey f q) }) := by
    refine congrArg (done s) ((if_pos ?_).trans rfl)
    simp [hs, hsubs, hd, hc]
  have mod := State.only_modQueue s (qkey f q) Queue.absent
  have self := State.modQueue_queue_self s (qkey f q) Queue.absent
  have others := fun k (h : k ≠ qkey f q) => State.modQueue_queue_ne s (qkey f q) Queue.absent h
  generalize s.modQueue (qkey f q) Queue.absent = a at *
  have free := State.only_freeUnits a (s.queue (qkey f q)).shadow
  have units := fun u => State.units_freeUnits (s.queue (qkey f q)).shadow u a
  generalize a.each (s.queue (qkey f q)).shadow State.freeUnit = b at *
  have drop := State.only_dropX b (fun w => w == .slots (qkey f q) || w == .record (qkey f q))
  generalize b.dropX (fun w => w == .slots (qkey f q) || w == .record (qkey f q)) = c at *
  have only : s.only (c.modSto fun m => { m with overflow := m.overflow.erase (qkey f q) }) [.queues, .sto, .xl] :=
    State.only_after (State.only_modSto _ _).sub (State.only_after drop.sub (State.only_after free.sub mod.sub))
  have qs : ∀ k, (c.modSto fun m => { m with overflow := m.overflow.erase (qkey f q) }).queue k = a.queue k := fun k =>
    State.queue_of ((drop .queues (by decide)).trans (free .queues (by decide))) k
  refine ⟨_, he.trans (done_of_only only (by rw [only .boot (by decide)])), (qs _).trans self, fun u => ?_,
    fun k hk => (qs k).trans (others k hk), only⟩
  have stored : a.sto = s.sto := mod .sto (by decide)
  have dropped : c.sto = b.sto := drop .sto (by decide)
  show Tab.get none c.sto.units u = _
  rw [dropped, units u, stored]

/-- A head write takes effect, or is refused, by what its queue holds (03 R91). -/
theorem State.cplHeadSet_eq (s : State) (k h : Nat) : s.cplHeadSet k h = s.modQueue k fun x =>
    if x.cplRing < dist 24 x.c h then { x with refused := satAdd 0xFFFF x.refused 1 } else { x with cplHead := h } := by
  unfold State.cplHeadSet
  dsimp only
  split
  · next hc => exact State.modQueue_congr s k (if_pos hc).symm
  · next hc => exact State.modQueue_congr s k (if_neg hc).symm

theorem State.exec_qCplHeadWrite (s : State) (w : Window) (q f : Nat) (v : W64) (hw : s.winFunc w = some f) (hr : s.reaches w q) :
    exec (.qCplHeadWrite w q v) s = done s (s.cplHeadSet (qkey f q) (fld v 23 0)) := by
  have he : exec (.qCplHeadWrite w q v) s =
      done s (s.onQueue w q (0x1000 + q * 0x100 + 0x30) fun qk u => u.cplHeadSet qk (fld v 23 0)) := rfl
  rw [he, State.onQueue_open s w q _ f _ hw hr]

theorem State.cplHeadWrite_spec (s : State) (w : Window) (q f : Nat) (v : W64) (hw : s.winFunc w = some f) (hr : s.reaches w q) :
    exec (.qCplHeadWrite w q v) s = .next (s.modQueue (qkey f q) fun x =>
      if x.cplRing < dist 24 x.c (fld v 23 0) then { x with refused := satAdd 0xFFFF x.refused 1 } else { x with cplHead := fld v 23 0 }) := by
  rw [State.exec_qCplHeadWrite s w q f v hw hr, State.cplHeadSet_eq]
  exact done_modQueue s (qkey f q) _

theorem State.exec_heldClear (s : State) (w : Window) (q f : Nat) (hw : s.winFunc w = some f) (hr : s.reaches w q) :
    exec (.heldClear w q) s = done s (s.modQueue (qkey f q) fun q => { q with held := false, heldRec := [] }) :=
  congrArg (done s) (State.onQueue_open s w q _ f (fun k u => u.modQueue k fun q => { q with held := false, heldRec := [] }) hw hr)

/-- Settles O41: each end of a queue, and each head write, reaches its queue and what that queue held. -/
theorem queueEndsAndHeads : Obligations.QueueEndsAndHeads := by
  intro f q s
  refine ⟨fun hs hw hsubs hd hc => ?_, fun hs hsubs hd hc => ?_, fun w hw hr => ⟨fun v => ?_, ?_⟩⟩
  · have he : exec (.queueQuiesced f q) s = done s (s.modQueue (qkey f q) fun x => { x with st := .quiesced }) := by
      refine congrArg (done s) (if_pos ?_)
      simp [hs, hw, hsubs, hd, hc]
    exact he.trans (done_modQueue s _ _)
  · obtain ⟨t, ht, queue, units, others, only⟩ := State.queueAbsent_spec s f q hs hsubs hd hc
    obtain ⟨st, shadow⟩ := (s.queue (qkey f q)).absent_st
    exact ⟨t, ht, by rw [queue, st], by rw [queue, shadow], fun h => queue.trans (Queue.absent_of_not_flr _ h), units, others, only⟩
  · have reach : s.reaches w q := by cases w <;> exact hr
    exact State.cplHeadWrite_spec s w q f v hw reach
  · have reach : s.reaches w q := by cases w <;> exact hr
    exact (State.exec_heldClear s w q f hw reach).trans (done_modQueue s _ _)

/-! ### What errors and messages leave of a function -/

/-- The functions of two states differ in their pending vectors alone (03 R92). -/
def State.pends (s t : State) : Prop := ∀ f, ∃ p, t.func f = { s.func f with pend := p }

theorem State.pends_refl (s : State) : s.pends s := fun f => ⟨(s.func f).pend, rfl⟩

theorem State.pends_of_only {s t : State} {l : List Field} (h : s.only t l) (hl : .funcs ∉ l := by decide) : s.pends t := fun f =>
  ⟨(s.func f).pend, State.func_of (h .funcs hl) f⟩

theorem State.pends_trans {s t u : State} (h : s.pends t) (g : t.pends u) : s.pends u := fun f => by
  obtain ⟨p, hp⟩ := h f
  obtain ⟨q, hq⟩ := g f
  exact ⟨q, by rw [hq, hp]⟩

theorem State.pends_signalVec (s : State) (f v : Nat) : s.pends (s.signalVec f v) := by
  unfold State.signalVec
  split
  · exact State.pends_of_only (State.only_send s _)
  · intro k
    rw [State.modFunc_func]
    split
    · next h => exact ⟨setBit (s.func k).pend v, by rw [h]⟩
    · exact ⟨(s.func k).pend, rfl⟩

theorem State.pends_signalQueue (s : State) (k : Nat) : s.pends (s.signalQueue k) := by
  unfold State.signalQueue
  dsimp only
  split
  · exact State.pends_signalVec s _ _
  · exact State.pends_refl s

theorem State.pends_geqPost (s : State) (r : GeqRec) (k : Option GKey) : s.pends (s.geqPost r k) := by
  have put : s.pends (((s.geqMirror (s.geqStamped r k)).modGeq fun g => g.put s.now (s.geqStamped r k) k).tick 0x1C0 none) :=
    State.pends_of_only (State.only_after (State.only_tick _ _ _).sub (State.only_after (State.only_modGeq _ _).sub
      (State.only_geqMirror s _).sub) : s.only _ [.cnt, .geq, .out, .sto, .xl, .freeCtr, .objs])
  unfold State.geqPost
  dsimp only
  split
  · exact State.pends_of_only (State.only_modGeq s _)
  · split
    · exact State.pends_of_only (State.only_modGeq s _)
    · split
      · exact put
      · refine State.pends_trans put ?_
        unfold State.geqIrq
        split
        · split
          · exact State.pends_signalVec _ _ _
          · exact State.pends_refl _
        · exact State.pends_refl _

theorem State.pends_same {s t : State} (h : s.pends t) {α : Type} (g : Func → α) (f : Nat)
    (hg : ∀ x p, g { x with pend := p } = g x := by intro x p; rfl) : g (t.func f) = g (s.func f) := by
  obtain ⟨p, hp⟩ := h f
  rw [hp, hg]

theorem bit_setBit_self (v : W64) (n : Nat) (h : n < 64) : bit (setBit v n) n = true := by
  unfold bit setBit
  rw [BitVec.testBit_toNat, BitVec.getLsbD_or, BitVec.getLsbD_ofNat, Nat.testBit_two_pow_self, decide_eq_true h, Bool.and_self, Bool.or_true]

/-- A notice sets the queue's error bit, but not while an FLR destroys the queue (03 R92, R93). -/
theorem State.notice_errSum (s : State) (f q st : Nat) (hq : q < 64) (hf : (s.queue (qkey f q)).flr = false) :
    bit ((s.notice (qkey f q) st).func f).errSum q = true := by
  have post := State.pends_geqPost (s.setErrBit (qkey f q))
  have set : bit ((s.setErrBit (qkey f q)).func f).errSum q = true := by
    unfold State.setErrBit
    dsimp only
    rw [qkey_div f q hq, qkey_mod f q hq, hf, Bool.or_false]
    split
    · next h => exact h
    · rw [State.pends_same (State.pends_signalQueue _ _) Func.errSum, State.modFunc_func_self]
      exact bit_setBit_self _ q hq
  unfold State.notice State.geqNotice
  rw [State.pends_same (post _ _) Func.errSum]
  exact set

/-! ### Doorbells -/

theorem State.exec_doorbell (s : State) (w : Window) (q f : Nat) (v : W32) (hw : s.winFunc w = some f) (hr : s.reaches w q) :
    exec (.doorbell w q v) s = done s (s.ring (qkey f q) (fld v 31 24) (fld v 23 0)) :=
  congrArg (done s) (State.onQueue_open s w q _ f (fun k u => u.ring k (fld v 31 24) (fld v 23 0)) hw hr)

/-- A taken doorbell sets TAIL, counts, and is one to look at again (03 R83, R85). -/
def State.rung (s : State) (k t : Nat) : State :=
  ((s.modQueue k fun q => { q with tail := t, unreadable := false }).tick 0x000 (some (s.partOf (k / 64)))).vfTick (k / 64) 0 1

theorem State.ring_stale (s : State) (k g t : Nat) (h : g ≠ (s.queue k).gen) : s.ring k g t =
    (s.modQueue k fun q => { q with stale := satAdd 0xFFFF q.stale 1 }).tick 0x001 (some (s.partOf (k / 64))) := if_pos h

theorem State.ring_refused (s : State) (k g t : Nat) (h : g = (s.queue k).gen)
    (hs : (s.queue k).st ≠ .enabled ∨ (s.queue k).poisoned = true) : s.ring k g t = s.modQueue k Queue.refuse :=
  (if_neg (not_not.mpr h)).trans (if_pos hs)

/-- The new tail lies within the ring, and not behind the old one (03 R83). -/
def Queue.fits (x : Queue) (t : Nat) : Prop := dist 24 t x.head ≤ x.ring ∧ dist 24 t x.tail ≤ dist 24 t x.head

theorem State.ring_open (s : State) (k g t : Nat) (h : g = (s.queue k).gen) (hs : (s.queue k).st = .enabled)
    (hp : (s.queue k).poisoned = false) : (¬(s.queue k).fits t → s.ring k g t = (s.modQueue k Queue.refuse).notice k 0x19) ∧
      ((s.queue k).fits t → s.ring k g t =
        if 0 < (s.queue k).free - (s.queue k).uncredited ∧ (s.queue k).free - (s.queue k).uncredited < dist 24 t (s.queue k).tail
        then (s.rung k t).overload k else s.rung k t) := by
  have sound : ¬((s.queue k).st ≠ .enabled ∨ (s.queue k).poisoned = true) := by simp [hs, hp]
  have go : s.ring k g t = if (s.queue k).ring < dist 24 t (s.queue k).head ∨ dist 24 t (s.queue k).head < dist 24 t (s.queue k).tail
      then (s.modQueue k Queue.refuse).notice k 0x19
      else if 0 < (s.queue k).free - (s.queue k).uncredited ∧ (s.queue k).free - (s.queue k).uncredited < dist 24 t (s.queue k).tail
        then (s.rung k t).overload k else s.rung k t := (if_neg (not_not.mpr h)).trans ((if_neg sound).trans rfl)
  unfold Queue.fits
  exact ⟨fun hf => go.trans (if_pos (by omega)), fun hf => go.trans (if_neg (by omega))⟩

theorem State.only_rung (s : State) (k t : Nat) : s.only (s.rung k t) [.queues, .cnt, .funcs] :=
  State.only_after (State.only_vfTick _ _ _ _).sub (State.only_after (State.only_tick _ _ _).sub (State.only_modQueue s _ _).sub)

/-- A taken doorbell counts in its function's event 0 alone (16 R434). -/
theorem State.rung_func (s : State) (k t : Nat) : ((s.rung k t).func (k / 64)).errSum = (s.func (k / 64)).errSum ∧
    Tab.get 0 ((s.rung k t).func (k / 64)).cnt 10 = Tab.get 0 (s.func (k / 64)).cnt 10 ∧
    ((s.rung k t).func (k / 64)).bind = (s.func (k / 64)).bind := by
  have before : ((s.modQueue k fun q => { q with tail := t, unreadable := false }).tick 0x000 (some (s.partOf (k / 64)))).func (k / 64) =
      s.func (k / 64) := State.func_of (State.only_after (State.only_tick _ _ _).sub
        (State.only_modQueue s _ _).sub (l := [.queues, .cnt]) .funcs (by decide)) _
  unfold State.rung State.vfTick
  split
  · rw [State.modFunc_func_self, before]
    exact ⟨rfl, Tab.get_set_ne _ _ _ (by decide), rfl⟩
  · rw [before]
    exact ⟨rfl, rfl, rfl⟩

theorem State.rung_queue (s : State) (k t : Nat) : (s.rung k t).queue k = { s.queue k with tail := t, unreadable := false } ∧
    ∀ j, j ≠ k → (s.rung k t).queue j = s.queue j := by
  have same := State.only_after (State.only_vfTick _ (k / 64) 0 1).sub (State.only_tick
    (s.modQueue k fun q => { q with tail := t, unreadable := false }) 0x000 (some (s.partOf (k / 64)))).sub (l := [.funcs, .cnt])
    .queues (by decide)
  exact ⟨(State.queue_of same k).trans (State.modQueue_queue_self s k _),
    fun j hj => (State.queue_of same j).trans (State.modQueue_queue_ne s k _ hj)⟩

theorem State.partOf_bind {s t : State} (f : Nat) (h : (t.func f).bind = (s.func f).bind) :
    t.partOf f = s.partOf f ∧ t.bound f = s.bound f ∧ t.bindPart f = s.bindPart f := by
  unfold State.partOf State.bound State.bindPart
  rw [h]
  exact ⟨rfl, rfl, rfl⟩

/-- What overload counts, before its record (08 R249). -/
def State.overCounts (s : State) (k : Nat) : State :=
  (if s.bound (k / 64) then s.modPart (s.bindPart (k / 64)) fun p => { p with overload := satAdd 0xFFFFFFFF p.overload 1 }
    else s).vfTick (k / 64) 10 1

theorem State.overload_eq (s : State) (k : Nat) : s.overload k = (s.overCounts k).geqNotice k 0x1A := rfl

theorem State.only_overCounts (s : State) (k : Nat) : s.only (s.overCounts k) [.parts, .funcs] :=
  State.only_after (State.only_vfTick _ _ _ _).sub (State.only_ite _ (State.only_modPart s _ _).sub (State.only_refl s _))

theorem State.overCounts_parts (s : State) (k : Nat) :
    (s.bound (k / 64) = true → ((s.overCounts k).part (s.bindPart (k / 64))).overload =
      satAdd 0xFFFFFFFF (s.part (s.bindPart (k / 64))).overload 1) ∧
    ∀ n, ∃ o, (s.overCounts k).part n = { s.part n with overload := o } := by
  have counted := fun u : State => State.part_of (State.only_vfTick u (k / 64) 10 1 .parts (by decide))
  unfold State.overCounts
  split
  · next hb =>
      refine ⟨fun _ => ?_, fun n => ?_⟩
      · rw [counted, State.modPart_part_self]
      · rw [counted, State.modPart_part]
        split
        · next h => exact ⟨_, by rw [h]⟩
        · exact ⟨_, rfl⟩
  · next hb => exact ⟨fun h => absurd h hb, fun n => ⟨_, counted s n⟩⟩

theorem State.overCounts_func (s : State) (k : Nat) : ((s.overCounts k).func (k / 64)).errSum = (s.func (k / 64)).errSum ∧
    ((s.overCounts k).func (k / 64)).bind = (s.func (k / 64)).bind ∧
    (k / 64 < 1024 → Tab.get 0 ((s.overCounts k).func (k / 64)).cnt 10 =
      satAdd (2 ^ 64 - 1) (Tab.get 0 (s.func (k / 64)).cnt 10) 1) := by
  have before : (if s.bound (k / 64) then s.modPart (s.bindPart (k / 64)) fun p => { p with overload := satAdd 0xFFFFFFFF p.overload 1 }
      else s).func (k / 64) = s.func (k / 64) := State.func_of (State.only_ite _ (State.only_modPart s _ _).sub (State.only_refl s _)
        (l := [.parts]) .funcs (by decide)) _
  unfold State.overCounts State.vfTick
  split
  · rw [State.modFunc_func_self, before]
    exact ⟨rfl, rfl, fun _ => Tab.get_set_self _ _ _ _⟩
  · next h =>
      rw [before]
      exact ⟨rfl, rfl, fun hk => absurd hk h⟩

theorem State.only_overload (s : State) (k : Nat) :
    s.only (s.overload k) [.parts, .funcs, .geq, .cnt, .out, .sto, .xl, .freeCtr, .objs] :=
  State.only_after (State.only_geqNotice _ _ _).sub (State.only_overCounts s k).sub

/-- The record of an overload, stamped as it was when the doorbell came (08 R249; 13 R354, R355). -/
theorem State.overload_geq (s : State) (k : Nat) (hl : s.limited (.queue k 0x1A) = false) (hf : s.geq.full = false) :
    (s.overload k).geq.ring = Tab.set none s.geq.ring (s.geq.tail % 4096) (some (s.geqStamped { geqRec 0x1A 0 with
      flags := 3, part := s.partOf (k / 64), func := funcCode (k / 64), queue := k % 64 } (some (.queue k 0x1A)))) := by
  have only := State.only_overCounts s k
  have geq : (s.overCounts k).geq = s.geq := only .geq (by decide)
  have now : (s.overCounts k).now = s.now := only .now (by decide)
  obtain ⟨part, -, -⟩ := State.partOf_bind (k / 64) (State.overCounts_func s k).2.1
  have pgen : ∀ n, ((s.overCounts k).part n).pgen = (s.part n).pgen := fun n => by
    obtain ⟨o, ho⟩ := (State.overCounts_parts s k).2 n
    rw [ho]
  have lim : (s.overCounts k).limited (.queue k 0x1A) = false := by
    rw [← hl]
    unfold State.limited
    rw [geq, now]
  rw [State.overload_eq]
  unfold State.geqNotice
  rw [State.geqPost_geq _ _ _ (by simpa using lim) (by rw [geq]; exact hf)]
  unfold Geq.put State.geqStamped
  simp only [geq, pgen, part, if_true]

theorem State.ring_fits_spec (s : State) (f q t : Nat) (hq : q < 64) (r : State)
    (hr : r = if 0 < (s.queue (qkey f q)).free - (s.queue (qkey f q)).uncredited ∧
        (s.queue (qkey f q)).free - (s.queue (qkey f q)).uncredited < dist 24 t (s.queue (qkey f q)).tail
      then (s.rung (qkey f q) t).overload (qkey f q) else s.rung (qkey f q) t) :
    (∀ k, r.queue k = (s.rung (qkey f q) t).queue k) ∧
    (¬((s.queue (qkey f q)).uncredited < (s.queue (qkey f q)).free ∧
      (s.queue (qkey f q)).free < (s.queue (qkey f q)).uncredited + dist 24 t (s.queue (qkey f q)).tail) →
      s.only r [.queues, .funcs, .cnt]) ∧
    ((s.queue (qkey f q)).uncredited < (s.queue (qkey f q)).free →
      (s.queue (qkey f q)).free < (s.queue (qkey f q)).uncredited + dist 24 t (s.queue (qkey f q)).tail →
      (f < 1024 → Tab.get 0 (r.func f).cnt 10 = satAdd (2 ^ 64 - 1) (Tab.get 0 (s.func f).cnt 10) 1) ∧
      (s.bound f = true → (r.part (s.bindPart f)).overload = satAdd 0xFFFFFFFF (s.part (s.bindPart f)).overload 1) ∧
      (r.func f).errSum = (s.func f).errSum ∧
      (s.limited (.queue (qkey f q) 0x1A) = false → s.geq.full = false →
        r.geq.ring = Tab.set none s.geq.ring (s.geq.tail % 4096) (some (s.geqStamped { geqRec 0x1A 0 with
          flags := 3, part := s.partOf f, func := funcCode f, queue := q } (some (.queue (qkey f q) 0x1A)))))) ∧
    s.only r [.queues, .funcs, .parts, .out, .geq, .cnt, .sto, .xl, .freeCtr, .objs] := by
  have only := State.only_rung s (qkey f q) t
  have loud := State.only_overload (s.rung (qkey f q) t) (qkey f q)
  subst hr
  split
  · next hc =>
      refine ⟨State.queue_of (loud .queues (by decide)), fun h => absurd hc (by omega), fun hu hfree => ?_,
        State.only_after loud.sub only.sub⟩
      obtain ⟨err, cnt, bind⟩ := State.rung_func s (qkey f q) t
      obtain ⟨err', bind', cnt'⟩ := State.overCounts_func (s.rung (qkey f q) t) (qkey f q)
      obtain ⟨counted, -⟩ := State.overCounts_parts (s.rung (qkey f q) t) (qkey f q)
      rw [qkey_div f q hq] at err cnt bind err' cnt' counted
      have parts : ∀ n, (s.rung (qkey f q) t).part n = s.part n := State.part_of (only .parts (by decide))
      have geq : (s.rung (qkey f q) t).geq = s.geq := only .geq (by decide)
      have now : (s.rung (qkey f q) t).now = s.now := only .now (by decide)
      have pend := State.pends_geqPost ((s.rung (qkey f q) t).overCounts (qkey f q))
      obtain ⟨bpart, bbound, bindPart⟩ := State.partOf_bind f bind
      have lim : ∀ k, (s.rung (qkey f q) t).limited k = s.limited k := fun k => by
        unfold State.limited
        rw [geq, now]
      have noticed := State.only_geqNotice ((s.rung (qkey f q) t).overCounts (qkey f q)) (qkey f q) 0x1A
      refine ⟨fun hk => ?_, fun hb => ?_, ?_, fun hl hg => ?_⟩
      · exact ((State.pends_same (pend _ _) (fun x => Tab.get 0 x.cnt 10) f).trans (cnt' hk)).trans (by rw [cnt])
      · have same := State.part_of (noticed .parts (by decide)) (s.bindPart f)
        rw [bbound, bindPart, parts] at counted
        exact (congrArg Part.overload same).trans (counted hb)
      · exact ((State.pends_same (pend _ _) Func.errSum f).trans err').trans err
      · have posted := State.overload_geq (s.rung (qkey f q) t) (qkey f q) ((lim _).trans hl) (by rw [geq]; exact hg)
        rw [qkey_div f q hq, qkey_mod f q hq, geq, bpart] at posted
        rw [posted]
        unfold State.geqStamped
        simp only [geq, parts]
  · next hc =>
      exact ⟨fun _ => rfl, fun _ => only.sub, fun hu hfree => absurd ⟨by omega, by omega⟩ hc, only.sub⟩

/-- Settles O42: the three ways of a doorbell (`State.ring_stale`, `ring_refused`, `ring_open`), each with what it reaches. -/
theorem doorbells : Obligations.Doorbells := by
  intro w q fk v s hw hr
  have reach : s.reaches w q := by cases w <;> exact hr
  have hq := State.reaches_lt reach
  obtain ⟨t, ht, -, -, same, frame⟩ := done_spec s (s.ring (qkey fk q) (fld v 31 24) (fld v 23 0))
  have queues : ∀ k, t.queue k = (s.ring (qkey fk q) (fld v 31 24) (fld v 23 0)).queue k := State.queue_of (same .queues (by decide))
  have funcs : ∀ k, t.func k = (s.ring (qkey fk q) (fld v 31 24) (fld v 23 0)).func k := State.func_of (same .funcs (by decide))
  have parts : ∀ k, t.part k = (s.ring (qkey fk q) (fld v 31 24) (fld v 23 0)).part k := State.part_of (same .parts (by decide))
  have geq : t.geq = (s.ring (qkey fk q) (fld v 31 24) (fld v 23 0)).geq := same .geq (by decide)
  have refused : s.ring (qkey fk q) (fld v 31 24) (fld v 23 0) = s.modQueue (qkey fk q) Queue.refuse → t = s.modQueue (qkey fk q) Queue.refuse :=
    fun h => Host.Outcome.next.inj (ht.symm.trans ((congrArg (done s) h).trans (done_modQueue s _ _)))
  by_cases hg : fld v 31 24 = (s.queue (qkey fk q)).gen
  · by_cases hs : (s.queue (qkey fk q)).st ≠ .enabled ∨ (s.queue (qkey fk q)).poisoned = true
    · have ring := refused (State.ring_refused s (qkey fk q) _ _ hg hs)
      refine ⟨t, (State.exec_doorbell s w q fk v hw reach).trans ht, fun k hk => ?_, fun h => absurd hg h, fun _ _ => ?_,
        fun _ he hp => absurd hs (by simp [he, hp])⟩
      · rw [ring]
        exact State.modQueue_queue_ne s _ _ hk
      · rw [ring]
        exact ⟨State.modQueue_queue_self s _ _, State.only_modQueue s _ _⟩
    · obtain ⟨hopen, hp⟩ : (s.queue (qkey fk q)).st = .enabled ∧ (s.queue (qkey fk q)).poisoned = false := by simpa using hs
      obtain ⟨unfit, fits⟩ := State.ring_open s (qkey fk q) (fld v 31 24) (fld v 23 0) hg hopen hp
      by_cases hf : (s.queue (qkey fk q)).fits (fld v 23 0)
      · obtain ⟨queue, quiet, loud, only⟩ := State.ring_fits_spec s fk q (fld v 23 0) hq _ (fits hf)
        obtain ⟨self, others⟩ := State.rung_queue s (qkey fk q) (fld v 23 0)
        refine ⟨t, (State.exec_doorbell s w q fk v hw reach).trans ht, fun k hk => ((queues k).trans (queue k)).trans (others k hk),
          fun h => absurd hg h, fun _ h => absurd h hs, fun _ _ _ => ⟨fun h => absurd hf h, fun _ =>
            ⟨((queues _).trans (queue _)).trans self, fun h => frame _ (by decide) (quiet h), fun hu hfree => ?_,
              frame _ (by decide) only⟩⟩⟩
        rw [funcs, parts, geq]
        exact loud hu hfree
      · have noticed := State.only_notice (s.modQueue (qkey fk q) Queue.refuse) (qkey fk q) 0x19
        have queue := fun k => State.queue_of (noticed .queues (by decide)) k
        refine ⟨t, (State.exec_doorbell s w q fk v hw reach).trans ht, fun k hk => ?_, fun h => absurd hg h, fun _ h => absurd h hs,
          fun _ _ _ => ⟨fun _ => ⟨?_, fun hflr => ?_, frame _ (by decide) ?_⟩, fun h => absurd h hf⟩⟩
        · rw [queues, unfit hf, queue]
          exact State.modQueue_queue_ne s _ _ hk
        · rw [queues, unfit hf, queue]
          exact State.modQueue_queue_self s _ _
        · rw [funcs, unfit hf]
          exact State.notice_errSum _ fk q 0x19 hq ((congrArg Queue.flr (State.modQueue_queue_self s _ _)).trans hflr)
        · rw [unfit hf]
          exact State.only_after noticed.sub (State.only_modQueue s _ _).sub
  · have ring := State.ring_stale s (qkey fk q) _ (fld v 23 0) hg
    have only := State.only_tick (s.modQueue (qkey fk q) fun q => { q with stale := satAdd 0xFFFF q.stale 1 }) 0x001
      (some (s.partOf (qkey fk q / 64)))
    have queue := fun k => State.queue_of (only .queues (by decide)) k
    refine ⟨t, (State.exec_doorbell s w q fk v hw reach).trans ht, fun k hk => ?_, fun _ => ⟨?_, frame _ (by decide) ?_⟩,
      fun h => absurd h hg, fun h => absurd h hg⟩
    · rw [queues, ring, queue]
      exact State.modQueue_queue_ne s _ _ hk
    · rw [queues, ring, queue]
      exact State.modQueue_queue_self s _ _
    · rw [ring]
      exact State.only_after only.sub (State.only_modQueue s _ _).sub

end Sys2Proof.Machine
end


section
/-! Mailbox channels (15 R404 to R408; 17 R449). -/

namespace Sys2Proof.Machine

set_option Elab.async false

/-! ### A channel's rules -/

theorem State.modMbx_mbx_self (s : State) (k : Nat) (g : Mbx → Mbx) : (s.modMbx k g).mbx k = g (s.mbx k) :=
  Tab.get_set_self _ _ _ _

theorem State.modMbx_mbx_ne (s : State) (k : Nat) (g : Mbx → Mbx) {j : Nat} (h : j ≠ k) : (s.modMbx k g).mbx j = s.mbx j :=
  Tab.get_set_ne _ _ _ h

theorem State.only_modMbx (s : State) (k : Nat) (g : Mbx → Mbx) : s.only (s.modMbx k g) [.sec] := State.only_modSec s _

theorem State.mbx_of {s t : State} (h : t.sec = s.sec) (j : Nat) : t.mbx j = s.mbx j :=
  congrArg (fun x : Sec => Tab.get ({} : Mbx) x.mbx j) h

theorem State.only_setOut (s : State) (l : List Out) : s.only { s with out := l } [.out] := by
  intro f hf
  cases f <;> first | rfl | exact absurd (List.mem_singleton.mpr rfl) hf

/-- A channel's change, with messages sent, is all that a mailbox operation does. -/
def State.putMbx (s : State) (k : Nat) (x : Mbx) (l : List Out) : State := { s.modMbx k (fun _ => x) with out := l ++ s.out }

theorem done_putMbx (s : State) (k : Nat) (x : Mbx) (l : List Out) : done s (s.putMbx k x l) = .next (s.putMbx k x l) :=
  done_of_only (l := [.sec, .out]) (State.only_after (t := s.modMbx k fun _ => x) (State.only_setOut _ (l ++ s.out)).sub
    (State.only_modMbx s k fun _ => x).sub) rfl

theorem done_mbxOut (s : State) (l : List Out) : done s { s with out := l ++ s.out } = .next { s with out := l ++ s.out } :=
  done_of_only (State.only_setOut s _) rfl

theorem done_self (s : State) : done s s = .next s := done_of_only (State.only_refl s []) rfl

/-! ### The requester -/

/-- A window that may use channel `c` as its requester (15 R404). -/
def State.requests (s : State) (w : Window) : Prop :=
  w = .rot ∨ ∃ p, w = .pf p ∧ (s.func (pfKey p)).linkUp = true ∧ s.boot.operator = some p

theorem State.asRequester_open (s : State) (w : Window) (c o : Nat) (g : State → State) (hc : c < 8) (hw : s.requests w) :
    s.asRequester w c o g = g s := by
  refine (if_neg (Nat.not_le.mpr hc)).trans ?_
  obtain rfl | ⟨p, rfl, hl, ho⟩ := hw
  · rfl
  · exact State.opWrite_op s p o g hl ho

theorem State.exec_mbxGo (s : State) (w : Window) (c : Nat) (v : W64) (hc : c < 8) (hw : s.requests w) :
    exec (.mbxGo w c v) s = done s (s.mbxCtrl w (mbxKey w c) v) :=
  congrArg (done s) (State.asRequester_open s w c _ (fun t => t.mbxCtrl w (mbxKey w c) v) hc hw)

theorem State.exec_mbxRspStatusRead (s : State) (w : Window) (c : Nat) (hc : c < 8) (hw : s.requests w) :
    exec (.mbxRspStatusRead w c) s = done s ((s.mbxRspTaken (mbxKey w c)).send (.readData (s.mbx (mbxKey w c)).rspStatus)) := by
  refine congrArg (done s) ((if_neg (Nat.not_le.mpr hc)).trans ?_)
  obtain rfl | ⟨p, rfl, hl, ho⟩ := hw
  · rfl
  · show s.opRead p _ = _
    unfold State.opRead
    rw [hl, Bool.not_true, if_neg Bool.false_ne_true, if_pos (by simp [State.isOp, ho])]

theorem State.mbxCtrl_full (s : State) (w : Window) (k : Nat) (v : W64) (h : (s.mbx k).reqFull = true) :
    s.mbxCtrl w k v = s.putMbx k { s.mbx k with aborts := satAdd 0xFF (s.mbx k).aborts 1 } [.busError w] := if_pos h

theorem State.mbxCtrl_idle (s : State) (w : Window) (k : Nat) (v : W64) (h : (s.mbx k).reqFull = false) (hv : bit v 31 = false) :
    s.mbxCtrl w k v = s :=
  (if_neg (by rw [h]; decide)).trans (if_pos (by rw [hv]; rfl))

theorem State.mbxCtrl_go (s : State) (w : Window) (k : Nat) (v : W64) (h : (s.mbx k).reqFull = false) (hv : bit v 31 = true) :
    (fld v 4 0 < 8 ∨ 16 < fld v 4 0 → s.mbxCtrl w k v = s.putMbx k { s.mbx k with badlen := satAdd 0xFF (s.mbx k).badlen 1 } []) ∧
    (8 ≤ fld v 4 0 → fld v 4 0 ≤ 16 → s.mbxCtrl w k v = s.putMbx k
      { s.mbx k with cap := (List.range (fld v 4 0)).map fun i => Tab.get 0 (s.mbx k).req i, reqFull := true, awake := true }
      (if k < 8 then [.rotIrq (8 + k)] else [])) := by
  have go : s.mbxCtrl w k v = if fld v 4 0 < 8 ∨ 16 < fld v 4 0
      then s.modMbx k fun m => { m with badlen := satAdd 0xFF m.badlen 1 }
      else if k < 8 then (s.modMbx k fun m => { m with cap := mbxWords m.req (fld v 4 0), reqFull := true, awake := true }).send (.rotIrq (8 + k))
        else s.modMbx k fun m => { m with cap := mbxWords m.req (fld v 4 0), reqFull := true, awake := true } :=
    (if_neg (by rw [h]; decide)).trans ((if_neg (by rw [hv]; decide)).trans rfl)
  refine ⟨fun hn => go.trans (if_pos hn), fun h8 h16 => go.trans ((if_neg (by omega)).trans ?_)⟩
  split <;> rfl

/-! ### The receiver -/

theorem State.mbxRcvCtrl_go (s : State) (c : Nat) (v : W64) (h : (s.mbx c).rspFull = false) (hv : bit v 31 = true) :
    (fld v 4 0 < 8 ∨ 16 < fld v 4 0 → s.mbxRcvCtrl c v = s.putMbx c { s.mbx c with badlen := satAdd 0xFF (s.mbx c).badlen 1 } []) ∧
    (8 ≤ fld v 4 0 → fld v 4 0 ≤ 16 → s.mbxRcvCtrl c v = s.respond c (mbxWords (s.mbx c).rcvRsp (fld v 4 0))) := by
  have go : s.mbxRcvCtrl c v = if fld v 4 0 < 8 ∨ 16 < fld v 4 0
      then s.modMbx c fun m => { m with badlen := satAdd 0xFF m.badlen 1 }
      else s.respond c (mbxWords (s.mbx c).rcvRsp (fld v 4 0)) :=
    (if_neg (by rw [h]; decide)).trans (if_neg (by rw [hv]; decide))
  exact ⟨fun hn => go.trans (if_pos hn), fun h8 h16 => go.trans (if_neg (by omega))⟩

/-- A response's words in a channel's buffer (15 R407). -/
def Mbx.respond (l : List W32) (m : Mbx) : Mbx :=
  { m with rsp := mbxPut m.rsp l, rspFull := true, rspLen := l.length, awake := true, taken := m.taken.tail }

/-- The words that a list puts in a buffer from word 0 on (15 R407). -/
theorem get_mbxPut (t : Tab W32) (l : List W32) (i : Nat) :
    Tab.get 0 (mbxPut t l) i = if i < l.length then l.getD i 0 else Tab.get 0 t i := by
  have upto : ∀ n, Tab.get 0 ((List.range n).foldl (fun (u : Tab W32) i => Tab.set 0 u i (l.getD i 0)) t) i =
      if i < n then l.getD i 0 else Tab.get 0 t i := fun n => by
    induction n with
    | zero => simp
    | succ n ih =>
        rw [List.range_succ, List.foldl_append, List.foldl_cons, List.foldl_nil, Tab.get_set]
        split
        · next h => rw [h, if_pos (Nat.lt_succ_self _)]
        · next h =>
            rw [ih]
            exact if_congr (by omega) rfl rfl
  exact upto l.length

theorem mbxWords_length (t : Tab W32) (n : Nat) : (mbxWords t n).length = n := by simp [mbxWords]

theorem mbxWords_getD (t : Tab W32) (n i : Nat) (h : i < n) : (mbxWords t n).getD i 0 = Tab.get 0 t i := by
  simp [mbxWords, h]

/-- The signal that follows a response of channel `k` (15 R407). -/
def State.respondIrq (s : State) (k : Nat) : State :=
  if !bit (s.mbx k).irq 8 then s
  else if k < 8 then match s.boot.operator with
    | some p => s.signalVec (pfKey p) (fld (s.mbx k).irq 3 0)
    | none => s
  else s.send (.rotIrq (k - 8))

theorem State.respond_eq (s : State) (k : Nat) (l : List W32) : s.respond k l = (s.modMbx k (Mbx.respond l)).respondIrq k := rfl

theorem State.only_respondIrq (s : State) (k : Nat) : s.only (s.respondIrq k) [.funcs, .out] := by
  unfold State.respondIrq
  split
  · exact State.only_refl s _
  · split
    · split
      · exact State.only_signalVec s _ _
      · exact State.only_refl s _
    · exact (State.only_send s _).sub

theorem State.only_respond (s : State) (k : Nat) (l : List W32) : s.only (s.respond k l) [.sec, .funcs, .out] :=
  State.only_after (State.only_respondIrq _ k).sub (State.only_modMbx s k _).sub

theorem State.respond_mbx (s : State) (k : Nat) (l : List W32) : (s.respond k l).mbx k = (s.mbx k).respond l ∧
    ∀ j, j ≠ k → (s.respond k l).mbx j = s.mbx j := by
  have same := State.mbx_of (State.only_respondIrq (s.modMbx k (Mbx.respond l)) k .sec (by decide))
  exact ⟨(same k).trans (State.modMbx_mbx_self s k _), fun j hj => (same j).trans (State.modMbx_mbx_ne s k _ hj)⟩

/-- A response's signal: none without IRQ_EN, else the vector of the Operator PF (15 R407). -/
theorem State.respond_signals (s : State) (k : Nat) (l : List W32) :
    (bit (s.mbx k).irq 8 = false → s.respond k l = s.modMbx k (Mbx.respond l)) ∧
    ∀ p, k < 8 → bit (s.mbx k).irq 8 = true → s.boot.operator = some p →
      s.respond k l = (s.modMbx k (Mbx.respond l)).signalVec (pfKey p) (fld (s.mbx k).irq 3 0) := by
  have irq : ((s.modMbx k (Mbx.respond l)).mbx k).irq = (s.mbx k).irq := by
    rw [State.modMbx_mbx_self]
    rfl
  refine ⟨fun hb => ?_, fun p hk hb ho => ?_⟩
  · rw [State.respond_eq]
    exact if_pos (by rw [irq, hb]; rfl)
  · have op : (s.modMbx k (Mbx.respond l)).boot.operator = some p := ho
    rw [State.respond_eq, State.respondIrq, if_neg (by rw [irq, hb]; decide), if_pos hk, op, irq]

theorem State.signalVec_spec (s : State) (f v : Nat) :
    if s.latch.irq = true ∧ (Tab.get {} (s.func f).msix v).masked = false
    then (s.signalVec f v).out = .msix f v :: s.out ∧ (s.signalVec f v).funcs = s.funcs
    else ((s.signalVec f v).func f).pend = setBit (s.func f).pend v ∧ (s.signalVec f v).out = s.out := by
  unfold State.signalVec
  by_cases h : s.latch.irq = true ∧ (Tab.get {} (s.func f).msix v).masked = false
  · rw [if_pos h, if_pos (by simpa using h)]
    exact ⟨rfl, rfl⟩
  · rw [if_neg h, if_neg (by simpa using h)]
    exact ⟨congrArg Func.pend (State.modFunc_func_self s f _), rfl⟩

theorem State.mbxRcvGo_spec (s : State) (c : Nat) (v : W64) (hc : c < 8) (h : (s.mbx c).rspFull = false) (hv : bit v 31 = true)
    (h8 : 8 ≤ fld v 4 0) (h16 : fld v 4 0 ≤ 16) :
    exec (.mbxRcvGo c v) s = .next (s.respond c (mbxWords (s.mbx c).rcvRsp (fld v 4 0))) := by
  have ctrl : exec (.mbxRcvGo c v) s = done s (s.mbxRcvCtrl c v) := congrArg (done s) (if_pos hc)
  have only := State.only_respond s c (mbxWords (s.mbx c).rcvRsp (fld v 4 0))
  rw [ctrl, (State.mbxRcvCtrl_go s c v h hv).2 h8 h16]
  exact done_of_only only (by rw [only .boot (by decide)])

/-- Settles O53: what each access of a requester, a receiver and the responder leaves, from the channel's own fields. -/
theorem mailboxChannels : Obligations.MailboxChannels := by
  intro w c v s
  refine ⟨fun hc hw => ?_, fun hc => ?_, fun hc => ?_, fun hc hq hr => ?_⟩
  · have go := State.exec_mbxGo s w c v hc hw
    refine ⟨fun hf => ?_, fun hf hv => ?_, fun hf hv hn => ?_, fun hf hv h8 h16 => ?_, ?_⟩
    · exact go.trans ((congrArg (done s) (State.mbxCtrl_full s w _ v hf)).trans (done_putMbx s _ _ _))
    · exact go.trans ((congrArg (done s) (State.mbxCtrl_idle s w _ v hf hv)).trans (done_self s))
    · exact go.trans ((congrArg (done s) ((State.mbxCtrl_go s w _ v hf hv).1 hn)).trans (done_putMbx s _ _ _))
    · exact go.trans ((congrArg (done s) ((State.mbxCtrl_go s w _ v hf hv).2 h8 h16)).trans (done_putMbx s _ _ _))
    · exact (State.exec_mbxRspStatusRead s w c hc hw).trans (done_putMbx s _ _ [.readData (s.mbx (mbxKey w c)).rspStatus])
  · have read : exec (.mbxRcvStatusRead c) s = done s (if c < 8 then (s.mbxTake c).send (.readData (s.mbx c).rcvStatus) else s.mbxTake c) :=
      congrArg (done s) (if_neg (Nat.not_le.mpr hc))
    refine ⟨fun hf => ?_, fun hf => ?_⟩
    · have take : s.mbxTake c = s.modMbx c fun m => { m with reqFull := false, taken := m.taken ++ [m.cap] } := if_pos hf
      have put : (if c < 8 then (s.mbxTake c).send (.readData (s.mbx c).rcvStatus) else s.mbxTake c) =
          s.putMbx c { s.mbx c with reqFull := false, taken := (s.mbx c).taken ++ [(s.mbx c).cap] }
            (if c < 8 then [.readData (s.mbx c).rcvStatus] else []) := by
        rw [take]
        split <;> rfl
      exact read.trans ((congrArg (done s) put).trans (done_putMbx s c _ _))
    · have take : s.mbxTake c = s := if_neg (by rw [hf]; decide)
      have put : (if c < 8 then (s.mbxTake c).send (.readData (s.mbx c).rcvStatus) else s.mbxTake c) =
          { s with out := (if c < 8 then [.readData (s.mbx c).rcvStatus] else []) ++ s.out } := by
        rw [take]
        split <;> rfl
      exact read.trans ((congrArg (done s) put).trans (done_mbxOut s _))
  · have ctrl : exec (.mbxRcvGo c v) s = done s (s.mbxRcvCtrl c v) := congrArg (done s) (if_pos hc)
    refine ⟨fun hf => ?_, fun hf hv => ?_, fun hf hv hn => ?_, fun hf hv h8 h16 => ?_⟩
    · exact ctrl.trans ((congrArg (done s) (if_pos hf)).trans (done_mbxOut s [.busError .rot]))
    · exact ctrl.trans ((congrArg (done s) ((if_neg (by rw [hf]; decide)).trans (if_pos (by rw [hv]; rfl)))).trans (done_self s))
    · exact ctrl.trans ((congrArg (done s) ((State.mbxRcvCtrl_go s c v hf hv).1 hn)).trans (done_putMbx s _ _ _))
    · obtain ⟨self, others⟩ := State.respond_mbx s c (mbxWords (s.mbx c).rcvRsp (fld v 4 0))
      obtain ⟨quiet, signal⟩ := State.respond_signals s c (mbxWords (s.mbx c).rcvRsp (fld v 4 0))
      refine ⟨_, State.mbxRcvGo_spec s c v hc hf hv h8 h16, by rw [self]; rfl, by rw [self]; exact mbxWords_length _ _, by rw [self]; rfl,
        by rw [self]; rfl, fun i => ?_, others, State.only_respond s c _, fun hb => ?_, fun p hb ho => ?_⟩
      · rw [self]
        show Tab.get 0 (mbxPut _ _) i = _
        rw [get_mbxPut, mbxWords_length]
        exact ite_congr rfl (fun h => mbxWords_getD _ _ _ h) fun _ => rfl
      · rw [quiet hb]
        exact State.only_modMbx s c _
      · rw [signal p hc hb ho]
        exact State.signalVec_spec (s.modMbx c (Mbx.respond _)) (pfKey p) _
  · exact (congrArg (done s) (if_pos (by simp [hc, hq, hr]))).trans (done_putMbx s c { s.mbx c with awake := false } [])

end Sys2Proof.Machine
end


section
/-! Commands of the mailbox channels: requests, their answers, and what they do (15 R410 to R425). -/

namespace Sys2Proof.Machine

set_option Elab.async false

/-! ### Requests and answers -/

theorem rspWords_length (q : List W32) (n res : Nat) (l : List W32) (_ : 0 < n) : (rspWords q n res l).length = n := by
  unfold rspWords
  rw [List.length_take, List.length_append, List.length_cons, List.length_replicate]
  omega

theorem rspWords_zero (q : List W32) (n res : Nat) (l : List W32) (hn : 0 < n) :
    (rspWords q n res l).getD 0 0 = BitVec.ofNat 32 (fld (reqWord q 0) 31 16 * 2 ^ 16 + res) := by
  obtain ⟨m, rfl⟩ : ∃ m, n = m + 1 := ⟨n - 1, by omega⟩
  rfl

theorem rspWords_succ (q : List W32) (n res : Nat) (l : List W32) (i : Nat) (hi : 0 < i) (hn : i < n) :
    (rspWords q n res l).getD i 0 = l.getD (i - 1) 0 := by
  obtain ⟨j, rfl⟩ : ∃ j, i = j + 1 := ⟨i - 1, by omega⟩
  unfold rspWords
  rw [List.getD_eq_getElem?_getD, List.getElem?_take_of_lt hn, List.cons_append, List.getElem?_cons_succ, Nat.add_sub_cancel,
    List.getD_eq_getElem?_getD]
  by_cases h : j < l.length
  · rw [List.getElem?_append_left h]
  · rw [List.getElem?_append_right (by omega), List.getElem?_eq_none (l := l) (by omega), List.getElem?_replicate]
    split <;> rfl

/-- `t` is `u` with the request of channel `k` answered, `s` being the state that the request met (15 R410, R426). -/
structure State.answersTo (s u t : State) (k : Nat) (q : List W32) (n res : Nat) (l : List W32) : Prop where
  answered : s.answered t k q n res l
  sec : { t.sec with mbx := s.sec.mbx } = { u.sec with lastResult := if fwOp (reqOp q) then res else u.sec.lastResult }
  only : u.only t [.sec, .funcs, .out]
  pends : u.pends t

/-- The words of a response are shown to the root of trust on a non-secure channel (15 R410, R426). -/
def State.shows (s : State) (k : Nat) (q : List W32) (res : Nat) (w : List W32) : State :=
  let u := if fwOp (reqOp q) then s.modSec fun c => { c with lastResult := res } else s
  if k < 8 then u.modMbx k fun m => { m with rcvRsp := mbxPut m.rcvRsp w } else u

theorem State.shows_spec (s : State) (k : Nat) (q : List W32) (res : Nat) (w : List W32) :
    s.only (s.shows k q res w) [.sec] ∧
    { (s.shows k q res w).sec with mbx := s.sec.mbx } =
      { s.sec with lastResult := if fwOp (reqOp q) then res else s.sec.lastResult } ∧
    ((s.shows k q res w).mbx k).taken = (s.mbx k).taken ∧ ∀ j, j ≠ k → (s.shows k q res w).mbx j = s.mbx j := by
  have noted : s.only (if fwOp (reqOp q) then s.modSec fun c => { c with lastResult := res } else s) [.sec] :=
    State.only_ite _ (State.only_modSec s _) (State.only_refl s _)
  have sec : (if fwOp (reqOp q) then s.modSec fun c => { c with lastResult := res } else s).sec =
      { s.sec with lastResult := if fwOp (reqOp q) then res else s.sec.lastResult } := by split <;> rfl
  have mbx : ∀ j, (if fwOp (reqOp q) then s.modSec fun c => { c with lastResult := res } else s).mbx j = s.mbx j := fun j => by
    split <;> rfl
  unfold State.shows
  dsimp only
  generalize (if fwOp (reqOp q) then s.modSec fun c => { c with lastResult := res } else s) = u at *
  split
  · refine ⟨State.only_after (State.only_modMbx u k _).sub noted, ?_, ?_, fun j hj => (State.modMbx_mbx_ne u k _ hj).trans (mbx j)⟩
    · rw [← sec]
      show { u.sec with mbx := s.sec.mbx } = u.sec
      rw [sec]
    · rw [State.modMbx_mbx_self]
      show (u.mbx k).taken = _
      rw [mbx]
  · exact ⟨noted, by rw [sec], congrArg Mbx.taken (mbx k), fun j _ => mbx j⟩

theorem State.respond_sec (s : State) (k : Nat) (l : List W32) (m : Tab Mbx) :
    { (s.respond k l).sec with mbx := m } = { s.sec with mbx := m } := by
  have same : (s.respond k l).sec = (s.modMbx k (Mbx.respond l)).sec := State.only_respondIrq _ k .sec (by decide)
  rw [same]
  rfl

theorem State.pends_respond (s : State) (k : Nat) (l : List W32) : s.pends (s.respond k l) := by
  have put : s.pends (s.modMbx k (Mbx.respond l)) := State.pends_of_only (State.only_modMbx s k _)
  rw [State.respond_eq, State.respondIrq]
  split
  · exact put
  · split
    · split
      · exact State.pends_trans put (State.pends_signalVec _ _ _)
      · exact put
    · exact State.pends_trans put (State.pends_of_only (State.only_send _ _))

/-- A valid request is answered with its RESULT and words, and the command's effect stays (15 R410). -/
theorem State.answer_spec (s u : State) (k : Nat) (q : List W32) (res : Nat) (l : List W32) (hv : opValid k (reqOp q) = true)
    (hm : u.sec.mbx = s.sec.mbx) :
    s.answersTo u (s.answer k q (u, res, l)) k q (if reqOp q = 2 ∧ 8 ≤ k then 13 else 8) res l := by
  have eq : s.answer k q (u, res, l) = (u.shows k q res (rspWords q (if reqOp q = 2 ∧ 8 ≤ k then 13 else 8) res l)).respond k
      (rspWords q (if reqOp q = 2 ∧ 8 ≤ k then 13 else 8) res l) := if_pos hv
  have pos : 0 < if reqOp q = 2 ∧ 8 ≤ k then 13 else 8 := by split <;> decide
  have mbx : ∀ j, u.mbx j = s.mbx j := fun j => by
    unfold State.mbx
    rw [hm]
  rw [eq]
  generalize (if reqOp q = 2 ∧ 8 ≤ k then 13 else 8) = n at pos ⊢
  obtain ⟨shown, sec, taken, others⟩ := State.shows_spec u k q res (rspWords q n res l)
  generalize u.shows k q res (rspWords q n res l) = v at *
  obtain ⟨self, rest⟩ := State.respond_mbx v k (rspWords q n res l)
  refine ⟨⟨by rw [self]; rfl, ?_, ?_, ?_, fun i hi hn => ?_, fun j hj => (rest j hj).trans ((others j hj).trans (mbx j))⟩, ?_,
    State.only_after (State.only_respond v k _).sub shown.sub, State.pends_trans (State.pends_of_only shown) (State.pends_respond v k _)⟩
  · rw [self]
    exact rspWords_length q n res l pos
  · rw [self]
    show (v.mbx k).taken.tail = _
    rw [taken, mbx]
  · rw [self]
    show Tab.get 0 (mbxPut _ _) 0 = _
    rw [get_mbxPut, rspWords_length q n res l pos, if_pos pos, rspWords_zero q n res l pos]
  · rw [self]
    show Tab.get 0 (mbxPut _ _) i = _
    rw [get_mbxPut, rspWords_length q n res l pos, if_pos hn, rspWords_succ q n res l i hi hn]
  · rw [State.respond_sec, ← hm, sec]

theorem State.command_eq (s : State) (k op : Nat) (ok : List W32 → Bool) (g : List W32 → State × Nat × List W32) {q : List W32}
    (ha : s.asked k q) (ho : reqOp q = op) (hok : ok q = true) : s.command k op ok g = s.answer k q (g q) := by
  obtain ⟨⟨rest, taken⟩, room⟩ := ha
  unfold State.command
  rw [taken]
  dsimp only
  rw [if_neg (by rw [room]; decide), if_pos (Or.inl ho), if_pos hok]

theorem State.secure_eq (s : State) (c op : Nat) (ok : List W32 → Bool) (g : List W32 → State × Nat × List W32) {q : List W32}
    (hc : c < 4) (ha : s.asked (8 + c) q) (ho : reqOp q = op) (hok : ok q = true) :
    s.secure c op ok g = s.answer (8 + c) q (g q) := (if_pos hc).trans (State.command_eq s (8 + c) op ok g ha ho hok)

theorem State.nonSecure_eq (s : State) (c op : Nat) (ok : List W32 → Bool) (g : List W32 → State × Nat × List W32) {q : List W32}
    (hc : c < 8) (ha : s.asked c q) (ho : reqOp q = op) (hok : ok q = true) :
    s.nonSecure c op ok g = s.answer c q (g q) := (if_pos hc).trans (State.command_eq s c op ok g ha ho hok)

theorem opValid_secure (c : Nat) (hc : c < 4) (op : Nat) (ho : 1 ≤ op ∧ op ≤ 6) : opValid (8 + c) op = true := by
  unfold opValid
  rw [if_neg (by omega), if_pos (by omega)]
  simp [ho]

theorem opValid_nonSecure (c : Nat) (hc : c < 8) (op : Nat) (ho : 0x20 ≤ op ∧ op ≤ 0x25) : opValid c op = true := by
  unfold opValid
  rw [if_pos hc]
  simp [ho]

theorem Sec.eq_of_put {x y : Sec} {m : Tab Mbx} {r : Nat} (h : { x with mbx := m } = { y with lastResult := r }) :
    x = { y with mbx := x.mbx, lastResult := x.lastResult } := by
  cases x
  cases y
  simp_all

/-- The report still shows the state once a request is answered: an answer changes nothing that it shows (15 R419, R420). -/
theorem State.answersTo.reported {s u t : State} {k : Nat} {q : List W32} {n res : Nat} {l : List W32}
    (h : s.answersTo u t k q n res l) (hl : t.latch.debugRead = u.latch.debugRead) (hr : s.reported u) : s.reported t := by
  obtain ⟨gen, shown, eph, func⟩ := hr
  obtain ⟨-, sec, only, pends⟩ := h
  have boot : t.boot = u.boot := only .boot (by decide)
  have report : t.report = u.report := by
    have parts : t.parts = u.parts := only .parts (by decide)
    unfold State.report State.fwDigest State.domain State.partShown State.enabled State.threadsCfg State.part
    rw [parts, boot, hl, Sec.eq_of_put sec]
  refine ⟨((congrArg Sec.reportGen (Sec.eq_of_put sec) :)).trans gen, ?_, fun p hp => ?_, fun f => ?_⟩
  · rw [report]
    exact ((congrArg Sec.shown (Sec.eq_of_put sec) :)).trans shown
  · exact (State.pends_same pends Func.eph _).trans (eph p hp)
  · exact (State.pends_same pends (fun x => { x with eph := none, pend := 0 }) f).trans (func f)

/-- An answered command whose effect is on the security state and the functions alone. -/
theorem State.answers_of_done {s u : State} {k : Nat} {q : List W32} {res : Nat} {l : List W32} {o : Host.Outcome State Fault Refusal}
    (he : o = done s (s.answer k q (u, res, l))) (hv : opValid k (reqOp q) = true) (hm : u.sec.mbx = s.sec.mbx)
    (hd : ∀ t, u.only t [.sec, .funcs, .out] → done s t = .next t) :
    ∃ t, o = .next t ∧ s.answersTo u t k q (if reqOp q = 2 ∧ 8 ≤ k then 13 else 8) res l := by
  have spec := State.answer_spec s u k q res l hv hm
  exact ⟨_, he.trans (hd _ spec.only), spec⟩

theorem done_after_answer {s u t : State} (h : s.only u [.sec, .funcs]) (g : u.only t [.sec, .funcs, .out]) : done s t = .next t := by
  have only : s.only t [.sec, .funcs, .out] := State.only_after g h.sub
  exact done_of_only only (by rw [only .boot (by decide)])

/-! ### Key slots (15 R414, R415, R421) -/

/-- A command that leaves the functions and all of the security state but its key slots, with what it answers. -/
def State.keysTo (s u : State) (f : Nat → Option Key) : Prop :=
  s.only u [.sec, .funcs] ∧ u.sec.mbx = s.sec.mbx ∧ u.sec.reportGen = s.sec.reportGen ∧ ∀ n, Tab.get none u.sec.keys n = f n

theorem State.keysTo_self (s : State) : s.keysTo s fun n => Tab.get none s.sec.keys n :=
  ⟨State.only_refl s _, rfl, rfl, fun _ => rfl⟩

/-- The keys with slot `k` changed. -/
def Tab.keysPut (t : Tab (Option Key)) (k : Nat) (x : Option Key) (n : Nat) : Option Key := if n = k then x else Tab.get none t n

theorem State.keysTo_put (s : State) (k : Nat) (x : Option Key) :
    s.keysTo (s.modSec fun c => { c with keys := Tab.set none c.keys k x }) (Tab.keysPut s.sec.keys k x) :=
  ⟨(State.only_modSec s _).sub, rfl, rfl, fun n => Tab.get_set _ _ _ _ _⟩

/-- A key command of an asked channel: the answer, and the key slots. -/
theorem State.keyCommand {s u : State} {k : Nat} {q : List W32} {res : Nat} {o : Host.Outcome State Fault Refusal} {f : Nat → Option Key}
    (he : o = done s (s.answer k q (u, res, []))) (hv : opValid k (reqOp q) = true) (hu : s.keysTo u f) (h2 : reqOp q ≠ 2) :
    ∃ t, o = .next t ∧ s.answered t k q 8 res [] ∧ (∀ n, Tab.get none t.sec.keys n = f n) ∧ t.sec.reportGen = s.sec.reportGen ∧
      s.only t [.sec, .funcs, .out] := by
  obtain ⟨only, mbx, gen, keys⟩ := hu
  obtain ⟨t, ht, answered, sec, after, -⟩ := State.answers_of_done he hv mbx fun t => done_after_answer only
  rw [if_neg (fun h => h2 h.1)] at answered
  refine ⟨t, ht, answered, fun n => ?_, ?_, State.only_after after only.sub⟩
  · rw [Sec.eq_of_put sec]
    exact keys n
  · rw [Sec.eq_of_put sec]
    exact gen

theorem State.keyLoaded_iff (s : State) (k : Nat) : s.keyLoaded k = true ↔ Tab.get none s.sec.keys k ≠ none :=
  Option.isSome_iff_ne_none

theorem State.exec_keyLoad (s : State) (c : Nat) (q : List W32) (hc : c < 4) (ha : s.asked (8 + c) q) (ho : reqOp q = 0x04)
    (hk : reqOk q 10 = true) (hw : (reqWord q 1 &&& 0x7FC0FF00#32) = 0) (hs : fld (reqWord q 1) 7 0 ≠ 0) :
    exec (.keyLoad c) s = done s (s.answer (8 + c) q (
      if !s.enabled (fld (reqWord q 1) 21 16) then (s, 0x02, [])
      else if s.keyLoaded (fld (reqWord q 1) 7 0) then (s, 0x03, [])
      else (s.loadKey (fld (reqWord q 1) 7 0) ⟨bit (reqWord q 1) 31, fld (reqWord q 1) 21 16, keyOf q⟩, 0, []))) :=
  congrArg (done s) (State.secure_eq s c 0x04 _ _ hc ha ho (by simp [hk, hw, hs, reqSlot]))

theorem State.exec_keyClear (s : State) (c : Nat) (q : List W32) (hc : c < 4) (ha : s.asked (8 + c) q) (ho : reqOp q = 0x05)
    (hk : reqOk q 2 = true) (hw : (reqWord q 1).toNat < 256) (hs : fld (reqWord q 1) 7 0 ≠ 0) :
    exec (.keyClear c) s = done s (s.answer (8 + c) q (s.withdrawSlot (fld (reqWord q 1) 7 0), 0, [])) :=
  congrArg (done s) (State.secure_eq s c 0x05 _ (fun q => (s.withdrawSlot (fld (reqWord q 1) 7 0), 0, [])) hc ha ho (by simp [hk, hw, hs, reqSlot]))

theorem State.exec_keyWithdraw (s : State) (c : Nat) (q : List W32) (hc : c < 8) (ha : s.asked c q) (ho : reqOp q = 0x25)
    (hk : reqOk q 2 = true) (hw : (reqWord q 1).toNat < 256) (hs : fld (reqWord q 1) 7 0 ≠ 0) :
    exec (.keyWithdraw c) s = done s (s.answer c q (s.withdrawSlot (fld (reqWord q 1) 7 0), 0, [])) :=
  congrArg (done s) (State.nonSecure_eq s c 0x25 _ (fun q => (s.withdrawSlot (fld (reqWord q 1) 7 0), 0, [])) hc ha ho (by simp [hk, hw, hs, reqSlot]))

theorem State.exec_keyRelease (s : State) (c : Nat) (q : List W32) (key : Option KeyBits) (hc : c < 8) (ha : s.asked c q)
    (ho : reqOp q = 0x23) (hk : reqOk q 3 = true) (hw : (reqWord q 1 &&& 0xFFC0FF00#32) = 0) (hs : fld (reqWord q 1) 7 0 ≠ 0) :
    exec (.keyRelease c key) s = done s (s.answer c q (
      if s.sec.mode ≠ 1 then (s, 0x0A, [])
      else if !s.enabled (fld (reqWord q 1) 21 16) then (s, 0x02, [])
      else if s.keyLoaded (fld (reqWord q 1) 7 0) then (s, 0x03, [])
      else match key with
        | none => (s, 0x07, [])
        | some v => (s.loadKey (fld (reqWord q 1) 7 0) ⟨false, fld (reqWord q 1) 21 16, v⟩, 0, []))) :=
  congrArg (done s) (State.nonSecure_eq s c 0x23 _ _ hc ha ho (by simp [hk, hw, hs, reqSlot]))

theorem State.exec_keyImport (s : State) (c : Nat) (q : List W32) (z : BitVec 384) (hc : c < 8) (ha : s.asked c q)
    (ho : reqOp q = 0x24) (hk : reqOk q 4 = true) (hw : (reqWord q 1 &&& 0xFFC0FF00#32) = 0) (hs : fld (reqWord q 1) 7 0 ≠ 0) :
    exec (.keyImport c z) s = done s (s.answer c q (
      if !(s.inDevmem (reqAddr q 2) 160 && s.enabled (fld (reqWord q 1) 21 16)) then (s, 0x02, [])
      else if s.sec.transition then (s, 0x04, [])
      else if (s.part (fld (reqWord q 1) 21 16)).resetting then (s, 0x09, [])
      else s.importBlob q (s.pkgBytes (reqAddr q 2) 160) z)) :=
  congrArg (done s) (State.nonSecure_eq s c 0x24 _ _ hc ha ho (by simp [hk, hw, hs, reqSlot]))

/-- A blob ends the ephemeral key of the PF that it names (15 R421). -/
def State.importEnds (s : State) (f : Nat) : State := if f < 4 then s.modFunc (pfKey f) fun x => { x with eph := none } else s

theorem State.keysTo_importEnds (s : State) (f : Nat) : s.keysTo (s.importEnds f) fun n => Tab.get none s.sec.keys n := by
  have only : s.only (s.importEnds f) [.funcs] := State.only_ite _ (State.only_modFunc s _ _) (State.only_refl s _)
  have sec : (s.importEnds f).sec = s.sec := only .sec (by decide)
  exact ⟨only.sub, congrArg Sec.mbx sec, congrArg Sec.reportGen sec, fun n => congrArg (fun c : Sec => Tab.get none c.keys n) sec⟩

/-- A blob that holds what its import asks for (15 R421). -/
def State.goodBlob (s : State) (b : List (Option Byte)) : Prop :=
  none ∉ b ∧ leAt (plain b) 0x60 4 = s.sec.reportGen ∧ leAt (plain b) 0x64 1 < 4 ∧
    (s.func (pfKey (leAt (plain b) 0x64 1))).eph = some s.sec.reportGen

theorem any_isNone_iff (b : List (Option Byte)) : b.any Option.isNone = true ↔ none ∈ b := by
  rw [List.any_eq_true]
  constructor
  · rintro ⟨x, hx, h⟩
    rwa [← Option.isNone_iff_eq_none.mp h]
  · exact fun h => ⟨none, h, rfl⟩

theorem State.importBlob_eq (s : State) (q : List W32) (b : List (Option Byte)) (z : BitVec 384) :
    (¬s.goodBlob b → s.importBlob q b z = (s.importEnds (leAt (plain b) 0x64 1), 0x05, [])) ∧
    (s.goodBlob b → s.importBlob q b z =
      if leAt (plain b) 0x65 1 ≠ reqPart q then (s.importEnds (leAt (plain b) 0x64 1), 0x06, [])
      else match unwrapKey z (plain b) with
        | none => (s.importEnds (leAt (plain b) 0x64 1), 0x06, [])
        | some v => if (s.importEnds (leAt (plain b) 0x64 1)).keyLoaded (reqSlot q) then (s.importEnds (leAt (plain b) 0x64 1), 0x03, [])
          else ((s.importEnds (leAt (plain b) 0x64 1)).loadKey (reqSlot q) ⟨true, reqPart q, v⟩, 0, [])) := by
  have bad : (b.any Option.isNone || leAt (plain b) 0x60 4 != s.sec.reportGen ||
      !(leAt (plain b) 0x64 1 < 4 && (s.func (pfKey (leAt (plain b) 0x64 1))).eph == some s.sec.reportGen)) = true ↔ ¬s.goodBlob b := by
    have named := any_isNone_iff b
    unfold State.goodBlob
    rw [← named]
    simp only [Bool.or_eq_true, Bool.not_eq_true', Bool.and_eq_false_iff, bne_iff_ne, ne_eq, beq_eq_false_iff_ne, decide_eq_false_iff_not]
    tauto
  unfold State.importBlob
  dsimp only
  refine ⟨fun h => ?_, fun h => ?_⟩
  · rw [if_pos (bad.mpr h)]
    rfl
  · rw [if_neg fun g => bad.mp g h]
    generalize unwrapKey z (plain b) = key
    cases key <;> rfl

theorem State.keysTo_imported (s : State) (f k : Nat) (x : Key) :
    s.keysTo ((s.importEnds f).loadKey k x) (Tab.keysPut s.sec.keys k (some x)) := by
  obtain ⟨ends, mbx, gen, keys⟩ := s.keysTo_importEnds f
  obtain ⟨only, mbx', gen', keys'⟩ := (s.importEnds f).keysTo_put k (some x)
  refine ⟨State.only_trans ends only, mbx'.trans mbx, gen'.trans gen, fun n => (keys' n).trans ?_⟩
  unfold Tab.keysPut
  rw [keys]

/-- Every import that reaches its blob ends that ephemeral key, whatever it answers (15 R421). -/
theorem State.importBlob_ends (s : State) (q : List W32) (b : List (Option Byte)) (z : BitVec 384) :
    s.only (s.importBlob q b z).1 [.sec, .funcs] ∧ (s.importBlob q b z).1.sec.mbx = s.sec.mbx ∧
    (s.importBlob q b z).1.funcs = (s.importEnds (leAt (plain b) 0x64 1)).funcs := by
  obtain ⟨ends, mbx, -, -⟩ := s.keysTo_importEnds (leAt (plain b) 0x64 1)
  obtain ⟨bad, good⟩ := State.importBlob_eq s q b z
  by_cases h : s.goodBlob b
  · rw [good h]
    split
    · exact ⟨ends, mbx, rfl⟩
    · split
      · exact ⟨ends, mbx, rfl⟩
      · split
        · exact ⟨ends, mbx, rfl⟩
        · obtain ⟨only, mbx', -, -⟩ := s.keysTo_imported (leAt (plain b) 0x64 1) (reqSlot q) ⟨true, reqPart q, _⟩
          exact ⟨only, mbx', rfl⟩
  · rw [bad h]
    exact ⟨ends, mbx, rfl⟩

theorem State.importEnds_eph (s : State) (f : Nat) (h : f < 4) : ((s.importEnds f).func (pfKey f)).eph = none := by
  unfold State.importEnds
  rw [if_pos h, State.modFunc_func_self]

theorem State.keyImport_eph {s : State} {c : Nat} {q : List W32} {b : List (Option Byte)} {z : BitVec 384} {o : Host.Outcome State Fault Refusal}
    (he : o = done s (s.answer c q (s.importBlob q b z))) (hv : opValid c (reqOp q) = true) (hf : leAt (plain b) 0x64 1 < 4) :
    ∃ t, o = .next t ∧ (t.func (pfKey (leAt (plain b) 0x64 1))).eph = none := by
  obtain ⟨only, mbx, funcs⟩ := State.importBlob_ends s q b z
  generalize s.importBlob q b z = r at he only mbx funcs
  obtain ⟨u, res, l⟩ := r
  obtain ⟨t, ht, -, -, -, pends⟩ := State.answers_of_done he hv mbx fun t => done_after_answer only
  refine ⟨t, ht, (State.pends_same pends Func.eph _).trans ?_⟩
  exact (congrArg Func.eph (State.func_of funcs _)).trans (s.importEnds_eph _ hf)

/-- Settles O55: each key command by the branch that its checks choose, and its answer (`State.keyCommand`). -/
theorem keySlots : Obligations.KeySlots := by
  intro c q s
  have valid4 := fun hc => opValid_secure c hc (reqOp q)
  have valid8 := fun hc => opValid_nonSecure c hc (reqOp q)
  refine ⟨fun hc ha => ⟨fun ho hk hw hs => ?_, fun ho hk hw hs => ?_⟩, fun hc ha => ⟨fun ho hk hw hs => ?_, fun key ho hk hw hs => ?_,
    fun z ho hk hw hs => ?_⟩⟩
  · have he := State.exec_keyLoad s c q hc ha ho hk hw hs
    have hv := valid4 hc (by omega)
    refine ⟨fun hp => ?_, fun hp hn => ?_, fun hp hn => ?_⟩
    · rw [if_pos (by rw [hp]; rfl)] at he
      exact State.keyCommand he hv s.keysTo_self (by omega)
    · rw [if_neg (by rw [hp]; decide), if_pos ((State.keyLoaded_iff s _).mpr hn)] at he
      exact State.keyCommand he hv s.keysTo_self (by omega)
    · rw [if_neg (by rw [hp]; decide), if_neg fun h => (State.keyLoaded_iff s _).mp h hn] at he
      exact State.keyCommand he hv (s.keysTo_put _ _) (by omega)
  · exact State.keyCommand (State.exec_keyClear s c q hc ha ho hk hw hs) (valid4 hc (by omega)) (s.keysTo_put _ none) (by omega)
  · exact State.keyCommand (State.exec_keyWithdraw s c q hc ha ho hk hw hs) (valid8 hc (by omega)) (s.keysTo_put _ none) (by omega)
  · have he := State.exec_keyRelease s c q key hc ha ho hk hw hs
    have hv := valid8 hc (by omega)
    refine ⟨fun hm => ?_, fun hm hp => ?_, fun hm hp hn => ?_, fun hm hp hn => ⟨fun hkey => ?_, fun v hkey => ?_⟩⟩
    · rw [if_pos hm] at he
      exact State.keyCommand he hv s.keysTo_self (by omega)
    · rw [if_neg (not_not.mpr hm), if_pos (by rw [hp]; rfl)] at he
      exact State.keyCommand he hv s.keysTo_self (by omega)
    · rw [if_neg (not_not.mpr hm), if_neg (by rw [hp]; decide), if_pos ((State.keyLoaded_iff s _).mpr hn)] at he
      exact State.keyCommand he hv s.keysTo_self (by omega)
    · rw [if_neg (not_not.mpr hm), if_neg (by rw [hp]; decide), if_neg fun h => (State.keyLoaded_iff s _).mp h hn, hkey] at he
      rw [hkey]
      exact State.keyCommand he hv s.keysTo_self (by omega)
    · rw [if_neg (not_not.mpr hm), if_neg (by rw [hp]; decide), if_neg fun h => (State.keyLoaded_iff s _).mp h hn, hkey] at he
      rw [hkey]
      exact State.keyCommand he hv (s.keysTo_put _ _) (by omega)
  · have he := State.exec_keyImport s c q z hc ha ho hk hw hs
    have hv := valid8 hc (by omega)
    obtain ⟨bad, good⟩ := State.importBlob_eq s q (s.pkgBytes (reqAddr q 2) 160) z
    have ends := s.keysTo_importEnds (leAt (plain (s.pkgBytes (reqAddr q 2) 160)) 0x64 1)
    refine ⟨fun hfit => ?_, fun hfit ht => ?_, fun hfit ht hr => ?_, fun hfit ht hr => ?_⟩
    · rw [if_pos (by rw [Bool.eq_false_iff.mpr fun h => hfit (Bool.and_eq_true_iff.mp h)]; rfl)] at he
      exact State.keyCommand he hv s.keysTo_self (by omega)
    · rw [if_neg (by simpa using hfit), if_pos ht] at he
      exact State.keyCommand he hv s.keysTo_self (by omega)
    · rw [if_neg (by simpa using hfit), if_neg (by rw [ht]; decide), if_pos hr] at he
      exact State.keyCommand he hv s.keysTo_self (by omega)
    · rw [if_neg (by simpa using hfit), if_neg (by rw [ht]; decide), if_neg (by rw [hr]; decide)] at he
      refine ⟨fun hf => State.keyImport_eph he hv hf, fun hb => ?_, fun hg hk => ?_, fun hg hp v hk => ⟨fun hn => ?_, fun hn => ?_⟩⟩
      · rw [bad hb] at he
        exact State.keyCommand he hv ends (by omega)
      · rw [good hg] at he
        by_cases hp : leAt (plain (s.pkgBytes (reqAddr q 2) 160)) 0x65 1 = reqPart q
        · rw [if_neg (not_not.mpr hp), hk.resolve_left (not_not.mpr hp)] at he
          exact State.keyCommand he hv ends (by omega)
        · rw [if_pos hp] at he
          exact State.keyCommand he hv ends (by omega)
      · rw [good hg, if_neg (not_not.mpr (show _ = reqPart q from hp)), hk] at he
        dsimp only at he
        rw [if_pos ((State.keyLoaded_iff _ _).mpr (by rw [ends.2.2.2]; exact hn))] at he
        exact State.keyCommand he hv ends (by omega)
      · rw [good hg, if_neg (not_not.mpr (show _ = reqPart q from hp)), hk] at he
        dsimp only at he
        rw [if_neg fun h => (State.keyLoaded_iff _ _).mp h (by rw [ends.2.2.2]; exact hn)] at he
        exact State.keyCommand he hv (s.keysTo_imported _ _ _) (by omega)

end Sys2Proof.Machine
end


section
/-! Designation, the service mode and firmware (15 R411, R413, R415, R420 to R425; 02 R39). -/

namespace Sys2Proof.Machine

set_option Elab.async false

/-! ### The switch of partitions (15 R424, R425) -/

/-- A partition runs bank `b` (15 R424). -/
def Part.switchTo (b : Nat) (changed : Bool) (p : Part) : Part :=
  { p with fwSel := b, cvy := { p.cvy with restart := p.cvy.restart || changed } }

/-- One partition switches to bank `b` (15 R424). -/
def State.switchOne (b : Nat) (changed : Bool) (u : State) (n : Nat) : State :=
  ((u.modPart n (Part.switchTo b changed)).withdrawKeys fun k =>
    k.attested && k.part == n).modSec fun c => { c with swapped := setBit c.swapped n }

theorem bit_setBit (v : W64) (n i : Nat) (hi : i < 64) : bit (setBit v n) i = (bit v i || decide (i = n)) := setBit_getLsbD v n i hi

theorem bit_foldl_setBit (i : Nat) (hi : i < 64) (l : List Nat) : ∀ v : W64, bit (l.foldl setBit v) i = (bit v i || decide (i ∈ l)) := by
  induction l with
  | nil => simp
  | cons n l ih =>
      intro v
      simp [ih, bit_setBit v n i hi, Bool.or_assoc, List.mem_cons]

theorem Tab.mem_of_find? {α : Type} (t : Tab α) (k : Nat) (y : α) (h : Tab.find? t k = some y) : (k, y) ∈ t := by
  induction t with
  | nil => exact absurd h (by simp [Tab.find?])
  | cons e t ih =>
      unfold Tab.find? at h
      split at h
      · next hk =>
          cases h
          rw [← hk]
          exact List.mem_cons_self
      · exact List.mem_cons_of_mem _ (ih h)

theorem Tab.mem_of_get {α : Type} (t : Tab (Option α)) (k : Nat) (y : α) (h : Tab.get none t k = some y) : (k, some y) ∈ t := by
  unfold Tab.get at h
  obtain hf | ⟨z, hf⟩ := (Tab.find? t k).eq_none_or_eq_some
  · rw [hf] at h
    exact absurd h (by simp)
  · rw [hf, Option.getD_some] at h
    exact Tab.mem_of_find? t k _ (h ▸ hf)

/-- The partitions of a list after they have switched. -/
structure State.switches (s u : State) (b : Nat) (l : List Nat) : Prop where
  only : s.only u [.sec, .parts]
  sec : u.sec = { s.sec with swapped := l.foldl setBit s.sec.swapped, keys := u.sec.keys }
  sel : ∀ n, (u.part n).fwSel = if n ∈ l then b else (s.part n).fwSel
  seqr : ∀ n, (u.part n).seqr = (s.part n).seqr
  keys : ∀ e ∈ u.sec.keys, e ∈ s.sec.keys ∧ ∀ n ∈ l, ∀ y, e.2 = some y → ¬(y.attested = true ∧ y.part = n)

theorem State.switchOne_part (s : State) (b : Nat) (ch : Bool) (n k : Nat) : (s.switchOne b ch n).part k =
    if k = n then (s.part n).switchTo b ch else s.part k := State.modPart_part s n (Part.switchTo b ch) k

theorem State.switches_each (b : Nat) (ch : Bool) (l : List Nat) : ∀ s : State, s.switches (s.each l (State.switchOne b ch)) b l := by
  induction l with
  | nil => exact fun s => ⟨State.only_refl s _, rfl, fun n => rfl, fun n => rfl, fun e he => ⟨he, fun n h => absurd h (by simp)⟩⟩
  | cons m l ih =>
      intro s
      have part := s.switchOne_part b ch m
      have one : s.only (s.switchOne b ch m) [.sec, .parts] :=
        State.only_after (State.only_modSec _ _).sub (State.only_after (State.only_withdrawKeys _ _).sub (State.only_modPart s m _).sub)
      have rest := ih (s.switchOne b ch m)
      show s.switches ((s.switchOne b ch m).each l (State.switchOne b ch)) b (m :: l)
      obtain ⟨only, sec, sel, seqr, keys⟩ := rest
      refine ⟨State.only_trans one only, sec, fun n => ?_, fun n => (seqr n).trans ?_, fun e he => ?_⟩
      · rw [sel n, part]
        by_cases hn : n = m <;> simp [hn, Part.switchTo]
      · rw [part]
        split
        · next h => rw [h]; rfl
        · rfl
      · obtain ⟨old, gone⟩ := keys e he
        have kept : e ∈ s.sec.keys ∧ ∀ y, e.2 = some y → ¬(y.attested = true ∧ y.part = m) := by
          obtain ⟨mem, pass⟩ := List.mem_filter.mp old
          refine ⟨mem, fun y hy => ?_⟩
          rw [hy] at pass
          rintro ⟨ha, hp⟩
          simp [ha, hp] at pass
        exact ⟨kept.1, fun n hn => (List.mem_cons.mp hn).elim (fun h => h ▸ kept.2) (gone n)⟩

/-- The last switch ends the transition (15 R424, R425). -/
def State.settleSwitch (s : State) (b : Nat) : State :=
  if popc64 s.sec.swapped == 64 then
    s.modSec fun c => { c with active := b, transition := false, staged := false, swapped := 0, raised := max c.raised c.pkgVersion }
  else s

theorem State.fwSwitch_eq (s : State) (l : List Nat) : s.fwSwitch l =
    (s.each l (State.switchOne (1 - s.sec.active) (s.fwDigest (1 - s.sec.active) 1 != s.fwDigest s.sec.active 1))).settleSwitch
      (1 - s.sec.active) := rfl

theorem popc64_eq_64 (v : W64) : popc64 v = 64 ↔ ∀ i, i < 64 → bit v i = true := by
  unfold popc64 bitsOf
  constructor
  · intro h i hi
    have all := (List.length_filter_eq_length_iff (l := List.range 64)).mp (by rw [h, List.length_range])
    exact all i (List.mem_range.mpr hi)
  · intro h
    have all := (List.length_filter_eq_length_iff (l := List.range 64)).mpr fun i hi => h i (List.mem_range.mp hi)
    rw [all, List.length_range]

/-- What switching a list of partitions leaves (15 R424, R425). -/
theorem State.fwSwitch_spec (s : State) (l : List Nat) :
    s.only (s.fwSwitch l) [.sec, .parts] ∧ (∀ n, ((s.fwSwitch l).part n).seqr = (s.part n).seqr) ∧
    (∀ n ∈ l, ((s.fwSwitch l).part n).fwSel = 1 - s.sec.active) ∧
    (∀ e ∈ (s.fwSwitch l).sec.keys, ∀ n ∈ l, ∀ y, e.2 = some y → ¬(y.attested = true ∧ y.part = n)) ∧
    (s.fwSwitch l).sec.mbx = s.sec.mbx ∧ (s.fwSwitch l).sec.reportGen = s.sec.reportGen ∧
    ((∃ i, i < 64 ∧ bit s.sec.swapped i = false ∧ i ∉ l) → (s.fwSwitch l).sec.transition = s.sec.transition ∧
      (s.fwSwitch l).sec.active = s.sec.active) ∧
    ((∀ i, i < 64 → bit s.sec.swapped i = true ∨ i ∈ l) → (s.fwSwitch l).sec.transition = false ∧ (s.fwSwitch l).sec.staged = false ∧
      (s.fwSwitch l).sec.active = 1 - s.sec.active ∧ (s.fwSwitch l).sec.raised = max s.sec.raised s.sec.pkgVersion) := by
  rw [State.fwSwitch_eq]
  obtain ⟨only, sec, sel, seqr, keys⟩ := State.switches_each (1 - s.sec.active) (s.fwDigest (1 - s.sec.active) 1 != s.fwDigest s.sec.active 1) l s
  generalize s.each l (State.switchOne (1 - s.sec.active) (s.fwDigest (1 - s.sec.active) 1 != s.fwDigest s.sec.active 1)) = u at *
  have bits : ∀ i, i < 64 → bit u.sec.swapped i = (bit s.sec.swapped i || decide (i ∈ l)) := fun i hi => by
    rw [sec]
    exact bit_foldl_setBit i hi l _
  have sel' : ∀ n ∈ l, (u.part n).fwSel = 1 - s.sec.active := fun n hn => by rw [sel n, if_pos hn]
  unfold State.settleSwitch
  by_cases h : ∀ i, i < 64 → bit u.sec.swapped i = true
  · rw [if_pos (by rw [(popc64_eq_64 _).mpr h]; rfl)]
    refine ⟨State.only_after (State.only_modSec u _).sub only, seqr, sel', fun e he => (keys e he).2, ?_, ?_, fun ⟨i, hi, ho, hn⟩ => ?_,
      fun _ => ⟨rfl, rfl, rfl, ?_⟩⟩
    · show u.sec.mbx = _
      rw [sec]
    · show u.sec.reportGen = _
      rw [sec]
    · have set := h i hi
      rw [bits i hi, ho] at set
      exact absurd set (by simp [hn])
    · show max u.sec.raised u.sec.pkgVersion = _
      rw [sec]
  · rw [if_neg (by simpa using fun g => h ((popc64_eq_64 _).mp g))]
    refine ⟨only, seqr, sel', fun e he => (keys e he).2, by rw [sec], by rw [sec], fun _ => ⟨by rw [sec], by rw [sec]⟩, fun g => ?_⟩
    exact absurd (fun i hi => by rw [bits i hi]; simpa using g i hi) h

/-- The partitions that an activation switches at once (15 R424). -/
def State.switchedAtOnce (s : State) (n : Nat) : Prop :=
  n < 64 ∧ (s.enabled n = false ∨ (s.part n).running = false) ∧ bit s.sec.swapped n = false

theorem State.activate_eq (s : State) : ∃ l : List Nat, (∀ n, n ∈ l ↔ s.switchedAtOnce n) ∧
    s.activate = ((s.modSec fun x => { x with transition := true }).fwSwitch l).bumpReport := by
  refine ⟨_, fun n => ?_, rfl⟩
  have on : (s.modSec fun x => { x with transition := true }).sec.transition = true := rfl
  unfold State.toSwitch State.switchedAtOnce
  rw [if_pos on]
  simp only [List.mem_filter, List.mem_range, Bool.and_eq_true, Bool.or_eq_true, Bool.not_eq_true', decide_eq_true_eq]
  constructor
  · rintro ⟨⟨-, h⟩, hn, hb⟩
    exact ⟨hn, h, hb⟩
  · rintro ⟨hn, h, hb⟩
    exact ⟨⟨hn, h⟩, hn, hb⟩

/-- A transition has begun, and has ended where its last partition switched (15 R420, R424, R425). -/
def State.switching (s t : State) : Prop := s.reported t ∧ { t.sec with mbx := s.sec.mbx : Sec }.lastResult = 0 ∧
  (∀ n, n < 64 → s.enabled n = false ∨ (s.part n).running = false → bit s.sec.swapped n = false →
    (t.part n).fwSel = 1 - s.sec.active ∧ ∀ k y, Tab.get none t.sec.keys k = some y → ¬(y.attested = true ∧ y.part = n)) ∧
  ((∃ n, n < 64 ∧ s.enabled n = true ∧ (s.part n).running = true ∧ bit s.sec.swapped n = false) → t.sec.transition = true ∧
    t.sec.active = s.sec.active) ∧
  ((∀ n, n < 64 → s.enabled n = true → (s.part n).running = true → bit s.sec.swapped n = true) → t.sec.transition = false ∧
    t.sec.staged = false ∧ t.sec.active = 1 - s.sec.active ∧ t.sec.raised = max s.sec.raised s.sec.pkgVersion) ∧
  s.only t [.sec, .funcs, .out, .parts]

/-- An activation, before its answer. -/
theorem State.activate_spec (s : State) : s.only s.activate [.sec, .funcs, .parts] ∧
    (∀ n, (s.activate.part n).seqr = (s.part n).seqr) ∧ s.activate.sec.mbx = s.sec.mbx ∧ s.reported s.activate ∧
    (∀ t, s.activate.only t [.sec, .funcs, .out] → s.reported t → { t.sec with mbx := s.sec.mbx } =
      { s.activate.sec with lastResult := 0 } → s.switching t) := by
  obtain ⟨l, hl, eq⟩ := s.activate_eq
  obtain ⟨only, seqr, sel, keys, mbx, gen, part, whole⟩ := State.fwSwitch_spec (s.modSec fun x => { x with transition := true }) l
  have begun := State.only_modSec s fun x => { x with transition := true }
  have funcs : ((s.modSec fun x => { x with transition := true }).fwSwitch l).funcs = s.funcs := only .funcs (by decide)
  rw [eq]
  generalize (s.modSec fun x => { x with transition := true }).fwSwitch l = v at *
  have bump := State.only_bumpReport v
  have parts := State.part_of (bump .parts (by decide))
  refine ⟨State.only_after bump.sub (State.only_after only.sub begun.sub), fun n => by rw [parts]; exact seqr n, mbx,
    (State.bumpReport_reported v).of_eq funcs gen, fun t after reported sec => ⟨reported, by rw [sec], fun n hn hr hb => ⟨?_, fun k y hy => ?_⟩,
      fun ⟨n, hn, he, hr, hb⟩ => ?_, fun all => ?_, State.only_after after.sub (State.only_after bump.sub (State.only_after only.sub begun.sub))⟩⟩
  · rw [State.part_of (after .parts (by decide)), parts]
    exact sel n ((hl n).mpr ⟨hn, hr, hb⟩)
  · have same : t.sec.keys = v.sec.keys := by
      rw [Sec.eq_of_put sec]
      rfl
    rw [same] at hy
    exact keys _ (Tab.mem_of_get _ k y hy) n ((hl n).mpr ⟨hn, hr, hb⟩) y rfl
  · obtain ⟨on, active⟩ := part ⟨n, hn, hb, fun h => by
      obtain ⟨-, h, -⟩ := (hl n).mp h
      simp [he, hr] at h⟩
    rw [Sec.eq_of_put sec]
    exact ⟨on, active⟩
  · have last := whole fun i hi => by
      by_cases hb : bit s.sec.swapped i = true
      · exact Or.inl hb
      · refine Or.inr ((hl i).mpr ⟨hi, ?_, by simpa using hb⟩)
        by_contra h
        simp only [not_or, Bool.not_eq_false] at h
        exact hb (all i hi h.1 h.2)
    rw [Sec.eq_of_put sec]
    exact last

/-! ### Commands with no key slot (15 R411) -/

/-- A command whose effect is on the security state alone, with its answer. -/
theorem State.secCommand {s u : State} {k n : Nat} {q : List W32} {res : Nat} {l : List W32} {o : Host.Outcome State Fault Refusal}
    (he : o = done s (s.answer k q (u, res, l))) (hv : opValid k (reqOp q) = true) (hm : u.sec.mbx = s.sec.mbx)
    (hu : s.only u [.sec, .funcs]) (hn : n = if reqOp q = 2 ∧ 8 ≤ k then 13 else 8) :
    ∃ t, o = .next t ∧ s.answered t k q n res l ∧ s.answersTo u t k q n res l ∧ s.only t [.sec, .funcs, .out] := by
  obtain ⟨t, ht, answers⟩ := State.answers_of_done he hv hm fun t => done_after_answer hu
  rw [← hn] at answers
  exact ⟨t, ht, answers.answered, answers, State.only_after answers.only hu.sub⟩

/-- A command that changes nothing but the firmware it names shows its RESULT (15 R410, R426). -/
theorem State.fwCommand {s u : State} {k n : Nat} {q : List W32} {res : Nat} {l : List W32} {o : Host.Outcome State Fault Refusal}
    (he : o = done s (s.answer k q (u, res, l))) (hv : opValid k (reqOp q) = true) (hm : u.sec.mbx = s.sec.mbx) (hu : s.only u [.sec])
    (hn : n = if reqOp q = 2 ∧ 8 ≤ k then 13 else 8) (hf : fwOp (reqOp q) = true) :
    ∃ t, o = .next t ∧ s.answered t k q n res l ∧ { t.sec with mbx := s.sec.mbx } = { u.sec with lastResult := res } ∧
      s.only t [.sec, .funcs, .out] := by
  obtain ⟨t, ht, answered, answers, only⟩ := State.secCommand he hv hm hu.sub hn
  exact ⟨t, ht, answered, answers.sec.trans (by rw [if_pos hf]), only⟩

/-- A command that does nothing, and is none of firmware, leaves the security state as it was (15 R410, R426). -/
theorem State.idleCommand {s : State} {k : Nat} {q : List W32} {res : Nat} {l : List W32} {o : Host.Outcome State Fault Refusal}
    (he : o = done s (s.answer k q (s, res, l))) (hv : opValid k (reqOp q) = true) (hf : fwOp (reqOp q) = false) :
    ∃ t, o = .next t ∧ s.answered t k q 8 res l ∧ { t.sec with mbx := s.sec.mbx } = s.sec ∧ s.only t [.sec, .funcs, .out] := by
  have size : 8 = if reqOp q = 2 ∧ 8 ≤ k then 13 else 8 := (if_neg fun h => by rw [h.1] at hf; exact absurd hf (by decide)).symm
  obtain ⟨t, ht, answered, answers, only⟩ := State.secCommand he hv rfl (State.only_refl s _) size
  exact ⟨t, ht, answered, answers.sec.trans (by rw [if_neg (by rw [hf]; decide)]), only⟩

theorem doneL_eq_done (s t : State) (h : t.latch = s.latch) : doneL s t = done s t := by
  unfold doneL done
  rw [h, Latch.join_self]

/-- A request answered without a change of the latches is done as every other is (15 R424). -/
theorem State.doneL_answer (s u : State) (k : Nat) (q : List W32) (res : Nat) (l : List W32) (hv : opValid k (reqOp q) = true)
    (hm : u.sec.mbx = s.sec.mbx) (hl : u.latch = s.latch) :
    doneL s (s.answer k q (u, res, l)) = done s (s.answer k q (u, res, l)) :=
  doneL_eq_done s _ (((State.answer_spec s u k q res l hv hm).only .latch (by decide)).trans hl)

theorem State.activateCommand {s : State} {k : Nat} {q : List W32} {o : Host.Outcome State Fault Refusal}
    (he : o = done s (s.answer k q (s.activate, 0, []))) (hv : opValid k (reqOp q) = true) (h2 : reqOp q ≠ 2) (hf : fwOp (reqOp q) = true) :
    ∃ t, o = .next t ∧ s.answered t k q 8 0 [] ∧ s.switching t := by
  obtain ⟨only, seqr, mbx, reported, switching⟩ := s.activate_spec
  obtain ⟨t, ht, answers⟩ := State.answers_of_done he hv mbx fun t after => by
    have all : s.only t [.sec, .funcs, .out, .parts] := State.only_after after.sub only.sub
    refine done_same s t (all .tasks (by decide)) (all .mtus (by decide)) (by rw [all .boot (by decide)]) (all .pending (by decide))
      (all .latch (by decide)) fun n => ?_
    rw [State.part_of (after .parts (by decide)), seqr]
  rw [if_neg fun h => h2 h.1] at answers
  have latch : t.latch = s.activate.latch := answers.only .latch (by decide)
  refine ⟨t, ht, answers.answered, switching t answers.only (answers.reported (by rw [latch]) reported) ?_⟩
  rw [answers.sec, if_pos hf]

/-- PF `p` becomes the Operator PF (02 R39, R40; 15 R420). -/
def State.designated (s : State) (p : Nat) : State := (s.modBoot fun b => { b with operator := some p }).bumpReport

theorem State.exec_designate (s : State) (c : Nat) (q : List W32) (hc : c < 4) (ha : s.asked (8 + c) q) (ho : reqOp q = 0x01)
    (hk : reqOk q 2 = true) (hw : (reqWord q 1).toNat < 4) :
    exec (.designate c) s = done s (s.answer (8 + c) q (
      if s.boot.byFuse then (s, 0x02, [])
      else if s.isOp (reqWord q 1).toNat then (s, 0, [])
      else (s.designated (reqWord q 1).toNat, 0, []))) :=
  congrArg (done s) (State.secure_eq s c 0x01 _ _ hc ha ho (by simp [hk, hw]))

theorem State.exec_setMode (s : State) (c : Nat) (q : List W32) (hc : c < 4) (ha : s.asked (8 + c) q) (ho : reqOp q = 0x06)
    (hk : reqOk q 2 = true) (hw : (reqWord q 1).toNat = 2 ∨ (reqWord q 1).toNat = 3) :
    exec (.setMode c) s = done s (s.answer (8 + c) q (
      if 2 ≤ s.sec.mode then (s, 0x0A, [])
      else (((s.withdrawKeys fun k => !k.attested).modSec fun x => { x with mode := (reqWord q 1).toNat }).bumpReport, 0, []))) :=
  congrArg (done s) (State.secure_eq s c 0x06 _ _ hc ha ho (by simp [hk, hw]))

/-- A component's digest in its bank (15 R422). -/
def State.loadFw (s : State) (k : Nat) (d : BitVec 384) : State := s.modSec fun x => { x with fw := Tab.set none x.fw k (some d) }

theorem State.exec_fwLoad (s : State) (c : Nat) (q : List W32) (hc : c < 4) (ha : s.asked (8 + c) q) (ho : reqOp q = 0x02)
    (hk : reqOk q 5 = true) (hw : (reqWord q 1 &&& 0xFFFFFEFC#32) = 0) (h3 : fld (reqWord q 1) 1 0 ≠ 3) (h4 : reqAddr q 2 % 4096 = 0)
    (h1 : 1 ≤ (reqWord q 4).toNat) (hn : (reqWord q 4).toNat ≤ 4194304) :
    exec (.fwLoad c) s = done s (s.answer (8 + c) q (
      if s.bankRuns (fld (reqWord q 1) 8 8) then (s, 0x03, [])
      else if (s.pkgBytes (reqAddr q 2) (reqWord q 4).toNat).any Option.isNone then (s, 0x08, [])
      else (s.loadFw (fld (reqWord q 1) 8 8 * 4 + fld (reqWord q 1) 1 0) (sha384 (plain (s.pkgBytes (reqAddr q 2) (reqWord q 4).toNat))), 0,
          packWords 12 (beBytes 48 (sha384 (plain (s.pkgBytes (reqAddr q 2) (reqWord q 4).toNat))).toNat)))) :=
  congrArg (done s) (State.secure_eq s c 0x02 _ _ hc ha ho (by simp [hk, hw, h3, h4, h1, hn]))

/-- Firmware is ready in bank `b` (15 R422). -/
def State.readyWith (s : State) (b : Nat) : State :=
  { s with latch := { s.latch with fwReady := true } }.modSec fun x => { x with active := b }

/-- A partition's selector names bank `b` (15 R422). -/
def State.selectBank (b : Nat) (u : State) (n : Nat) : State := u.modPart n fun p => { p with fwSel := b }

/-- The first arming (15 R422): firmware is ready, and every selector names the bank. -/
def State.armFirst (s : State) (b : Nat) : State := ((s.readyWith b).each (List.range 64) (State.selectBank b)).bumpReport

theorem State.exec_fwArm (s : State) (c : Nat) (q : List W32) (hc : c < 4) (ha : s.asked (8 + c) q) (ho : reqOp q = 0x03)
    (hk : reqOk q 2 = true) (hw : (reqWord q 1 &&& 0xFFFFFEFF#32) = 0) :
    exec (.fwArm c) s = doneL s (s.answer (8 + c) q (
      if !s.latch.fwReady then (s.armFirst (fld (reqWord q 1) 8 8), 0, [])
      else if s.sec.transition || s.sec.active == fld (reqWord q 1) 8 8 then (s, 0x03, [])
      else (s.activate, 0, []))) :=
  congrArg (doneL s) (State.secure_eq s c 0x03 _ _ hc ha ho (by simp [hk, hw]))

theorem State.exec_fwStage (s : State) (c : Nat) (q : List W32) (a : StageAnswer) (hc : c < 8) (ha : s.asked c q) (ho : reqOp q = 0x20)
    (hk : reqOk q 4 = true) (hw : 1 ≤ (reqWord q 3).toNat) :
    exec (.fwStage c a) s = done s (s.answer c q (
      if s.sec.staged || s.sec.transition then (s, 0x03, [])
      else if !s.inDevmem (reqAddr q 1) (reqWord q 3).toNat then (s, 0x02, [])
      else if !a.imageOk then (s, 0x08, [])
      else if !(a.digestsOk && [0, 1, 2].all fun i => (s.fwDigest (1 - s.sec.active) i).isSome) then (s.emptyBank (1 - s.sec.active), 0x08, [])
      else ((s.modSec fun x => { x with staged := true, pkgVersion := a.version }).bumpReport, 0, []))) :=
  congrArg (done s) (State.nonSecure_eq s c 0x20 _ _ hc ha ho (by simp [hk, hw]))

theorem State.exec_fwActivate (s : State) (c : Nat) (q : List W32) (hc : c < 8) (ha : s.asked c q) (ho : reqOp q = 0x21)
    (hk : reqOk q 1 = true) :
    exec (.fwActivate c) s = done s (s.answer c q (if s.sec.staged && !s.sec.transition then (s.activate, 0, []) else (s, 0x03, []))) :=
  congrArg (done s) (State.nonSecure_eq s c 0x21 (fun q => reqOk q 1)
    (fun _ => if s.sec.staged && !s.sec.transition then (s.activate, 0, []) else (s, 0x03, [])) hc ha ho hk)

theorem State.exec_fwDiscard (s : State) (c : Nat) (q : List W32) (hc : c < 8) (ha : s.asked c q) (ho : reqOp q = 0x22)
    (hk : reqOk q 1 = true) :
    exec (.fwDiscard c) s = done s (s.answer c q (
      if s.sec.transition then (s, 0x03, [])
      else if s.sec.staged then (((s.emptyBank (1 - s.sec.active)).modSec fun x => { x with staged := false }).bumpReport, 0, [])
      else (s, 0, []))) :=
  congrArg (done s) (State.nonSecure_eq s c 0x22 (fun q => reqOk q 1) (fun _ => if s.sec.transition then (s, 0x03, [])
      else if s.sec.staged then (((s.emptyBank (1 - s.sec.active)).modSec fun x => { x with staged := false }).bumpReport, 0, [])
      else (s, 0, [])) hc ha ho hk)

theorem State.designateCommand {s : State} {k p : Nat} {q : List W32} {o : Host.Outcome State Fault Refusal}
    (he : o = done s (s.answer k q (s.designated p, 0, []))) (hv : opValid k (reqOp q) = true) (h2 : reqOp q ≠ 2) :
    ∃ t, o = .next t ∧ s.answered t k q 8 0 [] ∧ t.boot = { s.boot with operator := some p } ∧ s.reported t ∧
      s.only t [.sec, .funcs, .out, .boot] := by
  have bump := State.only_bumpReport (s.modBoot fun b => { b with operator := some p })
  have boot : (s.designated p).boot = { s.boot with operator := some p } := bump .boot (by decide)
  have only : s.only (s.designated p) [.sec, .funcs, .boot] := State.only_after bump.sub (State.only_modBoot s _).sub
  have reported : s.reported (s.designated p) := (State.bumpReport_reported (s.modBoot fun b => { b with operator := some p })).of_eq rfl rfl
  obtain ⟨t, ht, answers⟩ := State.answers_of_done he hv (u := s.designated p) rfl fun t after => by
    refine done_of_only (State.only_after after.sub only.sub : s.only t [.sec, .funcs, .out, .boot]) ?_
    rw [(after .boot (by decide) : t.boot = _), boot]
  rw [if_neg fun h => h2 h.1] at answers
  have latch : t.latch = (s.designated p).latch := answers.only .latch (by decide)
  exact ⟨t, ht, answers.answered, ((answers.only .boot (by decide) : t.boot = _)).trans boot, answers.reported (by rw [latch]) reported,
    State.only_after answers.only.sub only.sub⟩

/-- A command that ends with a new report: the security state it leaves but for the report (15 R420). -/
theorem State.reportCommand {s v : State} {k : Nat} {q : List W32} {o : Host.Outcome State Fault Refusal}
    (he : o = done s (s.answer k q (v.bumpReport, 0, []))) (hv : opValid k (reqOp q) = true) (h2 : reqOp q ≠ 2)
    (only : s.only v [.sec]) (hm : v.sec.mbx = s.sec.mbx) (hg : v.sec.reportGen = s.sec.reportGen) :
    ∃ t, o = .next t ∧ s.answered t k q 8 0 [] ∧ s.reported t ∧
      t.sec = { v.sec with
        mbx := t.sec.mbx, lastResult := t.sec.lastResult, reportGen := t.sec.reportGen, shown := t.sec.shown } ∧
      (fwOp (reqOp q) = true → t.sec.lastResult = 0) ∧
      s.only t [.sec, .funcs, .out] := by
  have bump := State.only_bumpReport v
  have mbx : v.bumpReport.sec.mbx = s.sec.mbx := hm
  obtain ⟨t, ht, answered, answers, after⟩ := State.secCommand he hv mbx (State.only_after bump.sub only.sub)
    (if_neg fun h => h2 h.1).symm
  have latch : t.latch = v.bumpReport.latch := answers.only .latch (by decide)
  have reported : s.reported v.bumpReport := (State.bumpReport_reported v).of_eq (only .funcs (by decide)) hg
  refine ⟨t, ht, answered, answers.reported (by rw [latch]) reported, ?_, fun hf => ?_, after⟩
  · have sec := Sec.eq_of_put answers.sec
    rw [sec]
    rfl
  · have res : t.sec.lastResult = if fwOp (reqOp q) then 0 else v.bumpReport.sec.lastResult := (congrArg Sec.lastResult answers.sec :)
    rw [res, if_pos hf]

theorem State.only_readyWith (s : State) (b : Nat) : s.only (s.readyWith b) [.sec, .latch] := by
  intro f hf
  cases f <;> first | rfl | exact absurd (by decide) hf

theorem State.each_select (l : List Nat) (b : Nat) : ∀ s : State, s.only (s.each l (State.selectBank b)) [.parts] ∧
    ∀ n, (s.each l (State.selectBank b)).part n = if n ∈ l then { s.part n with fwSel := b } else s.part n := by
  induction l with
  | nil => exact fun s => ⟨State.only_refl s _, fun n => rfl⟩
  | cons m l ih =>
      intro s
      obtain ⟨only, part⟩ := ih (State.selectBank b s m)
      refine ⟨State.only_trans (State.only_modPart s m _) only, fun n => (part n).trans ?_⟩
      have one : (State.selectBank b s m).part n = if n = m then { s.part m with fwSel := b } else s.part n :=
        State.modPart_part s m (fun p => { p with fwSel := b }) n
      rw [one]
      by_cases hn : n = m <;> simp [hn]

theorem State.armFirst_spec (s : State) (b : Nat) : s.only (s.armFirst b) [.sec, .funcs, .latch, .parts] ∧
    (s.armFirst b).latch = { s.latch with fwReady := true } ∧ (s.armFirst b).sec.mbx = s.sec.mbx ∧ (s.armFirst b).sec.active = b ∧
    s.reported (s.armFirst b) ∧ ∀ n, (s.armFirst b).part n = if n < 64 then { s.part n with fwSel := b } else s.part n := by
  have ready := State.only_readyWith s b
  obtain ⟨sel, part⟩ := State.each_select (List.range 64) b (s.readyWith b)
  have bump := State.only_bumpReport ((s.readyWith b).each (List.range 64) (State.selectBank b))
  unfold State.armFirst
  generalize (s.readyWith b).each (List.range 64) (State.selectBank b) = u at *
  have sec : u.sec = (s.readyWith b).sec := sel .sec (by decide)
  have latch : u.latch = (s.readyWith b).latch := sel .latch (by decide)
  have only : s.only u [.sec, .latch, .parts] := State.only_after sel.sub ready.sub
  have funcs : u.funcs = s.funcs := only .funcs (by decide)
  have latched : u.bumpReport.latch = u.latch := bump .latch (by decide)
  have mbx : u.sec.mbx = s.sec.mbx := by rw [sec]; rfl
  have gen : u.sec.reportGen = s.sec.reportGen := by rw [sec]; rfl
  have active : u.sec.active = b := by rw [sec]; rfl
  have ready' : (s.readyWith b).latch = { s.latch with fwReady := true } := rfl
  have parts : ∀ n, u.bumpReport.part n = u.part n := State.part_of (bump .parts (by decide))
  have same : ∀ n, (s.readyWith b).part n = s.part n := fun _ => rfl
  refine ⟨State.only_after bump.sub only.sub, latched.trans (latch.trans ready'), mbx, active,
    (State.bumpReport_reported u).of_eq funcs gen, fun n => ?_⟩
  rw [parts, part, same]
  simp only [List.mem_range]

theorem Latch.join_fwReady (l : Latch) : l.join { l with fwReady := true } = { l with fwReady := true } := by
  simp [Latch.join]

theorem State.armCommand {s : State} {k b : Nat} {q : List W32} {o : Host.Outcome State Fault Refusal}
    (he : o = doneL s (s.answer k q (s.armFirst b, 0, []))) (hv : opValid k (reqOp q) = true) (h2 : reqOp q ≠ 2) :
    ∃ t, o = .next t ∧ s.answered t k q 8 0 [] ∧ t.latch = { s.latch with fwReady := true } ∧ t.sec.active = b ∧ s.reported t ∧
      (∀ n, t.part n = if n < 64 then { s.part n with fwSel := b } else s.part n) ∧ s.only t [.sec, .funcs, .out, .latch, .parts] := by
  obtain ⟨only, latch, mbx, active, reported, part⟩ := s.armFirst_spec b
  have spec := State.answer_spec s (s.armFirst b) k q 0 [] hv mbx
  rw [if_neg fun h => h2 h.1] at spec
  generalize s.answer k q (s.armFirst b, 0, []) = t at *
  have all : s.only t [.sec, .funcs, .out, .latch, .parts] := State.only_after spec.only.sub only.sub
  have latched : t.latch = { s.latch with fwReady := true } := ((spec.only .latch (by decide) : t.latch = _)).trans latch
  have parts := State.part_of (spec.only .parts (by decide))
  have kept : doneL s t = .next t := by
    rw [doneL_same s t (all .tasks (by decide)) (all .mtus (by decide)) (by rw [all .boot (by decide)]) (all .pending (by decide))
      fun n => by rw [parts, part]; split <;> rfl, latched, Latch.join_fwReady, ← latched]
  refine ⟨t, he.trans kept, spec.answered, latched, ?_, spec.reported (by rw [latched, latch]) reported, fun n => (parts n).trans (part n), all⟩
  rw [Sec.eq_of_put spec.sec]
  exact active

theorem State.digests_iff (s : State) (a : StageAnswer) :
    (a.digestsOk && [0, 1, 2].all fun i => (s.fwDigest (1 - s.sec.active) i).isSome) = true ↔
      a.digestsOk = true ∧ ∀ i, i < 3 → (s.fwDigest (1 - s.sec.active) i).isSome = true := by
  rw [Bool.and_eq_true_iff, List.all_eq_true]
  refine and_congr_right fun _ => ⟨fun h i hi => h i ?_, fun h i hi => h i ?_⟩
  · interval_cases i <;> simp
  · simp at hi
    omega

theorem mem_withdrawn (s : State) (e : Nat × Option Key) :
    e ∈ (s.withdrawKeys fun k => !k.attested).sec.keys ↔ e ∈ s.sec.keys ∧ ∃ k, e.2 = some k ∧ k.attested = true := by
  refine List.mem_filter.trans (and_congr_right fun _ => ?_)
  cases e.2 <;> simp

theorem mem_emptied (s : State) (b : Nat) (e : Nat × Option (BitVec 384)) :
    e ∈ (s.emptyBank b).sec.fw ↔ e ∈ s.sec.fw ∧ e.1 / 4 ≠ b :=
  List.mem_filter.trans (and_congr_right fun _ => by simp)

/-- Settles O54: each command by the branch that its checks choose, with its effect and its answer. -/
theorem firmwareAndMode : Obligations.FirmwareAndMode := by
  intro c q s
  have valid4 := fun hc => opValid_secure c hc (reqOp q)
  have valid8 := fun hc => opValid_nonSecure c hc (reqOp q)
  refine ⟨fun hc ha => ⟨fun ho hk hw => ?_, fun ho hk hw => ?_, fun ho hk hw h3 h4 h1 hn => ?_, fun ho hk hw => ?_⟩,
    fun hc ha => ⟨fun a ho hk hw => ?_, fun ho hk => ?_, fun ho hk => ?_⟩⟩
  · have he := State.exec_designate s c q hc ha ho hk hw
    have hv := valid4 hc (by omega)
    refine ⟨fun hf => ?_, fun hf hop => ?_, fun hf hop => ?_⟩
    · rw [if_pos hf] at he
      exact State.idleCommand he hv (by rw [ho]; rfl)
    · rw [if_neg (by rw [hf]; decide), if_pos (by simp [State.isOp, hop])] at he
      exact State.idleCommand he hv (by rw [ho]; rfl)
    · rw [if_neg (by rw [hf]; decide), if_neg (by simpa [State.isOp] using hop)] at he
      exact State.designateCommand he hv (by omega)
  · have he := State.exec_setMode s c q hc ha ho hk hw
    have hv := valid4 hc (by omega)
    refine ⟨fun hm => ?_, fun hm => ?_⟩
    · rw [if_pos hm] at he
      exact State.idleCommand he hv (by rw [ho]; rfl)
    · rw [if_neg (by omega)] at he
      obtain ⟨t, ht, answered, reported, sec, -, only⟩ := State.reportCommand he hv (by omega)
        (State.only_after (State.only_modSec _ _) (State.only_withdrawKeys s _)) rfl rfl
      refine ⟨t, ht, answered, ?_, reported, fun e => ?_, only⟩
      · rw [sec]
        rfl
      · rw [sec]
        exact mem_withdrawn s e
  · have he := State.exec_fwLoad s c q hc ha ho hk hw h3 h4 h1 hn
    have hv := valid4 hc (by omega)
    have size : 13 = if reqOp q = 2 ∧ 8 ≤ 8 + c then 13 else 8 := (if_pos ⟨ho, by omega⟩).symm
    refine ⟨fun hr => ?_, fun hr hp => ?_, fun hr hp => ?_⟩
    · rw [if_pos hr] at he
      exact State.fwCommand he hv rfl (State.only_refl s _) size (by rw [ho]; rfl)
    · rw [if_neg (by rw [hr]; decide), if_pos ((any_isNone_iff _).mpr hp)] at he
      exact State.fwCommand he hv rfl (State.only_refl s _) size (by rw [ho]; rfl)
    · rw [if_neg (by rw [hr]; decide), if_neg fun h => hp ((any_isNone_iff _).mp h)] at he
      exact State.fwCommand he hv rfl (State.only_modSec s _) size (by rw [ho]; rfl)
  · have he := State.exec_fwArm s c q hc ha ho hk hw
    have hv := valid4 hc (by omega)
    have size : 8 = if reqOp q = 2 ∧ 8 ≤ 8 + c then 13 else 8 := (if_neg (by omega)).symm
    refine ⟨fun hr => ?_, fun hr hb => ?_, fun hr ht hb => ?_⟩
    · rw [if_pos (by rw [hr]; rfl)] at he
      exact State.armCommand he hv (by omega)
    · rw [if_neg (by rw [hr]; decide), if_pos (by simpa using hb), State.doneL_answer s s _ q _ _ hv rfl rfl] at he
      exact State.fwCommand he hv rfl (State.only_refl s _) size (by rw [ho]; rfl)
    · obtain ⟨only, -, mbx, -, -⟩ := s.activate_spec
      rw [if_neg (by rw [hr]; decide), if_neg (by simp [ht, hb]), State.doneL_answer s _ _ q _ _ hv mbx (only .latch (by decide))] at he
      exact State.activateCommand he hv (by omega) (by rw [ho]; rfl)
  · have he := State.exec_fwStage s c q a hc ha ho hk hw
    have hv := valid8 hc (by omega)
    have size : 8 = if reqOp q = 2 ∧ 8 ≤ c then 13 else 8 := (if_neg (by omega)).symm
    refine ⟨fun hb => ?_, fun hs ht hfit => ?_, fun hs ht hfit hw => ?_, fun hs ht hfit hw => ?_⟩
    · rw [if_pos (by simpa using hb)] at he
      exact State.fwCommand he hv rfl (State.only_refl s _) size (by rw [ho]; rfl)
    · rw [if_neg (by simp [hs, ht]), if_pos (by rw [hfit]; rfl)] at he
      exact State.fwCommand he hv rfl (State.only_refl s _) size (by rw [ho]; rfl)
    · rw [if_neg (by simp [hs, ht]), if_neg (by rw [hfit]; decide)] at he
      by_cases hi : a.imageOk = true
      · rw [if_neg (by rw [hi]; decide), if_pos (by
          rw [Bool.eq_false_iff.mpr fun h => hw ⟨hi, (State.digests_iff s a).mp h⟩]
          rfl)] at he
        obtain ⟨t, ht', answered, sec, only⟩ := State.fwCommand he hv rfl (State.only_modSec s _) size (by rw [ho]; rfl)
        exact ⟨t, ht', answered, (congrArg Sec.staged sec :).trans hs, (congrArg Sec.active sec :), only⟩
      · rw [if_pos (by simpa using hi)] at he
        obtain ⟨t, ht', answered, sec, only⟩ := State.fwCommand he hv rfl (State.only_refl s _) size (by rw [ho]; rfl)
        exact ⟨t, ht', answered, (congrArg Sec.staged sec :).trans hs, (congrArg Sec.active sec :), only⟩
    · obtain ⟨hi, hd, digests⟩ := hw
      rw [if_neg (by simp [hs, ht]), if_neg (by rw [hfit]; decide), if_neg (by rw [hi]; decide), if_neg (by
        rw [(State.digests_iff s a).mpr ⟨hd, digests⟩]
        decide)] at he
      obtain ⟨t, ht', answered, reported, sec, res, only⟩ := State.reportCommand he hv (by omega) (State.only_modSec s _) rfl rfl
      exact ⟨t, ht', answered, by rw [sec]; rfl, by rw [sec]; rfl, by rw [sec]; rfl, res (by rw [ho]; rfl), reported, only⟩
  · have he := State.exec_fwActivate s c q hc ha ho hk
    have hv := valid8 hc (by omega)
    refine ⟨fun hs ht => ?_, fun hb => ?_⟩
    · rw [if_pos (by simp [hs, ht])] at he
      exact State.activateCommand he hv (by omega) (by rw [ho]; rfl)
    · rw [if_neg (by simpa [or_iff_not_imp_left] using hb)] at he
      exact State.fwCommand he hv rfl (State.only_refl s _) (if_neg (by omega)).symm (by rw [ho]; rfl)
  · have he := State.exec_fwDiscard s c q hc ha ho hk
    have hv := valid8 hc (by omega)
    refine ⟨fun ht => ?_, fun ht hs => ?_, fun ht hs => ?_⟩
    · rw [if_pos ht] at he
      exact State.fwCommand he hv rfl (State.only_refl s _) (if_neg (by omega)).symm (by rw [ho]; rfl)
    · rw [if_neg (by rw [ht]; decide), if_neg (by rw [hs]; decide)] at he
      exact State.fwCommand he hv rfl (State.only_refl s _) (if_neg (by omega)).symm (by rw [ho]; rfl)
    · rw [if_neg (by rw [ht]; decide), if_pos hs] at he
      obtain ⟨t, ht, answered, reported, sec, -, only⟩ := State.reportCommand he hv (by omega)
        (State.only_after (State.only_modSec _ _) (State.only_modSec s _)) rfl rfl
      refine ⟨t, ht, answered, by rw [sec]; rfl, reported, fun e => ?_, only⟩
      rw [sec]
      exact mem_emptied s _ e

end Sys2Proof.Machine
end


section
/-! The SPDM relay (15 R416 to R418). -/

namespace Sys2Proof.Machine

set_option Elab.async false

/-! ### Objects of a host (15 R417) -/

/-- A DOE mailbox's change, with messages sent. -/
def State.setDoe (s : State) (p : Nat) (x : Doe) (l : List Out) : State :=
  { s.modFunc (pfKey p) fun f => { f with doe := x } with out := l ++ s.out }

theorem done_setDoe (s : State) (p : Nat) (x : Doe) (l : List Out) : done s (s.setDoe p x l) = .next (s.setDoe p x l) :=
  done_of_only (l := [.funcs, .out]) (State.only_after (t := s.modFunc (pfKey p) fun f => { f with doe := x })
    (State.only_setOut _ (l ++ s.out)).sub (State.only_modFunc s _ _).sub) rfl

theorem State.modDoe_eq (s : State) (p : Nat) (g : Doe → Doe) : (s.modFunc (pfKey p) fun f => { f with doe := g f.doe }) =
    s.setDoe p (g (s.func (pfKey p)).doe) [] := rfl

theorem State.exec_doeGo (s : State) (p : Nat) (k : DoeKind) (data : List Byte) (hp : p < 4) (hl : (s.func (pfKey p)).linkUp = true)
    (hd : (s.func (pfKey p)).doe.pending = false) :
    (4096 < data.length → exec (.doeGo p k data) s = done s (s.setDoe p { (s.func (pfKey p)).doe with error := true, req := [], sent := 0 } [])) ∧
    (data.length ≤ 4096 → exec (.doeGo p k data) s = done s (match k with
      | .discovery => s.setDoe p { (s.func (pfKey p)).doe with rsp := discoveryAnswer data, ready := true } []
      | .spdm => s.setDoe p { (s.func (pfKey p)).doe with req := data, sent := 0, pending := true, rsp := [], ready := false } [.rotIrq (16 + p)]
      | .other => s)) := by
  have go : ¬(4 ≤ p || !(s.func (pfKey p)).linkUp || (s.func (pfKey p)).doe.pending) = true := by
    rw [hl, hd, decide_eq_false (Nat.not_le.mpr hp)]
    decide
  exact ⟨fun h => congrArg (done s) ((if_neg go).trans (if_pos h)), fun h =>
    congrArg (done s) ((if_neg go).trans ((if_neg (Nat.not_lt.mpr h)).trans (by cases k <;> rfl)))⟩

/-! ### Fragments (15 R417, R418) -/

theorem packWords_length (n : Nat) : ∀ l, (packWords n l).length = n := by
  induction n with
  | zero => exact fun l => rfl
  | succ n ih => exact fun l => congrArg (· + 1) (ih (l.drop 4))

theorem packWords_getD (n : Nat) : ∀ (l : List Byte) (i : Nat), i < n → (packWords n l).getD i 0 = BitVec.ofNat 32 (leAt l (4 * i) 4) := by
  induction n with
  | zero => exact fun l i h => absurd h (Nat.not_lt_zero i)
  | succ n ih =>
      intro l i h
      cases i with
      | zero => rfl
      | succ i =>
          have rest := ih (l.drop 4) i (Nat.lt_of_succ_lt_succ h)
          have at' : leAt (l.drop 4) (4 * i) 4 = leAt l (4 * (i + 1)) 4 := by
            unfold leAt slice
            rw [List.drop_drop, show 4 + 4 * i = 4 * (i + 1) by omega]
          rw [at'] at rest
          exact rest

/-- Zeros beyond a fragment's 60 bytes do not show in its words (15 R417). -/
theorem leAt_padded (b : List Byte) (hb : b.length ≤ 60) (i : Nat) (hi : i < 15) :
    leAt (b ++ List.replicate (60 - b.length) 0) (4 * i) 4 = leAt (b ++ List.replicate 60 0) (4 * i) 4 := by
  have padded : b ++ List.replicate 60 0 = (b ++ List.replicate (60 - b.length) (0 : Byte)) ++ List.replicate b.length 0 := by
    rw [List.append_assoc, List.replicate_append_replicate, Nat.sub_add_cancel hb]
  unfold leAt slice
  rw [padded, List.drop_append_of_le_length (l₁ := b ++ List.replicate (60 - b.length) 0) (by simp; omega)]
  exact congrArg leVal (List.take_append_of_le_length (by simp; omega)).symm

/-- A FRAGMENT's answer, when its relay leaves the DOE mailbox `y` (15 R417). -/
def State.relays (s : State) (p : Nat) (q : List W32) (last : Bool) (res : Nat) (b : List Byte) (y : Doe) : Prop :=
  ∃ t, exec (.fragment (4 + p)) s = .next t ∧
    (t.mbx (12 + p)).rspFull = true ∧ (t.mbx (12 + p)).rspLen = 16 ∧ (t.mbx (12 + p)).taken = (s.mbx (12 + p)).taken.tail ∧
    Tab.get 0 (t.mbx (12 + p)).rsp 0 = BitVec.ofNat 32 (fld (reqWord q 0) 31 16 * 2 ^ 16 + b2n last * 2 ^ 15 + b.length * 2 ^ 8 + res) ∧
    (∀ i, i < 15 → Tab.get 0 (t.mbx (12 + p)).rsp (1 + i) = BitVec.ofNat 32 (leAt (b ++ List.replicate 60 0) (4 * i) 4)) ∧
    (t.func (pfKey p)).doe = y ∧ (∀ k, k ≠ pfKey p → t.func k = s.func k) ∧ s.only t [.sec, .funcs, .out]

theorem State.exec_fragment (s : State) (p : Nat) (q : List W32) (hp : p < 4) (ha : s.asked (12 + p) q) (ho : reqOp q = 0x7F) :
    exec (.fragment (4 + p)) s = done s ((s.relay p q).1.respond (12 + p) (s.relay p q).2) := by
  obtain ⟨⟨rest, taken⟩, room⟩ := ha
  have key : 8 + (4 + p) = 12 + p := by omega
  have pf : 4 + p - 4 = p := by omega
  refine congrArg (done s) ((if_neg (by omega)).trans ?_)
  rw [key, taken, pf]
  dsimp only
  rw [if_neg (by rw [room]; decide), if_pos ho]

theorem State.respond_funcs_secure (s : State) (k : Nat) (l : List W32) (hk : 8 ≤ k) : (s.respond k l).funcs = s.funcs := by
  rw [State.respond_eq, State.respondIrq]
  split
  · rfl
  · rw [if_neg (by omega)]
    rfl

theorem Mbx.respond_rsp (m : Mbx) (l : List W32) : (m.respond l).rsp = mbxPut m.rsp l := rfl

/-- A relay that reaches its PF's DOE mailbox alone is answered with its fragment (15 R417). -/
theorem State.relays_of {s u : State} {p : Nat} {q : List W32} {last : Bool} {res : Nat} {b : List Byte} {y : Doe} (hp : p < 4)
    (ha : s.asked (12 + p) q) (ho : reqOp q = 0x7F) (hr : s.relay p q = (u, fragRsp q last res b)) (hb : b.length ≤ 60)
    (hu : s.only u [.funcs]) (hy : (u.func (pfKey p)).doe = y) (hf : ∀ k, k ≠ pfKey p → u.func k = s.func k) :
    s.relays p q last res b y := by
  have he := State.exec_fragment s p q hp ha ho
  rw [hr] at he
  have length : (fragRsp q last res b).length = 16 := congrArg (· + 1) (packWords_length 15 _)
  have only : s.only (u.respond (12 + p) (fragRsp q last res b)) [.sec, .funcs, .out] :=
    State.only_after (State.only_respond u _ _).sub hu.sub
  obtain ⟨self, -⟩ := State.respond_mbx u (12 + p) (fragRsp q last res b)
  have funcs := State.func_of (State.respond_funcs_secure u (12 + p) (fragRsp q last res b) (by omega))
  have mbx : u.mbx (12 + p) = s.mbx (12 + p) := State.mbx_of (hu .sec (by decide)) _
  refine ⟨_, he.trans (done_of_only only (by rw [only .boot (by decide)])), by rw [self]; rfl, by rw [self]; exact length, ?_, ?_, fun i hi => ?_,
    (congrArg Func.doe (funcs _)).trans hy, fun k hk => (funcs k).trans (hf k hk), only⟩
  · rw [self, mbx]
    rfl
  · rw [self, Mbx.respond_rsp, get_mbxPut, length, if_pos (by decide), fragRsp, List.getD_cons_zero]
  · rw [self, Mbx.respond_rsp, get_mbxPut, length, if_pos (by omega), Nat.add_comm 1 i, fragRsp, List.getD_cons_succ, packWords_getD 15 _ i hi, leAt_padded b hb i hi]

/-- A DOE mailbox is changed, and nothing else (15 R417). -/
theorem State.relays_set {s : State} {p : Nat} {q : List W32} {last : Bool} {res : Nat} {b : List Byte} {y : Doe} (hp : p < 4)
    (ha : s.asked (12 + p) q) (ho : reqOp q = 0x7F) (hb : b.length ≤ 60)
    (hr : s.relay p q = (s.modFunc (pfKey p) fun f => { f with doe := y }, fragRsp q last res b)) : s.relays p q last res b y :=
  State.relays_of hp ha ho hr hb (State.only_modFunc s _ _) (congrArg Func.doe (State.modFunc_func_self s (pfKey p) fun f => { f with doe := y }))
    fun _ hk => State.modFunc_func_ne s _ _ hk

/-- The ephemeral key that a signed response brings (15 R421). -/
def State.signs (s : State) (p : Nat) (on : Bool) (g : Nat) : State :=
  if on then s.modFunc (pfKey p) fun f => { f with eph := some g } else s

theorem State.signs_spec (s : State) (p : Nat) (on : Bool) (g : Nat) : s.only (s.signs p on g) [.funcs] ∧
    ((s.signs p on g).func (pfKey p)).doe = (s.func (pfKey p)).doe ∧ ∀ k, k ≠ pfKey p → (s.signs p on g).func k = s.func k := by
  unfold State.signs
  split
  · exact ⟨State.only_modFunc s _ _, by rw [State.modFunc_func_self],
      fun _ hk => State.modFunc_func_ne s _ _ hk⟩
  · exact ⟨State.only_refl s _, rfl, fun _ _ => rfl⟩

theorem State.relay_aborted (s : State) (p : Nat) (q : List W32) (hk : fragOk q = true) (ha : (s.func (pfKey p)).doe.aborted = true) :
    s.relay p q = (s.modFunc (pfKey p) fun f => { f with doe := { f.doe with aborted := false } }, fragRsp q false 0x0B []) :=
  (if_neg (by rw [hk]; decide)).trans (if_pos ha)

theorem State.relay_fetch (s : State) (p : Nat) (q : List W32) (hk : fragOk q = true) (ha : (s.func (pfKey p)).doe.aborted = false)
    (hn : fld (reqWord q 0) 13 8 = 0) : s.relay p q =
      if !(s.func (pfKey p)).doe.pending then (s, fragRsp q false 0 [])
      else (s.modFunc (pfKey p) fun f => { f with doe := { f.doe with
          sent := f.doe.sent + (((s.func (pfKey p)).doe.req.drop (s.func (pfKey p)).doe.sent).take 60).length
          pending := !decide ((s.func (pfKey p)).doe.req.length ≤
            (s.func (pfKey p)).doe.sent + (((s.func (pfKey p)).doe.req.drop (s.func (pfKey p)).doe.sent).take 60).length) } },
        fragRsp q (decide ((s.func (pfKey p)).doe.req.length ≤
            (s.func (pfKey p)).doe.sent + (((s.func (pfKey p)).doe.req.drop (s.func (pfKey p)).doe.sent).take 60).length)) 0
          (((s.func (pfKey p)).doe.req.drop (s.func (pfKey p)).doe.sent).take 60)) :=
  (if_neg (by rw [hk]; decide)).trans ((if_neg (by rw [ha]; decide)).trans (if_pos hn))

theorem State.relay_append (s : State) (p : Nat) (q : List W32) (hk : fragOk q = true) (ha : (s.func (pfKey p)).doe.aborted = false)
    (hn : fld (reqWord q 0) 13 8 ≠ 0) : s.relay p q =
      if doeMax < (s.func (pfKey p)).doe.rsp.length + fld (reqWord q 0) 13 8
      then (s.modFunc (pfKey p) fun f => { f with doe := { f.doe with rsp := [] } }, fragRsp q false 0x01 [])
      else ((s.modFunc (pfKey p) fun f => { f with doe := { f.doe with
          rsp := (s.func (pfKey p)).doe.rsp ++ fragBytes q (fld (reqWord q 0) 13 8), ready := bit (reqWord q 0) 15 } }).signs p
            (bit (reqWord q 0) 15 && Config.signsBlock10 (s.func (pfKey p)).doe.req
              ((s.func (pfKey p)).doe.rsp ++ fragBytes q (fld (reqWord q 0) 13 8))) s.sec.reportGen, fragRsp q false 0 []) :=
  (if_neg (by rw [hk]; decide)).trans ((if_neg (by rw [ha]; decide)).trans (if_neg hn))

theorem not_decide_le (a b : Nat) : (!decide (a ≤ b)) = decide (b < a) := by
  rw [← decide_not]
  exact decide_eq_decide.mpr Nat.not_le

/-- Settles O56: a host's objects by what stands at the DOE mailbox, and a fragment by its direction. -/
theorem spdmRelay : Obligations.SpdmRelay := by
  intro p data q s hp
  refine ⟨fun hl => ⟨fun hd => ⟨fun hn k => ?_, fun hn => ?_, fun hn => ⟨?_, ?_⟩⟩, fun hd k => ?_, ?_⟩, fun ha ho hk => ?_⟩
  · exact ((State.exec_doeGo s p k data hp hl hd).1 hn).trans (done_setDoe s p _ [])
  · exact ((State.exec_doeGo s p .spdm data hp hl hd).2 hn).trans (done_setDoe s p _ _)
  · exact ((State.exec_doeGo s p .discovery data hp hl hd).2 hn).trans (done_setDoe s p _ [])
  · exact ((State.exec_doeGo s p .other data hp hl hd).2 hn).trans (done_self s)
  · have busy : (4 ≤ p || !(s.func (pfKey p)).linkUp || (s.func (pfKey p)).doe.pending) = true := by simp [hd]
    exact (congrArg (done s) (if_pos busy)).trans (done_self s)
  · have go : ¬(4 ≤ p || !(s.func (pfKey p)).linkUp) = true := by
      rw [hl, decide_eq_false (Nat.not_le.mpr hp)]
      decide
    exact (congrArg (done s) (if_neg go)).trans (done_setDoe s p _ [])
  · refine ⟨fun hab => ?_, fun hab hn hd => ?_, fun hab hn hd => ?_, fun hab hn hfit => ?_, fun hab hfit hn => ?_⟩
    · exact State.relays_set hp ha ho (by decide) (State.relay_aborted s p q hk hab)
    · exact State.relays_of hp ha ho ((State.relay_fetch s p q hk hab hn).trans (if_pos (by rw [hd]; rfl))) (by decide)
        (State.only_refl s _) rfl fun _ _ => rfl
    · have fetch := (State.relay_fetch s p q hk hab hn).trans (if_neg (by rw [hd]; decide))
      rw [not_decide_le] at fetch
      exact State.relays_set hp ha ho (List.length_take_le _ _) fetch
    · have append := (State.relay_append s p q hk hab (by omega)).trans (if_neg (Nat.not_lt.mpr hfit))
      obtain ⟨only, doe, others⟩ := State.signs_spec (s.modFunc (pfKey p) fun f => { f with doe := { f.doe with
          rsp := (s.func (pfKey p)).doe.rsp ++ fragBytes q (fld (reqWord q 0) 13 8), ready := bit (reqWord q 0) 15 } }) p
        (bit (reqWord q 0) 15 && Config.signsBlock10 (s.func (pfKey p)).doe.req
          ((s.func (pfKey p)).doe.rsp ++ fragBytes q (fld (reqWord q 0) 13 8))) s.sec.reportGen
      exact State.relays_of hp ha ho append (by decide) (State.only_trans (State.only_modFunc s _ _) only)
        (doe.trans (congrArg Func.doe (State.modFunc_func_self s (pfKey p) _)))
        fun k hk => (others k hk).trans (State.modFunc_func_ne s _ _ hk)
    · exact State.relays_set hp ha ho (by decide) ((State.relay_append s p q hk hab (by omega)).trans (if_pos hfit))

end Sys2Proof.Machine
end


section
/-! Bindings of VFs, VF ranges and partitions (02 R43 to R54). -/

namespace Sys2Proof.Machine

set_option Elab.async false

theorem done_modFunc (s : State) (k : Nat) (g : Func → Func) : done s (s.modFunc k g) = .next (s.modFunc k g) :=
  done_of_only (State.only_modFunc s k g) rfl

theorem done_refuse (s : State) (p c o : Nat) : done s (s.refuse p c o) = .next (s.refuse p c o) := done_modFunc s _ _

theorem State.modFunc_congr (s : State) (k : Nat) {g h : Func → Func} (e : g (s.func k) = h (s.func k)) :
    s.modFunc k g = s.modFunc k h := by
  unfold State.modFunc
  rw [e]

/-- A change of partitions that leaves what their sequencers run (08 R231) is done as it is. -/
theorem done_parts {s t : State} {l : List Field} (h : s.only t l) (hp : t.boot.power = s.boot.power)
    (hs : ∀ n, (t.part n).seqr = (s.part n).seqr) (hl : ∀ f ∈ [Field.pending, .latch, .tasks, .mtus], f ∉ l := by decide) :
    done s t = .next t :=
  done_same s t (h .tasks (hl _ (by decide))) (h .mtus (hl _ (by decide))) hp (h .pending (hl _ (by decide)))
    (h .latch (hl _ (by decide))) fun n => by rw [hs]

/-! ### VF_BIND (02 R43, R45) -/

/-- The queues that are not absent let the binding be as the write says (02 R45). -/
@[reducible] def State.bindIdle (s : State) (n : Nat) (new : W64) : Prop :=
  (s.liveQueues n).length = 0 ∨ (fld new 5 0 = fld (s.func n).bind 5 0 ∧ (bit (s.func n).bind 31 = true → bit new 31 = true) ∧
    (s.liveQueues n).length ≤ fld new 23 16)

theorem State.bindCheck_eq (s : State) (n : Nat) (new : W64) : s.bindCheck n new =
    if ¬(bit new 31 = true → (s.vfPort n).isSome = true) then 0x02
    else if 64 < fld new 23 16 then 0x02
    else if ¬s.enabled (fld new 5 0) = true then 0x0C
    else if ¬s.bindIdle n new then 0x05
    else if ¬(bit new 31 = true → s.quotaSum n + fld new 23 16 ≤ 16320) then 0x04
    else 0 := by
  unfold State.bindCheck State.bindIdle
  dsimp only
  refine ite_congr ?_ (fun _ => rfl) fun _ => ite_congr rfl (fun _ => rfl) fun _ => ite_congr (by simp) (fun _ => rfl) fun _ =>
    ite_congr ?_ (fun _ => rfl) fun _ => ite_congr ?_ (fun _ => rfl) fun _ => rfl
  · cases (s.vfPort n) <;> simp
  · cases h : bit (s.func n).bind 31 <;> cases h' : bit new 31 <;> simp <;> omega
  · simp

theorem State.exec_vfBindWrite (s : State) (p n : Nat) (v : W64) (hl : (s.func (pfKey p)).linkUp = true) (ho : s.boot.operator = some p)
    (hn : n < 1024) : exec (.vfBindWrite p n v) s = done s (
      if s.bindCheck n (merge (s.func n).bind v (ones 31 31 ||| ones 23 16 ||| ones 5 0)) ≠ 0
      then s.refuse p (s.bindCheck n (merge (s.func n).bind v (ones 31 31 ||| ones 23 16 ||| ones 5 0))) (0x20000 + 8 * n)
      else s.modFunc n fun f => { f with
        bind := merge (s.func n).bind v (ones 31 31 ||| ones 23 16 ||| ones 5 0)
        bindGen := if bit (s.func n).bind 31 != bit (merge (s.func n).bind v (ones 31 31 ||| ones 23 16 ||| ones 5 0)) 31 ||
          fld (s.func n).bind 5 0 != fld (merge (s.func n).bind v (ones 31 31 ||| ones 23 16 ||| ones 5 0)) 5 0
          then (f.bindGen + 1) % 65536 else f.bindGen }) := by
  have mask : allBits &&& (ones 31 31 ||| ones 23 16 ||| ones 5 0) = ones 31 31 ||| ones 23 16 ||| ones 5 0 := by decide
  have he : exec (.vfBindWrite p n v) s = done s (s.vfBindSet p n v allBits) :=
    congrArg (done s) ((State.opWrite_op s p _ _ hl ho).trans (if_pos hn))
  rw [he]
  unfold State.vfBindSet
  rw [mask]

/-- A binding's generation rises when VALID or PARTITION changes (03 R73). -/
theorem bindMoved_iff (a b : W64) : (bit a 31 != bit b 31 || fld a 5 0 != fld b 5 0) = true ↔ ¬(bit a 31 = bit b 31 ∧ fld a 5 0 = fld b 5 0) := by
  rw [Bool.or_eq_true, bne_iff_ne, bne_iff_ne]
  tauto

/-! ### VF_RANGE (02 R43, R44) -/

/-- The range of `c` VFs from `b` meets no other port's (02 R44). -/
@[reducible] def State.rangeApart (s : State) (n b c : Nat) : Prop :=
  ∀ q, q < 4 → q ≠ n → ¬(0 < c ∧ 0 < s.vfCount q ∧ b < s.vfBase q + s.vfCount q ∧ s.vfBase q < b + c)

theorem State.rangeApart_iff (s : State) (n b c : Nat) : ((List.range 4).any fun q =>
      q != n && c != 0 && s.vfCount q != 0 && b < s.vfBase q + s.vfCount q && s.vfBase q < b + c) = true ↔ ¬s.rangeApart n b c := by
  rw [List.any_eq_true]
  simp only [List.mem_range, Bool.and_eq_true, bne_iff_ne, decide_eq_true_eq, ne_eq]
  constructor
  · rintro ⟨q, hq, ⟨⟨⟨hn, hc⟩, hv⟩, hb⟩, he⟩ h
    exact h q hq hn ⟨by omega, by omega, hb, he⟩
  · intro h
    by_contra g
    exact h fun q hq hn ⟨hc, hv, hb, he⟩ => g ⟨q, hq, ⟨⟨⟨hn, by omega⟩, by omega⟩, hb⟩, he⟩

theorem State.exec_vfRangeWrite (s : State) (p n : Nat) (v : W64) (hl : (s.func (pfKey p)).linkUp = true)
    (ho : s.boot.operator = some p) (hn : n < 4) (new : W64)
    (hnew : merge ((s.func (pfKey n)).range.setWidth 64) v (ones 26 16 ||| ones 9 0) = new) :
    exec (.vfRangeWrite p n v) s = done s (
      if ¬s.rangeApart n (fld new 9 0) (fld new 26 16) then s.refuse p 0x03 (0x24000 + 8 * n)
      else if 1024 < fld new 9 0 + fld new 26 16 then s.refuse p 0x02 (0x24000 + 8 * n)
      else if (s.func (pfKey n)).vfEnable then s.refuse p 0x09 (0x24000 + 8 * n)
      else s.modFunc (pfKey n) fun f => { f with range := new.setWidth 32 }) := by
  have mask : allBits &&& (ones 26 16 ||| ones 9 0) = ones 26 16 ||| ones 9 0 := by decide
  have he : exec (.vfRangeWrite p n v) s = done s (s.vfRangeSet p n v allBits) :=
    congrArg (done s) ((State.opWrite_op s p _ _ hl ho).trans (if_pos hn))
  rw [he]
  unfold State.vfRangeSet
  rw [mask, hnew]
  exact congrArg (done s) (ite_congr (propext (s.rangeApart_iff n _ _)) (fun _ => rfl) fun _ => rfl)

/-! ### PART_CFG (02 R50 to R54) -/

theorem and_foldl_or_eq_zero (a : W64) (f : Nat → W64) (l : List Nat) : ∀ b : W64,
    a &&& l.foldl (fun x m => x ||| f m) b = 0 ↔ a &&& b = 0 ∧ ∀ m ∈ l, a &&& f m = 0 := by
  induction l with
  | nil => simp
  | cons m l ih =>
      intro b
      rw [List.foldl_cons, ih, List.forall_mem_cons]
      have split : a &&& (b ||| f m) = 0 ↔ a &&& b = 0 ∧ a &&& f m = 0 := by
        rw [BitVec.and_or_distrib_left]
        exact BitVec.or_eq_zero_iff
      rw [split, and_assoc]

/-- Ports or banks are held by no other enabled partition, nor on their way (02 R50, R53, R59). -/
theorem State.heldElsewhere_apart (s : State) (n : Nat) (f : Part → W64) (a moving : W64) : a &&& s.heldElsewhere n f moving = 0 ↔
    (s.rcv.rszPhase ≠ 0 → s.rszHolds n = false → a &&& moving = 0) ∧
    ∀ m, m < 64 → m ≠ n → s.enabled m = true → a &&& f (s.part m) = 0 := by
  unfold State.heldElsewhere
  rw [and_foldl_or_eq_zero]
  refine and_congr ?_ ?_
  · by_cases h : s.rcv.rszPhase = 0 <;> cases h' : s.rszHolds n <;> simp [h]
  · simp only [List.mem_filter, List.mem_range, Bool.and_eq_true, bne_iff_ne]
    exact ⟨fun h m hm hn he => h m ⟨hm, hn, he⟩, fun h m ⟨hm, hn, he⟩ => h m hm hn he⟩

theorem State.anyRetired_iff (s : State) (kind : Nat) (v : W64) :
    s.anyRetired kind v = false ↔ ∀ i, i < 64 → bit v i = true → (s.chan (ckey kind i)).retired = false := by
  unfold State.anyRetired bitsOf
  rw [List.any_eq_false]
  simp only [List.mem_filter, List.mem_range, Bool.not_eq_true]
  exact ⟨fun h i hi hb => h i ⟨hi, hb⟩, fun h i ⟨hi, hb⟩ => h i hi hb⟩

/-- What an enabled partition must have (02 R53). -/
@[reducible] def State.hasSome (s : State) (n th : Nat) : Prop :=
  (s.part n).engines ≠ 0 ∧ (s.part n).banks ≠ 0 ∧ 1 ≤ th ∧ 1 ≤ extCount (s.part n).extents

/-- What no other enabled partition, and no resize, may hold (02 R53, R59). -/
@[reducible] def State.standsApart (s : State) (n : Nat) : Prop :=
  (∀ m, m < 64 → m ≠ n → s.enabled m = true → (s.part n).engines &&& (s.part m).engines = 0 ∧
    (s.part n).banks &&& (s.part m).banks = 0 ∧ extMeets (s.part n).extents (s.part m).extents = false) ∧
  (s.rcv.rszPhase ≠ 0 → s.rszHolds n = false → (s.part n).engines &&& s.rcv.rszMovE = 0 ∧ (s.part n).banks &&& s.rcv.rszMovB = 0)

/-- What the manual's totals let it have (02 R53). -/
@[reducible] def State.fitsIn (s : State) (n th : Nat) : Prop :=
  extBase (s.part n).extents + extCount (s.part n).extents ≤ 1048576 ∧ th + s.threadsOthers n ≤ 256

/-- No port or bank of it is retired (02 R53). -/
@[reducible] def State.soundPorts (s : State) (n : Nat) : Prop := ∀ i, i < 64 →
  (bit (s.part n).engines i = true → (s.chan (ckey 1 i)).retired = false) ∧
  (bit (s.part n).banks i = true → (s.chan (ckey 3 i)).retired = false)

theorem State.standsApart_iff (s : State) (n : Nat) :
    ((s.part n).engines &&& s.heldElsewhere n (·.engines) s.rcv.rszMovE != 0 || (s.part n).banks &&& s.heldElsewhere n (·.banks) s.rcv.rszMovB != 0 ||
      ((List.range 64).any fun m => m != n && s.enabled m && extMeets (s.part n).extents (s.part m).extents)) = false ↔ s.standsApart n := by
  rw [Bool.or_eq_false_iff, Bool.or_eq_false_iff, bne_eq_false_iff_eq, bne_eq_false_iff_eq, State.heldElsewhere_apart,
    State.heldElsewhere_apart, List.any_eq_false]
  simp only [List.mem_range, Bool.and_eq_true, bne_iff_ne, not_and, Bool.not_eq_true, and_imp]
  constructor
  · rintro ⟨⟨⟨move, engines⟩, move', banks⟩, exts⟩
    exact ⟨fun m hm hn he => ⟨engines m hm hn he, banks m hm hn he, exts m hm hn he⟩, fun hp hh => ⟨move hp hh, move' hp hh⟩⟩
  · rintro ⟨parts, moves⟩
    exact ⟨⟨⟨fun hp hh => (moves hp hh).1, fun m hm hn he => (parts m hm hn he).1⟩, fun hp hh => (moves hp hh).2,
      fun m hm hn he => (parts m hm hn he).2.1⟩, fun m hm hn he => (parts m hm hn he).2.2⟩

theorem State.soundPorts_iff (s : State) (n : Nat) : s.soundPorts n ↔
    (s.anyRetired 1 (s.part n).engines || s.anyRetired 3 (s.part n).banks) = false := by
  rw [Bool.or_eq_false_iff, State.anyRetired_iff, State.anyRetired_iff]
  exact ⟨fun h => ⟨fun i hi => (h i hi).1, fun i hi => (h i hi).2⟩, fun h i hi => ⟨h.1 i hi, h.2 i hi⟩⟩

theorem State.enableCheck_eq (s : State) (n : Nat) (new : W64) : s.enableCheck n new =
    if ¬s.hasSome n (fld new 40 32) then 0x0A
    else if ¬s.standsApart n then 0x03
    else if ¬s.fitsIn n (fld new 40 32) then 0x04
    else if ¬s.soundPorts n then 0x0B else 0 := by
  unfold State.enableCheck
  dsimp only
  refine ite_congr ?_ (fun _ => rfl) fun _ => ite_congr ?_ (fun _ => rfl) fun _ => ite_congr ?_ (fun _ => rfl) fun _ =>
    ite_congr ?_ (fun _ => rfl) fun _ => rfl
  · simp [State.hasSome, Nat.one_le_iff_ne_zero]
    tauto
  · rw [eq_iff_iff, ← s.standsApart_iff n, Bool.not_eq_false]
  · simp [State.fitsIn]
    omega
  · rw [eq_iff_iff, State.soundPorts_iff, Bool.not_eq_false]

/-- The fields of PART_CFG (02 R52). -/
def cfgFields : W64 := ones 40 32 ||| ones 9 8 ||| ones 0 0

theorem State.partWrite_eq (s : State) (p n : Nat) (v : W64) (hl : (s.func (pfKey p)).linkUp = true) (ho : s.boot.operator = some p)
    (hn : n < 64) : s.partWrite p n v =
      if s.cfgCheck n (merge (s.part n).cfg v cfgFields) ≠ 0
      then s.refuse p (s.cfgCheck n (merge (s.part n).cfg v cfgFields)) (0x10000 + n * 0x100)
      else if !bit (s.part n).cfg 0 && bit (merge (s.part n).cfg v cfgFields) 0
        then (s.modPart n fun q => { q with cfg := merge (s.part n).cfg v cfgFields }).partEnabled n
      else if bit (s.part n).cfg 0 && !bit (merge (s.part n).cfg v cfgFields) 0
        then (s.modPart n fun q => { q with cfg := merge (s.part n).cfg v cfgFields }).partDisabled n
      else s.modPart n fun q => { q with cfg := merge (s.part n).cfg v cfgFields } := by
  have mask : allBits &&& cfgFields = cfgFields := by decide
  have he : s.partWrite p n v = s.partCfgSet p n v allBits := (State.opWrite_op s p _ _ hl ho).trans (if_pos hn)
  rw [he]
  unfold State.partCfgSet
  rw [show allBits &&& (ones 40 32 ||| ones 9 8 ||| ones 0 0) = cfgFields from mask]
  rfl

theorem State.cfgCheck_enable (s : State) (n : Nat) (new : W64) (hb : bit (s.part n).cfg 0 = false) (hn : bit new 0 = true)
    (ht : fld new 40 32 ≤ 256) (hm : fld new 9 8 ≤ 1) : s.cfgCheck n new = s.enableCheck n new := by
  unfold State.cfgCheck
  dsimp only
  rw [if_neg (by simp [hb]), if_neg (by simp [hb]), if_neg (by simp; omega), if_pos (by simp [hb, hn])]

/-- What an enable's slices begin with (08 R221, R243). -/
def Part.enabledAs (cfg : W64) (x : Nat × Nat) (p : Part) : Part :=
  { p with cfg := cfg, slices := 0, prev := none, portLost := false, cvy := { p.cvy with restart := true }, stepNs := x.1, endNs := x.2 }

/-- A partition that has just been enabled, but for its step times (08 R221, R243). -/
def Part.opened (p : Part) : Part := { p with slices := 0, prev := none, portLost := false, cvy := { p.cvy with restart := true } }

theorem State.only_recomputeStep (s : State) (n : Nat) : s.only (s.recomputeStep n) [.parts] := State.only_modPart s n _

theorem State.recomputeStep_part (s : State) (n : Nat) :
    (s.recomputeStep n).part n = { s.part n with stepNs := (s.stepTimes n).1, endNs := (s.stepTimes n).2 } ∧
    ∀ m, m ≠ n → (s.recomputeStep n).part m = s.part m :=
  ⟨State.modPart_part_self s n _, fun _ hm => State.modPart_part_ne s n _ hm⟩

theorem State.partEnabled_spec (s : State) (n : Nat) (cfg : W64) :
    let t := (s.modPart n fun q => { q with cfg := cfg }).partEnabled n
    t.part n = (s.part n).enabledAs cfg (t.stepTimes n) ∧ (∀ m, m ≠ n → t.part m = s.part m) ∧ s.reported t ∧
      s.only t [.parts, .funcs, .sec] := by
  intro t
  have first := State.only_modPart s n fun q => { q with cfg := cfg }
  have second := State.only_modPart (s.modPart n fun q => { q with cfg := cfg }) n Part.opened
  have self : (s.modPart n fun q => { q with cfg := cfg }).part n = { s.part n with cfg := cfg } := State.modPart_part_self s n _
  have others : ∀ m, m ≠ n → (s.modPart n fun q => { q with cfg := cfg }).part m = s.part m := fun m hm => State.modPart_part_ne s n _ hm
  have eq : t = (((s.modPart n fun q => { q with cfg := cfg }).modPart n Part.opened).recomputeStep n).bumpReport := rfl
  generalize s.modPart n (fun q => { q with cfg := cfg }) = a at *
  have self' : (a.modPart n Part.opened).part n = (a.part n).opened := State.modPart_part_self a n _
  have others' : ∀ m, m ≠ n → (a.modPart n Part.opened).part m = a.part m := fun m hm => State.modPart_part_ne a n _ hm
  generalize a.modPart n Part.opened = b at *
  have third := State.only_recomputeStep b n
  obtain ⟨timed, untimed⟩ := State.recomputeStep_part b n
  generalize b.recomputeStep n = c at *
  have bump := State.only_bumpReport c
  have parts : ∀ m, c.bumpReport.part m = c.part m := State.part_of (bump .parts (by decide))
  have only : s.only c [.parts] := State.only_trans first (State.only_trans second third)
  have times : t.stepTimes n = b.stepTimes n := by
    rw [eq]
    refine State.stepTimes_congr n ((bump .ports (by decide)).trans (third .ports (by decide)))
      ((bump .latch (by decide)).trans (third .latch (by decide))) ?_
    rw [parts, timed]
  refine ⟨?_, fun m hm => ?_, ?_, ?_⟩
  · rw [times, eq, parts, timed, self', self]
    rfl
  · rw [eq, parts, untimed m hm, others' m hm, others m hm]
  · rw [eq]
    exact (State.bumpReport_reported c).of_eq (only .funcs (by decide)) (congrArg Sec.reportGen (only .sec (by decide)))
  · rw [eq]
    exact State.only_after bump.sub only.sub

/-- A disable withdraws its keys (02 R54; 15 R415, R420). -/
theorem State.partDisabled_spec (s : State) (n : Nat) (cfg : W64) :
    let t := (s.modPart n fun q => { q with cfg := cfg }).partDisabled n
    t.part n = { s.part n with cfg := cfg } ∧ (∀ m, m ≠ n → t.part m = s.part m) ∧ s.reported t ∧
      (∀ e, e ∈ t.sec.keys ↔ e ∈ s.sec.keys ∧ ∃ k, e.2 = some k ∧ k.part ≠ n) ∧ s.only t [.parts, .funcs, .sec] := by
  intro t
  have bump := State.only_bumpReport ((s.modPart n fun q => { q with cfg := cfg }).withdrawKeys fun k => k.part == n)
  have mod := State.only_modPart s n fun q => { q with cfg := cfg }
  have gone := State.only_withdrawKeys (s.modPart n fun q => { q with cfg := cfg }) fun k => k.part == n
  have parts : ∀ m, t.part m = (s.modPart n fun q => { q with cfg := cfg }).part m :=
    State.part_of ((bump .parts (by decide)).trans (gone .parts (by decide)))
  refine ⟨(parts n).trans (State.modPart_part_self s n _), fun m hm => (parts m).trans (State.modPart_part_ne s n _ hm),
    (State.bumpReport_reported _).of_eq ((gone .funcs (by decide)).trans (mod .funcs (by decide))) rfl, fun e => ?_,
    State.only_after bump.sub (State.only_after gone.sub mod.sub)⟩
  refine List.mem_filter.trans (and_congr_right fun _ => ?_)
  cases e.2 <;> simp

/-- A refused write to PART_CFG is recorded, and nothing else (02 R42, R53, R54). -/
theorem State.partWrite_refused (s : State) (p n c : Nat) (v : W64) (hl : (s.func (pfKey p)).linkUp = true)
    (ho : s.boot.operator = some p) (hn : n < 64) (hc : s.cfgCheck n (merge (s.part n).cfg v cfgFields) = c) (h0 : c ≠ 0) :
    done s (s.partWrite p n v) = .next (s.refuse p c (0x10000 + n * 0x100)) := by
  rw [State.partWrite_eq s p n v hl ho hn, hc, if_pos h0]
  exact done_refuse s _ _ _

theorem State.cfgCheck_fixed (s : State) (n : Nat) (new : W64) (hb : bit (s.part n).cfg 0 = true)
    (hd : fld new 40 32 ≠ fld (s.part n).cfg 40 32 ∨ fld new 9 8 ≠ fld (s.part n).cfg 9 8) : s.cfgCheck n new = 0x07 := by
  unfold State.cfgCheck
  dsimp only
  rw [if_pos (by simpa [hb] using hd)]

theorem State.cfgCheck_disable (s : State) (n : Nat) (new : W64) (hb : bit (s.part n).cfg 0 = true) (hn : bit new 0 = false)
    (ht : fld new 40 32 = fld (s.part n).cfg 40 32) (hm : fld new 9 8 = fld (s.part n).cfg 9 8) :
    (s.boundVfs n ≠ [] → s.cfgCheck n new = 0x06) ∧
    (s.boundVfs n = [] → fld new 40 32 ≤ 256 → fld new 9 8 ≤ 1 → s.cfgCheck n new = 0) := by
  unfold State.cfgCheck
  dsimp only
  rw [if_neg (by simp [ht, hm])]
  refine ⟨fun hv => if_pos (by simp [hb, hn, hv]), fun hv h256 h1 => ?_⟩
  rw [if_neg (by simp [hv]), if_neg (by simp; omega), if_neg (by simp [hn])]

/-- Settles O57: each write by the check that decides it (`bindCheck_eq`, `rangeApart_iff`, `enableCheck_eq`). -/
theorem tenancyWrites : Obligations.TenancyWrites := by
  intro p n v s hl ho
  refine ⟨fun hn => ?_, fun hn => ?_, fun hn => ⟨fun hb hnew ht hm => ?_, fun hb hnew ht hm => ?_, fun hb hd => ?_⟩⟩
  · have he := State.exec_vfBindWrite s p n v hl ho hn
    have check := State.bindCheck_eq s n (merge (s.func n).bind v (ones 31 31 ||| ones 23 16 ||| ones 5 0))
    dsimp only
    generalize merge (s.func n).bind v (ones 31 31 ||| ones 23 16 ||| ones 5 0) = new at *
    have refused : ∀ c, c ≠ 0 → s.bindCheck n new = c → exec (.vfBindWrite p n v) s = .next (s.refuse p c (0x20000 + 8 * n)) :=
      fun c hc h => he.trans (by rw [h, if_pos hc]; exact done_refuse s _ _ _)
    refine ⟨fun hr h64 hen hi hf => ?_, fun h => refused 0x02 (by decide) ?_, fun hr h64 hen => refused 0x0C (by decide) ?_,
      fun hr h64 hen hi => refused 0x05 (by decide) ?_, fun hr h64 hen hi hf => refused 0x04 (by decide) ?_⟩
    · have zero : s.bindCheck n new = 0 := by
        rw [check, if_neg (not_not.mpr hr), if_neg (by omega), if_neg (not_not.mpr hen), if_neg (not_not.mpr hi), if_neg (not_not.mpr hf)]
      rw [zero, if_neg (by decide)] at he
      refine he.trans ((done_modFunc s n _).trans (congrArg Host.Outcome.next (State.modFunc_congr s n ?_)))
      congr 1
      exact (ite_congr (propext (bindMoved_iff _ _)) (fun _ => rfl) fun _ => rfl).trans (ite_not _ _ _)
    · rw [check]
      by_cases hr : bit new 31 = true → (s.vfPort n).isSome = true
      · rw [if_neg (not_not.mpr hr), if_pos (h.resolve_left (not_not.mpr hr))]
      · rw [if_pos hr]
    · rw [check, if_neg (not_not.mpr hr), if_neg (by omega), if_pos hen]
    · rw [check, if_neg (not_not.mpr hr), if_neg (by omega), if_neg (not_not.mpr hen), if_pos hi]
    · rw [check, if_neg (not_not.mpr hr), if_neg (by omega), if_neg (not_not.mpr hen), if_neg (not_not.mpr hi), if_pos hf]
  · have he := State.exec_vfRangeWrite s p n v hl ho hn _ rfl
    refine ⟨fun ha hb hv => ?_, fun ha => ?_, fun ha hb => ?_, fun ha hb hv => ?_⟩
    · rw [if_neg (not_not.mpr ha), if_neg (by omega), if_neg (by rw [hv]; decide)] at he
      exact he.trans (done_modFunc s _ _)
    · rw [if_pos ha] at he
      exact he.trans (done_refuse s _ _ _)
    · rw [if_neg (not_not.mpr ha), if_pos hb] at he
      exact he.trans (done_refuse s _ _ _)
    · rw [if_neg (not_not.mpr ha), if_neg (by omega), if_pos hv] at he
      exact he.trans (done_refuse s _ _ _)
  · have he : exec (.partitionEnable p n v) s = done s (s.partWrite p n v) := rfl
    have check := (State.cfgCheck_enable s n _ hb hnew ht hm).trans (State.enableCheck_eq s n _)
    have refused : ∀ c, c ≠ 0 → s.cfgCheck n (merge (s.part n).cfg v cfgFields) = c →
        exec (.partitionEnable p n v) s = .next (s.refuse p c (0x10000 + n * 0x100)) :=
      fun c hc h => State.partWrite_refused s p n c v hl ho hn h hc
    refine ⟨fun h1 h2 h3 h4 => ?_, fun h1 => refused 0x0A (by decide) (check.trans (if_pos h1)),
      fun h1 h2 => refused 0x03 (by decide) ?_, fun h1 h2 h3 => refused 0x04 (by decide) ?_, fun h1 h2 h3 h4 => refused 0x0B (by decide) ?_⟩
    · rw [if_neg (not_not.mpr h1), if_neg (not_not.mpr h2), if_neg (not_not.mpr h3), if_neg (not_not.mpr h4)] at check
      have taken : s.partWrite p n v = (s.modPart n fun q => { q with cfg := merge (s.part n).cfg v cfgFields }).partEnabled n := by
        rw [State.partWrite_eq s p n v hl ho hn]
        exact (if_neg (not_not.mpr check)).trans (if_pos (by rw [hb, Bool.not_false, Bool.true_and]; exact hnew))
      obtain ⟨part, others, reported, only⟩ := State.partEnabled_spec s n (merge (s.part n).cfg v cfgFields)
      rw [← taken] at part others reported only
      refine ⟨s.partWrite p n v, he.trans (done_parts only (by rw [only .boot (by decide)]) fun m => ?_), by rw [part]; rfl, reported,
        ⟨by rw [part]; rfl, by rw [part]; rfl, by rw [part]; rfl, by rw [part]; rfl, by rw [part]; rfl, by rw [part]; rfl⟩, others, only⟩
      by_cases hm : m = n
      · rw [hm, part]
        rfl
      · rw [others m hm]
    · exact check.trans ((if_neg (not_not.mpr h1)).trans (if_pos h2))
    · exact check.trans ((if_neg (not_not.mpr h1)).trans ((if_neg (not_not.mpr h2)).trans (if_pos h3)))
    · exact check.trans ((if_neg (not_not.mpr h1)).trans ((if_neg (not_not.mpr h2)).trans ((if_neg (not_not.mpr h3)).trans (if_pos h4))))
  · have he : exec (.partitionDisable p n v) s = done s (s.partWrite p n v) := rfl
    obtain ⟨bound, free⟩ := State.cfgCheck_disable s n _ hb hnew ht hm
    refine ⟨fun hv h256 h1 => ?_, fun hv => ?_⟩
    · have taken : s.partWrite p n v = (s.modPart n fun q => { q with cfg := merge (s.part n).cfg v cfgFields }).partDisabled n := by
        rw [State.partWrite_eq s p n v hl ho hn]
        exact (if_neg (not_not.mpr (free hv h256 h1))).trans ((if_neg (by rw [hb, Bool.not_true, Bool.false_and]; decide)).trans
          (if_pos (by rw [hb, Bool.true_and, Bool.not_eq_true']; exact hnew)))
      obtain ⟨part, others, reported, keys, only⟩ := State.partDisabled_spec s n (merge (s.part n).cfg v cfgFields)
      rw [← taken] at part others reported keys only
      refine ⟨s.partWrite p n v, he.trans (done_parts only (by rw [only .boot (by decide)]) fun m => ?_), by rw [part]; rfl, reported,
        keys, others, only⟩
      by_cases hm : m = n
      · rw [hm, part]
      · rw [others m hm]
    · exact State.partWrite_refused s p n _ v hl ho hn (bound hv) (by decide)
  · exact State.partWrite_refused s p n _ v hl ho hn (State.cfgCheck_fixed s n _ hb hd) (by decide)

end Sys2Proof.Machine
end


section
/-! The steps of a resize (02 R59). -/

namespace Sys2Proof.Machine

set_option Elab.async false

/-- A partition table that lists partition 0 twice: the first entry, which counts, holds no port; the second names port 0, which a
resize with no source clears, so that the step times of partition 0 are recomputed. -/
def namedTwice : State :=
  { latch := { engines := true }
    rcv := { rszPhase := 1, rszAct := 64#32, rszMovE := 1#64 }
    parts := [(0, { stepNs := 5 }), (0, { engines := 1#64 })] }

/-- Refutes O58: the statement does not ask for a table in canonical form. Where partition 0 is listed twice, the source step
recomputes the step times of a partition that holds none of the moving ports. -/
theorem not_resizeSteps : ¬ Obligations.ResizeSteps := by
  intro h
  obtain ⟨-, -, source, -⟩ := h 0 0 0 namedTwice
  obtain ⟨t, ht, -, -, -, -, -, others, -⟩ := source (by decide +kernel) (by decide +kernel)
  have kept : t.part 0 = namedTwice.part 0 := others 0 (by decide +kernel) (by decide +kernel)
  have times : nextHas (exec .resizeSourceStep namedTwice) (fun t => decide ((t.part 0).stepNs = 0)) = true := by decide +kernel
  have timed : (t.part 0).stepNs = 0 := of_decide_eq_true (nextHas_next times ht)
  rw [kept] at timed
  exact absurd timed (by decide +kernel)

end Sys2Proof.Machine
end


section
/-! Counters and registers (00 R7 to R9; 02 R39, R42, R64, R65; 16 R430 to R434). -/

namespace Sys2Proof.Machine

set_option Elab.async false

/-! ### Counters (16 R430 to R434) -/

/-- The count of event `k` after a sample point (16 R432, R433). -/
def State.sampled (s : State) (k : Nat) : Nat := match s.cntMode k with
  | 1 => satAdd (2 ^ 64 - 1) (Tab.get 0 s.cnt.cnt k) (min (s.level k (s.cntFilter k)) (2 ^ 32 - 1))
  | 2 => if fld (s.cntCfg k) 31 0 < s.level k (s.cntFilter k) then satAdd (2 ^ 64 - 1) (Tab.get 0 s.cnt.cnt k) 1 else Tab.get 0 s.cnt.cnt k
  | _ => Tab.get 0 s.cnt.cnt k

theorem State.cntRaw_cnt (s : State) (e n : Nat) :
    Tab.get 0 (s.cntRaw e n).cnt.cnt e = satAdd (2 ^ 64 - 1) (Tab.get 0 s.cnt.cnt e) (min n (2 ^ 32 - 1)) ∧
    ∀ k, k ≠ e → Tab.get 0 (s.cntRaw e n).cnt.cnt k = Tab.get 0 s.cnt.cnt k ∧
      Tab.get none (s.cntRaw e n).cnt.cfg k = Tab.get none s.cnt.cfg k := by
  unfold State.cntRaw State.modCnt
  dsimp only
  split
  · exact ⟨Tab.get_set_self _ _ _ _, fun k hk => ⟨Tab.get_set_ne _ _ _ hk,
      Tab.get_set_ne none s.cnt.cfg (some (s.cntCfg e ||| ones 63 63)) hk⟩⟩
  · exact ⟨Tab.get_set_self _ _ _ _, fun k hk => ⟨Tab.get_set_ne _ _ _ hk, rfl⟩⟩

theorem State.only_samplePoint (s : State) (e : Nat) : s.only (s.samplePoint e) [.cnt] := by
  unfold State.samplePoint
  dsimp only
  split
  · exact State.only_cntRaw s _ _
  · exact State.only_ite _ (State.only_cntRaw s _ _) (State.only_refl s _)
  · exact State.only_refl s _

theorem State.samplePoint_cnt (s : State) (e : Nat) : Tab.get 0 (s.samplePoint e).cnt.cnt e = s.sampled e ∧
    ∀ k, k ≠ e → Tab.get 0 (s.samplePoint e).cnt.cnt k = Tab.get 0 s.cnt.cnt k ∧
      Tab.get none (s.samplePoint e).cnt.cfg k = Tab.get none s.cnt.cfg k := by
  unfold State.samplePoint State.sampled
  dsimp only
  generalize s.cntMode e = m
  match m with
  | 1 => exact s.cntRaw_cnt e _
  | 2 =>
      by_cases h : fld (s.cntCfg e) 31 0 < s.level e (s.cntFilter e)
      · simp only [if_pos h]
        exact s.cntRaw_cnt e 1
      · simp [h]
  | 0 => exact ⟨rfl, fun k _ => ⟨rfl, rfl⟩⟩
  | _ + 3 => exact ⟨rfl, fun k _ => ⟨rfl, rfl⟩⟩

/-- Levels are those of the tasks, credits and power of a state (16 R434). -/
theorem State.level_congr {s t : State} (h : s.only t [.now, .cnt]) (e : Nat) (n : Option Nat) : t.level e n = s.level e n := by
  have tasks : t.tasks = s.tasks := h .tasks (by decide)
  have mtus : t.mtus = s.mtus := h .mtus (by decide)
  have boot : t.boot = s.boot := h .boot (by decide)
  have parts : t.parts = s.parts := h .parts (by decide)
  unfold State.level State.mtuHeldBy State.part
  rw [tasks, mtus, boot, parts]

theorem State.sampled_congr {s t : State} (h : s.only t [.now, .cnt]) (k : Nat) (hc : Tab.get 0 t.cnt.cnt k = Tab.get 0 s.cnt.cnt k)
    (hg : Tab.get none t.cnt.cfg k = Tab.get none s.cnt.cfg k) : t.sampled k = s.sampled k := by
  have cfg : t.cntCfg k = s.cntCfg k := by
    unfold State.cntCfg
    rw [hg]
  unfold State.sampled State.cntMode State.cntFilter
  rw [cfg, hc, State.level_congr h]

theorem State.each_samplePoint (l : List Nat) (hl : l.Nodup) : ∀ s : State, s.only (s.each l State.samplePoint) [.cnt] ∧
    (∀ k ∈ l, Tab.get 0 (s.each l State.samplePoint).cnt.cnt k = s.sampled k) ∧
    ∀ k, k ∉ l → Tab.get 0 (s.each l State.samplePoint).cnt.cnt k = Tab.get 0 s.cnt.cnt k := by
  induction l with
  | nil => exact fun s => ⟨State.only_refl s _, fun k hk => absurd hk (by simp), fun k _ => rfl⟩
  | cons e l ih =>
      intro s
      obtain ⟨fresh, rest⟩ := List.nodup_cons.mp hl
      obtain ⟨only, sampled, others⟩ := ih rest (s.samplePoint e)
      obtain ⟨self, kept⟩ := s.samplePoint_cnt e
      have one := s.only_samplePoint e
      refine ⟨State.only_trans one only, fun k hk => ?_, fun k hk => ?_⟩
      · obtain rfl | hk := List.mem_cons.mp hk
        · exact (others k fresh).trans self
        · have ne : k ≠ e := fun h => fresh (h ▸ hk)
          obtain ⟨cnt, cfg⟩ := kept k ne
          exact (sampled k hk).trans (State.sampled_congr one.sub k cnt cfg)
      · obtain ⟨ne, hk⟩ := not_or.mp (fun h => hk (List.mem_cons.mpr h))
        exact (others k hk).trans (kept k ne).1

/-- 16 ns of candle time (16 R432). -/
def State.sampleTick (s : State) : State := { s with now := s.now + 16 }.modCnt fun c => { c with ticks16 := c.ticks16 + 1 }

theorem State.only_sampleTick (s : State) : s.only s.sampleTick [.now, .cnt] := by
  intro f hf
  cases f <;> first | rfl | exact absurd (by decide) hf

theorem State.each_samplePoint_ticks (l : List Nat) : ∀ s : State, (s.each l State.samplePoint).cnt.ticks16 = s.cnt.ticks16 := by
  induction l with
  | nil => exact fun s => rfl
  | cons e l ih =>
      intro s
      refine (ih (s.samplePoint e)).trans ?_
      unfold State.samplePoint State.cntRaw State.modCnt
      dsimp only
      split
      · split <;> rfl
      · split <;> rfl
      · rfl

theorem State.counterSamplePoint_spec (s : State) : ∃ t, exec .counterSamplePoint s = .next t ∧ t.now = s.now + 16 ∧
    t.cnt.ticks16 = s.cnt.ticks16 + 1 ∧ (∀ k ∈ [0x021, 0x022, 0x0C2, 0x1E1], Tab.get 0 t.cnt.cnt k = s.sampled k) ∧
    (∀ k, k ∉ [0x021, 0x022, 0x0C2, 0x1E1] → Tab.get 0 t.cnt.cnt k = Tab.get 0 s.cnt.cnt k) ∧ s.only t [.now, .cnt] := by
  have tick := s.only_sampleTick
  obtain ⟨only, sampled, others⟩ := State.each_samplePoint [0x021, 0x022, 0x0C2, 0x1E1] (by decide) s.sampleTick
  have ticks := State.each_samplePoint_ticks [0x021, 0x022, 0x0C2, 0x1E1] s.sampleTick
  have he : exec .counterSamplePoint s = done s (s.sampleTick.each [0x021, 0x022, 0x0C2, 0x1E1] State.samplePoint) := rfl
  generalize s.sampleTick.each [0x021, 0x022, 0x0C2, 0x1E1] State.samplePoint = t at *
  have all : s.only t [.now, .cnt] := State.only_after only.sub tick
  exact ⟨t, he.trans (done_of_only all (by rw [all .boot (by decide)])), only .now (by decide), ticks,
    fun k hk => (sampled k hk).trans (State.sampled_congr tick k rfl rfl), others, all⟩

theorem State.cntCfgWrite_spec (s : State) (p e : Nat) (v : W64) (new : W64) (hl : (s.func (pfKey p)).linkUp = true)
    (ho : s.boot.operator = some p) (hn : (if bit v 63 then clrBit (merge (s.cntCfg e) v (ones 47 47 ||| ones 45 40 ||| ones 33 32 ||| ones 31 0)) 63
      else merge (s.cntCfg e) v (ones 47 47 ||| ones 45 40 ||| ones 33 32 ||| ones 31 0)) = new) :
    exec (.cntCfgWrite p e v) s = done s (
      if !cntDefined e then s
      else if !modeAllowed e (fld new 33 32) then s.refuse p 0x02 (0x61000 + e * 8)
      else s.modCnt fun c => { c with cfg := Tab.set none c.cfg e (some new) }) := by
  have he : exec (.cntCfgWrite p e v) s = done s (s.cntCfgSet p e v (ones 63 0)) := congrArg (done s) (State.opWrite_op s p _ _ hl ho)
  have mask : ones 63 0 &&& (ones 47 47 ||| ones 45 40 ||| ones 33 32 ||| ones 31 0) = ones 47 47 ||| ones 45 40 ||| ones 33 32 ||| ones 31 0 := by
    decide
  have all : v &&& ones 63 0 = v := BitVec.and_allOnes
  rw [he]
  unfold State.cntCfgSet
  dsimp only
  rw [mask, all, hn]

/-! ### Register reads (00 R7 to R9) -/

theorem accessOk_iff (off size : Nat) : accessOk off size = true ↔ (size = 4 ∨ size = 8) ∧ off % size = 0 := by
  unfold accessOk
  simp

theorem readPart_eq (off size : Nat) : readPart off size =
    if size = 8 then fun x : W64 => x else if off % 8 = 4 then fun x => x >>> 32 else fun x => x &&& 0xFFFFFFFF#64 := by
  funext x
  have mask : ones 31 0 = 0xFFFFFFFF#64 := by decide
  unfold readPart
  rw [mask]
  split
  · rfl
  · split <;> rfl

/-- The word that an access to PF `p`'s BAR0 reaches (00 R7). -/
def State.pfReached (s : State) (p off size : Nat) : Option W64 :=
  if accessOk off size then reached off size (s.pfReg p (off - off % 8)) else none

theorem State.pfReached_misformed (s : State) (p off size : Nat) (h : ¬((size = 4 ∨ size = 8) ∧ off % size = 0)) :
    s.pfReached p off size = none := if_neg fun g => h ((accessOk_iff off size).mp g)

theorem State.pfReached_hole (s : State) (p off size : Nat) (h : (size = 4 ∨ size = 8) ∧ off % size = 0)
    (hr : s.pfReg p (off - off % 8) = none) : s.pfReached p off size = none := by
  unfold State.pfReached
  rw [if_pos ((accessOk_iff off size).mpr h), hr]
  rfl

theorem State.pfReached_reg (s : State) (p off size : Nat) (wide : Bool) (x : W64) (h : (size = 4 ∨ size = 8) ∧ off % size = 0)
    (hr : s.pfReg p (off - off % 8) = some (wide, x)) (hw : wide = true ∨ ¬(size = 4 ∧ off % 8 = 4)) :
    s.pfReached p off size = some x := by
  unfold State.pfReached
  rw [if_pos ((accessOk_iff off size).mpr h), hr]
  exact if_neg fun ⟨h4, ho, hn⟩ => hw.elim (fun hw => by simp [hw] at hn) fun hw => hw ⟨h4, ho⟩

theorem State.exec_pfRead (s : State) (p off size : Nat) (hp : p < 4) (hl : (s.func (pfKey p)).linkUp = true) :
    exec (.registerRead (.mmio (.pf p) off size)) s = done s (s.pfRead p off size) :=
  congrArg (done s) (if_pos (by simp [hp, hl]))

theorem State.pfRead_none (s : State) (p off size : Nat) (h : s.pfReached p off size = none) :
    s.pfRead p off size = s.send (.readData 0) := by
  unfold State.pfReached at h
  unfold State.pfRead
  dsimp only
  rw [h]

theorem State.pfRead_operator (s : State) (p off size : Nat) (x : W64) (h : s.pfReached p off size = some x)
    (ho : s.boot.operator = some p) : s.pfRead p off size = (s.pfReadEffect p (off - off % 8)).send (.readData (readPart off size x)) := by
  unfold State.pfReached at h
  unfold State.pfRead
  dsimp only
  rw [h]
  exact if_pos (by simp [State.isOp, ho])

theorem State.pfRead_refused (s : State) (p off size : Nat) (x : W64) (h : s.pfReached p off size = some x)
    (ho : s.boot.operator ≠ some p) (hs : s.boot.operator.isSome = true) (hlo : 0x10000 ≤ off - off % 8) (hhi : off - off % 8 < 0x20000) :
    s.pfRead p off size = (s.denied p).send (.readData 0) := by
  have refused : s.otherPfReads p (off - off % 8) x = none := by
    unfold State.otherPfReads alwaysServed
    rw [if_neg (by simp; omega), if_neg (by simp [Option.isNone_iff_eq_none, ← Option.isSome_iff_ne_none, hs]), if_neg (by omega), if_neg (by omega),
      if_neg (by omega), if_neg (by omega)]
  unfold State.pfReached at h
  unfold State.pfRead
  dsimp only
  rw [h]
  dsimp only
  rw [if_neg (by simpa [State.isOp] using ho), refused]

theorem State.only_wpCount (s : State) (k : Nat) (b : Bool) : s.only (s.wpCount k b) [.funcs] :=
  State.only_ite _ (State.only_modFunc s _ _) (State.only_modFunc s _ _)

theorem State.only_clearRefusals (s : State) :
    s.only { s with objs := { s.objs with ctxRefused := 0, priFail := 0 } } [.objs] := by
  intro f hf
  cases f <;> first | rfl | exact absurd (List.mem_singleton.mpr rfl) hf

theorem State.only_ownReadEffect (s : State) (k o : Nat) : s.only (s.ownReadEffect k o) [.funcs, .queues] := by
  unfold State.ownReadEffect
  split
  · exact (State.only_modQueue s _ _).sub
  · split
    · exact State.only_ite _ (State.only_refl s _) (State.only_wpCount s _ _).sub
    · exact State.only_refl s _

theorem State.only_pfReadEffect (s : State) (p o : Nat) :
    s.only (s.pfReadEffect p o) [.funcs, .queues, .parts, .ports, .sec, .geq, .cnt, .objs] ∧
    ∀ n, ((s.pfReadEffect p o).part n).seqr = (s.part n).seqr := by
  unfold State.pfReadEffect
  split
  · refine ⟨(State.only_modPart s _ _).sub, fun n => ?_⟩
    rw [State.modPart_part]
    split
    · next h => rw [h]
    · rfl
  · split
    · exact ⟨(State.only_modPort s _ _).sub, fun _ => rfl⟩
    · split
      · exact ⟨(State.only_modMbx s _ _).sub, fun _ => rfl⟩
      · split
        · exact ⟨(State.only_modFunc s _ _).sub, fun _ => rfl⟩
        · exact ⟨(State.only_modFunc s _ _).sub, fun _ => rfl⟩
        · exact ⟨(State.only_modGeq s _).sub, fun _ => rfl⟩
        · exact ⟨(State.only_modCnt s _).sub, fun _ => rfl⟩
        · exact ⟨(State.only_clearRefusals s).sub, fun _ => rfl⟩
        · split
          · have own := State.only_ownReadEffect s (pfKey p) o
            exact ⟨own.sub, fun n => by rw [State.part_of (own .parts (by decide))]⟩
          · exact ⟨State.only_refl s _, fun _ => rfl⟩

theorem State.pfReadEffect_identity (s : State) (p o : Nat) (h : o < 0x40) : s.pfReadEffect p o = s := by
  unfold State.pfReadEffect State.ownReadEffect
  rw [if_neg (by omega), if_neg (by omega), if_neg (by omega)]
  split
  all_goals first | omega | skip
  rw [if_pos (by omega), if_neg (by omega), if_neg (by omega)]

/-- A read by the Operator PF: the part of the word, and what the read clears (00 R9; 02 R65). -/
theorem State.operatorRead_spec (s : State) (p off size : Nat) (x : W64) (hp : p < 4) (hl : (s.func (pfKey p)).linkUp = true)
    (h : s.pfReached p off size = some x) (ho : s.boot.operator = some p) :
    exec (.registerRead (.mmio (.pf p) off size)) s = .next ((s.pfReadEffect p (off - off % 8)).send (.readData (readPart off size x))) := by
  obtain ⟨only, seqr⟩ := s.only_pfReadEffect p (off - off % 8)
  have sent := State.only_send (s.pfReadEffect p (off - off % 8)) (.readData (readPart off size x))
  have all : s.only ((s.pfReadEffect p (off - off % 8)).send (.readData (readPart off size x)))
    [.out, .funcs, .queues, .parts, .ports, .sec, .geq, .cnt, .objs] := State.only_after sent.sub only.sub
  rw [State.exec_pfRead s p off size hp hl, State.pfRead_operator s p off size x h ho]
  exact done_parts all (by rw [all .boot (by decide)]) fun n => (congrArg Part.seqr (State.send_part _ _ n)).trans (seqr n)

/-! ### Register writes (00 R9; 02 R42, R65) -/

theorem State.exec_registerWrite (s u : State) (t : Target) (v : W64) {l : List Field} (hr : s.regWrite t v = u) (hu : s.only u l)
    (hs : ∀ n, (u.part n).seqr = (s.part n).seqr) (hb : u.boot.power = s.boot.power)
    (hl : ∀ f ∈ [Field.pending, .latch, .tasks, .mtus], f ∉ l := by decide) : exec (.registerWrite t v) s = .next u := by
  have latch : u.latch = s.latch := hu .latch (hl _ (by decide))
  have he : exec (.registerWrite t v) s = doneL s { u with latch := if writesEnable t then u.latch else s.latch } := by
    rw [← hr]
    rfl
  have same : { u with latch := if writesEnable t then u.latch else s.latch } = u := by rw [← latch, ite_self]
  rw [he, same, doneL_eq_done s u latch]
  exact done_parts hu hb hs hl

theorem State.pfWrite_none (s : State) (p off size : Nat) (v : W64) (h : s.pfReached p off size = none) : s.pfWrite p off size v = s := by
  unfold State.pfReached at h
  unfold State.pfWrite
  dsimp only
  rw [h]

theorem State.pfWrite_operatorOnly (s : State) (p off size : Nat) (v x : W64) (h : s.pfReached p off size = some x)
    (ho : 0x10000 ≤ off - off % 8) : s.pfWrite p off size v = s.opWrite p off fun t => t.atOffset p (off - off % 8) off fun u =>
      u.operatorWrite p (off - off % 8) (writeWord off size v).1 (writeWord off size v).2 := by
  unfold State.pfReached at h
  unfold State.pfWrite
  dsimp only
  rw [h]
  have served : alwaysServed (off - off % 8) = false := by
    unfold alwaysServed
    simp
    omega
  dsimp only
  rw [if_neg (by omega), if_neg (by omega), if_neg (by rw [served]; decide), if_neg (by omega)]

theorem State.regWrite_pf (s : State) (p off size : Nat) (v : W64) (hp : p < 4) (hl : (s.func (pfKey p)).linkUp = true) :
    s.regWrite (.mmio (.pf p) off size) v = s.pfWrite p off size v := if_pos (by simp [hp, hl])

/-- CFG_RESULT while a write is carried out (02 R41). -/
def State.offsetCleared (s : State) (p : Nat) : State := s.modFunc (pfKey p) fun f => { f with cfgResult := 0 }

theorem State.only_offsetCleared (s : State) (p : Nat) : s.only (s.offsetCleared p) [.funcs] := State.only_modFunc s _ _

/-- A write that leaves the functions alone leaves CFG_RESULT as it was (02 R41). -/
theorem State.atOffset_quiet (s : State) (p o off : Nat) (g : State → State) {l : List Field}
    (hg : (s.offsetCleared p).only (g (s.offsetCleared p)) l) (hl : .funcs ∉ l := by decide) :
    (∀ k, (s.atOffset p o off g).func k = s.func k) ∧ (g (s.offsetCleared p)).only (s.atOffset p o off g) [.funcs] ∧
    s.only (s.atOffset p o off g) (.funcs :: l) := by
  have first := s.only_offsetCleared p
  have self : (s.offsetCleared p).func (pfKey p) = { s.func (pfKey p) with cfgResult := 0 } := State.modFunc_func_self s _ _
  have others : ∀ k, k ≠ pfKey p → (s.offsetCleared p).func k = s.func k := fun k hk => State.modFunc_func_ne s _ _ hk
  have eq : s.atOffset p o off g = (g (s.offsetCleared p)).modFunc (pfKey p) fun f => { f with
    cfgResult := if ((g (s.offsetCleared p)).func (pfKey p)).cfgResult = 0 then (s.func (pfKey p)).cfgResult
      else ((g (s.offsetCleared p)).func (pfKey p)).cfgResult + BitVec.ofNat 32 (off - o) } := rfl
  rw [eq]
  generalize s.offsetCleared p = a at *
  have funcs : ∀ k, (g a).func k = a.func k := State.func_of (hg .funcs hl)
  have zero : ((g a).func (pfKey p)).cfgResult = 0 := by rw [funcs, self]
  rw [zero, if_pos rfl]
  refine ⟨fun k => ?_, State.only_modFunc _ _ _, State.only_trans (State.only_mono first fun f hf => by simp_all)
    (State.only_trans (State.only_mono hg fun f hf => List.mem_cons_of_mem _ hf)
      (State.only_mono (State.only_modFunc (g a) (pfKey p) _) fun f hf => by simp_all))⟩
  rw [State.modFunc_func]
  split
  · next h => rw [h, funcs, self]
  · next h => rw [funcs, others k h]

/-- A refused write names its offset in CFG_RESULT (02 R41). -/
theorem State.atOffset_refuse (s : State) (p o off : Nat) (g : State → State) (c : Nat) (hc : BitVec.ofNat 32 (c * 2 ^ 24 + o % 2 ^ 24) ≠ 0)
    (hg : g (s.modFunc (pfKey p) fun f => { f with cfgResult := 0 }) = (s.modFunc (pfKey p) fun f => { f with cfgResult := 0 }).refuse p c o) :
    ((s.atOffset p o off g).func (pfKey p)).cfgResult = BitVec.ofNat 32 (c * 2 ^ 24 + o % 2 ^ 24) + BitVec.ofNat 32 (off - o) ∧
    (∀ k, k ≠ pfKey p → (s.atOffset p o off g).func k = s.func k) ∧ s.only (s.atOffset p o off g) [.funcs] := by
  have first := State.only_modFunc s (pfKey p) fun f => { f with cfgResult := 0 }
  have others := fun k (hk : k ≠ pfKey p) => State.modFunc_func_ne s (pfKey p) (fun f => { f with cfgResult := 0 }) hk
  unfold State.atOffset
  dsimp only
  rw [hg]
  generalize s.modFunc (pfKey p) (fun f => { f with cfgResult := 0 }) = a at *
  have res : ((a.refuse p c o).func (pfKey p)).cfgResult = BitVec.ofNat 32 (c * 2 ^ 24 + o % 2 ^ 24) := by
    unfold State.refuse
    rw [State.modFunc_func_self]
  rw [res, if_neg hc]
  refine ⟨by rw [State.modFunc_func_self], fun k hk => ?_, State.only_trans first (State.only_trans (State.only_refuse a p c o) (State.only_modFunc _ _ _))⟩
  rw [State.modFunc_func_ne _ _ _ hk]
  exact (State.modFunc_func_ne a _ _ hk).trans (others k hk)

/-- A whole word written by the Operator PF to a register of its own (02 R65). -/
theorem State.operatorWord (s : State) (p off : Nat) (v x : W64) (wide : Bool) (hp : p < 4) (hl : (s.func (pfKey p)).linkUp = true)
    (ho : s.boot.operator = some p) (h8 : off % 8 = 0) (hlo : 0x10000 ≤ off) (hr : s.pfReg p off = some (wide, x)) :
    s.regWrite (.mmio (.pf p) off 8) v = s.atOffset p off off fun u => u.operatorWrite p off v allBits := by
  have word : off - off % 8 = off := by omega
  have reached : s.pfReached p off 8 = some x :=
    State.pfReached_reg s p off 8 wide x ⟨Or.inr rfl, h8⟩ (by rw [word]; exact hr) (Or.inr fun h => absurd h.1 (by decide))
  rw [State.regWrite_pf s p off 8 v hp hl, State.pfWrite_operatorOnly s p off 8 v x reached (by omega), State.opWrite_op s p off _ hl ho, word]
  rfl

/-- A plain register of the Operator PF is taken, and nothing else (00 R9; 02 R65). -/
theorem State.plainWrite (s b : State) (p off : Nat) (v x : W64) (wide : Bool) (l : List Field) (hp : p < 4)
    (hl : (s.func (pfKey p)).linkUp = true) (ho : s.boot.operator = some p) (h8 : off % 8 = 0) (hlo : 0x10000 ≤ off)
    (hr : s.pfReg p off = some (wide, x)) (hg : (s.offsetCleared p).operatorWrite p off v allBits = b) (hu : (s.offsetCleared p).only b l)
    (hs : ∀ n, (b.part n).seqr = (s.part n).seqr) (hf : ∀ f ∈ [Field.pending, .latch, .tasks, .mtus, .funcs, .boot], f ∉ l := by decide) :
    ∃ t, exec (.registerWrite (.mmio (.pf p) off 8) v) s = .next t ∧ b.only t [.funcs] ∧ (∀ k, t.func k = s.func k) ∧
      s.only t (.funcs :: l) := by
  have word := State.operatorWord s p off v x wide hp hl ho h8 hlo hr
  obtain ⟨funcs, after, only⟩ := State.atOffset_quiet s p off off (fun u => u.operatorWrite p off v allBits) (by rw [hg]; exact hu)
    (hf _ (by decide))
  rw [hg] at after
  have outside : ∀ f ∈ [Field.pending, .latch, .tasks, .mtus, .boot], f ∉ (Field.funcs :: l) := fun f h => by
    rw [List.mem_cons, not_or]
    refine ⟨?_, hf f (by revert h; simp; tauto)⟩
    rintro rfl
    simp at h
  refine ⟨_, State.exec_registerWrite s _ _ v word only (fun n => ?_) ?_ (fun f h => outside f (by revert h; simp; tauto)), after, funcs, only⟩
  · rw [State.part_of (after .parts (by decide)), hs]
  · rw [only .boot (outside _ (by decide))]

theorem merge_allBits (a v : W64) : merge a v allBits = v := by
  have all : allBits = BitVec.allOnes 64 := by decide
  unfold merge
  rw [all, BitVec.not_allOnes, BitVec.and_zero, BitVec.zero_or, BitVec.and_allOnes]

theorem allBits_and (m : W64) : allBits &&& m = m := by
  have all : allBits = BitVec.allOnes 64 := by decide
  rw [all, BitVec.allOnes_and]

/-- The register of a partition's block (02 R52). -/
theorem State.pfReg_part (s : State) (p n r : Nat) (hn : n < 64) (hr : r < 0x100) :
    s.pfReg p (0x10000 + n * 0x100 + r) = s.partReg n r := by
  unfold State.pfReg State.tenancyReg
  rw [if_neg (by omega), if_pos (by omega), if_pos (by omega), show (0x10000 + n * 0x100 + r - 0x10000) / 0x100 = n by omega,
    show (0x10000 + n * 0x100 + r) % 0x100 = r by omega]

theorem State.operatorWrite_budget (s : State) (p n : Nat) (v m : W64) (hn : n < 64) :
    s.operatorWrite p (0x10000 + n * 0x100 + 0x30) v m = s.modPart n fun q => { q with budget := v.setWidth 32 } := by
  unfold State.operatorWrite State.tenancyWrite
  rw [if_pos (by omega), if_pos (by omega), show (0x10000 + n * 0x100 + 0x30 - 0x10000) / 0x100 = n by omega,
    show (0x10000 + n * 0x100 + 0x30) % 0x100 = 0x30 by omega]
  rfl

theorem State.operatorWrite_engines (s : State) (p n : Nat) (v m : W64) (hn : n < 64) :
    s.operatorWrite p (0x10000 + n * 0x100 + 0x08) v m = s.partResSet p n 0x08 v m := by
  unfold State.operatorWrite State.tenancyWrite
  rw [if_pos (by omega), if_pos (by omega), show (0x10000 + n * 0x100 + 0x08 - 0x10000) / 0x100 = n by omega,
    show (0x10000 + n * 0x100 + 0x08) % 0x100 = 0x08 by omega]
  rfl

theorem State.modPart_seqr (s : State) (n m : Nat) (g : Part → Part) (hg : ∀ q, (g q).seqr = q.seqr) :
    ((s.modPart n g).part m).seqr = (s.part m).seqr := by
  rw [State.modPart_part]
  split
  · next h => rw [h, hg]
  · rfl

/-- The ports of a disabled partition, with its step times (02 R52; 07 R213). -/
def State.setEngines (s : State) (n : Nat) (v : W64) : State := (s.modPart n fun q => { q with engines := v }).recomputeStep n

theorem State.setEngines_spec (s : State) (n : Nat) (v : W64) : s.only (s.setEngines n v) [.parts] ∧
    (s.setEngines n v).part n = { s.part n with
      engines := v, stepNs := ((s.setEngines n v).stepTimes n).1, endNs := ((s.setEngines n v).stepTimes n).2 } ∧
    ∀ m, m ≠ n → (s.setEngines n v).part m = s.part m := by
  have first := State.only_modPart s n fun q => { q with engines := v }
  have self := State.modPart_part_self s n fun q => { q with engines := v }
  have others := fun m (hm : m ≠ n) => State.modPart_part_ne s n (fun q => { q with engines := v }) hm
  unfold State.setEngines
  generalize s.modPart n (fun q => { q with engines := v }) = a at *
  obtain ⟨timed, untimed⟩ := a.recomputeStep_part n
  have second := a.only_recomputeStep n
  have times : (a.recomputeStep n).stepTimes n = a.stepTimes n :=
    State.stepTimes_congr n (second .ports (by decide)) (second .latch (by decide)) (by rw [timed])
  refine ⟨State.only_trans first second, ?_, fun m hm => (untimed m hm).trans (others m hm)⟩
  rw [times, timed, self]

theorem State.partResSet_engines (s : State) (p n : Nat) (v : W64) (he : s.enabled n = false) :
    s.partResSet p n 0x08 v allBits = s.setEngines n v := by
  unfold State.partResSet
  dsimp only
  rw [if_neg (by rw [he]; decide), if_neg (by simp), if_pos rfl, if_pos rfl, if_neg (by decide), allBits_and, merge_allBits]
  rfl

theorem State.partResSet_enabled (s : State) (p n r : Nat) (v m : W64) (he : s.enabled n = true) :
    s.partResSet p n r v m = s.refuse p 0x07 (partOff n r) := if_pos he

/-- What the Operator PF's read of a register that clears leaves (00 R9). -/
theorem State.pfReadEffect_clears (s : State) {p : Nat} :
    s.pfReadEffect p 0x48 = (s.modFunc (pfKey p) fun f => { f with cfgResult := 0 }) ∧
    s.pfReadEffect p 0x50 = (s.modFunc (pfKey p) fun f => { f with authDenied := 0 }) ∧
    s.pfReadEffect p 0x30020 = s.modGeq fun g => { g with lost := 0 } := ⟨rfl, rfl, rfl⟩

theorem State.winFunc_pf (s : State) (p : Nat) (hp : p < 4) (hl : (s.func (pfKey p)).linkUp = true) : s.winFunc (.pf p) = some (pfKey p) :=
  if_pos (by simp [hp, hl])

theorem done_send (s : State) (o : Out) : done s (s.send o) = .next (s.send o) := done_of_only (State.only_send s o) rfl

/-- A plain register of the recovery controller (02 R57; 13 R374). -/
theorem State.rcvWord (s : State) (p off : Nat) (v x : W64) (wide : Bool) (g : Rcv → Rcv) (hp : p < 4)
    (hl : (s.func (pfKey p)).linkUp = true) (ho : s.boot.operator = some p) (h8 : off % 8 = 0) (hlo : 0x10000 ≤ off)
    (hr : s.pfReg p off = some (wide, x)) (hg : (s.offsetCleared p).operatorWrite p off v allBits = (s.offsetCleared p).modRcv g) :
    ∃ t, exec (.registerWrite (.mmio (.pf p) off 8) v) s = .next t ∧ t.rcv = g s.rcv ∧ (∀ k, t.func k = s.func k) ∧
      s.only t [.funcs, .rcv] := by
  obtain ⟨t, ht, after, funcs, only⟩ := State.plainWrite s _ p off v x wide [.rcv] hp hl ho h8 hlo hr hg (State.only_modRcv _ g) fun _ => rfl
  exact ⟨t, ht, after .rcv (by decide), funcs, only⟩

/-- A plain register of the Global Error Queue (13 R356). -/
theorem State.geqWord (s : State) (p off : Nat) (v x : W64) (wide : Bool) (g : Geq → Geq) (hp : p < 4)
    (hl : (s.func (pfKey p)).linkUp = true) (ho : s.boot.operator = some p) (h8 : off % 8 = 0) (hlo : 0x10000 ≤ off)
    (hr : s.pfReg p off = some (wide, x)) (hg : (s.offsetCleared p).operatorWrite p off v allBits = (s.offsetCleared p).modGeq g) :
    ∃ t, exec (.registerWrite (.mmio (.pf p) off 8) v) s = .next t ∧ t.geq = g s.geq ∧ (∀ k, t.func k = s.func k) ∧
      s.only t [.funcs, .geq] := by
  obtain ⟨t, ht, after, funcs, only⟩ := State.plainWrite s _ p off v x wide [.geq] hp hl ho h8 hlo hr hg (State.only_modGeq _ g) fun _ => rfl
  exact ⟨t, ht, after .geq (by decide), funcs, only⟩

/-- A plain register of the counters (16 R442). -/
theorem State.cntWord (s : State) (p off : Nat) (v x : W64) (wide : Bool) (g : Cnt → Cnt) (hp : p < 4)
    (hl : (s.func (pfKey p)).linkUp = true) (ho : s.boot.operator = some p) (h8 : off % 8 = 0) (hlo : 0x10000 ≤ off)
    (hr : s.pfReg p off = some (wide, x)) (hg : (s.offsetCleared p).operatorWrite p off v allBits = (s.offsetCleared p).modCnt g) :
    ∃ t, exec (.registerWrite (.mmio (.pf p) off 8) v) s = .next t ∧ t.cnt = g s.cnt ∧ (∀ k, t.func k = s.func k) ∧
      s.only t [.funcs, .cnt] := by
  obtain ⟨t, ht, after, funcs, only⟩ := State.plainWrite s _ p off v x wide [.cnt] hp hl ho h8 hlo hr hg (State.only_modCnt _ g) fun _ => rfl
  exact ⟨t, ht, after .cnt (by decide), funcs, only⟩

/-- Settles O60: counters by their own entries, reads by `operatorRead_spec` and writes by `plainWrite`. -/
theorem countersAndRegisters : Obligations.CountersAndRegisters := by
  intro p e off size v s hp hl
  refine ⟨fun ho => ⟨fun hd hm => ?_, fun hd hm => ?_, fun hd => ?_⟩, fun ho => ?_, s.counterSamplePoint_spec, fun hf => ⟨?_, ?_⟩,
    fun hf hr => ⟨?_, ?_⟩, fun hf wide x hr hw => ⟨fun ho => ?_, fun ho hs hlo hhi => ?_, fun ho hlo => ?_⟩, fun ho h8 ho8 => ?_, ?_⟩
  · rw [State.cntCfgWrite_spec s p e v _ hl ho rfl, if_neg (by rw [hd]; decide), if_neg (by rw [hm]; decide)]
    exact done_of_only (State.only_modCnt s _) rfl
  · rw [State.cntCfgWrite_spec s p e v _ hl ho rfl, if_neg (by rw [hd]; decide), if_pos (by rw [hm]; rfl)]
    exact done_refuse s _ _ _
  · rw [State.cntCfgWrite_spec s p e v _ hl ho rfl, if_pos (by rw [hd]; rfl)]
    exact done_self s
  · have other : exec (.cntCfgWrite p e v) s = done s (s.notOperator p (0x61000 + e * 8)) :=
      congrArg (done s) (State.opWrite_other s p _ _ hl ho)
    rw [other]
    exact done_of_only (State.only_notOperator s p _) rfl
  · rw [State.exec_pfRead s p off size hp hl, State.pfRead_none s p off size (s.pfReached_misformed p off size hf)]
    exact done_send s _
  · exact State.exec_registerWrite s s _ v ((State.regWrite_pf s p off size v hp hl).trans
      (State.pfWrite_none s p off size v (s.pfReached_misformed p off size hf))) (State.only_refl s []) (fun _ => rfl) rfl
  · rw [State.exec_pfRead s p off size hp hl, State.pfRead_none s p off size (s.pfReached_hole p off size hf hr)]
    exact done_send s _
  · exact State.exec_registerWrite s s _ v ((State.regWrite_pf s p off size v hp hl).trans
      (State.pfWrite_none s p off size v (s.pfReached_hole p off size hf hr))) (State.only_refl s []) (fun _ => rfl) rfl
  · have reached := s.pfReached_reg p off size wide x hf hr hw
    obtain ⟨only, -⟩ := s.only_pfReadEffect p (off - off % 8)
    have out : (s.pfReadEffect p (off - off % 8)).out = s.out := only .out (by decide)
    refine ⟨_, State.operatorRead_spec s p off size x hp hl reached ho, ?_, State.only_after (State.only_send _ _).sub only.sub, fun h => ?_,
      fun h => ?_, fun h => ?_, fun h => ?_⟩
    · rw [← readPart_eq, ← out]
      rfl
    · rw [s.pfReadEffect_identity p _ h, ← readPart_eq]
      rfl
    · rw [h, s.pfReadEffect_clears.1]
      exact congrArg Func.cfgResult (State.modFunc_func_self s (pfKey p) fun f => { f with cfgResult := 0 })
    · rw [h, s.pfReadEffect_clears.2.1]
      exact congrArg Func.authDenied (State.modFunc_func_self s (pfKey p) fun f => { f with authDenied := 0 })
    · rw [h, s.pfReadEffect_clears.2.2]
      rfl
  · have reached := s.pfReached_reg p off size wide x hf hr hw
    rw [State.exec_pfRead s p off size hp hl, State.pfRead_refused s p off size x reached ho hs hlo hhi]
    exact done_of_only (State.only_after (State.only_send _ _).sub (State.only_modFunc s _ _).sub : s.only _ [.funcs, .out]) rfl
  · have reached := s.pfReached_reg p off size wide x hf hr hw
    exact State.exec_registerWrite s _ _ v ((State.regWrite_pf s p off size v hp hl).trans
      ((State.pfWrite_operatorOnly s p off size v x reached hlo).trans (State.opWrite_other s p off _ hl ho)))
      (State.only_notOperator s p off) (fun _ => rfl) rfl
  · subst h8
    refine ⟨fun h => ?_, fun h => ?_, fun h => ?_, fun h => ?_, fun h => ?_, fun n hn h => ?_, fun n hn h hd => ?_, fun n hn h hd => ?_⟩
    · subst h
      have word := State.rcvWord s p 0x14008 v _ true (fun x => { x with rszEngines := merge x.rszEngines v allBits }) hp hl ho ho8
        (by decide) rfl rfl
      rwa [merge_allBits] at word
    · subst h
      have word := State.rcvWord s p 0x14010 v _ true (fun x => { x with rszBanks := merge x.rszBanks v allBits }) hp hl ho ho8
        (by decide) rfl rfl
      rwa [merge_allBits] at word
    · subst h
      have word := State.rcvWord s p 0x200000 v _ true (fun x => { x with dumpAddr := merge x.dumpAddr v (allBits &&& ones 63 12) }) hp hl ho
        ho8 (by decide) rfl rfl
      rwa [allBits_and] at word
    · subst h
      have word := State.geqWord s p 0x30000 v _ true (fun g => { g with base := merge g.base v (allBits &&& (ones 63 18 ||| ones 0 0)) })
        hp hl ho ho8 (by decide) rfl rfl
      rwa [allBits_and] at word
    · subst h
      have word := State.cntWord s p 0x63000 v _ true (fun c => { c with smpBase := merge c.smpBase v (allBits &&& ones 63 6) })
        hp hl ho ho8 (by decide) rfl rfl
      rwa [allBits_and] at word
    · subst h
      obtain ⟨t, ht, after, funcs, only⟩ := State.plainWrite s _ p _ v _ false [.parts] hp hl ho ho8 (by omega)
        (s.pfReg_part p n 0x30 hn (by decide)) (State.operatorWrite_budget _ p n v _ hn) (State.only_modPart _ n _)
        fun m => State.modPart_seqr _ n m (fun q => { q with budget := v.setWidth 32 }) fun _ => rfl
      have parts := State.part_of (after .parts (by decide))
      refine ⟨t, ht, ⟨?_, fun m hm => ?_⟩, funcs, only⟩
      · rw [parts, State.modPart_part_self]
      · exact (parts m).trans (State.modPart_part_ne _ _ _ hm)
    · subst h
      have off : (s.offsetCleared p).enabled n = false := hd
      obtain ⟨set, self, others⟩ := (s.offsetCleared p).setEngines_spec n v
      obtain ⟨t, ht, after, funcs, only⟩ := State.plainWrite s _ p _ v _ true [.parts] hp hl ho ho8 (by omega)
        (s.pfReg_part p n 0x08 hn (by decide)) ((State.operatorWrite_engines _ p n v _ hn).trans (State.partResSet_engines _ p n v off)) set
        fun m => by
          by_cases hm : m = n
          · rw [hm, self]
            rfl
          · rw [others m hm]
            rfl
      have parts := State.part_of (after .parts (by decide))
      have times : t.stepTimes n = ((s.offsetCleared p).setEngines n v).stepTimes n :=
        State.stepTimes_congr n (after .ports (by decide)) (after .latch (by decide)) (by rw [parts])
      refine ⟨t, ht, ⟨?_, ?_, fun m hm => (parts m).trans (others m hm)⟩, funcs, only⟩
      · rw [parts, self]
        rfl
      · rw [times, parts, self]
    · subst h
      have on : (s.offsetCleared p).enabled n = true := hd
      have word := State.operatorWord s p (0x10000 + n * 0x100 + 0x08) v _ true hp hl ho ho8 (by omega) (s.pfReg_part p n 0x08 hn (by decide))
      have small : (0x10000 + n * 0x100 + 0x08) % 2 ^ 24 = 0x10000 + n * 0x100 + 0x08 := by omega
      obtain ⟨res, others, only⟩ := State.atOffset_refuse s p (0x10000 + n * 0x100 + 0x08) (0x10000 + n * 0x100 + 0x08)
        (fun u => u.operatorWrite p (0x10000 + n * 0x100 + 0x08) v allBits) 0x07 (fun h => by
          have nat := congrArg BitVec.toNat h
          rw [BitVec.toNat_ofNat, Nat.mod_eq_of_lt (by omega)] at nat
          simp at nat)
        ((State.operatorWrite_engines _ p n v _ hn).trans (State.partResSet_enabled _ p n 0x08 v _ on))
      rw [small, Nat.sub_self] at res
      refine ⟨_, State.exec_registerWrite s _ _ v word only (State.part_of (only .parts (by decide)) · ▸ rfl) (by rw [only .boot (by decide)]), ?_, others, only⟩
      rw [res]
      simp
  · have win := s.winFunc_pf p hp hl
    have read : ∀ r, exec (.registerRead (.cfg (.pf p) r)) s = .next (s.send (.readData (BitVec.ofNat 64 ((s.func (pfKey p)).cfg
        (decide (pfKey p < 1024)) r)))) := fun r => by
      have he : exec (.registerRead (.cfg (.pf p) r)) s = done s (match s.winFunc (.pf p) with
        | some fk => s.send (.readData (BitVec.ofNat 64 ((s.func fk).cfg (decide (fk < 1024)) r)))
        | none => s) := rfl
      rw [he, win]
      exact done_send s _
    have write : ∀ r g, s.cfgWrite (.pf p) r v = s.modFunc (pfKey p) g →
        exec (.registerWrite (.cfg (.pf p) r) v) s = .next (s.modFunc (pfKey p) g) := fun r g h =>
      State.exec_registerWrite s _ (.cfg (.pf p) r) v h (State.only_modFunc s _ g) (fun _ => rfl) rfl
    refine ⟨write _ _ ?_, write _ _ ?_, read .numVfs, read .totalVfs⟩
    · unfold State.cfgWrite
      rw [win]
    · unfold State.cfgWrite
      rw [win]

end Sys2Proof.Machine
end


section
/-! Crash dumps and the test access port (13 R374 to R377; 15 R420, R429). -/

namespace Sys2Proof.Machine

set_option Elab.async false

/-! ### Control registers of 32 bits -/

theorem bit_merge32 (a v m : W64) {i : Nat} (hi : i < 32) (hm : bit m i = true) : bit ((merge a v m).setWidth 32) i = bit v i := by
  have hi' : i < 64 := by omega
  have mask : m[i] = true := (BitVec.getElem_eq_testBit_toNat m i hi').trans hm
  show ((merge a v m).setWidth 32).getLsbD i = v.getLsbD i
  simp [merge, mask, hi, hi']

/-- A field whose bits two words share. -/
theorem fld_eq_of_bits {n m : Nat} {x : BitVec n} {y : BitVec m} {hi : Nat} (h : ∀ i, i ≤ hi → bit x i = bit y i) :
    fld x hi 0 = fld y hi 0 := by
  refine Nat.eq_of_testBit_eq fun i => ?_
  unfold fld
  rw [Nat.testBit_mod_two_pow, Nat.testBit_mod_two_pow, Nat.shiftRight_zero, Nat.shiftRight_zero]
  by_cases hi' : i < hi + 1 - 0
  · have := h i (by omega)
    unfold bit at this
    rw [this]
  · simp only [hi', decide_false, Bool.false_and]

theorem fld_merge32 (a v m : W64) (hm : ∀ i, i ≤ 5 → bit m i = true) : fld ((merge a v m).setWidth 32) 5 0 = fld v 5 0 :=
  fld_eq_of_bits fun i hi => bit_merge32 a v m (by omega) (hm i hi)

theorem bit_and_allBits (v : W64) (i : Nat) : bit (v &&& allBits) i = bit v i := by
  rw [show v &&& allBits = v from BitVec.and_allOnes]

/-! ### The VAI's own writes -/

/-- A record that was written was not refused. -/
theorem State.only_of_ownWrite_true {s u : State} {sp : Space} {a : Nat} {l : List Byte} (h : s.ownWrite sp a l = (u, true)) :
    s.only u [.out, .cnt, .sto, .xl, .freeCtr] := by
  have hput : ∀ v : State, (if v.ctxBad sp a l.length = true then (v.ctxRefuse, false) else (v.hostWrite sp a l, true)).2 = true →
      v.only (if v.ctxBad sp a l.length = true then (v.ctxRefuse, false) else (v.hostWrite sp a l, true)).1
        [.out, .cnt, .sto, .xl, .freeCtr] := by
    intro v hv
    split
    · next hc => simp [hc] at hv
    · exact (State.only_hostWrite v sp a l).sub
  suffices key : (s.ownWrite sp a l).2 = true → s.only (s.ownWrite sp a l).1 [.out, .cnt, .sto, .xl, .freeCtr] by
    rw [h] at key
    exact key rfl
  unfold State.ownWrite
  dsimp only
  split
  · exact fun hb => nomatch hb
  · split
    · split
      · exact hput s
      · exact fun hb => nomatch hb
    · split
      · exact fun hb => nomatch hb
      · exact fun hb => State.only_after (State.only_modXl _ _).sub (State.only_after (hput _ hb)
          (State.only_after (State.only_modXl _ _).sub (State.only_nextFree s).sub))

theorem State.only_dumpWrite (s : State) (off : Nat) (b : List Byte) :
    s.only (s.dumpWrite off b).1 [.out, .cnt, .sto, .xl, .freeCtr, .objs] ∧ s.objsKept (s.dumpWrite off b).1 := by
  unfold State.dumpWrite
  split
  · exact ⟨State.only_ownWrite s _ _ _, State.objsKept_ownWrite s _ _ _⟩
  · exact ⟨State.only_refl s _, State.objsKept_refl s⟩

theorem State.only_dumpWrite_true {s u : State} {off : Nat} {b : List Byte} (h : s.dumpWrite off b = (u, true)) :
    s.only u [.out, .cnt, .sto, .xl, .freeCtr] := by
  unfold State.dumpWrite at h
  split at h
  · exact State.only_of_ownWrite_true h
  · simp at h

/-! ### GO (13 R377) -/

/-- A dump of scope `sc` and cause `c`, from its first record on. -/
def Rcv.freshDump (x : Rcv) (sc c : Nat) : Rcv :=
  { x with dumpRecords := 0, dumpWithheld := 0, dumpScope := sc, dumpCause := c, dumpFoldA := 0, dumpFoldB := 0 }

theorem State.startDump_off (s : State) (sc c : Nat) (h : s.rcv.dumpOn = false) :
    s.startDump sc c = { s with rcv := { s.rcv.freshDump sc c with dumpResult := 4 } } :=
  if_neg (fun on : s.rcv.dumpOn = true => by rw [h] at on; cases on)

theorem State.startDump_on (s : State) (sc c : Nat) (h : s.rcv.dumpOn = true) : s.startDump sc c =
    { s with rcv := { s.rcv.freshDump sc c with dumpBusy := true, dumpResult := 0, dumpTodo := s.dumpFields sc } } :=
  if_pos h

/-- DUMP_CTRL as a write leaves it. -/
def Rcv.dumpCtrlOf (x : Rcv) (v : W64) : W32 := (merge (x.dumpCtrl.setWidth 64) v (ones 16 8 ||| ones 5 0)).setWidth 32

/-- The state once DUMP_CTRL has been written. -/
def State.dumpCtrlSet (s : State) (v : W64) : State := s.modRcv fun x => { x with dumpCtrl := s.rcv.dumpCtrlOf v }

theorem State.dumpSet_eq (s : State) (v : W64) : s.dumpSet v allBits =
    if bit v 31 && !s.rcv.dumpBusy then
      (s.dumpCtrlSet v).startDump (if bit v 16 then 0xFF else fld v 5 0) 0
    else s.dumpCtrlSet v := by
  have whole : bit (s.rcv.dumpCtrlOf v) 16 = bit v 16 := bit_merge32 _ _ _ (by decide) (by decide)
  have part : fld (s.rcv.dumpCtrlOf v) 5 0 = fld v 5 0 := fld_merge32 _ _ _ (by decide)
  rw [← whole, ← part]
  unfold State.dumpSet
  rw [bit_and_allBits]
  rfl

theorem exec_dumpGo (p : Nat) (v : W64) (s : State) (hl : (s.func (pfKey p)).linkUp = true) (ho : s.boot.operator = some p) :
    exec (.dumpGo p v) s = done s (s.dumpSet v allBits) := congrArg (done s) (State.opWrite_op s p _ _ hl ho)

/-- A command that changes the part of resets and dumps alone. -/
theorem done_modRcv (s : State) (x : Rcv) : done s { s with rcv := x } = .next { s with rcv := x } := by
  have only : s.only { s with rcv := x } [.rcv] := by
    intro f hf
    cases f <;> first | rfl | simp at hf
  exact done_of_only only rfl

/-- The first fields of a partition's dump (13 R375). -/
theorem State.dumpFields_take (s : State) (sc : Nat) (h : sc ≠ 0xFF) : (s.dumpFields sc).take 12 = fieldsOf 1 (offs 12) sc := by
  unfold State.dumpFields State.dumpPart
  rw [if_neg h]
  dsimp only
  simp only [List.append_assoc]
  exact List.take_left' rfl

/-! ### Records (13 R374, R376) -/

/-- The bytes of a record. -/
def DField.bytes (d : DField) (v : W64) (held : Bool) : List Byte :=
  leBytes 4 d.index ++ leBytes 2 d.field ++ leBytes 1 d.sec ++ leBytes 1 (b2n held) ++ leBytes 8 v.toNat

/-- The dump after one more record. -/
def Rcv.recorded (x : Rcv) (b : List Byte) (held : Bool) (rest : List DField) : Rcv :=
  { x with
    dumpRecords := x.dumpRecords + 1, dumpWithheld := x.dumpWithheld + b2n held
    dumpFoldA := (foldWords 4 b x.dumpFoldA x.dumpFoldB).1, dumpFoldB := (foldWords 4 b x.dumpFoldA x.dumpFoldB).2, dumpTodo := rest }

theorem State.dumpNextField_written {s u : State} {d : DField} {rest : List DField} (g : DField → W64 × Bool) (hb : s.rcv.dumpBusy = true)
    (ht : s.rcv.dumpTodo = d :: rest) (hf : 0x40 + 16 * (s.rcv.dumpRecords + 1) ≤ fld s.rcv.dumpCfg 19 0 * 4096)
    (hw : s.dumpWrite (0x40 + 16 * s.rcv.dumpRecords) (d.bytes (g d).1 (g d).2) = (u, true)) :
    s.dumpNextField g = if rest.isEmpty then (u.modRcv fun _ => s.rcv.recorded (d.bytes (g d).1 (g d).2) (g d).2 rest).closeDump 1
      else u.modRcv fun _ => s.rcv.recorded (d.bytes (g d).1 (g d).2) (g d).2 rest := by
  have rcv : u.rcv = s.rcv := State.only_dumpWrite_true hw .rcv (by decide)
  have mod : ∀ A B, (u.modRcv fun x : Rcv => { x with
      dumpRecords := x.dumpRecords + 1, dumpWithheld := x.dumpWithheld + b2n (g d).2
      dumpFoldA := A, dumpFoldB := B, dumpTodo := rest }) = u.modRcv fun _ => { s.rcv with
      dumpRecords := s.rcv.dumpRecords + 1, dumpWithheld := s.rcv.dumpWithheld + b2n (g d).2
      dumpFoldA := A, dumpFoldB := B, dumpTodo := rest } := by
    intro A B
    unfold State.modRcv
    rw [rcv]
  unfold State.dumpNextField State.dumpRecord
  rw [hb, ht]
  dsimp only
  rw [if_neg (by decide), if_neg (by omega)]
  unfold DField.bytes at hw
  rw [hw]
  dsimp only
  rw [mod]
  rfl

/-- A dump ended with a result. -/
def Rcv.dumpEnded (x : Rcv) (k : Nat) : Rcv := { x with dumpBusy := false, dumpResult := k, dumpTodo := [] }

/-- The end of a dump with nothing that waits for it. -/
theorem State.endDump_last (s : State) (k : Nat) (h : s.rcv.dumpNext = false) :
    s.endDump k = s.modRcv fun x => if x.dumpCause = 0 then x.dumpEnded k else (x.dumpEnded k).dumpOver := by
  have next : ((s.modRcv fun x => x.dumpEnded k).rcv.dumpNext = true) = False := by simp [State.modRcv, Rcv.dumpEnded, h]
  have cause : (s.modRcv fun x => x.dumpEnded k).rcv.dumpCause = s.rcv.dumpCause := rfl
  have he : s.endDump k = if (s.modRcv fun x => x.dumpEnded k).rcv.dumpNext = true then (s.modRcv fun x => x.dumpEnded k).resetDump
      else if (s.modRcv fun x => x.dumpEnded k).rcv.dumpCause = 0 then s.modRcv fun x => x.dumpEnded k
      else (s.modRcv fun x => x.dumpEnded k).modRcv Rcv.dumpOver := rfl
  rw [he, if_neg (by rw [next]; exact id), cause]
  unfold State.modRcv
  dsimp only
  by_cases hc : s.rcv.dumpCause = 0
  · rw [if_pos hc, if_pos hc]
  · rw [if_neg hc, if_neg hc]

theorem Rcv.dumpEnded_over (x : Rcv) (k : Nat) : let y := if x.dumpCause = 0 then x.dumpEnded k else (x.dumpEnded k).dumpOver
    y.dumpBusy = false ∧ y.dumpTodo = [] ∧ y.dumpRecords = x.dumpRecords ∧ y.dumpResult = k := by
  unfold Rcv.dumpOver
  dsimp only
  split
  · exact ⟨rfl, rfl, rfl, rfl⟩
  · split <;> exact ⟨rfl, rfl, rfl, rfl⟩

theorem State.closeDump_last (s : State) (h : s.rcv.dumpNext = false) :
    s.only (s.closeDump 1) [.rcv, .out, .sto, .xl, .freeCtr, .cnt, .objs] ∧ s.objsKept (s.closeDump 1) ∧
    (s.closeDump 1).rcv.dumpBusy = false ∧ (s.closeDump 1).rcv.dumpTodo = [] ∧
    (s.closeDump 1).rcv.dumpRecords = s.rcv.dumpRecords ∧
    ((s.closeDump 1).rcv.dumpResult = 1 ∨ (s.closeDump 1).rcv.dumpResult = 3) := by
  obtain ⟨only, kept⟩ := s.only_dumpWrite 0 s.dumpHeader
  have ends : s.closeDump 1 = (s.dumpWrite 0 s.dumpHeader).1.endDump (if (s.dumpWrite 0 s.dumpHeader).2 then 1 else 3) := by
    unfold State.closeDump
    cases s.dumpWrite 0 s.dumpHeader with
    | mk u b => cases b <;> rfl
  have rcv : (s.dumpWrite 0 s.dumpHeader).1.rcv = s.rcv := only .rcv (by decide)
  have result : (if (s.dumpWrite 0 s.dumpHeader).2 then 1 else 3 : Nat) = 1 ∨ (if (s.dumpWrite 0 s.dumpHeader).2 then 1 else 3 : Nat) = 3 := by
    split
    · exact .inl rfl
    · exact .inr rfl
  generalize (if (s.dumpWrite 0 s.dumpHeader).2 then 1 else 3 : Nat) = k at ends result
  generalize (s.dumpWrite 0 s.dumpHeader).1 = u at *
  rw [u.endDump_last k (by rw [rcv]; exact h)] at ends
  obtain ⟨busy, todo, records, res⟩ := Rcv.dumpEnded_over u.rcv k
  have rest : u.only (s.closeDump 1) [.rcv] := ends ▸ State.only_modRcv u _
  have after : (s.closeDump 1).rcv = if u.rcv.dumpCause = 0 then u.rcv.dumpEnded k else (u.rcv.dumpEnded k).dumpOver := by rw [ends]; rfl
  rw [← after] at busy todo records res
  refine ⟨State.only_after rest.sub only.sub, State.objsKept_trans kept (State.objsKept_of_objs (rest .objs (by decide))), busy, todo, ?_, ?_⟩
  · rw [records, rcv]
  · rw [res]
    exact result

/-! ### The test access port (15 R429) -/

/-- What TAP_READ answers. -/
def State.tapOut (s : State) (sec index field : Nat) : Out :=
  .tapData (!Config.tapValid s.freeCtr)
    (if Config.tapValid s.freeCtr then s.fieldValue (Config.scanned s.freeCtr) ⟨sec, index, field⟩ else 0)

theorem State.tapOut_cases (s : State) (sec index field : Nat) : s.tapOut sec index field = .tapData true 0 ∨
    s.tapOut sec index field = .tapData false (s.fieldValue (Config.scanned s.freeCtr) ⟨sec, index, field⟩) := by
  unfold State.tapOut
  generalize s.fieldValue (Config.scanned s.freeCtr) ⟨sec, index, field⟩ = v
  cases Config.tapValid s.freeCtr with
  | false => exact .inl rfl
  | true => exact .inr rfl

/-- The state with DEBUG_READ set. -/
def State.debugged (s : State) : State := { s with latch := { s.latch with debugRead := true } }

theorem exec_tapRead (sec index field : Nat) (s : State) : exec (.tapRead sec index field) s =
    doneL s (if s.latch.debugRead then s.nextFree.send (s.tapOut sec index field)
      else (s.nextFree.send (s.tapOut sec index field)).debugged.bumpReport) := rfl

theorem State.tapRead_spec (sec index field : Nat) (s : State) :
    ∃ t, exec (.tapRead sec index field) s = .next t ∧ t.latch = { s.latch with debugRead := true } ∧
      (t.out = .tapData true 0 :: s.out ∨
        t.out = .tapData false (s.fieldValue (Config.scanned s.freeCtr) ⟨sec, index, field⟩) :: s.out) ∧
      (s.latch.debugRead = false → s.reported t ∧ s.only t [.latch, .out, .freeCtr, .sec, .funcs]) ∧
      (s.latch.debugRead = true → s.only t [.out, .freeCtr]) := by
  have ho := s.tapOut_cases sec index field
  rw [exec_tapRead]
  generalize s.tapOut sec index field = o at *
  have out : ∀ t : State, t.out = o :: s.out → t.out = .tapData true 0 :: s.out ∨
      t.out = .tapData false (s.fieldValue (Config.scanned s.freeCtr) ⟨sec, index, field⟩) :: s.out :=
    fun t ht => ho.imp (fun h => by rw [← h]; exact ht) fun h => by rw [← h]; exact ht
  generalize s.fieldValue (Config.scanned s.freeCtr) ⟨sec, index, field⟩ = v at *
  cases hd : s.latch.debugRead with
  | true =>
      rw [if_pos rfl]
      have only : s.only (s.nextFree.send o) [.out, .freeCtr] := State.only_after (State.only_send _ o).sub (State.only_nextFree s).sub
      have latch : s.latch = { s.latch with debugRead := true } := congrArg (fun b => ({ s.latch with debugRead := b } : Latch)) hd
      have outs : (s.nextFree.send o).out = o :: s.out := rfl
      generalize s.nextFree.send o = t at *
      have tl : t.latch = s.latch := only .latch (by decide)
      exact ⟨t, (doneL_eq_done s t tl).trans (done_of_only only (congrArg Boot.power (only .boot (by decide)))), tl.trans latch, out t outs,
        fun h => (nomatch h), fun _ => only⟩
  | false =>
      rw [if_neg (by decide)]
      have first : s.only (s.nextFree.send o).debugged [.latch, .out, .freeCtr] := by
        intro f hf
        cases f <;> first | rfl | simp at hf
      have latch : (s.nextFree.send o).debugged.latch = { s.latch with debugRead := true } := rfl
      have outs : (s.nextFree.send o).debugged.out = o :: s.out := rfl
      generalize (s.nextFree.send o).debugged = v at *
      have report := State.only_bumpReport v
      have reported := (State.bumpReport_reported v).of_eq (first .funcs (by decide)) (congrArg Sec.reportGen (first .sec (by decide)))
      generalize v.bumpReport = t at *
      have all : s.only t [.latch, .out, .freeCtr, .sec, .funcs] := State.only_after report.sub first.sub
      have tl : t.latch = { s.latch with debugRead := true } := (report .latch (by decide)).trans latch
      refine ⟨t, ?_, tl, out t ((report .out (by decide)).trans outs), fun _ => ⟨reported, all⟩, fun h => (nomatch h)⟩
      rw [doneL_same s t (all .tasks (by decide)) (all .mtus (by decide)) (congrArg Boot.power (all .boot (by decide))) (all .pending (by decide))
        (fun n => by rw [State.part_of (all .parts (by decide))]), tl,
        Latch.join_of_le s.latch { s.latch with debugRead := true } (by simp +contextual [Latch.le_iff]), ← tl]

/-- Settles O52: the dump's writes change at most what the VAI's own writes change, and its own part of the state. -/
theorem dumps : Obligations.Dumps := by
  intro p v s
  refine ⟨fun hl ho => ?_, fun scan d rest hb ht hf c val held hc => ?_, fun hb scan => ?_, fun sec index field => s.tapRead_spec sec index field⟩
  · rw [exec_dumpGo p v s hl ho, State.dumpSet_eq]
    refine ⟨fun h => ?_, fun hv hb hon => ?_, fun hv hb hon => ?_⟩
    · rw [if_neg (by rcases h with h | h <;> simp [h])]
      exact done_modRcv s _
    · rw [if_pos (by simp [hv, hb]), State.startDump_off (s.dumpCtrlSet v) _ _ hon]
      exact done_modRcv s _
    · rw [if_pos (by simp [hv, hb]), State.startDump_on (s.dumpCtrlSet v) _ _ hon]
      refine ⟨_, done_modRcv s _, rfl, fun h => State.dumpFields_take _ _ h, ?_⟩
      intro f hf
      cases f <;> first | rfl | simp at hf
  · intro bytes u hw
    have he : exec c s = done s (if rest.isEmpty then (u.modRcv fun _ => s.rcv.recorded bytes held rest).closeDump 1
        else u.modRcv fun _ => s.rcv.recorded bytes held rest) := by
      obtain ⟨rfl, rfl, rfl⟩ | ⟨rfl, rfl, rfl⟩ := hc
      · exact congrArg (done s) (State.dumpNextField_written (fun d => (s.fieldValue scan d, false)) hb ht hf hw)
      · exact congrArg (done s) (State.dumpNextField_written (fun _ => (0, true)) hb ht hf hw)
    have wrote : s.only u [.out, .cnt, .sto, .xl, .freeCtr] := State.only_dumpWrite_true hw
    have first : s.only (u.modRcv fun _ => s.rcv.recorded bytes held rest) [.rcv, .out, .sto, .xl, .freeCtr, .cnt] :=
      State.only_after (State.only_modRcv _ _).sub wrote.sub
    rw [he]
    refine ⟨fun hr => ?_, fun hr hn => ?_⟩
    · rw [if_neg (by simpa using hr)]
      exact ⟨_, done_of_only first (congrArg Boot.power (first .boot (by decide))), rfl, rfl, rfl, first⟩
    · rw [if_pos (by simp [hr])]
      have next : (u.modRcv fun _ => s.rcv.recorded bytes held rest).rcv.dumpNext = false := hn
      have records : (u.modRcv fun _ => s.rcv.recorded bytes held rest).rcv.dumpRecords = s.rcv.dumpRecords + 1 := rfl
      generalize (u.modRcv fun _ => s.rcv.recorded bytes held rest) = w at *
      obtain ⟨only, kept, busy, todo, recs, res⟩ := w.closeDump_last next
      generalize w.closeDump 1 = t at *
      have all : s.only t [.rcv, .out, .sto, .xl, .freeCtr, .cnt, .objs] := State.only_after only.sub first.sub
      exact ⟨t, done_of_only all (congrArg Boot.power (all .boot (by decide))), busy, todo, recs.trans records, res, all,
        State.objsKept_trans (State.objsKept_of_objs (first .objs (by decide))) kept⟩
  · have idle : ∀ g, s.dumpNextField g = s := by
      intro g
      unfold State.dumpNextField
      rw [if_pos (by simp [hb])]
    exact ⟨(congrArg (done s) (idle _)).trans (done_self s), (congrArg (done s) (idle _)).trans (done_self s)⟩

end Sys2Proof.Machine
end


section
/-! What CLEAR, IDENT_REQ and the reset of an engine port change (07 R199, R200, R207, R208, R213). -/

namespace Sys2Proof.Machine

set_option Elab.async false

/-! ### The frame of a port's change -/

/-- A partition without its dispatches, step times and resident weight set. -/
def Part.portless (p : Part) : Part := { p with seqr := [], stepNs := 0, endNs := 0, wsValid := false }

/-- From `s` to `t` ports change, and of the partitions at most their dispatches, step times and resident weight sets. -/
structure State.porting (s t : State) : Prop where
  only : s.only t [.parts, .ports]
  part : ∀ n, (t.part n).portless = (s.part n).portless
  seqr : ∀ n, (t.part n).seqr.length = (s.part n).seqr.length
  wset : ∀ n, (s.part n).wsValid = false → (t.part n).wsValid = false

theorem State.porting_refl (s : State) : s.porting s := ⟨State.only_refl s _, fun _ => rfl, fun _ => rfl, fun _ h => h⟩

theorem State.porting_trans {s t u : State} (h : s.porting t) (g : t.porting u) : s.porting u :=
  ⟨State.only_trans h.only g.only, fun n => (g.part n).trans (h.part n), fun n => (g.seqr n).trans (h.seqr n),
    fun n hn => g.wset n (h.wset n hn)⟩

theorem State.porting_each {α : Type} {g : State → α → State} (hg : ∀ u a, State.porting u (g u a)) (l : List α) (s : State) :
    s.porting (s.each l g) :=
  State.each_keeps (P := s.porting) (fun u a hu => State.porting_trans hu (hg u a)) l s (State.porting_refl s)

theorem State.porting_modPort (s : State) (k : Nat) (g : EPort → EPort) : s.porting (s.modPort k g) :=
  ⟨(State.only_modPort s k g).sub, fun _ => rfl, fun _ => rfl, fun _ h => h⟩

theorem State.porting_modPart (s : State) (n : Nat) (g : Part → Part) (hp : (g (s.part n)).portless = (s.part n).portless)
    (hs : (g (s.part n)).seqr.length = (s.part n).seqr.length) (hw : (s.part n).wsValid = false → (g (s.part n)).wsValid = false) :
    s.porting (s.modPart n g) := by
  refine ⟨(State.only_modPart s n g).sub, fun m => ?_, fun m => ?_, fun m => ?_⟩
  all_goals
    rw [State.modPart_part]
    split
    · next hm => subst hm; assumption
    · first | rfl | exact id

theorem State.porting_recomputeStep (s : State) (n : Nat) : s.porting (s.recomputeStep n) :=
  State.porting_modPart s n (fun p => { p with stepNs := (s.stepTimes n).1, endNs := (s.stepTimes n).2 }) rfl rfl id

theorem State.porting_forward (s : State) (k a b : Nat) (x y z : W64) : s.porting (s.forward k a b x y z) := by
  unfold State.forward
  exact State.porting_modPort s k _

theorem State.porting_recomputePort (s : State) (k : Nat) : s.porting (s.recomputePort k) :=
  State.porting_each State.porting_recomputeStep _ s

theorem State.only_recomputePort (s : State) (k : Nat) : s.only (s.recomputePort k) [.parts] :=
  State.only_each _ (fun u n => State.only_recomputeStep u n) _ s

theorem State.only_wsLost (s : State) (k : Nat) : s.only (s.wsLost k) [.parts] := by
  unfold State.wsLost
  split
  · exact State.only_modPart s _ _
  · exact State.only_refl s _

theorem State.porting_wsLost (s : State) (k : Nat) : s.porting (s.wsLost k) := by
  unfold State.wsLost
  split
  · exact State.porting_modPart s _ _ rfl rfl fun _ => rfl
  · exact State.porting_refl s

theorem State.porting_clearPort (s : State) (k : Nat) : s.porting (s.clearPort k) :=
  State.porting_trans (State.porting_trans (State.porting_trans (State.porting_trans (State.porting_modPort s k _)
    (State.porting_modPort _ k _)) (State.porting_modPort _ k _)) (State.porting_wsLost _ k)) (State.porting_recomputePort _ k)

theorem State.porting_sendIdentReq (s : State) (k : Nat) : s.porting (s.sendIdentReq k) := by
  unfold State.sendIdentReq
  split
  · exact State.porting_trans (State.porting_modPort s k _) (State.porting_forward _ k _ _ _ _ _)
  · exact State.porting_refl s

theorem State.porting_losePort (s : State) (k : Nat) : s.porting (s.losePort k) :=
  State.porting_trans (State.porting_modPort s k _)
    (State.porting_each (fun u n => State.porting_modPart u n _ rfl (List.length_map _) id) _ _)

theorem State.porting_resetPort (s : State) (k : Nat) : s.porting (s.resetPort k) := by
  have first := State.porting_trans (s.porting_losePort k) (State.porting_modPort (s.losePort k) k fun e => { e with identified := false, asked := false })
  unfold State.resetPort
  dsimp only
  split
  · exact State.porting_trans first (State.porting_trans (State.porting_modPort _ k _) (State.porting_recomputePort _ k))
  · exact State.porting_trans first (State.porting_trans (State.porting_clearPort _ k) (State.porting_sendIdentReq _ k))

section
variable {s t : State} (h : s.porting t)
include h

/-- What does not speak of dispatches, step times or the weight set stays. -/
theorem State.porting.part_same {α : Type} (g : Part → α) (n : Nat) (hg : ∀ p, g p.portless = g p := by intro _; rfl) :
    g (t.part n) = g (s.part n) := by
  rw [← hg (t.part n), h.part n, hg]

theorem State.porting.enabled (n : Nat) : t.enabled n = s.enabled n := by
  unfold State.enabled
  rw [h.part_same Part.cfg n]

theorem State.porting.portsOf (n : Nat) : t.portsOf n = s.portsOf n := by
  unfold State.portsOf
  rw [h.part_same Part.engines n]

theorem State.porting.portPart (k : Nat) : t.portPart k = s.portPart k := by
  have same : (fun n => t.enabled n && bit (t.part n).engines k) = fun n => s.enabled n && bit (s.part n).engines k := by
    funext n
    rw [h.enabled, h.part_same Part.engines n]
  unfold State.portPart
  rw [same]

theorem State.porting.portPgen (k : Nat) : t.portPgen k = s.portPgen k := by
  unfold State.portPgen
  rw [h.portPart]
  split
  · exact h.part_same Part.pgen _
  · rfl

end

/-! ### The port itself -/

/-- A message of the forward channel that carries nothing. -/
def bareMsg (kind pgen egen : Nat) : FwdMsg := { hdr := 0, pgen := pgen, egen := egen, dtag := 0, kind := kind, pay0 := 0, pay1 := 0 }

/-- A port with one message more on its forward channel. -/
def EPort.latching (e : EPort) (m : FwdMsg) : EPort :=
  { e with fwd := e.fwd ++ [m], lastTag := if m.kind = 0 ∨ m.kind = 1 then m.dtag else e.lastTag }

/-- A port that has been sent CLEAR. -/
def EPort.cleared (e : EPort) (pgen : Nat) : EPort :=
  { e with egen := (e.egen + 1) % 65536, clearing := true, lastVf := none, fwd := e.fwd ++ [bareMsg 3 pgen ((e.egen + 1) % 65536)] }

/-- A port that has been sent IDENT_REQ. -/
def EPort.asking (e : EPort) (pgen : Nat) : EPort := { e with asked := true, fwd := e.fwd ++ [bareMsg 4 pgen e.egen] }

/-- A port whose credits have returned, and that is not known any more. -/
def EPort.lost (e : EPort) : EPort := { e with held := 0, identified := false, asked := false }

theorem State.forward_eport (s : State) (k kind dtag : Nat) (h a b : W64) (q : Nat) : (s.forward k kind dtag h a b).eport q =
    if q = k then (s.eport k).latching { hdr := h, pgen := s.portPgen k, egen := (s.eport k).egen, dtag := dtag, kind := kind, pay0 := a, pay1 := b }
    else s.eport q := State.modPort_eport s k _ q

theorem State.clearPort_eport (s : State) (k q : Nat) :
    (s.clearPort k).eport q = if q = k then (s.eport k).cleared (s.portPgen k) else s.eport q := by
  have rest : ∀ u : State, ((u.wsLost k).recomputePort k).eport q = u.eport q := fun u =>
    State.eport_of ((State.only_recomputePort _ k .ports (by decide)).trans (State.only_wsLost u k .ports (by decide))) q
  have pgen : ∀ u : State, s.porting u → u.portPgen k = s.portPgen k := fun u h => h.portPgen k
  unfold State.clearPort
  rw [rest]
  unfold State.newEgen
  rw [State.forward_eport, pgen _ (State.porting_trans (State.porting_modPort s k _) (State.porting_modPort _ k _))]
  simp only [State.modPort_eport]
  by_cases hq : q = k
  · rw [if_pos hq, if_pos hq]
    rfl
  · simp only [if_neg hq]

theorem State.sendIdentReq_eport (s : State) (k q : Nat) : (s.sendIdentReq k).eport q =
    if q = k ∧ (s.latch.engines && (s.eport k).enable && !(s.eport k).retired) = true then (s.eport k).asking (s.portPgen k) else s.eport q := by
  unfold State.sendIdentReq
  by_cases hs : (s.latch.engines && (s.eport k).enable && !(s.eport k).retired) = true
  · rw [if_pos hs, State.forward_eport, (State.porting_modPort s k _).portPgen]
    simp only [State.modPort_eport]
    by_cases hq : q = k
    · rw [if_pos hq, if_pos (And.intro hq hs)]
      rfl
    · rw [if_neg hq, if_neg hq, if_neg (fun h => hq h.1)]
  · rw [if_neg hs, if_neg (fun h => hs h.2)]

theorem State.losePort_eport (s : State) (k q : Nat) : (s.losePort k).eport q = if q = k then { s.eport k with held := 0 } else s.eport q := by
  have rest : (s.losePort k).eport q = (s.modPort k fun e => { e with held := 0 }).eport q :=
    State.eport_of (State.only_each (l := [.parts]) _ (fun u n => State.only_modPart u n _) _ _ .ports (by decide)) q
  rw [rest, State.modPort_eport]

/-- A port reset while it is inert, or under ENGINES. -/
theorem State.resetPort_eport (s : State) (k q : Nat) : (s.resetPort k).eport q =
    if q ≠ k then s.eport q
    else if s.inertPort k then { (s.eport k).lost with egen := ((s.eport k).egen + 1) % 65536 }
    else if (s.eport k).retired then (s.eport k).lost.cleared (s.portPgen k) else ((s.eport k).lost.cleared (s.portPgen k)).asking (s.portPgen k) := by
  have first := State.porting_trans (s.porting_losePort k) (State.porting_modPort (s.losePort k) k fun e => { e with identified := false, asked := false })
  have port : ∀ j, ((s.losePort k).modPort k fun e => { e with identified := false, asked := false }).eport j =
      if j = k then (s.eport k).lost else s.eport j := by
    intro j
    rw [State.modPort_eport, State.losePort_eport, State.losePort_eport, if_pos rfl]
    by_cases hj : j = k
    · rw [if_pos hj, if_pos hj]
      rfl
    · simp only [if_neg hj]
  have self := port k
  rw [if_pos rfl] at self
  unfold State.resetPort
  dsimp only
  generalize ((s.losePort k).modPort k fun e => { e with identified := false, asked := false }) = u at *
  have engines : u.latch = s.latch := first.only .latch (by decide)
  by_cases hi : s.inertPort k = true
  · rw [if_pos hi, if_pos hi, State.eport_of (State.only_recomputePort (u.newEgen k) k .ports (by decide))]
    unfold State.newEgen
    rw [State.modPort_eport, self, port q]
    by_cases hq : q = k
    · rw [if_pos hq, if_neg (not_not.mpr hq)]
      rfl
    · rw [if_neg hq, if_neg hq, if_pos hq]
  · have live : s.latch.engines = true ∧ (s.eport k).enable = true := by
      unfold State.inertPort at hi
      simpa using hi
    rw [if_neg hi, if_neg hi, State.sendIdentReq_eport, State.clearPort_eport, State.clearPort_eport, if_pos rfl, self, port q,
      (State.porting_clearPort u k).portPgen, first.portPgen, (State.porting_clearPort u k).only .latch (by decide), engines, live.1]
    have enable : ((s.eport k).lost.cleared (s.portPgen k)).enable = true := live.2
    have retired : ((s.eport k).lost.cleared (s.portPgen k)).retired = (s.eport k).retired := rfl
    rw [enable, retired]
    by_cases hq : q = k
    · rw [if_neg (not_not.mpr hq)]
      cases (s.eport k).retired <;> simp [hq]
    · simp [hq]

end Sys2Proof.Machine
end


section
/-! Resets and their phases (13 R369 to R371, R377; 15 R420). -/

namespace Sys2Proof.Machine

set_option Elab.async false

/-! ### Changes made one by one -/

/-- What one of the changes establishes, and none undoes, holds at the end. -/
theorem State.each_reaches {α : Type} {P : State → Prop} {g : State → α → State} {l : List α} {a : α} (ha : a ∈ l)
    (make : ∀ u, P (g u a)) (keep : ∀ u b, P u → P (g u b)) (s : State) : P (s.each l g) := by
  induction l generalizing s with
  | nil => exact absurd ha (by simp)
  | cons b l ih =>
      by_cases hb : a = b
      · subst hb
        exact State.each_keeps keep l _ (make s)
      · exact ih ((List.mem_cons.mp ha).resolve_left hb) (g s b)

/-- A change of single partitions, of each partition of a list. -/
theorem State.each_part {g : State → Nat → State} {f : Part → Part}
    (hg : ∀ u n m, (g u n).part m = if m = n then f (u.part n) else u.part m) (l : List Nat) (hl : l.Nodup) :
    ∀ (s : State) (m : Nat), (s.each l g).part m = if m ∈ l then f (s.part m) else s.part m := by
  induction l with
  | nil => exact fun s m => by rw [if_neg (by simp)]; rfl
  | cons n l ih =>
      intro s m
      obtain ⟨fresh, rest⟩ := List.nodup_cons.mp hl
      refine (ih rest (g s n) m).trans ?_
      rw [hg]
      by_cases hm : m = n
      · subst hm
        rw [if_neg fresh, if_pos rfl, if_pos List.mem_cons_self]
      · simp [hm]

theorem State.mem_domain (s : State) (m : Nat) : m ∈ s.domain ↔ m < 64 ∧ (s.part m).resetting = true := by
  unfold State.domain
  simp

theorem State.nodup_domain (s : State) : s.domain.Nodup := List.nodup_range.filter _

/-- A record that satisfies what the empty one does not stands in the Task Table. -/
theorem State.mem_recsWhere (s : State) (f : Task → Bool) (r : Nat) (h : f (s.task r) = true) (he : f {} = false) : r ∈ s.recsWhere f := by
  have found : ∃ t, Tab.find? s.tasks r = some t ∧ f t = true := by
    have get : s.task r = (Tab.find? s.tasks r).getD {} := rfl
    cases hf : Tab.find? s.tasks r with
    | none =>
        rw [get, hf] at h
        exact absurd (he.symm.trans h) (by decide)
    | some t =>
        rw [get, hf] at h
        exact ⟨t, rfl, h⟩
  obtain ⟨t, ht, hf⟩ := found
  exact List.mem_filterMap.mpr ⟨(r, t), Tab.mem_of_find? _ _ _ ht, if_pos hf⟩

/-! ### The start of a reset (13 R369) -/

/-- RST_CTRL as a write leaves it. -/
def Rcv.rstCtrlOf (x : Rcv) (v : W64) : W32 := (merge (x.rstCtrl.setWidth 64) v (ones 17 16 ||| ones 5 0)).setWidth 32

/-- The state once RST_CTRL has been written. -/
def State.rstCtrlSet (s : State) (v : W64) : State := s.modRcv fun x => { x with rstCtrl := s.rcv.rstCtrlOf v }

theorem State.resetSet_eq (s : State) (v : W64) : s.resetSet v allBits =
    if !bit v 31 then s.rstCtrlSet v
    else if s.rcv.phase ≠ 0 then (s.rstCtrlSet v).modRcv fun x => { x with result := 2 }
    else if !bit v 16 && !s.enabled (fld v 5 0) then (s.rstCtrlSet v).modRcv fun x => { x with result := 3 }
    else (s.rstCtrlSet v).beginReset (bit v 16) (fld v 5 0) false (bit v 17) := by
  have whole : bit (s.rcv.rstCtrlOf v) 16 = bit v 16 := bit_merge32 _ _ _ (by decide) (by decide)
  have dump : bit (s.rcv.rstCtrlOf v) 17 = bit v 17 := bit_merge32 _ _ _ (by decide) (by decide)
  have part : fld (s.rcv.rstCtrlOf v) 5 0 = fld v 5 0 := fld_merge32 _ _ _ (by decide)
  rw [← whole, ← part, ← dump]
  unfold State.resetSet
  rw [bit_and_allBits]
  rfl

theorem exec_resetGo (p : Nat) (v : W64) (s : State) (hl : (s.func (pfKey p)).linkUp = true) (ho : s.boot.operator = some p) :
    exec (.resetGo p v) s = done s (s.resetSet v allBits) := congrArg (done s) (State.opWrite_op s p _ _ hl ho)

/-- The partitions that a reset acts in. -/
def resetScope (whole : Bool) (n : Nat) : List Nat := if whole then List.range 64 else [n]

theorem nodup_resetScope (whole : Bool) (n : Nat) : (resetScope whole n).Nodup := by
  cases whole with
  | true => exact List.nodup_range
  | false => exact List.nodup_singleton n

/-- The control of recovery at the start of a reset. -/
def Rcv.begun (x : Rcv) (whole : Bool) (n : Nat) (auto dump : Bool) : Rcv :=
  { x with whole := whole, part := if whole then 0 else n, auto := auto, result := 0, phase := if dump then 1 else 2 }

/-- The partitions of a reset are being reset. -/
def State.markReset (s : State) (l : List Nat) : State := s.each l fun u k => u.modPart k fun p => { p with resetting := true }

theorem State.markReset_part (s : State) (whole : Bool) (n m : Nat) : (s.markReset (resetScope whole n)).part m =
    if m ∈ resetScope whole n then { s.part m with resetting := true } else s.part m :=
  State.each_part (f := fun p => { p with resetting := true }) (fun u k m => State.modPart_part u k _ m) _ (nodup_resetScope whole n) s m

theorem State.only_markReset (s : State) (l : List Nat) : s.only (s.markReset l) [.parts] :=
  State.only_each _ (fun u k => State.only_modPart u k _) l s

/-- A reset begun, but for its dump. -/
def State.resetBegun (s : State) (whole : Bool) (n : Nat) (auto dump : Bool) : State :=
  ((s.modRcv fun x => x.begun whole n auto dump).markReset (resetScope whole n)).bumpReport

theorem State.beginReset_eq (s : State) (whole : Bool) (n : Nat) (auto dump : Bool) : s.beginReset whole n auto dump =
    if dump then (s.resetBegun whole n auto dump).resetDump else s.resetBegun whole n auto dump := rfl

theorem State.resetBegun_spec (s : State) (whole : Bool) (n : Nat) (auto dump : Bool) : let t := s.resetBegun whole n auto dump
    t.rcv = s.rcv.begun whole n auto dump ∧ s.reported t ∧
    (∀ m, t.part m = if m ∈ resetScope whole n then { s.part m with resetting := true } else s.part m) ∧
    s.only t [.rcv, .parts, .funcs, .sec] := by
  have first := State.only_modRcv s fun x => x.begun whole n auto dump
  have rcv : (s.modRcv fun x => x.begun whole n auto dump).rcv = s.rcv.begun whole n auto dump := rfl
  unfold State.resetBegun
  generalize (s.modRcv fun x => x.begun whole n auto dump) = u at *
  have mark := u.only_markReset (resetScope whole n)
  have part := u.markReset_part whole n
  generalize u.markReset (resetScope whole n) = v at *
  have both : s.only v [.rcv, .parts] := State.only_after mark.sub first.sub
  have bump := v.only_bumpReport
  refine ⟨(bump .rcv (by decide)).trans ((mark .rcv (by decide)).trans rcv),
    (State.bumpReport_reported v).of_eq (both .funcs (by decide)) (congrArg Sec.reportGen (both .sec (by decide))), fun m => ?_,
    State.only_after bump.sub both.sub⟩
  rw [State.part_of (bump .parts (by decide)), part, State.part_of (first .parts (by decide))]

theorem State.resetBegun_seqr (s : State) (whole : Bool) (n : Nat) (auto dump : Bool) (m : Nat) :
    ((s.resetBegun whole n auto dump).part m).seqr = (s.part m).seqr := by
  rw [(s.resetBegun_spec whole n auto dump).2.2.1 m]
  split <;> rfl

/-- The dump of a reset that no dump delays. -/
theorem State.resetDump_on (s : State) (hb : s.rcv.dumpBusy = false) (ho : s.rcv.dumpOn = true) : s.resetDump =
    s.modRcv fun x => { x.freshDump x.scope (if x.auto then 2 else 1) with
      dumpBusy := true, dumpResult := 0, dumpTodo := s.dumpFields s.rcv.scope, dumpNext := false } := by
  unfold State.resetDump
  rw [if_neg (by simp [hb]), State.startDump_on s _ _ ho]
  rfl

/-- The marks of a reset that begins. -/
def State.marked (s t : State) (l : List Nat) : Prop :=
  ∀ m, (m ∈ l → t.part m = { s.part m with resetting := true }) ∧ (m ∉ l → t.part m = s.part m)

/-- A reset that begins with no dump, as the registers show it. -/
theorem State.begins_spec {c : Instr} {s u : State} {whole : Bool} {n : Nat} {auto : Bool} (he : exec c s = done s (u.resetBegun whole n auto false))
    (hu : s.only u [.rcv]) : ∃ t, exec c s = .next t ∧ t.rcv = u.rcv.begun whole n auto false ∧ s.reported t ∧
      s.marked t (resetScope whole n) ∧ s.only t [.rcv, .parts, .funcs, .sec] := by
  obtain ⟨rcv, reported, part, only⟩ := u.resetBegun_spec whole n auto false
  have seqr := u.resetBegun_seqr whole n auto false
  dsimp only at rcv reported part only
  generalize u.resetBegun whole n auto false = t at *
  have all : s.only t [.rcv, .parts, .funcs, .sec] := State.only_after only.sub hu.sub
  have parts : ∀ m, u.part m = s.part m := State.part_of (hu .parts (by decide))
  exact ⟨t, he.trans (done_parts all (congrArg Boot.power (all .boot (by decide))) fun m => by rw [seqr, parts]), rcv,
    reported.of_eq (hu .funcs (by decide)) (congrArg Sec.reportGen (hu .sec (by decide))),
    fun m => ⟨fun hm => by rw [part, if_pos hm, parts], fun hm => by rw [part, if_neg hm, parts]⟩, all⟩

/-- A reset that begins with its dump. -/
theorem State.begins_dump {c : Instr} {s u : State} {whole : Bool} {n : Nat} (he : exec c s = done s (u.resetBegun whole n false true).resetDump)
    (hu : s.only u [.rcv]) (hb : u.rcv.dumpBusy = false) (ho : u.rcv.dumpOn = true) : ∃ t, exec c s = .next t ∧ t.rcv.phase = 1 ∧
      t.rcv.dumpBusy = true ∧ t.rcv.dumpCause = 1 ∧ t.rcv.dumpScope = (if whole then 0xFF else n) ∧ s.reported t := by
  obtain ⟨rcv, reported, -, only⟩ := u.resetBegun_spec whole n false true
  have seqr := u.resetBegun_seqr whole n false true
  generalize u.resetBegun whole n false true = v at *
  have scope : v.rcv.scope = if whole then 0xFF else n := by
    rw [rcv]
    cases whole <;> rfl
  rw [v.resetDump_on (by rw [rcv]; exact hb) (by rw [rcv]; exact ho)] at he
  have all : s.only v [.rcv, .parts, .funcs, .sec] := State.only_after only.sub hu.sub
  have last := State.only_modRcv v fun x => { x.freshDump x.scope (if x.auto then 2 else 1) with
      dumpBusy := true, dumpResult := 0, dumpTodo := v.dumpFields v.rcv.scope, dumpNext := false }
  have ends : s.only _ [.rcv, .parts, .funcs, .sec] := State.only_after last.sub all
  refine ⟨_, he.trans (done_parts ends (congrArg Boot.power (all .boot (by decide))) fun m => ?_), ?_, rfl, ?_, scope, ?_⟩
  · exact (seqr m).trans (congrArg Part.seqr (State.part_of (hu .parts (by decide)) m))
  · show v.rcv.phase = 1
    rw [rcv]
    rfl
  · show (if v.rcv.auto then 2 else 1) = 1
    rw [rcv]
    rfl
  · exact (reported.of_eq (hu .funcs (by decide)) (congrArg Sec.reportGen (hu .sec (by decide)))).congr rfl rfl
      (State.report_congr rfl rfl rfl rfl rfl)

/-! ### The kill phase (13 R370) -/

/-- A partition that runs no slice, drains from none and has no job chosen. -/
def Part.halted (p : Part) : Prop := p.running = false ∧ p.draining = false ∧ p.job = none

/-- A partition whose slice a reset ends at a moment. -/
def Part.stopped (p : Part) (now : Nat) : Part :=
  { p with
    jobs := p.jobs.map fun x => if p.running && p.job == some x.job then { x with since := now } else x
    running := false, draining := false, job := none, clearWait := false, chosen := none }

theorem State.stopSlice_part (s : State) (n m : Nat) : (s.stopSlice n).part m = if m = n then (s.part n).stopped s.stamp else s.part m :=
  State.modPart_part s n (fun p => p.stopped s.stamp) m

theorem State.stopSlice_halted (s : State) (n : Nat) : ((s.stopSlice n).part n).halted := by
  rw [State.stopSlice_part, if_pos rfl]
  exact ⟨rfl, rfl, rfl⟩

theorem State.stopSlice_keeps (s : State) (n m : Nat) (h : (s.part m).halted) : ((s.stopSlice n).part m).halted := by
  rw [State.stopSlice_part]
  split
  · exact ⟨rfl, rfl, rfl⟩
  · exact h

theorem State.only_stopSlice (s : State) (n : Nat) : s.only (s.stopSlice n) [.parts, .stamp] :=
  State.only_after (State.only_nextStamp _).sub (State.only_modPart s n _).sub

theorem State.stopSlice_cfg (s : State) (n m : Nat) : ((s.stopSlice n).part m).cfg = (s.part m).cfg := by
  rw [State.stopSlice_part]
  split
  · next hm => rw [hm]; rfl
  · rfl

/-- The tasks that a reset kills. -/
def State.resetKills (s : State) (l : List Nat) : List Nat := s.recsWhere fun t => l.contains t.part && t.st == .running && t.kind != .admin

theorem exec_resetKillPhase (s : State) : exec .resetKillPhase s = done s (if s.rcv.phase ≠ 2 then s
    else ((((s.retireDue s.domain).each s.domain State.stopSlice).resetKills s.domain).foldl State.killRerun
      ((s.retireDue s.domain).each s.domain State.stopSlice)).modRcv fun x => { x with phase := 3 }) := rfl

theorem State.retireDue_none (s : State) (l : List Nat) (h : s.rcv.portRet = []) : s.retireDue l = s := by
  unfold State.retireDue
  simp only [h, List.filter_nil]
  rw [show ∀ u : State, u.each [] State.retirePort = u from fun _ => rfl]
  unfold State.modRcv
  dsimp only
  rw [h, List.filter_nil]
  have same : ({ s.rcv with portRet := [] } : Rcv) = s.rcv := congrArg (fun l => ({ s.rcv with portRet := l } : Rcv)) h.symm
  exact congrArg (fun x => ({ s with rcv := x } : State)) same

theorem State.resetKillPhase_spec (s : State) (h : s.rcv.phase = 2) : ∃ t, exec .resetKillPhase s = .next t ∧ t.rcv.phase = 3 ∧
    (∀ m, m < 64 ∧ (s.part m).resetting = true → (t.part m).running = false ∧ (t.part m).draining = false ∧ (t.part m).job = none) ∧
    (s.rcv.portRet = [] → ∀ r, (s.task r).part < 64 ∧ (s.part (s.task r).part).resetting = true → (s.task r).st = .running →
      (s.task r).kind ≠ .admin → (t.task r).st = .killed ∧
      (t.task r).after = some (if s.verkai (s.task r).part then .fail 0x1C else .rerun)) := by
  have still := fun m (hm : m ∈ s.domain) => State.each_reaches (P := fun u : State => (u.part m).halted) hm
    (fun u => u.stopSlice_halted m) (fun u n hu => u.stopSlice_keeps n m hu) (s.retireDue s.domain)
  have retire : s.rcv.portRet = [] → s.retireDue s.domain = s := s.retireDue_none _
  have only := State.only_each _ State.only_stopSlice s.domain (s.retireDue s.domain)
  have cfg := fun m => State.each_keeps (P := fun u : State => (u.part m).cfg = ((s.retireDue s.domain).part m).cfg)
    (fun u n hu => (u.stopSlice_cfg n m).trans hu) s.domain (s.retireDue s.domain) rfl
  rw [exec_resetKillPhase, if_neg (by simp [h])]
  generalize (s.retireDue s.domain).each s.domain State.stopSlice = u at *
  have culls := State.culls_foldl State.culls_killRerun (u.resetKills s.domain) u
  have kills := fun q (hq : q ∈ u.resetKills s.domain) (hk : (u.task q).killable = true) =>
    State.killed_of_mem (fun q => if u.verkai (u.task q).part then .fail 0x1C else .rerun) State.culls_killRerun
      (fun v q => v.reaps_killRerun q) (fun v q hv hf hk => by
        have spec := v.killRerun_spec q (by rw [Task.fewerOps_killable hf]; exact hk)
        have aft : v.rerunAfter q = if u.verkai (u.task q).part then .fail 0x1C else .rerun := by
          unfold State.rerunAfter
          rw [Task.fewerOps_same hf Task.part, State.verkai_of_unended hv.kept]
        rw [aft] at spec
        exact Task.killedBy_trans hf spec) _ q hq hk
  generalize (u.resetKills s.domain).foldl State.killRerun u = v at *
  obtain ⟨t, ht, -, -, ends⟩ := done_next s (v.modRcv fun x => { x with phase := 3 })
  have parts : ∀ m, t.part m = v.part m := State.part_of (ends .parts (by decide))
  have tasks : ∀ r, t.task r = v.task r := State.task_of (ends .tasks (by decide))
  have rcv : t.rcv = { v.rcv with phase := 3 } := ends .rcv (by decide)
  refine ⟨t, ht, by rw [rcv], fun m hm => ?_, fun hp r hr hs hk => ?_⟩
  · obtain ⟨running, draining, job⟩ := still m ((s.mem_domain m).mpr hm)
    rw [parts, State.part_same culls.kept Part.running, State.part_same culls.kept Part.draining, State.part_same culls.kept Part.job]
    exact ⟨running, draining, job⟩
  · rw [retire hp] at only cfg
    have task := State.task_of (only .tasks (by decide)) r
    have killable : (u.task r).killable = true := by
      rw [task]
      unfold Task.killable
      rw [hs]
      simpa using hk
    have listed : r ∈ u.resetKills s.domain := by
      refine State.mem_recsWhere u _ r ?_ (by simp)
      rw [task, hs]
      simpa using ⟨(s.mem_domain _).mpr hr, hk⟩
    have mode : u.verkai (u.task r).part = s.verkai (s.task r).part := by
      unfold State.verkai
      rw [task, cfg]
    obtain ⟨st, after, -⟩ := Task.killedBy_fields (kills r listed killable)
    rw [tasks]
    exact ⟨st, by rw [after, mode]⟩

/-! ### The clear phase (13 R370, R371) -/

/-- A partition at the clear phase of its reset. -/
def Part.recleared (p : Part) : Part :=
  { p with pgen := (p.pgen + 1) % 65536, wsValid := false, cvy := { p.cvy with units := [], members := [], run := none, hold := false } }

/-- One partition's part of the clear phase. -/
def State.clearOne (u : State) (n : Nat) : State :=
  (u.modPart n fun p => { p with pgen := (p.pgen + 1) % 65536, wsValid := false }).dropConvoy n

theorem State.dropConvoy_part (s : State) (n m : Nat) : (s.dropConvoy n).part m =
    if m = n then { s.part n with cvy := { (s.part n).cvy with units := [], members := [], run := none, hold := false } } else s.part m := by
  have units : ∀ (l : List Nat) (u : State), (u.each l State.freeUnit).part m = u.part m := fun l u =>
    State.part_of (State.only_each _ State.only_freeUnit l u .parts (by decide)) m
  exact (units _ _).trans (State.modPart_part s n _ m)

theorem State.only_dropConvoy (s : State) (n : Nat) : s.only (s.dropConvoy n) [.parts, .sto] :=
  State.only_after (State.only_each _ State.only_freeUnit _ _).sub (State.only_modPart s n _).sub

theorem State.clearOne_part (u : State) (n m : Nat) : (u.clearOne n).part m = if m = n then (u.part n).recleared else u.part m := by
  unfold State.clearOne
  rw [State.dropConvoy_part]
  by_cases hm : m = n
  · rw [if_pos hm, if_pos hm, State.modPart_part_self]
    rfl
  · rw [if_neg hm, if_neg hm, State.modPart_part_ne _ _ _ hm]

theorem State.only_clearOne (u : State) (n : Nat) : u.only (u.clearOne n) [.parts, .sto] :=
  State.only_after (State.only_dropConvoy _ n) (State.only_modPart u n _).sub

/-- The ports that the clear phase resets. -/
def State.portsToReset (s : State) : List Nat := (s.domain.flatMap s.portsOf).dedup.filter fun k =>
  (s.eport k).enable && !(s.eport k).retired && ((s.eport k).identified || (s.eport k).clearing) && !s.rcv.portRet.contains k

/-- The shared units reinitialised. -/
def State.unitsFresh (s : State) : State := { s with dbell := {}, fetch := {}, suTurn := [] }

theorem State.clearDomain_eq (s : State) : s.clearDomain =
    (s.each s.domain State.clearOne).each (s.each s.domain State.clearOne).portsToReset State.resetPort := rfl

/-- The domain cleared, in the next phase. -/
def State.cleared (s : State) : State := s.clearDomain.modRcv fun x => { x with phase := 4 }

theorem exec_resetClearPhase (s : State) : exec .resetClearPhase s = done s (if s.rcv.phase == 3 && s.domain.all s.drainOver then
    if s.cleared.rcv.whole then s.cleared.unitsFresh else s.cleared else s) := rfl

theorem State.each_clearOne (s : State) : s.only (s.each s.domain State.clearOne) [.parts, .sto] ∧
    ∀ m, (s.each s.domain State.clearOne).part m = if m ∈ s.domain then (s.part m).recleared else s.part m :=
  ⟨State.only_each _ State.only_clearOne _ s, State.each_part State.clearOne_part _ s.nodup_domain s⟩

/-- A live port as the clear phase leaves it. -/
def State.portCleared (k : Nat) (u : State) : Prop := u.latch.engines = true ∧ (u.eport k).enable = true ∧
  (u.eport k).identified = false ∧ (u.eport k).clearing = true ∧ (u.eport k).held = 0

theorem State.portCleared_make (u : State) (k : Nat) (he : u.latch.engines = true) (hk : (u.eport k).enable = true) :
    State.portCleared k (u.resetPort k) := by
  have inert : ¬u.inertPort k = true := by simp [State.inertPort, he, hk]
  have port := u.resetPort_eport k k
  rw [if_neg (not_not.mpr rfl), if_neg inert] at port
  unfold State.portCleared
  rw [(u.porting_resetPort k).only .latch (by decide), port]
  refine ⟨he, ?_⟩
  split
  · exact ⟨hk, rfl, rfl, rfl⟩
  · exact ⟨hk, rfl, rfl, rfl⟩

theorem State.portCleared_keep (u : State) (k j : Nat) (h : State.portCleared k u) : State.portCleared k (u.resetPort j) := by
  by_cases hj : k = j
  · subst hj
    exact u.portCleared_make k h.1 h.2.1
  · have port := u.resetPort_eport j k
    rw [if_pos hj] at port
    unfold State.portCleared
    rw [(u.porting_resetPort j).only .latch (by decide), port]
    exact h

/-- Every live port of a list is cleared. -/
theorem State.each_resetPort_cleared (l : List Nat) (k : Nat) (hk : k ∈ l) : ∀ u : State, u.latch.engines = true →
    (u.eport k).enable = true → State.portCleared k (u.each l State.resetPort) := by
  induction l with
  | nil => exact absurd hk (by simp)
  | cons j l ih =>
      intro u he hu
      by_cases hj : k = j
      · subst hj
        exact State.each_keeps (fun v a hv => v.portCleared_keep k a hv) l _ (u.portCleared_make k he hu)
      · refine ih ((List.mem_cons.mp hk).resolve_left hj) (u.resetPort j) ?_ ?_
        · rw [(u.porting_resetPort j).only .latch (by decide)]
          exact he
        · rw [u.resetPort_eport j k, if_pos hj]
          exact hu

theorem State.cleared_spec (s : State) : s.only s.cleared [.rcv, .parts, .ports, .sto] ∧ s.cleared.rcv = { s.rcv with phase := 4 } ∧
    (∀ n, (s.cleared.part n).seqr.length = (s.part n).seqr.length) ∧
    ∀ m ∈ s.domain, (s.cleared.part m).pgen = ((s.part m).pgen + 1) % 65536 ∧ (s.cleared.part m).wsValid = false ∧
      ∀ k ∈ s.portsOf m, s.latch.engines = true → (s.eport k).enable = true → (s.eport k).retired = false →
        (s.eport k).identified = true → k ∉ s.rcv.portRet → (s.cleared.eport k).identified = false ∧
          (s.cleared.eport k).clearing = true ∧ (s.cleared.eport k).held = 0 := by
  obtain ⟨first, part⟩ := s.each_clearOne
  unfold State.cleared
  rw [State.clearDomain_eq]
  generalize s.each s.domain State.clearOne = u at *
  have ports := State.porting_each State.porting_resetPort u.portsToReset u
  have reset := fun k hk => State.each_resetPort_cleared u.portsToReset k hk u
  generalize u.each u.portsToReset State.resetPort = v at *
  have all : s.only v [.rcv, .parts, .ports, .sto] := State.only_after ports.only.sub first.sub
  have rcv : v.rcv = s.rcv := (ports.only .rcv (by decide)).trans (first .rcv (by decide))
  have domain : u.domain = s.domain := by
    unfold State.domain
    congr 1
    funext n
    rw [part]
    split <;> rfl
  refine ⟨State.only_after (State.only_modRcv v _).sub all.sub, by rw [← rcv]; rfl, fun n => ?_, fun m hm => ?_⟩
  · refine (ports.seqr n).trans ?_
    rw [part]
    split <;> rfl
  · have own : u.part m = (s.part m).recleared := by rw [part, if_pos hm]
    refine ⟨(ports.part_same Part.pgen m).trans (by rw [own]; rfl), ports.wset m (by rw [own]; rfl), fun k hk he hn hr hi hp => ?_⟩
    have eport : u.eport k = s.eport k := State.eport_of (first .ports (by decide)) k
    have latch : u.latch = s.latch := first .latch (by decide)
    have names : k ∈ u.portsOf m := by
      unfold State.portsOf at hk ⊢
      rw [own]
      exact hk
    have listed : k ∈ u.portsToReset := by
      refine List.mem_filter.mpr ⟨List.mem_dedup.mpr (List.mem_flatMap.mpr ⟨m, domain ▸ hm, names⟩), ?_⟩
      rw [eport, first .rcv (by decide), hn, hr, hi]
      simpa using hp
    obtain ⟨-, -, done⟩ := reset k listed (by rw [latch]; exact he) (by rw [eport]; exact hn)
    exact done

theorem State.only_unitsFresh (s : State) : s.only s.unitsFresh [.dbell, .fetch, .suTurn] := by
  intro f hf
  cases f <;> first | rfl | simp at hf

theorem State.resetClearPhase_spec (s : State) (h : s.rcv.phase = 3) (hd : ∀ m, m < 64 ∧ (s.part m).resetting = true → s.drainOver m = true) :
    ∃ t, exec .resetClearPhase s = .next t ∧ t.rcv = { s.rcv with phase := 4 } ∧
      (∀ m, m < 64 ∧ (s.part m).resetting = true → (t.part m).pgen = ((s.part m).pgen + 1) % 65536 ∧ (t.part m).wsValid = false ∧
        ∀ k ∈ s.portsOf m, s.latch.engines = true → (s.eport k).enable = true → (s.eport k).retired = false →
          (s.eport k).identified = true → k ∉ s.rcv.portRet → (t.eport k).identified = false ∧ (t.eport k).clearing = true ∧
            (t.eport k).held = 0) ∧
      (s.rcv.whole = true → t.dbell = {} ∧ t.fetch = {} ∧ t.suTurn = []) ∧
      s.only t [.rcv, .parts, .ports, .sto, .dbell, .fetch, .suTurn] := by
  obtain ⟨only, rcv, seqr, domain⟩ := s.cleared_spec
  have drained : (s.rcv.phase == 3 && s.domain.all s.drainOver) = true := by
    rw [h]
    simpa using fun m hm => hd m ((s.mem_domain m).mp hm)
  have same : ∀ t : State, s.only t [.rcv, .parts, .ports, .sto, .dbell, .fetch, .suTurn] →
      (∀ n, (t.part n).seqr.length = (s.part n).seqr.length) → done s t = .next t := fun t ht hn =>
    done_same s t (ht .tasks (by decide)) (ht .mtus (by decide)) (congrArg Boot.power (ht .boot (by decide))) (ht .pending (by decide))
      (ht .latch (by decide)) hn
  have whole : s.cleared.rcv.whole = s.rcv.whole := by rw [rcv]
  rw [exec_resetClearPhase, if_pos drained, whole]
  have member := fun m hm => domain m ((s.mem_domain m).mpr hm)
  generalize s.cleared = v at *
  cases hw : s.rcv.whole with
  | false =>
      rw [if_neg (by decide)]
      exact ⟨v, same v only.sub seqr, rcv, member, fun h => (nomatch h), only.sub⟩
  | true =>
      rw [if_pos rfl]
      have fresh : s.only v.unitsFresh [.rcv, .parts, .ports, .sto, .dbell, .fetch, .suTurn] := State.only_after v.only_unitsFresh.sub only.sub
      exact ⟨v.unitsFresh, same _ fresh seqr, rcv, member, fun _ => ⟨rfl, rfl, rfl⟩, fresh⟩

/-! ### The restart phase (13 R370; 15 R424) -/

/-- A rerun, or where it takes another record the admission that it asks for, leaves every other task that stands in a record. -/
theorem State.rerun_other (s : State) (q r : Nat) (h : r ≠ q) (hr : (s.task r).st ≠ .empty) : (s.rerun q).task r = s.task r := by
  have kept : (s.emptyRecord q).task r = s.task r := by rw [State.emptyRecord_task, if_neg h]
  unfold State.rerun
  dsimp only
  split
  · unfold State.admission
    split
    · next i hi =>
      have ne : r ≠ i := by
        intro e
        have empty := (State.emptyRec_some hi).1
        rw [← e, kept] at empty
        exact hr empty
      exact ((State.admitAt_spec _ i _).2.1 r ne).trans kept
    · exact kept
  · exact ((State.admitAt_spec _ q _).2.1 r h).trans kept

/-- A rerun in its own record starts from the segment's start. -/
theorem State.rerun_self (s : State) (r : Nat) (h : (s.task r).withdrawn = false) : ∃ g o,
    (s.rerun r).task r = (s.task r).again.admittedAs g o := by
  unfold State.rerun
  dsimp only
  rw [if_neg (by simp [h])]
  exact ⟨_, _, (State.admitAt_spec _ r _).1⟩

theorem State.only_emptyRecord (s : State) (r : Nat) : s.only (s.emptyRecord r) [.tasks] := State.only_modTask s r _

theorem State.only_rerun (s : State) (r : Nat) : s.only (s.rerun r) [.tasks, .queues, .stamp, .cnt, .waitTasks] := by
  have first := s.only_emptyRecord r
  have front : (s.task r).again.front = true := rfl
  unfold State.rerun
  dsimp only
  split
  · unfold State.admission
    split
    · exact State.only_after ((State.admitAt_spec _ _ _).2.2.2 (.inl front)).sub first.sub
    · refine State.only_after (l := [.tasks, .queues, .stamp, .cnt, .waitTasks]) ?_ first.sub
      intro f hf
      cases f <;> first | rfl | simp at hf
  · exact State.only_after ((State.admitAt_spec _ _ _).2.2.2 (.inl front)).sub first.sub

/-- The task of record `r` has its rerun ahead, from a context, or has been admitted for it. -/
def State.awaitsRerun (u : State) (r : Nat) (c : Ctx) : Prop :=
  (u.task r).st ≠ .empty ∧ (u.task r).withdrawn = false ∧ (u.task r).start = c

/-- The task of record `r` is ADMITTED with a context. -/
def State.readmitted (u : State) (r : Nat) (c : Ctx) : Prop :=
  u.awaitsRerun r c ∧ (u.task r).st = .admitted ∧ (u.task r).ctx = c

theorem State.rerun_readmits (u : State) (r : Nat) (c : Ctx) (h : u.awaitsRerun r c) : (u.rerun r).readmitted r c := by
  obtain ⟨-, withdrawn, start⟩ := h
  obtain ⟨g, o, task⟩ := u.rerun_self r withdrawn
  unfold State.readmitted State.awaitsRerun
  rw [task]
  exact ⟨⟨by simp [Task.admittedAs], rfl, start⟩, rfl, start⟩

theorem State.rerun_keeps_readmitted (u : State) (q r : Nat) (c : Ctx) (h : u.readmitted r c) : (u.rerun q).readmitted r c := by
  by_cases hq : r = q
  · subst hq
    exact u.rerun_readmits r c h.1
  · unfold State.readmitted State.awaitsRerun
    rw [u.rerun_other q r hq h.1.1]
    exact h

theorem State.reruns_readmit (l : List Nat) (r : Nat) (c : Ctx) (hr : r ∈ l) : ∀ u : State, u.awaitsRerun r c →
    (l.foldl State.rerun u).readmitted r c := by
  induction l with
  | nil => exact absurd hr (by simp)
  | cons q l ih =>
      intro u hu
      by_cases hq : r = q
      · subst hq
        exact State.each_keeps (P := fun v => State.readmitted v r c) (fun v a hv => v.rerun_keeps_readmitted a r c hv) l _ (u.rerun_readmits r c hu)
      · refine ih ((List.mem_cons.mp hr).resolve_left hq) (u.rerun q) ?_
        unfold State.awaitsRerun
        rw [u.rerun_other q r hq hu.1]
        exact hu

/-- What the control of recovery says of resets. -/
def Rcv.resetPart (x : Rcv) : Nat × Nat × Nat × Nat := (x.phase, x.result, x.nWhole, x.nPart)

/-- From `s` to `t` nothing changes that a reset's end has settled: its control, its partitions' marks and the tasks. -/
structure State.settled (s t : State) : Prop where
  only : s.only t [.rcv, .parts, .ports, .funcs, .sec]
  rcv : t.rcv.resetPart = s.rcv.resetPart
  marks : ∀ n, (t.part n).resetting = (s.part n).resetting

theorem State.settled_refl (s : State) : s.settled s := ⟨State.only_refl s _, rfl, fun _ => rfl⟩

theorem State.settled_trans {s t u : State} (h : s.settled t) (g : t.settled u) : s.settled u :=
  ⟨State.only_trans h.only g.only, g.rcv.trans h.rcv, fun n => (g.marks n).trans (h.marks n)⟩

theorem State.settled_each {α : Type} {g : State → α → State} (hg : ∀ u a, State.settled u (g u a)) (l : List α) (s : State) :
    s.settled (s.each l g) :=
  State.each_keeps (P := s.settled) (fun u a hu => State.settled_trans hu (hg u a)) l s (State.settled_refl s)

theorem State.settled_modRcv (s : State) (g : Rcv → Rcv) (h : ∀ x, (g x).resetPart = x.resetPart := by intro _; rfl) : s.settled (s.modRcv g) :=
  ⟨(State.only_modRcv s g).sub, h _, fun _ => rfl⟩

theorem State.settled_modPart (s : State) (n : Nat) (g : Part → Part) (h : ∀ p, (g p).resetting = p.resetting := by intro _; rfl) :
    s.settled (s.modPart n g) := by
  refine ⟨(State.only_modPart s n g).sub, rfl, fun m => ?_⟩
  rw [State.modPart_part]
  split
  · next hm => rw [h, hm]
  · rfl

theorem State.settled_of_only {s t : State} {l : List Field} (h : s.only t l)
    (hl : (l.all fun f => [Field.ports, .funcs, .sec].contains f) = true := by decide) : s.settled t := by
  have out : s.only t [.ports, .funcs, .sec] := h.sub hl
  exact ⟨out.sub, congrArg Rcv.resetPart (out .rcv (by decide)), fun n => congrArg Part.resetting (State.part_of (out .parts (by decide)) n)⟩

theorem State.porting.settled {s t : State} (h : s.porting t) : s.settled t :=
  ⟨h.only.sub, congrArg Rcv.resetPart (h.only .rcv (by decide)), fun n => h.part_same Part.resetting n⟩

theorem State.settled_setThreads (s : State) (n k : Nat) : s.settled (s.setThreads n k) := State.settled_modPart s n _

theorem State.settled_clearMoving (s : State) : s.settled s.clearMoving := by
  refine State.settled_each (fun u k => ?_) _ s
  split
  · exact (u.porting_clearPort k).settled
  · exact u.settled_modRcv _

theorem State.settled_sourceStep (s : State) : s.settled s.sourceStep := by
  unfold State.sourceStep
  dsimp only
  refine State.settled_trans (State.settled_trans s.settled_clearMoving ?_) (State.settled_modRcv _ _)
  split
  · exact State.settled_trans (State.settled_trans (State.settled_modPart _ _ _) (State.settled_setThreads _ _ _)) (State.porting_recomputeStep _ _).settled
  · exact State.settled_refl _

theorem State.settled_bumpReport (s : State) : s.settled s.bumpReport := State.settled_of_only s.only_bumpReport

theorem State.settled_destinationStep (s : State) : s.settled s.destinationStep := by
  unfold State.destinationStep
  dsimp only
  refine State.settled_trans ?_ (State.settled_trans (State.settled_modRcv _ _) (State.settled_bumpReport _))
  split
  · exact State.settled_trans (State.settled_trans (State.settled_modPart _ _ _) (State.settled_setThreads _ _ _)) (State.porting_recomputeStep _ _).settled
  · exact State.settled_refl _

theorem State.settled_resizeAt (s : State) (n : Nat) : s.settled (s.resizeAt n) := by
  unfold State.resizeAt
  split
  · exact s.settled_sourceStep
  · split
    · exact s.settled_destinationStep
    · exact State.settled_refl s

theorem State.settled_modSec (s : State) (g : Sec → Sec) : s.settled (s.modSec g) := State.settled_of_only (State.only_modSec s g)

theorem State.settled_switchOne (b : Nat) (changed : Bool) (s : State) (n : Nat) : s.settled (State.switchOne b changed s n) :=
  State.settled_trans (State.settled_trans (State.settled_modPart s n _) (State.settled_of_only (State.only_withdrawKeys _ _))) (State.settled_modSec _ _)

theorem State.settled_settleSwitch (s : State) (b : Nat) : s.settled (s.settleSwitch b) := by
  unfold State.settleSwitch
  split
  · exact State.settled_modSec _ _
  · exact State.settled_refl _

theorem State.settled_fwSwitch (s : State) (l : List Nat) : s.settled (s.fwSwitch l) := by
  rw [State.fwSwitch_eq]
  exact State.settled_trans (State.settled_each (State.settled_switchOne _ _) l s) (State.settled_settleSwitch _ _)

theorem State.settled_oneBump (s : State) (g : Nat) : s.settled (s.oneBump g) := by
  unfold State.oneBump
  split
  · exact State.settled_refl s
  · exact State.settled_modSec s _

/-- The control of recovery once a reset has ended. -/
def Rcv.restarted (x : Rcv) : Rcv :=
  { x with
    phase := 0, result := 1
    nWhole := if x.whole then (x.nWhole + 1) % 2 ^ 32 else x.nWhole
    nPart := if x.whole then x.nPart else (x.nPart + 1) % 2 ^ 32 }

/-- A state whose partitions of a list are reset no more. -/
def State.unmark (s : State) (l : List Nat) : State := s.each l fun u n => u.modPart n fun p => { p with resetting := false }

theorem State.unmark_part (s : State) (l : List Nat) (hl : l.Nodup) (m : Nat) :
    (s.unmark l).part m = if m ∈ l then { s.part m with resetting := false } else s.part m :=
  State.each_part (f := fun p => { p with resetting := false }) (fun u k m => State.modPart_part u k _ m) l hl s m

/-- The reset's reruns admitted, its marks gone and its end counted. -/
def State.restarted (s : State) : State :=
  (((s.rerunsOf s.domain).foldl State.rerun s).unmark s.domain).modRcv Rcv.restarted

/-- What follows a reset's end at the slice boundary that it is (08 R228). -/
def State.afterReset (s : State) (l : List Nat) (g : Nat) : State :=
  (if ((s.each l State.resizeAt).toSwitch l).isEmpty then s.each l State.resizeAt
    else (s.each l State.resizeAt).fwSwitch ((s.each l State.resizeAt).toSwitch l)).bumpReport.oneBump g

theorem exec_resetRestartPhase (s : State) : exec .resetRestartPhase s = done s (if s.rcv.phase == 4 && !(s.domain.any s.clearsLeft) then
    s.restarted.afterReset s.domain s.sec.reportGen else s) := rfl

theorem State.settled_afterReset (s : State) (l : List Nat) (g : Nat) : s.settled (s.afterReset l g) := by
  have first := State.settled_each State.settled_resizeAt l s
  unfold State.afterReset
  refine State.settled_trans ?_ (State.settled_trans (State.settled_bumpReport _) (State.settled_oneBump _ g))
  split
  · exact first
  · exact State.settled_trans first (State.settled_fwSwitch _ _)

theorem State.restarted_spec (s : State) : s.restarted.rcv = s.rcv.restarted ∧
    (∀ m, m < 64 → (s.restarted.part m).resetting = false) ∧
    ∀ r, (s.task r).st = .killed → (s.task r).after = some .rerun → (s.task r).part ∈ s.domain → (s.task r).drained = true →
      (s.task r).withdrawn = false → s.restarted.readmitted r (s.task r).start := by
  have reruns := State.only_each State.rerun State.only_rerun (s.rerunsOf s.domain) s
  have readmit := fun r hr c => State.reruns_readmit (s.rerunsOf s.domain) r c hr s
  have fold : s.each (s.rerunsOf s.domain) State.rerun = (s.rerunsOf s.domain).foldl State.rerun s := rfl
  rw [fold] at reruns
  unfold State.restarted
  have listed : ∀ r, (s.task r).st = .killed → (s.task r).after = some .rerun → (s.task r).part ∈ s.domain → (s.task r).drained = true →
      r ∈ s.rerunsOf s.domain := fun r hs ha hp hd =>
    State.mem_recsWhere s _ r (by rw [hs, ha, hd]; simpa using hp) (by simp)
  generalize s.rerunsOf s.domain = l at *
  generalize l.foldl State.rerun s = u at *
  have unmark := u.unmark_part s.domain s.nodup_domain
  have only : u.only (u.unmark s.domain) [.parts] := State.only_each _ (fun v n => State.only_modPart v n _) _ u
  generalize u.unmark s.domain = v at *
  refine ⟨?_, fun m hm => ?_, fun r hs ha hp hd hw => ?_⟩
  · show Rcv.restarted v.rcv = _
    rw [only .rcv (by decide), reruns .rcv (by decide)]
  · show (v.part m).resetting = false
    rw [unmark, State.part_of (reruns .parts (by decide))]
    split
    · rfl
    · next out =>
      rw [State.mem_domain] at out
      simpa [hm] using out
  · have again := readmit r (listed r hs ha hp hd) (s.task r).start ⟨by rw [hs]; decide, hw, rfl⟩
    have task : (v.modRcv Rcv.restarted).task r = u.task r := State.task_of (only .tasks (by decide)) r
    unfold State.readmitted State.awaitsRerun at again ⊢
    rw [task]
    exact again

theorem State.resetRestartPhase_spec (s : State) (h : s.rcv.phase = 4)
    (hc : ∀ m, m < 64 ∧ (s.part m).resetting = true → s.clearsLeft m = false) : ∃ t, exec .resetRestartPhase s = .next t ∧
      t.rcv.phase = 0 ∧ t.rcv.result = 1 ∧ (∀ m, m < 64 → (t.part m).resetting = false) ∧
      t.rcv.nWhole = (if s.rcv.whole then (s.rcv.nWhole + 1) % 2 ^ 32 else s.rcv.nWhole) ∧
      t.rcv.nPart = (if s.rcv.whole then s.rcv.nPart else (s.rcv.nPart + 1) % 2 ^ 32) ∧
      ∀ r, (s.task r).st = .killed → (s.task r).after = some .rerun →
        ((s.task r).part < 64 ∧ (s.part (s.task r).part).resetting = true) → (s.task r).drained = true →
        (s.task r).withdrawn = false → (t.task r).st = .admitted ∧ (t.task r).ctx = (s.task r).start := by
  have due : (s.rcv.phase == 4 && !(s.domain.any s.clearsLeft)) = true := by
    rw [h]
    simpa using fun m hm => hc m ((s.mem_domain m).mp hm)
  obtain ⟨rcv, marks, reruns⟩ := s.restarted_spec
  rw [exec_resetRestartPhase, if_pos due]
  have after := State.settled_afterReset s.restarted s.domain s.sec.reportGen
  generalize s.restarted.afterReset s.domain s.sec.reportGen = v at *
  obtain ⟨t, ht, -, -, ends⟩ := done_next s v
  have control : t.rcv.resetPart = s.rcv.restarted.resetPart := by rw [ends .rcv (by decide), after.rcv, rcv]
  obtain ⟨phase, result, nWhole, nPart⟩ : t.rcv.phase = 0 ∧ t.rcv.result = 1 ∧
      t.rcv.nWhole = (if s.rcv.whole then (s.rcv.nWhole + 1) % 2 ^ 32 else s.rcv.nWhole) ∧
      t.rcv.nPart = (if s.rcv.whole then s.rcv.nPart else (s.rcv.nPart + 1) % 2 ^ 32) := by
    simpa only [Rcv.resetPart, Rcv.restarted, Prod.mk.injEq] using control
  refine ⟨t, ht, phase, result, fun m hm => ?_, nWhole, nPart, fun r hs ha hp hd hw => ?_⟩
  · rw [State.part_of (ends .parts (by decide)), after.marks]
    exact marks m hm
  · obtain ⟨-, st, ctx⟩ := reruns r hs ha ((s.mem_domain _).mpr hp) hd hw
    rw [State.task_of (ends .tasks (by decide)), State.task_of (after.only .tasks (by decide))]
    exact ⟨st, ctx⟩

/-! ### The obligation -/

theorem State.marked_one {s t : State} {n : Nat} (h : s.marked t (resetScope false n)) :
    ∀ m, (m = n → t.part m = { s.part m with resetting := true }) ∧ (¬m = n → t.part m = s.part m) := fun m =>
  ⟨fun hm => (h m).1 (by simp [resetScope, hm]), fun hm => (h m).2 (by simp [resetScope, hm])⟩

theorem State.marked_all {s t : State} {n : Nat} (h : s.marked t (resetScope true n)) :
    ∀ m, (m < 64 → t.part m = { s.part m with resetting := true }) ∧ (¬m < 64 → t.part m = s.part m) := fun m =>
  ⟨fun hm => (h m).1 (by simp [resetScope, hm]), fun hm => (h m).2 (by simpa [resetScope] using hm)⟩

/-- A write to RST_CTRL with GO that begins a reset. -/
theorem State.resetGo_begins (p : Nat) (v : W64) (s : State) (hl : (s.func (pfKey p)).linkUp = true) (ho : s.boot.operator = some p)
    (hv : bit v 31 = true) (hp : s.rcv.phase = 0) (hn : bit v 16 = true ∨ s.enabled (fld v 5 0) = true) :
    exec (.resetGo p v) s = done s ((s.rstCtrlSet v).beginReset (bit v 16) (fld v 5 0) false (bit v 17)) := by
  rw [exec_resetGo p v s hl ho, State.resetSet_eq, if_neg (by simp [hv]), if_neg (not_not.mpr hp),
    if_neg (by rcases hn with h | h <;> simp [h])]

/-- The automatic resets that wait, but for the next one. -/
def State.nextAuto (s : State) (rest : List Nat) : State := s.modRcv fun x => { x with waiting := rest }

theorem exec_resetAutoStart_next (s : State) {k : Nat} {rest : List Nat} (hp : s.rcv.phase = 0) (hw : s.rcv.waiting = k :: rest) :
    exec .resetAutoStart s = done s (if s.enabled k then (s.nextAuto rest).beginReset false k true (bit s.rcv.dumpCfg 25)
      else (s.nextAuto rest).retireDue [k]) := by
  unfold exec execResetAutoStart
  dsimp only
  rw [if_neg (not_not.mpr hp), hw]
  rfl

/-- Settles O51: a phase's effect is that of the changes to single partitions, ports and tasks that it makes one by one. -/
theorem resets : Obligations.Resets := by
  intro p v s
  refine ⟨fun ⟨hl, ho⟩ => ⟨fun hv => ?_, fun hv hp => ?_, fun hv hp hw he => ?_, fun hv hp hd => ⟨fun hw he => ?_, fun hw => ?_⟩,
      fun hv hp hd hn hb hon => ?_⟩,
    fun k rest hp hw he hd => ?_, fun k rest hp hw he hr => ?_, fun h => ?_, s.resetKillPhase_spec, fun h => ?_,
    s.resetClearPhase_spec, fun h => ?_, s.resetRestartPhase_spec⟩
  · rw [exec_resetGo p v s hl ho, State.resetSet_eq, if_pos (by simp [hv])]
    exact done_modRcv s _
  · rw [exec_resetGo p v s hl ho, State.resetSet_eq, if_neg (by simp [hv]), if_pos hp]
    exact done_modRcv s _
  · rw [exec_resetGo p v s hl ho, State.resetSet_eq, if_neg (by simp [hv]), if_neg (not_not.mpr hp), if_pos (by simp [hw, he])]
    exact done_modRcv s _
  · have begun := s.resetGo_begins p v hl ho hv hp (.inr he)
    rw [hw, hd] at begun
    obtain ⟨t, ht, rcv, reported, marks, only⟩ := State.begins_spec begun (State.only_modRcv s _)
    exact ⟨t, ht, rcv, reported, State.marked_one marks, only⟩
  · have begun := s.resetGo_begins p v hl ho hv hp (.inl hw)
    rw [hw, hd] at begun
    obtain ⟨t, ht, rcv, reported, marks, only⟩ := State.begins_spec begun (State.only_modRcv s _)
    exact ⟨t, ht, rcv, reported, State.marked_all marks, only⟩
  · have begun := s.resetGo_begins p v hl ho hv hp hn
    rw [hd] at begun
    exact State.begins_dump begun (State.only_modRcv s _) hb hon
  · have next := exec_resetAutoStart_next s hp hw
    rw [if_pos he, hd] at next
    obtain ⟨t, ht, rcv, reported, marks, only⟩ := State.begins_spec next (State.only_modRcv s _)
    exact ⟨t, ht, rcv, reported, State.marked_one marks, only⟩
  · have next := exec_resetAutoStart_next s hp hw
    rw [if_neg (by simp [he]), (s.nextAuto rest).retireDue_none [k] hr] at next
    exact next.trans (done_modRcv s _)
  · unfold exec execResetAutoStart
    dsimp only
    by_cases hp : s.rcv.phase ≠ 0
    · rw [if_pos hp, done_self]
    · rw [if_neg hp, h.resolve_left hp]
      exact done_self s
  · rw [exec_resetKillPhase, if_pos h, done_self]
  · rw [exec_resetClearPhase, if_neg (by simp [h]), done_self]

end Sys2Proof.Machine
end


section
/-! Command timeouts and the evacuation of a bank (13 R360, R365, R366). -/

namespace Sys2Proof.Machine

set_option Elab.async false

/-! ### Command timeouts (13 R360) -/

theorem exec_commandTimeout_admin {s : State} {r : Nat} (h : (s.task r).kind = .admin) :
    exec (.commandTimeout r) s = done s (s.stopList r 0x10) := congrArg (done s) (if_pos h)

theorem exec_commandTimeout_other {s : State} {r : Nat} (h : (s.task r).kind ≠ .admin) :
    exec (.commandTimeout r) s = done s (s.failTask r 0x10) := congrArg (done s) (if_neg h)

theorem Task.kind_of_killable {t : Task} (h : t.killable = true) : t.kind ≠ .admin := by
  unfold Task.killable at h
  simp only [Bool.and_eq_true, bne_iff_ne] at h
  exact h.2

/-- A command that changes one task. -/
theorem done_modTask (s : State) (r : Nat) (g : Task → Task) : ∃ t, done s (s.modTask r g) = .next t ∧ t.task r = g (s.task r) ∧
    (∀ q, q ≠ r → t.task q = s.task q) ∧ s.only t [.tasks, .cnt] := by
  obtain ⟨t, ht, -, -, keeps, only⟩ := done_spec s (s.modTask r g)
  have tasks := State.task_of (keeps .tasks (by decide))
  refine ⟨t, ht, ?_, fun q hq => ?_, only _ (by decide) (State.only_modTask s r g).sub⟩
  · rw [tasks, State.modTask_task_self]
  · rw [tasks, State.modTask_task_ne _ _ _ hq]

/-- A list that ends with a status before its next command. -/
def Task.listEnded (t : Task) (status : Nat) : Task :=
  { t with
    st := .committing, admBusy := false, ending := .admin, released := true, cstat := status
    summary := pack [(32, t.admDone), (8, 0)] }

theorem State.finishList_eq (s : State) (r status : Nat) :
    s.finishList r status 0 = (s.modTask r fun t => { t with st := .running }).modTask r fun t => t.listEnded status := rfl

theorem State.finishList_spec (s : State) (r status : Nat) : ∃ t, done s (s.finishList r status 0) = .next t ∧
    t.task r = (s.task r).listEnded status ∧ (∀ q, q ≠ r → t.task q = s.task q) ∧ s.only t [.tasks, .cnt] := by
  obtain ⟨t, ht, -, -, keeps, only⟩ := done_spec s (s.finishList r status 0)
  have tasks := State.task_of (keeps .tasks (by decide))
  rw [State.finishList_eq] at tasks only
  refine ⟨t, ht, ?_, fun q hq => ?_, only _ (by decide) (State.only_after (State.only_modTask _ r _).sub (State.only_modTask s r _).sub)⟩
  · rw [tasks, State.modTask_task_self, State.modTask_task_self]
    rfl
  · rw [tasks, State.modTask_task_ne _ _ _ hq, State.modTask_task_ne _ _ _ hq]

theorem Task.listEnded_idle (t : Task) (status : Nat) (h : t.admBusy = false) : t.listEnded status =
    { t with st := .committing, ending := .admin, released := true, cstat := status, summary := pack [(32, t.admDone), (8, 0)] } := by
  unfold Task.listEnded
  rw [h]

/-! ### The evacuation of a bank (13 R366) -/

/-- No partition's configuration changes. -/
def State.cfgKept (s t : State) : Prop := ∀ n, (t.part n).cfg = (s.part n).cfg

theorem State.cfgKept_refl (s : State) : s.cfgKept s := fun _ => rfl

theorem State.cfgKept_trans {s t u : State} (h : s.cfgKept t) (g : t.cfgKept u) : s.cfgKept u := fun n => (g n).trans (h n)

theorem State.cfgKept_of_only {s t : State} {l : List Field} (h : s.only t l) (hl : Field.parts ∉ l := by decide) : s.cfgKept t :=
  fun n => congrArg Part.cfg (State.part_of (h .parts hl) n)

theorem State.cfgKept_modPart (s : State) (n : Nat) (g : Part → Part) (h : ∀ p, (g p).cfg = p.cfg := by intro _; rfl) :
    s.cfgKept (s.modPart n g) := by
  intro m
  rw [State.modPart_part]
  split
  · next hm => rw [h, hm]
  · rfl

theorem State.cfgKept_each {α : Type} {g : State → α → State} (hg : ∀ u a, State.cfgKept u (g u a)) (l : List α) (s : State) :
    s.cfgKept (s.each l g) :=
  State.each_keeps (P := s.cfgKept) (fun u a hu => State.cfgKept_trans hu (hg u a)) l s s.cfgKept_refl

theorem State.culls.cfgKept {s t : State} (h : s.culls t) : s.cfgKept t := fun n => State.part_same h.kept Part.cfg n

theorem State.only_renamePage (s : State) (p q : PageRef) : s.only (s.renamePage p q) [.objs, .tasks, .sto] := by
  intro f hf
  cases f <;> first | rfl | simp at hf

theorem State.only_copyUnit (s : State) (a b : Nat) : s.only (s.copyUnit a b) [.sto] :=
  State.only_each _ (fun u _ => State.only_copyPage u _ _) _ s

theorem State.only_pkgPage {s t : State} {n : Nat} {p : PageRef} (h : s.pkgPage n = some (p, t)) : s.only t [.sto] := by
  obtain ⟨_, -, ht⟩ := Option.map_eq_some_iff.mp h
  rw [← (Prod.mk.inj ht).2]
  exact State.only_modSto s _

/-- A page's bytes and every name of it move to another page. -/
theorem State.only_movePage (s : State) (p q : PageRef) :
    s.only (((s.copyPage p q).renamePage p q).freePage p) [.objs, .tasks, .sto] := by
  have copy := s.only_copyPage p q
  generalize s.copyPage p q = t at *
  have rename := t.only_renamePage p q
  generalize t.renamePage p q = u at *
  exact State.only_after (u.only_freePage p).sub (State.only_after rename copy.sub)

theorem State.cfgKept_unpinPage (s : State) (n : Nat) (p : PageRef) : s.cfgKept (s.unpinPage n p) := State.cfgKept_modPart s n _

theorem State.cfgKept_evacPage (s : State) (n p : Nat) : s.cfgKept (s.evacPage n p) := by
  unfold State.evacPage
  split
  · next q u hu =>
    refine State.cfgKept_trans (State.cfgKept_of_only (State.only_pkgPage hu)) ?_
    exact State.cfgKept_trans (State.cfgKept_unpinPage u n _) (State.cfgKept_of_only (State.only_movePage _ _ _))
  · exact State.cfgKept_each (fun u _ => State.cfgKept_of_only (State.only_modSto u _)) _ s

theorem State.cfgKept_evacUnit (b : Nat) (s : State) (u : Nat) : s.cfgKept (s.evacUnit b u) := by
  unfold State.evacUnit
  split
  · exact State.cfgKept_refl s
  · next w _ =>
    split
    · next v _ =>
      have moved : s.only (((s.copyUnit u v).holdUnit v w).freeUnit u) [.sto] :=
        State.only_after (State.only_freeUnit _ _) (State.only_after (State.only_holdUnit _ _ _) (State.only_copyUnit s u v))
      refine State.cfgKept_trans (State.cfgKept_of_only moved) ?_
      generalize ((s.copyUnit u v).holdUnit v w).freeUnit u = t
      cases w.use with
      | pages => exact State.cfgKept_each (fun x i => State.cfgKept_of_only (State.only_renamePage x _ _)) _ t
      | shadow qk => exact State.cfgKept_of_only (State.only_modQueue t qk _)
      | taskState =>
          exact State.cfgKept_trans (State.cfgKept_each (fun x r => State.cfgKept_of_only (State.only_modTask x r _)) _ t)
            (State.cfgKept_modPart _ _ _)
      | convoy => exact State.cfgKept_modPart t _ _
    · cases w.use with
      | pages => exact State.cfgKept_each (fun x i => x.cfgKept_evacPage _ _) _ s
      | shadow qk =>
          exact State.cfgKept_of_only (State.only_after (l := [.queues, .sto]) (State.only_modSto _ _).sub
            (State.only_after (State.only_freeUnit _ _).sub (State.only_modQueue s qk _).sub))
      | taskState =>
          exact State.cfgKept_trans (State.culls_foldl State.culls_killRerun _ s).cfgKept (State.cfgKept_of_only (State.only_freeUnit _ _))
      | convoy =>
          exact State.cfgKept_trans (State.cfgKept_trans (State.culls_foldl State.culls_killRerun _ s).cfgKept (State.cfgKept_modPart _ _ _))
            (State.cfgKept_each (fun x v => State.cfgKept_of_only (State.only_freeUnit x v)) _ _)

/-- The held units of a bank. -/
def State.unitsOf (s : State) (bank : Nat) : List Nat := s.sto.units.filterMap fun u => if unitBank u.1 == bank then some u.1 else none

theorem State.mem_unitsOf (s : State) (bank u : Nat) (hb : unitBank u = bank) (hu : Tab.get none s.sto.units u ≠ none) : u ∈ s.unitsOf bank := by
  obtain ⟨w, hw⟩ := Option.ne_none_iff_exists'.mp hu
  exact List.mem_filterMap.mpr ⟨(u, some w), Tab.mem_of_get _ _ _ hw, if_pos (by simpa using hb)⟩

theorem State.freeUnit_units (s : State) (u v : Nat) : Tab.get none (s.freeUnit u).sto.units v = if v = u then none else Tab.get none s.sto.units v :=
  Tab.get_set none s.sto.units v u none

theorem State.each_freeUnit_none (s : State) (l : List Nat) (u : Nat) (h : u ∈ l) : Tab.get none (s.each l State.freeUnit).sto.units u = none :=
  State.each_reaches (P := fun x : State => Tab.get none x.sto.units u = none) h
    (fun x => by rw [State.freeUnit_units, if_pos rfl]) (fun x v hx => by rw [State.freeUnit_units, hx, ite_self]) s

/-- Before the bank leaves its partition. -/
def State.evacuated (s : State) (bank : Nat) : State :=
  (s.each (s.unitsOf bank) fun x u => x.evacUnit bank u).each (s.unitsOf bank) State.freeUnit

theorem exec_bankEvacuationDone (bank : Nat) (s : State) (h : (s.chan (ckey 3 bank)).evac = true) : exec (.bankEvacuationDone bank) s =
    done s (((s.evacuated bank).leavePart 3 bank).reportRetired 3 bank
      ((firstBelow (fun n => s.enabled n && bit (s.part n).banks bank) 64).getD 0xFF)) :=
  congrArg (done s) (if_neg (by rw [h]; decide))

/-- A retired bank leaves every enabled partition. -/
theorem State.leavePart_banks (s : State) (bank : Nat) : s.only (s.leavePart 3 bank) [.parts, .rcv] ∧
    ∀ n, s.enabled n = true → ((s.leavePart 3 bank).part n).banks = clrBit (s.part n).banks bank := by
  have part := State.each_part (f := fun p => { p with banks := clrBit p.banks bank }) (g := fun u n => u.modPart n fun p =>
    if (3 : Nat) = 1 then { p with engines := clrBit p.engines bank } else { p with banks := clrBit p.banks bank })
    (fun u n m => State.modPart_part u n _ m) ((List.range 64).filter s.enabled) (List.nodup_range.filter _) s
  have only := State.only_each (fun (u : State) n => u.modPart n fun p =>
    if (3 : Nat) = 1 then { p with engines := clrBit p.engines bank } else { p with banks := clrBit p.banks bank })
    (fun u n => State.only_modPart u n _) ((List.range 64).filter s.enabled) s
  unfold State.leavePart
  dsimp only
  generalize (s.each ((List.range 64).filter s.enabled) fun u n => u.modPart n fun p =>
    if (3 : Nat) = 1 then { p with engines := clrBit p.engines bank } else { p with banks := clrBit p.banks bank }) = t at *
  have banks : ∀ n, s.enabled n = true → (t.part n).banks = clrBit (s.part n).banks bank := by
    intro n hn
    have below : n < 64 := by
      unfold State.enabled at hn
      simp only [Bool.and_eq_true, decide_eq_true_eq] at hn
      exact hn.1
    rw [part, if_pos (List.mem_filter.mpr ⟨List.mem_range.mpr below, hn⟩)]
  simp only [show ¬(3 : Nat) = 1 by decide, if_false]
  split
  · exact ⟨State.only_after (State.only_modRcv t _).sub only.sub, banks⟩
  · exact ⟨only.sub, banks⟩

theorem bit_clrBit (v : W64) (n : Nat) : bit (clrBit v n) n = false := by
  unfold bit clrBit
  show (v &&& ~~~BitVec.ofNat 64 (2 ^ n)).getLsbD n = false
  by_cases hn : n < 64
  · rw [BitVec.getLsbD_and, BitVec.getLsbD_not, BitVec.getLsbD_ofNat, Nat.testBit_two_pow_self]
    simp [hn]
  · exact BitVec.getLsbD_of_ge _ _ (by omega)

/-- A channel reported retired. -/
theorem State.reportRetired_spec (s : State) (kind i n : Nat) : let t := s.reportRetired kind i n
    (t.chan (ckey kind i)).retired = true ∧ (t.chan (ckey kind i)).evac = false ∧
    s.only t [.chans, .geq, .cnt, .funcs, .out, .sto, .xl, .freeCtr, .objs] ∧
    ∀ u, Tab.get none s.sto.units u = none → Tab.get none t.sto.units u = none := by
  unfold State.reportRetired
  dsimp only
  have chan := State.modChan_chan_self s (ckey kind i) fun c => { c.idle with retired := true, evac := false }
  have only := State.only_modChan s (ckey kind i) fun c => { c.idle with retired := true, evac := false }
  generalize (s.modChan (ckey kind i) fun c => { c.idle with retired := true, evac := false }) = u at *
  have post := u.only_geqChannel 0x1B kind i n ((u.chan (ckey kind i)).view (u.hands (ckey kind i))).toNat
  have units : ∀ v, Tab.get none u.sto.units v = none → _ := (State.reaps_geqPost (r := 0) (f := id) u
    { geqRec 0x1B 4 with part := n, chanKind := kind, chanIndex := i, detail := ((u.chan (ckey kind i)).view (u.hands (ckey kind i))).toNat } none).units
  have same := State.chan_of (post .chans (by decide)) (ckey kind i)
  refine ⟨by rw [same, chan], by rw [same, chan], State.only_after post.sub only.sub, fun v hv => units v ?_⟩
  rw [only .sto (by decide)]
  exact hv

/-- Settles O50: what an evacuation leaves as it is in every case is the partitions' configurations. -/
theorem timeoutsAndEvacuation : Obligations.TimeoutsAndEvacuation := by
  intro r bank s
  refine ⟨fun hk => ?_, fun hk hl => ?_, fun hk hs => ⟨fun hb => ?_, fun hb => ?_⟩, fun he => ?_⟩
  · obtain ⟨t, ht, -, -, keeps⟩ := done_next s (s.failTask r 0x10)
    obtain ⟨st, after, gen, staged, drafts, thread, -⟩ := Task.killedBy_fields (s.failTask_spec r 0x10 hk)
    refine ⟨t, (exec_commandTimeout_other (Task.kind_of_killable hk)).trans ht, ?_⟩
    rw [State.task_of (keeps .tasks (by decide))]
    exact ⟨st, after, gen, staged, drafts, thread⟩
  · rw [exec_commandTimeout_other hk]
    unfold State.failTask
    rw [State.kill_of_not s r _ _ hl]
    exact done_self s
  · have stops : s.stopList r 0x10 = s.finishList r (if (s.task r).cstat = 0 then 0x10 else (s.task r).cstat) 0 := by
      unfold State.stopList
      rw [if_pos ⟨hk, hs⟩, if_neg (by simp [hb])]
    obtain ⟨t, ht, task, others, only⟩ := s.finishList_spec r (if (s.task r).cstat = 0 then 0x10 else (s.task r).cstat)
    rw [exec_commandTimeout_admin hk, stops]
    exact ⟨t, ht, task.trans (Task.listEnded_idle _ _ hb), others, only⟩
  · have stops : s.stopList r 0x10 = s.modTask r fun t => { t.met 0x10 0 with admStop := true } := by
      unfold State.stopList
      rw [if_pos ⟨hk, hs⟩, if_pos hb]
    rw [exec_commandTimeout_admin hk, stops]
    exact done_modTask s r _
  · have cfg : s.cfgKept (s.evacuated bank) := State.cfgKept_trans (State.cfgKept_each (State.cfgKept_evacUnit bank) _ s)
      (State.cfgKept_each (fun x v => State.cfgKept_of_only (State.only_freeUnit x v)) _ _)
    have free := fun u hu => (s.each (s.unitsOf bank) fun x u => x.evacUnit bank u).each_freeUnit_none (s.unitsOf bank) u hu
    have same : (s.each (s.unitsOf bank) fun x u => x.evacUnit bank u).each (s.unitsOf bank) State.freeUnit = s.evacuated bank := rfl
    rw [same] at free
    have he' := exec_bankEvacuationDone bank s he
    generalize s.evacuated bank = u at *
    obtain ⟨leave, banks⟩ := u.leavePart_banks bank
    generalize u.leavePart 3 bank = v at *
    obtain ⟨retired, evac, only, units⟩ := v.reportRetired_spec 3 bank ((firstBelow (fun n => s.enabled n && bit (s.part n).banks bank) 64).getD 0xFF)
    generalize v.reportRetired 3 bank ((firstBelow (fun n => s.enabled n && bit (s.part n).banks bank) 64).getD 0xFF) = x at *
    obtain ⟨t, ht, -, -, keeps⟩ := done_next s x
    have chans := State.chan_of (keeps .chans (by decide))
    refine ⟨t, he'.trans ht, by rw [chans]; exact retired, by rw [chans]; exact evac, fun w hb hw => ?_, fun n hn => ?_⟩
    · rw [keeps .sto (by decide)]
      refine units w ?_
      rw [leave .sto (by decide)]
      exact free w (s.mem_unitsOf bank w hb hw)
    · have enabled : u.enabled n = true := by
        unfold State.enabled at hn ⊢
        rw [cfg n]
        exact hn
      rw [State.part_of (keeps .parts (by decide)), State.part_of (only .parts (by decide)), banks n enabled]
      exact bit_clrBit _ _

end Sys2Proof.Machine
end


section
/-! Slices, drains and LOOP_RESTART (08 R218 to R228, R243; 13 R369). -/

namespace Sys2Proof.Machine

set_option Elab.async false

/-! ### The start of a slice (08 R218, R219, R226) -/

theorem nodup_bitsOf (n : Nat) (v : W64) : (bitsOf n v).Nodup := List.nodup_range.filter _

theorem chooseJob_mem (prev : Nat) : ∀ (l : List JobRec) (x : JobRec), chooseJob prev l = some x → x ∈ l := by
  intro l
  induction l with
  | nil => exact fun x h => nomatch h
  | cons y l ih =>
      intro x h
      unfold chooseJob at h
      split at h
      · rw [← Option.some.inj h]
        exact List.mem_cons_self
      · next z hz =>
        split at h
        · rw [← Option.some.inj h]
          exact List.mem_cons_of_mem _ (ih z hz)
        · rw [← Option.some.inj h]
          exact List.mem_cons_self

/-- A change of single ports, of each port of a list. -/
theorem State.each_eport (f : EPort → EPort) (l : List Nat) (hl : l.Nodup) :
    ∀ (s : State) (k : Nat), (s.each l fun u k => u.modPort k f).eport k = if k ∈ l then f (s.eport k) else s.eport k := by
  induction l with
  | nil => exact fun s k => by rw [if_neg (by simp)]; rfl
  | cons n l ih =>
      intro s k
      obtain ⟨fresh, rest⟩ := List.nodup_cons.mp hl
      refine (ih rest (s.modPort n f) k).trans ?_
      rw [State.modPort_eport]
      by_cases hk : k = n
      · subst hk
        rw [if_neg fresh, if_pos rfl, if_pos List.mem_cons_self]
      · simp [hk]

/-- A partition whose slice begins for a job of a queue's weight set and ageing policy. -/
def Part.beginning (p : Part) (x : JobRec) (w : Nat) (kv : W32) : Part :=
  { p with
    running := true, job := some x.job, slices := (p.slices + 1) % 2 ^ 32, prev := some x.vf, schVf := x.vf, schGroup := x.job.group
    curSliceUs := p.sliceUs, jobWset := w, jobKv := kv, clearWait := false, chosen := none
    wsValid := p.wsValid && p.wsVf == x.vf && p.wsTag == w && w != 0
    cvy := { p.cvy with num := 0, hold := false, restart := p.cvy.restart || p.cvy.due || p.cvy.newJob x.job x.vf w, due := false } }

/-- The usable ports of a partition run a VF last. -/
def State.portsRun (s : State) (n vf : Nat) : State :=
  s.each ((s.portsOf n).filter fun k => (s.eport k).usable) fun u k => u.modPort k fun e => { e with lastVf := some vf }

theorem State.beginSlice_eq (s : State) (n : Nat) (x : JobRec) : ∃ w kv, s.beginSlice n x =
    ((s.modPart n fun p => p.beginning x w kv).portsRun n x.vf).tick 0x032 (some n) := ⟨_, _, rfl⟩

theorem State.portsRun_spec (s : State) (n vf : Nat) : s.only (s.portsRun n vf) [.ports] ∧ ∀ k, (s.portsRun n vf).eport k =
    if k ∈ s.portsOf n ∧ (s.eport k).usable = true then { s.eport k with lastVf := some vf } else s.eport k := by
  refine ⟨State.only_each _ (fun u k => State.only_modPort u k _) _ s, fun k => ?_⟩
  have ports := State.each_eport (fun e => { e with lastVf := some vf }) ((s.portsOf n).filter fun k => (s.eport k).usable)
    ((nodup_bitsOf 64 _).filter _) s k
  simp only [List.mem_filter] at ports
  exact ports

theorem State.beginSlice_spec (s : State) (n : Nat) (x : JobRec) : let t := s.beginSlice n x
    (∃ w kv, t.part n = (s.part n).beginning x w kv) ∧ (∀ m, m ≠ n → t.part m = s.part m) ∧
    (∀ k, t.eport k = if k ∈ s.portsOf n ∧ (s.eport k).usable = true then { s.eport k with lastVf := some x.vf } else s.eport k) ∧
    s.only t [.parts, .ports, .cnt] := by
  obtain ⟨w, kv, eq⟩ := s.beginSlice_eq n x
  dsimp only
  rw [eq]
  have self := State.modPart_part_self s n fun p => p.beginning x w kv
  have others := fun m hm => State.modPart_part_ne (j := m) s n (fun p => p.beginning x w kv) hm
  have only := State.only_modPart s n fun p => p.beginning x w kv
  generalize (s.modPart n fun p => p.beginning x w kv) = u at *
  obtain ⟨ports, eport⟩ := u.portsRun_spec n x.vf
  generalize u.portsRun n x.vf = v at *
  have tick := v.only_tick 0x032 (some n)
  generalize v.tick 0x032 (some n) = t at *
  have parts : ∀ m, t.part m = u.part m := State.part_of ((tick .parts (by decide)).trans (ports .parts (by decide)))
  have same : u.portsOf n = s.portsOf n := by
    unfold State.portsOf
    rw [self]
    rfl
  refine ⟨⟨w, kv, (parts n).trans self⟩, fun m hm => (parts m).trans (others m hm), fun k => ?_,
    State.only_after tick.sub (State.only_after ports.sub only.sub)⟩
  rw [State.eport_of (tick .ports (by decide)), eport, same, State.eport_of (only .ports (by decide))]

theorem exec_sliceBegin_next {n : Nat} {s : State} (he : s.enabled n = true) (hb : s.between n = true) (hs : s.starved n = false)
    (hr : s.resizeDue n = false) (hc : (s.part n).clearWait = false) : exec (.sliceBegin n) s = done s (s.nextSlice n) := by
  have chosen : s.chosenJob n = none := by
    unfold State.chosenJob
    rw [hc]
    rfl
  unfold exec execSliceBegin
  dsimp only
  rw [if_neg (by simp [he, hb, hs, hr]), chosen]

/-! ### The end of a slice (08 R219, R223, R224) -/

theorem State.reaps_killPreempt (s : State) (r : Nat) : s.reaps r Task.dead (s.killPreempt r) := by
  by_cases h : (s.task r).killable = true ∧ (s.task r).st = .running
  · exact (State.killPreempt_spec s r h.1 h.2).1
  · rw [State.killPreempt_of_not s r h]
    exact State.reaps_refl s

/-- A slice that has ended: its partition drains, and in native mode its running tasks are killed. -/
def State.sliceEnded (s : State) (n : Nat) (t : State) : Prop := (s.part n).running = true → (t.part n).running = false ∧
  (t.part n).draining = true ∧ (t.part n).job = (s.part n).job ∧ (s.verkai n = true → t.tasks = s.tasks) ∧
  (s.verkai n = false → ∀ r, (s.task r).part = n → (s.task r).st = .running → (s.task r).kind ≠ .admin →
    (t.task r).st = .killed ∧ (t.task r).after = some (s.task r).preemptAfter)

theorem State.endSlice_spec (s : State) (n : Nat) : s.sliceEnded n (s.endSlice n) ∧
    ((s.endSlice n).part n).sliceUs = (s.part n).sliceUs := by
  cases hr : (s.part n).running with
  | false =>
      rw [State.endSlice_of_not s n hr]
      exact ⟨fun h => absurd (hr.symm.trans h) (by decide), rfl⟩
  | true =>
      have culls := s.culls_endSlice n hr
      have part : (s.sliceOver n).part n = { s.part n with running := false, draining := true, jobs := (s.part n).jobs.map (s.waitsAnew n) } :=
        State.modPart_part_self s n fun p => { p with running := false, draining := true, jobs := p.jobs.map (s.waitsAnew n) }
      have tasks := State.task_of (s.only_sliceOver n .tasks (by decide))
      have mode : (s.sliceOver n).verkai n = s.verkai n := by
        unfold State.verkai
        rw [part]
      have all := s.only_sliceOver n .tasks (by decide)
      have eq := s.endSlice_eq n hr
      have kills := fun q (hq : q ∈ (s.sliceOver n).runningOf n) (hk : ((s.sliceOver n).task q).killable = true)
          (hs : ((s.sliceOver n).task q).st = .running) =>
        State.killed_of_mem_one (a := ((s.sliceOver n).task q).preemptAfter) State.culls_killPreempt State.reaps_killPreempt
          (fun u _ hf => by
            have again : (u.task q).preemptAfter = ((s.sliceOver n).task q).preemptAfter := Task.fewerOps_same hf Task.preemptAfter
            rw [← again]
            exact Task.killedBy_trans hf (State.killPreempt_spec u q (by rw [Task.fewerOps_killable hf]; exact hk)
              (by rw [Task.fewerOps_same hf Task.st]; exact hs)).2) _ hq
      generalize s.sliceOver n = u at *
      rw [mode] at eq
      refine ⟨fun _ => ⟨?_, ?_, ?_, fun hv => ?_, fun hv r hp hs ha => ?_⟩, ?_⟩
      · rw [State.part_same culls.kept Part.running, part]
      · rw [State.part_same culls.kept Part.draining, part]
      · rw [State.part_same culls.kept Part.job, part]
      · rw [eq, if_pos hv]
        exact all
      · rw [← tasks r] at hp hs ha
        have killable : (u.task r).killable = true := by
          unfold Task.killable
          rw [hs]
          simpa using ha
        have listed : r ∈ u.runningOf n := State.mem_recsWhere u _ r (by rw [hp, hs]; simpa using ha) (by simp)
        obtain ⟨st, after, -⟩ := Task.killedBy_fields (kills r listed killable hs)
        rw [eq, if_neg (by simp [hv]), ← tasks r]
        exact ⟨st, after⟩
      · rw [State.part_same culls.kept Part.sliceUs, part]

/-- The end of a slice is one for whatever agrees with it in its partition and its tasks. -/
theorem State.sliceEnded.of_same {s u t w : State} {n : Nat} (h : u.sliceEnded n t) (hw : t.only w [.cnt, .pending, .latch])
    (running : (u.part n).running = (s.part n).running) (job : (u.part n).job = (s.part n).job) (cfg : (u.part n).cfg = (s.part n).cfg)
    (tasks : u.tasks = s.tasks) : s.sliceEnded n w := by
  intro hr
  obtain ⟨r, d, j, v, k⟩ := h (running.trans hr)
  have mode : u.verkai n = s.verkai n := by
    unfold State.verkai
    rw [cfg]
  rw [State.part_of (hw .parts (by decide))]
  refine ⟨r, d, j.trans job, fun hv => (hw .tasks (by decide)).trans ((v (mode.trans hv)).trans tasks), fun hv q hp hs ha => ?_⟩
  rw [State.task_of (hw .tasks (by decide)), ← State.task_of tasks]
  rw [← State.task_of tasks] at hp hs ha
  exact k (mode.trans hv) q hp hs ha

/-! ### Registers of a slice (08 R219, R221, R243) -/

theorem bit_mergeField (a v m : W64) {i : Nat} (hi : i < 64) (hm : bit m i = true) : bit (merge a v m) i = bit v i := by
  have mask : m[i] = true := (BitVec.getElem_eq_testBit_toNat m i hi).trans hm
  show (merge a v m).getLsbD i = v.getLsbD i
  simp [merge, mask, hi]

theorem sliceUs_merge (a v : W64) : fld (merge a v (allBits &&& ones 19 0)) 19 0 = fld v 19 0 :=
  fld_eq_of_bits fun i hi => bit_mergeField a v _ (by omega) (by
    rw [show allBits &&& ones 19 0 = ones 19 0 by decide]
    interval_cases i <;> decide)

theorem State.sliceSet_endNow (s : State) (p n : Nat) (v : W64) (hv : bit v 31 = true) (hl : 100 ≤ fld v 19 0) (hh : fld v 19 0 ≤ 1000000) :
    s.sliceSet p n v allBits = (s.modPart n fun q => { q with sliceUs := fld v 19 0 }).endSlice n := by
  unfold State.sliceSet
  dsimp only
  rw [sliceUs_merge, if_neg (by omega), bit_and_allBits, if_pos hv]

theorem State.loopSet_restart (s : State) (p n : Nat) (v : W64) (hv : bit v 32 = true)
    (ho : loopOk (merge (s.part n).cvy.cfg v (ones 63 48 ||| ones 31 31 ||| ones 16 0)) (s.part n).cvy.lim = true) :
    ∃ g : Part → Part, s.loopSet p n 0 v allBits = s.modPart n g ∧ ∀ q, (g q).cvy.restart = true ∧ (g q).cvy.c = q.cvy.c ∧
      (g q).cvy.f = q.cvy.f ∧ (g q).seqr = q.seqr := by
  unfold State.loopSet
  simp only [if_true, show ¬(0 : Nat) = 0x08 by decide, if_false, allBits_and]
  rw [if_neg (by simp [ho]), bit_and_allBits, hv]
  exact ⟨_, rfl, fun q => ⟨by simp, rfl, rfl, rfl⟩⟩

/-! ### The end of a drain (08 R223, R228) -/

theorem State.each_freeUnit_units (l : List Nat) : ∀ (s : State) (u : Nat),
    Tab.get none (s.each l State.freeUnit).sto.units u = if u ∈ l then none else Tab.get none s.sto.units u := by
  induction l with
  | nil => exact fun s u => by rw [if_neg (by simp)]; rfl
  | cons v l ih =>
      intro s u
      refine (ih (s.freeUnit v) u).trans ?_
      rw [State.freeUnit_units]
      by_cases hu : u = v
      · simp [hu]
      · simp [hu]

theorem State.dropConvoy_units (s : State) (n u : Nat) : Tab.get none (s.dropConvoy n).sto.units u =
    if u ∈ (s.part n).cvy.units then none else Tab.get none s.sto.units u := State.each_freeUnit_units _ _ u

/-- The drain of a partition is over, but for what its boundary brings. -/
def State.drainEnded (s : State) (n : Nat) : State := (s.dropConvoy n).modPart n fun p => { p with draining := false, job := none }

theorem exec_drainComplete_over {s : State} {n : Nat} (hi : s.idleEnd n = s) (hd : (s.part n).draining = true) (hr : s.resetHolds n = false)
    (ho : s.drainOver n = true) (hk : s.rerunsDue n = false) :
    exec (.drainComplete n) s = done s ((((s.drainEnded n).resizeAt n).fwSwap n).oneBump s.sec.reportGen) := by
  unfold exec execDrainComplete
  dsimp only
  rw [hi, if_pos (by simp [hd, hr, ho, hk])]
  rfl

theorem State.resizeAt_idle (s : State) (n : Nat) (h : s.rcv.rszPhase ≠ 0 → s.rcv.src ≠ some n ∧ s.rcv.dst ≠ some n) : s.resizeAt n = s := by
  have src : (s.srcReady && s.rcv.src == some n) = false := by
    unfold State.srcReady
    by_cases hp : s.rcv.rszPhase = 0
    · simp [hp]
    · simp [(h hp).1]
  have dst : (s.dstReady && s.rcv.dst == some n) = false := by
    unfold State.dstReady
    by_cases hp : s.rcv.rszPhase = 0
    · simp [hp]
    · simp [(h hp).2]
  unfold State.resizeAt
  rw [if_neg (by simp [src]), if_neg (by simp [dst])]

theorem State.drainEnded_spec (s : State) (n : Nat) : s.only (s.drainEnded n) [.parts, .sto] ∧
    (s.drainEnded n).part n = { s.part n with draining := false, job := none
                                              cvy := { (s.part n).cvy with units := [], members := [], run := none, hold := false } } ∧
    (∀ m, m ≠ n → (s.drainEnded n).part m = s.part m) ∧
    ∀ u, Tab.get none (s.drainEnded n).sto.units u = if u ∈ (s.part n).cvy.units then none else Tab.get none s.sto.units u := by
  refine ⟨State.only_after (State.only_modPart _ n _).sub (s.only_dropConvoy n), ?_, fun m hm => ?_, fun u => s.dropConvoy_units n u⟩
  · unfold State.drainEnded
    rw [State.modPart_part_self, State.dropConvoy_part, if_pos rfl]
  · unfold State.drainEnded
    rw [State.modPart_part_ne _ _ _ hm, State.dropConvoy_part, if_neg hm]

theorem exec_endNow {p n : Nat} {v : W64} {s : State} (hl : (s.func (pfKey p)).linkUp = true) (ho : s.boot.operator = some p) (hn : n < 64) :
    exec (.endNow p n v) s = done s (s.sliceSet p n v allBits) := by
  have op : exec (.endNow p n v) s = done s (s.opWrite p (partOff n 0x28) fun t => if n < 64 then t.sliceSet p n v allBits else t) := rfl
  rw [op, State.opWrite_op s p _ _ hl ho, if_pos hn]

theorem exec_loopRestart {p n : Nat} {v : W64} {s : State} (hl : (s.func (pfKey p)).linkUp = true) (ho : s.boot.operator = some p) (hn : n < 64) :
    exec (.loopRestart p n v) s = done s (s.loopSet p n 0 v allBits) := by
  have op : exec (.loopRestart p n v) s = done s (s.opWrite p (0x84000 + n * 0x40) fun t => if n < 64 then t.loopSet p n 0 v allBits else t) := rfl
  rw [op, State.opWrite_op s p _ _ hl ho, if_pos hn]

theorem Geq.put_ring (g : Geq) (now : Nat) (r : GeqRec) (k : Option GKey) :
    (g.put now r k).ring = Tab.set none g.ring (g.tail % 4096) (some r) := rfl

theorem State.geqPost_ring (s : State) (r : GeqRec) (hf : s.geq.full = false) :
    (s.geqPost r none).geq.ring = Tab.set none s.geq.ring (s.geq.tail % 4096) (some (s.geqStamped r none)) := by
  rw [s.geqPost_geq r none rfl hf, Geq.put_ring]

theorem exec_drainTimeout_due {n : Nat} {s : State} (hd : (s.part n).draining = true) (hr : s.resetHolds n = false) (hw : n ∉ s.rcv.waiting) :
    exec (.drainTimeout n) s =
      done s ((s.geqPost { geqRec 0x10 5 with part := n } none).modRcv fun x => { x with waiting := insertRising x.waiting n }) := by
  show execDrainTimeout n s = _
  unfold execDrainTimeout
  rw [if_pos (by simp [hd, hr, hw])]

/-- Settles O45: a slice begins with a change of its partition and its ports, and ends with one and the kills that it brings. -/
theorem slices : Obligations.Slices := by
  intro n p v s
  refine ⟨fun j he hb hs hr hc hj hf => ?_, ?_, fun ⟨hl, ho, hn⟩ hv hlo hhi => ?_, fun ⟨hl, ho, hn⟩ hv hok => ?_, fun hr hd hh ho hk ht hz => ?_,
    fun hd hh hw => ?_⟩
  · have next : s.nextSlice n = s.beginSlice n j := by
      unfold State.nextSlice
      rw [hj]
      dsimp only
      rw [hf]
    obtain ⟨⟨w, kv, part⟩, others, ports, only⟩ := s.beginSlice_spec n j
    rw [exec_sliceBegin_next he hb hs hr hc, next]
    generalize s.beginSlice n j = t at *
    refine ⟨t, done_parts only (congrArg Boot.power (only .boot (by decide))) fun m => ?_, chooseJob_mem _ _ _ hj, by rw [part]; rfl,
      by rw [part]; rfl, by rw [part]; rfl, by rw [part]; rfl, by rw [part]; rfl, ports, others, only⟩
    by_cases hm : m = n
    · rw [hm, part]
      rfl
    · rw [others m hm]
  · obtain ⟨t, ht, -, -, keeps⟩ := done_next s (s.endSlice n)
    refine ⟨t, ht, (s.endSlice_spec n).1.of_same keeps rfl rfl rfl rfl, fun hr => ?_⟩
    rw [State.endSlice_of_not s n hr] at ht
    exact (Host.Outcome.next.inj ((done_self s).symm.trans ht)).symm
  · have eq : exec (.endNow p n v) s = done s ((s.modPart n fun q => { q with sliceUs := fld v 19 0 }).endSlice n) := by
      rw [exec_endNow hl ho hn, s.sliceSet_endNow p n v hv hlo hhi]
    have self := State.modPart_part_self s n fun q => { q with sliceUs := fld v 19 0 }
    have tasks : (s.modPart n fun q => { q with sliceUs := fld v 19 0 }).tasks = s.tasks := rfl
    rw [eq]
    generalize (s.modPart n fun q => { q with sliceUs := fld v 19 0 }) = u at *
    obtain ⟨ended, us⟩ := u.endSlice_spec n
    obtain ⟨t, ht, -, -, keeps⟩ := done_next s (u.endSlice n)
    refine ⟨t, ht, ended.of_same keeps (by rw [self]) (by rw [self]) (by rw [self]) tasks, ?_⟩
    rw [State.part_of (keeps .parts (by decide)), us, self]
  · obtain ⟨g, eq, fields⟩ := s.loopSet_restart p n v hv hok
    obtain ⟨restart, c, f, seqr⟩ := fields (s.part n)
    have he : exec (.loopRestart p n v) s = done s (s.modPart n g) := by rw [exec_loopRestart hl ho hn, eq]
    have only := State.only_modPart s n g
    refine ⟨s.modPart n g, he.trans (done_parts only rfl fun m => ?_), ?_, ?_, ?_, fun m hm => State.modPart_part_ne s n g hm, only⟩
    · rw [State.modPart_part]
      split
      · next hm => rw [seqr, hm]
      · rfl
    · rw [State.modPart_part_self, restart]
    · rw [State.modPart_part_self, c]
    · rw [State.modPart_part_self, f]
  · have idle : s.idleEnd n = s := s.idleEnd_of_calm n fun h => absurd (hr.symm.trans h) (by decide)
    obtain ⟨only, part, others, units⟩ := s.drainEnded_spec n
    rw [exec_drainComplete_over idle hd hh ho hk]
    generalize s.drainEnded n = u at *
    have rcv : u.rcv = s.rcv := only .rcv (by decide)
    have sec : u.sec = s.sec := only .sec (by decide)
    have swap : u.fwSwap n = u := by
      unfold State.fwSwap
      refine if_pos ?_
      unfold State.toSwitch at ht ⊢
      rw [sec, ht]
      rfl
    have bump : u.oneBump s.sec.reportGen = u := if_pos (by rw [sec])
    rw [u.resizeAt_idle n (by rw [rcv]; exact hz), swap, bump]
    refine ⟨u, done_parts only (congrArg Boot.power (only .boot (by decide))) fun m => ?_, by rw [part], by rw [part], by rw [part], by rw [part],
      units, others, only⟩
    by_cases hm : m = n
    · rw [hm, part]
    · rw [others m hm]
  · have he : exec (.drainTimeout n) s =
        done s ((s.geqPost { geqRec 0x10 5 with part := n } none).modRcv fun x => { x with waiting := insertRising x.waiting n }) :=
      congrArg (done s) (if_pos (by simp [hd, hh, hw]))
    have post := s.only_geqPost { geqRec 0x10 5 with part := n } none
    have ring := s.geqPost_ring { geqRec 0x10 5 with part := n }
    rw [he]
    generalize s.geqPost { geqRec 0x10 5 with part := n } none = u at *
    have only : s.only (u.modRcv fun x => { x with waiting := insertRising x.waiting n })
        [.geq, .rcv, .cnt, .funcs, .out, .sto, .xl, .freeCtr, .objs] := State.only_after (State.only_modRcv u _).sub post.sub
    refine ⟨_, done_of_only only (congrArg Boot.power (only .boot (by decide))), ?_, fun hf => ?_, only⟩
    · rw [State.modRcv_rcv]
      exact (insertRising_mem _ _ _).mpr (.inl rfl)
    · rw [State.modRcv_geq]
      exact ring hf

end Sys2Proof.Machine
end


section
/-! Armed slots (12 R345, R349). -/

namespace Sys2Proof.Machine

set_option Elab.async false

theorem not_not_of_true {b : Bool} (h : b = true) : ¬(!b) = true := by simp [h]

theorem not_of_false {b : Bool} (h : b = false) : (!b) = true := by simp [h]

/-- The lanterns other than slot `k`'s of function `fk`. -/
def State.lansBut (s : State) (fk k : Nat) : List Lantern := s.wps.lans.filter fun l => l.kind != .slot fk k

/-- The slot's lantern is out. -/
def State.slotOut (s : State) (fk k : Nat) : State := s.modWps fun w => { w with lans := w.lans.filter fun l => l.kind != .slot fk k }

/-- A slot with target `v`, armed or not. -/
def Slot.aim (x : Slot) (v : W64) (armed : Bool) : Slot := { x with target := v, armed := armed }

/-- The lantern of a slot that waits for `v`. -/
def State.slotLantern (s : State) (fk k : Nat) (v : W64) : Lantern :=
  ⟨wpIndex (Tab.get {} (s.func fk).slots k : Slot).handle, v, .slot fk k⟩

theorem State.setArm_slot (s : State) (fk k : Nat) (v : W64) (b : Bool) :
    (Tab.get {} ((s.setArm fk k v b).func fk).slots k : Slot) = (Tab.get {} (s.func fk).slots k : Slot).aim v b := by
  rw [State.setArm, State.modFunc_func_self]
  exact Tab.get_set_self _ _ _ _

theorem State.only_setArm (s : State) (fk k : Nat) (v : W64) (b : Bool) : s.only (s.setArm fk k v b) [.funcs] :=
  State.only_modFunc s _ _

theorem State.setArm_other (s : State) (fk k : Nat) (v : W64) (b : Bool) {j : Nat} (h : j ≠ fk) :
    (s.setArm fk k v b).func j = s.func j := State.modFunc_func_ne s _ _ h

theorem State.setArm_pend (s : State) (fk k : Nat) (v : W64) (b : Bool) :
    ((s.setArm fk k v b).func fk).pend = (s.func fk).pend := by
  rw [State.setArm, State.modFunc_func_self]

theorem State.signalVec_other (s : State) (f v : Nat) {j : Nat} (h : j ≠ f) : (s.signalVec f v).func j = s.func j := by
  unfold State.signalVec
  split
  · rfl
  · exact State.modFunc_func_ne s _ _ h

theorem State.signalVec_slots (s : State) (f v j : Nat) : ((s.signalVec f v).func j).slots = (s.func j).slots := by
  by_cases hj : j = f
  · subst hj
    unfold State.signalVec
    split
    · rfl
    · rw [State.modFunc_func_self]
  · rw [State.signalVec_other s f v hj]

/-- A vector is signalled by a message or by a pending bit (03 R92). -/
theorem State.signalVec_sends (s : State) (f v : Nat) :
    (s.signalVec f v).out = .msix f v :: s.out ∨ ((s.signalVec f v).func f).pend = setBit (s.func f).pend v := by
  have h := State.signalVec_spec s f v
  split at h
  · exact .inl h.1
  · exact .inr h.1

/-- The state after slot `k`'s target proved to be reached (12 R345). -/
def State.slotHit (s : State) (fk k : Nat) (v : W64) (vec : Nat) : State :=
  (((s.slotOut fk k).setArm fk k v false).signalVec fk vec).tick 0x1D0 none

/-- The state in which slot `k` waits for its target (12 R345). -/
def State.slotArmed (s : State) (fk k : Nat) (v : W64) : State :=
  ((s.slotOut fk k).setArm fk k v true).modWps fun w => { w with lans := w.lans ++ [s.slotLantern fk k v] }

theorem State.armSlot_hit (s : State) (fk k : Nat) (v : W64) (hw : s.waitOk fk (Tab.get {} (s.func fk).slots k : Slot).handle = true)
    (h : (s.wp (wpIndex (Tab.get {} (s.func fk).slots k : Slot).handle)).poisoned = false ∧
      atOrBeyond (s.wp (wpIndex (Tab.get {} (s.func fk).slots k : Slot).handle)).value v = true) :
    s.armSlot fk k v = s.slotHit fk k v (Tab.get {} (s.func fk).slots k : Slot).vector :=
  (if_neg (not_not_of_true hw)).trans (if_pos h)

theorem State.armSlot_arms (s : State) (fk k : Nat) (v : W64) (hw : s.waitOk fk (Tab.get {} (s.func fk).slots k : Slot).handle = true)
    (h : ¬((s.wp (wpIndex (Tab.get {} (s.func fk).slots k : Slot).handle)).poisoned = false ∧
      atOrBeyond (s.wp (wpIndex (Tab.get {} (s.func fk).slots k : Slot).handle)).value v = true)) :
    s.armSlot fk k v = s.slotArmed fk k v :=
  (if_neg (not_not_of_true hw)).trans (if_neg h)

theorem State.armSlot_refused (s : State) (fk k : Nat) (v : W64)
    (hw : s.waitOk fk (Tab.get {} (s.func fk).slots k : Slot).handle = false) : s.armSlot fk k v = s.wpCount fk false :=
  if_pos (not_of_false hw)

theorem State.only_slotHit (s : State) (fk k : Nat) (v : W64) (vec : Nat) :
    s.only (s.slotHit fk k v vec) [.funcs, .wps, .out, .cnt] :=
  State.only_trans (State.only_trans (State.only_modWps s _).sub (State.only_setArm _ fk k v false).sub)
    (State.only_trans (State.only_signalVec _ fk vec).sub (State.only_tick _ _ _).sub)

theorem State.only_slotArmed (s : State) (fk k : Nat) (v : W64) : s.only (s.slotArmed fk k v) [.funcs, .wps] :=
  State.only_trans (State.only_trans (State.only_modWps s _).sub (State.only_setArm _ fk k v true).sub) (State.only_modWps _ _).sub

theorem State.slotHit_spec (s : State) (fk k : Nat) (v : W64) (vec : Nat) :
    let t := s.slotHit fk k v vec
    (Tab.get {} (t.func fk).slots k : Slot) = (Tab.get {} (s.func fk).slots k : Slot).aim v false ∧
      t.wps = { s.wps with lans := s.lansBut fk k } ∧ (∀ j, j ≠ fk → t.func j = s.func j) ∧
      (t.out = .msix fk vec :: s.out ∨ (t.func fk).pend = setBit (s.func fk).pend vec) := by
  have fin := State.only_tick (((s.slotOut fk k).setArm fk k v false).signalVec fk vec) 0x1D0 none
  have funcs := State.func_of (fin .funcs (by decide))
  have out := fin .out (by decide)
  refine ⟨?_, ?_, fun j hj => ?_, ?_⟩
  · rw [State.slotHit, funcs, State.signalVec_slots, State.setArm_slot]
    rfl
  · exact (fin .wps (by decide)).trans ((State.only_signalVec _ fk vec .wps (by decide)).trans rfl)
  · exact (funcs j).trans ((State.signalVec_other _ _ _ hj).trans (State.setArm_other _ fk k v false hj))
  · have sends := State.signalVec_sends ((s.slotOut fk k).setArm fk k v false) fk vec
    rw [State.setArm_pend] at sends
    refine sends.imp (fun h => Eq.trans out h) fun h => ?_
    exact Eq.trans (congrArg Func.pend (funcs fk)) h

theorem State.slotArmed_spec (s : State) (fk k : Nat) (v : W64) :
    let t := s.slotArmed fk k v
    (Tab.get {} (t.func fk).slots k : Slot) = (Tab.get {} (s.func fk).slots k : Slot).aim v true ∧
      t.wps = { s.wps with lans := s.lansBut fk k ++ [s.slotLantern fk k v] } ∧ ∀ j, j ≠ fk → t.func j = s.func j :=
  ⟨State.setArm_slot (s.slotOut fk k) fk k v true, rfl, fun _ hj => State.setArm_other (s.slotOut fk k) fk k v true hj⟩

theorem exec_wpArm (s : State) (w : Window) (k fk : Nat) (v : W64) (h : s.winFunc w = some fk) :
    exec (.wpArm w k v) s = done s (s.armSlot fk k v) := by
  show execWpArm w k v s = _
  unfold execWpArm
  rw [h]

/-- Settles O39: the reached target signals at once, any other arms the slot, and a handle that is not available is counted. -/
theorem armedSlots : Obligations.ArmedSlots := by
  unfold Obligations.ArmedSlots
  intro w k fk v s hw
  rw [exec_wpArm s w k fk v hw]
  refine ⟨fun ok => ?_, fun no hk => ?_⟩
  · by_cases hit : (s.wp (wpIndex (Tab.get {} (s.func fk).slots k : Slot).handle)).poisoned = false ∧
        atOrBeyond (s.wp (wpIndex (Tab.get {} (s.func fk).slots k : Slot).handle)).value v = true
    · rw [State.armSlot_hit s fk k v ok hit]
      obtain ⟨slot, wps, others, sent⟩ := State.slotHit_spec s fk k v (Tab.get {} (s.func fk).slots k : Slot).vector
      have only := State.only_slotHit s fk k v (Tab.get {} (s.func fk).slots k : Slot).vector
      refine ⟨_, done_of_only only ?_, fun _ => ⟨slot, wps, sent⟩, fun n => absurd hit n, others, only⟩
      exact congrArg Boot.power (only .boot (by decide))
    · rw [State.armSlot_arms s fk k v ok hit]
      obtain ⟨slot, wps, others⟩ := State.slotArmed_spec s fk k v
      have only := State.only_slotArmed s fk k v
      refine ⟨_, done_of_only only ?_, fun h => absurd h hit, fun _ => ⟨slot, wps⟩, others, only.sub⟩
      exact congrArg Boot.power (only .boot (by decide))
  · rw [State.armSlot_refused s fk k v no, State.wpCount, if_neg (Nat.not_le.2 hk)]
    exact done_modFunc s _ _

end Sys2Proof.Machine
end


section
/-! The completion of an operation and the lantern of its parked task (04 R105, R109; 12 R348). -/

namespace Sys2Proof.Machine

set_option Elab.async false

/-! ### Slots of the window under `satisfy` -/

theorem Tab.find?_mapVal {α β : Type} (g : α → β) (k : Nat) : ∀ l : Tab α,
    Tab.find? (l.map fun e => (e.1, g e.2)) k = (Tab.find? l k).map g := by
  intro l
  induction l with
  | nil => rfl
  | cons e l ih =>
      show (if e.1 = k then some (g e.2) else Tab.find? (l.map fun e => (e.1, g e.2)) k) =
        (if e.1 = k then some e.2 else Tab.find? l k).map g
      rw [ih]
      by_cases h : e.1 = k
      · rw [if_pos h, if_pos h]
        rfl
      · rw [if_neg h, if_neg h]

theorem Tab.get_mapVal {α : Type} (g : α → α) (k : Nat) (l : Tab (Option α)) :
    Tab.get none (l.map fun e => (e.1, e.2.map g)) k = (Tab.get none l k).map g := by
  unfold Tab.get
  rw [Tab.find?_mapVal (Option.map g) k l]
  cases Tab.find? l k <;> rfl

/-- What `satisfy` makes of one operation. -/
def Op.freed (o : Op) (slot stamp : Nat) : Op :=
  if o.phase = .open ∧ clrBit o.deps slot = 0 then { o with deps := clrBit o.deps slot, phase := .ready, ord := stamp }
  else { o with deps := clrBit o.deps slot }

theorem Task.satisfy_op (t : Task) (slot stamp k : Nat) : (t.satisfy slot stamp).op k = (t.op k).map fun o => o.freed slot stamp :=
  Tab.get_mapVal (fun o : Op => o.freed slot stamp) k t.win

/-! ### Completion -/

/-- A task whose operation in `slot` has completed with its posts (04 R105, R109). -/
def Task.finished (t : Task) (slot stamp : Nat) (posts : List (Nat × W64)) : Task :=
  { t with win := Tab.set none t.win slot none
           ctx := { t.ctx with u := posts.foldl (fun (u : Tab W64) (p : Nat × W64) => Tab.set 0 u p.1 p.2) t.ctx.u } }.satisfy slot stamp

theorem Task.finished_op (t : Task) (slot stamp : Nat) (posts : List (Nat × W64)) (k : Nat) :
    (t.finished slot stamp posts).op k = if k = slot then none else (t.op k).map fun o => o.freed slot stamp := by
  rw [Task.finished, Task.satisfy_op]
  unfold Task.op
  rw [Tab.get_set]
  by_cases h : k = slot
  · rw [if_pos h, if_pos h]
    rfl
  · rw [if_neg h, if_neg h]

/-- The parts that the completion of an operation may reach. -/
def finishParts : List Field := [.tasks, .stamp, .cnt, .out, .sto, .xl, .freeCtr, .objs]

theorem State.endTags_waiting (s : State) (p : Tagged → Bool) (b : Bool) : (s.endTags p b).xl.waiting = s.xl.waiting := by
  have := congrArg Xl.waiting (State.xl_unended (State.reaps_endTags (r := 0) (f := id) s p b).kept)
  exact this

theorem State.dropX_waiting (s : State) (p : Who → Bool) : (s.dropX p).xl.waiting = s.xl.waiting := by
  have := congrArg Xl.waiting (State.xl_unended (State.reaps_dropX (r := 0) (f := id) s p).kept)
  exact this

/-- The operation's slot is free and its posts stand. -/
def State.slotDone (s : State) (r slot : Nat) (posts : List (Nat × W64)) : State :=
  (s.modTask r fun t => t.finished slot s.stamp posts).nextStamp

/-- The tagged item of an operation of a task that is still in its generation. -/
def Tagged.ofOp (r gen slot : Nat) (g : Tagged) : Bool := !g.bundle && g.r == r && g.gen == gen && g.slot == some slot

theorem State.finishOp_eq (s : State) (r slot : Nat) (posts : List (Nat × W64)) : s.finishOp r slot posts =
    ((s.slotDone r slot posts).dropX (· == .op r (s.task r).gen slot)).endTags (Tagged.ofOp r (s.task r).gen slot) false := rfl

theorem State.only_slotDone (s : State) (r slot : Nat) (posts : List (Nat × W64)) :
    s.only (s.slotDone r slot posts) [.tasks, .stamp] :=
  State.only_trans (State.only_modTask s _ _).sub (State.only_nextStamp _).sub

theorem State.only_finishOp (s : State) (r slot : Nat) (posts : List (Nat × W64)) :
    s.only (s.finishOp r slot posts) finishParts := by
  rw [State.finishOp_eq]
  exact State.only_trans (State.only_trans (State.only_slotDone s r slot posts).sub (State.only_dropX _ _).sub)
    (State.only_endTags _ _ _).sub

theorem State.finishOp_tasks (s : State) (r slot : Nat) (posts : List (Nat × W64)) :
    (s.finishOp r slot posts).tasks = (s.slotDone r slot posts).tasks := by
  rw [State.finishOp_eq]
  exact (State.only_endTags _ _ _ .tasks (by decide)).trans (State.only_dropX _ _ .tasks (by decide))

theorem State.finishOp_task (s : State) (r slot : Nat) (posts : List (Nat × W64)) :
    (s.finishOp r slot posts).task r = (s.task r).finished slot s.stamp posts :=
  (State.task_of (State.finishOp_tasks s r slot posts) r).trans
    (State.modTask_task_self s r fun t => t.finished slot s.stamp posts)

theorem State.finishOp_other (s : State) (r slot : Nat) (posts : List (Nat × W64)) {q : Nat} (h : q ≠ r) :
    (s.finishOp r slot posts).task q = s.task q :=
  (State.task_of (State.finishOp_tasks s r slot posts) q).trans (State.modTask_task_ne s r (fun t => t.finished slot s.stamp posts) h)

theorem State.finishOp_stamp (s : State) (r slot : Nat) (posts : List (Nat × W64)) :
    (s.finishOp r slot posts).stamp = s.stamp + 1 := by
  rw [State.finishOp_eq]
  exact (State.only_endTags _ _ _ .stamp (by decide)).trans (State.only_dropX _ _ .stamp (by decide))

theorem State.finishOp_wps (s : State) (r slot : Nat) (posts : List (Nat × W64)) : (s.finishOp r slot posts).wps = s.wps :=
  State.only_finishOp s r slot posts .wps (by decide)

theorem State.finishOp_waiting (s : State) (r slot : Nat) (posts : List (Nat × W64)) :
    (s.finishOp r slot posts).xl.waiting = s.xl.waiting := by
  rw [State.finishOp_eq, State.endTags_waiting, State.dropX_waiting]
  rfl

theorem State.objsKept_finishOp (s : State) (r slot : Nat) (posts : List (Nat × W64)) : s.objsKept (s.finishOp r slot posts) := by
  rw [State.finishOp_eq]
  refine State.objsKept_trans (State.objsKept_of_objs ?_) (State.objsKept_endTags _ _ _)
  exact (State.only_dropX _ _ .objs (by decide)).trans (State.only_slotDone s r slot posts .objs (by decide))

/-! ### The lantern of a parked task -/

/-- The lantern of a parked task is out, and the task is ready to resume. -/
def State.lit (s : State) (r : Nat) : State :=
  (((s.modWps fun w => { w with lans := w.lans.filter fun l => l.kind != .parked r (s.task r).gen }).modTask r fun t =>
      { t with lit := some s.stamp }).nextStamp).tick 0x1D0 none

/-- The parked task under record `r` has a lantern, and its condition is true. -/
def State.lightable (s : State) (r : Nat) : Bool :=
  s.wps.lans.any (fun l => l.kind == .parked r (s.task r).gen) && (s.task r).awaited

theorem State.light_eq (s : State) (r : Nat) : s.light r = if s.lightable r = true then s.lit r else s := rfl

theorem State.lit_task (s : State) (r : Nat) : (s.lit r).task r = { s.task r with lit := some s.stamp } := by
  rw [State.lit, State.task_of (State.only_tick _ _ _ .tasks (by decide))]
  exact State.modTask_task_self _ r fun t => { t with lit := some s.stamp }

theorem State.lit_other (s : State) (r : Nat) {q : Nat} (h : q ≠ r) : (s.lit r).task q = s.task q := by
  rw [State.lit, State.task_of (State.only_tick _ _ _ .tasks (by decide))]
  exact State.modTask_task_ne s r (fun t => { t with lit := some s.stamp }) h

theorem State.lit_wps (s : State) (r : Nat) :
    (s.lit r).wps = { s.wps with lans := s.wps.lans.filter fun l => l.kind != .parked r (s.task r).gen } :=
  State.only_tick _ _ _ .wps (by decide)

theorem State.only_lit (s : State) (r : Nat) : s.only (s.lit r) [.tasks, .wps, .stamp, .cnt] :=
  State.only_trans (State.only_trans (State.only_modWps s _).sub (State.only_modTask _ _ _).sub)
    (State.only_trans (State.only_nextStamp _).sub (State.only_tick _ _ _).sub)

theorem State.only_light (s : State) (r : Nat) : s.only (s.light r) [.tasks, .wps, .stamp, .cnt] := by
  rw [State.light_eq]
  exact State.only_ite _ (State.only_lit s r) (State.only_refl s _)

/-- A task that has resumed or not; nothing else of it changes. -/
theorem State.light_task (s : State) (r : Nat) :
    (s.light r).task r = if s.lightable r = true then { s.task r with lit := some s.stamp } else s.task r := by
  rw [State.light_eq]
  split
  · exact State.lit_task s r
  · rfl

theorem State.light_other (s : State) (r : Nat) {q : Nat} (h : q ≠ r) : (s.light r).task q = s.task q := by
  rw [State.light_eq]
  split
  · exact State.lit_other s r h
  · rfl

theorem State.light_wps (s : State) (r : Nat) : (s.light r).wps =
    if s.lightable r = true then { s.wps with lans := s.wps.lans.filter fun l => l.kind != .parked r (s.task r).gen } else s.wps := by
  rw [State.light_eq]
  split
  · exact State.lit_wps s r
  · rfl

end Sys2Proof.Machine
end


section
/-! Signals and the lanterns that they light (12 R340 to R348; 04 R112). -/

namespace Sys2Proof.Machine

set_option Elab.async false

/-! ### The frame of lanterns that fire -/

/-- A task without its window, its posted values and the mark of a lantern that has fired. -/
def Task.unfired (t : Task) : Task := { t with win := [], ctx := { t.ctx with u := [] }, lit := none }

/-- A lantern of a parked task. -/
def Lantern.parks (l : Lantern) : Prop := ∃ r g, l.kind = .parked r g

/-- Slot `k` of function `f` waits for its target. -/
def State.armedSlot (s : State) (f k : Nat) : Bool := (Tab.get {} (s.func f).slots k : Slot).armed

/-- From `s` to `t` lanterns have fired: no operation starts and no slot is armed, tasks keep what completion does not touch,
of the lanterns only those of parked tasks go out, waypoints and signals on their way stay. -/
structure State.fires (s t : State) : Prop where
  wps : { t.wps with lans := [] } = { s.wps with lans := [] }
  waiting : t.xl.waiting = s.xl.waiting
  tasks : ∀ r, (t.task r).unfired = (s.task r).unfired
  ops : ∀ r k, (s.task r).op k = none → (t.task r).op k = none
  slots : ∀ f k, s.armedSlot f k = false → t.armedSlot f k = false
  lans : ∀ l ∈ t.wps.lans, l ∈ s.wps.lans
  stay : ∀ l, ¬l.parks → l ∈ s.wps.lans → l ∈ t.wps.lans

theorem State.fires_refl (s : State) : s.fires s :=
  ⟨rfl, rfl, fun _ => rfl, fun _ _ h => h, fun _ _ h => h, fun _ h => h, fun _ _ h => h⟩

theorem State.fires_trans {s t u : State} (h : s.fires t) (g : t.fires u) : s.fires u :=
  ⟨g.wps.trans h.wps, g.waiting.trans h.waiting, fun r => (g.tasks r).trans (h.tasks r), fun r k e => g.ops r k (h.ops r k e),
    fun f k e => g.slots f k (h.slots f k e), fun l m => h.lans l (g.lans l m), fun l p m => g.stay l p (h.stay l p m)⟩

theorem State.fires_each {α : Type} {g : State → α → State} (hg : ∀ u a, State.fires u (g u a)) (l : List α) (s : State) :
    s.fires (s.each l g) := State.each_keeps (P := s.fires) (fun u a h => State.fires_trans h (hg u a)) l s (State.fires_refl s)

theorem State.fires_of {s t : State} (hw : t.wps = s.wps) (hx : t.xl.waiting = s.xl.waiting) (ht : t.tasks = s.tasks)
    (hs : ∀ f k, s.armedSlot f k = false → t.armedSlot f k = false) : s.fires t :=
  ⟨by rw [hw], hx, fun r => by rw [State.task_of ht], fun r k h => by rw [State.task_of ht]; exact h, hs,
    fun l h => hw ▸ h, fun l _ h => hw ▸ h⟩

theorem State.fires_tick (s : State) (e : Nat) (p : Option Nat) : s.fires (s.tick e p) := by
  have h := State.only_tick s e p
  refine State.fires_of (h .wps (by decide)) (congrArg Xl.waiting (h .xl (by decide))) (h .tasks (by decide)) fun f k e => ?_
  unfold State.armedSlot at e ⊢
  rw [State.func_of (h .funcs (by decide))]
  exact e

theorem State.finishOp_unfired (s : State) (r slot : Nat) (posts : List (Nat × W64)) (q : Nat) :
    ((s.finishOp r slot posts).task q).unfired = (s.task q).unfired := by
  by_cases h : q = r
  · subst h
    rw [State.finishOp_task]
    rfl
  · rw [State.finishOp_other s r slot posts h]

theorem State.finishOp_op (s : State) (r slot : Nat) (posts : List (Nat × W64)) (q k : Nat) (h : (s.task q).op k = none) :
    ((s.finishOp r slot posts).task q).op k = none := by
  by_cases e : q = r
  · subst e
    rw [State.finishOp_task, Task.finished_op, h]
    split <;> rfl
  · rw [State.finishOp_other s r slot posts e, h]

theorem State.fires_finishOp (s : State) (r slot : Nat) (posts : List (Nat × W64)) : s.fires (s.finishOp r slot posts) := by
  have wps := State.finishOp_wps s r slot posts
  refine ⟨by rw [wps], State.finishOp_waiting s r slot posts, State.finishOp_unfired s r slot posts,
    fun q k h => State.finishOp_op s r slot posts q k h, fun f k e => ?_, fun l h => wps ▸ h, fun l _ h => wps ▸ h⟩
  unfold State.armedSlot at e ⊢
  rw [State.func_of (State.only_finishOp s r slot posts .funcs (by decide))]
  exact e

/-- A slot that has fired. -/
def Slot.disarmed (x : Slot) : Slot := { x with armed := false }

/-- The slot's lantern has fired: it is disarmed (12 R349). -/
def State.disarm (s : State) (fk k : Nat) : State :=
  s.modFunc fk fun f => { f with slots := Tab.set {} f.slots k (Tab.get {} (s.func fk).slots k : Slot).disarmed }

theorem State.disarm_slot (s : State) (fk k : Nat) : (s.disarm fk k).armedSlot fk k = false := by
  unfold State.armedSlot State.disarm
  rw [State.modFunc_func_self]
  exact congrArg Slot.armed (Tab.get_set_self _ _ _ _)

theorem State.disarm_armed (s : State) (fk k f j : Nat) (h : s.armedSlot f j = false) : (s.disarm fk k).armedSlot f j = false := by
  by_cases hf : f = fk
  · subst hf
    by_cases hj : j = k
    · subst hj
      exact State.disarm_slot s f j
    · unfold State.armedSlot State.disarm at *
      rw [State.modFunc_func_self]
      exact (congrArg Slot.armed (Tab.get_set_ne _ _ _ hj)).trans h
  · unfold State.armedSlot State.disarm at *
    rw [State.modFunc_func_ne _ _ _ hf]
    exact h

theorem State.fires_disarm (s : State) (fk k : Nat) : s.fires (s.disarm fk k) :=
  State.fires_of rfl rfl rfl (State.disarm_armed s fk k)

theorem State.signalVec_armed (s : State) (f v g k : Nat) : (s.signalVec f v).armedSlot g k = s.armedSlot g k := by
  unfold State.armedSlot
  rw [State.signalVec_slots]

theorem State.fires_signalVec (s : State) (f v : Nat) : s.fires (s.signalVec f v) := by
  have h := State.only_signalVec s f v
  refine State.fires_of (h .wps (by decide)) (congrArg Xl.waiting (h .xl (by decide))) (h .tasks (by decide)) fun g k e => ?_
  rw [State.signalVec_armed, e]

theorem State.fires_light (s : State) (r : Nat) : s.fires (s.light r) := by
  have wps := State.light_wps s r
  have lans : (s.light r).wps.lans =
      if s.lightable r = true then s.wps.lans.filter fun l => l.kind != .parked r (s.task r).gen else s.wps.lans := by
    rw [wps]
    split <;> rfl
  refine ⟨?_, congrArg Xl.waiting (State.only_light s r .xl (by decide)), fun q => ?_, fun q k h => ?_, fun f k e => ?_,
    fun l h => ?_, fun l p h => ?_⟩
  · rw [wps]
    split <;> rfl
  · by_cases h : q = r
    · subst h
      rw [State.light_task]
      split <;> rfl
    · rw [State.light_other s r h]
  · by_cases e : q = r
    · subst e
      rw [State.light_task]
      split <;> exact h
    · rw [State.light_other s r e, h]
  · unfold State.armedSlot at e ⊢
    rw [State.func_of (State.only_light s r .funcs (by decide))]
    exact e
  · rw [lans] at h
    split at h
    · exact List.mem_of_mem_filter h
    · exact h
  · rw [lans]
    split
    · refine List.mem_filter.2 ⟨h, bne_iff_ne.2 fun e => p ⟨_, _, e⟩⟩
    · exact h

theorem State.fire_wait (s : State) (l : Lantern) (r slot : Nat) (h : l.kind = .wait r slot) :
    s.fire l = (s.finishOp r slot []).tick 0x1D0 none := by
  unfold State.fire
  rw [h]

theorem State.fire_slot (s : State) (l : Lantern) (fk k : Nat) (h : l.kind = .slot fk k) :
    s.fire l = ((s.disarm fk k).signalVec fk (Tab.get {} (s.func fk).slots k : Slot).vector).tick 0x1D0 none := by
  unfold State.fire
  rw [h]
  rfl

theorem State.fire_parked (s : State) (l : Lantern) (r g : Nat) (h : l.kind = .parked r g) :
    s.fire l = s.tick 0x1D0 none := by
  unfold State.fire
  rw [h]

theorem State.fires_fire (s : State) (l : Lantern) : s.fires (s.fire l) := by
  cases h : l.kind with
  | wait r slot =>
      rw [State.fire_wait s l r slot h]
      exact State.fires_trans (State.fires_finishOp s r slot []) (State.fires_tick _ _ _)
  | slot fk k =>
      rw [State.fire_slot s l fk k h]
      exact State.fires_trans (State.fires_trans (State.fires_disarm s fk k) (State.fires_signalVec _ _ _)) (State.fires_tick _ _ _)
  | parked r g =>
      rw [State.fire_parked s l r g h]
      exact State.fires_tick _ _ _

/-- A WAIT whose lantern fires has completed. -/
theorem State.fire_op (s : State) (l : Lantern) (r slot : Nat) (h : l.kind = .wait r slot) :
    ((s.fire l).task r).op slot = none := by
  rw [State.fire_wait s l r slot h, State.task_of (State.only_tick _ _ _ .tasks (by decide)), State.finishOp_task,
    Task.finished_op, if_pos rfl]

/-- A slot whose lantern fires is disarmed. -/
theorem State.fire_armed (s : State) (l : Lantern) (fk k : Nat) (h : l.kind = .slot fk k) : (s.fire l).armedSlot fk k = false := by
  rw [State.fire_slot s l fk k h]
  refine (State.fires_tick _ _ _).slots fk k ?_
  rw [State.signalVec_armed, State.disarm_slot]

theorem State.fires_lightAll (s : State) : s.fires s.lightAll := by
  refine State.fires_each (fun u l => ?_) _ s
  split
  · exact State.fires_light u _
  · exact State.fires_refl u

theorem State.lightAll_of_none (s : State) (h : ∀ l ∈ s.wps.lans, ¬l.parks) : s.lightAll = s := by
  have step : ∀ (l : List Lantern) (u : State), (∀ x ∈ l, ¬x.parks) → u.each l (fun u l => match l.kind with
      | .parked r _ => u.light r
      | _ => u) = u := by
    intro l
    induction l with
    | nil => exact fun _ _ => rfl
    | cons x l ih =>
        intro u hl
        have hx := hl x List.mem_cons_self
        have rest := ih u fun y hy => hl y (List.mem_cons_of_mem _ hy)
        cases hk : x.kind with
        | parked r g => exact absurd ⟨r, g, hk⟩ hx
        | wait r k =>
            rw [State.each, List.foldl_cons, hk]
            exact rest
        | slot f k =>
            rw [State.each, List.foldl_cons, hk]
            exact rest
  exact step _ s h

/-! ### A signal that is ahead -/

/-- A lantern that fires when waypoint `i` takes `v`. -/
def Lantern.reached (i : Nat) (v : W64) (l : Lantern) : Prop := l.idx = i ∧ atOrBeyond v l.target = true ∧ ¬l.parks

/-- The test of `fireWp` on a lantern. -/
def State.hits (s : State) (i : Nat) (l : Lantern) : Bool :=
  l.idx == i && atOrBeyond (s.wp i).value l.target && (match l.kind with
    | .parked _ _ => false
    | _ => true)

theorem State.hits_iff (s : State) (i : Nat) (l : Lantern) : s.hits i l = true ↔ l.reached i (s.wp i).value := by
  unfold State.hits Lantern.reached Lantern.parks
  cases l.kind <;> simp

/-- The lanterns that fire are out. -/
def State.dim (s : State) (i : Nat) : State := s.modWps fun w => { w with lans := w.lans.filter fun l => !s.hits i l }

theorem State.fireWp_eq (s : State) (i : Nat) :
    s.fireWp i = ((s.dim i).each (s.wps.lans.filter (s.hits i)) State.fire).lightAll := rfl

theorem State.fires_fireWp (s : State) (i : Nat) : (s.dim i).fires (s.fireWp i) := by
  rw [State.fireWp_eq]
  exact State.fires_trans (State.fires_each State.fires_fire _ _) (State.fires_lightAll _)

theorem State.fireWp_op (s : State) (i : Nat) (l : Lantern) (r slot : Nat) (hl : l ∈ s.wps.lans) (hh : s.hits i l = true)
    (hk : l.kind = .wait r slot) : ((s.fireWp i).task r).op slot = none := by
  rw [State.fireWp_eq]
  refine (State.fires_lightAll _).ops r slot ?_
  exact State.each_reaches (P := fun u => (u.task r).op slot = none) (List.mem_filter.2 ⟨hl, hh⟩)
    (fun u => State.fire_op u l r slot hk) (fun u b => (State.fires_fire u b).ops r slot) _

theorem State.fireWp_armed (s : State) (i : Nat) (l : Lantern) (fk k : Nat) (hl : l ∈ s.wps.lans) (hh : s.hits i l = true)
    (hk : l.kind = .slot fk k) : (s.fireWp i).armedSlot fk k = false := by
  rw [State.fireWp_eq]
  refine (State.fires_lightAll _).slots fk k ?_
  exact State.each_reaches (P := fun u => u.armedSlot fk k = false) (List.mem_filter.2 ⟨hl, hh⟩)
    (fun u => State.fire_armed u l fk k hk) (fun u b => (State.fires_fire u b).slots fk k) _

/-- The waypoint takes the value. -/
def State.takes (s : State) (i : Nat) (v : W64) : State := s.modWp i fun w => { w with value := v }

/-- What holds once waypoint `i` has taken `v` and its lanterns have fired. -/
structure State.ahead (s t : State) (i : Nat) (v : W64) : Prop where
  wp : t.wp i = { s.wp i with value := v }
  wpOther : ∀ j, j ≠ i → t.wp j = s.wp j
  lans : ∀ l, ¬l.parks → (l ∈ t.wps.lans ↔ l ∈ s.wps.lans ∧ ¬l.reached i v)
  sub : ∀ l ∈ t.wps.lans, l ∈ s.wps.lans
  sigq : t.wps.sigq = s.wps.sigq
  waiting : t.xl.waiting = s.xl.waiting
  waits : ∀ l r slot, l ∈ s.wps.lans → l.reached i v → l.kind = .wait r slot → (t.task r).op slot = none
  slots : ∀ l fk k, l ∈ s.wps.lans → l.reached i v → l.kind = .slot fk k → t.armedSlot fk k = false
  tasks : ∀ r, (t.task r).unfired = (s.task r).unfired

theorem State.wp_of_unlit {s t : State} (h : { t.wps with lans := [] } = { s.wps with lans := [] }) (i : Nat) : t.wp i = s.wp i := by
  have := congrArg (fun w : WpStore => Tab.get {} w.tab i) h
  exact this

theorem State.hits_takes (s : State) (i : Nat) (v : W64) (l : Lantern) :
    (s.takes i v).hits i l = true ↔ l.reached i v := by
  rw [State.hits_iff, State.takes, State.modWp_wp_self]

theorem State.fireWp_takes (s : State) (i : Nat) (v : W64) : s.ahead ((s.takes i v).fireWp i) i v := by
  have h := State.fires_fireWp (s.takes i v) i
  have mem : ∀ l, l ∈ ((s.takes i v).dim i).wps.lans ↔ l ∈ s.wps.lans ∧ ¬l.reached i v := fun l => by
    refine List.mem_filter.trans (and_congr_right fun _ => ?_)
    rw [← State.hits_takes s i v l]
    simp
  refine ⟨?_, fun j hj => ?_, fun l p => ⟨fun m => (mem l).1 (h.lans l m), fun m => h.stay l p ((mem l).2 m)⟩,
    fun l m => ((mem l).1 (h.lans l m)).1, ?_, h.waiting, fun l r slot m hr hk => ?_, fun l fk k m hr hk => ?_, fun r => h.tasks r⟩
  · exact (State.wp_of_unlit h.wps i).trans (State.modWp_wp_self s i fun w => { w with value := v })
  · exact (State.wp_of_unlit h.wps j).trans (State.modWp_wp_ne s i (fun w => { w with value := v }) hj)
  · have := congrArg WpStore.sigq h.wps
    exact this
  · exact State.fireWp_op (s.takes i v) i l r slot m ((State.hits_takes s i v l).2 hr) hk
  · exact State.fireWp_armed (s.takes i v) i l fk k m ((State.hits_takes s i v l).2 hr) hk

/-- Where no lantern is due, only the waypoint changes. -/
theorem State.fireWp_calm (s : State) (i : Nat) (v : W64) (h : ∀ l ∈ s.wps.lans, ¬l.reached i v ∧ ¬l.parks) :
    (s.takes i v).fireWp i = (s.takes i v).dim i := by
  have nil : (s.takes i v).wps.lans.filter ((s.takes i v).hits i) = [] := by
    refine List.filter_eq_nil_iff.2 fun l m e => (h l m).1 ?_
    exact (State.hits_takes s i v l).1 e
  rw [State.fireWp_eq, nil]
  refine State.lightAll_of_none _ fun l m => (h l ?_).2
  exact List.mem_of_mem_filter m

/-! ### Signals (12 R341, R344) -/

section
variable (s : State) (h v : W64) (src : SigSrc)

theorem State.applySignal_ahead (ok : (s.sigBy h src).2 = true) (hp : (s.wp (wpIndex h)).poisoned = false)
    (ha : serial (s.wp (wpIndex h)).value v = .ahead) :
    s.applySignal h v src = ((s.takes (wpIndex h) v).fireWp (wpIndex h), 0) := by
  unfold State.applySignal
  simp only [ok, hp, ha]
  rfl

theorem State.applySignal_settled (ok : (s.sigBy h src).2 = true) (hp : (s.wp (wpIndex h)).poisoned = false)
    (ha : serial (s.wp (wpIndex h)).value v = .equal ∨ serial (s.wp (wpIndex h)).value v = .behind) :
    s.applySignal h v src = (s, 0) := by
  unfold State.applySignal
  rcases ha with ha | ha <;> simp only [ok, hp, ha] <;> rfl

theorem State.applySignal_stale (ok : (s.sigBy h src).2 = true) (hp : (s.wp (wpIndex h)).poisoned = false)
    (ha : serial (s.wp (wpIndex h)).value v = .stale) :
    s.applySignal h v src =
      ((s.wpCount ((s.sigBy h src).1.getD 0) true).staleRecord ((s.sigBy h src).1.getD 0) h, 0x14) := by
  unfold State.applySignal
  simp only [ok, hp, ha]
  rfl

/-- A signal that is not available (12 R344), or of a poisoned waypoint (13 R368). -/
def State.sigBad : Prop := (s.sigBy h src).2 = false ∨ (s.wp (wpIndex h)).poisoned = true

theorem State.applySignal_bad (hb : s.sigBad h src) : s.applySignal h v src =
    (match (s.sigBy h src).1 with
      | some fk => s.wpCount fk false
      | none => s.tick 0x105 none, 0x18) := by
  have c : (!(s.sigBy h src).2 || (s.wp (wpIndex h)).poisoned) = true := by
    rcases hb with e | e <;> simp [e]
  unfold State.applySignal
  dsimp only
  rw [if_pos c]
  cases (s.sigBy h src).1 <;> rfl

end

end Sys2Proof.Machine
end


section
/-! WAYPOINT_SIGNAL_APPLY, WP_SIGNAL and signals of peers (12 R341, R344 to R347). -/

namespace Sys2Proof.Machine

set_option Elab.async false

/-! ### What every signal leaves unchanged -/

theorem Serial.cases (x : Serial) : x = .ahead ∨ x = .stale ∨ x = .equal ∨ x = .behind := by cases x <;> simp

theorem State.only_staleRecord (s : State) (fk : Nat) (h : W64) :
    s.only (s.staleRecord fk h) [.geq, .cnt, .funcs, .out, .sto, .xl, .freeCtr, .objs] := State.only_geqPost s _ _

theorem State.staleRecord_func (s : State) (fk : Nat) (h : W64) (k : Nat) :
    ((s.staleRecord fk h).func k).unended = (s.func k).unended := by
  exact State.func_unended (State.reaps_geqPost (r := 0) (f := id) s
    { geqRec 0x14 2 with flags := 1, part := s.partOf (s.wp (wpIndex h)).owner, func := funcCode fk, detail := h.toNat }
    (some (.wp (wpIndex h)))).kept k

/-- The parts that a signal not available, or stale, may reach. -/
def countedParts : List Field := [.funcs, .geq, .cnt, .out, .sto, .xl, .freeCtr, .objs]

section
variable (s : State) (h v : W64) (src : SigSrc)

theorem State.not_sigBad (nb : ¬s.sigBad h src) : (s.sigBy h src).2 = true ∧ (s.wp (wpIndex h)).poisoned = false :=
  ⟨Bool.eq_true_of_not_eq_false fun e => nb (.inl e), Bool.eq_false_of_not_eq_true fun e => nb (.inr e)⟩

theorem State.only_bad (hb : s.sigBad h src) : s.only (s.applySignal h v src).1 [.funcs, .cnt] := by
  rw [State.applySignal_bad s h v src hb]
  dsimp only
  split
  · exact (State.only_wpCount s _ _).sub
  · exact (State.only_tick s _ _).sub

theorem State.only_stale (ok : (s.sigBy h src).2 = true) (hp : (s.wp (wpIndex h)).poisoned = false)
    (ha : serial (s.wp (wpIndex h)).value v = .stale) : s.only (s.applySignal h v src).1 countedParts := by
  rw [State.applySignal_stale s h v src ok hp ha]
  exact State.only_trans (State.only_wpCount s _ _).sub (State.only_staleRecord _ _ _).sub

/-- A signal leaves the signals on their way, and of the tasks all but what a WAIT's completion changes. -/
theorem State.applySignal_kept : (s.applySignal h v src).1.wps.sigq = s.wps.sigq ∧
    ∀ r, ((s.applySignal h v src).1.task r).unfired = (s.task r).unfired := by
  have quiet : ∀ {t : State} {l : List Field}, s.only t l → .wps ∉ l → .tasks ∉ l →
      t.wps.sigq = s.wps.sigq ∧ ∀ r, (t.task r).unfired = (s.task r).unfired := fun o hw ht =>
    ⟨congrArg WpStore.sigq (o .wps hw), fun r => by rw [State.task_of (o .tasks ht)]⟩
  by_cases hb : s.sigBad h src
  · exact quiet (State.only_bad s h v src hb) (by decide) (by decide)
  · obtain ⟨ok, hp⟩ := State.not_sigBad s h src hb
    rcases Serial.cases (serial (s.wp (wpIndex h)).value v) with ha | ha | ha
    · rw [State.applySignal_ahead s h v src ok hp ha]
      have := State.fireWp_takes s (wpIndex h) v
      exact ⟨this.sigq, this.tasks⟩
    · exact quiet (State.only_stale s h v src ok hp ha) (by decide) (by decide)
    · rw [State.applySignal_settled s h v src ok hp ha]
      exact ⟨rfl, fun _ => rfl⟩

end

/-! ### WAYPOINT_SIGNAL_APPLY (12 R341; 04 R112) -/

/-- The store without the signal that it applies. -/
def State.unqueued (s : State) (rest : List (W64 × W64 × SigSrc)) : State := s.modWps fun w => { w with sigq := rest }

/-- A signal of task `r` has been applied with status `st` (04 R112). -/
def Task.sigCounted (st : Nat) (t : Task) : Task := { t.met st 0 with sigs := t.sigs - 1 }

theorem Task.sigCounted_cstat (st : Nat) (t : Task) :
    (t.sigCounted st).cstat = if t.cstat = 0 ∧ st ≠ 0 then st else t.cstat := by
  unfold Task.sigCounted Task.met
  split <;> rfl

/-- A task's part that the completion of a WAIT leaves as it was. -/
theorem Task.unfired_get {α : Type} {t u : Task} (e : u.unfired = t.unfired) (g : Task → α)
    (hg : ∀ x : Task, g x.unfired = g x := by intro x; rfl) : g u = g t :=
  (hg u).symm.trans ((congrArg g e).trans (hg t))

theorem done_modTask_of (s u : State) (r : Nat) (g : Task → Task) : ∃ t, done s (u.modTask r g) = .next t ∧
    t.task r = g (u.task r) ∧ (∀ q, q ≠ r → t.task q = u.task q) ∧ u.only t [.tasks, .cnt, .pending, .latch] := by
  obtain ⟨t, ht, -, -, keeps⟩ := done_next s (u.modTask r g)
  have tasks := State.task_of (keeps .tasks (by decide))
  refine ⟨t, ht, ?_, fun q hq => ?_, State.only_trans (State.only_modTask u r g).sub keeps.sub⟩
  · rw [tasks, State.modTask_task_self]
  · rw [tasks, State.modTask_task_ne u r g hq]

theorem exec_waypointSignalApply (s : State) (h v : W64) (r fk : Nat) (rest : List (W64 × W64 × SigSrc))
    (hq : s.wps.sigq = (h, v, .task r (s.task r).gen fk none) :: rest) :
    exec .waypointSignalApply s = done s (((s.unqueued rest).applySignal h v (.task r (s.task r).gen fk none)).1.modTask r
      (Task.sigCounted ((s.unqueued rest).applySignal h v (.task r (s.task r).gen fk none)).2)) := by
  have same : (((s.unqueued rest).applySignal h v (.task r (s.task r).gen fk none)).1.task r).gen = (s.task r).gen :=
    Task.unfired_get ((State.applySignal_kept (s.unqueued rest) h v (.task r (s.task r).gen fk none)).2 r) Task.gen
  show execWaypointSignalApply s = _
  unfold execWaypointSignalApply
  rw [hq]
  exact congrArg (done s) (if_pos same)

/-- Settles O38: the oldest signal is applied, and counts toward its task's release with the status that it gave. -/
theorem releasedSignalsApply : Obligations.ReleasedSignalsApply := by
  unfold Obligations.ReleasedSignalsApply
  intro h v r fk rest s hq
  have run := exec_waypointSignalApply s h v r fk rest hq
  obtain ⟨sigq, tasks⟩ := State.applySignal_kept (s.unqueued rest) h v (.task r (s.task r).gen fk none)
  have ahead : s.sigOk fk h = true → (s.wp (wpIndex h)).poisoned = false → serial (s.wp (wpIndex h)).value v = .ahead →
      (s.unqueued rest).applySignal h v (.task r (s.task r).gen fk none) =
        (((s.unqueued rest).takes (wpIndex h) v).fireWp (wpIndex h), 0) :=
    State.applySignal_ahead (s.unqueued rest) h v (.task r (s.task r).gen fk none)
  have status : s.sigOk fk h = true → (s.wp (wpIndex h)).poisoned = false →
      ((s.unqueued rest).applySignal h v (.task r (s.task r).gen fk none)).2 =
        if serial (s.wp (wpIndex h)).value v = .stale then 0x14 else 0 := fun ok hp => by
    rcases Serial.cases (serial (s.wp (wpIndex h)).value v) with ha | ha | ha
    · rw [ahead ok hp ha, ha]
      rfl
    · rw [State.applySignal_stale (s.unqueued rest) h v (.task r (s.task r).gen fk none) ok hp ha, ha]
      rfl
    · rw [State.applySignal_settled (s.unqueued rest) h v (.task r (s.task r).gen fk none) ok hp ha]
      rcases ha with ha | ha <;> rw [ha] <;> rfl
  have bad : s.sigOk fk h = false ∨ (s.wp (wpIndex h)).poisoned = true →
      ((s.unqueued rest).applySignal h v (.task r (s.task r).gen fk none)).1.wps = (s.unqueued rest).wps ∧
      ((s.unqueued rest).applySignal h v (.task r (s.task r).gen fk none)).2 = 0x18 := fun hb => by
    refine ⟨State.only_bad (s.unqueued rest) h v (.task r (s.task r).gen fk none) hb .wps (by decide), ?_⟩
    rw [State.applySignal_bad (s.unqueued rest) h v (.task r (s.task r).gen fk none) hb]
  have takes : s.sigOk fk h = true → (s.wp (wpIndex h)).poisoned = false → serial (s.wp (wpIndex h)).value v = .ahead →
      (((s.unqueued rest).applySignal h v (.task r (s.task r).gen fk none)).1.wp (wpIndex h)).value = v := fun ok hp ha => by
    rw [ahead ok hp ha]
    exact congrArg Wp.value (State.fireWp_takes (s.unqueued rest) (wpIndex h) v).wp
  rw [run]
  generalize (s.unqueued rest).applySignal h v (.task r (s.task r).gen fk none) = a at *
  obtain ⟨u, st⟩ := a
  obtain ⟨t, ht, own, -, only⟩ := done_modTask_of s u r (Task.sigCounted st)
  have cstat : (u.task r).cstat = (s.task r).cstat := Task.unfired_get (tasks r) Task.cstat
  have sigs : (u.task r).sigs = (s.task r).sigs := Task.unfired_get (tasks r) Task.sigs
  have wps : t.wps = u.wps := only .wps (by decide)
  have met : (t.task r).cstat = if (s.task r).cstat = 0 ∧ st ≠ 0 then st else (s.task r).cstat := by
    rw [own, Task.sigCounted_cstat, cstat]
  refine ⟨t, ht, (congrArg WpStore.sigq wps).trans sigq, ?_, fun ok hp => ⟨fun ha => ?_, ?_⟩, fun hb => ⟨wps.trans (bad hb).1, ?_⟩⟩
  · rw [own]
    exact congrArg (· - 1) sigs
  · rw [State.wp_of wps]
    exact takes ok hp ha
  · rw [met, show st = _ from status ok hp]
    by_cases e : serial (s.wp (wpIndex h)).value v = .stale <;> simp [e]
  · rw [met, show st = _ from (bad hb).2]
    simp

/-! ### WP_SIGNAL and signals of peers (12 R344 to R347) -/

section
variable {s p : State} {post : State → State} {xs : List Field} {c : Instr} (h v : W64) (src : SigSrc)

/-- The grant in which command `c` applies a signal: it prepares `s` to `p` and ends by `post`, which touch `xs` alone. -/
structure State.grants (s p : State) (post : State → State) (xs : List Field) (c : Instr) (h v : W64) (src : SigSrc) : Prop where
  run : exec c s = done s (post (p.applySignal h v src).1)
  by' : p.sigBy h src = s.sigBy h src
  pre : s.only p xs
  fin : ∀ u : State, u.only (post u) xs
  narrow : ∀ f ∈ xs, f = .xl
  waiting : ∀ u : State, u.xl.waiting = p.xl.waiting → (post u).xl.waiting = s.xl.waiting

variable (g : s.grants p post xs c h v src)
include g

theorem State.grants.out {f : Field} (hf : f ≠ .xl) : f ∉ xs := fun m => hf (g.narrow f m)

/-- Where the signal changes no task, what the command leaves is the grant's own state. -/
theorem State.grants.next {l : List Field} (o : p.only (p.applySignal h v src).1 l)
    (hl : ∀ f ∈ [Field.pending, .latch, .tasks, .mtus, .parts, .boot], f ∉ l := by decide) :
    exec c s = .next (post (p.applySignal h v src).1) ∧ s.only (post (p.applySignal h v src).1) (l ++ xs) := by
  have only : s.only (post (p.applySignal h v src).1) (l ++ xs) :=
    State.only_trans (State.only_mono g.pre fun _ m => List.mem_append_right _ m)
      (State.only_trans (State.only_mono o fun _ m => List.mem_append_left _ m)
        (State.only_mono (g.fin _) fun _ m => List.mem_append_right _ m))
  have notIn : ∀ f ∈ [Field.pending, .latch, .tasks, .mtus, .parts, .boot], f ∉ l ++ xs := fun f m k =>
    (List.mem_append.1 k).elim (hl f m) (g.out h v src fun e => by subst e; simp at m)
  refine ⟨g.run.trans (done_of_only only ?_ fun f m => notIn f ?_), only⟩
  · exact congrArg Boot.power (only .boot (notIn _ (by decide)))
  · exact List.mem_of_mem_take (i := 5) m

theorem State.grants.wp (i : Nat) : p.wp i = s.wp i := State.wp_of (g.pre .wps (g.out h v src (by decide))) i

theorem State.grants.funcs : p.funcs = s.funcs := g.pre .funcs (g.out h v src (by decide))

theorem State.grants.wps : p.wps = s.wps := g.pre .wps (g.out h v src (by decide))

/-- A signal that is ahead: the waypoint takes it and its lanterns fire. -/
theorem State.grants.ahead (ok : (s.sigBy h src).2 = true) (hp : (s.wp (wpIndex h)).poisoned = false)
    (ha : serial (s.wp (wpIndex h)).value v = .ahead) :
    ∃ t, exec c s = .next t ∧ s.ahead t (wpIndex h) v ∧
      ((∀ l ∈ s.wps.lans, ¬l.reached (wpIndex h) v ∧ ¬l.parks) → s.only t (.wps :: xs)) := by
  have app : p.applySignal h v src = ((p.takes (wpIndex h) v).fireWp (wpIndex h), 0) :=
    State.applySignal_ahead p h v src (by rw [g.by']; exact ok) (by rw [g.wp h v src]; exact hp) (by rw [g.wp h v src]; exact ha)
  have all := State.fireWp_takes p (wpIndex h) v
  obtain ⟨t, ht, -, -, keeps, -⟩ := done_spec s (post (p.applySignal h v src).1)
  have calm : (∀ l ∈ s.wps.lans, ¬l.reached (wpIndex h) v ∧ ¬l.parks) → s.only t (.wps :: xs) := fun e => by
    have o : p.only (p.applySignal h v src).1 [.wps] := by
      rw [app]
      show p.only ((p.takes (wpIndex h) v).fireWp (wpIndex h)) _
      rw [State.fireWp_calm p (wpIndex h) v (by rw [g.wps h v src]; exact e)]
      exact State.only_trans (State.only_modWp p _ _) (State.only_modWps _ _)
    obtain ⟨next, only⟩ := g.next h v src o
    have same : t = post (p.applySignal h v src).1 := Host.Outcome.next.inj ((ht.symm.trans g.run.symm).trans next)
    rw [same]
    exact only
  refine ⟨t, g.run.trans ht, ?_, calm⟩
  rw [app] at keeps
  generalize (p.takes (wpIndex h) v).fireWp (wpIndex h) = u at *
  have fin : ∀ f, f ∉ [Field.cnt, .pending, .latch] → f ≠ .xl → f.same u t := fun f hf hx => by
    have a := g.fin u f (g.out h v src hx)
    have b := keeps f hf
    cases f <;> exact b.trans a
  have wps : t.wps = u.wps := fin .wps (by decide) (by decide)
  have wp := State.wp_of wps
  have task := State.task_of (fin .tasks (by decide) (by decide))
  have func := State.func_of (fin .funcs (by decide) (by decide))
  have ptask := State.task_of (g.pre .tasks (g.out h v src (by decide)))
  have pwp := g.wp h v src
  have pwps := g.wps h v src
  refine ⟨?_, fun j hj => ?_, fun l hl => ?_, fun l m => ?_, ?_, ?_, fun l r slot m hr hk => ?_, fun l fk k m hr hk => ?_, fun r => ?_⟩
  · rw [wp, all.wp, pwp]
  · rw [wp, all.wpOther j hj, pwp]
  · rw [wps, all.lans l hl, pwps]
  · exact pwps ▸ all.sub l (wps ▸ m)
  · rw [wps, all.sigq, pwps]
  · exact (congrArg Xl.waiting (keeps .xl (by decide))).trans (g.waiting u all.waiting)
  · rw [task]
    exact all.waits l r slot (pwps ▸ m) hr hk
  · unfold State.armedSlot
    rw [func]
    exact all.slots l fk k (pwps ▸ m) hr hk
  · rw [task, all.tasks, ptask]

/-- A signal that the waypoint has taken already changes nothing. -/
theorem State.grants.settled (ok : (s.sigBy h src).2 = true) (hp : (s.wp (wpIndex h)).poisoned = false)
    (ha : serial (s.wp (wpIndex h)).value v = .equal ∨ serial (s.wp (wpIndex h)).value v = .behind) :
    ∃ t, exec c s = .next t ∧ s.only t xs := by
  have app : p.applySignal h v src = (p, 0) :=
    State.applySignal_settled p h v src (by rw [g.by']; exact ok) (by rw [g.wp h v src]; exact hp) (by rw [g.wp h v src]; exact ha)
  have o : p.only (p.applySignal h v src).1 [] := by
    rw [app]
    exact State.only_refl p []
  obtain ⟨next, only⟩ := g.next h v src o
  exact ⟨_, next, only⟩

/-- A stale signal is counted and noted. -/
theorem State.grants.stale (ok : (s.sigBy h src).2 = true) (hp : (s.wp (wpIndex h)).poisoned = false)
    (ha : serial (s.wp (wpIndex h)).value v = .stale) :
    ∃ t, exec c s = .next t ∧ t.wps = s.wps ∧
      (∀ fk, (s.sigBy h src).1 = some fk → fk < 1024 → (t.func fk).wpStale = satAdd 0xFFFF (s.func fk).wpStale 1) ∧
      s.only t countedParts := by
  have okp : (p.sigBy h src).2 = true := by rw [g.by']; exact ok
  have hpp : (p.wp (wpIndex h)).poisoned = false := by rw [g.wp h v src]; exact hp
  have hap : serial (p.wp (wpIndex h)).value v = .stale := by rw [g.wp h v src]; exact ha
  obtain ⟨next, only⟩ := g.next h v src (State.only_stale p h v src okp hpp hap)
  refine ⟨_, next, ?_, fun fk hf hk => ?_, State.only_mono only fun f m => ?_⟩
  · refine only .wps fun m => (List.mem_append.1 m).elim (by decide) (g.out h v src (by decide))
  · have func := State.func_of (g.fin (p.applySignal h v src).1 .funcs (g.out h v src (by decide))) fk
    rw [func, State.applySignal_stale p h v src okp hpp hap, g.by', hf]
    have count := congrArg Func.wpStale (State.staleRecord_func (p.wpCount fk true) fk h fk)
    refine Eq.trans count ?_
    unfold State.wpCount
    rw [if_neg (Nat.not_le.2 hk)]
    refine (congrArg Func.wpStale (State.modFunc_func_self p fk _)).trans ?_
    rw [State.func_of (g.funcs h v src)]
    rfl
  · rcases List.mem_append.1 m with m | m
    · exact m
    · rw [g.narrow f m]
      decide

/-- A refused signal is counted. -/
theorem State.grants.refused (hb : s.sigBad h src) :
    ∃ t, exec c s = .next t ∧ s.only t (.funcs :: .cnt :: xs) ∧
      ∀ fk, (s.sigBy h src).1 = some fk → fk < 1024 →
        t.funcs = (s.modFunc fk fun f => { f with wpRefused := satAdd 0xFFFF f.wpRefused 1 }).funcs ∧ t.cnt = s.cnt := by
  have bad : p.sigBad h src := by
    unfold State.sigBad at *
    rw [g.by', g.wp h v src]
    exact hb
  obtain ⟨next, only⟩ := g.next h v src (State.only_bad p h v src bad)
  refine ⟨_, next, only, fun fk hf hk => ?_⟩
  have fin := g.fin (p.applySignal h v src).1
  have app : (p.applySignal h v src).1 = p.modFunc fk fun f => { f with wpRefused := satAdd 0xFFFF f.wpRefused 1 } := by
    rw [State.applySignal_bad p h v src bad, g.by', hf]
    exact if_neg (Nat.not_le.2 hk)
  refine ⟨(fin .funcs (g.out h v src (by decide))).trans ?_, (fin .cnt (g.out h v src (by decide))).trans ?_⟩
  · rw [app]
    unfold State.modFunc
    rw [State.func_of (g.funcs h v src), g.funcs h v src]
  · rw [app]
    exact g.pre .cnt (g.out h v src (by decide))

end

theorem State.grants_window (s : State) (w : Window) (k fk : Nat) (v : W64) (hw : s.winFunc w = some fk) :
    s.grants s id [] (.wpSignal w k v) (Tab.get {} (s.func fk).slots k : Slot).handle v (.window fk) := by
  refine ⟨?_, rfl, State.only_refl s _, fun u => State.only_refl u _, fun f m => absurd m (by simp), fun u e => e⟩
  show execWpSignal w k v s = _
  unfold execWpSignal
  rw [hw]
  rfl

/-- The message of a peer, under its number. -/
def State.peerJob (s : State) (h v : W64) : PortJob := ⟨s.xl.portNo, .peerSignal h v, []⟩

theorem State.grants_peer (s : State) (h v : W64) (hx : s.xl.waiting = []) :
    s.grants (s.enterReq (.peerSignal h v)) (fun u => u.endJob s.xl.portNo) [.xl] (.peerSignal h v) h v .peer := by
  have waits : (s.enterReq (.peerSignal h v)).xl.waiting = [s.peerJob h v] := by
    show s.xl.waiting ++ _ = _
    rw [hx]
    rfl
  refine ⟨?_, rfl, State.only_modXl s _, fun u => ?_, fun f m => List.mem_singleton.1 m, fun u e => ?_⟩
  · show done s (State.peerServeAll _ (s.enterReq (.peerSignal h v)).xl.waiting) = _
    rw [waits]
    rfl
  · exact State.only_trans (State.only_modXl u _) (State.only_dropX _ _)
  · rw [State.endJob, State.dropX_waiting]
    show u.xl.waiting.filter _ = _
    rw [e, waits, hx]
    simp [State.peerJob]

/-- Settles O37: a signal through a window slot or of a peer is one grant, which each place against the waypoint decides. -/
theorem signalsApply : Obligations.SignalsApply := by
  unfold Obligations.SignalsApply
  intro c h v src xs s hc
  have grant : ∃ p post, s.grants p post xs c h v src := by
    rcases hc with ⟨w, k, fk, rfl, hw, rfl, rfl, rfl⟩ | ⟨rfl, rfl, hx, rfl⟩
    · exact ⟨_, _, State.grants_window s w k fk v hw⟩
    · exact ⟨_, _, State.grants_peer s h v hx⟩
  obtain ⟨p, post, g⟩ := grant
  refine ⟨fun ok hp => ⟨fun ha => ?_, fun ha => g.settled h v src ok hp ha, fun ha => g.stale h v src ok hp ha⟩,
    fun hb => g.refused h v src hb⟩
  obtain ⟨t, ht, a, calm⟩ := g.ahead h v src ok hp ha
  exact ⟨t, ht, a.wp, a.wpOther, a.lans, a.sub, a.sigq, a.waiting, a.waits, a.slots, calm⟩

end Sys2Proof.Machine
end


section
/-! Operations that move data, at their completion (06 R168). -/

namespace Sys2Proof.Machine

set_option Elab.async false

/-- A running FILL of the 128 bytes that end page 0 and begin page 1 of object 1. -/
def fillTwoPages : Op :=
  { kind := .fill (BitVec.ofNat 64 (2 ^ 40 + 4032)) 0 128 0, deps := 0, iss := 0, phase := .running, mtu := some 0
    res := [[(.zero, 64), (.zero, 64)]] }

/-- A task that runs it with two drafts over page 1: the first has no page yet, the second holds Waystation page 100 for its
own page 0. -/
def draftsOverlap : State :=
  { parts := [(0, { banks := 1 })]
    tasks := [(0, { gen := 1, st := .running, win := [(0, some fillTwoPages)]
                    drafts := [⟨1, 1, 1, .host, [], [], 0, [], [], false⟩, ⟨1, 0, 2, .host, [(0, .ws 100)], [], 0, [], [], false⟩] })] }

/-- The state of a preparation that has ended well. -/
def Prep.okState : Prep → Option State
  | .ok s => some s
  | _ => none

theorem Prep.eq_ok {p : Prep} (h : p.okState.isSome = true) : ∃ s, p = .ok s := by
  cases p with
  | ok s => exact ⟨s, rfl⟩
  | wait s => exact Bool.noConfusion h
  | fail s st => exact Bool.noConfusion h

/-- What the FILL writes. -/
def fillMoved : Moved := ⟨[(BitVec.ofNat 64 (2 ^ 40 + 4032), List.replicate 128 0)], 0⟩

theorem fillTwoPages_res (i : Nat) (l : List (Backing × Nat)) (y : Tile) (hl : fillTwoPages.res[i]? = some l)
    (hy : (fillTwoPages.tiles.drop fillTwoPages.pos)[i]? = some y) : l.map (·.2) = (pageChunks y.off y.len).map (·.2) := by
  cases i with
  | zero =>
      have el : l = [(.zero, 64), (.zero, 64)] := (Option.some.inj hl).symm
      have ey : y = ⟨true, 1, 4032, 128⟩ := (Option.some.inj (hy.symm.trans (by decide +kernel)))
      rw [el, ey]
      decide +kernel
  | succ i => exact nomatch hl

/-- Refutes O27: the statement does not ask that a task's drafts be disjoint. Where two host drafts cover a page, giving that page a
place puts it into both drafts' tables under the same key, so that the second draft holds page 100 no more, into which the write
has just copied the granule that it begins with. -/
theorem not_movesComplete : ¬ Obligations.MovesComplete := by
  intro h
  obtain ⟨v, hv⟩ := Prep.eq_ok (p := draftsOverlap.writeTiles 0 0 (fillTwoPages.toWrite fillMoved)) (by decide +kernel)
  have empty : fillTwoPages.toRead = [] := by decide +kernel
  have reads : draftsOverlap.readTiles 0 0 fillTwoPages.toRead = .ok draftsOverlap := by
    rw [empty]
    rfl
  obtain ⟨t, ht, -, -, -, -, -, -, kept, -⟩ := h.1 0 0 0 0 (taskId 0 1) fillTwoPages fillTwoPages fillMoved
    (.mtuOperationComplete (taskId 0 1) 0) draftsOverlap draftsOverlap v (by decide +kernel) rfl rfl (by decide +kernel)
    (by decide +kernel) (by decide +kernel) (by decide +kernel) fillTwoPages_res (.inl ⟨rfl, by decide +kernel, by decide +kernel, trivial⟩)
    reads (by decide +kernel) (by decide +kernel) hv
  have left : nextHas (exec (.mtuOperationComplete (taskId 0 1) 0) draftsOverlap) (fun t =>
      decide (∀ d ∈ (t.task 0).drafts, PageRef.ws 100 ∉ d.own) && decide (t.readLoc (.ws 413632) = some 0)) = true := by
    decide +kernel
  obtain ⟨free, zero⟩ := (Bool.and_eq_true _ _).mp (nextHas_next left ht)
  have same := kept 413632 (of_decide_eq_true free) (by decide +kernel)
  rw [of_decide_eq_true zero] at same
  exact absurd same (by decide +kernel)

end Sys2Proof.Machine
end


section
/-! Host reads and tiles, and operations at their start (04 R105, R107; 06 R161, R168; 11 R317). -/

namespace Sys2Proof.Machine

set_option Elab.async false

/-! ### What reading from a host may reach -/

/-- The state in which a preparation ends. -/
def Prep.reached : Prep → State
  | .ok s => s
  | .wait s => s
  | .fail s _ => s

theorem Prep.only_ite {s : State} {p q : Prep} {l : List Field} (c : Prop) [Decidable c] (h : s.only p.reached l)
    (g : s.only q.reached l) : s.only (if c then p else q).reached l := by
  split <;> assumption

theorem Prep.only_fail {s u : State} {st : Nat} {l : List Field} (h : s.only u l) : s.only (Prep.fail u st).reached l := h

theorem Prep.only_wait {s u : State} {l : List Field} (h : s.only u l) : s.only (Prep.wait u).reached l := h

theorem Prep.only_ok {s u : State} {l : List Field} (h : s.only u l) : s.only (Prep.ok u).reached l := h

theorem State.only_dropFail (s : State) (w : Who) (k : ReqKind) : s.only (s.dropFail w k) [.xl] := State.only_modXl s _

/-- The parts that bringing host ranges to the VAI may reach. -/
def fetchParts : List Field := [.xl, .cnt, .funcs, .out, .objs, .freeCtr, .tasks]

theorem State.only_modGot (s : State) (w : Who) (f : List (Space × Nat × Nat) → List (Space × Nat × Nat)) :
    s.only (s.modGot w f) [.tasks, .xl] := by
  cases w with
  | op r g k => exact (State.only_modTask s _ _).sub
  | prog r g => exact (State.only_modTask s _ _).sub
  | port id => exact (State.only_modXl s _).sub
  | _ => exact State.only_refl s _

/-- The parts that bringing host ranges may reach for one who keeps no list of them in a task. -/
def askParts : List Field := [.xl, .cnt, .funcs, .out, .objs, .freeCtr]

section
variable {who : Who} {l : List Field} (hl : ∀ f ∈ askParts, f ∈ l)
  (hg : ∀ (u : State) (f : List (Space × Nat × Nat) → List (Space × Nat × Nat)), u.only (u.modGot who f) l)
include hl hg

theorem State.only_peerFetch (s : State) (dev x len : Nat) (e : Space × Nat × Nat) :
    s.only ((((s.handshakes 4 (dev % 8) 1).send (.deviceRead (dev % 8) dev x len)).nextFree).modGot who fun g => g ++ [e]) l := by
  have sent : s.only (((s.handshakes 4 (dev % 8) 1).send (.deviceRead (dev % 8) dev x len)).nextFree) askParts :=
    State.only_trans (State.only_trans (State.only_handshakes s _ _ _).sub (State.only_send _ _).sub) (State.only_nextFree _).sub
  exact State.only_trans (State.only_mono sent hl) (hg _ _)

theorem State.only_fetchPages_in : ∀ (g : List (Space × Nat × Nat)) (s : State), s.only (s.fetchPages who g).reached l := by
  intro g
  induction g with
  | nil => exact fun s => State.only_refl s _
  | cons e g ih =>
      intro s
      obtain ⟨sp, a, len⟩ := e
      have asks : ∀ {u v : State} {m : List Field}, u.only v m → (m.all fun f => askParts.contains f) = true → u.only v l :=
        fun h hm => State.only_mono (h.sub hm) hl
      have h : s.only (s.tryRange who sp a len false).1 l := asks (State.only_tryRange s who sp a len false) (by decide)
      unfold State.fetchPages
      split
      · next u hu =>
        rw [hu] at h
        exact h
      · next u hu =>
        rw [hu] at h
        exact h
      · next u x hu =>
        rw [hu] at h
        refine State.only_trans h (Prep.only_ite _ (ih u) ?_)
        split
        · exact Prep.only_fail (asks (State.only_ctxRefuse u) (by decide))
        · refine Prep.only_ite _ (Prep.only_fail (asks (State.only_dropFail u _ _) (by decide))) ?_
          exact Prep.only_ite _ (State.only_refl u _) (Prep.only_wait (asks (State.only_issueReq u _ _ _ _) (by decide)))
        · next dev x _ => exact State.only_trans (State.only_peerFetch hl hg u dev x len (sp, a, len)) (ih _)
        · exact ih u

end

theorem State.only_fetchSegs (s : State) (who : Who) (l : List (Space × Nat × Nat)) :
    s.only (s.fetchSegs who l).reached fetchParts :=
  State.only_fetchPages_in (by decide) (fun u f => (State.only_modGot u who f).sub) _ s

theorem State.only_fetchSegs_port (s : State) (id : Nat) (l : List (Space × Nat × Nat)) :
    s.only (s.fetchSegs (.port id) l).reached askParts :=
  State.only_fetchPages_in (who := .port id) (fun _ h => h) (fun u f => (State.only_modXl u _).sub) _ s

/-! ### Looking ahead (11 R317, R318) -/

theorem State.only_dropUse (s : State) (f : Space × Nat × Who → Bool) : s.only (s.dropUse f) [.xl] := by
  unfold State.dropUse
  exact State.only_ite _ (State.only_refl s _) (State.only_modXl s _)

theorem State.only_prefetch (s : State) (who : Who) (sp : Space) (page : Nat) : s.only (s.prefetch who sp page) [.xl, .cnt] := by
  unfold State.prefetch
  refine State.only_ite _ (State.only_useX s _ _ _).sub (State.only_ite _ (State.only_refl s _) ?_)
  exact State.only_trans (State.only_tick s _ _).sub (State.only_issueReq _ _ _ _ _)

theorem State.only_window (s : State) (who : Who) (l : List (Space × Nat × Nat)) : s.only (s.window who l) [.xl, .cnt] :=
  State.only_trans (State.only_dropUse s _).sub (State.only_each _ (fun u (p : Space × Nat) => State.only_prefetch u who p.1 p.2) _ _)

theorem State.only_modOp (s : State) (r slot : Nat) (g : Op → Op) : s.only (s.modOp r slot g) [.tasks] := State.only_modTask s _ _

theorem State.modOp_op (s : State) (r slot : Nat) (g : Op → Op) : ((s.modOp r slot g).task r).op slot = ((s.task r).op slot).map g := by
  rw [State.modOp, State.modTask_task_self]
  exact Tab.get_set_self _ _ _ _

theorem State.modOp_other (s : State) (r slot : Nat) (g : Op → Op) {q : Nat} (h : q ≠ r) : (s.modOp r slot g).task q = s.task q :=
  State.modTask_task_ne s r _ h

/-- An operation with more tiles resolved. -/
def Op.resolved (res : List (List (Backing × Nat))) (o : Op) : Op := { o with res := res }

theorem State.lookAhead_eq (s : State) (r slot : Nat) (o : Op) (h : (s.task r).op slot = some o) :
    ∃ res l, s.lookAhead r slot = (s.modOp r slot (Op.resolved res)).window (s.opWho r slot) l := by
  unfold State.lookAhead
  rw [h]
  exact ⟨_, _, rfl⟩

theorem State.only_lookAhead (s : State) (r slot : Nat) : s.only (s.lookAhead r slot) [.tasks, .xl, .cnt] := by
  cases h : (s.task r).op slot with
  | none =>
      unfold State.lookAhead
      rw [h]
      exact State.only_refl s _
  | some o =>
      obtain ⟨res, l, e⟩ := State.lookAhead_eq s r slot o h
      rw [e]
      exact State.only_trans (State.only_modOp s r slot _).sub (State.only_window _ _ _).sub

theorem State.lookAhead_op (s : State) (r slot : Nat) (o : Op) (h : (s.task r).op slot = some o) :
    ∃ res, ((s.lookAhead r slot).task r).op slot = some (o.resolved res) := by
  obtain ⟨res, l, e⟩ := State.lookAhead_eq s r slot o h
  refine ⟨res, ?_⟩
  rw [e, State.task_of (State.only_window _ _ _ .tasks (by decide)), State.modOp_op, h]
  rfl

theorem State.lookAhead_other (s : State) (r slot : Nat) {q : Nat} (hq : q ≠ r) : (s.lookAhead r slot).task q = s.task q := by
  cases h : (s.task r).op slot with
  | none =>
      unfold State.lookAhead
      rw [h]
  | some o =>
      obtain ⟨res, l, e⟩ := State.lookAhead_eq s r slot o h
      rw [e, State.task_of (State.only_window _ _ _ .tasks (by decide)), State.modOp_other s r slot _ hq]

/-! ### Reading tiles -/

/-- The parts that reading tiles may reach. -/
def tileParts : List Field := .rbuf :: fetchParts

theorem State.only_bankHands (s : State) (t : Task) (x : Tile) : s.only (s.bankHands t x) [.cnt] := by
  refine State.only_each _ (fun u c => ?_) _ s
  dsimp only
  split
  · exact State.only_handshakes u _ _ _
  · exact State.only_handshakes u _ _ _
  · exact State.only_refl u _

theorem State.only_countMoved (s : State) (r rd wr g : Nat) : s.only (s.countMoved r rd wr g) [.cnt, .funcs] :=
  State.only_trans (State.only_trans (State.only_tickN s _ _ _).sub (State.only_tickN _ _ _ _).sub)
    (State.only_trans (State.only_tickN _ _ _ _).sub (State.only_vfTick _ _ _ _).sub)

theorem State.only_moved (s : State) (m r : Nat) (x : Tile) : s.only (s.moved m r x) [.cnt, .funcs] :=
  State.only_trans (State.only_trans (State.only_countMoved s _ _ _ _) (State.only_handshakes _ _ _ _).sub)
    (State.only_bankHands _ _ _).sub

theorem State.only_fillBuf (s : State) (m r n o : Nat) (l : List Byte) : s.only (s.fillBuf m r n o l) [.rbuf] := by
  intro f hf
  cases f <;> first | rfl | simp at hf

theorem State.only_sendTile (s : State) (r : Nat) (o : Op) (k : Nat) (l : List Byte) : s.only (s.sendTile r o k l) [.out, .cnt] := by
  unfold State.sendTile
  split
  · exact State.only_ite _ (State.only_sendPeer s _ _ _ _) (State.only_refl s _)
  · exact State.only_refl s _

theorem State.only_tileDone (s : State) (r slot : Nat) (l : List Byte) : s.only (s.tileDone r slot l) [.tasks, .xl, .cnt] :=
  State.only_trans (State.only_modOp s r slot _).sub (State.only_lookAhead _ _ _)

theorem State.only_noteBad (s : State) (r : Nat) (l : List (W64 × Nat)) : s.only (s.noteBad r l) [.tasks] := State.only_modTask s _ _

theorem State.only_tileRead (s : State) (m r slot : Nat) (o : Op) (x : Tile) (k : Nat) (l b : List Byte) :
    s.only ((((s.moved m r x).fillBuf m r x.obj x.off b).sendTile r o k b).tileDone r slot l) tileParts :=
  State.only_trans (State.only_trans (State.only_moved s _ _ _).sub (State.only_fillBuf _ _ _ _ _ _).sub)
    (State.only_trans (State.only_sendTile _ _ _ _ _).sub (State.only_tileDone _ _ _ _).sub)

theorem State.only_readTile (s : State) (r slot : Nat) (o : Op) (x : Tile) (res : List (Backing × Nat)) :
    s.only (s.readTile r slot o x res).reached tileParts := by
  unfold State.readTile
  refine Prep.only_ite _ (State.only_refl s _) (Prep.only_ite _ (State.only_refl s _)
    (Prep.only_ite _ (Prep.only_fail (State.only_ctxRefuse s).sub) ?_))
  generalize hostPart _ = segs
  have h : s.only (s.fetchSegs (s.opWho r slot) segs).reached tileParts := (State.only_fetchSegs s _ segs).sub
  generalize s.fetchSegs (s.opWho r slot) segs = p at h
  cases p with
  | ok u =>
      refine State.only_trans h (Prep.only_ite _ (Prep.only_fail (State.only_noteBad u _ _).sub) (Prep.only_ok ?_))
      exact State.only_tileRead u _ r slot o x _ _ _
  | wait u => exact h
  | fail u st => exact h

theorem State.only_readTiles (r slot : Nat) : ∀ (l : List Tile) (s : State), s.only (s.readTiles r slot l).reached tileParts := by
  intro l
  induction l with
  | nil => exact fun s => State.only_refl s _
  | cons x l ih =>
      intro s
      unfold State.readTiles
      split
      · exact State.only_refl s _
      · next o _ =>
        have h := State.only_readTile s r slot o x (o.res.headD (s.resolve x.obj x.off x.len))
        split
        · next u hu =>
          rw [hu] at h
          exact State.only_trans h (ih u)
        · exact h

end Sys2Proof.Machine
end


section
/-! OPERATION_START (04 R107; 05 R145, R147; 06 R161, R168, R184, R185). -/

namespace Sys2Proof.Machine

set_option Elab.async false

/-! ### Operations that complete as they start -/

/-- What completing the operation in `slot` leaves of a state whose task `r` is `x` (04 R105, R109; 12 R348). -/
def State.ended (s u : State) (r slot : Nat) (x : Task) (posts : List (Nat × W64)) : Prop :=
  let y := x.finished slot s.stamp posts
  let lit := (s.wps.lans.any fun l => l.kind == .parked r (s.task r).gen) && y.awaited
  u.task r = (if lit then { y with lit := some (s.stamp + 1) } else y) ∧
    u.wps = (if lit then { s.wps with lans := s.wps.lans.filter fun l => l.kind != .parked r (s.task r).gen } else s.wps) ∧
    (∀ q, q ≠ r → u.task q = s.task q) ∧ s.only u (.tasks :: .wps :: .stamp :: countParts) ∧ s.objsKept u

theorem State.objsKept_light (s : State) (r : Nat) : s.objsKept (s.light r) :=
  State.objsKept_of_objs (State.only_light s r .objs (by decide))

/-- An operation completes: its task, the store of waypoints and the frame. -/
theorem done_completeOp (s v : State) (r slot : Nat) (posts : List (Nat × W64)) (only : s.only v [.tasks])
    (gen : (v.task r).gen = (s.task r).gen) (others : ∀ q, q ≠ r → v.task q = s.task q) :
    ∃ u, done s (v.completeOp r slot posts) = .next u ∧ s.ended u r slot (v.task r) posts := by
  obtain ⟨u, hu, -, -, keeps, frame⟩ := done_spec s (v.completeOp r slot posts)
  refine ⟨u, hu, ?_⟩
  have stamp : v.stamp = s.stamp := only .stamp (by decide)
  have wps : (v.finishOp r slot posts).wps = s.wps := (State.finishOp_wps v r slot posts).trans (only .wps (by decide))
  have task : (v.finishOp r slot posts).task r = (v.task r).finished slot s.stamp posts := by
    rw [State.finishOp_task, stamp]
  have fgen : ((v.finishOp r slot posts).task r).gen = (s.task r).gen := by
    rw [task]
    exact gen
  have lit : (v.finishOp r slot posts).lightable r = ((s.wps.lans.any fun l => l.kind == .parked r (s.task r).gen) &&
      ((v.task r).finished slot s.stamp posts).awaited) := by
    unfold State.lightable
    rw [wps, fgen, task]
  have tasks := State.task_of (keeps .tasks (by decide))
  have all : s.only (v.completeOp r slot posts) (.tasks :: .wps :: .stamp :: countParts) :=
    State.only_trans only.sub (State.only_trans (State.only_finishOp v r slot posts).sub (State.only_light _ r).sub)
  refine ⟨?_, ?_, fun q hq => ?_, frame _ (by decide) all, ?_⟩
  · rw [tasks, State.completeOp, State.light_task, lit, task, State.finishOp_stamp, stamp]
  · rw [show u.wps = _ from keeps .wps (by decide), State.completeOp, State.light_wps, lit, wps, fgen]
  · rw [tasks, State.completeOp, State.light_other _ r hq, State.finishOp_other v r slot posts hq, others q hq]
  · refine State.objsKept_trans (State.objsKept_of_objs (only .objs (by decide))) (State.objsKept_trans
      (State.objsKept_finishOp v r slot posts) (State.objsKept_trans (State.objsKept_light _ r) (State.objsKept_of_objs (keeps .objs (by decide)))))

theorem done_completeOp_self (s : State) (r slot : Nat) :
    ∃ u, done s (s.completeOp r slot []) = .next u ∧ s.ended u r slot (s.task r) [] :=
  done_completeOp s s r slot [] (State.only_refl s _) rfl fun _ _ => rfl

/-- A task with an effect staged. -/
def Task.stages (t : Task) (o : Op) (e : Stg) : Task := { t with staged := t.staged ++ [(o.iss, e)] }

/-- In native mode an effect is staged and the operation completes. -/
theorem done_stage (s : State) (r slot : Nat) (o : Op) (e : Stg) (posts : List (Nat × W64)) (ho : (s.task r).op slot = some o) :
    ∃ u, done s ((s.stage r slot e).completeOp r slot posts) = .next u ∧ s.ended u r slot ((s.task r).stages o e) posts := by
  have task : (s.stage r slot e).task r = (s.task r).stages o e := by
    unfold State.stage
    rw [State.modTask_task_self, ho]
    rfl
  have := done_completeOp s (s.stage r slot e) r slot posts (State.only_modTask s _ _) (by rw [task]; rfl)
    fun q hq => State.modTask_task_ne s r _ hq
  rwa [task] at this

/-! ### OPERATION_START -/

section
variable {r slot : Nat} {o : Op} {s : State}

theorem exec_operationStart (ho : (s.task r).op slot = some o) (hs : (s.task r).st = .running) (hn : (s.task r).suspended = false)
    (hp : o.phase = .ready) (hd : s.heldBack (s.task r) o = false) :
    exec (.operationStart r slot) s = done s (s.startOp r slot o) := by
  show execOperationStart r slot s = _
  unfold execOperationStart
  dsimp only
  rw [ho]
  exact congrArg (done s) (if_pos (by simp [hs, hn, hp, hd]))

theorem State.startOp_empty (h : o.kind.size = 0) : s.startOp r slot o = s.completeOp r slot [] := if_pos h

/-- A WAIT whose waypoint falls short holds a lantern. -/
def Op.run (o : Op) : Op := { o with phase := .running }

/-- The lantern of a WAIT. -/
def State.waitLantern (s : State) (r slot : Nat) (h v : W64) : State :=
  (s.modOp r slot Op.run).modWps fun w => { w with lans := w.lans ++ [⟨wpIndex h, v, .wait r slot⟩] }

theorem State.startOp_wait {h v : W64} (hk : o.kind = .wait h v) (hw : s.waitOk (s.task r).fk h = true)
    (hp : (s.wp (wpIndex h)).poisoned = false) : s.startOp r slot o =
      if atOrBeyond (s.wp (wpIndex h)).value v = true then s.completeOp r slot [] else s.waitLantern r slot h v := by
  unfold State.startOp
  rw [hk]
  exact (if_neg Nat.one_ne_zero).trans ((if_neg (not_not_of_true hw)).trans (if_neg (by rw [hp]; decide)))

theorem done_waitLantern (h v : W64) (ho : (s.task r).op slot = some o) : ∃ u, done s (s.waitLantern r slot h v) = .next u ∧
    (u.task r).op slot = some o.run ∧ u.wps = { s.wps with lans := s.wps.lans ++ [⟨wpIndex h, v, .wait r slot⟩] } ∧
    (∀ q, q ≠ r → u.task q = s.task q) ∧ s.only u [.tasks, .wps, .cnt] := by
  obtain ⟨u, hu, -, -, keeps, frame⟩ := done_spec s (s.waitLantern r slot h v)
  have tasks := State.task_of (keeps .tasks (by decide))
  refine ⟨u, hu, ?_, keeps .wps (by decide), fun q hq => (tasks q).trans (State.modOp_other s r slot Op.run hq), frame _ (by decide) ?_⟩
  · rw [tasks]
    exact (State.modOp_op s r slot Op.run).trans (by rw [ho]; rfl)
  · exact State.only_trans (State.only_modOp s r slot Op.run).sub (State.only_modWps _ _).sub

theorem State.startOp_signal {h v : W64} (hk : o.kind = .signal h v) (hv : s.verkai (s.task r).part = false) :
    s.startOp r slot o = (s.stage r slot (.sig h v)).completeOp r slot [] := by
  unfold State.startOp
  rw [hk]
  exact (if_neg Nat.one_ne_zero).trans (if_pos (not_of_false hv))

theorem State.startOp_closewin {h : W64} (hk : o.kind = .closewin h) (hv : s.verkai (s.task r).part = false) :
    s.startOp r slot o = (s.stage r slot (.closeW h)).completeOp r slot [] := by
  unfold State.startOp
  rw [hk]
  exact (if_neg Nat.one_ne_zero).trans (congrArg (fun u : State => u.completeOp r slot []) (if_neg (ne_true_of_eq_false hv)))

/-- The GEN of window `k` of the task's function. -/
def State.winGenOf (s : State) (r k : Nat) : Nat := (Tab.get {} (s.func (s.task r).fk).wins k : Win).gen

/-- The handle that an OPENWIN posts (06 R184). -/
def State.winHandle (s : State) (r k : Nat) : W64 := pack [(48, winGen (s.winGenOf r k)), (8, (s.task r).fk), (0, k)]

theorem State.startOp_openwin {x : W64} {n k acc d : Nat} (hk : o.kind = .openwin x n k acc d) (hv : s.verkai (s.task r).part = false)
    (hl : (s.obj (orNum x)).lostAt (orOff x) n = false) : s.startOp r slot o =
      (s.stage r slot (.openW k (orNum x) (orOff x) n acc (s.winGenOf r k))).completeOp r slot [(d, s.winHandle r k)] := by
  unfold State.startOp
  rw [hk]
  refine (if_neg Nat.one_ne_zero).trans ((if_neg (ne_true_of_eq_false hl)).trans ?_)
  exact congrArg (fun u : State => u.completeOp r slot _) (if_neg (ne_true_of_eq_false hv))

/-! ### Operations that draw the credit of an MTU -/

/-- An operation that has drawn the credit of MTU `m` and reads nothing as it starts. -/
def Op.begun (o : Op) (m stamp : Nat) : Op :=
  { o with phase := .running, mtu := some m, began := stamp, cap := [], key := 0, got := [] }

/-- The state in which the operation has drawn its credit. -/
def State.drawn (s : State) (r slot m : Nat) : State :=
  ((s.modMtu m (· + 1)).modOp r slot fun o => { o with phase := .running, mtu := some m, began := s.stamp }).nextStamp

/-- An operation that has captured nothing at its start. -/
def Op.blank (o : Op) : Op := { o with cap := [], key := 0, got := [] }

theorem State.startMove_none (refs : List W64) (h : ∀ m, s.opMtu r slot refs = some m → s.mtuFree m = 0) :
    s.startMove r slot refs [] (fun _ _ => 0) 0 = s := by
  have none : s.drawMtu r slot refs = none := by
    unfold State.drawMtu
    split
    · next m hm => exact if_neg (by rw [h m hm]; decide)
    · rfl
  show (match s.drawMtu r slot refs with | .none => s | some v => _) = s
  rw [none]

theorem State.startMove_some (refs : List W64) (m : Nat) (hm : s.opMtu r slot refs = some m) (hf : 0 < s.mtuFree m) :
    s.startMove r slot refs [] (fun _ _ => 0) 0 = ((s.drawn r slot m).modOp r slot Op.blank).lookAhead r slot := by
  have some : s.drawMtu r slot refs = some (s.drawn r slot m) := by
    unfold State.drawMtu
    rw [hm]
    exact if_pos hf
  show (match s.drawMtu r slot refs with | .none => s | .some v => _) = _
  rw [some]
  rfl

/-- What an operation that draws the credit of MTU `m` leaves. -/
theorem State.startMove_spec (refs : List W64) (m : Nat) (ho : (s.task r).op slot = some o) (hm : s.opMtu r slot refs = some m)
    (hf : 0 < s.mtuFree m) : let w := s.startMove r slot refs [] (fun _ _ => 0) 0
    (∃ res, (w.task r).op slot = some ((o.begun m s.stamp).resolved res)) ∧ w.mtuHeld m = s.mtuHeld m + 1 ∧
      (∀ k, k ≠ m → w.mtuHeld k = s.mtuHeld k) ∧ (∀ q, q ≠ r → w.task q = s.task q) ∧
      s.only w [.tasks, .mtus, .stamp, .xl, .cnt] := by
  rw [State.startMove_some refs m hm hf]
  have drawn : s.only ((s.drawn r slot m).modOp r slot Op.blank) [.tasks, .mtus, .stamp] :=
    State.only_trans (State.only_trans (State.only_modMtu s m _).sub (State.only_modOp _ r slot _).sub)
      (State.only_trans (State.only_nextStamp _).sub (State.only_modOp _ r slot _).sub)
  have op : (((s.drawn r slot m).modOp r slot Op.blank).task r).op slot = some (o.begun m s.stamp) := by
    rw [State.modOp_op]
    have first : ((s.drawn r slot m).task r).op slot = ((s.task r).op slot).map fun o =>
        { o with phase := .running, mtu := some m, began := s.stamp } :=
      State.modOp_op (s.modMtu m (· + 1)) r slot fun o => { o with phase := .running, mtu := some m, began := s.stamp }
    rw [first, ho]
    rfl
  have others : ∀ q, q ≠ r → ((s.drawn r slot m).modOp r slot Op.blank).task q = s.task q := fun q hq =>
    (State.modOp_other _ r slot Op.blank hq).trans
      (State.modOp_other (s.modMtu m (· + 1)) r slot (fun o => { o with phase := .running, mtu := some m, began := s.stamp }) hq)
  have held : ∀ k, ((s.drawn r slot m).modOp r slot Op.blank).mtuHeld k = (s.modMtu m (· + 1)).mtuHeld k := fun _ => rfl
  generalize (s.drawn r slot m).modOp r slot Op.blank = u at *
  have look := State.only_lookAhead u r slot
  have mtus := State.mtuHeld_of (look .mtus (by decide))
  refine ⟨State.lookAhead_op u r slot _ op, ?_, fun k hk => ?_, fun q hq => ?_, State.only_trans drawn.sub look.sub⟩
  · rw [mtus, held, State.modMtu_mtuHeld_self]
  · rw [mtus, held, State.modMtu_mtuHeld_ne s m _ hk]
  · rw [State.lookAhead_other u r slot hq, others q hq]

/-! ### Sources that are read at the start -/

theorem State.readEarly_late (h : (s.task r).op slot = some o) (he : (o.phase == .running && o.early) = false) :
    s.readEarly r slot = s := by
  unfold State.readEarly
  rw [h]
  exact if_neg (by rw [he]; decide)

theorem State.readEarly_early (h : (s.task r).op slot = some o) (he : (o.phase == .running && o.early) = true) :
    s.readEarly r slot = (s.readTiles r slot o.toRead).runOp r slot fun u =>
      if ((u.task r).op slot).any Op.zkBad then u.opFault r slot 0x19 else u := by
  unfold State.readEarly
  rw [h]
  exact if_pos he

/-- A fault of an operation frees its slot and kills its task (04 R109). -/
theorem State.opFault_spec (st : Nat) (hk : (s.task r).killable = true) :
    ((s.opFault r slot st).task r).st = .killed ∧ ((s.opFault r slot st).task r).after = some (.fail st) ∧
      ((s.opFault r slot st).task r).op slot = none := by
  have put : ((s.putMtu r slot).task r) = s.task r := by
    unfold State.putMtu
    split <;> rfl
  have kind : (((s.putMtu r slot).dropOpPages r slot).task r).killable = true := by
    unfold State.dropOpPages
    split
    · split
      · rw [put, hk]
      · rw [State.task_of (State.only_freePages _ _ .tasks (by decide)), State.modOp, State.modTask_task_self, put]
        exact hk
    · rw [put, hk]
  unfold State.opFault
  generalize (s.putMtu r slot).dropOpPages r slot = v at *
  have task : (v.freeSlot r slot).task r = { v.task r with win := Tab.set none (v.task r).win slot none } := by
    unfold State.freeSlot
    rw [State.task_of (State.only_dropX _ _ .tasks (by decide)), State.modTask_task_self]
  have free : ((v.freeSlot r slot).task r).op slot = none := by
    rw [task]
    exact Tab.get_set_self none _ slot none
  have alive : ((v.freeSlot r slot).task r).killable = true := by
    rw [task]
    exact kind
  generalize v.freeSlot r slot = w at *
  obtain ⟨dead, -⟩ := State.kill_spec w r (.fail st) false alive
  obtain ⟨st', after, -⟩ := Task.killedBy_fields dead
  exact ⟨st', after, (State.reaps_kill (r := r) w (.fail st) false).ops slot free⟩

/-! ### Settling the statement -/

theorem done_near (s w : State) (hp : w.pending = s.pending) (hl : w.latch = s.latch) :
    ∃ u, done s w = .next u ∧ w.only u [.cnt] := by
  obtain ⟨u, hu, pending, latch, keeps⟩ := done_next s w
  refine ⟨u, hu, fun f hf => ?_⟩
  by_cases ep : f = .pending
  · subst ep
    exact pending.trans hp.symm
  · by_cases el : f = .latch
    · subst el
      exact latch.trans hl.symm
    · exact keeps f (by simpa [ep, el] using hf)

/-- The operation moves data between the objects that `refs` name, and reads nothing else at its start. -/
def Op.moves (o : Op) (refs : List W64) : Prop := match o.kind with
  | .copy d x n _ => n ≠ 0 ∧ orWin d = false ∧ refs = [d, x]
  | .fill d _ n _ => n ≠ 0 ∧ refs = [d]
  | .xform d x n xf _ _ _ => n ≠ 0 ∧ xf.op ≠ 3 ∧ refs = if xf.op = 4 then [x] else [d, x]
  | _ => False

/-- The start of a movement. -/
def State.begins (s : State) (r slot : Nat) (refs : List W64) : State := s.startMove r slot refs [] (fun _ _ => 0) 0

theorem State.startOp_moves {refs : List W64} (h : o.moves refs) :
    s.startOp r slot o = (s.begins r slot refs).readEarly r slot ∨ (o.early = false ∧ s.startOp r slot o = s.begins r slot refs) := by
  unfold Op.moves at h
  split at h
  · next d x n v hk =>
    obtain ⟨hn, hw, rfl⟩ := h
    refine .inr ⟨by simp [Op.early, hk, hw], ?_⟩
    unfold State.startOp
    rw [hk]
    exact (if_neg hn).trans (if_neg (ne_true_of_eq_false hw))
  · next d p n z hk =>
    obtain ⟨hn, rfl⟩ := h
    refine .inr ⟨by simp [Op.early, hk], ?_⟩
    unfold State.startOp
    rw [hk]
    exact if_neg hn
  · next d x n xf a b c hk =>
    obtain ⟨hn, h3, rfl⟩ := h
    refine .inl ?_
    unfold State.startOp
    rw [hk]
    exact (if_neg hn).trans (if_neg h3)
  · exact h.elim

theorem State.startOp_late {refs : List W64} (h : o.moves refs) (he : o.early = false) (x : Op)
    (hx : ((s.begins r slot refs).task r).op slot = some x) (hs : x.early = o.early) :
    s.startOp r slot o = s.begins r slot refs := by
  rcases State.startOp_moves (s := s) (r := r) (slot := slot) h with e | ⟨-, e⟩
  · rw [e, State.readEarly_late hx (by rw [hs, he, Bool.and_false])]
  · exact e

/-- Without a free credit the operation waits. -/
theorem State.startOp_creditless {refs : List W64} (h : o.moves refs) (ho : (s.task r).op slot = some o) (hp : o.phase = .ready)
    (hm : ∀ m, s.opMtu r slot refs = some m → s.mtuFree m = 0) : s.startOp r slot o = s := by
  have idle : s.begins r slot refs = s := State.startMove_none refs hm
  rcases State.startOp_moves (s := s) (r := r) (slot := slot) h with e | ⟨-, e⟩
  · rw [e, idle, State.readEarly_late ho (by rw [hp]; rfl)]
  · rw [e, idle]

/-- With a free credit: what becomes of the source that is read at the start. -/
theorem State.startOp_credited {refs : List W64} (h : o.moves refs) (ho : (s.task r).op slot = some o) (m : Nat)
    (hm : s.opMtu r slot refs = some m) (hf : 0 < s.mtuFree m) : let w := s.begins r slot refs
    (o.early = false → ∃ u, done s (s.startOp r slot o) = .next u ∧ w.only u [.cnt]) ∧
    (o.early = true → ∀ y v, (w.task r).op slot = some y → w.readTiles r slot y.toRead = .ok v →
      (((v.task r).op slot).any Op.zkBad = false → ∃ u, done s (s.startOp r slot o) = .next u ∧ v.only u [.cnt]) ∧
      (((v.task r).op slot).any Op.zkBad = true → (v.task r).killable = true → ∃ u, done s (s.startOp r slot o) = .next u ∧
        (u.task r).st = .killed ∧ (u.task r).after = some (.fail 0x19) ∧ (u.task r).op slot = none)) := by
  obtain ⟨⟨res, op⟩, -, -, -, frame⟩ := State.startMove_spec refs m ho hm hf
  refine ⟨fun he => ?_, fun he y v hy hv => ?_⟩
  · rw [State.startOp_late h he _ op rfl]
    exact done_near s _ (frame .pending (by decide)) (frame .latch (by decide))
  · have run : s.startOp r slot o = if ((v.task r).op slot).any Op.zkBad then v.opFault r slot 0x19 else v := by
      rcases State.startOp_moves (s := s) (r := r) (slot := slot) h with e | ⟨n, -⟩
      · have same : y = (o.begun m s.stamp).resolved res := Option.some.inj (hy.symm.trans op)
        have early : (y.phase == .running && y.early) = true := by
          rw [same]
          exact he
        rw [e, State.readEarly_early hy early, hv]
        rfl
      · exact absurd n (by rw [he]; decide)
    have tiles := State.only_readTiles r slot y.toRead (s.begins r slot refs)
    rw [hv] at tiles
    refine ⟨fun hz => ?_, fun hz hk => ?_⟩
    · rw [run, if_neg (ne_true_of_eq_false hz)]
      exact done_near s v ((tiles .pending (by decide)).trans (frame .pending (by decide)))
        ((tiles .latch (by decide)).trans (frame .latch (by decide)))
    · rw [run, if_pos hz]
      obtain ⟨u, hu, -, -, keeps, -⟩ := done_spec s (v.opFault r slot 0x19)
      refine ⟨u, hu, ?_⟩
      rw [State.task_of (keeps .tasks (by decide))]
      exact State.opFault_spec 0x19 hk

/-- Settles O26: each kind of operation starts as its own lemma says. -/
theorem operationStarts : Obligations.OperationStarts := by
  unfold Obligations.OperationStarts
  intro r slot o s ho hs hn hp hd
  have run := exec_operationStart ho hs hn hp hd
  refine ⟨fun h0 => ?_, fun h v hk hw hw0 => ⟨fun ha => ?_, fun ha => ?_⟩,
    fun hv => ⟨fun h v hk => ?_, fun x n k acc d hk hl => ?_, fun h hk => ?_⟩, fun refs h => ?_⟩
  · rw [run, State.startOp_empty h0]
    exact done_completeOp_self s r slot
  · rw [run, State.startOp_wait hk hw hw0, if_pos ha]
    exact done_completeOp_self s r slot
  · rw [run, State.startOp_wait hk hw hw0, if_neg (ne_true_of_eq_false ha)]
    exact done_waitLantern h v ho
  · rw [run, State.startOp_signal hk hv]
    exact done_stage s r slot o _ [] ho
  · rw [run, State.startOp_openwin hk hv hl]
    exact done_stage s r slot o _ _ ho
  · rw [run, State.startOp_closewin hk hv]
    exact done_stage s r slot o _ [] ho
  · have moves : o.moves refs := h
    rw [run]
    refine ⟨fun m hm hf => ?_, fun hm => ?_⟩
    · obtain ⟨op, mtu, others, tasks, frame⟩ := State.startMove_spec refs m ho hm hf
      exact ⟨op, mtu, others, tasks, frame, State.startOp_credited moves ho m hm hf⟩
    · rw [State.startOp_creditless moves ho hp hm]
      exact done_self s

end

end Sys2Proof.Machine
end


section
/-! Memory requests of an engine for its dispatch's own task (11 R298; 06 R160). -/

namespace Sys2Proof.Machine

set_option Elab.async false

/-! ### A request that has drawn its reference reads as before -/

/-- From `s` to `b` a request has entered and drawn a reference: the objects are as they were but for the count of those that
hold them, and so is the rest but for the tasks' references and the requests in progress. -/
structure State.readsAs (s b : State) : Prop where
  only : s.only b [.tasks, .objs, .xl]
  ents : b.xl.ents = s.xl.ents
  rest : { b.objs with tab := [] } = { s.objs with tab := [] }
  obj : ∀ n, ∃ h, b.obj n = { s.obj n with held := h }

section
variable {s b : State} (h : s.readsAs b)
include h

theorem State.readsAs.funcs : b.funcs = s.funcs := h.only .funcs (by decide)

theorem State.readsAs.sto : b.sto = s.sto := h.only .sto (by decide)

theorem State.readsAs.part (n : Nat) : b.part n = s.part n := State.part_of (h.only .parts (by decide)) n

theorem State.readsAs.obj_get {α : Type} (n : Nat) (g : Obj → α) (hg : ∀ (o : Obj) (k : Nat), g { o with held := k } = g o := by
    intro _ _; rfl) : g (b.obj n) = g (s.obj n) := by
  obtain ⟨k, e⟩ := h.obj n
  rw [e, hg]

theorem State.readsAs.objSpace (n : Nat) : b.objSpace (b.obj n) = s.objSpace (s.obj n) := by
  have fport : ∀ k, b.fport k = s.fport k := fun k => by
    unfold State.fport State.vfPort State.inRange State.vfBase State.vfCount State.func
    rw [h.funcs]
  unfold State.objSpace
  rw [fport, h.obj_get n Obj.vf, h.obj_get n Obj.pasid]

theorem State.readsAs.pubBacking (n o : Nat) : b.pubBacking n o = s.pubBacking n o := by
  unfold State.pubBacking
  dsimp only
  rw [h.objSpace n, h.obj_get n Obj.isHost, h.obj_get n fun x => x.extAt (o / 4096)]

theorem State.readsAs.inHole (n o len : Nat) : b.inHole n o len = s.inHole n o len := by
  unfold State.inHole State.beyondRange
  rw [h.obj_get n Obj.isHost, h.obj_get n Obj.exts, h.obj_get n Obj.run, h.obj_get n Obj.part, h.part]
  exact congrArg (· || _) (congrArg (_ && ·) (congrArg (fun f => (pageChunks o len).any f)
    (funext fun c => h.obj_get n fun x => (x.extAt (c.1 / 4096)).isNone)))

theorem State.readsAs.resolve (n o len : Nat) : b.resolve n o len = s.resolve n o len := by
  unfold State.resolve
  exact congrArg (fun f => (pageChunks o len).map f) (funext fun c => by rw [h.inHole, h.pubBacking])

theorem State.readsAs.poolBad (n o len : Nat) : b.poolBad n o len = s.poolBad n o len := by
  unfold State.poolBad State.poolBadOn State.pool
  rw [h.resolve, h.part, h.obj_get n Obj.part]

theorem State.readsAs.readLoc (l : Loc) : b.readLoc l = s.readLoc l := by
  have freeCtr : b.freeCtr = s.freeCtr := h.only .freeCtr (by decide)
  unfold State.readLoc State.hostMem
  rw [h.sto, freeCtr]

theorem State.readsAs.reach (sp : Space) (a : Nat) : b.reach sp a = s.reach sp a := by
  have atu : b.objs.atuCfg = s.objs.atuCfg := by
    have e := congrArg ObjTab.atuCfg h.rest
    exact e
  have base : b.objs.devmemBase = s.objs.devmemBase := by
    have e := congrArg ObjTab.devmemBase h.rest
    exact e
  have size : b.objs.devmemSize = s.objs.devmemSize := by
    have e := congrArg ObjTab.devmemSize h.rest
    exact e
  unfold State.reach State.findX State.decodeAddr
  rw [h.ents, atu, base, size]

theorem State.readsAs.backByte (x : Backing) : b.backByte x = s.backByte x := by
  cases x with
  | zero => rfl
  | loc l => exact h.readLoc l
  | host sp a =>
      show (b.reach sp a).bind b.readLoc = (s.reach sp a).bind s.readLoc
      rw [h.reach]
      exact congrArg (Option.bind _) (funext h.readLoc)
  | hole => rfl

/-- The task's bytes of an object, where the task has the same drafts and has written the same scratch bytes. -/
theorem State.readsAs.taskRead {t u : Task} (n o len : Nat) (hd : u.drafts = t.drafts) (hs : u.scr = t.scr) :
    b.taskRead u n o len = s.taskRead t n o len := by
  have freeCtr : b.freeCtr = s.freeCtr := h.only .freeCtr (by decide)
  have backing : ∀ (i : Nat) (x : Backing), u.backingOn n i x = t.backingOn n i x := fun i x => by
    unfold Task.backingOn Task.draftAt
    rw [hd]
  unfold State.taskRead State.taskByte State.taskByteOn
  exact congrArg (fun f => (List.range len).map f) (funext fun i => by
    rw [h.obj_get n Obj.scratch, freeCtr, hs, h.backByte, backing, h.pubBacking])

theorem State.readsAs.hostSegs {t u : Task} (n o len : Nat) (hd : u.drafts = t.drafts) :
    b.hostSegs u n o len = s.hostSegs t n o len := by
  have backing : ∀ (i : Nat) (x : Backing), Task.backingOn { u with drafts := u.drafts.filter fun d => d.kind != .host } n i x =
      Task.backingOn { t with drafts := t.drafts.filter fun d => d.kind != .host } n i x := fun i x => by
    unfold Task.backingOn Task.draftAt
    rw [hd]
  unfold State.hostSegs State.backing
  exact congrArg (fun f => (pageChunks o len).filterMap f) (funext fun c => by rw [backing, h.pubBacking])

end

end Sys2Proof.Machine
end


section
/-! Writes of a task go into drafts (06 R163; 11 R305 to R308), and memory requests of an engine (11 R298). -/

namespace Sys2Proof.Machine

set_option Elab.async false

/-! ### Pages -/

theorem State.only_wsPage {s u : State} {n keep : Nat} {p : PageRef} (h : s.wsPage n keep = some (p, u)) : s.only u [.sto] := by
  unfold State.wsPage at h
  split at h
  · split at h
    · rw [← (Prod.mk.inj (Option.some.inj h)).2]
      exact State.only_holdUnit s _ _
    · exact nomatch h
  · split at h
    · obtain ⟨k, -, e⟩ := Option.map_eq_some_iff.mp h
      rw [← (Prod.mk.inj e).2]
      exact State.only_holdUnit s _ _
    · exact nomatch h

theorem State.only_allocPage {s u : State} {n place keep : Nat} {p : PageRef} (h : s.allocPage n place keep = some (p, u)) :
    s.only u [.sto] := by
  unfold State.allocPage at h
  split at h
  · next x hx =>
    rw [Option.some.inj h] at hx
    split at hx
    · exact nomatch hx
    · exact State.only_wsPage hx
  · split at h
    · exact nomatch h
    · exact State.only_pkgPage h

theorem State.only_takePages {take : State → Option (PageRef × State)} (ht : ∀ s u p, take s = some (p, u) → s.only u [.sto]) :
    ∀ (k : Nat) (s u : State) (ps : List PageRef), s.takePages take k = some (ps, u) → s.only u [.sto] := by
  intro k
  induction k with
  | zero =>
      intro s u ps h
      rw [← (Prod.mk.inj (Option.some.inj h)).2]
      exact State.only_refl s _
  | succ k ih =>
      intro s u ps h
      unfold State.takePages at h
      split at h
      · exact nomatch h
      · next p t hp =>
        split at h
        · exact nomatch h
        · next qs v hv =>
          rw [← (Prod.mk.inj (Option.some.inj h)).2]
          exact State.only_trans (ht s t p hp) (ih t v qs hv)

theorem State.only_allocPages {s u : State} {n place keep k : Nat} {ps : List PageRef}
    (h : s.allocPages n place keep k = some (ps, u)) : s.only u [.sto] := by
  unfold State.allocPages at h
  split at h
  · next x hx =>
    rw [Option.some.inj h] at hx
    split at hx
    · exact nomatch hx
    · exact State.only_takePages (fun _ _ _ e => State.only_wsPage e) k s u ps hx
  · split at h
    · exact nomatch h
    · exact State.only_takePages (fun _ _ _ e => State.only_pkgPage e) k s u ps h

theorem State.only_zeroPages (s : State) (l : List PageRef) : s.only (s.zeroPages l) [.sto] :=
  State.only_each _ (fun u p => State.only_zeroPage u p) l s

/-! ### Drafts -/

/-- A task without its drafts, and the scratch bytes that it has written. -/
def Task.undrawn (t : Task) : Task := { t with drafts := [], scr := [] }

/-- The parts that preparing and making a write may reach. -/
def draftParts : List Field := [.tasks, .sto, .xl, .cnt, .funcs, .out, .objs, .freeCtr, .rbuf, .stamp]

/-- From `s` to `t` the drafts of record `r` have grown. -/
def State.drafting (s : State) (r : Nat) (t : State) : Prop := s.ownTask r Task.undrawn draftParts t

section
variable {r : Nat}

theorem State.drafting_of {s t : State} {l : List Field} (h : s.only t l) (ht : .tasks ∉ l := by decide)
    (hl : (l.all fun f => draftParts.contains f) = true := by decide) : s.drafting r t := State.ownTask_of_only h ht hl

theorem State.drafting_refl (s : State) : s.drafting r s := State.ownTask_refl s _

theorem State.drafting_trans {s t u : State} (h : s.drafting r t) (g : t.drafting r u) : s.drafting r u := State.ownTask_trans h g

theorem State.drafting_modTask (s : State) (g : Task → Task) (hg : ∀ t, (g t).undrawn = t.undrawn) : s.drafting r (s.modTask r g) :=
  State.ownTask_modTask s g (by decide) hg

theorem State.drafting_modDraft (s : State) (n pg : Nat) (g : Draft → Draft) : s.drafting r (s.modDraft r n pg g) :=
  State.drafting_modTask s _ fun _ => rfl

theorem State.drafting_addDraft (s : State) (d : Draft) : s.drafting r (s.modTask r fun t => { t with drafts := t.drafts ++ [d] }) :=
  State.drafting_modTask s _ fun _ => rfl

theorem Prep.drafting_ite {s : State} {p q : Prep} (c : Prop) [Decidable c] (h : s.drafting r p.reached)
    (g : s.drafting r q.reached) : s.drafting r (if c then p else q).reached := by
  split <;> assumption

theorem Prep.drafting_ok {s u : State} (h : s.drafting r u) : s.drafting r (Prep.ok u).reached := h

theorem State.drafting_makeDraft (s : State) (n pg : Nat) (b : Bool) : s.drafting r (s.makeDraft r n pg b).reached := by
  have alloc : ∀ {u : State} {p place keep k : Nat} {ps : List PageRef}, s.allocPages p place keep k = some (ps, u) → s.drafting r u :=
    fun h => State.drafting_of (State.only_allocPages h)
  unfold State.makeDraft
  dsimp only
  split
  · refine Prep.drafting_ite _ (State.drafting_refl s) ?_
    split
    · exact Prep.drafting_ok (State.drafting_addDraft s _)
    · split
      · exact State.drafting_refl s
      · next ps u hu => exact Prep.drafting_ok (State.drafting_trans (alloc hu) (State.drafting_addDraft u _))
  · refine Prep.drafting_ite _ (State.drafting_refl s) (Prep.drafting_ite _ (State.drafting_refl s) ?_)
    split
    · exact State.drafting_refl s
    · next ps u hu =>
      exact Prep.drafting_ok (State.drafting_trans (alloc hu)
        (State.drafting_trans (State.drafting_of (State.only_zeroPages u ps)) (State.drafting_addDraft _ _)))

theorem State.only_copyGran (p : PageRef) (f : Nat → Nat → Option Byte) (l : List Nat) (s : State) :
    s.only (s.each l fun v g => v.each (List.range 64) fun w b => w.writeLoc (p.loc (g * 64 % 4096 + b)) (f g b)) [.sto] :=
  State.only_each _ (fun v _ => State.only_each _ (fun w _ => State.only_writeLoc w _ _) _ v) l s

theorem State.drafting_touchDraft (s : State) (n o len : Nat) : s.drafting r (s.touchDraft r n o len).reached := by
  unfold State.touchDraft
  dsimp only
  split
  · exact State.drafting_refl s
  · next d hd =>
    split
    · refine Prep.drafting_ite _ (State.drafting_refl s) ?_
      split
      · exact Prep.drafting_ok (State.drafting_trans (State.drafting_of (State.only_copyPage s _ _)) (State.drafting_modDraft _ _ _ _))
      · exact State.drafting_refl s
    · split
      · exact State.drafting_refl s
      · next p u hu =>
        have hold : s.drafting r u := by
          split at hu
          · rw [← (Prod.mk.inj (Option.some.inj hu)).2]
            exact State.drafting_refl s
          · obtain ⟨x, hx, e⟩ := Option.map_eq_some_iff.mp hu
            rw [← (Prod.mk.inj e).2]
            exact State.drafting_trans (State.drafting_of (State.only_allocPage hx)) (State.drafting_modDraft _ _ _ _)
        exact Prep.drafting_ok (State.drafting_trans (State.drafting_trans hold
          (State.drafting_of (State.only_copyGran p (fun g b => s.backByte (s.pubBacking n (g * 64 + b))) _ u)))
          (State.drafting_modDraft _ _ _ _))
    · split
      · exact State.drafting_refl s
      · next ps u hu =>
        exact Prep.drafting_ok (State.drafting_trans (State.drafting_of (State.only_allocPages hu))
          (State.drafting_trans (State.drafting_of (State.only_zeroPages u ps)) (State.drafting_modDraft _ _ _ _)))
    · exact State.drafting_refl s

theorem State.drafting_prepChunk (s : State) (n o len : Nat) (b : Bool) (x : Backing) :
    s.drafting r (s.prepChunk r n o len b x).reached := by
  unfold State.prepChunk
  refine Prep.drafting_ite _ (State.drafting_refl s) (Prep.drafting_ite _ (State.drafting_refl s)
    (Prep.drafting_ite _ (State.drafting_refl s) ?_))
  cases hd : (s.task r).draftAt n (o / 4096) with
  | some d => exact State.drafting_touchDraft s n o len
  | none =>
      have make := State.drafting_makeDraft (r := r) s n (o / 4096) (b && !s.lostPage x)
      dsimp only
      generalize s.makeDraft r n (o / 4096) (b && !s.lostPage x) = p at *
      cases p with
      | ok u => exact State.drafting_trans make (State.drafting_touchDraft u n o len)
      | wait u => exact make
      | fail u st => exact make

theorem State.drafting_prepChunks (n : Nat) (b : Bool) : ∀ (l : List (Backing × Nat)) (o : Nat) (s : State),
    s.drafting r (s.prepChunks r n b o l).reached := by
  intro l
  induction l with
  | nil => exact fun o s => State.drafting_refl s
  | cons e l ih =>
      intro o s
      obtain ⟨x, k⟩ := e
      have first := State.drafting_prepChunk (r := r) s n o k b x
      unfold State.prepChunks
      generalize s.prepChunk r n o k b x = p at *
      cases p with
      | ok u => exact State.drafting_trans first (ih (o + k) u)
      | wait u => exact first
      | fail u st => exact first

theorem State.only_tryWrites (who : Who) : ∀ (l : List (Space × Nat × Nat)) (s : State),
    s.only (s.tryWrites who l).reached [.xl, .cnt, .funcs, .out, .objs] := by
  intro l
  induction l with
  | nil => exact fun s => State.only_refl s _
  | cons e l ih =>
      intro s
      obtain ⟨sp, a, n⟩ := e
      have h := State.only_tryRange s who sp a n true
      unfold State.tryWrites
      split
      · next u hu =>
        rw [hu] at h
        exact h
      · next u hu =>
        rw [hu] at h
        exact h
      · next u x hu =>
        rw [hu] at h
        exact State.only_trans h (Prep.only_ite _ (Prep.only_fail (State.only_ctxRefuse u).sub) (ih u))

/-- What preparing a write for a request of a port leaves of the task: more drafts. -/
theorem State.drafting_prepWrite (s : State) (id n o len : Nat) : s.drafting r (s.prepWrite (.port id) r n o len).reached := by
  unfold State.prepWrite State.prepWriteOn
  refine Prep.drafting_ite _ (State.drafting_refl s) (Prep.drafting_ite _ (State.drafting_refl s)
    (Prep.drafting_ite _ (State.drafting_of (State.only_ctxRefuse s)) ?_))
  have asks : ∀ l m, s.drafting r (if s.verkai (s.task r).part = true then s.tryWrites (.port id) l else s.fetchSegs (.port id) m).reached :=
    fun l m => Prep.drafting_ite _ (State.drafting_of (State.only_tryWrites _ l s)) (State.drafting_of (State.only_fetchSegs_port s id m))
  specialize asks (hostPart (s.resolve n o len)) ((s.partGrans r n o len).flatMap fun g => s.hostSegs (s.task r) n (g * 64) 64)
  generalize (if s.verkai (s.task r).part = true then _ else _ : Prep) = p at *
  cases p with
  | ok u => exact State.drafting_trans asks (State.drafting_prepChunks n _ _ o u)
  | wait u => exact asks
  | fail u st => exact asks

end

end Sys2Proof.Machine
end


section
/-! ENGINE_MEMORY_REQUEST of a dispatch's own task (11 R298; 06 R160). -/

namespace Sys2Proof.Machine

set_option Elab.async false

/-! ### Making a prepared write -/

section
variable {r : Nat}

theorem State.only_putBack (s : State) (l : List (Option Byte)) (x : Backing) : s.only (s.putBack l x) [.sto, .out, .cnt] := by
  cases x with
  | loc a => exact (State.only_writeRange l s a).sub
  | host sp a => exact (State.only_hostWriteP s sp a l).sub
  | _ => exact State.only_refl s _

theorem State.only_putChunks (n : Nat) : ∀ (res : List (Backing × Nat)) (o : Nat) (l : List (Option Byte)) (s : State),
    s.only (s.putChunks r n o res l) [.sto, .out, .cnt] := by
  intro res
  induction res with
  | nil => exact fun o l s => State.only_refl s _
  | cons e res ih =>
      intro o l s
      obtain ⟨x, k⟩ := e
      exact State.only_trans (State.only_putBack s _ _) (ih _ _ _)

theorem State.only_touchBuf (s : State) (q g n o len : Nat) : s.only (s.touchBuf q g n o len) [.rbuf] := by
  intro f hf
  cases f <;> first | rfl | simp at hf

theorem State.drafting_foldl {α : Type} {g : State → α → State} (hg : ∀ u a, State.drafting u r (g u a)) :
    ∀ (l : List α) (s : State), s.drafting r (l.foldl g s) := fun l s => State.ownTask_each hg l s

theorem State.drafting_settleHoles (s : State) (n : Nat) : s.drafting r (s.settleHoles r n) :=
  State.drafting_trans (State.drafting_modTask s (fun t => { t with drafts := t.drafts.filter fun d =>
      !(d.obj == n && d.kind == .new && d.off < (s.obj n).publishedPg) }) fun _ => rfl)
    (State.drafting_foldl (g := fun u d => (u.publishDraft d).1) (fun u d => State.drafting_of (State.only_publishDraft u d)) _ _)

theorem State.drafting_ite {s t u : State} (c : Prop) [Decidable c] (h : s.drafting r t) (g : s.drafting r u) :
    s.drafting r (if c then t else u) := by
  split <;> assumption

theorem State.drafting_taskWrite (s : State) (n o : Nat) (l : List (Option Byte)) : s.drafting r (s.taskWrite r n o l) := by
  unfold State.taskWrite State.taskWriteOn
  dsimp only
  have put : s.drafting r ((s.putChunks r n o (s.resolve n o l.length) l).touchBuf r (s.task r).gen n o l.length) :=
    State.drafting_trans (State.drafting_of (State.only_putChunks n _ o l s)) (State.drafting_of (State.only_touchBuf _ _ _ _ _ _))
  generalize (s.putChunks r n o (s.resolve n o l.length) l).touchBuf r (s.task r).gen n o l.length = u at *
  have settled : s.drafting r (if s.verkai (s.task r).part = true then u.settleHoles r n else u) :=
    State.drafting_ite _ (State.drafting_trans put (State.drafting_settleHoles u n)) put
  exact State.drafting_ite _ (State.drafting_trans settled (State.drafting_modTask _ _ fun _ => rfl)) settled

end

/-! ### The request -/

section
variable {k n i r slot len : Nat} {g : Tag} {e : Option Nat} {w : W64} {data : List Byte} {d : Disp} {l : LPort} {s : State}

/-- The request has entered. -/
def State.asks (s : State) (k : Nat) (g : Tag) (e : Option Nat) (kind : MemKind) (w : W64) (len : Nat) (data : List Byte) : State :=
  s.enterReq (.engine k g e kind w len data)

theorem State.only_asks (s : State) (k : Nat) (g : Tag) (e : Option Nat) (kind : MemKind) (w : W64) (len : Nat) (data : List Byte) :
    s.only (s.asks k g e kind w len data) [.xl] := State.only_modXl s _

theorem exec_engineMemoryRequest (kind : MemKind) (hm : s.matchRet k g = some (n, i, d, l)) (hs : d.stopping = false)
    (ho : d.owner = .task r (s.task r).gen slot) : exec (.engineMemoryRequest k g e kind w len data) s =
      done s ((s.asks k g e kind w len data).engineAccess s.xl.portNo k r kind w len data) := by
  have found : (s.asks k g e kind w len data).matchRet k g = some (n, i, d, l) := hm
  have own : ((s.asks k g e kind w len data).task r).gen = (s.task r).gen := rfl
  show done s ((s.asks k g e kind w len data).engineReq s.xl.portNo k g e kind w len data) = _
  unfold State.engineReq
  rw [found]
  dsimp only
  rw [hs, ho]
  exact congrArg (done s) ((if_neg Bool.false_ne_true).trans (if_pos own))

/-- The request has drawn the task's reference. -/
def State.asksRef (s : State) (k : Nat) (g : Tag) (e : Option Nat) (kind : MemKind) (w : W64) (len : Nat) (data : List Byte)
    (r : Nat) : State := (s.asks k g e kind w len data).drawRef r (orNum w)

theorem State.asksRef_spec (s : State) (k : Nat) (g : Tag) (e : Option Nat) (kind : MemKind) (w : W64) (len : Nat)
    (data : List Byte) (r : Nat) : let b := s.asksRef k g e kind w len data r
    s.readsAs b ∧ b.task r = { s.task r with refs := refsWith (s.task r).refs [orNum w] } ∧ (∀ q, q ≠ r → b.task q = s.task q) := by
  obtain ⟨own, others, objs, only, -, each⟩ := State.drawRefs_spec r [orNum w] (s.asks k g e kind w len data)
  refine ⟨⟨State.only_trans (State.only_asks s k g e kind w len data).sub only.sub, ?_, ?_, fun j => ?_⟩, own, others⟩
  · have e : (s.asksRef k g e kind w len data r).xl = (s.asks k g e kind w len data).xl := only .xl (by decide)
    exact (congrArg Xl.ents e).trans rfl
  · have := congrArg (fun o : ObjTab => { o with tab := [] }) objs
    exact this
  · have := each j
    by_cases h : j ∈ [orNum w] ∧ j ∉ ((s.asks k g e kind w len data).task r).refs
    · rw [if_pos h] at this
      exact ⟨_, this⟩
    · rw [if_neg h] at this
      exact ⟨(s.obj j).held, this⟩

theorem State.only_endJob (s : State) (id : Nat) : s.only (s.endJob id) [.xl] :=
  State.only_trans (State.only_modXl s _) (State.only_dropX _ _)

/-- What a read answers (11 R298). -/
def State.engineAnswers (s : State) (id k r : Nat) (w : W64) (len : Nat) : State :=
  ((s.tickN 0x0D0 (s.bankGrants (s.task r) ⟨false, orNum w, orOff w, len⟩) (some (s.task r).part)).send
    (.engineReply k (s.taskRead (s.task r) (orNum w) (orOff w) len))).endJob id

theorem State.engineAccess_read (b : State) (id : Nat) (hst : s.engineStatus r w len false = 0) (hb : s.drawRef r (orNum w) = b)
    (hp : b.prepRead (.port id) r (orNum w) (orOff w) len = .ok b) :
    s.engineAccess id k r .read w len data = b.engineAnswers id k r w len := by
  unfold State.engineAccess
  dsimp only
  rw [show s.engineStatus r w len (MemKind.read != .read) = 0 from hst, hb]
  refine (if_neg (fun h => h rfl)).trans ?_
  rw [if_neg (by decide), hp]
  dsimp only [Prep.runReq]
  exact (if_neg (fun h => nomatch h.1)).trans (if_pos rfl)

/-- What a write leaves (11 R298). -/
def State.engineWrote (u : State) (id r : Nat) (w : W64) (data : List Byte) (grants part : Nat) : State :=
  ((u.taskWrite r (orNum w) (orOff w) (data.map some)).tickN 0x0D0 grants (some part)).endJob id

theorem State.engineAccess_write (b u : State) (id : Nat) (hst : s.engineStatus r w len true = 0) (hb : s.drawRef r (orNum w) = b)
    (hp : b.prepWrite (.port id) r (orNum w) (orOff w) data.length = .ok u) :
    ∃ gr part, s.engineAccess id k r .write w len data = u.engineWrote id r w data gr part := by
  refine ⟨b.bankGrants (b.task r) ⟨false, orNum w, orOff w, len⟩, (b.task r).part, ?_⟩
  unfold State.engineAccess
  dsimp only
  rw [show s.engineStatus r w len (MemKind.write != .read) = 0 from hst, hb]
  refine (if_neg (fun h => h rfl)).trans ?_
  rw [if_pos rfl]
  dsimp only [Prep.runReq]
  refine (if_neg (fun h => nomatch h.1)).trans ?_
  rw [if_neg (by decide), hp]
  exact if_neg (fun h => nomatch h)

theorem State.engineAccess_fail (kind : MemKind) (id : Nat) (hst : s.engineStatus r w len (kind != .read) ≠ 0) :
    s.engineAccess id k r kind w len data = (s.endJob id).failTask r (s.engineStatus r w len (kind != .read)) := if_pos hst

end

/-- Settles O32: a request acts for the dispatch's own task, with the reference that it draws. -/
theorem engineRequests : Obligations.EngineRequests := by
  unfold Obligations.EngineRequests
  intro k n i r slot len g e w data d l s hm hs ho
  refine ⟨fun hst hl hh hp hseg => ?_, fun u hst hu => ?_, fun kind hst hk => ?_⟩
  · obtain ⟨reads, own, others⟩ := State.asksRef_spec s k g e .read w len data r
    have prep : (s.asksRef k g e .read w len data r).prepRead (.port s.xl.portNo) r (orNum w) (orOff w) len =
        .ok (s.asksRef k g e .read w len data r) := by
      unfold State.prepRead
      rw [reads.obj_get (orNum w) fun x => x.lostAt (orOff w) len, reads.inHole, reads.poolBad,
        reads.hostSegs (t := s.task r) _ _ _ (by rw [own]), hl, hh, hp, hseg]
      rfl
    have access := State.engineAccess_read (s := s.asks k g e .read w len data) (k := k) (data := data)
      (s.asksRef k g e .read w len data r) s.xl.portNo hst rfl prep
    have old := reads.taskRead (t := s.task r) (u := (s.asksRef k g e .read w len data r).task r) (orNum w) (orOff w) len
      (by rw [own]) (by rw [own])
    have frame := reads.only
    rw [exec_engineMemoryRequest .read hm hs ho, access]
    generalize s.asksRef k g e .read w len data r = b at *
    obtain ⟨t, ht, -, -, keeps, only⟩ := done_spec s (b.engineAnswers s.xl.portNo k r w len)
    have fin := State.only_endJob ((b.tickN 0x0D0 (b.bankGrants (b.task r) ⟨false, orNum w, orOff w, len⟩)
      (some (b.task r).part)).send (.engineReply k (b.taskRead (b.task r) (orNum w) (orOff w) len))) s.xl.portNo
    have ticked := State.only_tickN b 0x0D0 (b.bankGrants (b.task r) ⟨false, orNum w, orOff w, len⟩) (some (b.task r).part)
    have tasks := State.task_of ((keeps .tasks (by decide)).trans ((fin .tasks (by decide)).trans (ticked .tasks (by decide))))
    refine ⟨t, ht, ?_, ?_, fun q hq => (tasks q).trans (others q hq), only _ (by decide) ?_⟩
    · refine (keeps .out (by decide)).trans ((fin .out (by decide)).trans ?_)
      exact congrArg₂ (fun x y => Out.engineReply k x :: y) old ((ticked .out (by decide)).trans (frame .out (by decide)))
    · rw [tasks, own]
    · exact State.only_trans frame.sub (State.only_trans (State.only_trans ticked.sub (State.only_send _ _).sub) fin.sub)
  · obtain ⟨-, own, -⟩ := State.asksRef_spec s k g e .write w len data r
    obtain ⟨gr, part, access⟩ := State.engineAccess_write (s := s.asks k g e .write w len data) (k := k) (data := data)
      (s.asksRef k g e .write w len data r) u s.xl.portNo hst rfl hu
    have prep := State.drafting_prepWrite (r := r) (s.asksRef k g e .write w len data r) s.xl.portNo (orNum w) (orOff w) data.length
    have ready : (s.asksRef k g e .write w len data r).prepWrite (.port s.xl.portNo) r (orNum w) (orOff w) data.length = .ok u := hu
    rw [ready] at prep
    obtain ⟨-, -, prepOwn⟩ := prep
    obtain ⟨-, wrote, writeOwn⟩ := State.drafting_taskWrite (r := r) u (orNum w) (orOff w) (data.map some)
    rw [exec_engineMemoryRequest .write hm hs ho, access]
    unfold State.engineWrote
    generalize u.taskWrite r (orNum w) (orOff w) (data.map some) = v at *
    obtain ⟨t, ht, -, -, keeps, -⟩ := done_spec s ((v.tickN 0x0D0 gr (some part)).endJob s.xl.portNo)
    have fin : v.only ((v.tickN 0x0D0 gr (some part)).endJob s.xl.portNo) [.cnt, .xl] :=
      State.only_trans (State.only_tickN v _ _ _).sub (State.only_endJob _ _).sub
    have tasks : t.tasks = v.tasks := (keeps .tasks (by decide)).trans (fin .tasks (by decide))
    refine ⟨t, ht, (keeps .sto (by decide)).trans (fin .sto (by decide)), tasks, ?_, fun q hq => (State.task_of tasks q).trans (wrote q hq)⟩
    have refs := congrArg Task.refs (writeOwn.trans (prepOwn.trans (congrArg Task.undrawn own)))
    exact (congrArg Task.refs (State.task_of tasks r)).trans refs
  · rw [exec_engineMemoryRequest kind hm hs ho, State.engineAccess_fail (s := s.asks k g e kind w len data) kind s.xl.portNo hst]
    have same : ((s.asks k g e kind w len data).endJob s.xl.portNo).task r = s.task r :=
      State.task_of (State.only_trans (State.only_asks s k g e kind w len data) (State.only_endJob _ _) .tasks (by decide)) r
    have alive : (((s.asks k g e kind w len data).endJob s.xl.portNo).task r).killable = true := by
      rw [same]
      exact hk
    obtain ⟨t, ht, -, -, keeps, -⟩ := done_spec s (((s.asks k g e kind w len data).endJob s.xl.portNo).failTask r
      ((s.asks k g e kind w len data).engineStatus r w len (kind != .read)))
    obtain ⟨st, after, -⟩ := Task.killedBy_fields (State.kill_spec _ r (.fail _) false alive).1
    refine ⟨t, ht, ?_, ?_⟩
    · rw [State.task_of (keeps .tasks (by decide))]
      exact st
    · rw [State.task_of (keeps .tasks (by decide))]
      exact after

end Sys2Proof.Machine
end


section
/-! Page responses and their timeout (11 R320). -/

namespace Sys2Proof.Machine

set_option Elab.async false

theorem State.portsAgain_of_none (s : State) (h : s.xl.waiting = []) : s.portsAgain = s := by
  have peers : s.peersAgain = s := by
    unfold State.peersAgain
    rw [h]
    rfl
  rw [State.portsAgain, peers, State.engineAgain_of_none s h]

theorem modAt_length {α : Type} (f : α → α) : ∀ (i : Nat) (l : List α), (modAt f i l).length = l.length
  | _, [] => by cases ‹Nat› <;> rfl
  | 0, _ :: _ => rfl
  | i + 1, _ :: l => congrArg (· + 1) (modAt_length f i l)

/-! ### The pump -/

theorem State.priPump_xl (s : State) (p : Nat) : ∃ l, l.length = s.xl.pri.length ∧ (s.priPump p).xl = { s.xl with pri := l } := by
  unfold State.priPump
  split
  · split
    · exact ⟨s.xl.pri, rfl, rfl⟩
    · next i _ =>
      refine ⟨modAt (fun r => { r with sent := true }) i s.xl.pri, modAt_length _ _ _, ?_⟩
      dsimp only
      refine (State.only_send _ _ .xl (by decide)).trans ((State.only_vfTick _ _ _ _ .xl (by decide)).trans ?_)
      exact (State.only_tick _ _ _ .xl (by decide)).trans rfl
  · exact ⟨s.xl.pri, rfl, rfl⟩

theorem State.funcsKept_lockout {s t : State} (h : s.funcsKept t) (k : Nat) : (t.func k).lockout = (s.func k).lockout := by
  obtain ⟨c, e⟩ := h k
  rw [e]

theorem State.priPump_lockout (s : State) (p k : Nat) : ((s.priPump p).func k).lockout = (s.func k).lockout := by
  unfold State.priPump
  split
  · split
    · rfl
    · dsimp only
      rw [State.func_of (State.only_send _ _ .funcs (by decide))]
      refine (State.funcsKept_lockout (State.funcsKept_vfTick _ _ _ _) k).trans ?_
      rw [State.func_of (State.only_tick _ _ _ .funcs (by decide))]
      rfl
  · rfl

/-! ### Requests that are answered, fail or are dropped -/

section
variable {p i : Nat} {r : PriReq} {s : State} (hr : s.priAt p i = some r) (hw : s.xl.waiting = [])
include hr

theorem State.priAt_mem : r ∈ s.xl.pri ∧ r.sent = true ∧ r.sp.port = p := by
  have := List.mem_of_getElem? hr
  obtain ⟨mem, h⟩ := List.mem_filter.1 this
  obtain ⟨sent, port⟩ := (Bool.and_eq_true _ _).mp h
  exact ⟨mem, sent, beq_iff_eq.1 port⟩

theorem State.priAt_erase : (s.xl.pri.erase r).length + 1 = s.xl.pri.length := by
  have mem := (State.priAt_mem hr).1
  have := List.length_erase_of_mem mem
  have := List.length_pos_of_mem mem
  omega

/-- The failed accesses of a page request. -/
def PriReq.failures (r : PriReq) : List (Who × ReqKind) := r.who.map fun w => (w, ReqKind.xlate r.sp r.page)

theorem State.priFails_spec : let u := s.priFails r
    u.xl.fails = s.xl.fails ++ r.failures ∧ u.objs = { s.objs with priFail := satAdd 0xFFFF s.objs.priFail 1 } ∧
      (u.func (pfKey p)).lockout = (s.func (pfKey p)).lockout ∧ u.xl.pri.length + 1 = s.xl.pri.length ∧
      u.xl.waiting = s.xl.waiting ∧ s.only u [.xl, .objs, .funcs, .out, .cnt] := by
  obtain ⟨l, hl, e⟩ := State.priPump_xl (s.priDrop r) r.sp.port
  have pump := State.only_priPump (s.priDrop r) r.sp.port
  refine ⟨(congrArg Xl.fails e).trans rfl, pump .objs (by decide), State.priPump_lockout (s.priDrop r) r.sp.port (pfKey p), ?_,
    (congrArg Xl.waiting e).trans rfl, ?_⟩
  · refine (congrArg (fun x : Xl => x.pri.length + 1) e).trans ?_
    show l.length + 1 = _
    rw [hl]
    exact State.priAt_erase hr
  · exact State.only_trans (State.only_trans (State.only_modXl s _).sub (State.only_priFailed _).sub) pump.sub

/-- After Success the old translation is forgotten. -/
def State.forgets (s : State) (r : PriReq) : State :=
  s.modXl fun x => { x with ents := x.ents.filter fun e => !(e.sp == r.sp && e.page == r.page) }

theorem State.priEnd_spec : let u := (s.forgets r).priEnd r
    u.findX r.sp r.page = none ∧ u.xl.fails = s.xl.fails ∧ u.xl.pri.length + 1 = s.xl.pri.length ∧ u.xl.waiting = s.xl.waiting ∧
      s.only u [.xl, .funcs, .out, .cnt] := by
  obtain ⟨l, hl, e⟩ := State.priPump_xl ((s.forgets r).modXl fun x => { x with pri := x.pri.erase r }) r.sp.port
  have pump := State.only_priPump ((s.forgets r).modXl fun x => { x with pri := x.pri.erase r }) r.sp.port
  refine ⟨?_, (congrArg Xl.fails e).trans rfl, ?_, (congrArg Xl.waiting e).trans rfl, ?_⟩
  · refine (congrArg (fun x : Xl => x.ents.find? fun y => y.sp == r.sp && y.page == r.page) e).trans ?_
    refine List.find?_eq_none.2 fun y hy => ?_
    have kept := (List.mem_filter.1 hy).2
    rw [Bool.not_eq_true'] at kept
    exact ne_true_of_eq_false kept
  · refine (congrArg (fun x : Xl => x.pri.length + 1) e).trans ?_
    show l.length + 1 = _
    rw [hl]
    exact State.priAt_erase hr
  · have erased : s.only ((s.forgets r).modXl fun x => { x with pri := x.pri.erase r }) [.xl, .cnt, .funcs, .out] :=
      State.only_trans (State.only_modXl s _).sub (State.only_modXl (s.forgets r) _).sub
    exact (State.only_trans erased pump).sub

end

/-! ### Response Failure -/

theorem filter_erase_of_not {α : Type} [BEq α] [LawfulBEq α] (f : α → Bool) (a : α) (h : f a = false) (l : List α) :
    (l.erase a).filter f = l.filter f := by
  induction l with
  | nil => rfl
  | cons b l ih =>
      rw [List.erase_cons]
      split
      · next e =>
        rw [List.filter_cons_of_neg]
        rw [← beq_iff_eq.1 e] at h
        simp [h]
      · rw [List.filter_cons, List.filter_cons, ih]

theorem diff_filter_spec {α : Type} [DecidableEq α] (f : α → Bool) (l : List α) :
    (l.diff (l.filter f)).length + (l.filter f).length = l.length ∧ ∀ a ∈ l.diff (l.filter f), a ∈ l ∧ f a = false := by
  have perm := List.subperm_append_diff_self_of_count_le (l₁ := l.filter f) (l₂ := l) fun a _ =>
    (List.filter_sublist (p := f) (l := l)).count_le a
  refine ⟨?_, fun a ha => ⟨(List.diff_sublist _ _).subset ha, ?_⟩⟩
  · have := perm.length_eq
    rw [List.length_append] at this
    omega
  · cases hf : f a with
    | false => rfl
    | true =>
        have pos := List.count_pos_iff.2 ha
        rw [List.count_diff, List.count_filter hf] at pos
        omega

/-- The objects' part after `k` page requests have failed (11 R327). -/
def ObjTab.priFailures (o : ObjTab) (k : Nat) : ObjTab := { o with priFail := if k = 0 then o.priFail else satAdd 0xFFFF o.priFail k }

theorem ObjTab.priFailures_succ (o : ObjTab) (k : Nat) : (o.priFailures 1).priFailures k = o.priFailures (k + 1) := by
  have sum : (if k = 0 then satAdd 0xFFFF o.priFail 1 else satAdd 0xFFFF (satAdd 0xFFFF o.priFail 1) k) = satAdd 0xFFFF o.priFail (k + 1) := by
    unfold satAdd
    split <;> omega
  exact congrArg (fun n => { o with priFail := n }) sum

/-- Requests that are dropped one after the other. -/
theorem State.each_priDrop (l : List PriReq) : ∀ s : State, let t := s.each l State.priDrop
    t.xl.pri = s.xl.pri.diff l ∧ t.xl.fails = s.xl.fails ++ l.flatMap PriReq.failures ∧ t.xl.waiting = s.xl.waiting ∧
      t.objs = s.objs.priFailures l.length ∧
      s.only t [.xl, .objs] := by
  induction l with
  | nil =>
      intro s
      refine ⟨(List.diff_nil _).symm, (List.append_nil _).symm, rfl, rfl, State.only_refl s _⟩
  | cons r l ih =>
      intro s
      obtain ⟨pri, fails, waiting, objs, only⟩ := ih (s.priDrop r)
      refine ⟨pri.trans ?_, fails.trans ?_, waiting, objs.trans ?_, ?_⟩
      · rw [List.diff_cons]
        rfl
      · rw [List.flatMap_cons, ← List.append_assoc]
        rfl
      · exact ObjTab.priFailures_succ s.objs l.length
      · exact State.only_trans (State.only_trans (State.only_modXl s _).sub (State.only_priFailed _).sub) only

/-- A Response Failure: the request and those that have not been sent fail, and the PF is locked out. -/
theorem State.priLock_spec (s : State) (p i : Nat) (r : PriReq) (hr : s.priAt p i = some r) :
    let unsent := s.xl.pri.filter fun q => !q.sent && q.sp.port == p
    let t := (s.priDrop r).priLock p
    (t.func (pfKey p)).lockout = true ∧ t.xl.fails = s.xl.fails ++ r.failures ++ unsent.flatMap PriReq.failures ∧
      t.objs = { s.objs with priFail := satAdd 0xFFFF s.objs.priFail (1 + unsent.length) } ∧
      (∀ q ∈ t.xl.pri, q ∈ s.xl.pri ∧ (q.sent = true ∨ q.sp.port ≠ p)) ∧
      t.xl.pri.length + 1 + unsent.length = s.xl.pri.length ∧ t.xl.waiting = s.xl.waiting ∧ s.only t [.xl, .objs, .funcs] := by
  obtain ⟨mem, sent, port⟩ := State.priAt_mem hr
  have same : (s.xl.pri.erase r).filter (fun q => !q.sent && q.sp.port == p) = s.xl.pri.filter fun q => !q.sent && q.sp.port == p :=
    filter_erase_of_not _ r (by simp [sent]) _
  obtain ⟨len, left⟩ := diff_filter_spec (fun q : PriReq => !q.sent && q.sp.port == p) (s.xl.pri.erase r)
  have erase := State.priAt_erase hr
  obtain ⟨pri, fails, waiting, objs, only⟩ := State.each_priDrop ((s.xl.pri.erase r).filter fun q => !q.sent && q.sp.port == p)
    ((s.priDrop r).modFunc (pfKey p) fun f => { f with lockout := true })
  have dropped : s.only ((s.priDrop r).modFunc (pfKey p) fun f => { f with lockout := true }) [.xl, .objs, .funcs] :=
    State.only_trans (State.only_trans (State.only_modXl s _).sub (State.only_priFailed _).sub) (State.only_modFunc _ _ _).sub
  refine ⟨?_, ?_, ?_, fun q hq => ?_, ?_, waiting, State.only_trans dropped only.sub⟩
  · refine (congrArg Func.lockout (State.func_of (only .funcs (by decide)) (pfKey p))).trans ?_
    exact congrArg Func.lockout (State.modFunc_func_self (s.priDrop r) (pfKey p) fun f => { f with lockout := true })
  · refine fails.trans ?_
    rw [same]
    rfl
  · refine objs.trans ?_
    rw [same, Nat.add_comm 1]
    exact ObjTab.priFailures_succ s.objs _
  · obtain ⟨m, n⟩ := left q (pri ▸ hq)
    refine ⟨List.mem_of_mem_erase m, ?_⟩
    cases hs : q.sent with
    | true => exact .inl rfl
    | false => exact .inr (by simpa [hs] using n)
  · refine (congrArg (fun l : List PriReq => l.length + 1 + _) pri).trans ?_
    rw [same] at len
    show ((s.xl.pri.erase r).diff _).length + 1 + _ = _
    rw [same]
    omega

/-- Settles O35: each response ends the page request, and what it makes of the accesses that wait is its own lemma. -/
theorem pageResponses : Obligations.PageResponses := by
  unfold Obligations.PageResponses
  intro p s
  refine ⟨done_modFunc s _ _, fun i r hr hw => ⟨?_, fun c hc => ?_, ?_⟩⟩
  · obtain ⟨gone, fails, len, waiting, only⟩ := State.priEnd_spec hr
    have run : exec (.priResponse p i .success) s = done s ((s.forgets r).priEnd r) := by
      show execPriResponse p i .success s = _
      unfold execPriResponse
      rw [hr]
      exact congrArg (done s) (State.portsAgain_of_none _ (waiting.trans hw))
    exact ⟨_, run.trans (done_of_only only (congrArg Boot.power (only .boot (by decide)))), gone, fails, len, only⟩
  · obtain ⟨fails, objs, lockout, len, waiting, only⟩ := State.priFails_spec hr
    have run : exec c s = done s (s.priFails r) := by
      rcases List.mem_cons.1 hc with rfl | hc
      · show execPriResponse p i .invalid s = _
        unfold execPriResponse
        rw [hr]
        exact congrArg (done s) (State.portsAgain_of_none _ (waiting.trans hw))
      · rw [List.mem_singleton.1 hc]
        show execPriTimeout p i s = _
        unfold execPriTimeout
        rw [hr]
        exact congrArg (done s) (State.portsAgain_of_none _ (waiting.trans hw))
    exact ⟨_, run.trans (done_of_only only (congrArg Boot.power (only .boot (by decide)))), fails, objs, lockout, len, only⟩
  · obtain ⟨lockout, fails, objs, left, len, waiting, only⟩ := State.priLock_spec s p i r hr
    have run : exec (.priResponse p i .failure) s = done s ((s.priDrop r).priLock p) := by
      show execPriResponse p i .failure s = _
      unfold execPriResponse
      rw [hr]
      exact congrArg (done s) (State.portsAgain_of_none _ (waiting.trans hw))
    exact ⟨_, run.trans (done_of_only only (congrArg Boot.power (only .boot (by decide)))), lockout, fails, objs, left, len, only⟩

end Sys2Proof.Machine
end


section
/-! The destruction of a queue (03 R96). -/

namespace Sys2Proof.Machine

set_option Elab.async false

/-! ### Tasks of destroyed queues -/

/-- A task that has been killed and is not to run again. -/
def Task.spent (t : Task) : Prop := t.st = .killed ∧ ∃ st, t.after = some (.fail st)

/-- What destroying queues makes of a task: one that can be killed is, with 0x16, or has lost operations; a spent one stays. -/
structure Task.doomed (t u : Task) : Prop where
  alive : t.killable = true → t.fewerOps u ∨ t.killedBy u (.fail 0x16)
  dead : t.spent → t.fewerOps u

theorem Task.doomed_of_fewer {t u : Task} (h : t.fewerOps u) : t.doomed u := ⟨fun _ => .inl h, fun _ => h⟩

theorem Task.spent_of_killed {t u : Task} {st : Nat} (h : t.killedBy u (.fail st)) : u.spent := by
  obtain ⟨k, a, -⟩ := Task.killedBy_fields h
  exact ⟨k, st, a⟩

theorem Task.spent_fewer {t u : Task} (h : t.fewerOps u) (hs : t.spent) : u.spent := by
  obtain ⟨k, st, a⟩ := hs
  exact ⟨(Task.fewerOps_same h Task.st).trans k, st, (Task.fewerOps_same h Task.after).trans a⟩

theorem Task.doomed_trans {t u v : Task} (h : t.doomed u) (g : u.doomed v) : t.doomed v := by
  refine ⟨fun hk => ?_, fun hs => ?_⟩
  · rcases h.alive hk with f | k
    · rcases g.alive ((Task.fewerOps_killable f).trans hk) with f' | k'
      · exact .inl (Task.fewerOps_trans f f')
      · exact .inr (Task.killedBy_trans f k')
    · exact .inr (Task.killedBy_fewer k (g.dead (Task.spent_of_killed k)))
  · exact Task.fewerOps_trans (h.dead hs) (g.dead (Task.spent_fewer (h.dead hs) hs))

/-- Nothing of a task. -/
def Task.blank (_ : Task) : Task := {}

section
variable {q : Nat}

theorem State.reaps_blank {s t : State} {f : Task → Task} (h : s.reaps q f t) : s.reaps q Task.blank t :=
  ⟨h.only, h.kept, h.others, rfl, h.ops, h.mtus, h.units, h.lans⟩

theorem State.reaps_setTask (s : State) (g : Task → Task) (hg : ∀ t : Task, (g t).win = t.win := by intro _; rfl) :
    s.reaps q Task.blank (s.modTask q g) :=
  State.reaps_modTask s g (fun _ => rfl) fun t k h => by
    unfold Task.op at h ⊢
    rw [hg, h]

theorem Task.met_win (st a : Nat) (t : Task) : (Task.met st a t).win = t.win := by
  unfold Task.met
  split <;> rfl

theorem State.reaps_finishList (s : State) (st d : Nat) : s.reaps q Task.blank (s.finishList q st d) :=
  State.reaps_trans (State.reaps_setTask s _) (State.reaps_setTask _ _)

theorem State.reaps_stopList (s : State) (st : Nat) : s.reaps q Task.blank (s.stopList q st) := by
  refine State.reaps_ite _ (State.reaps_ite _ ?_ (State.reaps_finishList s _ _)) (State.reaps_refl s)
  exact State.reaps_setTask s _ fun t => Task.met_win st 0 t

/-- A submission's end, or an ENQUEUED task's (03 R96). -/
theorem State.reaps_claimEnd (s : State) (t : Task) (quiet : Bool) (b : Prop) [Decidable b] (id : Nat) (f : Task → Task) :
    s.reaps q f (if b then s.finishSub t.qk t.ord 0x16 0 false false false 0
      else if quiet then s.modQueue t.qk (Queue.give 1) else (s.modQueue t.qk (Queue.give 1)).dueEnq t.qk t.part t.seq id 0x16 0 false 0) := by
  refine State.reaps_ite _ (State.reaps_finishSub s _ _ _ _ _ _ _ _) (State.reaps_ite _ (State.reaps_modQueue s _ (Queue.give 1)) ?_)
  exact State.reaps_trans (State.reaps_modQueue s _ (Queue.give 1)) (State.reaps_dueEnq _ _ _ _ _ _ _ _ _)

/-- A rerun that is not admitted. -/
def Task.unrerun (t : Task) : Task := { t with after := some (.fail 0x16) }

/-- A task whose continuation is not admitted. -/
def Task.lastSegment (t : Task) : Task := { t with ending := .commit }

theorem State.reaps_setTick (s : State) (g : Task → Task) (fk : Nat) (hg : ∀ t : Task, (g t).win = t.win := by intro _; rfl) :
    s.reaps q Task.blank ((s.modTask q g).vfTick fk 11 1) := State.reaps_trans (State.reaps_setTask s g hg) (State.reaps_vfTick _ _ _ _)

theorem State.reaps_claimRerun (s : State) (quiet : Bool) : s.reaps q Task.blank (s.claimRerun q quiet) := by
  unfold State.claimRerun
  refine State.reaps_ite _ ?_ (State.reaps_refl s)
  exact State.reaps_trans (State.reaps_setTick s Task.unrerun (s.task q).fk) (State.reaps_claimEnd _ (s.task q) quiet _ _ _)

theorem State.reaps_destroyTask (s : State) : s.reaps q Task.blank (s.destroyTask q) := by
  unfold State.destroyTask
  dsimp only
  refine State.reaps_ite _ (State.reaps_stopList s 0) ?_
  split
  · exact State.reaps_claimRerun s _
  · refine State.reaps_trans (State.reaps_setTick s Task.lastSegment (s.task q).fk) ?_
    exact State.reaps_ite _ (State.reaps_modQueue _ _ (Queue.give 1)) (State.reaps_finishSub _ _ _ _ _ _ _ _ _)
  · exact State.reaps_blank (State.reaps_kill s _ _)

end

theorem Task.kind_of_alive {t : Task} (h : t.killable = true) : t.kind ≠ .admin := fun e => by
  simp [Task.killable, e] at h

theorem State.destroyTask_kill (s : State) (r : Nat) (h : (s.task r).killable = true) :
    s.destroyTask r = s.kill r (.fail 0x16) ((s.task r).kind == .enq) := by
  have st : (s.task r).st = .admitted ∨ (s.task r).st = .running := by
    have := h
    simp only [Task.killable, Bool.and_eq_true, Bool.or_eq_true, beq_iff_eq] at this
    exact this.1
  unfold State.destroyTask
  dsimp only
  rw [if_neg (Task.kind_of_alive h)]
  rcases st with e | e <;> rw [e]

theorem State.destroyTask_spent (s : State) (r : Nat) (h : (s.task r).spent) : s.destroyTask r = s := by
  obtain ⟨k, st, a⟩ := h
  unfold State.destroyTask
  dsimp only
  split
  · exact if_neg (by rw [k]; simp)
  · rw [k]
    exact if_neg (by rw [a]; simp)

/-- A task of a queue that is destroyed ends (03 R96.3). -/
theorem State.destroyTask_own (s : State) (r : Nat) : (s.task r).doomed ((s.destroyTask r).task r) ∧
    ((s.task r).killable = true → (s.task r).killedBy ((s.destroyTask r).task r) (.fail 0x16)) := by
  have kills : (s.task r).killable = true → (s.task r).killedBy ((s.destroyTask r).task r) (.fail 0x16) := fun hk => by
    rw [State.destroyTask_kill s r hk]
    exact (State.kill_spec s r _ _ hk).1
  refine ⟨⟨fun hk => .inr (kills hk), fun hs => ?_⟩, kills⟩
  rw [State.destroyTask_spent s r hs]
  exact Task.fewerOps_refl _

theorem State.destroyTask_doomed (s : State) (q r : Nat) : (s.task r).doomed ((s.destroyTask q).task r) := by
  by_cases h : r = q
  · subst h
    exact (State.destroyTask_own s r).1
  · exact Task.doomed_of_fewer ((State.reaps_destroyTask (q := q) s).others r h)

/-! ### The frame of destroyed queues -/

/-- A queue without what its destruction changes, and without its configuration, which an FLR clears. -/
def Queue.place (q : Queue) : Nat × Nat × Nat := (q.gen, q.head, q.milestone)

/-- The parts that destroying queues may reach. -/
def destroyParts : List Field := .waitTasks :: reapParts

/-- From `s` to `t` queues have been destroyed. -/
structure State.destroys (s t : State) : Prop where
  only : s.only t destroyParts
  part : ∀ n, (t.part n).unended = (s.part n).unended
  next : t.objs.next = s.objs.next
  lans : ∀ l ∈ t.wps.lans, l ∈ s.wps.lans
  place : ∀ k, (t.queue k).place = (s.queue k).place
  tasks : ∀ r, (s.task r).doomed (t.task r)

theorem State.destroys_refl (s : State) : s.destroys s :=
  ⟨State.only_refl s _, fun _ => rfl, rfl, fun _ h => h, fun _ => rfl, fun _ => Task.doomed_of_fewer (Task.fewerOps_refl _)⟩

theorem State.destroys_trans {s t u : State} (h : s.destroys t) (g : t.destroys u) : s.destroys u :=
  ⟨State.only_trans h.only g.only, fun n => (g.part n).trans (h.part n), g.next.trans h.next, fun l m => h.lans l (g.lans l m),
    fun k => (g.place k).trans (h.place k), fun r => Task.doomed_trans (h.tasks r) (g.tasks r)⟩

/-- What changes no task keeps the frame where it keeps each queue's place. -/
theorem State.destroys_of {s t : State} {l : List Field} (h : s.only t l) (hp : ∀ k, (t.queue k).place = (s.queue k).place)
    (hw : ∀ x ∈ t.wps.lans, x ∈ s.wps.lans := by intro _ m; exact m)
    (hl : (l.all fun f => [Field.queues, .mtus, .xl, .waitTasks, .wps, .funcs, .cnt, .out].contains f) = true := by decide) : s.destroys t := by
  have out : ∀ f, f ∉ [Field.queues, .mtus, .xl, .waitTasks, .wps, .funcs, .cnt, .out] → f.same s t := h.sub hl
  refine ⟨State.only_mono out (by decide), fun n => by rw [State.part_of (out .parts (by decide))], congrArg ObjTab.next (out .objs (by decide)),
    hw, hp, fun r => ?_⟩
  rw [State.task_of (out .tasks (by decide))]
  exact Task.doomed_of_fewer (Task.fewerOps_refl _)

/-- From `s` to `t` runs and submissions end: queues stay in their states, functions keep their registers. -/
structure State.ending (s t : State) : Prop where
  destroys : s.destroys t
  queue : ∀ k, (t.queue k).unended = (s.queue k).unended
  func : ∀ f, (t.func f).unendedAs f = (s.func f).unendedAs f

theorem State.ending_refl (s : State) : s.ending s := ⟨State.destroys_refl s, fun _ => rfl, fun _ => rfl⟩

theorem State.ending_trans {s t u : State} (h : s.ending t) (g : t.ending u) : s.ending u :=
  ⟨State.destroys_trans h.destroys g.destroys, fun k => (g.queue k).trans (h.queue k), fun f => (g.func f).trans (h.func f)⟩

theorem State.ending_foldl {α : Type} {g : State → α → State} (hg : ∀ u a, State.ending u (g u a)) (l : List α) :
    ∀ s : State, s.ending (l.foldl g s) := by
  induction l with
  | nil => exact State.ending_refl
  | cons a l ih => exact fun s => State.ending_trans (hg s a) (ih _)

theorem State.ending_of_reaps {q : Nat} {f : Task → Task} {s t : State} (h : s.reaps q f t)
    (ht : ∀ r, (s.task r).doomed (t.task r)) : s.ending t :=
  ⟨⟨h.only.sub, State.part_unended h.kept, congrArg (fun x => x.2.2.2.2.2.2) h.kept, h.lans,
    fun k => State.queue_same h.kept Queue.place k, ht⟩, State.queue_unended h.kept, State.func_unendedAs h.kept⟩

theorem State.ending_destroyTask (s : State) (q : Nat) : s.ending (s.destroyTask q) :=
  State.ending_of_reaps (State.reaps_destroyTask (q := q) s) (State.destroyTask_doomed s q)

theorem State.reaps_destroyWaiting (s : State) (qk : Nat) (t : Task) {q : Nat} : s.reaps q Task.unwin (s.destroyWaiting qk t) := by
  unfold State.destroyWaiting
  exact State.reaps_trans (State.reaps_vfTick s t.fk 11 1)
    (State.reaps_ite _ (State.reaps_modQueue _ _ (Queue.give 1)) (State.reaps_finishSub _ qk t.ord 0x16 0 false false false 0))

theorem State.ending_destroyWaiting (s : State) (qk : Nat) (t : Task) : s.ending (s.destroyWaiting qk t) :=
  State.ending_of_reaps (State.reaps_destroyWaiting (q := 0) s qk t) fun r =>
    Task.doomed_of_fewer ((State.reaps_destroyWaiting (q := r + 1) s qk t).others r (Nat.ne_of_lt (Nat.lt_succ_self r)))

/-! ### The destruction of one queue (03 R96) -/

/-- What one of the changes establishes where an invariant of all of them holds, and none undoes, holds at the end. -/
theorem State.each_ends {α : Type} {I P : State → Prop} {g : State → α → State} {l : List α} {a : α} (ha : a ∈ l)
    (inv : ∀ u b, I u → I (g u b)) (make : ∀ u, I u → P (g u a)) (keep : ∀ u b, P u → P (g u b)) (s : State) (hs : I s) :
    P (s.each l g) := by
  induction l generalizing s with
  | nil => exact absurd ha (by simp)
  | cons b l ih =>
      by_cases hb : a = b
      · subst hb
        exact State.each_keeps keep l _ (make s hs)
      · exact ih ((List.mem_cons.mp ha).resolve_left hb) (g s b) (inv s b hs)

/-- A record as the end of its committed task leaves it, of a queue that is destroyed. -/
def Fin'.silence (f : Fin') : Fin' := if f.committed then { f with silent := true } else f

/-- A queue as its destruction leaves it, before its tasks end. -/
def Queue.destroyed (q : Queue) : Queue :=
  { q with st := .destroying, credHeld := q.credHeld - q.credited, credited := 0, needs := 0, unreadable := false, poisoned := false
           subs := q.subs.map fun x => { x with fin := x.fin.map Fin'.silence } }

/-- Translation without a queue's slots. -/
def Xl.unslotted (qk : Nat) (x : Xl) : Xl :=
  { x with fails := x.fails.filter fun w => w.1 != .slots qk
           pri := x.pri.map fun r => { r with who := r.who.filter fun w => w != .slots qk } }

/-- The queue, its slots and its turn, as its destruction begins. -/
def State.destroyBase (s : State) (qk : Nat) : State := ((s.endFetch qk).modQueue qk Queue.destroyed).modXl (Xl.unslotted qk)

/-- A destroyed queue's tasks that wait for a record end. -/
def State.destroyWaits (s : State) (qk : Nat) : State :=
  State.each ({ s with waitTasks := s.waitTasks.filter fun t => t.qk != qk }) (s.waitTasks.filter fun t => t.qk == qk) fun u t => u.destroyWaiting qk t

theorem State.destroyQueue_eq (s : State) (qk : Nat) : s.destroyQueue qk =
    (((s.destroyBase qk).recsWhere fun t => t.st != .empty && t.qk == qk).foldl State.destroyTask (s.destroyBase qk)).destroyWaits qk := rfl

theorem State.only_endFetch (s : State) (qk : Nat) : s.only (s.endFetch qk) [.queues, .mtus] := by
  unfold State.endFetch
  split
  · exact State.only_after (State.only_modQueue _ _ _).sub (State.only_modMtu s _ _).sub
  · exact State.only_refl s _

/-- The credit of a fetch in progress returns, and nothing else of the queue changes. -/
theorem State.queue_endFetch (s : State) (qk k : Nat) :
    (s.endFetch qk).queue k = if k = qk then { s.queue qk with mtu := none } else s.queue k := by
  unfold State.endFetch
  split
  · next m hm =>
    exact (State.modQueue_queue _ qk _ k)
  · next hm =>
    split
    · next h =>
      subst h
      rw [← hm]
    · rfl

theorem State.only_destroyBase (s : State) (qk : Nat) : s.only (s.destroyBase qk) [.queues, .mtus, .xl] :=
  State.only_after (State.only_modXl _ _).sub (State.only_after (State.only_modQueue _ _ _).sub (State.only_endFetch s qk).sub)

theorem State.queue_destroyBase (s : State) (qk k : Nat) :
    (s.destroyBase qk).queue k = if k = qk then ({ s.queue qk with mtu := none } : Queue).destroyed else s.queue k := by
  have h : (s.destroyBase qk).queue k = ((s.endFetch qk).modQueue qk Queue.destroyed).queue k := rfl
  rw [h, State.modQueue_queue, State.queue_endFetch, State.queue_endFetch, if_pos rfl]
  split <;> rfl

theorem State.destroys_destroyBase (s : State) (qk : Nat) : s.destroys (s.destroyBase qk) := by
  refine State.destroys_of (State.only_destroyBase s qk) (fun k => ?_) fun l m => ?_
  · rw [State.queue_destroyBase]
    split
    · next h => rw [h]; rfl
    · rfl
  · rwa [State.only_destroyBase s qk .wps (by decide)] at m

theorem State.only_setWaits (s : State) (l : List Task) : s.only { s with waitTasks := l } [.waitTasks] := by
  intro f hf
  cases f
  case waitTasks => exact absurd (List.mem_singleton.mpr rfl) hf
  all_goals rfl

theorem State.ending_destroyWaits (s : State) (qk : Nat) : s.ending (s.destroyWaits qk) := by
  have taken : s.ending { s with waitTasks := s.waitTasks.filter fun t => t.qk != qk } :=
    ⟨State.destroys_of (State.only_setWaits s _) fun _ => rfl, fun _ => rfl, fun _ => rfl⟩
  exact State.ending_trans taken (State.ending_foldl (fun u t => State.ending_destroyWaiting u qk t) _ _)

/-- From `s` to `t` queue `qk` has been destroyed (03 R96). -/
structure State.wipes (qk : Nat) (s t : State) : Prop where
  frame : s.destroys t
  st : (t.queue qk).st = .destroying
  credited : (t.queue qk).credited = 0
  others : ∀ k, k ≠ qk → (t.queue k).unended = (s.queue k).unended
  func : ∀ f, (t.func f).unendedAs f = (s.func f).unendedAs f
  kills : ∀ r, (s.task r).qk = qk → (s.task r).killable = true → (s.task r).killedBy (t.task r) (.fail 0x16)

/-- Once killed, a task stays so through further ends of runs. -/
theorem Task.killedBy_doomed {t u v : Task} {st : Nat} (h : t.killedBy u (.fail st)) (g : u.doomed v) : t.killedBy v (.fail st) :=
  Task.killedBy_fewer h (g.dead (Task.spent_of_killed h))

theorem State.destroyQueue_spec (s : State) (qk : Nat) : State.wipes qk s (s.destroyQueue qk) := by
  rw [State.destroyQueue_eq]
  have base := State.destroys_destroyBase s qk
  have queues := State.queue_destroyBase s qk
  have funcs : (s.destroyBase qk).funcs = s.funcs := State.only_destroyBase s qk .funcs (by decide)
  have tasks : (s.destroyBase qk).tasks = s.tasks := State.only_destroyBase s qk .tasks (by decide)
  generalize s.destroyBase qk = a at *
  have ended := State.ending_foldl (fun u r => State.ending_destroyTask u r) (a.recsWhere fun t => t.st != .empty && t.qk == qk) a
  have kills : ∀ r, (s.task r).qk = qk → (s.task r).killable = true → (s.task r).killedBy
      (((a.recsWhere fun t => t.st != .empty && t.qk == qk).foldl State.destroyTask a).task r) (.fail 0x16) := fun r hq hk => by
    rw [← State.task_of tasks r] at hq hk ⊢
    have live : (a.task r).st ≠ .empty := fun e => by simp [Task.killable, e] at hk
    refine State.each_ends (I := fun u => (a.task r).doomed (u.task r)) (P := fun u => (a.task r).killedBy (u.task r) (.fail 0x16))
      (State.mem_recsWhere a _ r (by simp [live, hq]) rfl) (fun u b h => Task.doomed_trans h (State.destroyTask_doomed u b r))
      (fun u h => ?_) (fun u b h => Task.killedBy_doomed h (State.destroyTask_doomed u b r)) a (Task.doomed_of_fewer (Task.fewerOps_refl _))
    rcases h.alive hk with f | k
    · exact Task.killedBy_trans f ((State.destroyTask_own u r).2 ((Task.fewerOps_killable f).trans hk))
    · exact Task.killedBy_doomed k (State.destroyTask_doomed u r r)
  generalize (a.recsWhere fun t => t.st != .empty && t.qk == qk).foldl State.destroyTask a = b at *
  have waits := State.ending_destroyWaits b qk
  have run := State.ending_trans ended waits
  have own : ((b.destroyWaits qk).queue qk).unended = (({ s.queue qk with mtu := none } : Queue).destroyed).unended := by
    rw [run.queue qk, queues qk, if_pos rfl]
  refine ⟨State.destroys_trans base run.destroys, congrArg Queue.st own, congrArg Queue.credited own, fun k hk => ?_, fun f => ?_,
    fun r hq hk => Task.killedBy_doomed (kills r hq hk) (waits.destroys.tasks r)⟩
  · rw [run.queue k, queues k, if_neg hk]
  · rw [run.func f, State.func_of funcs f]

end Sys2Proof.Machine
end


section
/-! Queue commands (03 R69 to R77, R96). -/

namespace Sys2Proof.Machine

set_option Elab.async false

/-- A queue command through a window that reaches the queue acts on it (03 R72). -/
theorem State.queueCmd_open (s : State) (w : Window) (q fk : Nat) (g : Nat → State → State) (hw : s.winFunc w = some fk)
    (hr : s.reaches w q) : s.queueCmd w q g = g (qkey fk q) s := by
  unfold State.queueCmd
  rw [hw]
  cases w with
  | pf p =>
    obtain ⟨hl, hp⟩ := State.linkUp_of_pf hw
    dsimp only
    rw [State.pfOpen_open s p _ _ hl hr.2, if_pos hr.1]
  | vf p i => rfl
  | rot => rfl

/-- What CMD_RESULT of the function of a queue that a window reaches becomes. -/
theorem State.cmdResult_qkey (s : State) (fk code : Nat) {q : Nat} (h : q < 64) :
    s.cmdResult (qkey fk q / 64) code = s.modFunc fk fun f => { f with cmdResult := code } := by
  rw [qkey_div fk q h]
  rfl

theorem State.stateCmd_open (s : State) (w : Window) (q fk : Nat) (ok : QSt → Bool) (g : Nat → State → State) (hw : s.winFunc w = some fk)
    (hr : s.reaches w q) : s.stateCmd w q ok g =
      if ok (s.queue (qkey fk q)).st then (g (qkey fk q) s).modFunc fk fun f => { f with cmdResult := 0 }
      else s.modFunc fk fun f => { f with cmdResult := 0x02 } := by
  unfold State.stateCmd
  rw [State.queueCmd_open s w q fk _ hw hr, State.cmdResult_qkey _ fk _ (State.reaches_lt hr), State.cmdResult_qkey _ fk _ (State.reaches_lt hr)]

/-- CREATE, where its check has passed (03 R76). -/
def State.createAt (s : State) (qk fk : Nat) : Option (List Nat × State) → State
  | none => s.modFunc fk fun f => { f with cmdResult := 0x05 }
  | some (us, v) => (v.modQueue qk fun q => q.create (s.poolIndex qk) us).modFunc fk fun f => { f with cmdResult := 0 }

theorem State.createCmd_open (s : State) (w : Window) (q fk : Nat) (hw : s.winFunc w = some fk) (hr : s.reaches w q) :
    s.createCmd w q = if s.createCheck (qkey fk q) ≠ 0 then s.modFunc fk fun f => { f with cmdResult := s.createCheck (qkey fk q) }
      else s.createAt (qkey fk q) fk (s.takeShadow (qkey fk q)) := by
  unfold State.createCmd
  rw [State.queueCmd_open s w q fk _ hw hr]
  dsimp only
  rw [State.cmdResult_qkey _ fk _ (State.reaches_lt hr)]
  split
  · rfl
  · generalize s.takeShadow (qkey fk q) = x
    cases x with
    | none => exact State.cmdResult_qkey _ fk _ (State.reaches_lt hr)
    | some x => exact State.cmdResult_qkey _ fk _ (State.reaches_lt hr)

theorem State.only_takeUnits (n : Nat) (use : UnitUse) : ∀ (k : Nat) (s : State) {us : List Nat} {v : State},
    s.takeUnits n use k = some (us, v) → s.only v [.sto] := by
  intro k
  induction k with
  | zero =>
    intro s us v h
    obtain ⟨-, rfl⟩ := Prod.mk.inj (Option.some.inj h)
    exact State.only_refl s _
  | succ k ih =>
    intro s us v h
    unfold State.takeUnits at h
    split at h
    · exact absurd h (by simp)
    · next u hu =>
      split at h
      · exact absurd h (by simp)
      · next us' t ht =>
        obtain ⟨-, rfl⟩ := Prod.mk.inj (Option.some.inj h)
        exact State.only_trans (State.only_holdUnit s u _) (ih _ ht)

theorem State.only_takeShadow (s : State) (qk : Nat) {us : List Nat} {v : State} (h : s.takeShadow qk = some (us, v)) : s.only v [.sto] := by
  unfold State.takeShadow at h
  split at h
  · obtain ⟨-, rfl⟩ := Prod.mk.inj (Option.some.inj h)
    exact State.only_refl s _
  · exact State.only_takeUnits _ _ _ _ h

/-- The checks of CREATE that an absent queue passes (03 R77). -/
theorem State.createCheck_pass (s : State) (fk q : Nat) (hq : q < 64) (hl : s.latch.queues = true) (hx : (s.queue (qkey fk q)).st = .absent)
    (hb : fk < 1024 → s.bound fk = true ∧ (s.liveQueues fk).length < fld (s.func fk).bind 23 16)
    (h₁ : 4 ≤ fld (s.queue (qkey fk q)).size 4 0) (h₂ : fld (s.queue (qkey fk q)).size 4 0 ≤ 16)
    (h₃ : 4 ≤ fld (s.queue (qkey fk q)).size 12 8) (h₄ : fld (s.queue (qkey fk q)).size 12 8 ≤ 16) : s.createCheck (qkey fk q) = 0 := by
  unfold State.createCheck
  dsimp only
  rw [qkey_div fk q hq, if_neg (by simp [hl]), if_neg (not_not_intro hx), if_neg fun h => by simp [(hb h.1).1] at h,
    if_neg fun h => absurd (hb h.1).2 (Nat.not_lt.mpr h.2), if_neg (by omega)]

theorem State.queueCreate_spec (s : State) (w : Window) (q fk : Nat) (hw : s.winFunc w = some fk) (hr : s.reaches w q) {us : List Nat} {v : State}
    (hc : s.createCheck (qkey fk q) = 0) (hs : s.takeShadow (qkey fk q) = some (us, v)) : ∃ t, exec (.queueCreate w q) s = .next t ∧
      t.queue (qkey fk q) = (s.queue (qkey fk q)).create (s.poolIndex (qkey fk q)) us ∧ (t.func fk).cmdResult = 0 ∧
      (∀ k, k ≠ qkey fk q → t.queue k = s.queue k) ∧ s.only t [.queues, .funcs, .sto] := by
  have taken := State.only_takeShadow s _ hs
  have queues : ∀ k, v.queue k = s.queue k := State.queue_of (taken .queues (by decide))
  have made : s.createCmd w q = s.createAt (qkey fk q) fk (some (us, v)) := by
    rw [State.createCmd_open s w q fk hw hr, if_neg (not_not_intro hc), hs]
  have only : s.only (s.createAt (qkey fk q) fk (some (us, v))) [.queues, .funcs, .sto] :=
    State.only_after (State.only_modFunc _ _ _).sub (State.only_after (State.only_modQueue v _ _).sub taken.sub)
  have run : exec (.queueCreate w q) s = done s (s.createAt (qkey fk q) fk (some (us, v))) := congrArg (done s) made
  refine ⟨_, run.trans (done_of_only only (by rw [only .boot (by decide)])), ?_,
    congrArg Func.cmdResult (State.modFunc_func_self _ _ _), fun k hk => ?_, only⟩
  · show (v.modQueue (qkey fk q) fun q' => q'.create (s.poolIndex (qkey fk q)) us).queue (qkey fk q) = _
    rw [State.modQueue_queue_self, queues]
  · show (v.modQueue (qkey fk q) fun q' => q'.create (s.poolIndex (qkey fk q)) us).queue k = _
    rw [State.modQueue_queue_ne _ _ _ hk, queues]

theorem State.queueCreate_fails (s : State) (w : Window) (q fk code : Nat) (hw : s.winFunc w = some fk) (hr : s.reaches w q)
    (hc : s.createCheck (qkey fk q) = code) (h0 : code ≠ 0) :
    exec (.queueCreate w q) s = .next (s.modFunc fk fun f => { f with cmdResult := code }) := by
  have made : s.createCmd w q = s.modFunc fk fun f => { f with cmdResult := code } := by
    rw [State.createCmd_open s w q fk hw hr, hc, if_pos h0]
  exact (congrArg (done s) made).trans (done_modFunc s _ _)

theorem State.queueDestroy_spec (s : State) (w : Window) (q fk : Nat) (hw : s.winFunc w = some fk) (hr : s.reaches w q)
    (ha : (s.queue (qkey fk q)).st ≠ .absent) (hd : (s.queue (qkey fk q)).st ≠ .destroying) : ∃ t, exec (.queueDestroy w q) s = .next t ∧
      (t.queue (qkey fk q)).st = .destroying ∧ (t.queue (qkey fk q)).credited = 0 ∧ (t.func fk).cmdResult = 0 ∧
      ∀ r, (s.task r).qk = qkey fk q → (s.task r).killable = true → (t.task r).st = .killed ∧ (t.task r).after = some (.fail 0x16) := by
  have made : s.destroyCmd w q = (s.destroyQueue (qkey fk q)).modFunc fk fun f => { f with cmdResult := 0 } := by
    refine (State.stateCmd_open s w q fk _ _ hw hr).trans (if_pos ?_)
    revert ha hd
    cases (s.queue (qkey fk q)).st <;> simp
  have gone := State.destroyQueue_spec s (qkey fk q)
  obtain ⟨t, ht, -, -, same, -⟩ := done_spec s ((s.destroyQueue (qkey fk q)).modFunc fk fun f => { f with cmdResult := 0 })
  have queues : ∀ k, t.queue k = (s.destroyQueue (qkey fk q)).queue k := State.queue_of (same .queues (by decide))
  have tasks : ∀ r, t.task r = (s.destroyQueue (qkey fk q)).task r := State.task_of (same .tasks (by decide))
  refine ⟨t, (congrArg (done s) made).trans ht, (congrArg Queue.st (queues _)).trans gone.st, (congrArg Queue.credited (queues _)).trans gone.credited,
    ?_, fun r hq hk => ?_⟩
  · rw [State.func_of (same .funcs (by decide)) fk, State.modFunc_func_self]
  · obtain ⟨k, a, -⟩ := Task.killedBy_fields (gone.kills r hq hk)
    rw [tasks]
    exact ⟨k, a⟩

/-- Settles O40: each command acts through the window (`queueCmd_open`), CREATE by its checks and its shadow, DESTROY by `destroyQueue_spec`. -/
theorem queueCommands : Obligations.QueueCommands := by
  intro w q fk s hw hr
  have reach : s.reaches w q := by cases w <;> exact hr
  have hq := State.reaches_lt reach
  have cmd := fun ok g => State.stateCmd_open s w q fk ok g hw reach
  have wrong : ∀ ok g, ok (s.queue (qkey fk q)).st = false →
      done s (s.stateCmd w q ok g) = .next (s.modFunc fk fun f => { f with cmdResult := 0x02 }) := fun ok g h => by
    rw [cmd ok g, if_neg (ne_true_of_eq_false h)]
    exact done_modFunc s _ _
  have moves : ∀ ok (g : Queue → Queue), ok (s.queue (qkey fk q)).st = true → done s (s.stateCmd w q ok fun qk u => u.modQueue qk g) =
      .next ((s.modQueue (qkey fk q) g).modFunc fk fun f => { f with cmdResult := 0 }) := fun ok g h => by
    rw [cmd ok, if_pos h]
    exact done_of_only (State.only_after (State.only_modFunc _ _ _).sub (l := [.queues, .funcs]) (State.only_modQueue s _ _).sub) rfl
  refine ⟨fun hl => ?_, fun hl ha => ?_, fun us v hl hx hb h₁ h₂ h₃ h₄ hs => ?_, fun h => moves _ _ ?_, fun h => moves _ _ ?_,
    State.queueDestroy_spec s w q fk hw reach, fun h g => wrong _ _ ?_, fun h => wrong _ _ ?_, fun h => wrong _ _ ?_⟩
  · exact State.queueCreate_fails s w q fk 0x07 hw reach (if_pos (by simp [hl])) (by decide)
  · exact State.queueCreate_fails s w q fk 0x02 hw reach ((if_neg (by simp [hl])).trans (if_pos ha)) (by decide)
  · exact State.queueCreate_spec s w q fk hw reach (State.createCheck_pass s fk q hq hl hx hb h₁ h₂ h₃ h₄) hs
  · rcases h with e | e <;> simp [e]
  · simp [h]
  · simp [h, g]
  · simp [h]
  · rcases h with e | e <;> simp [e]

end Sys2Proof.Machine
end


section
/-! Function-level reset and the host link (02 R48, R49, R68). -/

namespace Sys2Proof.Machine

set_option Elab.async false

/-! ### The queues of a function -/

theorem State.mem_liveQueues (s : State) (k : Nat) (h : (s.queue k).st ≠ .absent) : k ∈ s.liveQueues (k / 64) := by
  have get : s.queue k = (Tab.find? s.queues k).getD {} := rfl
  cases hf : Tab.find? s.queues k with
  | none =>
    rw [get, hf] at h
    exact absurd rfl h
  | some x =>
    rw [get, hf] at h
    exact List.mem_filterMap.mpr ⟨(k, x), Tab.mem_of_find? _ _ _ hf, if_pos (by simpa using h)⟩

theorem State.div_of_mem_liveQueues {s : State} {k fk : Nat} (h : k ∈ s.liveQueues fk) : k / 64 = fk := by
  obtain ⟨e, -, he⟩ := List.mem_filterMap.mp h
  split at he
  · next hc =>
    simp only [Bool.and_eq_true, beq_iff_eq] at hc
    exact Option.some.inj he ▸ hc.1
  · exact absurd he (by simp)

/-- A queue that is not being destroyed already is destroyed (02 R48, R68). -/
def State.destroyLive (s : State) (qk : Nat) : State := if (s.queue qk).st = .destroying then s else s.destroyQueue qk

/-- From `s` to `t` the queues of a list, where they were not being destroyed already, have been destroyed. -/
structure State.drains (l : List Nat) (s t : State) : Prop where
  frame : s.destroys t
  func : ∀ f, (t.func f).unendedAs f = (s.func f).unendedAs f
  others : ∀ k, k ∉ l → (t.queue k).unended = (s.queue k).unended
  gone : ∀ k ∈ l, (t.queue k).st = .destroying
  kills : ∀ r, (s.task r).qk ∈ l → (s.queue (s.task r).qk).st ≠ .destroying → (s.task r).killable = true →
    (s.task r).killedBy (t.task r) (.fail 0x16)

theorem State.drains_destroyLive (s : State) (qk : Nat) : State.drains [qk] s (s.destroyLive qk) := by
  unfold State.destroyLive
  split
  · next h =>
    refine ⟨State.destroys_refl s, fun _ => rfl, fun _ _ => rfl, fun k hk => ?_, fun r hr hs _ => ?_⟩
    · rwa [List.mem_singleton.mp hk]
    · exact absurd (List.mem_singleton.mp hr ▸ h) hs
  · have w := State.destroyQueue_spec s qk
    refine ⟨w.frame, w.func, fun k hk => w.others k (by simpa using hk), fun k hk => ?_, fun r hr _ hk => w.kills r (List.mem_singleton.mp hr) hk⟩
    rw [List.mem_singleton.mp hk]
    exact w.st

/-- A queue that is being destroyed stays so. -/
theorem State.drains_stay {l : List Nat} {s t : State} (h : State.drains l s t) (k : Nat) (hk : (s.queue k).st = .destroying) :
    (t.queue k).st = .destroying := by
  by_cases hm : k ∈ l
  · exact h.gone k hm
  · exact (congrArg Queue.st (h.others k hm)).trans hk

theorem State.drains_trans {l m : List Nat} {s t u : State} (h : State.drains l s t) (g : State.drains m t u) : State.drains (l ++ m) s u := by
  refine ⟨State.destroys_trans h.frame g.frame, fun f => (g.func f).trans (h.func f), fun k hk => ?_, fun k hk => ?_, fun r hr hs hk => ?_⟩
  · have out : k ∉ l ∧ k ∉ m := by simpa using hk
    exact (g.others k out.2).trans (h.others k out.1)
  · rcases List.mem_append.mp hk with e | e
    · exact State.drains_stay g k (h.gone k e)
    · exact g.gone k e
  · by_cases hl : (s.task r).qk ∈ l
    · exact Task.killedBy_doomed (h.kills r hl hs hk) (g.frame.tasks r)
    · rcases (h.frame.tasks r).alive hk with f | d
      · have q : (t.task r).qk = (s.task r).qk := Task.fewerOps_same f Task.qk
        refine Task.killedBy_trans f (g.kills r (q ▸ (List.mem_append.mp hr).resolve_left hl) ?_ ((Task.fewerOps_killable f).trans hk))
        rw [q]
        exact fun e => hs ((congrArg Queue.st (h.others _ hl)).symm.trans e)
      · exact Task.killedBy_doomed d (g.frame.tasks r)

theorem State.drains_each (l : List Nat) : ∀ s : State, State.drains l s (s.each l State.destroyLive) := by
  induction l with
  | nil => exact fun s => ⟨State.destroys_refl s, fun _ => rfl, fun _ _ => rfl, fun k hk => absurd hk (by simp), fun r hr => absurd hr (by simp)⟩
  | cons a l ih => exact fun s => State.drains_trans (State.drains_destroyLive s a) (ih (s.destroyLive a))

/-! ### The registers of a function (02 R48) -/

/-- A slot as an FLR leaves it: handle and vector stay (02 R48). -/
def Slot.disarm (x : Slot) : Slot := { x with armed := false, target := 0 }

/-- The slots with those of a list of indices disarmed. -/
def disarmSlots (l : List Nat) (t : Tab Slot) : Tab Slot := l.foldl (fun t k => Tab.set {} t k (Slot.disarm (Tab.get {} t k))) t

theorem Tab.get_disarmSlots (l : List Nat) (j : Nat) : ∀ t : Tab Slot,
    Tab.get {} (disarmSlots l t) j = if j ∈ l then Slot.disarm (Tab.get {} t j) else Tab.get {} t j := by
  induction l with
  | nil => exact fun t => rfl
  | cons k l ih =>
    intro t
    refine (ih _).trans ?_
    rw [Tab.get_set]
    by_cases hk : j = k
    · subst hk
      simp [Slot.disarm]
    · simp [hk]

theorem Tab.get_disarmSlots_all (t : Tab Slot) (j : Nat) : Tab.get {} (disarmSlots (t.map (·.1)) t) j = Slot.disarm (Tab.get {} t j) := by
  rw [Tab.get_disarmSlots]
  split
  · rfl
  · next h =>
    have none : Tab.find? t j = none := by
      cases hf : Tab.find? t j with
      | none => rfl
      | some x => exact absurd (List.mem_map.mpr ⟨(j, x), Tab.mem_of_find? _ _ _ hf, rfl⟩) h
    have get : Tab.get {} t j = (Tab.find? t j).getD {} := rfl
    rw [get, none]
    rfl

/-- The registers of a function after an FLR (02 R48). -/
def Func.flr (f : Func) : Func :=
  { f with cmdResult := 0, errSum := 0, winDrop := 0, wpRefused := 0, wpStale := 0, msix := [], pend := 0
           slots := disarmSlots (f.slots.map (·.1)) f.slots }

/-- Function `g` is as an FLR of `f` leaves it, in what an FLR gives a value. -/
def Func.flrOf (f g : Func) : Prop :=
  g.cmdResult = 0 ∧ g.errSum = 0 ∧ g.winDrop = 0 ∧ g.wpRefused = 0 ∧ g.wpStale = 0 ∧ g.msix = [] ∧ g.pend = 0 ∧
    ∀ j, Tab.get {} g.slots j = Slot.disarm (Tab.get {} f.slots j)

theorem Func.flrOf_flr (f g : Func) (h : g.slots = f.slots) : f.flrOf g.flr :=
  ⟨rfl, rfl, rfl, rfl, rfl, rfl, rfl, fun j => (Tab.get_disarmSlots_all g.slots j).trans (by rw [h])⟩

theorem Func.flrOf_trans {f g h : Func} (a : ∀ j, Slot.disarm (Tab.get {} g.slots j) = Slot.disarm (Tab.get {} f.slots j))
    (b : g.flrOf h) : f.flrOf h := by
  obtain ⟨c, e, d, r, st, m, p, sl⟩ := b
  exact ⟨c, e, d, r, st, m, p, fun j => (sl j).trans (a j)⟩

/-- What an FLR keeps of every function. -/
def Func.link (f : Func) : W64 × W32 × Bool := (f.bind, f.range, f.linkUp)

/-- What the end of runs keeps of a function. -/
theorem Func.same_of_unendedAs {α : Type} (g : Func → α) {k : Nat} {f f' : Func} (h : f'.unendedAs k = f.unendedAs k)
    (hg : ∀ x, g x.unended = g x := by intro _; rfl) : g f' = g f := by
  have e := congrArg Func.unended h
  unfold Func.unendedAs at e
  rw [← hg f', ← hg f]
  split at e <;> exact congrArg g e

/-! ### The FLR of a VF -/

/-- The mark of an FLR on a queue of function `vf`: its registers return to their reset values, at once or when it is ABSENT. -/
def State.flrMark (vf : Nat) (s : State) (qk : Nat) : State :=
  if qk / 64 = vf then s.modQueue qk fun q => if q.st = .absent then q.flrReset else { q with flr := true } else s

/-- A lantern that is not of a slot of function `vf`. -/
def Lantern.notSlotOf (vf : Nat) (l : Lantern) : Bool := match l.kind with
  | .slot fk _ => fk != vf
  | _ => true

theorem State.flr_eq (s : State) (vf : Nat) : s.flr vf =
    ((((s.each (s.liveQueues vf) State.destroyLive).each ((s.each (s.liveQueues vf) State.destroyLive).queues.map (·.1))
      (State.flrMark vf)).modWps fun w => { w with lans := w.lans.filter (Lantern.notSlotOf vf) }).modFunc vf Func.flr) := rfl

theorem State.only_flrMark (s : State) (vf qk : Nat) : s.only (s.flrMark vf qk) [.queues] :=
  State.only_ite _ (State.only_modQueue s _ _) (State.only_refl s _)

theorem State.queue_flrMark (s : State) (vf qk k : Nat) :
    ((s.flrMark vf qk).queue k).st = (s.queue k).st ∧ ((s.flrMark vf qk).queue k).place = (s.queue k).place := by
  unfold State.flrMark
  split
  · rw [State.modQueue_queue]
    split
    · next h =>
      subst h
      split <;> exact ⟨rfl, rfl⟩
    · exact ⟨rfl, rfl⟩
  · exact ⟨rfl, rfl⟩

theorem State.queue_flrMarks (vf k : Nat) (l : List Nat) (s : State) :
    ((s.each l (State.flrMark vf)).queue k).st = (s.queue k).st ∧ ((s.each l (State.flrMark vf)).queue k).place = (s.queue k).place :=
  State.each_keeps (P := fun u => (u.queue k).st = (s.queue k).st ∧ (u.queue k).place = (s.queue k).place)
    (fun u a h => ⟨(State.queue_flrMark u vf a k).1.trans h.1, (State.queue_flrMark u vf a k).2.trans h.2⟩) l s ⟨rfl, rfl⟩

/-- From `s` to `t` an FLR of VF `vf` has been carried out (02 R48). -/
structure State.flrs (vf : Nat) (s t : State) : Prop where
  frame : s.destroys t
  link : ∀ f, (t.func f).link = (s.func f).link
  others : ∀ f, f ≠ vf → (t.func f).unendedAs f = (s.func f).unendedAs f
  own : (s.func vf).flrOf (t.func vf)
  gone : ∀ k, k / 64 = vf → (s.queue k).st ≠ .absent → (t.queue k).st = .destroying
  st : ∀ k, k / 64 ≠ vf → (t.queue k).st = (s.queue k).st
  kills : ∀ r, (s.task r).qk / 64 = vf → (s.queue (s.task r).qk).st ≠ .absent → (s.queue (s.task r).qk).st ≠ .destroying →
    (s.task r).killable = true → (s.task r).killedBy (t.task r) (.fail 0x16)
  slots : ∀ l ∈ t.wps.lans, l.notSlotOf vf = true

theorem State.flr_spec (s : State) (vf : Nat) : State.flrs vf s (s.flr vf) := by
  rw [State.flr_eq]
  have drained := State.drains_each (s.liveQueues vf) s
  have inside : ∀ k, k / 64 = vf → (s.queue k).st ≠ .absent → k ∈ s.liveQueues vf := fun k hk h => hk ▸ State.mem_liveQueues s k h
  have outside : ∀ k, k / 64 ≠ vf → k ∉ s.liveQueues vf := fun k hk h => hk (State.div_of_mem_liveQueues h)
  generalize s.each (s.liveQueues vf) State.destroyLive = a at *
  have marked := State.only_each (State.flrMark vf) (fun u k => State.only_flrMark u vf k) (a.queues.map (·.1)) a
  have marks := fun k => State.queue_flrMarks vf k (a.queues.map (·.1)) a
  generalize a.each (a.queues.map (·.1)) (State.flrMark vf) = b at *
  have funcs : ∀ f, b.func f = a.func f := State.func_of (marked .funcs (by decide))
  have own : ∀ f, ((b.modWps fun w => { w with lans := w.lans.filter (Lantern.notSlotOf vf) }).modFunc vf Func.flr).func f =
      if f = vf then (a.func vf).flr else a.func f := fun f => by
    rw [State.modFunc_func, State.modWps_func, State.modWps_func, funcs, funcs]
  have last : a.destroys ((b.modWps fun w => { w with lans := w.lans.filter (Lantern.notSlotOf vf) }).modFunc vf Func.flr) := by
    refine State.destroys_of (State.only_after (l := [.queues, .wps, .funcs]) (State.only_modFunc _ _ _).sub
      (State.only_after (State.only_modWps _ _).sub marked.sub)) (fun k => (marks k).2) fun x m => ?_
    have same : b.wps = a.wps := marked .wps (by decide)
    exact same ▸ (List.mem_filter.mp m).1
  refine ⟨State.destroys_trans drained.frame last, fun f => ?_, fun f hf => ?_, ?_, fun k hk h => ?_, fun k hk => ?_, fun r hq h hd hk => ?_,
    fun l m => (List.mem_filter.mp m).2⟩
  · rw [own]
    refine Eq.trans ?_ (Func.same_of_unendedAs Func.link (drained.func f))
    split
    · next h => rw [h]; rfl
    · rfl
  · rw [own, if_neg hf]
    exact drained.func f
  · rw [own, if_pos rfl]
    exact Func.flrOf_flr _ _ (Func.same_of_unendedAs Func.slots (drained.func vf))
  · exact (marks k).1.trans (drained.gone k (inside k hk h))
  · have other := congrArg Queue.st (drained.others k (outside k hk))
    exact (marks k).1.trans other
  · exact Task.killedBy_doomed (drained.kills r (inside _ hq h) hd hk) (last.tasks r)

/-- What an FLR has left of a VF's registers stays as it is when runs end. -/
theorem Func.flrOf_same {k : Nat} (hk : k < 1024) {f g g' : Func} (e : g'.unendedAs k = g.unendedAs k) (h : f.flrOf g) : f.flrOf g' := by
  unfold Func.unendedAs at e
  rw [if_pos hk, if_pos hk] at e
  obtain ⟨c, er, d, r, st, m, p, sl⟩ := h
  exact ⟨(congrArg Func.cmdResult e).trans c, (congrArg Func.errSum e).trans er, (congrArg Func.winDrop e).trans d,
    (congrArg Func.wpRefused e).trans r, (congrArg Func.wpStale e).trans st, (congrArg Func.msix e).trans m, (congrArg Func.pend e).trans p,
    fun j => (congrArg (fun x : Func => Tab.get {} x.slots j) e).trans (sl j)⟩

/-- The queues of function `f` that `s` had are being destroyed in `t`. -/
def State.gone (f : Nat) (s t : State) : Prop := ∀ k, k / 64 = f → (s.queue k).st ≠ .absent → (t.queue k).st = .destroying

/-- Of function `f` the queues are not absent, and the slots hold their handles and vectors. -/
def State.stands (f : Nat) (s t : State) : Prop := (∀ k, k / 64 = f → (s.queue k).st ≠ .absent → (t.queue k).st ≠ .absent) ∧
  ∀ j, Slot.disarm (Tab.get {} (t.func f).slots j) = Slot.disarm (Tab.get {} (s.func f).slots j)

theorem State.stands_flr (s u : State) (f vf : Nat) (h : State.stands f s u) : State.stands f s (u.flr vf) := by
  have spec := State.flr_spec u vf
  obtain ⟨hq, hs⟩ := h
  refine ⟨fun k hk ha => ?_, fun j => ?_⟩
  · by_cases hv : k / 64 = vf
    · rw [spec.gone k hv (hq k hk ha)]
      decide
    · rw [spec.st k hv]
      exact hq k hk ha
  · refine Eq.trans ?_ (hs j)
    by_cases hv : f = vf
    · subst hv
      obtain ⟨-, -, -, -, -, -, -, sl⟩ := spec.own
      rw [sl j]
      rfl
    · exact congrArg (fun x => Slot.disarm (Tab.get {} x j)) (Func.same_of_unendedAs Func.slots (spec.others f hv))

/-- An FLR is not undone by those of other VFs. -/
theorem State.gone_flr (s u : State) (f vf : Nat) (hf : f < 1024) (h : State.gone f s u ∧ (s.func f).flrOf (u.func f)) :
    State.gone f s (u.flr vf) ∧ (s.func f).flrOf ((u.flr vf).func f) := by
  have spec := State.flr_spec u vf
  obtain ⟨hq, hs⟩ := h
  refine ⟨fun k hk ha => ?_, ?_⟩
  · by_cases hv : k / 64 = vf
    · exact spec.gone k hv (by rw [hq k hk ha]; decide)
    · exact (spec.st k hv).trans (hq k hk ha)
  · by_cases hv : f = vf
    · subst hv
      obtain ⟨-, -, -, -, -, -, -, sl⟩ := hs
      exact Func.flrOf_trans (fun j => by rw [sl j]; rfl) spec.own
    · exact Func.flrOf_same hf (spec.others f hv) hs

/-- Each VF of a list has been reset once all have been. -/
theorem State.gone_flrs (s : State) (l : List Nat) (f : Nat) (hf : f < 1024) (hl : f ∈ l) :
    State.gone f s (s.each l State.flr) ∧ (s.func f).flrOf ((s.each l State.flr).func f) := by
  refine State.each_ends (I := State.stands f s) (P := fun u => State.gone f s u ∧ (s.func f).flrOf (u.func f)) hl
    (fun u vf h => State.stands_flr s u f vf h) (fun u h => ?_) (fun u vf h => State.gone_flr s u f vf hf h) s ⟨fun _ _ h => h, fun _ => rfl⟩
  obtain ⟨hq, hs⟩ := h
  exact ⟨fun k hk ha => (State.flr_spec u f).gone k hk (hq k hk ha), Func.flrOf_trans hs (State.flr_spec u f).own⟩

/-- What resets of VFs keep. -/
theorem State.kept_flrs (l : List Nat) (s : State) : s.destroys (s.each l State.flr) ∧
    (∀ f, ((s.each l State.flr).func f).link = (s.func f).link) ∧
    ∀ k, (s.queue k).st ≠ .absent → ((s.each l State.flr).queue k).st ≠ .absent := by
  refine State.each_keeps (P := fun u => s.destroys u ∧ (∀ f, (u.func f).link = (s.func f).link) ∧
    ∀ k, (s.queue k).st ≠ .absent → (u.queue k).st ≠ .absent) (fun u vf h => ?_) l s ⟨State.destroys_refl s, fun _ => rfl, fun _ h => h⟩
  obtain ⟨frame, link, live⟩ := h
  have spec := State.flr_spec u vf
  refine ⟨State.destroys_trans frame spec.frame, fun f => (spec.link f).trans (link f), fun k hk => ?_⟩
  by_cases hv : k / 64 = vf
  · rw [spec.gone k hv (live k hk)]
    decide
  · rw [spec.st k hv]
    exact live k hk

/-! ### The obligation -/

/-- What the statement says is kept. -/
theorem State.kept_of_destroys {s t : State} (h : s.destroys t) (hb : ∀ f, (t.func f).bind = (s.func f).bind ∧ (t.func f).range = (s.func f).range) :
    (∀ f, (t.func f).bind = (s.func f).bind ∧ (t.func f).range = (s.func f).range) ∧
      (∀ n, (t.part n).cfg = (s.part n).cfg ∧ (t.part n).engines = (s.part n).engines ∧ (t.part n).banks = (s.part n).banks) ∧
      t.objs.next = s.objs.next ∧ t.sec = s.sec ∧ t.boot = s.boot ∧ t.rcv = s.rcv ∧ t.latch = s.latch := by
  refine ⟨hb, fun n => ?_, h.next, h.only .sec (by decide), h.only .boot (by decide), h.only .rcv (by decide), h.only .latch (by decide)⟩
  have cfg := congrArg Part.cfg (h.part n)
  have engines := congrArg Part.engines (h.part n)
  have banks := congrArg Part.banks (h.part n)
  exact ⟨cfg, engines, banks⟩

theorem Func.link_eq {f g : Func} (h : g.link = f.link) : (g.bind = f.bind ∧ g.range = f.range) ∧ g.linkUp = f.linkUp :=
  ⟨⟨congrArg (·.1) h, congrArg (·.2.1) h⟩, congrArg (·.2.2) h⟩

/-- Queues that are being destroyed have kept generation, head and milestone. -/
theorem State.places_of_destroys {s t : State} (h : s.destroys t) (k : Nat) : (t.queue k).gen = (s.queue k).gen ∧
    (t.queue k).head = (s.queue k).head ∧ (t.queue k).milestone = (s.queue k).milestone :=
  ⟨congrArg (·.1) (h.place k), congrArg (·.2.1) (h.place k), congrArg (·.2.2) (h.place k)⟩

/-- The state after `done`: only counters, and what its commands keep, may differ. -/
theorem State.destroys_done {s u t : State} (h : s.destroys u) (only : s.only t destroyParts)
    (same : ∀ f, f ∉ ([.cnt, .pending, .latch] : List Field) → f.same u t) : s.destroys t := by
  refine ⟨only, fun n => ?_, ?_, fun l m => h.lans l ?_, fun k => ?_, fun r => ?_⟩
  · rw [State.part_of (same .parts (by decide))]
    exact h.part n
  · rw [same .objs (by decide)]
    exact h.next
  · rwa [same .wps (by decide)] at m
  · rw [State.queue_of (same .queues (by decide))]
    exact h.place k
  · rw [State.task_of (same .tasks (by decide))]
    exact h.tasks r

theorem State.vfFlr_spec (s : State) (vf h : Nat) (hh : h < 4) (hl : (s.func (pfKey h)).linkUp = true) (hv : vf ∈ s.enabledVfs h) :
    ∃ t, exec (.vfFlr vf) s = .next t ∧ State.flrs vf s t := by
  have held : ((List.range 4).any fun p => (s.func (pfKey p)).linkUp && (s.enabledVfs p).contains vf) = true :=
    List.any_eq_true.mpr ⟨h, List.mem_range.mpr hh, by simp [hl, hv]⟩
  have spec := State.flr_spec s vf
  obtain ⟨t, ht, -, -, same, only⟩ := done_spec s (s.flr vf)
  have funcs : ∀ f, t.func f = (s.flr vf).func f := State.func_of (same .funcs (by decide))
  have queues : ∀ k, t.queue k = (s.flr vf).queue k := State.queue_of (same .queues (by decide))
  have tasks : ∀ r, t.task r = (s.flr vf).task r := State.task_of (same .tasks (by decide))
  have wps : t.wps = (s.flr vf).wps := same .wps (by decide)
  refine ⟨t, (congrArg (done s) (if_pos held)).trans ht, State.destroys_done spec.frame (only _ (by decide) spec.frame.only) same,
    fun f => ?_, fun f hf => ?_, ?_, fun k hk h => ?_, fun k hk => ?_, fun r hq h hd hk => ?_, fun l m => ?_⟩
  · rw [funcs]
    exact spec.link f
  · rw [funcs]
    exact spec.others f hf
  · rw [funcs]
    exact spec.own
  · rw [queues]
    exact spec.gone k hk h
  · rw [queues]
    exact spec.st k hk
  · rw [tasks]
    exact spec.kills r hq h hd hk
  · rw [wps] at m
    exact spec.slots l m

theorem State.pfKey_ge (p : Nat) : 1024 ≤ pfKey p := Nat.le_add_right 1024 p

/-- The loss of a link before its function's register says so. -/
def State.linkLost (s : State) (p : Nat) : State :=
  State.each (s.each (s.enabledVfs p) State.flr) ((s.each (s.enabledVfs p) State.flr).liveQueues (pfKey p)) State.destroyLive

theorem State.linkLost_spec (s : State) (p : Nat) : s.destroys (s.linkLost p) ∧ (∀ f, ((s.linkLost p).func f).link = (s.func f).link) ∧
    State.gone (pfKey p) s (s.linkLost p) ∧
    ∀ f ∈ s.enabledVfs p, f < 1024 → State.gone f s (s.linkLost p) ∧ (s.func f).flrOf ((s.linkLost p).func f) := by
  obtain ⟨frame, link, live⟩ := State.kept_flrs (s.enabledVfs p) s
  have reset := fun f hf hl => State.gone_flrs s (s.enabledVfs p) f hf hl
  unfold State.linkLost
  generalize s.each (s.enabledVfs p) State.flr = a at *
  have drained := State.drains_each (a.liveQueues (pfKey p)) a
  refine ⟨State.destroys_trans frame drained.frame, fun f => (Func.same_of_unendedAs Func.link (drained.func f)).trans (link f),
    fun k hk ha => drained.gone k (hk ▸ State.mem_liveQueues a k (live k ha)), fun f hm hf => ?_⟩
  obtain ⟨gone, own⟩ := reset f hf hm
  exact ⟨fun k hk ha => State.drains_stay drained k (gone k hk ha), Func.flrOf_same hf (drained.func f) own⟩

theorem State.hostLinkLoss_spec (s : State) (p : Nat) : ∃ t, exec (.hostLinkLoss p) s = .next t ∧ s.destroys t ∧
    (∀ f, t.func f = if f = pfKey p then { (s.linkLost p).func f with linkUp := false } else (s.linkLost p).func f) ∧
    ∀ k, t.queue k = (s.linkLost p).queue k := by
  have frame := (State.linkLost_spec s p).1
  have run : exec (.hostLinkLoss p) s = done s ((s.linkLost p).modFunc (pfKey p) fun f => { f with linkUp := false }) := rfl
  generalize s.linkLost p = a at *
  have all : s.destroys (a.modFunc (pfKey p) fun f => { f with linkUp := false }) :=
    State.destroys_trans frame (State.destroys_of (State.only_modFunc _ _ _) fun _ => rfl)
  obtain ⟨t, ht, -, -, same, only⟩ := done_spec s (a.modFunc (pfKey p) fun f => { f with linkUp := false })
  refine ⟨t, run.trans ht, State.destroys_done all (only _ (by decide) all.only) same, fun f => ?_, fun k => ?_⟩
  · rw [State.func_of (same .funcs (by decide)) f, State.modFunc_func]
    split
    · next h => rw [h]
    · rfl
  · exact State.queue_of (same .queues (by decide)) k

/-- Settles O59: an FLR by `flr_spec`; the loss of a link resets each enabled VF, and no later reset undoes one (`gone_flrs`). -/
theorem functionResetsAndLinks : Obligations.FunctionResetsAndLinks := by
  intro vf p s
  refine ⟨?_, fun hl => ?_, fun hl => ?_, ?_, done_modFunc s _ _⟩
  · rintro ⟨h, hh, hl, hv⟩
    obtain ⟨t, ht, spec⟩ := State.vfFlr_spec s vf h hh hl hv
    refine ⟨t, ht, fun k hk ha => ⟨spec.gone k hk ha, State.places_of_destroys spec.frame k⟩, fun r hq ha hd hk => ?_, spec.own,
      State.kept_of_destroys spec.frame fun f => (Func.link_eq (spec.link f)).1, fun f => (Func.link_eq (spec.link f)).2, fun l m k e => ?_⟩
    · obtain ⟨k, a, -⟩ := Task.killedBy_fields (spec.kills r hq ha hd hk)
      exact ⟨k, a⟩
    · have not := spec.slots l m
      unfold Lantern.notSlotOf at not
      rw [e] at not
      simp at not
  · exact (congrArg (done s) (if_pos hl)).trans (done_modFunc s _ _)
  · exact (congrArg (done s) (if_neg (ne_true_of_eq_false hl))).trans (done_self s)
  · obtain ⟨frame, link, pf, vfs⟩ := State.linkLost_spec s p
    obtain ⟨t, ht, all, func, queue⟩ := State.hostLinkLoss_spec s p
    refine ⟨t, ht, ?_, fun f hf => ?_, fun k hk ha => ⟨?_, State.places_of_destroys all k⟩, fun f hm hf => ⟨fun k hk ha => ⟨?_,
      State.places_of_destroys all k⟩, ?_⟩, State.kept_of_destroys all fun f => ?_⟩
    · rw [func, if_pos rfl]
    · rw [func, if_neg hf]
      exact (Func.link_eq (link f)).2
    · rw [queue]
      exact pf k hk ha
    · rw [queue]
      exact (vfs f hm hf).1 k hk ha
    · have own : (s.func f).flrOf (t.func f) := by
        rw [func, if_neg (Nat.ne_of_lt (Nat.lt_of_lt_of_le hf (State.pfKey_ge p)))]
        exact (vfs f hm hf).2
      exact own
    · rw [func]
      have kept := (Func.link_eq (link f)).1
      split <;> exact kept

end Sys2Proof.Machine
end


section
/-! Messages about a port itself, and its control (07 R198 to R200, R207, R208, R213). -/

namespace Sys2Proof.Machine

set_option Elab.async false

/-! ### Step times (07 R213) -/

/-- A partition with its step times recomputed. -/
def Part.stepped (p : Part) (x : Nat × Nat) : Part := { p with stepNs := x.1, endNs := x.2 }

theorem State.part_recomputeStep (s : State) (n m : Nat) :
    (s.recomputeStep n).part m = if m = n then (s.part n).stepped (s.stepTimes n) else s.part m := State.modPart_part s n _ m

theorem State.stepTimes_recomputeStep (s : State) (n m : Nat) : (s.recomputeStep n).stepTimes m = s.stepTimes m :=
  State.stepTimes_congr m rfl rfl ((State.porting_recomputeStep s n).part_same Part.engines m)

theorem State.recomputeSteps_part (l : List Nat) (m : Nat) : ∀ s : State,
    (s.each l State.recomputeStep).part m = if m ∈ l then (s.part m).stepped (s.stepTimes m) else s.part m := by
  induction l with
  | nil => exact fun s => rfl
  | cons n l ih =>
    intro s
    refine (ih (s.recomputeStep n)).trans ?_
    rw [State.stepTimes_recomputeStep, State.part_recomputeStep]
    by_cases hm : m = n
    · subst hm
      simp [Part.stepped]
    · simp [hm]

theorem State.stepTimes_recomputePort (s : State) (k m : Nat) : (s.recomputePort k).stepTimes m = s.stepTimes m := by
  have only := State.only_recomputePort s k
  exact State.stepTimes_congr m (only .ports (by decide)) (only .latch (by decide)) ((State.porting_recomputePort s k).part_same Part.engines m)

/-- The partitions that name port `k` have new step times, those that `t` gives; the others are as they were. -/
def State.restepped (k : Nat) (s t : State) : Prop := (∀ n, n ∉ s.portParts k → t.part n = s.part n) ∧
  ∀ n, n ∈ s.portParts k → t.part n = { s.part n with stepNs := (t.stepTimes n).1, endNs := (t.stepTimes n).2 }

theorem State.restepped_recomputePort {s u : State} (k : Nat) (h : u.parts = s.parts) : s.restepped k (u.recomputePort k) := by
  have named : u.portParts k = s.portParts k := by
    unfold State.portParts
    rw [h]
  have part := fun n => State.recomputeSteps_part (u.portParts k) n u
  refine ⟨fun n hn => ?_, fun n hn => ?_⟩
  · refine (part n).trans ?_
    rw [named, if_neg hn, State.part_of h]
  · refine (part n).trans ?_
    rw [named, if_pos hn, State.part_of h, State.stepTimes_recomputePort]
    rfl

/-- The step times of the partitions of a port recomputed, after a change that leaves the partitions as they are. -/
theorem State.recomputePort_spec {s u : State} (k : Nat) {l : List Field} (h : s.only u l) (hl : .parts ∉ l) :
    s.restepped k (u.recomputePort k) ∧ (∀ q, (u.recomputePort k).eport q = u.eport q) ∧
      (∀ n, ((u.recomputePort k).part n).seqr.length = (s.part n).seqr.length) ∧ s.only (u.recomputePort k) (.parts :: l) := by
  have only := State.only_recomputePort u k
  refine ⟨State.restepped_recomputePort k (h .parts hl), State.eport_of (only .ports (by decide)), fun n => ?_,
    State.only_after (State.only_mono only (by simp)) (State.only_mono h fun f hf => List.mem_cons_of_mem _ hf)⟩
  rw [(State.porting_recomputePort u k).seqr n, State.part_of (h .parts hl)]

/-! ### Messages about the port (07 R199, R200) -/

/-- The state after a return message has arrived at a port: its handshake, and the port's last return. -/
def State.arrived (s : State) (k : Nat) (msg : W128) : State := (s.handshakes 1 k 1).modPort k fun e => { e with lastRet := msg }

theorem State.only_arrived (s : State) (k : Nat) (msg : W128) : s.only (s.arrived k msg) [.ports, .cnt] :=
  State.only_after (State.only_modPort _ _ _).sub (State.only_handshakes s 1 k 1).sub

theorem State.eport_arrived (s : State) (k : Nat) (msg : W128) (q : Nat) :
    (s.arrived k msg).eport q = if q = k then { s.eport k with lastRet := msg } else s.eport q := by
  unfold State.arrived
  rw [State.modPort_eport, State.handshakes_eport, State.handshakes_eport]

theorem State.portPart_of {s t : State} (h : t.parts = s.parts) (k : Nat) : t.portPart k = s.portPart k := by
  unfold State.portPart State.enabled State.part
  rw [h]

theorem State.portPgen_of {s t : State} (h : t.parts = s.parts) (k : Nat) : t.portPgen k = s.portPgen k := by
  unfold State.portPgen
  rw [State.portPart_of h]
  split
  · rw [State.part_of h]
  · rfl

/-- A message about a port that is not retired, whose tags are the port's own, is acted on where the port awaits it, else late. -/
theorem State.onPort_live (s : State) (k : Nat) (g : Tag) (msg : W128) (ok : EPort → Bool) (f : State → State) (hr : (s.eport k).retired = false) :
    s.onPort k g msg ok f =
      if g.egen = (s.eport k).egen ∧ (s.portPart k = none ∨ g.pgen = s.portPgen k) ∧ ok { s.eport k with lastRet := msg } = true
      then f (s.arrived k msg) else (s.arrived k msg).latePort k := by
  have parts : (s.arrived k msg).parts = s.parts := State.only_arrived s k msg .parts (by decide)
  have self := State.eport_arrived s k msg k
  rw [if_pos rfl] at self
  have open_ : s.onPort k g msg ok f =
      if g.egen = ((s.arrived k msg).eport k).egen ∧ ((s.arrived k msg).portPart k = none ∨ g.pgen = (s.arrived k msg).portPgen k) ∧
        ok ((s.arrived k msg).eport k) = true then f (s.arrived k msg) else (s.arrived k msg).latePort k := if_neg (ne_true_of_eq_false hr)
  rw [open_, State.portPart_of parts, State.portPgen_of parts, self]

/-- A late message of a port that is not retired is counted in LATE (07 R199). -/
theorem State.latePort_live (s : State) (k : Nat) (hr : (s.eport k).retired = false) :
    (∀ q, (s.latePort k).eport q = if q = k then { s.eport k with late := satAdd 0xFFFF (s.eport k).late 1 } else s.eport q) ∧
      s.only (s.latePort k) [.ports, .cnt] := by
  have late : s.latePort k = (s.modPort k fun e => { e with late := satAdd 0xFFFF e.late 1 }).tick 0x0E4 (s.portPart k) := by
    unfold State.latePort
    rw [if_neg (ne_true_of_eq_false hr)]
  rw [late]
  have tick := State.only_tick (s.modPort k fun e => { e with late := satAdd 0xFFFF e.late 1 }) 0x0E4 (s.portPart k)
  refine ⟨fun q => ?_, State.only_after tick.sub (State.only_modPort s k _).sub⟩
  rw [State.eport_of (tick .ports (by decide)), State.modPort_eport]

/-- A late message of a retired port counts for the channel too (13 R373). -/
theorem State.latePort_retired (s : State) (k : Nat) (hr : (s.eport k).retired = true) :
    (∀ q, (s.latePort k).eport q = if q = k then { s.eport k with late := satAdd 0xFFFF (s.eport k).late 1 } else s.eport q) ∧
      (∀ q, q ≠ ckey 1 k → (s.latePort k).chan q = s.chan q) ∧ s.only (s.latePort k) [.ports, .chans, .cnt] := by
  have late : s.latePort k = ((s.modChan (ckey 1 k) fun c => { c with late := c.late + 1 }).modPort k fun e =>
      { e with late := satAdd 0xFFFF e.late 1 }).tick 0x0E4 ((s.modChan (ckey 1 k) fun c => { c with late := c.late + 1 }).portPart k) := by
    unfold State.latePort
    rw [if_pos hr]
  rw [late]
  have tick := State.only_tick ((s.modChan (ckey 1 k) fun c => { c with late := c.late + 1 }).modPort k fun e =>
    { e with late := satAdd 0xFFFF e.late 1 }) 0x0E4 ((s.modChan (ckey 1 k) fun c => { c with late := c.late + 1 }).portPart k)
  refine ⟨fun q => ?_, fun q hq => ?_, State.only_after tick.sub (State.only_after (State.only_modPort _ k _).sub (State.only_modChan s _ _).sub)⟩
  · rw [State.eport_of (tick .ports (by decide)), State.modPort_eport, State.modChan_eport, State.modChan_eport]
  · rw [State.chan_of (tick .chans (by decide)), State.modPort_chan]
    exact State.modChan_chan_ne s _ _ hq

/-- CLEAR_DONE acts where the port is clearing (07 R207). -/
theorem State.clearDone_spec (s : State) (k : Nat) (g : Tag) (hr : (s.eport k).retired = false) (hg : g.egen = (s.eport k).egen)
    (hp : s.portPart k = none ∨ g.pgen = s.portPgen k) (hc : (s.eport k).clearing = true) : ∃ t, exec (.clearDone k g) s = .next t ∧
      t.eport k = { s.eport k with clearing := false, lastRet := retMsg g 5 0 0 0 } ∧ (∀ q, q ≠ k → t.eport q = s.eport q) ∧ s.restepped k t ∧
      s.only t [.ports, .cnt, .parts, .rcv] := by
  have arrived := State.only_arrived s k (retMsg g 5 0 0 0)
  have port := State.eport_arrived s k (retMsg g 5 0 0 0)
  have run : exec (.clearDone k g) s = done s (s.onPort k g (retMsg g 5 0 0 0) (·.clearing) fun u =>
      let u := (u.modPort k fun e => { e with clearing := false }).recomputePort k
      if u.rcv.rszPhase ≠ 0 ∧ bit u.rcv.rszMovE k then u.modRcv fun x => { x with rszCleared := setBit x.rszCleared k } else u) := rfl
  rw [run, State.onPort_live s k g _ _ _ hr, if_pos ⟨hg, hp, hc⟩]
  generalize s.arrived k (retMsg g 5 0 0 0) = a at *
  have only : s.only (a.modPort k fun e => { e with clearing := false }) [.ports, .cnt] := State.only_after (State.only_modPort a k _).sub arrived
  have ports : ∀ q, (a.modPort k fun e => { e with clearing := false }).eport q =
      if q = k then { s.eport k with clearing := false, lastRet := retMsg g 5 0 0 0 } else s.eport q := fun q => by
    rw [State.modPort_eport, port, port, if_pos rfl]
    by_cases hq : q = k
    · rw [if_pos hq, if_pos hq]
    · rw [if_neg hq, if_neg hq, if_neg hq]
  obtain ⟨steps, kept, seqr, all⟩ := State.recomputePort_spec k only (by decide)
  generalize (a.modPort k fun e => { e with clearing := false }).recomputePort k = b at *
  have fin : ∀ t : State, b.only t [.rcv] → done s t = .next t ∧ t.eport k = { s.eport k with clearing := false, lastRet := retMsg g 5 0 0 0 } ∧
      (∀ q, q ≠ k → t.eport q = s.eport q) ∧ s.restepped k t ∧ s.only t [.ports, .cnt, .parts, .rcv] := fun t ht => by
    have eports : ∀ q, t.eport q = b.eport q := State.eport_of (ht .ports (by decide))
    have parts : ∀ n, t.part n = b.part n := State.part_of (ht .parts (by decide))
    have whole : s.only t [.ports, .cnt, .parts, .rcv] := State.only_after ht.sub all.sub
    refine ⟨done_same s t (whole .tasks (by decide)) (whole .mtus (by decide)) (by rw [whole .boot (by decide)]) (whole .pending (by decide))
      (whole .latch (by decide)) (fun n => by rw [parts]; exact seqr n), ?_, fun q hq => ?_, ⟨fun n hn => ?_, fun n hn => ?_⟩, whole⟩
    · rw [eports, kept, ports, if_pos rfl]
    · rw [eports, kept, ports, if_neg hq]
    · rw [parts]
      exact steps.1 n hn
    · rw [State.stepTimes_congr n (ht .ports (by decide)) (ht .latch (by decide)) (by rw [parts]), parts]
      exact steps.2 n hn
  dsimp only
  split
  · exact ⟨_, fin _ (State.only_modRcv b _)⟩
  · exact ⟨b, fin b (State.only_refl b _)⟩

/-- IDENT acts where the port is enabled and has been asked (07 R200, R213). -/
theorem State.ident_spec (s : State) (k : Nat) (g : Tag) (units : Nat) (v : W64) (hr : (s.eport k).retired = false) (hg : g.egen = (s.eport k).egen)
    (hp : s.portPart k = none ∨ g.pgen = s.portPgen k) (he : (s.eport k).enable = true) (ha : (s.eport k).asked = true) :
    ∃ t, exec (.ident k g units v) s = .next t ∧
      t.eport k = { s.eport k with ident := v, identified := fld v 31 16 != 0 && units == 4, lastRet := retMsg g 6 0 0 v } ∧
      (∀ q, q ≠ k → t.eport q = s.eport q) ∧ s.restepped k t ∧ s.only t [.ports, .cnt, .parts] := by
  have run : exec (.ident k g units v) s = done s (s.onPort k g (retMsg g 6 0 0 v) (fun e => e.enable && e.asked) fun u =>
      (u.modPort k fun e => { e with ident := v, identified := fld v 31 16 != 0 && units == 4 }).recomputePort k) := rfl
  have arrived := State.only_arrived s k (retMsg g 6 0 0 v)
  have port := State.eport_arrived s k (retMsg g 6 0 0 v)
  rw [run, State.onPort_live s k g _ _ _ hr, if_pos ⟨hg, hp, by simp [he, ha]⟩]
  generalize s.arrived k (retMsg g 6 0 0 v) = a at *
  obtain ⟨steps, kept, seqr, all⟩ := State.recomputePort_spec (s := s)
    (u := a.modPort k fun e => { e with ident := v, identified := fld v 31 16 != 0 && units == 4 }) (l := [.ports, .cnt]) k
    (State.only_after (State.only_modPort a k _).sub arrived) (by decide)
  refine ⟨_, done_same s _ (all .tasks (by decide)) (all .mtus (by decide)) (by rw [all .boot (by decide)]) (all .pending (by decide))
      (all .latch (by decide)) seqr, ?_, fun q hq => ?_, steps, all.sub⟩
  · rw [kept, State.modPort_eport, port, if_pos rfl, if_pos rfl]
  · rw [kept, State.modPort_eport, port, port, if_neg hq, if_neg hq]

/-- An IDENT that nothing has asked for is late (log 103). -/
theorem State.ident_late (s : State) (k : Nat) (g : Tag) (units : Nat) (v : W64) (hr : (s.eport k).retired = false)
    (ha : ((s.eport k).enable && (s.eport k).asked) = false) : ∃ t, exec (.ident k g units v) s = .next t ∧
      t.eport k = { s.eport k with late := satAdd 0xFFFF (s.eport k).late 1, lastRet := retMsg g 6 0 0 v } ∧
      (∀ q, q ≠ k → t.eport q = s.eport q) ∧ s.only t [.ports, .cnt] := by
  have run : exec (.ident k g units v) s = done s (s.onPort k g (retMsg g 6 0 0 v) (fun e => e.enable && e.asked) fun u =>
      (u.modPort k fun e => { e with ident := v, identified := fld v 31 16 != 0 && units == 4 }).recomputePort k) := rfl
  have arrived := State.only_arrived s k (retMsg g 6 0 0 v)
  have port := State.eport_arrived s k (retMsg g 6 0 0 v)
  rw [run, State.onPort_live s k g _ _ _ hr, if_neg fun h => ne_true_of_eq_false ha h.2.2]
  generalize s.arrived k (retMsg g 6 0 0 v) = a at *
  obtain ⟨late, only⟩ := State.latePort_live a k (by rw [port, if_pos rfl]; exact hr)
  have all : s.only (a.latePort k) [.ports, .cnt] := State.only_trans arrived only
  refine ⟨_, done_of_only all (by rw [all .boot (by decide)]), ?_, fun q hq => ?_, all⟩
  · rw [late, port, if_pos rfl, if_pos rfl]
  · rw [late, port, port, if_neg hq, if_neg hq]

/-- A detour that waits for a latched message ends (13 R362). -/
def State.latchedEnd (k : Nat) (s : State) : State := if (s.chan (ckey 1 k)).waits then s.endDetour 1 k else s

theorem State.tick_hands (s : State) (e : Nat) (p : Option Nat) (c : Nat) : (s.tick e p).hands c = s.hands c := by
  unfold State.tick State.tickN
  split
  · unfold State.cntRaw State.modCnt
    dsimp only
    split <;> rfl
  · rfl

/-- A detour that ends gives way to the next one of its channel (13 R362). -/
theorem State.endDetour_spec (s : State) (kind i : Nat) : s.only (s.endDetour kind i) [.chans, .cnt] ∧
    (∀ q, (s.endDetour kind i).chan q = if q = ckey kind i then (s.chan (ckey kind i)).nextDetour else s.chan q) ∧
    ∀ c, (s.endDetour kind i).hands c = s.hands c := by
  unfold State.endDetour
  dsimp only
  have mod := State.only_modChan s (ckey kind i) Chan.nextDetour
  have chan := State.modChan_chan s (ckey kind i) Chan.nextDetour
  have hands : ∀ c, (s.modChan (ckey kind i) Chan.nextDetour).hands c = s.hands c := fun c => rfl
  generalize s.modChan (ckey kind i) Chan.nextDetour = a at *
  split
  · have tick := State.only_tick a 0x1CA none
    exact ⟨State.only_after tick.sub mod.sub, fun q => (State.chan_of (tick .chans (by decide)) q).trans (chan q),
      fun c => (State.tick_hands a 0x1CA none c).trans (hands c)⟩
  · exact ⟨mod.sub, chan, hands⟩

theorem State.latchedEnd_spec (s : State) (k : Nat) : s.only (State.latchedEnd k s) [.chans, .cnt] ∧
    (State.latchedEnd k s).chan (ckey 1 k) = (if (s.chan (ckey 1 k)).waits then (s.chan (ckey 1 k)).nextDetour else s.chan (ckey 1 k)) ∧
    (∀ q, q ≠ ckey 1 k → (State.latchedEnd k s).chan q = s.chan q) ∧ (State.latchedEnd k s).hands (ckey 1 k) = s.hands (ckey 1 k) := by
  obtain ⟨only, chan, hands⟩ := State.endDetour_spec s 1 k
  unfold State.latchedEnd
  split
  · exact ⟨only, (chan _).trans (if_pos rfl), fun q hq => (chan q).trans (if_neg hq), hands _⟩
  · exact ⟨State.only_refl s _, rfl, fun _ _ => rfl, rfl⟩

/-- A message of the forward channel has been latched (07 R198; 13 R362). -/
theorem State.forwardLatch_spec (s : State) (k : Nat) (m : FwdMsg) (rest : List FwdMsg) (h : (s.eport k).fwd = m :: rest) :
    ∃ t, exec (.forwardMessageLatch k) s = .next t ∧ t.eport k = { s.eport k with fwd := rest } ∧ (∀ q, q ≠ k → t.eport q = s.eport q) ∧
      t.hands (ckey 1 k) = (s.hands (ckey 1 k) + 1) % 2 ^ 32 ∧
      t.chan (ckey 1 k) = (if (s.chan (ckey 1 k)).waits then (s.chan (ckey 1 k)).nextDetour else s.chan (ckey 1 k)) ∧
      (∀ q, q ≠ ckey 1 k → t.chan q = s.chan q) ∧ s.only t [.ports, .chans, .cnt] := by
  have latched : s.only ((s.modPort k fun e => { e with fwd := rest }).handshakes 1 k 1) [.ports, .cnt] :=
    State.only_after (State.only_handshakes _ 1 k 1).sub (State.only_modPort s k _).sub
  have port : ∀ q, ((s.modPort k fun e => { e with fwd := rest }).handshakes 1 k 1).eport q =
      if q = k then { s.eport k with fwd := rest } else s.eport q := fun q => by
    rw [State.handshakes_eport, State.modPort_eport]
  have hands : ((s.modPort k fun e => { e with fwd := rest }).handshakes 1 k 1).hands (ckey 1 k) = (s.hands (ckey 1 k) + 1) % 2 ^ 32 :=
    State.handshakes_hands_self _ 1 k 1
  have run : exec (.forwardMessageLatch k) s = done s (State.latchedEnd k ((s.modPort k fun e => { e with fwd := rest }).handshakes 1 k 1)) := by
    refine congrArg (done s) ?_
    rw [h]
    rfl
  rw [run]
  generalize (s.modPort k fun e => { e with fwd := rest }).handshakes 1 k 1 = a at *
  have chans : ∀ q, a.chan q = s.chan q := State.chan_of (latched .chans (by decide))
  obtain ⟨only, self, others, same⟩ := State.latchedEnd_spec a k
  have all : s.only (State.latchedEnd k a) [.ports, .chans, .cnt] := State.only_after only.sub latched.sub
  have ports : ∀ q, (State.latchedEnd k a).eport q = a.eport q := State.eport_of (only .ports (by decide))
  refine ⟨_, done_of_only all (by rw [all .boot (by decide)]), ?_, fun q hq => ?_, same.trans hands, self.trans (by rw [chans]),
    fun q hq => (others q hq).trans (chans q), all⟩
  · rw [ports, port, if_pos rfl]
  · rw [ports, port, if_neg hq]

/-! ### EPORT_CTRL (07 R200, R208, R213) -/

/-- A port enabled or disabled (07 R200). -/
def State.eportEnabled (s : State) (k : Nat) (en : Bool) : State := s.modPort k fun e => { e with enable := en, asked := e.asked && en }

/-- The rest of a write of EPORT_CTRL.ENABLE: where the bit changes, an enabled port is asked and step times are recomputed. -/
def State.eportTold (s : State) (k : Nat) (old en : Bool) : State :=
  if old = en then s else (if en then s.sendIdentReq k else s).recomputePort k

theorem State.eportSet_all (s : State) (k : Nat) (v : W64) : s.eportSet k v allBits =
    if bit v 1 then ((s.eportEnabled k (bit v 0)).eportTold k (s.eport k).enable (bit v 0)).eportReset k
    else (s.eportEnabled k (bit v 0)).eportTold k (s.eport k).enable (bit v 0) := by
  have mask : bit (v &&& allBits) 1 = bit v 1 := by
    rw [show v &&& allBits = v from BitVec.and_allOnes (x := v)]
  unfold State.eportSet
  rw [mask]
  rfl

/-- A port whose ENABLE has been written. -/
def EPort.told (e : EPort) (pgen : Nat) (live en : Bool) : EPort :=
  if en && !e.enable && live && !e.retired then ({ e with enable := en, asked := e.asked && en } : EPort).asking pgen
  else { e with enable := en, asked := e.asked && en }

theorem State.eportEnabled_eport (s : State) (k q : Nat) (en : Bool) : (s.eportEnabled k en).eport q =
    if q = k then { s.eport k with enable := en, asked := (s.eport k).asked && en } else s.eport q := State.modPort_eport s k _ q

/-- The port after a write of ENABLE, and what it reaches. -/
theorem State.eportTold_spec (s : State) (k : Nat) (en : Bool) :
    (∀ q, ((s.eportEnabled k en).eportTold k (s.eport k).enable en).eport q =
      if q = k then (s.eport k).told (s.portPgen k) s.latch.engines en else s.eport q) ∧
    (en ≠ (s.eport k).enable → s.restepped k ((s.eportEnabled k en).eportTold k (s.eport k).enable en)) ∧
    (en = (s.eport k).enable → ((s.eportEnabled k en).eportTold k (s.eport k).enable en).parts = s.parts) ∧
    s.porting ((s.eportEnabled k en).eportTold k (s.eport k).enable en) := by
  have first : s.porting (s.eportEnabled k en) := State.porting_modPort s k _
  have only : s.only (s.eportEnabled k en) [.ports] := State.only_modPort s k _
  have port := fun q => State.eportEnabled_eport s k q en
  have self := port k
  rw [if_pos rfl] at self
  generalize s.eportEnabled k en = a at *
  unfold State.eportTold
  by_cases he : en = (s.eport k).enable
  · rw [if_pos he.symm]
    refine ⟨fun q => ?_, fun h => absurd he h, fun _ => only .parts (by decide), first⟩
    rw [port]
    unfold EPort.told
    rw [he]
    simp
  · rw [if_neg fun h => he h.symm]
    have asked : a.only (if en then a.sendIdentReq k else a) [.ports] ∧ a.porting (if en then a.sendIdentReq k else a) ∧
        ∀ q, (if en then a.sendIdentReq k else a).eport q = if q = k then (s.eport k).told (s.portPgen k) s.latch.engines en else s.eport q := by
      cases en with
      | true =>
        rw [if_pos rfl]
        refine ⟨State.only_sendIdentReq a k, State.porting_sendIdentReq a k, fun q => ?_⟩
        rw [State.sendIdentReq_eport, self, port q, first.portPgen, only .latch (by decide)]
        have old : (s.eport k).enable = false := by simpa using Ne.symm he
        unfold EPort.told
        by_cases hq : q = k
        · simp [hq, old]
        · simp [hq]
      | false =>
        rw [if_neg (by decide)]
        refine ⟨State.only_refl a _, State.porting_refl a, fun q => ?_⟩
        rw [port q]
        rfl
    obtain ⟨sent, porting, ports⟩ := asked
    generalize (if en then a.sendIdentReq k else a) = b at *
    obtain ⟨steps, kept, -, -⟩ := State.recomputePort_spec k (State.only_trans only sent) (by decide)
    exact ⟨fun q => (kept q).trans (ports q), fun _ => steps, fun h => absurd h he,
      State.porting_trans (State.porting_trans first porting) (State.porting_recomputePort b k)⟩

theorem State.exec_eportEnable (s : State) (p k : Nat) (v : W64) (hl : (s.func (pfKey p)).linkUp = true) (ho : s.boot.operator = some p)
    (hk : k < 64) : exec (.eportEnable p k v) s = done s (s.eportSet k v allBits) ∧ exec (.eportReset p k v) s = done s (s.eportSet k v allBits) := by
  have write : s.eportWrite p k v = s.eportSet k v allBits := (State.opWrite_op s p _ _ hl ho).trans (if_pos hk)
  exact ⟨congrArg (done s) write, congrArg (done s) write⟩

/-- A change of ports and their partitions is done as it is. -/
theorem State.porting.done {s t : State} (h : s.porting t) : Sys2Proof.Machine.done s t = .next t :=
  done_same s t (h.only .tasks (by decide)) (h.only .mtus (by decide)) (by rw [h.only .boot (by decide)]) (h.only .pending (by decide))
    (h.only .latch (by decide)) h.seqr

theorem State.eportEnable_spec (s : State) (p k : Nat) (v : W64) (hl : (s.func (pfKey p)).linkUp = true) (ho : s.boot.operator = some p)
    (hk : k < 64) (hv : bit v 1 = false) : ∃ t, exec (.eportEnable p k v) s = .next t ∧
      (∀ q, t.eport q = if q = k then (s.eport k).told (s.portPgen k) s.latch.engines (bit v 0) else s.eport q) ∧
      (bit v 0 ≠ (s.eport k).enable → s.restepped k t) ∧ (bit v 0 = (s.eport k).enable → t.parts = s.parts) ∧ s.only t [.ports, .parts] := by
  obtain ⟨port, steps, same, porting⟩ := State.eportTold_spec s k (bit v 0)
  refine ⟨_, (State.exec_eportEnable s p k v hl ho hk).1.trans ?_, port, steps, same, porting.only.sub⟩
  rw [State.eportSet_all, if_neg (ne_true_of_eq_false hv)]
  exact porting.done

theorem EPort.told_fields (e : EPort) (pgen : Nat) (live en : Bool) : (e.told pgen live en).enable = en ∧
    (e.told pgen live en).fwd = e.fwd ++ (if en && !e.enable && live && !e.retired then [bareMsg 4 pgen e.egen] else []) ∧
    (e.told pgen live en).asked = (en && (e.asked || (!e.enable && live && !e.retired))) ∧
    (e.told pgen live en).egen = e.egen ∧ (e.told pgen live en).retired = e.retired ∧ (e.told pgen live en).clearing = e.clearing := by
  unfold EPort.told
  split
  · next h =>
    obtain ⟨⟨⟨a, b⟩, c⟩, d⟩ : ((en = true ∧ e.enable = false) ∧ live = true) ∧ e.retired = false := by simpa using h
    refine ⟨rfl, rfl, ?_, rfl, rfl, rfl⟩
    simp [EPort.asking, a, b, c, d]
  · next h =>
    refine ⟨rfl, (List.append_nil _).symm, ?_, rfl, rfl, rfl⟩
    cases en
    · simp
    · simp only [Bool.true_and] at h ⊢
      simp [eq_false_of_ne_true h]

/-! ### A port that stopping dispatches reach -/

/-- A port whose credits may have returned, and whose forward channel may have grown. -/
structure EPort.grown (e e' : EPort) : Prop where
  same : e'.unended = e.unended
  held : e'.held ≤ e.held
  fwd : ∀ m ∈ e.fwd, m ∈ e'.fwd

/-- From `s` to `t` ports get messages and credits back alone. -/
def State.emits (s t : State) : Prop := ∀ q, (s.eport q).grown (t.eport q)

theorem State.emits_of_ports {s t : State} (h : t.ports = s.ports) : s.emits t := fun q => by
  rw [State.eport_of h]
  exact ⟨rfl, Nat.le_refl _, fun _ m => m⟩

theorem State.emits_trans {s t u : State} (h : s.emits t) (g : t.emits u) : s.emits u := fun q =>
  ⟨(g q).same.trans (h q).same, Nat.le_trans (g q).held (h q).held, fun m hm => (g q).fwd m ((h q).fwd m hm)⟩

theorem State.emits_each {α : Type} {g : State → α → State} (hg : ∀ u a, State.emits u (g u a)) (l : List α) (s : State) : s.emits (s.each l g) :=
  State.each_keeps (P := s.emits) (fun u a h => State.emits_trans h (hg u a)) l s (State.emits_of_ports rfl)

theorem State.emits_modPort (s : State) (k : Nat) (g : EPort → EPort) (hg : ∀ e : EPort, e.grown (g e)) : s.emits (s.modPort k g) := fun q => by
  rw [State.modPort_eport]
  split
  · next h =>
    subst h
    exact hg _
  · exact ⟨rfl, Nat.le_refl _, fun _ m => m⟩

theorem State.emits_forward (s : State) (k a b : Nat) (h x y : W64) : s.emits (s.forward k a b h x y) := by
  unfold State.forward
  exact State.emits_modPort s k _ fun e => ⟨rfl, Nat.le_refl _, fun m hm => List.mem_append_left _ hm⟩

theorem State.emits_sendCbuf (s : State) (n i k : Nat) : s.emits (s.sendCbuf n i k) := by
  unfold State.sendCbuf
  split
  · exact State.emits_of_ports rfl
  · refine State.emits_trans ?_ (State.emits_each (fun u w => State.emits_forward u _ _ _ _ _ _) _ _)
    exact State.emits_of_ports rfl

theorem State.emits_runNext (s : State) (n : Nat) : s.emits (s.runNext n) := by
  unfold State.runNext
  split
  · exact State.emits_of_ports rfl
  · split
    · exact State.emits_of_ports rfl
    · next i hi =>
      exact State.emits_trans (t := s.modDisp n i fun d => { d with running := true }) (State.emits_of_ports rfl)
        (State.emits_each (fun u (l : LPort) => State.emits_sendCbuf u n i l.port) _ _)

theorem State.ports_freeSlot (s : State) (r slot : Nat) : (s.freeSlot r slot).ports = s.ports := by
  unfold State.freeSlot
  exact State.only_dropX _ _ .ports (by decide)

theorem State.emits_endStop (n : Nat) (s : State) (d : Disp) : s.emits (State.endStop n s d) := by
  unfold State.endStop
  have back : s.emits ((s.modMtu d.mtu (· - 1)).each d.lps fun u l => u.modPort l.port fun e => { e with held := e.held - (l.offered - l.accepted) }) :=
    State.emits_trans (t := s.modMtu d.mtu (· - 1)) (State.emits_of_ports rfl)
      (State.emits_each (fun u (l : LPort) => State.emits_modPort u l.port (fun e => { e with held := e.held - (l.offered - l.accepted) }) fun e =>
        ⟨rfl, Nat.sub_le _ _, fun _ m => m⟩) _ _)
  generalize ((s.modMtu d.mtu (· - 1)).each d.lps fun u l => u.modPort l.port fun e => { e with held := e.held - (l.offered - l.accepted) }) = a at *
  dsimp only
  split
  · split
    · exact State.emits_trans back (State.emits_of_ports (State.ports_freeSlot a _ _))
    · exact State.emits_trans back (State.emits_of_ports (State.only_tick a _ _ .ports (by decide)))
  · exact back

theorem State.emits_settleStops (s : State) (n : Nat) : s.emits (s.settleStops n) := by
  unfold State.settleStops
  dsimp only
  split
  · exact State.emits_of_ports rfl
  · refine State.emits_trans (State.emits_trans ?_ (State.emits_each (State.emits_endStop n) _ _)) (State.emits_runNext _ n)
    exact State.emits_of_ports rfl

/-! ### RESET (07 R208) -/

/-- What a reset port is like: known by a new EGEN, without credits; CLEAR and IDENT_REQ have been sent where it is not inert. -/
structure EPort.resetOf (inert : Bool) (e e' : EPort) : Prop where
  egen : e'.egen = (e.egen + 1) % 65536
  held : e'.held = 0
  identified : e'.identified = false
  enable : e'.enable = e.enable
  live : inert = false → e'.clearing = true ∧ e'.asked = true ∧ e'.fwd.any (fun m => m.kind == 3 && m.egen == (e.egen + 1) % 65536) = true
  dead : inert = true → e'.clearing = e.clearing ∧ e'.asked = false

theorem State.resetOf_resetPort (s : State) (k : Nat) (hr : (s.eport k).retired = false) :
    (s.eport k).resetOf (s.inertPort k) ((s.resetPort k).eport k) := by
  rw [State.resetPort_eport, if_neg (not_not_intro rfl)]
  split
  · next h => exact ⟨rfl, rfl, rfl, rfl, fun e => absurd (h.symm.trans e) (by decide), fun _ => ⟨rfl, rfl⟩⟩
  · next h =>
    rw [if_neg (ne_true_of_eq_false hr)]
    refine ⟨rfl, rfl, rfl, rfl, fun _ => ⟨rfl, rfl, ?_⟩, fun e => absurd e h⟩
    simp [EPort.asking, EPort.cleared, EPort.lost, bareMsg]

/-- A port that has been reset stays so while messages and credits come. -/
theorem EPort.resetOf_grown {i : Bool} {e e' e'' : EPort} (h : e.resetOf i e') (g : e'.grown e'') : e.resetOf i e'' := by
  have egen := congrArg EPort.egen g.same
  have identified := congrArg EPort.identified g.same
  have enable := congrArg EPort.enable g.same
  have clearing := congrArg EPort.clearing g.same
  have asked := congrArg EPort.asked g.same
  refine ⟨egen.trans h.egen, Nat.le_zero.mp (h.held ▸ g.held), identified.trans h.identified, enable.trans h.enable, fun hi => ?_, fun hi => ?_⟩
  · obtain ⟨c, a, m⟩ := h.live hi
    obtain ⟨x, hx, hm⟩ := List.any_eq_true.mp m
    exact ⟨clearing.trans c, asked.trans a, List.any_eq_true.mpr ⟨x, g.fwd x hx, hm⟩⟩
  · obtain ⟨c, a⟩ := h.dead hi
    exact ⟨clearing.trans c, asked.trans a⟩

/-- What a reset is judged by of the port before it. -/
theorem EPort.resetOf_of {i : Bool} {e f e' : EPort} (h : f.resetOf i e') (g : f.unended = e.unended) : e.resetOf i e' := by
  have egen := congrArg EPort.egen g
  have enable := congrArg EPort.enable g
  have clearing := congrArg EPort.clearing g
  have egen : f.egen = e.egen := egen
  refine ⟨egen ▸ h.egen, h.held, h.identified, h.enable.trans enable, fun hi => egen ▸ h.live hi, fun hi => ?_⟩
  obtain ⟨c, a⟩ := h.dead hi
  exact ⟨c.trans clearing, a⟩

theorem State.inertPort_of {s t : State} {k : Nat} (hl : t.latch = s.latch) (he : (t.eport k).enable = (s.eport k).enable) :
    t.inertPort k = s.inertPort k := by
  unfold State.inertPort
  rw [hl, he]

/-- RESET of a port that is not retired, whatever dispatches use it. -/
theorem State.eportReset_spec (s : State) (k : Nat) (hr : (s.eport k).retired = false) :
    (s.eport k).resetOf (s.inertPort k) ((s.eportReset k).eport k) := by
  unfold State.eportReset
  rw [if_neg (ne_true_of_eq_false hr)]
  split
  · next n hn =>
    have culls := State.culls_foldl State.culls_killRerun (s.dispTasks n fun d => d.running && (d.lport k).isSome) s
    generalize (s.dispTasks n fun d => d.running && (d.lport k).isSome).foldl State.killRerun s = a at *
    have same := State.eport_unended culls.kept k
    have enable := congrArg EPort.enable same
    have retired := congrArg EPort.retired same
    have reset := State.resetOf_resetPort a k (Eq.trans retired hr)
    rw [State.inertPort_of (s := s) (culls.only .latch (by decide)) enable] at reset
    exact EPort.resetOf_grown (EPort.resetOf_of reset same) (State.emits_settleStops (a.resetPort k) n k)
  · exact State.resetOf_resetPort s k hr

/-- RESET of a port whose partition has no dispatch is the reset of the port alone. -/
theorem State.eportReset_idle (s : State) (k : Nat) (hr : (s.eport k).retired = false)
    (h : ∀ n, s.portPart k = some n → (s.part n).seqr = []) : s.eportReset k = s.resetPort k := by
  unfold State.eportReset
  rw [if_neg (ne_true_of_eq_false hr)]
  split
  · next n hn =>
    have none : s.dispTasks n (fun d => d.running && (d.lport k).isSome) = [] := by
      unfold State.dispTasks
      rw [h n hn]
      rfl
    have after : ((s.resetPort k).part n).seqr = [] := List.eq_nil_of_length_eq_zero (((State.porting_resetPort s k).seqr n).trans (by rw [h n hn]; rfl))
    rw [none]
    show (s.resetPort k).settleStops n = _
    unfold State.settleStops
    dsimp only
    rw [after]
    rfl
  · rfl

theorem State.porting_eportReset_idle (s : State) (k : Nat) (hr : (s.eport k).retired = false)
    (h : ∀ n, s.portPart k = some n → (s.part n).seqr = []) : s.porting (s.eportReset k) := by
  rw [State.eportReset_idle s k hr h]
  exact State.porting_resetPort s k

/-- RESET with a write of ENABLE, through the Operator PF. -/
theorem State.eportResetWrite_spec (s : State) (p k : Nat) (v : W64) (hl : (s.func (pfKey p)).linkUp = true) (ho : s.boot.operator = some p)
    (hk : k < 64) (hv : bit v 1 = true) (hr : (s.eport k).retired = false) : ∃ t, exec (.eportReset p k v) s = .next t ∧
      ((s.eport k).told (s.portPgen k) s.latch.engines (bit v 0)).resetOf (!(s.latch.engines && bit v 0)) (t.eport k) ∧
      ((∀ n, s.portPart k = some n → (s.part n).seqr = []) → (∀ q, q ≠ k → t.eport q = s.eport q) ∧ s.only t [.ports, .parts] ∧
        (s.latch.engines = false ∨ bit v 0 = false → (t.eport k).fwd = (s.eport k).fwd)) := by
  obtain ⟨port, -, -, porting⟩ := State.eportTold_spec s k (bit v 0)
  have run : exec (.eportReset p k v) s = done s
      (((s.eportEnabled k (bit v 0)).eportTold k (s.eport k).enable (bit v 0)).eportReset k) := by
    rw [(State.exec_eportEnable s p k v hl ho hk).2, State.eportSet_all, if_pos hv]
  rw [run]
  generalize (s.eportEnabled k (bit v 0)).eportTold k (s.eport k).enable (bit v 0) = a at *
  have self := port k
  rw [if_pos rfl] at self
  obtain ⟨enable, fwd, -, -, retired, -⟩ := EPort.told_fields (s.eport k) (s.portPgen k) s.latch.engines (bit v 0)
  have live : (a.eport k).retired = false := by rw [self, retired, hr]
  have inert : a.inertPort k = !(s.latch.engines && bit v 0) := by
    unfold State.inertPort
    rw [self, enable, porting.only .latch (by decide)]
  have reset := State.eportReset_spec a k live
  rw [self, inert] at reset
  obtain ⟨t, ht, -, -, same, -⟩ := done_spec s (a.eportReset k)
  have ports : ∀ q, t.eport q = (a.eportReset k).eport q := State.eport_of (same .ports (by decide))
  refine ⟨t, ht, by rw [ports]; exact reset, fun idle => ?_⟩
  have none : ∀ n, a.portPart k = some n → (a.part n).seqr = [] := fun n hn => by
    rw [porting.portPart] at hn
    exact List.eq_nil_of_length_eq_zero ((porting.seqr n).trans (by rw [idle n hn]; rfl))
  have whole := State.porting_trans porting (State.porting_eportReset_idle a k live none)
  have at' : t = a.eportReset k := Host.Outcome.next.inj (ht.symm.trans whole.done)
  have alone := State.eportReset_idle a k live none
  refine ⟨fun q hq => ?_, at' ▸ whole.only.sub, fun hi => ?_⟩
  · rw [ports, alone, State.resetPort_eport, if_pos hq, port, if_neg hq]
  · have still : a.inertPort k = true := by
      rw [inert]
      rcases hi with e | e <;> simp [e]
    rw [ports, alone, State.resetPort_eport, if_neg (not_not_intro rfl), if_pos still]
    show (a.eport k).fwd = _
    rw [self, fwd]
    rcases hi with e | e <;> simp [e]

/-! ### Late return messages (07 R199) -/

theorem State.matchRet_arrived (s : State) (k : Nat) (msg : W128) (g : Tag) : (s.arrived k msg).matchRet k g = s.matchRet k g := by
  have parts : (s.arrived k msg).parts = s.parts := State.only_arrived s k msg .parts (by decide)
  have part : ∀ n, (s.arrived k msg).part n = s.part n := State.part_of parts
  have egen : ((s.arrived k msg).eport k).egen = (s.eport k).egen := by
    rw [State.eport_arrived, if_pos rfl]
  unfold State.matchRet State.dispIdx
  rw [State.portPart_of parts, egen]
  simp only [part]

/-- A return message that no live dispatch of the port expects, or of a retired port, is late. -/
theorem State.onReturn_late (s : State) (k : Nat) (g : Tag) (msg : W128) (f : State → Nat → Nat → Disp → LPort → Option State)
    (h : (s.eport k).retired = true ∨ s.matchRet k g = none) : ∃ t, done s (s.onReturn k g msg f) = .next t ∧
      (t.eport k).late = satAdd 0xFFFF (s.eport k).late 1 ∧ (t.eport k).held = (s.eport k).held ∧ (∀ q, q ≠ k → t.eport q = s.eport q) ∧
      (∀ q, q ≠ ckey 1 k → t.chan q = s.chan q) ∧ s.only t [.ports, .chans, .cnt] ∧ ((s.eport k).retired = false → t.chans = s.chans) := by
  unfold State.onReturn
  split
  · next hr =>
    obtain ⟨port, chan, only⟩ := State.latePort_retired s k hr
    refine ⟨_, done_of_only only (by rw [only .boot (by decide)]), ?_, ?_, fun q hq => ?_, chan, only, fun e => absurd hr (ne_true_of_eq_false e)⟩
    · rw [port, if_pos rfl]
    · rw [port, if_pos rfl]
    · rw [port, if_neg hq]
  · next hr =>
    have live : (s.eport k).retired = false := eq_false_of_ne_true hr
    have arrived := State.only_arrived s k msg
    have port := State.eport_arrived s k msg
    have late : (match (s.arrived k msg).matchRet k g with
        | none => (s.arrived k msg).latePort k
        | some (n, i, d, l) => (f (s.arrived k msg) n i d l).getD ((s.arrived k msg).latePort k)) = (s.arrived k msg).latePort k := by
      rw [State.matchRet_arrived, h.resolve_left hr]
    have run : ∀ t, done s ((s.arrived k msg).latePort k) = .next t → done s (match (s.arrived k msg).matchRet k g with
        | none => (s.arrived k msg).latePort k
        | some (n, i, d, l) => (f (s.arrived k msg) n i d l).getD ((s.arrived k msg).latePort k)) = .next t := fun t ht => by rw [late, ht]
    obtain ⟨lates, only⟩ := State.latePort_live (s.arrived k msg) k (by rw [port, if_pos rfl]; exact live)
    have all : s.only ((s.arrived k msg).latePort k) [.ports, .cnt] := State.only_trans arrived only
    refine ⟨_, run _ (done_of_only all (by rw [all .boot (by decide)])), ?_, ?_, fun q hq => ?_, fun q _ => State.chan_of (all .chans (by decide)) q,
      all.sub, fun _ => all .chans (by decide)⟩
    · rw [lates, port, if_pos rfl, if_pos rfl]
    · rw [lates, port, if_pos rfl, if_pos rfl]
    · rw [lates, port, port, if_neg hq, if_neg hq]

/-- Settles O31: each message about a port, each write of EPORT_CTRL, and the return messages that no dispatch expects. -/
theorem portMessagesAndControl : Obligations.PortMessagesAndControl := by
  intro k g s
  refine ⟨fun hr hg hp => ⟨State.clearDone_spec s k g hr hg hp, fun he ha units v => State.ident_spec s k g units v hr hg hp he ha⟩,
    fun hr ha units v => State.ident_late s k g units v hr ha, State.forwardLatch_spec s k, fun p v hl ho hk => ⟨fun hv => ?_, fun hv hr => ?_⟩,
    fun h unit index v c hc => ?_⟩
  · obtain ⟨t, ht, port, steps, same, only⟩ := State.eportEnable_spec s p k v hl ho hk hv
    obtain ⟨enable, fwd, asked, -, -, -⟩ := EPort.told_fields (s.eport k) (s.portPgen k) s.latch.engines (bit v 0)
    have self := port k
    rw [if_pos rfl] at self
    refine ⟨t, ht, (congrArg EPort.enable self).trans enable, (congrArg EPort.fwd self).trans fwd, (congrArg EPort.asked self).trans asked,
      fun q hq => ?_, steps, same, only⟩
    rw [port, if_neg hq]
  · obtain ⟨t, ht, reset, idle⟩ := State.eportResetWrite_spec s p k v hl ho hk hv hr
    obtain ⟨enable, -, -, egen, -, clearing⟩ := EPort.told_fields (s.eport k) (s.portPgen k) s.latch.engines (bit v 0)
    have was := reset.egen
    rw [egen] at was
    refine ⟨t, ht, was, reset.held, reset.identified, reset.enable.trans enable, fun he hv0 => ?_, fun hi => ?_, idle⟩
    · have live := reset.live (by simp [he, hv0])
      rwa [egen] at live
    · have dead := reset.dead (by rcases hi with e | e <;> simp [e])
      rwa [clearing] at dead
  · simp only [List.mem_cons, List.not_mem_nil, or_false] at hc
    rcases hc with rfl | rfl | rfl | rfl | rfl <;> exact State.onReturn_late s k g _ _ h

end Sys2Proof.Machine
end


section
/-! SUBMISSION_RETIRE (03 R87, R90 to R92). -/

namespace Sys2Proof.Machine

set_option Elab.async false

/-! ### Writes to a host (11 R317, R321) -/

/-- Where an address leads depends on the translations and the windows alone. -/
theorem State.reach_of {s t : State} (hx : t.xl = s.xl) (ho : t.objs = s.objs) (sp : Space) (a : Nat) : t.reach sp a = s.reach sp a := by
  unfold State.reach State.findX State.decodeAddr
  rw [hx, ho]

/-- One page of a write to a host. -/
def State.writePage (sp : Space) (a : Nat) (data : List (Option Byte)) (s : State) (c : Nat × Nat) : State := match s.reach sp c.1 with
  | some l => (s.sendWrite sp ((data.drop (c.1 - a)).take c.2) l).writeRange l ((data.drop (c.1 - a)).take c.2)
  | none => s

theorem State.hostWriteP_eq (s : State) (sp : Space) (a : Nat) (data : List (Option Byte)) :
    s.hostWriteP sp a data = s.each (pageChunks a data.length) (State.writePage sp a data) := rfl

theorem State.only_writePage (s : State) (sp : Space) (a : Nat) (data : List (Option Byte)) (c : Nat × Nat) :
    s.only (s.writePage sp a data c) [.out, .cnt, .sto] := by
  unfold State.writePage
  split
  · exact State.only_after (State.only_writeRange _ _ _).sub (State.only_sendWrite s _ _ _).sub
  · exact State.only_refl s _

/-- A message that is sent with a write is no interrupt. -/
def Out.isMsix : Out → Bool
  | .msix _ _ => true
  | _ => false

/-- From `s` to `t` messages have been sent, and no interrupt among them. -/
def State.hushed (s t : State) : Prop := ∃ l : List Out, t.out = l ++ s.out ∧ ∀ o ∈ l, o.isMsix = false

theorem State.hushed_of_out {s t : State} (h : t.out = s.out) : s.hushed t := ⟨[], h, fun _ m => absurd m (by simp)⟩

theorem State.hushed_trans {s t u : State} (h : s.hushed t) (g : t.hushed u) : s.hushed u := by
  obtain ⟨l, hl, hm⟩ := h
  obtain ⟨l', hl', hm'⟩ := g
  refine ⟨l' ++ l, by rw [hl', hl, List.append_assoc], fun o ho => ?_⟩
  exact (List.mem_append.mp ho).elim (hm' o) (hm o)

theorem State.hushed_msix {s t : State} (h : s.hushed t) (g v : Nat) (hm : .msix g v ∈ t.out) : .msix g v ∈ s.out := by
  obtain ⟨l, hl, hn⟩ := h
  rw [hl] at hm
  exact (List.mem_append.mp hm).resolve_left fun e => absurd (hn _ e) (by simp [Out.isMsix])

theorem State.hushed_mem {s t : State} (h : s.hushed t) {o : Out} (ho : o ∈ s.out) : o ∈ t.out := by
  obtain ⟨l, hl, -⟩ := h
  rw [hl]
  exact List.mem_append_right _ ho

theorem State.hushed_sendWrite (s : State) (sp : Space) (data : List (Option Byte)) (l : Loc) : s.hushed (s.sendWrite sp data l) := by
  cases l with
  | host p x => exact ⟨[.hostWrite p sp.fk sp.pasid x data], rfl, fun o ho => by rw [List.mem_singleton.mp ho]; rfl⟩
  | peer q dev x => exact ⟨[.deviceWrite (dev % 8) dev x data], rfl, fun o ho => by rw [List.mem_singleton.mp ho]; rfl⟩
  | ws x => exact State.hushed_of_out rfl
  | pkg x => exact State.hushed_of_out rfl
  | refused => exact State.hushed_of_out rfl

theorem State.hushed_writePage (s : State) (sp : Space) (a : Nat) (data : List (Option Byte)) (c : Nat × Nat) : s.hushed (s.writePage sp a data c) := by
  unfold State.writePage
  split
  · exact State.hushed_trans (State.hushed_sendWrite s _ _ _) (State.hushed_of_out (State.only_writeRange _ _ _ .out (by decide)))
  · exact State.hushed_of_out rfl

theorem State.hushed_hostWrite (s : State) (sp : Space) (a : Nat) (data : List Byte) : s.hushed (s.hostWrite sp a data) :=
  State.each_keeps (P := s.hushed) (fun u c h => State.hushed_trans h (State.hushed_writePage u sp a _ c)) _ s (State.hushed_of_out rfl)

/-- The message of a page that leads to a host's memory. -/
theorem State.mem_writePage (s : State) (sp : Space) (a : Nat) (data : List (Option Byte)) (c : Nat × Nat) (p x : Nat)
    (h : s.reach sp c.1 = some (.host p x)) :
    .hostWrite p sp.fk sp.pasid x ((data.drop (c.1 - a)).take c.2) ∈ (s.writePage sp a data c).out := by
  unfold State.writePage
  rw [h]
  dsimp only
  rw [State.only_writeRange _ _ _ .out (by decide)]
  exact List.mem_cons_self

/-- A write to a host sends the message of each page that leads to its memory. -/
theorem State.wroteHost_hostWrite (s : State) (sp : Space) (a : Nat) (data : List Byte) : s.wroteHost (s.hostWrite sp a data) sp a data := by
  intro c hc p x hr
  have hc' : c ∈ pageChunks a (data.map some).length := by rwa [List.length_map]
  refine State.each_ends (I := fun u => u.reach sp c.1 = some (.host p x))
    (P := fun u => .hostWrite p sp.fk sp.pasid x (((data.map some).drop (c.1 - a)).take c.2) ∈ u.out) hc' (fun u b h => ?_)
    (fun u h => State.mem_writePage u sp a _ c p x h) (fun u b h => State.hushed_mem (State.hushed_writePage u sp a _ b) h) s hr
  have only := State.only_writePage u sp a (data.map some) b
  rw [State.reach_of (only .xl (by decide)) (only .objs (by decide))]
  exact h

theorem State.wroteHost_later {w s t : State} {sp : Space} {a : Nat} {data : List Byte} (h : w.wroteHost s sp a data)
    (ht : ∀ o ∈ s.out, o ∈ t.out) : w.wroteHost t sp a data := fun c hc p x hr => ht _ (h c hc p x hr)

/-- A page that is reached changes the users of translations alone. -/
theorem State.only_tryPage_ok {s t : State} {w : Who} {sp : Space} {g : Nat} {b : Bool} {e : XEnt} (h : s.tryPage w sp g b = (t, .ok e)) :
    s.only t [.xl] := by
  have waits : ∀ u : State, (u, Acc.wait) ≠ (t, .ok e) := fun u h => nomatch congrArg Prod.snd h
  have fails : ∀ u : State, (u, Acc.fail) ≠ (t, .ok e) := fun u h => nomatch congrArg Prod.snd h
  unfold State.tryPage at h
  by_cases hf : s.xl.fails.contains (w, .xlate sp g) = true
  · rw [if_pos hf] at h
    exact absurd h (fails _)
  · rw [if_neg hf] at h
    by_cases ha : (!(s.func sp.fk).atsEn) = true
    · rw [if_pos ha] at h
      exact absurd h (fails _)
    · rw [if_neg ha] at h
      cases hx : s.findX sp g with
      | none =>
        rw [hx] at h
        dsimp only at h
        split at h
        · exact absurd h (waits _)
        · exact absurd h (waits _)
      | some x =>
        rw [hx] at h
        dsimp only at h
        by_cases hr : (if b = true then x.w else x.r) = true
        · rw [if_pos hr] at h
          rw [← (Prod.mk.inj h).1]
          exact State.only_useX s w sp g
        · rw [if_neg hr] at h
          split at h
          · exact absurd h (fails _)
          · exact absurd h (waits _)

/-- Pages that are reached change the users of translations alone. -/
theorem State.only_tryPages_ok (w : Who) (sp : Space) (b : Bool) (n : Nat) : ∀ (s : State) (g : Nat) {u : State} {e : XEnt},
    s.tryPages w sp b g n = (u, .ok e) → s.only u [.xl] := by
  induction n with
  | zero =>
    intro s g u e h
    rw [← (Prod.mk.inj h).1]
    exact State.only_refl s _
  | succ n ih =>
    intro s g u e h
    unfold State.tryPages at h
    split at h
    · next t e' ht => exact State.only_trans (State.only_tryPage_ok ht) (ih t (g + 1) h)
    · next hn => exact absurd h (hn u e)

theorem State.only_tryRange_ok {s u : State} {w : Who} {sp : Space} {a n : Nat} {b : Bool} {e : XEnt} (h : s.tryRange w sp a n b = (u, .ok e)) :
    s.only u [.xl] := State.only_tryPages_ok w sp b _ s _ h

/-! ### The interrupt of a retirement (03 R92) -/

/-- The vector of queue `qk`, whose registers are `x`, is signalled from `s` to `t` where `asked` says so and IRQ_EN is 1. -/
def State.signalled (qk : Nat) (x : Queue) (s t : State) (asked : Bool) : Prop :=
  (asked = true → bit x.cfg 0 = true → x.flr = false →
    if s.latch.irq = true ∧ (Tab.get {} (s.func (qk / 64)).msix (fld x.cfg 13 8)).masked = false
    then t.out.head? = some (.msix (qk / 64) (fld x.cfg 13 8))
    else (t.func (qk / 64)).pend = setBit (s.func (qk / 64)).pend (fld x.cfg 13 8)) ∧
  (asked = false ∨ bit x.cfg 0 = false → (t.func (qk / 64)).pend = (s.func (qk / 64)).pend ∧ ∀ g v, .msix g v ∈ t.out → .msix g v ∈ s.out)

/-- A state in which nothing has been signalled yet: the registers that decide are as they were. -/
structure State.unsignalled (qk : Nat) (s v : State) : Prop where
  irq : v.latch = s.latch
  msix : (v.func (qk / 64)).msix = (s.func (qk / 64)).msix
  pend : (v.func (qk / 64)).pend = (s.func (qk / 64)).pend
  cfg : (v.queue qk).cfg = (s.queue qk).cfg
  flr : (v.queue qk).flr = (s.queue qk).flr
  hushed : s.hushed v

/-- The signal that a queue's configuration, or its submission, asks for. -/
def State.signalIf (s : State) (asked : Bool) (qk : Nat) : State := if asked then s.signalQueue qk else s

theorem State.signalled_signalIf {qk : Nat} {s v : State} (h : State.unsignalled qk s v) (asked : Bool) :
    State.signalled qk (s.queue qk) s (v.signalIf asked qk) asked := by
  have still : (v.func (qk / 64)).pend = (s.func (qk / 64)).pend ∧ ∀ g x, .msix g x ∈ v.out → .msix g x ∈ s.out :=
    ⟨h.pend, fun g x => State.hushed_msix h.hushed g x⟩
  unfold State.signalIf
  cases asked with
  | false => exact ⟨fun e => (nomatch e), fun _ => still⟩
  | true =>
    rw [if_pos rfl]
    unfold State.signalQueue
    dsimp only
    rw [h.cfg, h.flr]
    by_cases he : (bit (s.queue qk).cfg 0 && !(s.queue qk).flr) = true
    · rw [if_pos he]
      have en : bit (s.queue qk).cfg 0 = true := (Bool.and_eq_true_iff.mp he).1
      refine ⟨fun _ _ _ => ?_, fun e => e.elim (fun e => nomatch e) fun e => absurd en (ne_true_of_eq_false e)⟩
      have spec := State.signalVec_spec v (qk / 64) (fld (s.queue qk).cfg 13 8)
      rw [h.irq, h.msix, h.pend] at spec
      split
      · next hc =>
        rw [if_pos hc] at spec
        rw [spec.1]
        rfl
      · next hc =>
        rw [if_neg hc] at spec
        exact spec.1
    · rw [if_neg he]
      exact ⟨fun _ en nf => absurd (by simp [en, nf]) he, fun _ => still⟩

theorem State.mem_signalIf (s : State) (asked : Bool) (qk : Nat) {o : Out} (h : o ∈ s.out) : o ∈ (s.signalIf asked qk).out := by
  unfold State.signalIf State.signalQueue State.signalVec
  split
  · dsimp only
    split
    · split
      · exact List.mem_cons_of_mem _ h
      · exact h
    · exact h
  · exact h

theorem State.only_signalIf (s : State) (asked : Bool) (qk : Nat) : s.only (s.signalIf asked qk) [.funcs, .out] :=
  State.only_ite _ (State.only_signalQueue s qk) (State.only_refl s _)

/-! ### The retirement -/

/-- A queue whose oldest host submission has retired, before its credits return. -/
def Queue.retired (q : Queue) (n : Nat) : Queue :=
  Queue.give n { q with subs := q.subs.tail, due := q.due.tail, milestone := (q.milestone + 1) % 2 ^ 64 }

/-- A queue whose oldest ENQUEUED record has been dealt with. -/
def Queue.dealt (n : Nat) (q : Queue) : Queue := Queue.give n { q with due := q.due.tail }

theorem State.retireSub_eq (s : State) (qk : Nat) (x : Sub) : s.retireSub qk x =
    (((s.modQueue qk fun q => q.retired x.slots).vfTick (qk / 64) 1 1).signalIf
      (x.irq || bit (((s.modQueue qk fun q => q.retired x.slots).vfTick (qk / 64) 1 1).queue qk).cfg 1) qk) := rfl

theorem State.retireEnq_eq (s : State) (qk : Nat) (credit : Bool) : s.retireEnq qk credit =
    ((s.modQueue qk (Queue.dealt (b2n credit))).signalIf (bit ((s.modQueue qk (Queue.dealt (b2n credit))).queue qk).cfg 1) qk) := rfl

theorem State.vfTick_func (s : State) (fk i n f : Nat) : ((s.vfTick fk i n).func f).msix = (s.func f).msix ∧ ((s.vfTick fk i n).func f).pend = (s.func f).pend := by
  unfold State.vfTick
  split
  · rw [State.modFunc_func]
    split
    · next h =>
      subst h
      exact ⟨rfl, rfl⟩
    · exact ⟨rfl, rfl⟩
  · exact ⟨rfl, rfl⟩

theorem State.unsignalled_trans {qk : Nat} {s t u : State} (h : State.unsignalled qk s t) (g : State.unsignalled qk t u) : State.unsignalled qk s u :=
  ⟨g.irq.trans h.irq, g.msix.trans h.msix, g.pend.trans h.pend, g.cfg.trans h.cfg, g.flr.trans h.flr, State.hushed_trans h.hushed g.hushed⟩

theorem State.unsignalled_modQueue (s : State) (qk : Nat) (g : Queue → Queue) (hc : (g (s.queue qk)).cfg = (s.queue qk).cfg := by rfl)
    (hf : (g (s.queue qk)).flr = (s.queue qk).flr := by rfl) : State.unsignalled qk s (s.modQueue qk g) :=
  ⟨rfl, rfl, rfl, (congrArg Queue.cfg (State.modQueue_queue_self s qk g)).trans hc, (congrArg Queue.flr (State.modQueue_queue_self s qk g)).trans hf,
    State.hushed_of_out rfl⟩

theorem State.unsignalled_of {qk : Nat} {s t : State} (hl : t.latch = s.latch) (hf : t.funcs = s.funcs) (hq : t.queues = s.queues) (hh : s.hushed t) :
    State.unsignalled qk s t :=
  ⟨hl, by rw [State.func_of hf], by rw [State.func_of hf], by rw [State.queue_of hq], by rw [State.queue_of hq], hh⟩

theorem State.unsignalled_vfTick (s : State) (qk fk i n : Nat) : State.unsignalled qk s (s.vfTick fk i n) := by
  have only := State.only_vfTick s fk i n
  obtain ⟨msix, pend⟩ := State.vfTick_func s fk i n (qk / 64)
  exact ⟨only .latch (by decide), msix, pend, by rw [State.queue_of (only .queues (by decide))], by rw [State.queue_of (only .queues (by decide))],
    State.hushed_of_out (only .out (by decide))⟩

/-- What the retirement of a submission, or the end of an ENQUEUED record, leaves of the state `v` before it. -/
structure State.retires (qk : Nat) (g : Queue → Queue) (asked : Bool) (s v t : State) : Prop where
  self : t.queue qk = g (v.queue qk)
  others : ∀ k, k ≠ qk → t.queue k = v.queue k
  signalled : State.signalled qk (s.queue qk) s t asked
  sent : ∀ o ∈ v.out, o ∈ t.out
  only : v.only t [.queues, .funcs, .out]

theorem State.retires_of {qk : Nat} {g : Queue → Queue} {asked : Bool} {s v w : State} (before : State.unsignalled qk s v)
    (step : State.unsignalled qk v w) (self : w.queue qk = g (v.queue qk)) (others : ∀ k, k ≠ qk → w.queue k = v.queue k)
    (only : v.only w [.queues, .funcs]) : State.retires qk g asked s v (w.signalIf asked qk) := by
  have sent := State.only_signalIf w asked qk
  have queues : ∀ k, (w.signalIf asked qk).queue k = w.queue k := State.queue_of (sent .queues (by decide))
  exact ⟨(queues qk).trans self, fun k hk => (queues k).trans (others k hk),
    State.signalled_signalIf (State.unsignalled_trans before step) asked,
    fun o ho => State.mem_signalIf w asked qk (State.hushed_mem step.hushed ho), State.only_after sent.sub only.sub⟩

theorem State.retires_retireSub {qk : Nat} {s v : State} (h : State.unsignalled qk s v) (x : Sub) :
    State.retires qk (fun q => q.retired x.slots) (x.irq || bit (s.queue qk).cfg 1) s v (v.retireSub qk x) := by
  have first := State.unsignalled_modQueue v qk fun q => q.retired x.slots
  have mod := State.only_modQueue v qk fun q => q.retired x.slots
  have self := State.modQueue_queue_self v qk fun q => q.retired x.slots
  have others := fun k (hk : k ≠ qk) => State.modQueue_queue_ne v qk (fun q => q.retired x.slots) hk
  rw [State.retireSub_eq]
  generalize (v.modQueue qk fun q => q.retired x.slots) = a at *
  have tick := State.only_vfTick a (qk / 64) 1 1
  have queues : ∀ k, (a.vfTick (qk / 64) 1 1).queue k = a.queue k := State.queue_of (tick .queues (by decide))
  have step := State.unsignalled_trans first (State.unsignalled_vfTick a qk (qk / 64) 1 1)
  rw [step.cfg, h.cfg]
  exact State.retires_of h step ((queues qk).trans self) (fun k hk => (queues k).trans (others k hk)) (State.only_after tick.sub mod.sub)

theorem State.retires_retireEnq {qk : Nat} {s v : State} (h : State.unsignalled qk s v) (credit : Bool) :
    State.retires qk (Queue.dealt (b2n credit)) (bit (s.queue qk).cfg 1) s v (v.retireEnq qk credit) := by
  have step := State.unsignalled_modQueue v qk (Queue.dealt (b2n credit))
  rw [State.retireEnq_eq, step.cfg, h.cfg]
  exact State.retires_of h step (State.modQueue_queue_self v qk _) (fun k hk => State.modQueue_queue_ne v qk _ hk) (State.only_modQueue v qk _).sub

/-- Where the completion record at a queue's completion index stands (03 R90). -/
def Queue.recordAt (x : Queue) : Nat := (x.cplBase &&& ones 63 5).toNat + 32 * (x.c % x.cplRing)

/-- A queue whose completion index has moved on. -/
def Queue.written (x : Queue) : Queue := { x with c := (x.c + 1) % 2 ^ 24 }

/-- The record of queue `qk` may be written: the ring is not full and the page is reached, in the state `u` (03 R90, R91). -/
def State.writable (qk : Nat) (s u : State) (e : XEnt) : Prop := (s.queue qk).cplFull = false ∧
  s.tryRange (.record qk) (s.queueSpace qk) (s.queue qk).recordAt 32 true = (u, .ok e) ∧ u.ctxBad (s.queueSpace qk) (s.queue qk).recordAt 32 = false

/-- The state once the record's bytes stand in the completion ring. -/
def State.recordWritten (qk : Nat) (s u : State) (b : List Byte) : State :=
  (u.hostWrite (s.queueSpace qk) (s.queue qk).recordAt b).modQueue qk Queue.written

theorem State.queueSpace_of {s u : State} (hf : u.funcs = s.funcs) (hq : u.queues = s.queues) (qk : Nat) : u.queueSpace qk = s.queueSpace qk := by
  unfold State.queueSpace State.fport State.vfPort State.inRange State.vfBase State.vfCount State.func State.queue
  rw [hf, hq]

theorem State.writeRecord_ok {qk : Nat} {s u : State} {e : XEnt} (h : State.writable qk s u e) (b : List Byte) :
    s.writeRecord qk b = (State.recordWritten qk s u b, true) := by
  obtain ⟨full, reach, good⟩ := h
  have only := State.only_tryRange_ok reach
  have space := State.queueSpace_of (only .funcs (by decide)) (only .queues (by decide)) qk
  unfold State.writeRecord
  dsimp only
  rw [if_neg (ne_true_of_eq_false full)]
  unfold Queue.recordAt at reach good
  rw [reach]
  dsimp only
  rw [space, if_neg (ne_true_of_eq_false good)]
  rfl

/-- What the written record leaves: nothing has been signalled, the index has moved on, the bytes have been sent. -/
theorem State.recordWritten_spec {qk : Nat} {s u : State} {e : XEnt} (h : State.writable qk s u e) (b : List Byte) :
    State.unsignalled qk s (State.recordWritten qk s u b) ∧ s.only (State.recordWritten qk s u b) [.queues, .out, .sto, .xl, .cnt] ∧
      (State.recordWritten qk s u b).queue qk = (s.queue qk).written ∧
      (∀ k, k ≠ qk → (State.recordWritten qk s u b).queue k = s.queue k) ∧
      (State.recordWritten qk s u b).sto = (u.hostWrite (s.queueSpace qk) (s.queue qk).recordAt b).sto ∧
      u.wroteHost (State.recordWritten qk s u b) (s.queueSpace qk) (s.queue qk).recordAt b := by
  have reached := State.only_tryRange_ok h.2.1
  have wrote := State.only_hostWrite u (s.queueSpace qk) (s.queue qk).recordAt b
  have both : s.only (u.hostWrite (s.queueSpace qk) (s.queue qk).recordAt b) [.out, .sto, .xl, .cnt] := State.only_after wrote.sub reached.sub
  have hushed := State.hushed_trans (State.hushed_of_out (reached .out (by decide))) (State.hushed_hostWrite u (s.queueSpace qk) (s.queue qk).recordAt b)
  have before : State.unsignalled qk s (u.hostWrite (s.queueSpace qk) (s.queue qk).recordAt b) :=
    State.unsignalled_of (both .latch (by decide)) (both .funcs (by decide)) (both .queues (by decide)) hushed
  have queues : ∀ k, (u.hostWrite (s.queueSpace qk) (s.queue qk).recordAt b).queue k = s.queue k := State.queue_of (both .queues (by decide))
  have sent := State.wroteHost_hostWrite u (s.queueSpace qk) (s.queue qk).recordAt b
  unfold State.recordWritten
  generalize u.hostWrite (s.queueSpace qk) (s.queue qk).recordAt b = a at *
  refine ⟨State.unsignalled_trans before (State.unsignalled_modQueue a qk Queue.written), State.only_after (State.only_modQueue a qk _).sub both.sub, ?_,
    fun k hk => ?_, rfl, sent⟩
  · rw [State.modQueue_queue_self, queues]
  · rw [State.modQueue_queue_ne _ _ _ hk, queues]

/-- The record of a retirement is written, then its end is carried out: a command whose last step is `retires`. -/
theorem State.retired_spec {qk : Nat} {s u t : State} {e : XEnt} {g : Queue → Queue} {asked : Bool} {b : List Byte} (h : State.writable qk s u e)
    (r : State.retires qk g asked s (State.recordWritten qk s u b) t) : done s t = .next t ∧ t.queue qk = g (s.queue qk).written ∧
      (t.sto = (u.hostWrite (s.queueSpace qk) (s.queue qk).recordAt b).sto ∧ u.wroteHost t (s.queueSpace qk) (s.queue qk).recordAt b) ∧
      State.signalled qk (s.queue qk) s t asked ∧ (∀ k, k ≠ qk → t.queue k = s.queue k) ∧ s.only t [.queues, .funcs, .out, .sto, .xl, .cnt] := by
  obtain ⟨-, only, self, others, sto, sent⟩ := State.recordWritten_spec h b
  have all : s.only t [.queues, .funcs, .out, .sto, .xl, .cnt] := State.only_after r.only.sub only.sub
  exact ⟨done_of_only all (by rw [all .boot (by decide)]), r.self.trans (congrArg g self),
    ⟨(r.only .sto (by decide)).trans sto, State.wroteHost_later sent r.sent⟩, r.signalled, fun k hk => (r.others k hk).trans (others k hk), all⟩

theorem State.unsignalled_refl (qk : Nat) (s : State) : State.unsignalled qk s s := ⟨rfl, rfl, rfl, rfl, rfl, State.hushed_of_out rfl⟩

/-- The retirement of the oldest host submission of a queue. -/
theorem State.exec_retireHost (s : State) (f q : Nat) {sub : Sub} {rest : List Sub} {ds : List Due} {fin : Fin'}
    (hs : (s.queue (qkey f q)).subs = sub :: rest) (hd : (s.queue (qkey f q)).due = .host :: ds) (hf : sub.fin = some fin) :
    exec (.submissionRetire f q) s = done s (if fin.silent then s.retireSub (qkey f q) sub
      else
        let u := s.writeRecord (qkey f q) ((s.queue (qkey f q)).recordBytes sub.seq (if fin.noTask then 0 else sub.tid) fin.status
          (((s.queue (qkey f q)).milestone + 1) % 2 ^ 32) fin.summary fin.noTask false)
        if u.2 then u.1.retireSub (qkey f q) sub else u.1) := by
  refine congrArg (done s) ?_
  rw [hd, hs]
  dsimp only
  rw [hf]

theorem State.exec_retireEnq (s : State) (f q : Nat) {seq tid status : Nat} {summary : W64} {credit : Bool} {ds : List Due}
    (hd : (s.queue (qkey f q)).due = .enq seq tid status summary credit :: ds) : exec (.submissionRetire f q) s = done s (
      let u := s.writeRecord (qkey f q) ((s.queue (qkey f q)).recordBytes seq tid status ((s.queue (qkey f q)).milestone % 2 ^ 32) summary false true)
      if u.2 then u.1.retireEnq (qkey f q) credit else u.1) := by
  refine congrArg (done s) ?_
  rw [hd]

/-- Settles O44: the record is written (`recordWritten_spec`), then the submission retires or the ENQUEUED record is dealt with. -/
theorem submissionsRetire : Obligations.SubmissionsRetire := by
  intro f q e u s
  refine ⟨fun sub rest ds fin hs hd hf => ⟨fun silent => ?_, fun loud writable => ?_, fun loud full st => ?_⟩,
    fun seq tid status summary credit ds hd writable => ?_⟩
  · have r := State.retires_retireSub (State.unsignalled_refl (qkey f q) s) sub
    have run := State.exec_retireHost s f q hs hd hf
    rw [if_pos silent] at run
    refine ⟨_, run.trans (done_of_only r.only (by rw [r.only .boot (by decide)])), r.self.trans ?_, r.signalled, r.others, r.only⟩
    unfold Queue.retired Queue.give
    rw [hs, hd]
    rfl
  · have run := State.exec_retireHost s f q hs hd hf
    dsimp only at run
    rw [if_neg (ne_true_of_eq_false loud), State.writeRecord_ok writable, if_pos rfl] at run
    obtain ⟨ok, self, rest'⟩ := State.retired_spec writable (State.retires_retireSub (State.recordWritten_spec writable _).1 sub)
    refine ⟨_, run.trans ok, self.trans ?_, rest'⟩
    unfold Queue.retired Queue.give Queue.written
    rw [hs, hd]
    rfl
  · have held : ∀ b, s.writeRecord (qkey f q) b = (s, false) := fun b => by
      unfold State.writeRecord
      dsimp only
      rw [if_pos full, if_neg st]
    have run := State.exec_retireHost s f q hs hd hf
    dsimp only at run
    rw [if_neg (ne_true_of_eq_false loud), held, if_neg Bool.false_ne_true] at run
    exact run.trans (done_self s)
  · have run := State.exec_retireEnq s f q hd
    dsimp only at run
    rw [State.writeRecord_ok writable, if_pos rfl] at run
    obtain ⟨ok, self, rest'⟩ := State.retired_spec writable (State.retires_retireEnq (State.recordWritten_spec writable _).1 credit)
    refine ⟨_, run.trans ok, self.trans ?_, rest'⟩
    unfold Queue.dealt Queue.give Queue.written
    rw [hd]
    rfl

end Sys2Proof.Machine
end


section
/-! Ring-slot credits and descriptor fetch (03 R79 to R85; 08 R246, R247). -/

namespace Sys2Proof.Machine

set_option Elab.async false

/-! ### The MTU credit of a fetch (01 R19) -/

/-- From `s` to `h` the fetch of queue `qk` has drawn its MTU credit, unless it held one. -/
structure State.drew (qk : Nat) (s h : State) : Prop where
  only : s.only h [.queues, .mtus]
  self : ∃ m, h.queue qk = { s.queue qk with mtu := m }
  others : ∀ k, k ≠ qk → h.queue k = s.queue k
  held : (s.queue qk).mtu = none → ∃ m, (h.queue qk).mtu = some m ∧ h.mtuHeld m = s.mtuHeld m + 1 ∧ ∀ j, j ≠ m → h.mtuHeld j = s.mtuHeld j

theorem State.drew_drawFetch {s h : State} {qk : Nat} (e : s.drawFetch qk = some h) : State.drew qk s h := by
  unfold State.drawFetch at e
  split at e
  · next hm =>
    obtain rfl := Option.some.inj e
    exact ⟨State.only_refl s _, ⟨(s.queue qk).mtu, rfl⟩, fun _ _ => rfl, fun hn => absurd hm (by rw [hn]; simp)⟩
  · obtain ⟨m, -, rfl⟩ := Option.map_eq_some_iff.mp e
    have mtus := fun k => State.modMtu_mtuHeld s m (· + 1) k
    have mtu := State.only_modMtu s m (· + 1)
    have queues : ∀ k, (s.modMtu m (· + 1)).queue k = s.queue k := State.queue_of (mtu .queues (by decide))
    generalize s.modMtu m (· + 1) = a at *
    have held : ∀ k, (a.modQueue qk fun q => { q with mtu := some m }).mtuHeld k = a.mtuHeld k := fun k => rfl
    have self := State.modQueue_queue_self a qk fun q => { q with mtu := some m }
    refine ⟨State.only_after (State.only_modQueue a qk _).sub mtu.sub, ⟨some m, ?_⟩, fun k hk => ?_, fun _ => ⟨m, ?_, ?_, fun j hj => ?_⟩⟩
    · rw [self, queues]
    · rw [State.modQueue_queue_ne _ _ _ hk, queues]
    · rw [self]
    · rw [held, mtus, if_pos rfl]
    · rw [held, mtus, if_neg hj]

/-- The state `w` stands at the end of a fetch of queue `qk` that `s` began: its MTU credit has returned. -/
structure State.fetchedTo (qk : Nat) (s w : State) : Prop where
  only : s.only w [.queues, .mtus, .xl]
  self : w.queue qk = { s.queue qk with mtu := none }
  others : ∀ k, k ≠ qk → w.queue k = s.queue k
  held : (s.queue qk).mtu = none → ∀ m, w.mtuHeld m = s.mtuHeld m

theorem State.fetchedTo_endFetch {s h v : State} {qk : Nat} (d : State.drew qk s h) (hv : h.only v [.xl]) : State.fetchedTo qk s (v.endFetch qk) := by
  have queues : ∀ k, v.queue k = h.queue k := State.queue_of (hv .queues (by decide))
  have mtus : ∀ k, v.mtuHeld k = h.mtuHeld k := State.mtuHeld_of (hv .mtus (by decide))
  have ended := State.only_endFetch v qk
  obtain ⟨m, self⟩ := d.self
  refine ⟨State.only_after ended.sub (State.only_after hv.sub d.only.sub), ?_, fun k hk => ?_, fun hn j => ?_⟩
  · rw [State.queue_endFetch, if_pos rfl, queues, self]
  · rw [State.queue_endFetch, if_neg hk, queues, d.others k hk]
  · obtain ⟨m, hm, up, rest⟩ := d.held hn
    have at' : v.endFetch qk = (v.modMtu m (· - 1)).modQueue qk fun q => { q with mtu := none } := by
      unfold State.endFetch
      rw [queues, hm]
    have held : (v.endFetch qk).mtuHeld j = (v.modMtu m (· - 1)).mtuHeld j := by
      rw [at']
      rfl
    rw [held, State.modMtu_mtuHeld, mtus, mtus]
    split
    · next hj =>
      subst hj
      rw [up]
      exact Nat.add_sub_cancel _ _
    · next hj => exact rest j hj

/-! ### The submission that a fetch takes (03 R79 to R81) -/

/-- A queue that has taken a submission of `n` slots. -/
def Queue.took (q : Queue) (n : Nat) (x : Sub) : Queue :=
  { q with head := (q.head + n) % 2 ^ 24, credited := q.credited - n, needs := 0, expSeq := (q.expSeq + 1) % 2 ^ 32
           nextOrd := q.nextOrd + 1, subs := q.subs ++ [x] }

/-- The submission at HEAD of a queue. -/
def Queue.sub (q : Queue) (n : Nat) (b : List Byte) : Sub :=
  { ord := q.nextOrd, seq := q.expSeq, slots := n, irq := bit (BitVec.ofNat 64 (leAt b 0 8)) 12, tid := 0, fin := none }

/-- The state once the slots of a submission have been taken. -/
def State.tookSlots (s : State) (qk mtu n : Nat) (b : List Byte) : State :=
  let s := (s.modQueue qk fun q => q.took n ((s.queue qk).sub n b)).tick 0x008 (some (s.partOf (qk / 64)))
  ((s.tickN 0x0C0 (64 * n) (some (s.partOf (qk / 64)))).vfTick (qk / 64) 6 (64 * n)).handshakes 2 mtu n

theorem State.takeSub_eq (s : State) (qk mtu n : Nat) (b : List Byte) : s.takeSub qk mtu n b =
    if malformed (s.queue qk).gen (s.queue qk).expSeq (1024 ≤ qk / 64) b
    then (s.tookSlots qk mtu n b).finishSub qk (s.queue qk).nextOrd 0x19 0 true false false 0
    else (s.tookSlots qk mtu n b).admission ((s.tookSlots qk mtu n b).subTask qk (s.queue qk).nextOrd (s.queue qk).expSeq b) := rfl

theorem State.tookSlots_spec (s : State) (qk mtu n : Nat) (b : List Byte) :
    s.only (s.tookSlots qk mtu n b) [.queues, .cnt, .funcs] ∧ (s.tookSlots qk mtu n b).queue qk = (s.queue qk).took n ((s.queue qk).sub n b) ∧
      (∀ k, k ≠ qk → (s.tookSlots qk mtu n b).queue k = s.queue k) ∧ ∀ f, ((s.tookSlots qk mtu n b).func f).bind = (s.func f).bind := by
  unfold State.tookSlots
  have mod := State.only_modQueue s qk fun q => q.took n ((s.queue qk).sub n b)
  have self := State.modQueue_queue_self s qk fun q => q.took n ((s.queue qk).sub n b)
  have others := fun k (hk : k ≠ qk) => State.modQueue_queue_ne s qk (fun q => q.took n ((s.queue qk).sub n b)) hk
  generalize (s.modQueue qk fun q => q.took n ((s.queue qk).sub n b)) = a at *
  have t₁ := State.only_tick a 0x008 (some (s.partOf (qk / 64)))
  generalize a.tick 0x008 (some (s.partOf (qk / 64))) = c at *
  dsimp only
  have t₂ := State.only_tickN c 0x0C0 (64 * n) (some (c.partOf (qk / 64)))
  generalize c.tickN 0x0C0 (64 * n) (some (c.partOf (qk / 64))) = d at *
  have t₃ := State.only_vfTick d (qk / 64) 6 (64 * n)
  have bind : ∀ f, ((d.vfTick (qk / 64) 6 (64 * n)).func f).bind = (d.func f).bind := fun f => by
    unfold State.vfTick
    split
    · rw [State.modFunc_func]
      split
      · next h => subst h; rfl
      · rfl
    · rfl
  generalize d.vfTick (qk / 64) 6 (64 * n) = e at *
  have t₄ := State.only_handshakes e 2 mtu n
  have ticks : a.only (e.handshakes 2 mtu n) [.cnt, .funcs] :=
    State.only_after t₄.sub (State.only_after t₃.sub (State.only_after t₂.sub t₁.sub))
  have queues : ∀ k, (e.handshakes 2 mtu n).queue k = a.queue k := State.queue_of (ticks .queues (by decide))
  refine ⟨State.only_after ticks.sub mod.sub, (queues qk).trans self, fun k hk => (queues k).trans (others k hk), fun f => ?_⟩
  rw [State.handshakes_func, bind, State.func_of (t₂ .funcs (by decide)), State.func_of (t₁ .funcs (by decide)), State.func_of (mod .funcs (by decide))]

/-- A submission's task depends on its queue's registers and its function's binding. -/
theorem State.subTask_of {s t : State} {qk : Nat} (hg : (t.queue qk).gen = (s.queue qk).gen) (hj : (t.queue qk).job = (s.queue qk).job)
    (hl : (t.queue qk).timeout = (s.queue qk).timeout) (hb : (t.func (qk / 64)).bind = (s.func (qk / 64)).bind) (ord seq : Nat) (b : List Byte) :
    t.subTask qk ord seq b = s.subTask qk ord seq b := by
  unfold State.subTask State.partOf State.bound State.bindPart
  dsimp only
  rw [hg, hj, hl, hb]

/-- A queue without its submissions and records due. -/
def Queue.cleared' (q : Queue) : Queue := { q with subs := [], due := [] }

/-- Every submission of a list stands in another with its number of slots. -/
def subsStay (l m : List Sub) : Prop := ∀ x ∈ l, ∃ y ∈ m, y.ord = x.ord ∧ y.slots = x.slots

theorem subsStay_map {g : Sub → Sub} (hg : ∀ x, (g x).ord = x.ord ∧ (g x).slots = x.slots) (l : List Sub) : subsStay l (l.map g) :=
  fun x hx => ⟨g x, List.mem_map.mpr ⟨x, hx, rfl⟩, hg x⟩

theorem Queue.pump_cleared (k : Nat) : ∀ q : Queue, (q.pump k).cleared' = q.cleared' := by
  induction k with
  | zero => exact fun _ => rfl
  | succ k ih =>
    intro q
    rw [Queue.pump]
    split
    · split
      · exact ih _
      · rfl
    · rfl

/-- From `s` to `t` submissions of queue `qk` have changed, but not their slots; of the queues nothing else. -/
structure State.resubs (qk : Nat) (s t : State) : Prop where
  self : (t.queue qk).cleared' = (s.queue qk).cleared'
  subs : subsStay (s.queue qk).subs (t.queue qk).subs
  others : ∀ k, k ≠ qk → t.queue k = s.queue k

theorem State.resubs_of {s t : State} {qk : Nat} (h : t.queues = s.queues) : State.resubs qk s t :=
  ⟨by rw [State.queue_of h], fun x hx => ⟨x, by rwa [State.queue_of h], rfl, rfl⟩, fun k _ => State.queue_of h k⟩

theorem State.resubs_modQueue (s : State) (qk : Nat) (g : Queue → Queue) (hg : (g (s.queue qk)).cleared' = (s.queue qk).cleared')
    (hs : subsStay (s.queue qk).subs (g (s.queue qk)).subs) : State.resubs qk s (s.modQueue qk g) :=
  ⟨by rw [State.modQueue_queue_self, hg], by rw [State.modQueue_queue_self]; exact hs, fun k hk => State.modQueue_queue_ne s qk g hk⟩

/-- The parts that deciding a submission may reach. -/
def decideParts : List Field := [.queues, .geq, .cnt, .funcs, .out, .sto, .xl, .freeCtr, .objs]

theorem State.finishSub_spec (s : State) (qk ord st : Nat) (v : W64) (a b c : Bool) (bad : Nat) :
    s.only (s.finishSub qk ord st v a b c bad) decideParts ∧ State.resubs qk s (s.finishSub qk ord st v a b c bad) := by
  unfold State.finishSub
  split
  · exact ⟨State.only_refl s _, State.resubs_of rfl⟩
  · split
    · exact ⟨State.only_refl s _, State.resubs_of rfl⟩
    · dsimp only
      have decided := State.resubs_modQueue s qk (fun q =>
          ({ q with subs := q.subs.map fun y => if y.ord = ord then { y with fin := some ⟨st, v, a, b, c⟩ } else y } : Queue).pump
            (q.subs.map fun y => if y.ord = ord then { y with fin := some ⟨st, v, a, b, c⟩ } else y).length) (Queue.pump_cleared _ _)
        (by
          rw [Queue.pump_subs]
          refine subsStay_map (fun y => ?_) _
          split <;> exact ⟨rfl, rfl⟩)
      have mod := State.only_modQueue s qk fun q =>
          ({ q with subs := q.subs.map fun y => if y.ord = ord then { y with fin := some ⟨st, v, a, b, c⟩ } else y } : Queue).pump
            (q.subs.map fun y => if y.ord = ord then { y with fin := some ⟨st, v, a, b, c⟩ } else y).length
      generalize (s.modQueue qk fun q =>
          ({ q with subs := q.subs.map fun y => if y.ord = ord then { y with fin := some ⟨st, v, a, b, c⟩ } else y } : Queue).pump
            (q.subs.map fun y => if y.ord = ord then { y with fin := some ⟨st, v, a, b, c⟩ } else y).length) = u at *
      split
      · exact ⟨mod.sub, decided⟩
      · next x _ _ _ =>
        have posted := State.geqStatus_queues u qk (u.partOf (qk / 64)) st (if a then 0 else 1) (if a then 0 else x.tid) x.seq bad
        have only : u.only (u.geqStatus qk (u.partOf (qk / 64)) st (if a then 0 else 1) (if a then 0 else x.tid) x.seq bad)
            [.geq, .cnt, .funcs, .out, .sto, .xl, .freeCtr, .objs] := by
          unfold State.geqStatus
          exact State.only_ite _ (State.only_refl u _) (State.only_geqPost _ _ _)
        exact ⟨State.only_after only.sub mod.sub, by rw [State.queue_of posted]; exact decided.self,
          by rw [State.queue_of posted]; exact decided.subs, fun k hk => (State.queue_of posted k).trans (decided.others k hk)⟩

theorem State.resubs_admitAt (s : State) (i : Nat) (t : Task) : State.resubs t.qk s (s.admitAt i t) := by
  rw [State.admitAt_eq]
  dsimp only
  have base : ((s.modTask i fun _ => t.admittedAs (nextGen (s.task i).gen) s.stamp).nextStamp).queues = s.queues := rfl
  have noted : State.resubs t.qk s
      ((((s.modTask i fun _ => t.admittedAs (nextGen (s.task i).gen) s.stamp).nextStamp)).noteTid i (nextGen (s.task i).gen) t) := by
    generalize ((s.modTask i fun _ => t.admittedAs (nextGen (s.task i).gen) s.stamp).nextStamp) = a at *
    unfold State.noteTid
    split
    · have mod := State.resubs_modQueue a t.qk (fun q =>
        { q with subs := q.subs.map fun x => if x.ord = t.ord then { x with tid := taskId i (nextGen (s.task i).gen) } else x }) rfl
        (subsStay_map (fun y => by split <;> exact ⟨rfl, rfl⟩) _)
      exact ⟨mod.self.trans (by rw [State.queue_of base]), by rw [← State.queue_of base]; exact mod.subs,
        fun k hk => (mod.others k hk).trans (State.queue_of base k)⟩
    · exact State.resubs_of base
  generalize (((s.modTask i fun _ => t.admittedAs (nextGen (s.task i).gen) s.stamp).nextStamp)).noteTid i (nextGen (s.task i).gen) t = b at *
  have rest : ∀ (c : State) p, b.only c [.parts, .stamp] → (c.tick 0x010 p).queues = b.queues := fun c p hc =>
    (State.only_tick c 0x010 p .queues (by decide)).trans (hc .queues (by decide))
  have same := rest (if (decide (t.kind = .admin) || (t.front || t.resumed || s.jobKept t.part t.job)) = true then b else b.noteJob t.part t.job t.fk)
    (if t.kind = .admin then none else some t.part) (State.only_ite _ (State.only_refl b _) (State.only_noteJob b _ _ _))
  exact ⟨by rw [State.queue_of same]; exact noted.self, by rw [State.queue_of same]; exact noted.subs,
    fun k hk => (State.queue_of same k).trans (noted.others k hk)⟩

/-- The parts that taking a submission may reach. -/
def takeParts : List Field := [.tasks, .stamp, .parts, .queues, .geq, .cnt, .funcs, .out, .sto, .xl, .freeCtr, .objs, .mtus]

/-- What a fetch leaves of a queue whose registers were `x`: the slots are taken, a submission with its ordinal stands. -/
structure Queue.tookAll (n : Nat) (b : List Byte) (x y : Queue) : Prop where
  fields : y.cleared' = (({ x with mtu := none } : Queue).took n (x.sub n b)).cleared'
  sub : ∃ z ∈ y.subs, z.ord = x.nextOrd ∧ z.slots = n

theorem State.takeSub_spec (s : State) (qk mtu n i : Nat) (b : List Byte) (hi : s.emptyRec = some i) :
    let t := s.takeSub qk mtu n b
    Queue.tookAll n b { s.queue qk with mtu := none } { t.queue qk with mtu := none } ∧ (t.queue qk).mtu = (s.queue qk).mtu ∧
    (∀ k, k ≠ qk → t.queue k = s.queue k) ∧ s.only t takeParts ∧ t.mtus = s.mtus ∧
    (malformed (s.queue qk).gen (s.queue qk).expSeq (1024 ≤ qk / 64) b = true → t.tasks = s.tasks) ∧
    (malformed (s.queue qk).gen (s.queue qk).expSeq (1024 ≤ qk / 64) b = false →
      (∃ o, t.task i = { s.subTask qk (s.queue qk).nextOrd (s.queue qk).expSeq b with gen := nextGen (s.task i).gen, st := .admitted, order := o }) ∧
      ∀ r, r ≠ i → t.task r = s.task r) := by
  dsimp only
  rw [State.takeSub_eq]
  obtain ⟨only, self, others, bind⟩ := State.tookSlots_spec s qk mtu n b
  have task : (s.tookSlots qk mtu n b).subTask qk (s.queue qk).nextOrd (s.queue qk).expSeq b = s.subTask qk (s.queue qk).nextOrd (s.queue qk).expSeq b :=
    State.subTask_of (by rw [self]; rfl) (by rw [self]; rfl) (by rw [self]; rfl) (bind _) _ _ _
  rw [task]
  generalize s.tookSlots qk mtu n b = a at *
  have record : a.emptyRec = some i := by
    rw [← hi]
    unfold State.emptyRec
    have tasks : ∀ r, a.task r = s.task r := State.task_of (only .tasks (by decide))
    simp only [tasks]
  have took : ∀ t, State.resubs qk a t → Queue.tookAll n b { s.queue qk with mtu := none } { t.queue qk with mtu := none } ∧
      (t.queue qk).mtu = (s.queue qk).mtu ∧ (∀ k, k ≠ qk → t.queue k = s.queue k) := fun t h => by
    have fields := h.self
    rw [self] at fields
    have mtu := congrArg Queue.mtu fields
    have rest := congrArg (fun q : Queue => ({ q with mtu := none } : Queue)) fields
    refine ⟨⟨rest, ?_⟩, mtu, fun k hk => (h.others k hk).trans (others k hk)⟩
    obtain ⟨z, hz, ho, hn⟩ := h.subs ((s.queue qk).sub n b) (by rw [self]; exact List.mem_append_right _ (List.mem_singleton.mpr rfl))
    exact ⟨z, hz, ho, hn⟩
  split
  · next bad =>
    obtain ⟨fin, re⟩ := State.finishSub_spec a qk (s.queue qk).nextOrd 0x19 0 true false false 0
    obtain ⟨took, mtu, others⟩ := took _ re
    have both : s.only (a.finishSub qk (s.queue qk).nextOrd 0x19 0 true false false 0) decideParts := State.only_after fin (State.only_mono only (by decide))
    exact ⟨took, mtu, others, State.only_mono both (by decide), both .mtus (by decide), fun _ => both .tasks (by decide), fun h => absurd bad (ne_true_of_eq_false h)⟩
  · next good =>
    have at' : a.admission (s.subTask qk (s.queue qk).nextOrd (s.queue qk).expSeq b) = a.admitAt i (s.subTask qk (s.queue qk).nextOrd (s.queue qk).expSeq b) := by
      unfold State.admission
      rw [record]
    rw [at']
    have key : (s.subTask qk (s.queue qk).nextOrd (s.queue qk).expSeq b).qk = qk := by
      show qk / 64 * 64 + qk % 64 = qk
      omega
    have re := State.resubs_admitAt a i (s.subTask qk (s.queue qk).nextOrd (s.queue qk).expSeq b)
    rw [key] at re
    obtain ⟨own, rest, reach, -⟩ := State.admitAt_spec a i (s.subTask qk (s.queue qk).nextOrd (s.queue qk).expSeq b)
    obtain ⟨took, mtu, others⟩ := took _ re
    have tasks : ∀ r, a.task r = s.task r := State.task_of (only .tasks (by decide))
    have whole : s.only (a.admitAt i (s.subTask qk (s.queue qk).nextOrd (s.queue qk).expSeq b)) [.tasks, .queues, .stamp, .parts, .cnt, .funcs] :=
      State.only_after reach.sub only.sub
    refine ⟨took, mtu, others, State.only_mono whole (by decide), whole .mtus (by decide), fun h => absurd h good, fun _ => ⟨⟨a.stamp, ?_⟩, fun r hr => ?_⟩⟩
    · rw [own, tasks]
      rfl
    · rw [rest r hr, tasks]

/-! ### The turns of the units (08 R246, R247) -/

theorem State.only_trySlots_ok {qk : Nat} : ∀ (l : List Nat) (s : State) {u : State} {e : XEnt}, s.trySlots qk l = (u, .ok e) → s.only u [.xl] := by
  intro l
  induction l with
  | nil =>
    intro s u e h
    rw [← (Prod.mk.inj h).1]
    exact State.only_refl s _
  | cons a l ih =>
    intro s u e h
    unfold State.trySlots at h
    split at h
    · next t e' ht => exact State.only_trans (State.only_tryRange_ok ht) (ih t h)
    · next hn => exact absurd h (hn u e)

theorem State.fetchSub_ok {h u v : State} {qk : Nat} {data : List Byte} {a b : XEnt}
    (h₁ : h.trySlots qk ((h.queue qk).slotAddrs 1) = (u, .ok a)) (hn : slotsOf (BitVec.ofNat 64 (leAt data 0 8)) ≤ (h.queue qk).credited)
    (h₂ : u.trySlots qk ((h.queue qk).slotAddrs (slotsOf (BitVec.ofNat 64 (leAt data 0 8)))) = (v, .ok b)) :
    h.fetchSub qk data = (v.endFetch qk).takeSub qk ((h.queue qk).mtu.getD 0) (slotsOf (BitVec.ofNat 64 (leAt data 0 8))) data := by
  unfold State.fetchSub
  dsimp only
  rw [h₁]
  dsimp only
  rw [if_neg (Nat.not_lt.mpr hn), h₂]

theorem slotsOf_range (w : W64) : 1 ≤ slotsOf w ∧ slotsOf w ≤ 5 := by
  unfold slotsOf
  split <;> omega

/-- HEAD moves with every submission: at most 5 slots, of a ring index of 24 bits. -/
theorem head_moves (x n : Nat) (h₁ : 1 ≤ n) (h₅ : n ≤ 5) : (x + n) % 2 ^ 24 ≠ x := by
  omega

/-- A submission fetched from queue `qk` with `n` slots into record `i`, of the function that had the turn `d`. -/
theorem State.fetch_spec (s : State) {h u v : State} {qk i : Nat} {data : List Byte} {a b : XEnt} (drr : Drr) (hi : s.emptyRec = some i)
    (hd : s.drawFetch qk = some h) (h₁ : h.trySlots qk ((s.queue qk).slotAddrs 1) = (u, .ok a))
    (hn : slotsOf (BitVec.ofNat 64 (leAt data 0 8)) ≤ (s.queue qk).credited)
    (h₂ : u.trySlots qk ((s.queue qk).slotAddrs (slotsOf (BitVec.ofNat 64 (leAt data 0 8)))) = (v, .ok b)) :
    let n := slotsOf (BitVec.ofNat 64 (leAt data 0 8))
    let x := s.queue qk
    ∃ t, done s (if ((h.fetchSub qk data).queue qk).head = x.head then h.fetchSub qk data else { h.fetchSub qk data with fetch := drr }) = .next t ∧
      (t.queue qk).head = (x.head + n) % 2 ^ 24 ∧
      (t.queue qk).mtu = none ∧ (x.mtu = none → ∀ m, t.mtuHeld m = s.mtuHeld m) ∧
      (t.queue qk).expSeq = (x.expSeq + 1) % 2 ^ 32 ∧ (t.queue qk).credited = x.credited - n ∧
      (t.queue qk).credHeld = x.credHeld ∧ t.fetch = drr ∧ (∀ k, k ≠ qk → t.queue k = s.queue k) ∧
      (malformed x.gen x.expSeq (1024 ≤ qk / 64) data = false → ∃ o,
        t.task i = { s.subTask qk x.nextOrd x.expSeq data with gen := nextGen (s.task i).gen, st := .admitted, order := o } ∧
        (∀ r, r ≠ i → t.task r = s.task r)) ∧
      (malformed x.gen x.expSeq (1024 ≤ qk / 64) data = true → t.tasks = s.tasks ∧
        ∃ y ∈ (t.queue qk).subs, y.ord = x.nextOrd ∧ y.slots = n) := by
  dsimp only
  have drew := State.drew_drawFetch hd
  obtain ⟨m, self⟩ := drew.self
  have fetched := State.fetchedTo_endFetch drew (State.only_trans (State.only_trySlots_ok _ _ h₁) (State.only_trySlots_ok _ _ h₂))
  have made : h.fetchSub qk data = (v.endFetch qk).takeSub qk ((h.queue qk).mtu.getD 0) (slotsOf (BitVec.ofNat 64 (leAt data 0 8))) data :=
    State.fetchSub_ok (by rw [self]; exact h₁) (by rw [self]; exact hn) (by rw [self]; exact h₂)
  obtain ⟨n₁, n₅⟩ := slotsOf_range (BitVec.ofNat 64 (leAt data 0 8))
  generalize slotsOf (BitVec.ofNat 64 (leAt data 0 8)) = n at *
  rw [made]
  generalize v.endFetch qk = w at *
  have tasks : ∀ r, w.task r = s.task r := State.task_of (fetched.only .tasks (by decide))
  have funcs : ∀ f, w.func f = s.func f := State.func_of (fetched.only .funcs (by decide))
  have record : w.emptyRec = some i := by
    rw [← hi]
    unfold State.emptyRec
    simp only [tasks]
  obtain ⟨took, mtu, others, only, mtus, bad, good⟩ := State.takeSub_spec w qk ((h.queue qk).mtu.getD 0) n i data record
  have task : w.subTask qk (w.queue qk).nextOrd (w.queue qk).expSeq data = s.subTask qk (s.queue qk).nextOrd (s.queue qk).expSeq data := by
    rw [fetched.self]
    exact State.subTask_of (by rw [fetched.self]) (by rw [fetched.self]) (by rw [fetched.self]) (by rw [funcs]) _ _ _
  rw [task, tasks] at good
  generalize w.takeSub qk ((h.queue qk).mtu.getD 0) n data = t at *
  rw [fetched.self] at took mtu bad good
  have head := congrArg Queue.head took.fields
  have seq := congrArg Queue.expSeq took.fields
  have credited := congrArg Queue.credited took.fields
  have credHeld := congrArg Queue.credHeld took.fields
  have head : (t.queue qk).head = ((s.queue qk).head + n) % 2 ^ 24 := head
  rw [if_neg (by rw [head]; exact head_moves _ n n₁ n₅)]
  obtain ⟨t', ht', -, -, same, -⟩ := done_spec s { t with fetch := drr }
  have queues : ∀ k, t'.queue k = t.queue k := State.queue_of (same .queues (by decide))
  have tasks' : t'.tasks = t.tasks := same .tasks (by decide)
  have task' : ∀ r, t'.task r = t.task r := State.task_of tasks'
  refine ⟨t', ht', ?_, ?_, fun hm j => ?_, ?_, ?_, ?_, same .fetch (by decide), fun k hk => ?_, fun hm => ?_, fun hm => ⟨?_, ?_⟩⟩
  · rw [queues, head]
  · rw [queues, mtu]
  · rw [State.mtuHeld_of (same .mtus (by decide)) j]
    exact (State.mtuHeld_of mtus j).trans (fetched.held hm j)
  · rw [queues]
    exact seq
  · rw [queues]
    exact credited
  · rw [queues]
    exact credHeld
  · rw [queues, others k hk, fetched.others k hk]
  · obtain ⟨⟨o, own⟩, rest⟩ := good hm
    exact ⟨o, (task' i).trans own, fun r hr => by rw [task', rest r hr, tasks]⟩
  · exact tasks'.trans ((bad hm).trans (fetched.only .tasks (by decide)))
  · rw [queues]
    exact took.sub

/-- A command that changes one queue and the turns of the units. -/
theorem done_turn {s t : State} (h : s.only t [.queues, .dbell, .fetch]) : done s t = .next t :=
  done_of_only h (by rw [h .boot (by decide)])

theorem State.only_setTurns (s : State) (d f : Drr) : s.only { s with dbell := d, fetch := f } [.dbell, .fetch] := by
  intro x hx
  cases x
  case dbell => exact absurd (by decide) hx
  case fetch => exact absurd (by decide) hx
  all_goals rfl

/-- Settles O43: the Doorbell Unit's turn draws a credit; the Descriptor Fetch Unit's takes what fits its deficit (`fetch_spec`). -/
theorem creditsAndFetch : Obligations.CreditsAndFetch := by
  intro s
  refine ⟨fun p d q turn next => ?_, fun data i p d q hi turn next => ?_, fun f q => ?_⟩
  · have run : exec .ringSlotCreditDraw s = done s ({ s with dbell := d.spend p q 1 }.modQueue (qkey p q) fun x =>
        { x with credHeld := x.credHeld + 1, credited := x.credited + 1 }) := by
      refine congrArg (done s) ?_
      rw [turn]
      dsimp only
      rw [next]
    refine run.trans (done_turn ?_)
    exact State.only_after (State.only_modQueue _ _ _).sub (State.only_setTurns s (d.spend p q 1) s.fetch).sub
  · have record : s.emptyRec.isNone = false := by rw [hi]; rfl
    have run : exec (.descriptorFetch data) s = done s (if Tab.get 0 d.deficit p < slotsOf (BitVec.ofNat 64 (leAt data 0 8)) then ({ s with fetch := d }).modQueue (qkey p q) fun x => { x with needs := slotsOf (BitVec.ofNat 64 (leAt data 0 8)) }
        else match s.drawFetch (qkey p q) with
          | none => s
          | some t => if ((t.fetchSub (qkey p q) data).queue (qkey p q)).head = (s.queue (qkey p q)).head then t.fetchSub (qkey p q) data
            else { t.fetchSub (qkey p q) data with fetch := d.spend p q (slotsOf (BitVec.ofNat 64 (leAt data 0 8))) }) := by
      refine congrArg (done s) ?_
      rw [record, if_neg Bool.false_ne_true, turn]
      dsimp only
      rw [next] <;> rfl
    rw [run]
    refine ⟨fun few => ?_, fun fits none => ?_, fun h u v a b fits draw h₁ hn h₂ => ?_⟩
    · rw [if_pos few]
      refine done_turn ?_
      exact State.only_after (State.only_modQueue _ _ _).sub (State.only_setTurns s s.dbell d).sub
    · rw [if_neg (Nat.not_lt.mpr fits), none]
      exact done_self s
    · rw [if_neg (Nat.not_lt.mpr fits), draw]
      exact State.fetch_spec s (d.spend p q _) hi draw h₁ hn h₂
  · refine (congrArg (done s) rfl).trans (?_ : done s (if (s.queue (qkey f q)).unreadable = true then
      s.modQueue (qkey f q) fun x => { x with unreadable := false } else s) = _)
    split
    · exact done_modQueue s _ _
    · exact done_self s

end Sys2Proof.Machine
end


section
/-! Convoys: join, hold, assembly (08 R231 to R235). -/

namespace Sys2Proof.Machine

set_option Elab.async false

/-! ### The table of a convoy (08 R233, R235) -/

theorem prefillEntries_spec (chunk : Nat) : ∀ (l : List (Nat × Member)) (room ents : Nat),
    (prefillEntries chunk room ents l).length ≤ ents ∧ ((prefillEntries chunk room ents l).map (·.2.2)).sum ≤ room ∧
      ∀ e ∈ prefillEntries chunk room ents l, e.2.2 ≤ chunk := by
  intro l
  induction l with
  | nil => exact fun room ents => by simp [prefillEntries]
  | cons x l ih =>
    intro room ents
    cases room with
    | zero => simp [prefillEntries]
    | succ room =>
      cases ents with
      | zero => simp [prefillEntries]
      | succ ents =>
        rw [prefillEntries]
        have few : min chunk (min (x.2.tokens - x.2.next) (room + 1)) ≤ room + 1 := le_trans (min_le_right _ _) (min_le_right _ _)
        have small : min chunk (min (x.2.tokens - x.2.next) (room + 1)) ≤ chunk := min_le_left _ _
        generalize min chunk (min (x.2.tokens - x.2.next) (room + 1)) = n at *
        obtain ⟨len, sum, each⟩ := ih (room + 1 - n) ents
        refine ⟨by simpa using len, ?_, fun e he => ?_⟩
        · simp only [List.map_cons, List.sum_cons]
          omega
        · rcases List.mem_cons.mp he with rfl | h
          · exact small
          · exact each e h

/-- Entries of a table carry the tokens that they were made with. -/
theorem mkEntries_ntok (kind : Nat) : ∀ (l : List (Nat × Member × Nat)) (base : Nat), (mkEntries kind base l).map (·.ntok) = l.map (·.2.2)
  | [], _ => rfl
  | x :: l, base => congrArg (x.2.2 :: ·) (mkEntries_ntok kind l (base + x.2.2))

theorem mkEntries_length (kind : Nat) (l : List (Nat × Member × Nat)) (base : Nat) : (mkEntries kind base l).length = l.length := by
  rw [← List.length_map (f := (·.ntok)), mkEntries_ntok, List.length_map]

theorem mkEntries_le (kind : Nat) (l : List (Nat × Member × Nat)) (base k : Nat) (h : ∀ e ∈ l, e.2.2 ≤ k) : ∀ e ∈ mkEntries kind base l, e.ntok ≤ k := by
  intro e he
  have mem : e.ntok ∈ l.map (·.2.2) := mkEntries_ntok kind l base ▸ List.mem_map.mpr ⟨e, he, rfl⟩
  obtain ⟨x, hx, hn⟩ := List.mem_map.mp mem
  exact hn ▸ h x hx

theorem decodeEntries_length (room : Nat) (l : List (Nat × Member)) : (decodeEntries room l).length ≤ room := List.length_take_le _ _

/-- A table fits 2,048 entries, its entries a chunk each, and its tokens the budget. -/
theorem assemble_spec (budget fill chunk cmin : Nat) (l : List (Nat × Member)) (h : cmin ≤ budget) :
    (assemble budget fill chunk cmin l).length ≤ 2048 ∧ ((assemble budget fill chunk cmin l).map (·.ntok)).sum ≤ budget ∧
      ∀ e ∈ assemble budget fill chunk cmin l, e.ntok ≤ max chunk 1 := by
  unfold assemble
  dsimp only
  generalize hpre : (l.filter fun x => x.2.tokens != 1) = pre
  have room : (decodeEntries (min (if pre.isEmpty then budget else budget - cmin) (if pre.isEmpty then 2048 else 2047)) l).length ≤ budget ∧
      (decodeEntries (min (if pre.isEmpty then budget else budget - cmin) (if pre.isEmpty then 2048 else 2047)) l).length ≤ 2048 := by
    have le := decodeEntries_length (min (if pre.isEmpty then budget else budget - cmin) (if pre.isEmpty then 2048 else 2047)) l
    have tokens : (if pre.isEmpty then budget else budget - cmin) ≤ budget := by split <;> omega
    have entries : (if pre.isEmpty then 2048 else 2047) ≤ 2048 := by split <;> omega
    exact ⟨le_trans le (le_trans (min_le_left _ _) tokens), le_trans le (le_trans (min_le_right _ _) entries)⟩
  generalize decodeEntries (min (if pre.isEmpty then budget else budget - cmin) (if pre.isEmpty then 2048 else 2047)) l = dec at *
  obtain ⟨inBudget, inTable⟩ := room
  have few : min (max fill (dec.length + cmin) - dec.length) (budget - dec.length) ≤ budget - dec.length := min_le_right _ _
  generalize min (max fill (dec.length + cmin) - dec.length) (budget - dec.length) = roomP at *
  obtain ⟨len, sum, each⟩ := prefillEntries_spec chunk pre roomP (2048 - dec.length)
  refine ⟨?_, ?_, fun e he => ?_⟩
  · rw [List.length_append, mkEntries_length, mkEntries_length, List.length_map]
    omega
  · rw [List.map_append, List.sum_append, mkEntries_ntok, mkEntries_ntok, List.map_map]
    have ones : (dec.map ((fun y : Nat × Member × Nat => y.2.2) ∘ fun x => (x.1, x.2, 1))).sum = dec.length := by
      simp [Function.comp_def]
    rw [ones]
    omega
  · rcases List.mem_append.mp he with m | m
    · refine le_trans (mkEntries_le 0 _ 0 1 (fun x hx => ?_) e m) (le_max_right _ _)
      obtain ⟨y, -, rfl⟩ := List.mem_map.mp hx
      exact le_refl 1
    · exact le_trans (mkEntries_le 1 _ _ chunk each e m) (le_max_left _ _)

/-! ### The sequencer turns to its next dispatch -/

/-- From `s` to `t` the dispatches of partition `n` have changed one by one, and ports have been sent messages. -/
structure State.sequenced (n : Nat) (s t : State) : Prop where
  only : s.only t [.parts, .ports]
  part : { t.part n with seqr := [] } = { s.part n with seqr := [] }
  seqr : (t.part n).seqr.length = (s.part n).seqr.length
  others : ∀ k, k ≠ n → t.part k = s.part k

theorem State.sequenced_of {n : Nat} {s t : State} (h : s.only t [.ports]) : State.sequenced n s t := by
  have part := fun k => State.part_of (h .parts (by decide)) k
  exact ⟨h.sub, by rw [part], by rw [part], fun k _ => part k⟩

theorem State.sequenced_refl (n : Nat) (s : State) : State.sequenced n s s := State.sequenced_of (State.only_refl s _)

theorem State.sequenced_trans {n : Nat} {s t u : State} (h : State.sequenced n s t) (g : State.sequenced n t u) : State.sequenced n s u :=
  ⟨State.only_trans h.only g.only, g.part.trans h.part, g.seqr.trans h.seqr, fun k hk => (g.others k hk).trans (h.others k hk)⟩

theorem State.sequenced_each {α : Type} {n : Nat} {g : State → α → State} (hg : ∀ u a, State.sequenced n u (g u a)) (l : List α) (s : State) :
    State.sequenced n s (s.each l g) :=
  State.each_keeps (P := State.sequenced n s) (fun u a h => State.sequenced_trans h (hg u a)) l s (State.sequenced_refl n s)

theorem State.sequenced_modDisp (s : State) (n i : Nat) (g : Disp → Disp) : State.sequenced n s (s.modDisp n i g) := by
  have self := State.modPart_part_self s n fun p => { p with seqr := modAt g i p.seqr }
  refine ⟨(State.only_modPart s n _).sub, ?_, ?_, fun k hk => State.modPart_part_ne s n _ hk⟩
  · unfold State.modDisp
    rw [self]
  · unfold State.modDisp
    rw [self]
    exact modAt_length g i _

theorem State.only_forwards (s : State) (k a b : Nat) (h x y : W64) : s.only (s.forward k a b h x y) [.ports] := State.only_modPort s k _

theorem State.sequenced_sendCbuf (s : State) (n i k : Nat) : State.sequenced n s (s.sendCbuf n i k) := by
  unfold State.sendCbuf
  split
  · exact State.sequenced_refl n s
  · refine State.sequenced_trans ?_ (State.sequenced_each (fun u w => State.sequenced_of (State.only_forwards u _ _ _ _ _ _)) _ _)
    exact State.sequenced_modDisp s n i _

theorem State.sequenced_runNext (s : State) (n : Nat) : State.sequenced n s (s.runNext n) := by
  unfold State.runNext
  split
  · exact State.sequenced_refl n s
  · split
    · exact State.sequenced_refl n s
    · next i hi =>
      exact State.sequenced_trans (State.sequenced_modDisp s n i fun d => { d with running := true })
        (State.sequenced_each (fun u (l : LPort) => State.sequenced_sendCbuf u n i l.port) _ _)

theorem insertDisp_length (d : Disp) : ∀ l : List Disp, (insertDisp d l).length = l.length + 1
  | [] => rfl
  | x :: l => by
    unfold insertDisp
    split
    · exact congrArg (· + 1) (insertDisp_length d l)
    · rfl

theorem State.only_dispTagged (s : State) (n : Nat) (o : Owner) (d : Nat) : s.only (s.dispTagged n o d) [.cnt] := by
  unfold State.dispTagged
  split
  · exact State.only_tagDtag s _ _
  · refine State.only_each _ (fun u e => ?_) _ s
    split
    · exact State.only_tagDtag u _ _
    · exact State.only_refl u _

/-- A dispatch that enters the sequencer (07 R194, R196): the partition's tag moves on, and an MTU credit is drawn. -/
theorem State.enterDisp_spec (s : State) (n : Nat) (owner : Owner) (ss : W64) (h : List Byte) (cbuf : List W64) (m ord : Nat) :
    let t := s.enterDisp n owner ss h cbuf m ord
    s.only t [.cnt, .parts, .ports, .mtus] ∧ { t.part n with seqr := [] } = { s.part n with seqr := [], dtag := ((s.part n).dtag + 1) % 65536 } ∧
      (t.part n).seqr.length = (s.part n).seqr.length + 1 ∧ (∀ k, k ≠ n → t.part k = s.part k) ∧ t.mtuHeld m = s.mtuHeld m + 1 := by
  dsimp only
  unfold State.enterDisp
  dsimp only
  generalize s.mkDisp n owner (s.part n).dtag ss h cbuf m ord = d
  have tagged := State.only_dispTagged s n owner d.dtag
  generalize s.dispTagged n owner d.dtag = a at *
  have parts : ∀ k, a.part k = s.part k := State.part_of (tagged .parts (by decide))
  have mod := State.only_modPart a n fun p => { p with dtag := (p.dtag + 1) % 65536, seqr := insertDisp d p.seqr }
  have self := State.modPart_part_self a n fun p => { p with dtag := (p.dtag + 1) % 65536, seqr := insertDisp d p.seqr }
  have others := fun k (hk : k ≠ n) => State.modPart_part_ne a n (fun p => { p with dtag := (p.dtag + 1) % 65536, seqr := insertDisp d p.seqr }) hk
  generalize (a.modPart n fun p => { p with dtag := (p.dtag + 1) % 65536, seqr := insertDisp d p.seqr }) = b at *
  have drawn := State.only_modMtu b m (· + 1)
  have held := State.modMtu_mtuHeld_self b m (· + 1)
  generalize b.modMtu m (· + 1) = c at *
  have cparts : ∀ k, c.part k = b.part k := State.part_of (drawn .parts (by decide))
  have next := State.sequenced_runNext c n
  rw [parts] at self
  refine ⟨State.only_after next.only.sub (State.only_after drawn.sub (State.only_after mod.sub tagged.sub)), ?_, ?_, fun k hk => ?_, ?_⟩
  · rw [next.part, cparts, self]
  · rw [next.seqr, cparts, self]
    exact insertDisp_length d _
  · rw [next.others k hk, cparts, others k hk, parts]
  · rw [State.mtuHeld_of (next.only .mtus (by decide)), held, State.mtuHeld_of (mod .mtus (by decide)), State.mtuHeld_of (tagged .mtus (by decide))]

/-! ### Assembly (08 R233) -/

theorem State.only_bufWrite (n : Nat) : ∀ (l : List Byte) (s : State) (a : Nat), s.only (s.bufWrite n a l) [.sto]
  | [], s, _ => State.only_refl s _
  | _ :: l, s, a => State.only_trans (State.only_writeLoc s _ _) (State.only_bufWrite n l _ (a + 1))

/-- What a write to the convoy buffer makes of storage depends on storage and the buffer's units alone. -/
theorem State.bufWrite_sto (n : Nat) : ∀ (l : List Byte) (s u : State) (a : Nat), u.sto = s.sto → (u.part n).cvy.units = (s.part n).cvy.units →
    (u.bufWrite n a l).sto = (s.bufWrite n a l).sto
  | [], _, _, _, h, _ => h
  | b :: l, s, u, a, h, hu => by
    have loc : u.bufLoc n a = s.bufLoc n a := by
      unfold State.bufLoc
      rw [hu]
    have units : ∀ v : State, (v.writeLoc (v.bufLoc n a) (some b)).part n = v.part n := fun v =>
      State.part_of (State.only_writeLoc v _ _ .parts (by decide)) n
    refine State.bufWrite_sto n l _ _ (a + 1) ?_ (by rw [units, units, hu])
    rw [loc]
    show (u.modSto _).sto = (s.modSto _).sto
    unfold State.modSto
    dsimp only
    rw [h]

/-- The convoy of a partition as an assembly puts it in force. -/
def Cvy.assembled (c : Cvy) (members : Tab (Option Member)) (es : List Entry) (wload : Bool) : Cvy :=
  { c with members := members, run := some es, wload := wload, num := c.num + 1, tabB := !c.tabB, hold := false }

/-- The state in which the convoy of partition `n` with members `ms` and table `es` enters the sequencer. -/
def State.assembling (s : State) (n : Nat) (ms : Tab (Option Member)) (es : List Entry) : State :=
  State.bufWrite (s.modPart n fun p => { p with cvy := ((s.part n).cvy.atAssembly (s.part n).schVf (s.part n).jobWset).assembled ms es p.wloadDue }) n
    (tableOff (!((s.part n).cvy.atAssembly (s.part n).schVf (s.part n).jobWset).tabB)) (es.flatMap Entry.bytes)

/-- The table of the next convoy of partition `n`, whose oldest member is `x`. -/
def State.nextTable (s : State) (n : Nat) (x : Nat × Member) (rest : List (Nat × Member)) : List Entry :=
  let c := (s.part n).cvy.atAssembly (s.part n).schVf (s.part n).jobWset
  assemble c.budget c.f c.c c.cmin ((x :: rest).filter fun y => y.2.stream == x.2.stream)

theorem State.buildConvoy_eq (s : State) (n : Nat) {x : Nat × Member} {rest : List (Nat × Member)} {m : Nat}
    (hl : (s.part n).cvy.live = x :: rest) (hm : s.streamMtu (s.task x.2.r) n x.2.stream = some m) (hf : 0 < s.mtuFree m) :
    ∃ ms header words ord, s.buildConvoy n =
      ((s.assembling n ms (s.nextTable n x rest)).enterDisp n .convoy x.2.stream header words m ord).nextStamp := by
  unfold State.buildConvoy
  dsimp only
  rw [hl]
  dsimp only
  rw [hm]
  dsimp only
  rw [if_neg (Nat.ne_of_gt hf)]
  exact ⟨_, _, _, _, rfl⟩

theorem Cvy.atAssembly_units (c : Cvy) (vf w : Nat) : (c.atAssembly vf w).units = c.units := by
  unfold Cvy.atAssembly
  dsimp only
  split <;> rfl

theorem State.assembling_spec (s : State) (n : Nat) (ms : Tab (Option Member)) (es : List Entry) :
    let c := (s.part n).cvy.atAssembly (s.part n).schVf (s.part n).jobWset
    s.only (s.assembling n ms es) [.parts, .sto] ∧
      (s.assembling n ms es).part n = { s.part n with cvy := c.assembled ms es (s.part n).wloadDue } ∧
      (∀ k, k ≠ n → (s.assembling n ms es).part k = s.part k) ∧
      (s.assembling n ms es).sto = (s.bufWrite n (tableOff (!c.tabB)) (es.flatMap Entry.bytes)).sto := by
  dsimp only
  unfold State.assembling
  have units := Cvy.atAssembly_units (s.part n).cvy (s.part n).schVf (s.part n).jobWset
  generalize (s.part n).cvy.atAssembly (s.part n).schVf (s.part n).jobWset = c at *
  have mod := State.only_modPart s n fun p => { p with cvy := c.assembled ms es p.wloadDue }
  have self := State.modPart_part_self s n fun p => { p with cvy := c.assembled ms es p.wloadDue }
  have others := fun k (hk : k ≠ n) => State.modPart_part_ne s n (fun p => { p with cvy := c.assembled ms es p.wloadDue }) hk
  generalize (s.modPart n fun p => { p with cvy := c.assembled ms es p.wloadDue }) = a at *
  have wrote := State.only_bufWrite n (es.flatMap Entry.bytes) a (tableOff (!c.tabB))
  have parts : ∀ k, (a.bufWrite n (tableOff (!c.tabB)) (es.flatMap Entry.bytes)).part k = a.part k := State.part_of (wrote .parts (by decide))
  refine ⟨State.only_after wrote.sub mod.sub, (parts n).trans self, fun k hk => (parts k).trans (others k hk),
    State.bufWrite_sto n _ s a _ (mod .sto (by decide)) ?_⟩
  rw [self]
  exact units

theorem State.convoyAssemble_spec (s : State) (n : Nat) {x : Nat × Member} {rest : List (Nat × Member)} {m : Nat}
    (hh : (s.part n).cvy.hold = true) (hn : (s.part n).cvy.run = none) (hr : (s.part n).running = true)
    (hl : (s.part n).cvy.live = x :: rest) (hm : s.streamMtu (s.task x.2.r) n x.2.stream = some m) (hf : 0 < s.mtuFree m) :
    let c := (s.part n).cvy.atAssembly (s.part n).schVf (s.part n).jobWset
    let es := s.nextTable n x rest
    ∃ t, exec (.convoyAssemble n) s = .next t ∧ (t.part n).cvy.run = some es ∧
      t.sto = (s.bufWrite n (tableOff (!c.tabB)) (es.flatMap Entry.bytes)).sto ∧
      (t.part n).cvy.num = c.num + 1 ∧ (t.part n).cvy.tabB = !c.tabB ∧ (t.part n).cvy.hold = false ∧
      (t.part n).dtag = ((s.part n).dtag + 1) % 65536 ∧ (t.part n).seqr.length = (s.part n).seqr.length + 1 ∧
      t.mtuHeld m = s.mtuHeld m + 1 ∧ (∀ k, k ≠ n → t.part k = s.part k) ∧ s.only t [.parts, .ports, .mtus, .stamp, .cnt, .sto] := by
  dsimp only
  obtain ⟨ms, header, words, ord, built⟩ := State.buildConvoy_eq s n hl hm hf
  have run : exec (.convoyAssemble n) s = done s (s.buildConvoy n) := congrArg (done s) (if_pos (by simp [hh, hn, hr]))
  rw [run, built]
  obtain ⟨only, self, others, sto⟩ := State.assembling_spec s n ms (s.nextTable n x rest)
  generalize s.nextTable n x rest = es at *
  generalize s.assembling n ms es = a at *
  obtain ⟨entered, part, seqr, rest', held⟩ := State.enterDisp_spec a n .convoy x.2.stream header words m ord
  generalize a.enterDisp n .convoy x.2.stream header words m ord = b at *
  have all : s.only b.nextStamp [.parts, .ports, .mtus, .stamp, .cnt, .sto] :=
    State.only_after (State.only_nextStamp b).sub (State.only_after entered.sub only.sub)
  obtain ⟨t, ht, -, -, same, reach⟩ := done_spec s b.nextStamp
  have parts : ∀ k, t.part k = b.part k := State.part_of (same .parts (by decide))
  have cvy := congrArg Part.cvy part
  have dtag := congrArg Part.dtag part
  have cvy : (b.part n).cvy = ((s.part n).cvy.atAssembly (s.part n).schVf (s.part n).jobWset).assembled ms es (s.part n).wloadDue :=
    cvy.trans (congrArg Part.cvy self)
  have dtag : (b.part n).dtag = ((a.part n).dtag + 1) % 65536 := dtag
  refine ⟨t, ht, ?_, ?_, ?_, ?_, ?_, ?_, ?_, ?_, fun k hk => ?_, reach _ (by decide) all⟩
  · rw [parts, cvy]
    rfl
  · refine (same .sto (by decide)).trans ?_
    exact (entered .sto (by decide)).trans sto
  · rw [parts, cvy]
    rfl
  · rw [parts, cvy]
    rfl
  · rw [parts, cvy]
    rfl
  · rw [parts, dtag, self]
  · rw [parts, seqr, self]
  · rw [State.mtuHeld_of (same .mtus (by decide))]
    exact held.trans (by rw [State.mtuHeld_of (only .mtus (by decide))])
  · rw [parts, rest' k hk, others k hk]

/-! ### Join (08 R231) -/

/-- From `s` to `u` ranges have been brought for the operation in slot `slot` of record `r`, which remembers them. -/
structure State.brought (r slot : Nat) (s u : State) : Prop where
  only : s.only u [.xl, .cnt, .out, .freeCtr, .tasks]
  others : ∀ q, q ≠ r → u.task q = s.task q
  op : ∀ o, (s.task r).op slot = some o → ∃ g, (u.task r).op slot = some { o with got := g }

theorem State.brought_refl (r slot : Nat) (s : State) : State.brought r slot s s := ⟨State.only_refl s _, fun _ _ => rfl, fun o h => ⟨o.got, h⟩⟩

theorem State.brought_trans {r slot : Nat} {s t u : State} (h : State.brought r slot s t) (g : State.brought r slot t u) : State.brought r slot s u := by
  refine ⟨State.only_trans h.only g.only, fun q hq => (g.others q hq).trans (h.others q hq), fun o ho => ?_⟩
  obtain ⟨x, hx⟩ := h.op o ho
  obtain ⟨y, hy⟩ := g.op _ hx
  exact ⟨y, hy⟩

theorem State.brought_of {r slot : Nat} {s u : State} (h : s.only u [.xl, .cnt, .out, .freeCtr]) : State.brought r slot s u := by
  have tasks : ∀ q, u.task q = s.task q := State.task_of (h .tasks (by decide))
  exact ⟨h.sub, fun q _ => tasks q, fun o ho => ⟨o.got, by rw [tasks]; exact ho⟩⟩

theorem State.brought_modGot (s : State) (r gen slot : Nat) (f : List (Space × Nat × Nat) → List (Space × Nat × Nat)) :
    State.brought r slot s (s.modGot (.op r gen slot) f) := by
  refine ⟨(State.only_modTask s _ _).sub, fun q hq => State.modTask_task_ne s r _ hq, fun o ho => ⟨f o.got, ?_⟩⟩
  have ho' : Tab.get none (s.task r).win slot = some o := ho
  unfold State.modGot
  dsimp only
  rw [State.modTask_task_self, ho']
  show Tab.get none (Tab.set none (s.task r).win slot (some { o with got := f o.got })) slot = _
  exact Tab.get_set_self _ _ _ _

theorem State.brought_fetchPages (r gen slot : Nat) : ∀ (l : List (Space × Nat × Nat)) (s : State) {u : State},
    s.fetchPages (.op r gen slot) l = .ok u → State.brought r slot s u := by
  intro l
  induction l with
  | nil =>
    intro s u h
    exact Prep.ok.inj h ▸ State.brought_refl r slot s
  | cons e l ih =>
    intro s u h
    obtain ⟨sp, a, len⟩ := e
    unfold State.fetchPages at h
    split at h
    · exact nomatch h
    · exact nomatch h
    · next v x hv =>
      refine State.brought_trans (State.brought_of (State.only_tryRange_ok hv).sub) ?_
      split at h
      · exact ih v h
      · split at h
        · exact nomatch h
        · split at h
          · exact nomatch h
          · split at h <;> exact nomatch h
        · next dev x' _ =>
          refine State.brought_trans (State.brought_of (u := ((v.handshakes 4 (dev % 8) 1).send (.deviceRead (dev % 8) dev x' len)).nextFree) ?_)
            (State.brought_trans (State.brought_modGot _ r gen slot fun g => g ++ [(sp, a, len)]) (ih _ h))
          exact State.only_trans (State.only_trans (State.only_handshakes v _ _ _).sub (State.only_send _ _).sub) (State.only_nextFree _).sub
        · exact ih v h

theorem State.brought_prepReads (r gen slot : Nat) : ∀ (l : List (W64 × Nat)) (s : State) {u : State},
    s.prepReads (.op r gen slot) r l = .ok u → State.brought r slot s u := by
  intro l
  induction l with
  | nil =>
    intro s u h
    exact Prep.ok.inj h ▸ State.brought_refl r slot s
  | cons e l ih =>
    intro s u h
    obtain ⟨w, len⟩ := e
    unfold State.prepReads at h
    split at h
    · next v hv =>
      refine State.brought_trans ?_ (ih v h)
      unfold State.prepRead at hv
      split at hv
      · exact nomatch hv
      · split at hv
        · exact nomatch hv
        · split at hv
          · exact nomatch hv
          · exact State.brought_fetchPages r gen slot _ s hv
    · next hn => exact absurd h (hn u)

theorem State.takeUnits_length (n : Nat) (use : UnitUse) : ∀ (k : Nat) (s : State) {us : List Nat} {v : State},
    s.takeUnits n use k = some (us, v) → us.length = k := by
  intro k
  induction k with
  | zero =>
    intro s us v h
    rw [← (Prod.mk.inj (Option.some.inj h)).1]
    rfl
  | succ k ih =>
    intro s us v h
    unfold State.takeUnits at h
    split at h
    · exact absurd h (by simp)
    · split at h
      · exact absurd h (by simp)
      · next us' t ht =>
        rw [← (Prod.mk.inj (Option.some.inj h)).1]
        exact congrArg (· + 1) (ih _ ht)

/-- The convoy buffer of a partition: allocated when its first member joins (08 R232). -/
theorem State.cvyBuffer_spec {s v : State} {n : Nat} (h : s.cvyBuffer n = some v) : s.only v [.parts, .sto] ∧ (v.part n).cvy.units ≠ [] ∧
    (v.part n).cvy.members = (s.part n).cvy.members ∧ ∀ k, k ≠ n → v.part k = s.part k := by
  unfold State.cvyBuffer at h
  split at h
  · obtain ⟨⟨us, t⟩, ht, rfl⟩ := Option.map_eq_some_iff.mp h
    have taken := State.only_takeUnits n .convoy 18 s ht
    have parts : ∀ k, t.part k = s.part k := State.part_of (taken .parts (by decide))
    have length := State.takeUnits_length n .convoy 18 s ht
    dsimp only
    refine ⟨State.only_after (State.only_modPart t n _).sub taken.sub, ?_, ?_, fun k hk => ?_⟩
    · rw [State.modPart_part_self]
      intro e
      rw [show us = [] from e] at length
      exact absurd length (by decide)
    · rw [State.modPart_part_self, parts]
    · rw [State.modPart_part_ne _ _ _ hk, parts]
  · next hu =>
    obtain rfl := Option.some.inj h
    exact ⟨State.only_refl s _, fun e => hu (by rw [e]; rfl), rfl, fun _ _ => rfl⟩

/-- The member that a CVY dispatch becomes. -/
def joinedMember (t : Task) (r slot : Nat) (ss : W64) (scb : Option W64) (tokens joined : Nat) (cb : List (Option Byte)) : Member :=
  { r := r, gen := t.gen, slot := slot, stream := ss, tokens := tokens, next := 0, joined := joined
    cb := match scb with
      | some _ => words64 32 (plain cb)
      | none => t.cb }

/-- The operation of a member that has joined. -/
def Op.joined (o : Op) : Op := { o with phase := .member, got := [] }

/-- A member that has joined, once its constant buffer stands in the convoy buffer. -/
def State.joinedAt (v : State) (r slot n i : Nat) (scb : Option W64) (m : Member) : State :=
  let v := v.bufWrite n (256 * i) ((List.range 32).flatMap fun k => leBytes 8 (m.cb.getD k 0).toNat)
  (((v.countReads ((v.opMtu r slot scb.toList).getD 0) r (scb.toList.map fun c => (c, 256))).modPart n fun p =>
    { p with cvy := { p.cvy with members := Tab.set none p.cvy.members i (some m) } }).nextStamp).modOp r slot Op.joined

theorem Prep.run_at (u : State) (r slot : Nat) (k : State → State) : (Prep.ok u).runOp r slot k = k u := rfl

theorem State.joinMember_eq {s u v : State} {r slot i tokens : Nat} {ss : W64} {scb : Option W64}
    (hp : s.prepReads (.op r (s.task r).gen slot) r (scb.toList.map fun c => (c, 256)) = .ok u)
    (hb : poisonStatus ((scb.map fun c => u.refRead r (c, 256)).getD []) = 0) (hv : u.cvyBuffer (s.task r).part = some v)
    (hi : firstBelow (fun i => (Tab.get none (u.part (s.task r).part).cvy.members i).isNone) 4096 = some i) :
    s.joinMember r slot ss scb tokens = v.joinedAt r slot (s.task r).part i scb
      (joinedMember (s.task r) r slot ss scb tokens v.stamp ((scb.map fun c => u.refRead r (c, 256)).getD [])) := by
  unfold State.joinMember State.opWho
  dsimp only
  rw [hp]
  refine Eq.trans (Prep.run_at u r slot _) ?_
  rw [if_neg (not_not_intro hb), hv]
  rw [hi]
  rfl

theorem State.only_countReads (s : State) (m r : Nat) (l : List (W64 × Nat)) : s.only (s.countReads m r l) [.cnt, .funcs] :=
  State.only_each _ (fun u x => State.only_moved u m r x) _ s

theorem State.joinedAt_spec (v : State) (r slot n i : Nat) (scb : Option W64) (m : Member) :
    v.only (v.joinedAt r slot n i scb m) [.tasks, .parts, .sto, .stamp, .cnt, .funcs] ∧
      Tab.get none ((v.joinedAt r slot n i scb m).part n).cvy.members i = some m ∧
      ((v.joinedAt r slot n i scb m).part n).cvy.units = (v.part n).cvy.units ∧
      (∀ k, k ≠ n → (v.joinedAt r slot n i scb m).part k = v.part k) ∧
      ((v.joinedAt r slot n i scb m).task r).op slot = ((v.task r).op slot).map Op.joined ∧
      (∀ q, q ≠ r → (v.joinedAt r slot n i scb m).task q = v.task q) ∧
      ((v.joinedAt r slot n i scb m).part n).seqr = (v.part n).seqr := by
  unfold State.joinedAt
  dsimp only
  have wrote := State.only_bufWrite n ((List.range 32).flatMap fun k => leBytes 8 (m.cb.getD k 0).toNat) v (256 * i)
  generalize v.bufWrite n (256 * i) ((List.range 32).flatMap fun k => leBytes 8 (m.cb.getD k 0).toNat) = a at *
  have counted := State.only_countReads a ((a.opMtu r slot scb.toList).getD 0) r (scb.toList.map fun c => (c, 256))
  generalize a.countReads ((a.opMtu r slot scb.toList).getD 0) r (scb.toList.map fun c => (c, 256)) = b at *
  have before : v.only b [.sto, .cnt, .funcs] := State.only_after counted.sub wrote.sub
  have parts : ∀ k, b.part k = v.part k := State.part_of (before .parts (by decide))
  have tasks : ∀ q, b.task q = v.task q := State.task_of (before .tasks (by decide))
  have mod := State.only_modPart b n fun p => { p with cvy := { p.cvy with members := Tab.set none p.cvy.members i (some m) } }
  have self := State.modPart_part_self b n fun p => { p with cvy := { p.cvy with members := Tab.set none p.cvy.members i (some m) } }
  have others := fun k (hk : k ≠ n) => State.modPart_part_ne b n (fun p => { p with cvy := { p.cvy with members := Tab.set none p.cvy.members i (some m) } }) hk
  generalize (b.modPart n fun p => { p with cvy := { p.cvy with members := Tab.set none p.cvy.members i (some m) } }) = c at *
  have ctasks : ∀ q, c.nextStamp.task q = v.task q := fun q => by
    rw [State.task_of ((State.only_nextStamp c .tasks (by decide)).trans (mod .tasks (by decide))), tasks]
  have last : c.only (c.nextStamp.modOp r slot Op.joined) [.tasks, .stamp] :=
    State.only_after (State.only_modTask _ _ _).sub (State.only_nextStamp c).sub
  have tparts : ∀ k, (c.nextStamp.modOp r slot Op.joined).part k = c.part k := State.part_of (last .parts (by decide))
  refine ⟨State.only_after last.sub (State.only_after mod.sub before.sub), ?_, ?_, fun k hk => ?_, ?_, fun q hq => ?_, ?_⟩
  · rw [tparts, self]
    exact Tab.get_set_self (none : Option Member) (b.part n).cvy.members i (some m)
  · have units := congrArg (fun p : Part => p.cvy.units) (parts n)
    rw [tparts, self]
    exact units
  · rw [tparts, others k hk, parts]
  · rw [State.modOp_op, ctasks]
  · rw [State.modOp_other _ _ _ _ hq, ctasks]
  · have seqr := congrArg Part.seqr (parts n)
    rw [tparts, self]
    exact seqr

theorem State.convoyJoin_spec {s u v : State} {r slot i n tok : Nat} {o : Op} {ss : W64} {scb : Option W64} {ub uc : Nat}
    (ho : (s.task r).op slot = some o) (hph : o.phase = .joining) (hk : o.kind = .dispatch ss scb ub uc true tok)
    (hst : (s.task r).st = .running) (hn : (s.task r).part = n)
    (hp : s.prepReads (.op r (s.task r).gen slot) r (scb.toList.map fun c => (c, 256)) = .ok u)
    (hb : poisonStatus ((scb.map fun c => u.refRead r (c, 256)).getD []) = 0) (hv : u.cvyBuffer n = some v)
    (hi : firstBelow (fun i => (Tab.get none (u.part n).cvy.members i).isNone) 4096 = some i) :
    ∃ t, exec (.convoyMemberJoin r slot) s = .next t ∧
      Tab.get none (t.part n).cvy.members i =
        some (joinedMember (s.task r) r slot ss scb tok s.stamp ((scb.map fun c => u.refRead r (c, 256)).getD [])) ∧
      (t.task r).op slot = some o.joined ∧ (t.part n).cvy.units ≠ [] ∧ (∀ q, q ≠ r → t.task q = s.task q) ∧ (∀ m, m ≠ n → t.part m = s.part m) ∧
      s.only t [.tasks, .parts, .sto, .xl, .stamp, .cnt, .funcs, .out, .freeCtr] := by
  subst hn
  have run : exec (.convoyMemberJoin r slot) s = done s (s.joinMember r slot ss scb tok) := by
    refine congrArg (done s) ?_
    rw [ho]
    dsimp only
    rw [hph, hk]
    dsimp only
    exact if_pos hst
  have brought := State.brought_prepReads r (s.task r).gen slot _ s hp
  obtain ⟨buffer, units, -, bparts⟩ := State.cvyBuffer_spec hv
  have stamp : v.stamp = s.stamp := (buffer .stamp (by decide)).trans (brought.only .stamp (by decide))
  rw [run, State.joinMember_eq hp hb hv hi, stamp]
  obtain ⟨only, member, kept, parts, op, tasks, -⟩ := State.joinedAt_spec v r slot (s.task r).part i scb
    (joinedMember (s.task r) r slot ss scb tok s.stamp ((scb.map fun c => u.refRead r (c, 256)).getD []))
  generalize v.joinedAt r slot (s.task r).part i scb
    (joinedMember (s.task r) r slot ss scb tok s.stamp ((scb.map fun c => u.refRead r (c, 256)).getD [])) = a at *
  have vtask : ∀ q, v.task q = u.task q := State.task_of (buffer .tasks (by decide))
  obtain ⟨g, hg⟩ := brought.op o ho
  have all : s.only a [.tasks, .parts, .sto, .xl, .stamp, .cnt, .funcs, .out, .freeCtr] :=
    State.only_after only.sub (State.only_after buffer.sub brought.only.sub)
  obtain ⟨t, ht, -, -, same, reach⟩ := done_spec s a
  have tparts : ∀ k, t.part k = a.part k := State.part_of (same .parts (by decide))
  have ttasks : ∀ q, t.task q = a.task q := State.task_of (same .tasks (by decide))
  refine ⟨t, ht, ?_, ?_, ?_, fun q hq => ?_, fun k hk => ?_, reach _ (by decide) all⟩
  · rw [tparts, member]
  · rw [ttasks, op, vtask, hg]
    rfl
  · rw [tparts, kept]
    exact units
  · rw [ttasks, tasks q hq, vtask, brought.others q hq]
  · rw [tparts, parts k hk, bparts k hk, State.part_of (brought.only .parts (by decide))]

/-- Settles O46: a join by `convoyJoin_spec`, an assembly by `convoyAssemble_spec`, the table's bounds by `assemble_spec`. -/
theorem convoys : Obligations.Convoys := by
  intro n r slot i s
  refine ⟨fun o ss scb ub uc tok u v ho hph hk hst hn hp hb hv hi => ?_, fun hr hl => ?_,
    fun x rest m hh hn hr hl hm hf => State.convoyAssemble_spec s n hh hn hr hl hm hf, fun budget fill chunk cmin l h => assemble_spec budget fill chunk cmin l h⟩
  · obtain ⟨t, ht, member, rest⟩ := State.convoyJoin_spec ho hph hk hst hn hp hb hv hi
    refine ⟨t, ht, member.trans ?_, rest⟩
    cases scb <;> rfl
  · have live : (s.part n).cvy.live.isEmpty = false := by
      cases h : (s.part n).cvy.live with
      | nil => exact absurd h hl
      | cons x l => rfl
    refine (congrArg (done s) (if_pos (by simp [hr, live]))).trans (done_parts (State.only_modPart s n _) rfl fun k => ?_)
    rw [State.modPart_part]
    split
    · next h => rw [h]
    · rfl

end Sys2Proof.Machine
end


section
/-! What counting and sampling leave: handshakes of engine ports, objects (13 R364; 16 R436, R439). -/

namespace Sys2Proof.Machine

set_option Elab.async false

/-! ### Handshakes of a channel -/

/-- The handshakes of the channel with key `c` are as they were. -/
def State.handsSame (c : Nat) (s t : State) : Prop := t.hands c = s.hands c

theorem State.handsSame_of_cnt {c : Nat} {s t : State} (h : t.cnt = s.cnt) : State.handsSame c s t := congrArg (fun x : Cnt => Tab.get 0 x.hands c) h

theorem State.handsSame_trans {c : Nat} {s t u : State} (h : State.handsSame c s t) (g : State.handsSame c t u) : State.handsSame c s u :=
  Eq.trans g h

theorem State.handsSame_tickN (c : Nat) (s : State) (e n : Nat) (p : Option Nat) : State.handsSame c s (s.tickN e n p) := by
  unfold State.tickN
  split
  · unfold State.cntRaw State.modCnt
    dsimp only
    split <;> rfl
  · rfl

theorem State.handsSame_tick (c : Nat) (s : State) (e : Nat) (p : Option Nat) : State.handsSame c s (s.tick e p) := State.handsSame_tickN c s e 1 p

theorem State.handsSame_cntRaw (c : Nat) (s : State) (e n : Nat) : State.handsSame c s (s.cntRaw e n) := by
  unfold State.cntRaw State.modCnt
  dsimp only
  split <;> rfl

theorem State.handsSame_handshakes {c : Nat} (s : State) (kind i n : Nat) (h : c ≠ ckey kind i) : State.handsSame c s (s.handshakes kind i n) :=
  Tab.get_set_ne 0 s.cnt.hands _ h

theorem State.handsSame_each {c : Nat} {α : Type} {g : State → α → State} (hg : ∀ u a, State.handsSame c u (g u a)) (l : List α) (s : State) :
    State.handsSame c s (s.each l g) := State.each_keeps (P := State.handsSame c s) (fun u a h => State.handsSame_trans h (hg u a)) l s rfl

/-- The key of a channel of kind 1, 2 or 3: none of a chip fabric port or a host port. -/
def nearKey (c : Nat) : Prop := c < ckey 4 0

theorem ne_ckey_of_near {c kind i : Nat} (h : nearKey c) (hk : 4 ≤ kind) : c ≠ ckey kind i := by
  unfold nearKey ckey at h
  unfold ckey
  omega

theorem State.handsSame_stepSample (c : Nat) (s : State) (e v times n : Nat) : State.handsSame c s (s.stepSample e v times n) := by
  have level : ∀ u : State, State.handsSame c u (u.sampleLevel e v times (some n)) := fun u => by
    unfold State.sampleLevel
    split
    · rfl
    · split
      · exact State.handsSame_cntRaw c u _ _
      · split
        · exact State.handsSame_cntRaw c u _ _
        · rfl
      · rfl
  unfold State.stepSample
  dsimp only
  split
  · split
    · exact State.handsSame_trans rfl (State.handsSame_tick c _ _ _)
    · rfl
  · exact State.handsSame_trans rfl (level _)

section
variable {c : Nat} (hc : nearKey c)
include hc

theorem State.handsSame_sendWrite (s : State) (sp : Space) (data : List (Option Byte)) (l : Loc) : State.handsSame c s (s.sendWrite sp data l) := by
  cases l with
  | host p x => exact State.handsSame_handshakes s 5 p 1 (ne_ckey_of_near hc (by decide))
  | peer q dev x => exact State.handsSame_handshakes s 4 (dev % 8) 1 (ne_ckey_of_near hc (by decide))
  | ws x => rfl
  | pkg x => rfl
  | refused => rfl

theorem State.handsSame_hostWrite (s : State) (sp : Space) (a : Nat) (data : List Byte) : State.handsSame c s (s.hostWrite sp a data) := by
  refine State.handsSame_each (fun u x => ?_) _ s
  split
  · exact State.handsSame_trans (State.handsSame_sendWrite hc u _ _ _) (State.handsSame_of_cnt (State.only_writeRange _ _ _ .cnt (by decide)))
  · rfl

theorem State.handsSame_ownWrite (s : State) (sp : Space) (a : Nat) (l : List Byte) : State.handsSame c s (s.ownWrite sp a l).1 := by
  have put : ∀ u : State, State.handsSame c u (if u.ctxBad sp a l.length = true then (u.ctxRefuse, false) else (u.hostWrite sp a l, true)).1 := by
    intro u
    split
    · rfl
    · exact State.handsSame_hostWrite hc u sp a l
  unfold State.ownWrite
  dsimp only
  split
  · rfl
  · split
    · split
      · exact put s
      · rfl
    · split
      · rfl
      · exact put (s.nextFree.modXl _)

theorem State.handsSame_writeSample (s : State) (g : Tagged) (k : Bool) : State.handsSame c s (s.writeSample g k) := by
  have lost : ∀ u : State, State.handsSame c u u.sampleLost := fun u => State.handsSame_trans rfl (State.handsSame_tick c _ 0x1F1 none)
  unfold State.writeSample
  dsimp only
  split
  · exact lost s
  · split
    · exact lost s
    · next p _ _ =>
      have wrote := State.handsSame_ownWrite hc s
        { port := p, fk := pfKey p, pasid := if bit s.cnt.smpCfg 31 then some (fld s.cnt.smpCfg 51 32) else none }
        ((s.cnt.smpBase &&& ones 63 6).toNat + 64 * (s.cnt.smpTail % 2 ^ fld s.cnt.smpCfg 12 8)) (s.sampleBytes g k)
      split
      · next u hu =>
        rw [hu] at wrote
        exact State.handsSame_trans wrote (lost u)
      · next u hu =>
        rw [hu] at wrote
        exact wrote

theorem State.handsSame_endTags (s : State) (f : Tagged → Bool) (k : Bool) : State.handsSame c s (s.endTags f k) := by
  unfold State.endTags
  dsimp only
  split
  · rfl
  · exact State.handsSame_trans rfl (State.handsSame_each (fun u g => State.handsSame_writeSample hc u g k) _ _)

end

/-! ### Counts and samples -/

/-- From `s` to `t` events have been counted and sample records written; `c` is a channel that takes no part in it. -/
structure State.tallied (c : Nat) (s t : State) : Prop where
  only : s.only t [.cnt, .funcs, .out, .sto, .xl, .freeCtr, .objs]
  objs : s.objsKept t
  hands : State.handsSame c s t

theorem State.tallied_refl (c : Nat) (s : State) : State.tallied c s s := ⟨State.only_refl s _, State.objsKept_refl s, rfl⟩

theorem State.tallied_trans {c : Nat} {s t u : State} (h : State.tallied c s t) (g : State.tallied c t u) : State.tallied c s u :=
  ⟨State.only_trans h.only g.only, State.objsKept_trans h.objs g.objs, State.handsSame_trans h.hands g.hands⟩

theorem State.tallied_tick (c : Nat) (s : State) (e : Nat) (p : Option Nat) : State.tallied c s (s.tick e p) :=
  ⟨(State.only_tick s e p).sub, State.objsKept_of_objs (State.only_tick s e p .objs (by decide)), State.handsSame_tick c s e p⟩

theorem State.only_stepSample' (s : State) (e v times n : Nat) : s.only (s.stepSample e v times n) [.cnt] := by
  unfold State.stepSample
  dsimp only
  refine State.only_ite _ (State.only_ite _ ?_ (State.only_modCnt s _)) ?_
  · exact State.only_after (State.only_tick _ _ _) (State.only_modCnt s _)
  · exact State.only_after (State.only_sampleLevel _ _ _ _ _) (State.only_modCnt s _)

theorem State.tallied_stepSample (c : Nat) (s : State) (e v times n : Nat) : State.tallied c s (s.stepSample e v times n) :=
  ⟨(State.only_stepSample' s e v times n).sub, State.objsKept_of_objs (State.only_stepSample' s e v times n .objs (by decide)),
    State.handsSame_stepSample c s e v times n⟩

theorem State.tallied_vfTick (c : Nat) (s : State) (fk i n : Nat) : State.tallied c s (s.vfTick fk i n) :=
  ⟨(State.only_vfTick s fk i n).sub, State.objsKept_of_objs (State.only_vfTick s fk i n .objs (by decide)),
    State.handsSame_of_cnt (State.only_vfTick s fk i n .cnt (by decide))⟩

theorem State.tallied_endTags {c : Nat} (hc : nearKey c) (s : State) (f : Tagged → Bool) (k : Bool) : State.tallied c s (s.endTags f k) :=
  ⟨(State.only_endTags s f k).sub, State.objsKept_endTags s f k, State.handsSame_endTags hc s f k⟩

/-- What is counted when a bundle is complete (01 R30; 16 R432, R436). -/
theorem State.tallied_bundleDone {c : Nat} (hc : nearKey c) (s : State) (n i pos : Nat) : State.tallied c s (s.bundleDone n i pos) := by
  unfold State.bundleDone
  split
  · exact State.tallied_refl c s
  · next d hd =>
    split
    · exact State.tallied_refl c s
    · next b hb =>
      split
      · exact State.tallied_refl c s
      · exact State.tallied_trans (State.tallied_trans (State.tallied_trans (State.tallied_stepSample c s 0x0E2 (b.occC / d.nports) b.count n)
          (State.tallied_stepSample c _ 0x0E3 (b.occM / d.nports) b.count n)) (State.tallied_vfTick c _ _ 5 b.count)) (State.tallied_endTags hc _ _ false)

end Sys2Proof.Machine
end


section
/-! Dispatches that complete (07 R203, R204; 08 R239). -/

namespace Sys2Proof.Machine

set_option Elab.async false

/-! ### An operation that completes -/

/-- The parts that the completion of operations may reach. -/
def opDoneParts : List Field := [.tasks, .stamp, .cnt, .out, .sto, .xl, .freeCtr, .objs, .wps]

theorem State.only_completeOp (s : State) (r slot : Nat) (posts : List (Nat × W64)) : s.only (s.completeOp r slot posts) opDoneParts :=
  State.only_trans (State.only_mono (State.only_finishOp s r slot posts) (by decide)) (State.only_mono (State.only_light _ r) (by decide))

theorem State.completeOp_other (s : State) (r slot : Nat) (posts : List (Nat × W64)) {q : Nat} (h : q ≠ r) :
    (s.completeOp r slot posts).task q = s.task q := (State.light_other _ r h).trans (State.finishOp_other s r slot posts h)

/-- A task whose operation has completed, but for its lantern. -/
theorem State.completeOp_task (s : State) (r slot : Nat) (posts : List (Nat × W64)) :
    ∃ l, (s.completeOp r slot posts).task r = { (s.task r).finished slot s.stamp posts with lit := l } := by
  unfold State.completeOp
  have h := State.finishOp_task s r slot posts
  generalize s.finishOp r slot posts = a at *
  rw [State.light_eq]
  split
  · exact ⟨_, (State.lit_task a r).trans (by rw [h])⟩
  · exact ⟨((s.task r).finished slot s.stamp posts).lit, h⟩

theorem State.completeOp_op (s : State) (r slot : Nat) (posts : List (Nat × W64)) : ((s.completeOp r slot posts).task r).op slot = none := by
  obtain ⟨l, hl⟩ := State.completeOp_task s r slot posts
  rw [hl]
  exact (Task.finished_op (s.task r) slot s.stamp posts slot).trans (if_pos rfl)

/-- No completion fills a slot. -/
theorem State.completeOp_none (s : State) (r slot : Nat) (posts : List (Nat × W64)) (q k : Nat) (h : (s.task q).op k = none) :
    ((s.completeOp r slot posts).task q).op k = none := by
  by_cases hq : q = r
  · subst hq
    obtain ⟨l, hl⟩ := State.completeOp_task s q slot posts
    rw [hl]
    refine (Task.finished_op (s.task q) slot s.stamp posts k).trans ?_
    split
    · rfl
    · rw [h]
      rfl
  · rw [State.completeOp_other s r slot posts hq]
    exact h

theorem State.completeOp_gen (s : State) (r slot : Nat) (posts : List (Nat × W64)) (q : Nat) : ((s.completeOp r slot posts).task q).gen = (s.task q).gen := by
  by_cases hq : q = r
  · subst hq
    obtain ⟨l, hl⟩ := State.completeOp_task s q slot posts
    rw [hl]
    rfl
  · rw [State.completeOp_other s r slot posts hq]

/-! ### A convoy that completes (08 R239) -/

theorem mem_insertTurn (key : Entry → Nat) (e x : Entry) : ∀ l : List Entry, x ∈ insertTurn key e l ↔ x = e ∨ x ∈ l
  | [] => by simp [insertTurn]
  | y :: l => by
    unfold insertTurn
    split
    · rw [List.mem_cons, mem_insertTurn key e x l, List.mem_cons]
      tauto
    · rw [List.mem_cons]

/-- Members that complete together are taken in turn, and all of them. -/
theorem mem_foldl_insertTurn (key : Entry → Nat) (x : Entry) : ∀ (l a : List Entry),
    x ∈ l.foldl (fun a e => insertTurn key e a) a ↔ x ∈ a ∨ x ∈ l
  | [], a => by simp
  | e :: l, a => by
    rw [List.foldl_cons, mem_foldl_insertTurn key x l, mem_insertTurn, List.mem_cons]
    tauto

theorem State.mem_inTurn (s : State) (n : Nat) (l : List Entry) (x : Entry) : x ∈ s.inTurn n l ↔ x ∈ l := by
  unfold State.inTurn
  rw [mem_foldl_insertTurn]
  simp

/-- The members of a convoy as its completion leaves them: those that left it, or whose last entry it carried, are gone. -/
def membersAfter (es : List Entry) (l : Tab (Option Member)) : Tab (Option Member) := l.filter fun e => match e.2 with
  | some m => !(m.gone && es.any fun x => x.mslot == e.1) && !((es.filter (·.last)).any fun x => x.mslot == e.1)
  | none => false

theorem Tab.get_of_no_key {α : Type} (d : α) (k : Nat) : ∀ t : Tab α, (∀ e ∈ t, e.1 ≠ k) → Tab.get d t k = d
  | [], _ => rfl
  | (i, a) :: t, h => by
    have hi : i ≠ k := h (i, a) List.mem_cons_self
    have rest := Tab.get_of_no_key d k t fun e he => h e (List.mem_cons_of_mem _ he)
    unfold Tab.get at rest ⊢
    unfold Tab.find?
    rw [if_neg hi]
    exact rest

theorem membersAfter_get {es : List Entry} {e : Entry} (he : e ∈ es) (hl : e.last = true) (l : Tab (Option Member)) :
    Tab.get none (membersAfter es l) e.mslot = none := by
  refine Tab.get_of_no_key none e.mslot _ fun x hx hk => ?_
  have keep := (List.mem_filter.mp hx).2
  have hit : ((es.filter (·.last)).any fun y => y.mslot == x.1) = true :=
    List.any_eq_true.mpr ⟨e, List.mem_filter.mpr ⟨he, hl⟩, by simp [hk]⟩
  cases hm : x.2 with
  | none =>
    rw [hm] at keep
    exact absurd keep (by simp)
  | some m =>
    rw [hm] at keep
    simp [hit] at keep

/-- A partition whose convoy has completed. -/
def Part.convoyEnded (p : Part) (c : Cvy) (es : List Entry) : Part :=
  let p := { p with cvy := { c with members := membersAfter es c.members, run := none, hold := !(membersAfter es c.members).isEmpty } }
  if c.wload && p.jobWset != 0 then { p with wsValid := true, wsVf := p.schVf, wsTag := p.jobWset } else p

/-- The member of an entry completes where it has not left. -/
def memberDone (l : Tab (Option Member)) (u : State) (e : Entry) : State := match Tab.get none l e.mslot with
  | some m => if !m.gone && (u.task m.r).gen == m.gen then u.completeOp m.r m.slot [] else u
  | none => u

/-- The loop's values after a convoy. -/
def State.measured (s : State) (n : Nat) (d : Disp) : Cvy :=
  let ports := ((s.portsOf n).filter fun k => (s.eport k).usable).length
  if (s.part n).cvy.restart then (s.part n).cvy else (s.part n).cvy.update (occOf d.occC ports d.steps) (occOf d.occM ports d.steps)

/-- The state in which the members of a convoy complete. -/
def State.convoyCounted (s : State) (n : Nat) (d : Disp) : State :=
  let es := (s.part n).cvy.run.getD []
  let toks := (es.map (·.ntok)).sum
  (((s.modPart n fun p => p.convoyEnded (s.measured n d) es).tick 0x030 (some n)).tickN 0x031 toks (some n)).vfTick (s.part n).schVf 8 toks

theorem State.convoyDone_eq (s : State) (n : Nat) (d : Disp) : s.convoyDone n d =
    ((s.convoyCounted n d).passTurn n ((s.convoyCounted n d).inTurn n (((s.part n).cvy.run.getD []).filter (·.last)))).each
      ((s.convoyCounted n d).inTurn n (((s.part n).cvy.run.getD []).filter (·.last))) (memberDone (s.part n).cvy.members) := rfl

theorem Cvy.update_members (c : Cvy) (x y : Nat) : (c.update x y).members = c.members := by
  unfold Cvy.update
  dsimp only
  split <;> rfl

theorem State.measured_members (s : State) (n : Nat) (d : Disp) : (s.measured n d).members = (s.part n).cvy.members := by
  unfold State.measured
  dsimp only
  split
  · rfl
  · exact Cvy.update_members _ _ _

theorem Part.convoyEnded_fields (p : Part) (c : Cvy) (es : List Entry) : (p.convoyEnded c es).seqr = p.seqr ∧ (p.convoyEnded c es).cvy.run = none ∧
    (p.convoyEnded c es).cvy.members = membersAfter es c.members := by
  unfold Part.convoyEnded
  dsimp only
  split <;> exact ⟨rfl, rfl, rfl⟩

theorem State.only_passTurn (s : State) (n : Nat) (l : List Entry) : s.only (s.passTurn n l) [.parts] := by
  unfold State.passTurn
  split
  · exact State.only_modPart s n _
  · exact State.only_refl s _

theorem State.passTurn_part (s : State) (n : Nat) (l : List Entry) : ∃ x, (s.passTurn n l).part n = { s.part n with rtTurn := x } := by
  unfold State.passTurn
  split
  · exact ⟨_, State.modPart_part_self s n _⟩
  · exact ⟨(s.part n).rtTurn, rfl⟩

theorem State.only_memberDone (l : Tab (Option Member)) (s : State) (e : Entry) : s.only (memberDone l s e) opDoneParts := by
  unfold memberDone
  split
  · exact State.only_ite _ (State.only_completeOp s _ _ _) (State.only_refl s _)
  · exact State.only_refl s _

/-- The parts that a completing convoy may reach. -/
def convoyDoneParts : List Field := .parts :: .funcs :: opDoneParts

/-- A convoy that completes: its members whose last entry it carried are gone, and their operations have completed. -/
theorem State.convoyDone_spec (s : State) (n : Nat) (d : Disp) :
    s.only (s.convoyDone n d) convoyDoneParts ∧ ((s.convoyDone n d).part n).seqr = (s.part n).seqr ∧ ((s.convoyDone n d).part n).cvy.run = none ∧
      ∀ es, (s.part n).cvy.run = some es → ∀ e ∈ es, e.last = true → Tab.get none ((s.convoyDone n d).part n).cvy.members e.mslot = none ∧
        ∀ m, Tab.get none (s.part n).cvy.members e.mslot = some m → m.gone = false → (s.task m.r).gen = m.gen →
          ((s.convoyDone n d).task m.r).op m.slot = none := by
  rw [State.convoyDone_eq]
  have members := State.measured_members s n d
  have counted : s.only (s.convoyCounted n d) [.parts, .cnt, .funcs] :=
    State.only_after (State.only_vfTick _ _ _ _).sub (State.only_after (State.only_tickN _ _ _ _).sub
      (State.only_after (State.only_tick _ _ _).sub (State.only_modPart s n _).sub))
  have part : (s.convoyCounted n d).part n = (s.part n).convoyEnded (s.measured n d) ((s.part n).cvy.run.getD []) := by
    unfold State.convoyCounted
    dsimp only
    rw [State.part_of (State.only_vfTick _ _ _ _ .parts (by decide)), State.part_of (State.only_tickN _ _ _ _ .parts (by decide)),
      State.part_of (State.only_tick _ _ _ .parts (by decide)), State.modPart_part_self]
  obtain ⟨seqr, run, after⟩ := Part.convoyEnded_fields (s.part n) (s.measured n d) ((s.part n).cvy.run.getD [])
  rw [← part] at seqr run after
  generalize s.convoyCounted n d = a at *
  have order : ∀ x, x ∈ a.inTurn n (((s.part n).cvy.run.getD []).filter (·.last)) ↔ x ∈ ((s.part n).cvy.run.getD []).filter (·.last) :=
    State.mem_inTurn a n _
  generalize a.inTurn n (((s.part n).cvy.run.getD []).filter (·.last)) = l at *
  have passed := State.only_passTurn a n l
  obtain ⟨x, turn⟩ := State.passTurn_part a n l
  generalize a.passTurn n l = b at *
  have gone : b.only (b.each l (memberDone (s.part n).cvy.members)) opDoneParts := State.only_each _ (fun u e => State.only_memberDone _ u e) l b
  have parts : ∀ k, (b.each l (memberDone (s.part n).cvy.members)).part k = b.part k := State.part_of (gone .parts (by decide))
  have tasks : ∀ q, b.task q = s.task q := fun q => State.task_of ((passed .tasks (by decide)).trans (counted .tasks (by decide))) q
  refine ⟨State.only_trans (State.only_mono counted (by decide)) (State.only_trans (State.only_mono passed (by decide)) (State.only_mono gone (by decide))),
    ?_, ?_, fun es hes e he hl => ⟨?_, fun m hm hg hgen => ?_⟩⟩
  · rw [parts, turn]
    exact seqr
  · rw [parts, turn]
    exact run
  · rw [parts, turn]
    show Tab.get none (a.part n).cvy.members e.mslot = none
    rw [after, hes]
    exact membersAfter_get he hl _
  · have inside : e ∈ l := (order e).mpr (by rw [hes]; exact List.mem_filter.mpr ⟨he, hl⟩)
    refine State.each_ends (I := fun u => (u.task m.r).gen = m.gen) (P := fun u => (u.task m.r).op m.slot = none) inside
      (fun u y h => ?_) (fun u h => ?_) (fun u y h => ?_) b ((congrArg Task.gen (tasks m.r)).trans hgen)
    · unfold memberDone
      split
      · split
        · exact (State.completeOp_gen u _ _ _ _).trans h
        · exact h
      · exact h
    · unfold memberDone
      rw [hm]
      dsimp only
      rw [if_pos (by simp [hg, h])]
      exact State.completeOp_op u m.r m.slot []
    · unfold memberDone
      split
      · split
        · exact State.completeOp_none u _ _ _ _ _ h
        · exact h
      · exact h

end Sys2Proof.Machine
end


section
/-! Return messages of a live dispatch (07 R195, R197 to R205). -/

namespace Sys2Proof.Machine

set_option Elab.async false

/-! ### The dispatch that a message names -/

theorem modAt_const {α : Type} (g : α → α) : ∀ (i : Nat) (l : List α) (d : α), l[i]? = some d → modAt g i l = modAt (fun _ => g d) i l
  | _, [], _, h => absurd h (by simp)
  | 0, a :: l, d, h => by
    have e : a = d := by simpa using h
    subst e
    rfl
  | i + 1, a :: l, d, h => congrArg (a :: ·) (modAt_const g i l d (by simpa using h))

theorem modAt_get {α : Type} (g : α → α) : ∀ (i : Nat) (l : List α) (d : α), l[i]? = some d → (modAt g i l)[i]? = some (g d)
  | _, [], _, h => absurd h (by simp)
  | 0, a :: l, d, h => by
    have e : a = d := by simpa using h
    subst e
    rfl
  | i + 1, a :: l, d, h => by
    show (modAt g i l)[i]? = some (g d)
    exact modAt_get g i l d (by simpa using h)

theorem modAt_modAt_const {α : Type} (a b : α) : ∀ (i : Nat) (l : List α), modAt (fun _ => b) i (modAt (fun _ => a) i l) = modAt (fun _ => b) i l
  | 0, [] => rfl
  | _ + 1, [] => rfl
  | 0, _ :: _ => rfl
  | i + 1, x :: l => congrArg (x :: ·) (modAt_modAt_const a b i l)

theorem modAt_map {α β : Type} (f : α → β) (a d : α) (h : f a = f d) : ∀ (i : Nat) (l : List α), l[i]? = some d →
    (modAt (fun _ => a) i l).map f = l.map f
  | _, [], e => absurd e (by simp)
  | 0, x :: l, e => by
    have hx : x = d := by simpa using e
    subst hx
    show f a :: l.map f = f x :: l.map f
    rw [h]
  | i + 1, x :: l, e => congrArg (f x :: ·) (modAt_map f a d h i l (by simpa using e))

theorem modAt_same {α : Type} (d : α) : ∀ (i : Nat) (l : List α), l[i]? = some d → modAt (fun _ => d) i l = l
  | _, [], e => absurd e (by simp)
  | 0, x :: l, e => by
    have hx : x = d := by simpa using e
    subst hx
    rfl
  | i + 1, x :: l, e => congrArg (x :: ·) (modAt_same d i l (by simpa using e))

theorem State.matchRet_some {s : State} {k n i : Nat} {g : Tag} {d : Disp} {l : LPort} (h : s.matchRet k g = some (n, i, d, l)) :
    s.portPart k = some n ∧ (s.part n).seqr[i]? = some d ∧ d.lport k = some l ∧ (d.running || d.stopping) = true := by
  unfold State.matchRet at h
  split at h
  · exact absurd h (by simp)
  · next m hm =>
    split at h
    · exact absurd h (by simp)
    · split at h
      · exact absurd h (by simp)
      · next j hj =>
        split at h
        · exact absurd h (by simp)
        · next x hx =>
          obtain ⟨y, hy, e⟩ := Option.map_eq_some_iff.mp h
          obtain ⟨rfl, rfl, rfl, rfl⟩ : m = n ∧ j = i ∧ x = d ∧ y = l := by simpa using e
          refine ⟨hm, hx, hy, ?_⟩
          obtain ⟨hlt, pred, -⟩ := List.findIdx?_eq_some_iff_getElem.mp hj
          have at' : (s.part m).seqr[j] = x := by
            have := List.getElem?_eq_getElem hlt
            rw [this] at hx
            exact Option.some.inj hx
          rw [at'] at pred
          exact (Bool.and_eq_true_iff.mp pred).1

/-- The partition of a port names one of the 64 ports. -/
theorem State.portPart_lt {s : State} {k n : Nat} (h : s.portPart k = some n) : k < 64 := by
  unfold State.portPart at h
  have found : (s.enabled n && bit (s.part n).engines k) = true :=
    List.find?_some (p := fun n => s.enabled n && bit (s.part n).engines k) h
  have named := (Bool.and_eq_true_iff.mp found).2
  refine Nat.lt_of_not_le fun hk => ?_
  have few : (s.part n).engines.toNat < 2 ^ k := Nat.lt_of_lt_of_le (s.part n).engines.isLt (Nat.pow_le_pow_right (by decide) hk)
  exact absurd named (ne_true_of_eq_false (Nat.testBit_lt_two_pow few))

theorem nearKey_port {k : Nat} (h : k < 64) : nearKey (ckey 1 k) := by
  unfold nearKey ckey
  omega

/-! ### A message that has been taken -/

/-- The parts that taking a message may reach while the dispatch goes on. -/
def heardParts : List Field := [.parts, .ports, .cnt, .funcs, .out, .sto, .xl, .freeCtr, .objs]

/-- From `s` to `u` message `msg` of port `k` has been taken: `c` credits have returned, and dispatch `i` of partition `n` is `d'`. -/
structure State.noted (k n i c : Nat) (msg : W128) (d' : Disp) (s u : State) : Prop where
  self : u.eport k = { s.eport k with lastRet := msg, held := (s.eport k).held - c }
  others : ∀ q, q ≠ k → u.eport q = s.eport q
  hands : u.hands (ckey 1 k) = (s.hands (ckey 1 k) + 1) % 2 ^ 32
  part : u.part n = { s.part n with seqr := modAt (fun _ => d') i (s.part n).seqr }
  parts : ∀ m, m ≠ n → u.part m = s.part m
  only : s.only u heardParts
  objs : s.objsKept u

theorem State.noted_arrived (s : State) {k n i : Nat} (msg : W128) {d : Disp} (hd : (s.part n).seqr[i]? = some d) :
    State.noted k n i 0 msg d s (s.arrived k msg) := by
  have only := State.only_arrived s k msg
  have port := State.eport_arrived s k msg
  have part : ∀ m, (s.arrived k msg).part m = s.part m := State.part_of (only .parts (by decide))
  refine ⟨?_, fun q hq => ?_, State.handshakes_hands_self s 1 k 1, ?_, fun m _ => part m, only.sub, State.objsKept_of_objs (only .objs (by decide))⟩
  · rw [port, if_pos rfl]
    rfl
  · rw [port, if_neg hq]
  · rw [part, modAt_same d i _ hd]

/-- Credits return with a message. -/
theorem State.noted_credit {k n i : Nat} {msg : W128} {d : Disp} {s u : State} (h : State.noted k n i 0 msg d s u) (c : Nat) :
    State.noted k n i c msg d s (u.modPort k fun e => { e with held := e.held - c }) := by
  have port := State.modPort_eport u k fun e => { e with held := e.held - c }
  refine ⟨?_, fun q hq => ?_, h.hands, h.part, h.parts, State.only_after (State.only_modPort u k _).sub h.only,
    State.objsKept_trans h.objs (State.objsKept_of_objs rfl)⟩
  · rw [port, if_pos rfl, h.self]
    rfl
  · rw [port, if_neg hq, h.others q hq]

/-- The dispatch takes note of a message. -/
theorem State.noted_modDisp {k n i c : Nat} {msg : W128} {d d' : Disp} {s u : State} (h : State.noted k n i c msg d' s u)
    (hd : (s.part n).seqr[i]? = some d) (g : Disp → Disp) : State.noted k n i c msg (g d') s (u.modDisp n i g) := by
  have self := State.modPart_part_self u n fun p => { p with seqr := modAt g i p.seqr }
  have stands : (modAt (fun _ => d') i (s.part n).seqr)[i]? = some d' := modAt_get (fun _ => d') i _ d hd
  refine ⟨h.self, h.others, h.hands, ?_, fun m hm => (State.modPart_part_ne u n _ hm).trans (h.parts m hm),
    State.only_after (State.only_modPart u n _).sub h.only, State.objsKept_trans h.objs (State.objsKept_of_objs rfl)⟩
  unfold State.modDisp
  rw [self, h.part, modAt_const g i _ d' stands, modAt_modAt_const]

/-- What is counted and sampled beside a message. -/
theorem State.noted_tallied {k n i c : Nat} {msg : W128} {d : Disp} {s u v : State} (h : State.noted k n i c msg d s u)
    (g : State.tallied (ckey 1 k) u v) : State.noted k n i c msg d s v := by
  have ports : ∀ q, v.eport q = u.eport q := State.eport_of (g.only .ports (by decide))
  have parts : ∀ m, v.part m = u.part m := State.part_of (g.only .parts (by decide))
  exact ⟨(ports k).trans h.self, fun q hq => (ports q).trans (h.others q hq), Eq.trans g.hands h.hands, (parts n).trans h.part,
    fun m hm => (parts m).trans (h.parts m hm), State.only_after g.only.sub h.only, State.objsKept_trans h.objs g.objs⟩

/-- A message of a live dispatch acts, unless the dispatch does not expect it (07 R199). -/
theorem State.onReturn_live {s : State} {k n i : Nat} {g : Tag} {d : Disp} {l : LPort} (msg : W128)
    (f : State → Nat → Nat → Disp → LPort → Option State) (hr : (s.eport k).retired = false) (hm : s.matchRet k g = some (n, i, d, l)) {t : State}
    (hf : f (s.arrived k msg) n i d l = some t) : s.onReturn k g msg f = t := by
  unfold State.onReturn
  rw [if_neg (ne_true_of_eq_false hr)]
  have named : (s.arrived k msg).matchRet k g = some (n, i, d, l) := (State.matchRet_arrived s k msg g).trans hm
  unfold State.arrived at named hf
  dsimp only
  rw [named]
  dsimp only
  rw [hf]
  rfl

/-! ### Completion (07 R203, R204) -/

/-- What decides of a dispatch's place: its tag, and whether it has drained. -/
def Disp.face (d : Disp) : Nat × Bool := (d.dtag, d.drained)

/-- From `s` to `t` no dispatch of partition `n` has come, gone or drained. -/
def State.faced (n : Nat) (s t : State) : Prop := (t.part n).seqr.map Disp.face = (s.part n).seqr.map Disp.face

theorem State.faced_trans {n : Nat} {s t u : State} (h : State.faced n s t) (g : State.faced n t u) : State.faced n s u := Eq.trans g h

theorem State.faced_of_parts {n : Nat} {s t : State} (h : t.parts = s.parts) : State.faced n s t := by
  unfold State.faced
  rw [State.part_of h]

theorem modAt_map_of {α β : Type} (f : α → β) (g : α → α) (h : ∀ a, f (g a) = f a) : ∀ (i : Nat) (l : List α), (modAt g i l).map f = l.map f
  | 0, [] => rfl
  | _ + 1, [] => rfl
  | 0, a :: l => by
    show f (g a) :: l.map f = f a :: l.map f
    rw [h]
  | i + 1, a :: l => congrArg (f a :: ·) (modAt_map_of f g h i l)

theorem State.faced_modDisp (s : State) (n i : Nat) (g : Disp → Disp) (h : ∀ d, (g d).face = d.face) : State.faced n s (s.modDisp n i g) := by
  unfold State.faced State.modDisp
  rw [State.modPart_part_self]
  exact modAt_map_of Disp.face g h i _

/-- A port of a dispatch that has its constant buffer. -/
def LPort.buffered (k : Nat) (l : LPort) : LPort := if l.port = k then { l with cb := true } else l

theorem Disp.face_buffered (d : Disp) (k : Nat) : ({ d with lps := d.lps.map (LPort.buffered k) } : Disp).face = d.face := by
  unfold Disp.face Disp.drained
  have same : ((d.lps.map (LPort.buffered k)).all fun l => l.wdone && l.acked) = d.lps.all fun l => l.wdone && l.acked := by
    rw [List.all_map]
    refine congrArg (fun f => d.lps.all f) (funext fun l => ?_)
    show ((l.buffered k).wdone && (l.buffered k).acked) = (l.wdone && l.acked)
    unfold LPort.buffered
    split <;> rfl
  rw [same]

theorem State.faced_each {α : Type} {n : Nat} {g : State → α → State} (hg : ∀ u a, State.faced n u (g u a)) (l : List α) (s : State) :
    State.faced n s (s.each l g) := State.each_keeps (P := State.faced n s) (fun u a h => State.faced_trans h (hg u a)) l s rfl

theorem State.faced_sendCbuf (s : State) (n i k : Nat) : State.faced n s (s.sendCbuf n i k) := by
  unfold State.sendCbuf
  split
  · rfl
  · refine State.faced_trans ?_ (State.faced_each (fun u w => State.faced_of_parts (State.only_forwards u _ _ _ _ _ _ .parts (by decide))) _ _)
    exact State.faced_modDisp s n i _ fun d => Disp.face_buffered d k

theorem State.faced_runNext (s : State) (n : Nat) : State.faced n s (s.runNext n) := by
  unfold State.runNext
  split
  · rfl
  · split
    · rfl
    · next i hi =>
      exact State.faced_trans (State.faced_modDisp s n i (fun d => { d with running := true }) fun d => rfl)
        (State.faced_each (fun u (l : LPort) => State.faced_sendCbuf u n i l.port) _ _)

end Sys2Proof.Machine
end


section
/-! A dispatch that completes, and return messages (07 R195, R197 to R205; 08 R239). -/

namespace Sys2Proof.Machine

set_option Elab.async false

/-! ### A dispatch that completes (07 R203, R204) -/

theorem eraseIdx_modAt {α : Type} (g : α → α) : ∀ (i : Nat) (l : List α), (modAt g i l).eraseIdx i = l.eraseIdx i
  | 0, [] => rfl
  | _ + 1, [] => rfl
  | 0, _ :: _ => rfl
  | i + 1, a :: l => congrArg (a :: ·) (eraseIdx_modAt g i l)

theorem State.finishDisp_of_unfinished {s : State} {n i : Nat} {d : Disp} (hd : (s.part n).seqr[i]? = some d) (h : d.finished = false) :
    s.finishDisp n i = s := by
  unfold State.finishDisp
  rw [hd]
  dsimp only
  rw [h]
  rfl

/-- The owner of a dispatch that has completed goes on. -/
def State.ownerDone (s : State) (n : Nat) (d : Disp) : State := match d.owner with
  | .task r gen slot =>
    if (s.task r).gen = gen then s.completeOp r slot ((((s.task r).op slot).map fun (o : Op) => o.kind.sumPosts d.acc).getD []) else s.mismatch
  | .convoy => s.convoyDone n d

theorem State.finishDisp_of_finished {s : State} {n i : Nat} {d : Disp} (hd : (s.part n).seqr[i]? = some d) (h : d.finished = true) :
    s.finishDisp n i = (((s.modPart n fun p => { p with seqr := p.seqr.eraseIdx i }).modMtu d.mtu (· - 1)).ownerDone n d).runNext n := by
  unfold State.finishDisp
  rw [hd]
  dsimp only
  rw [h]
  rfl

/-- The summaries posted to a task's values. -/
def postAll (u : Tab W64) (l : List (Nat × W64)) : Tab W64 := l.foldl (fun u p => Tab.set 0 u p.1 p.2) u

/-- From `s` to `t` dispatch `d` of partition `n`, at position `i`, has completed. -/
structure State.completed (n i : Nat) (d : Disp) (s t : State) : Prop where
  mtu : t.mtuHeld d.mtu = s.mtuHeld d.mtu - 1
  seqr : (t.part n).seqr.map Disp.face = ((s.part n).seqr.eraseIdx i).map Disp.face
  convoy : d.owner = .convoy → (t.part n).cvy.run = none ∧ ∀ es, (s.part n).cvy.run = some es → ∀ e ∈ es, e.last = true →
    Tab.get none (t.part n).cvy.members e.mslot = none ∧
    ∀ m, Tab.get none (s.part n).cvy.members e.mslot = some m → m.gone = false → (s.task m.r).gen = m.gen → (t.task m.r).op m.slot = none
  task : ∀ r gen slot o, d.owner = .task r gen slot → (s.task r).gen = gen → (s.task r).op slot = some o → (t.task r).op slot = none ∧
    (t.task r).ctx = { (s.task r).ctx with u := postAll (s.task r).ctx.u (o.kind.sumPosts d.acc) }

/-- What follows in the sequencer, and the end of the command, leave a completed dispatch completed. -/
theorem State.completed_then {n i : Nat} {d : Disp} {s t u : State} (h : State.completed n i d s t) (ht : u.tasks = t.tasks) (hm : u.mtus = t.mtus)
    (hf : State.faced n t u) (hc : (u.part n).cvy = (t.part n).cvy) : State.completed n i d s u := by
  have tasks := State.task_of ht
  refine ⟨(State.mtuHeld_of hm d.mtu).trans h.mtu, Eq.trans hf h.seqr, fun ho => ?_, fun r gen slot o ho hg hs => ?_⟩
  · rw [hc]
    obtain ⟨run, each⟩ := h.convoy ho
    refine ⟨run, fun es hes e he hl => ?_⟩
    obtain ⟨gone, ops⟩ := each es hes e he hl
    exact ⟨gone, fun m hm' hg hgen => by rw [tasks]; exact ops m hm' hg hgen⟩
  · rw [tasks]
    exact h.task r gen slot o ho hg hs

/-- The owner of a dispatch goes on, and the dispatches stay. -/
theorem State.ownerDone_spec (s : State) (n : Nat) (d : Disp) : (s.ownerDone n d).mtus = s.mtus ∧ ((s.ownerDone n d).part n).seqr = (s.part n).seqr ∧
    (d.owner = .convoy → ((s.ownerDone n d).part n).cvy.run = none ∧ ∀ es, (s.part n).cvy.run = some es → ∀ e ∈ es, e.last = true →
      Tab.get none ((s.ownerDone n d).part n).cvy.members e.mslot = none ∧ ∀ m, Tab.get none (s.part n).cvy.members e.mslot = some m →
        m.gone = false → (s.task m.r).gen = m.gen → ((s.ownerDone n d).task m.r).op m.slot = none) ∧
    ∀ r gen slot o, d.owner = .task r gen slot → (s.task r).gen = gen → (s.task r).op slot = some o → ((s.ownerDone n d).task r).op slot = none ∧
      ((s.ownerDone n d).task r).ctx = { (s.task r).ctx with u := postAll (s.task r).ctx.u (o.kind.sumPosts d.acc) } := by
  unfold State.ownerDone
  cases ho : d.owner with
  | convoy =>
    dsimp only
    obtain ⟨only, seqr, run, ends⟩ := State.convoyDone_spec s n d
    exact ⟨only .mtus (by decide), seqr, fun _ => ⟨run, ends⟩, fun r gen slot o h => (nomatch h)⟩
  | task r gen slot =>
    dsimp only
    split
    · next hg =>
      have only := State.only_completeOp s r slot ((((s.task r).op slot).map fun (o : Op) => o.kind.sumPosts d.acc).getD [])
      refine ⟨only .mtus (by decide), by rw [State.part_of (only .parts (by decide))], fun h => (nomatch h), fun r' gen' slot' o h hg' hs => ?_⟩
      cases h
      refine ⟨State.completeOp_op s r slot _, ?_⟩
      obtain ⟨l, hl⟩ := State.completeOp_task s r slot ((((s.task r).op slot).map fun (o : Op) => o.kind.sumPosts d.acc).getD [])
      rw [hl, hs]
      rfl
    · next hg =>
      have only : s.only s.mismatch [.cnt] := State.only_tick s 0x013 none
      exact ⟨only .mtus (by decide), by rw [State.part_of (only .parts (by decide))], fun h => (nomatch h), fun r' gen' slot' o h hg' hs => absurd (by cases h; exact hg') hg⟩

theorem State.sequenced_cvy {n : Nat} {s t : State} (h : State.sequenced n s t) : (t.part n).cvy = (s.part n).cvy := by
  have e := congrArg Part.cvy h.part
  exact e

theorem State.completed_finishDisp {s : State} {n i : Nat} {d : Disp} (hd : (s.part n).seqr[i]? = some d) (h : d.finished = true) :
    State.completed n i d s (s.finishDisp n i) := by
  rw [State.finishDisp_of_finished hd h]
  have self : (((s.modPart n fun p => { p with seqr := p.seqr.eraseIdx i }).modMtu d.mtu (· - 1)).part n) =
      { s.part n with seqr := (s.part n).seqr.eraseIdx i } :=
    State.modPart_part_self s n fun p => { p with seqr := p.seqr.eraseIdx i }
  have mtu : ((s.modPart n fun p => { p with seqr := p.seqr.eraseIdx i }).modMtu d.mtu (· - 1)).mtuHeld d.mtu = s.mtuHeld d.mtu - 1 :=
    State.modMtu_mtuHeld_self _ d.mtu _
  have tasks : ∀ r, ((s.modPart n fun p => { p with seqr := p.seqr.eraseIdx i }).modMtu d.mtu (· - 1)).task r = s.task r := fun _ => rfl
  generalize (s.modPart n fun p => { p with seqr := p.seqr.eraseIdx i }).modMtu d.mtu (· - 1) = a at *
  obtain ⟨mtus, seqr, convoy, task⟩ := State.ownerDone_spec a n d
  rw [self] at seqr convoy
  simp only [tasks] at convoy task
  have next := State.sequenced_runNext (a.ownerDone n d) n
  refine State.completed_then (t := a.ownerDone n d) ⟨(State.mtuHeld_of mtus d.mtu).trans mtu, by rw [seqr], convoy, task⟩
    (next.only .tasks (by decide)) (next.only .mtus (by decide)) (State.faced_runNext _ n) (State.sequenced_cvy next)

/-! ### After a message -/

theorem State.noted_at {k n i c : Nat} {msg : W128} {d' d : Disp} {s u : State} (h : State.noted k n i c msg d' s u)
    (hd : (s.part n).seqr[i]? = some d) : (u.part n).seqr[i]? = some d' := by
  rw [h.part]
  exact modAt_get (fun _ => d') i _ d hd

/-- A dispatch that completes with a message has completed since before it. -/
theorem State.noted_completes {k n i c : Nat} {msg : W128} {d' d : Disp} {s u : State} (h : State.noted k n i c msg d' s u)
    (hd : (s.part n).seqr[i]? = some d) (hf : d'.finished = true) : State.completed n i d' s (u.finishDisp n i) := by
  have g := State.completed_finishDisp (State.noted_at h hd) hf
  have tasks := State.task_of (h.only .tasks (by decide))
  refine ⟨g.mtu.trans (by rw [State.mtuHeld_of (h.only .mtus (by decide))]), ?_, ?_, ?_⟩
  · rw [g.seqr, h.part, eraseIdx_modAt]
  · have c := g.convoy
    rw [h.part] at c
    simp only [tasks] at c
    exact c
  · have t := g.task
    simp only [tasks] at t
    exact t

end Sys2Proof.Machine
end


section
/-! Return messages of a live dispatch (07 R195, R197 to R205): the messages. -/

namespace Sys2Proof.Machine

set_option Elab.async false

/-! ### How a message ends -/

/-- A message with which the dispatch completes. -/
theorem State.completed_done {n i : Nat} {s : State} {d' : Disp} {u : State} (h : State.completed n i d' s u) : ∃ t, done s u = .next t ∧ State.completed n i d' s t := by
  obtain ⟨t, ht, -, -, ends, -⟩ := done_spec s u
  exact ⟨t, ht, State.completed_then h (ends .tasks (by decide)) (ends .mtus (by decide)) (State.faced_of_parts (ends .parts (by decide)))
    (by rw [State.part_of (ends .parts (by decide))])⟩

section
variable {k n i : Nat} {d : Disp} {s : State} (hd : (s.part n).seqr[i]? = some d)
include hd

/-- A message with which the dispatch goes on. -/
theorem State.noted_done {c : Nat} {msg : W128} {d' : Disp} {u : State} (h : State.noted k n i c msg d' s u) : done s u = .next u :=
  done_same s u (h.only .tasks (by decide)) (h.only .mtus (by decide)) (congrArg Boot.power (h.only .boot (by decide)))
    (h.only .pending (by decide)) (h.only .latch (by decide)) fun m => by
      by_cases hm : m = n
      · subst hm
        rw [h.part]
        exact modAt_length _ i _
      · rw [h.parts m hm]

/-- A message with which the dispatch completes or goes on. -/
theorem State.noted_ends {c : Nat} {msg : W128} {d' : Disp} {u : State} (h : State.noted k n i c msg d' s u) :
    ∃ t, done s (u.finishDisp n i) = .next t ∧ (d'.finished = true → State.completed n i d' s t) ∧
      (d'.finished = false → State.noted k n i c msg d' s t) := by
  cases hf : d'.finished with
  | true =>
    obtain ⟨t, ht, g⟩ := State.completed_done (State.noted_completes h hd hf)
    exact ⟨t, ht, fun _ => g, fun e => (nomatch e)⟩
  | false =>
    rw [State.finishDisp_of_unfinished (State.noted_at h hd) hf]
    exact ⟨u, State.noted_done hd h, fun e => (nomatch e), fun _ => h⟩

end

theorem State.settleStops_of_none {s : State} {n : Nat} (h : ∀ x ∈ (s.part n).seqr, x.drained = false) : s.settleStops n = s := by
  unfold State.settleStops
  have none : (s.part n).seqr.filter Disp.drained = [] := List.filter_eq_nil_iff.mpr fun x hx => ne_true_of_eq_false (h x hx)
  dsimp only
  rw [none]
  rfl

/-- Dispatches with the faces of ones that have not drained have not drained. -/
theorem undrained_of_faces {l m : List Disp} (h : m.map Disp.face = l.map Disp.face) (hl : ∀ x ∈ l, x.drained = false) :
    ∀ x ∈ m, x.drained = false := fun x hx => by
  have inside : x.face ∈ l.map Disp.face := h ▸ List.mem_map_of_mem hx
  obtain ⟨y, hy, e⟩ := List.mem_map.mp inside
  have same : y.drained = x.drained := congrArg Prod.snd e
  exact same ▸ hl y hy

/-! ### The messages -/

section
variable {k n i : Nat} {g : Tag} {d : Disp} {l : LPort} {s : State}

/-- The dispatch after ACCEPT. -/
def Disp.accepted (d : Disp) (k : Nat) (l : LPort) (v : W64) : Disp :=
  { d.modPort k fun x => { x with accepted := x.accepted + 1, lastAcc := x.lastAcc || ((d.fetched[l.accepted]?).map (·.last)).getD false } with
    occC := d.occC + fld v 15 0 * ((d.fetched[l.accepted]?).map (·.count)).getD 0
    occM := d.occM + fld v 31 16 * ((d.fetched[l.accepted]?).map (·.count)).getD 0
    fetched := modAt (fun b => { b with occC := b.occC + fld v 15 0, occM := b.occM + fld v 31 16 }) l.accepted d.fetched }

theorem State.accept_spec (hr : (s.eport k).retired = false) (hm : s.matchRet k g = some (n, i, d, l)) (v : W64) (open' : l.accepted < l.offered) :
    ∃ t, exec (.accept k g v) s = .next t ∧ ((d.accepted k l v).finished = true → State.completed n i (d.accepted k l v) s t) ∧
      ((d.accepted k l v).finished = false → State.noted k n i 1 (retMsg g 0 0 0 v) (d.accepted k l v) s t) := by
  obtain ⟨port, hd, -, -⟩ := State.matchRet_some hm
  have heard := State.noted_tallied (State.noted_credit (State.noted_arrived (k := k) s (retMsg g 0 0 0 v) hd) 1)
    (State.tallied_tick (ckey 1 k) _ 0x0E0 (some n))
  have kept := State.noted_modDisp heard hd fun x =>
    { x.modPort k (fun y => { y with accepted := y.accepted + 1, lastAcc := y.lastAcc || ((d.fetched[l.accepted]?).map (·.last)).getD false }) with
      occC := x.occC + fld v 15 0 * ((d.fetched[l.accepted]?).map (·.count)).getD 0
      occM := x.occM + fld v 31 16 * ((d.fetched[l.accepted]?).map (·.count)).getD 0
      fetched := modAt (fun b => { b with occC := b.occC + fld v 15 0, occM := b.occM + fld v 31 16 }) l.accepted x.fetched }
  have counted := State.noted_tallied kept (State.tallied_bundleDone (nearKey_port (State.portPart_lt port)) _ n i l.accepted)
  obtain ⟨t, ht, ends⟩ := State.noted_ends hd counted
  refine ⟨t, ?_, ends⟩
  refine Eq.trans (congrArg (done s) (State.onReturn_live _ _ hr hm ?_)) ht
  unfold State.acceptMsg
  rw [if_pos open']

/-- The dispatch after POST. -/
def Disp.posted (d : Disp) (k : Nat) (p : Nat × Nat) (index : Nat) (new : W64 × Nat) : Disp :=
  { d.modPort k fun x => { x with posts := x.posts.erase p } with acc := d.acc.set index new.1, accKey := d.accKey.set index new.2 }

theorem State.post_spec (hr : (s.eport k).retired = false) (hm : s.matchRet k g = some (n, i, d, l)) (unit index : Nat) (v : W64) (p : Nat × Nat)
    (hp : l.posts.find? (fun p => p.2 == unit) = some p) (live : d.stopping = false) (few : index < 16) (asked : d.summask.testBit index = true) :
    let new := combine (d.sumcomb / 4 ^ index % 4) (d.acc.getD index 0) (d.accKey.getD index 0)
      (1 + p.1 * 256 + 4 * ((d.lps.findIdx? fun x => x.port == k).getD 0) + unit) v
    ∃ t, exec (.post k g unit index v) s = .next t ∧ ((d.posted k p index new).finished = true → State.completed n i (d.posted k p index new) s t) ∧
      ((d.posted k p index new).finished = false → State.noted k n i 0 (retMsg g 1 unit index v) (d.posted k p index new) s t) := by
  intro new
  obtain ⟨port, hd, -, -⟩ := State.matchRet_some hm
  have took := State.noted_modDisp (State.noted_arrived (k := k) s (retMsg g 1 unit index v) hd) hd fun x => x.modPort k fun y => { y with posts := y.posts.erase p }
  have kept := State.noted_modDisp took hd fun x => { x with acc := x.acc.set index new.1, accKey := x.accKey.set index new.2 }
  obtain ⟨t, ht, ends⟩ := State.noted_ends hd kept
  refine ⟨t, ?_, ends⟩
  refine Eq.trans (congrArg (done s) (State.onReturn_live _ _ hr hm ?_)) ht
  unfold State.postMsg
  rw [hp]
  dsimp only
  rw [if_neg (ne_true_of_eq_false live), if_neg (by simp [asked, few])]

/-- The dispatch after WDONE. -/
def Disp.written (d : Disp) (k : Nat) : Disp := d.modPort k fun x => { x with wdone := true }

theorem State.wdone_spec (hr : (s.eport k).retired = false) (hm : s.matchRet k g = some (n, i, d, l)) (first : l.wdone = false)
    (due : l.lastAcc = true ∨ d.stopping = true) : ∃ t, exec (.wdone k g) s = .next t ∧
      ((∀ x ∈ (s.part n).seqr, x.drained = false) → (d.written k).finished = true → State.completed n i (d.written k) s t) ∧
      ((d.written k).finished = false → (∀ x ∈ modAt (fun _ => d.written k) i (s.part n).seqr, x.drained = false) →
        State.noted k n i 0 (retMsg g 2 0 0 0) (d.written k) s t) := by
  obtain ⟨port, hd, -, -⟩ := State.matchRet_some hm
  have kept := State.noted_modDisp (State.noted_arrived (k := k) s (retMsg g 2 0 0 0) hd) hd fun x => x.modPort k fun y => { y with wdone := true }
  have run : exec (.wdone k g) s = done s ((((s.arrived k (retMsg g 2 0 0 0)).modDisp n i fun x => x.modPort k fun y => { y with wdone := true }).finishDisp
      n i).settleStops n) := by
    refine congrArg (done s) (State.onReturn_live _ _ hr hm ?_)
    unfold State.wdoneMsg
    rw [if_pos (by simpa [first] using due)]
  rw [run]
  generalize ((s.arrived k (retMsg g 2 0 0 0)).modDisp n i fun x => x.modPort k fun y => { y with wdone := true }) = u at *
  cases hf : (d.written k).finished with
  | true =>
    obtain ⟨t, ht, -⟩ := done_spec s ((u.finishDisp n i).settleStops n)
    have ended := State.noted_completes kept hd hf
    refine ⟨t, ht, fun calm _ => ?_, fun e => (nomatch e)⟩
    rw [State.settleStops_of_none (undrained_of_faces ended.seqr fun x hx => calm x (List.mem_of_mem_eraseIdx hx))] at ht
    obtain ⟨t', ht', g⟩ := State.completed_done ended
    cases Host.Outcome.next.inj (ht.symm.trans ht')
    exact g
  | false =>
    rw [State.finishDisp_of_unfinished (State.noted_at kept hd) hf]
    obtain ⟨t, ht, -⟩ := done_spec s (u.settleStops n)
    refine ⟨t, ht, fun _ e => (nomatch e), fun _ calm => ?_⟩
    rw [State.settleStops_of_none (by rw [kept.part]; exact calm)] at ht
    cases Host.Outcome.next.inj (ht.symm.trans (State.noted_done hd kept))
    exact kept

/-- The dispatch after ABANDON_ACK of `c` bundles. -/
def Disp.acked (d : Disp) (k c : Nat) : Disp := d.modPort k fun x => { x with acked := true, accepted := x.accepted + c }

theorem State.abandon_spec (hr : (s.eport k).retired = false) (hm : s.matchRet k g = some (n, i, d, l)) (v : W64) (stops : d.stopping = true)
    (first : l.acked = false) : ∃ t, exec (.abandonAck k g v) s = .next t ∧
      ((∀ x ∈ modAt (fun _ => d.acked k (min v.toNat (l.offered - l.accepted))) i (s.part n).seqr, x.drained = false) →
        State.noted k n i (min v.toNat (l.offered - l.accepted)) (retMsg g 4 0 0 v) (d.acked k (min v.toNat (l.offered - l.accepted))) s t) := by
  obtain ⟨port, hd, -, -⟩ := State.matchRet_some hm
  have kept := State.noted_modDisp (State.noted_credit (State.noted_arrived (k := k) s (retMsg g 4 0 0 v) hd) (min v.toNat (l.offered - l.accepted))) hd
    fun x => x.modPort k fun y => { y with acked := true, accepted := y.accepted + min v.toNat (l.offered - l.accepted) }
  have run : exec (.abandonAck k g v) s = done s ((((s.arrived k (retMsg g 4 0 0 v)).modPort k fun e =>
      { e with held := e.held - min v.toNat (l.offered - l.accepted) }).modDisp n i fun x =>
        x.modPort k fun y => { y with acked := true, accepted := y.accepted + min v.toNat (l.offered - l.accepted) }).settleStops n) := by
    refine congrArg (done s) (State.onReturn_live _ _ hr hm ?_)
    unfold State.abandonMsg
    rw [if_pos (by simp [stops, first])]
  rw [run]
  obtain ⟨t, ht, -⟩ := done_spec s ((((s.arrived k (retMsg g 4 0 0 v)).modPort k fun e =>
      { e with held := e.held - min v.toNat (l.offered - l.accepted) }).modDisp n i fun x =>
        x.modPort k fun y => { y with acked := true, accepted := y.accepted + min v.toNat (l.offered - l.accepted) }).settleStops n)
  refine ⟨t, ht, fun calm => ?_⟩
  rw [State.settleStops_of_none (by rw [kept.part]; exact calm)] at ht
  cases Host.Outcome.next.inj (ht.symm.trans (State.noted_done hd kept))
  exact kept

theorem State.fault_spec (hr : (s.eport k).retired = false) (hm : s.matchRet k g = some (n, i, d, l)) (unit : Nat) (v : W64) :
    ∃ t, exec (.fault k g unit v) s = .next t ∧ (d.stopping = true → State.noted k n i 0 (retMsg g 3 unit 0 v) d s t) ∧
      (d.stopping = false → ∀ r gen slot, d.owner = .task r gen slot → (s.task r).gen = gen → (s.task r).killable = true →
        (t.task r).st = .killed ∧ (t.task r).after = some (.fail 0x11)) := by
  obtain ⟨port, hd, -, -⟩ := State.matchRet_some hm
  have kept := State.noted_arrived (k := k) s (retMsg g 3 unit 0 v) hd
  have run : exec (.fault k g unit v) s = done s (if d.stopping then s.arrived k (retMsg g 3 unit 0 v) else
      (s.arrived k (retMsg g 3 unit 0 v)).dispFail n d 0x11) := congrArg (done s) (State.onReturn_live _ _ hr hm rfl)
  rw [run]
  generalize s.arrived k (retMsg g 3 unit 0 v) = u at *
  cases stops : d.stopping with
  | true => exact ⟨u, State.noted_done hd kept, fun _ => kept, fun e => (nomatch e)⟩
  | false =>
    rw [if_neg Bool.false_ne_true]
    obtain ⟨t, ht, -, -, ends, -⟩ := done_spec s (u.dispFail n d 0x11)
    refine ⟨t, ht, fun e => (nomatch e), fun _ r gen slot ho hg hk => ?_⟩
    have task := State.task_of (kept.only .tasks (by decide))
    have named : r ∈ u.dispTasks n fun x => x.dtag == d.dtag && x.running == d.running := by
      unfold State.dispTasks
      refine List.mem_flatMap.mpr ⟨d, List.mem_filter.mpr ⟨List.mem_of_getElem? (State.noted_at kept hd), by simp⟩, ?_⟩
      rw [ho]
      dsimp only
      rw [task, if_pos hg]
      exact List.mem_singleton.mpr rfl
    have killed := State.killed_of_mem (fun _ => .fail 0x11) (fun u q => State.culls_failTask u q 0x11) (fun u q => State.reaps_failTask u q 0x11)
      (fun v q _ hf hk' => Task.killedBy_trans hf (State.failTask_spec v q 0x11 (by rw [Task.fewerOps_killable hf]; exact hk'))) _ r named
      (by rw [task]; exact hk)
    obtain ⟨st, after, -⟩ := Task.killedBy_fields killed
    rw [State.task_of (ends .tasks (by decide))]
    exact ⟨st, after⟩

end

/-! ### POSTs combine (07 R203) -/

theorem combine_last {code : Nat} (c : code = 0) (acc v : W64) (a key : Nat) : (a ≤ key → combine code acc a key v = (v, key)) ∧
    (key < a → combine code acc a key v = (acc, a)) := by
  subst c
  exact ⟨fun h => if_pos h, fun h => if_neg (Nat.not_le.mpr h)⟩

theorem combine_maxU {code : Nat} (c : code = 1) (acc v : W64) (a key : Nat) : (combine code acc a key v).1.toNat = max acc.toNat v.toNat := by
  subst c
  show (if acc.toNat < v.toNat then v else acc).toNat = _
  split <;> omega

/-- The low 32 bits of a value. -/
theorem low_word (v : W64) : v &&& 0xFFFFFFFF#64 = BitVec.ofNat 64 (fld v 31 0) := by
  refine BitVec.eq_of_toNat_eq ?_
  have mask : v.toNat &&& 0xFFFFFFFF = v.toNat % 2 ^ 32 := Nat.and_two_pow_sub_one_eq_mod v.toNat 32
  have small : v.toNat % 2 ^ 32 < 2 ^ 64 := Nat.lt_of_lt_of_le (Nat.mod_lt _ (by decide)) (by decide)
  rw [BitVec.toNat_and, BitVec.toNat_ofNat]
  exact mask.trans (Nat.mod_eq_of_lt small).symm

theorem combine_maxF {code : Nat} (c : code = 2) (acc v : W64) (a key : Nat) :
    (isNan32 (fld v 31 0) = false → f32Above v acc = true → (combine code acc a key v).1 = BitVec.ofNat 64 (fld v 31 0)) ∧
    (isNan32 (fld v 31 0) = true ∨ f32Above v acc = false → (combine code acc a key v).1 = acc) := by
  subst c
  refine ⟨fun h g => ?_, fun h => ?_⟩
  · show (if isNan32 (fld v 31 0) then acc else if f32Above v acc then v &&& 0xFFFFFFFF#64 else acc) = _
    rw [if_neg (ne_true_of_eq_false h), if_pos g, low_word]
  · show (if isNan32 (fld v 31 0) then acc else if f32Above v acc then v &&& 0xFFFFFFFF#64 else acc) = _
    rcases h with h | h
    · rw [if_pos h]
    · rw [if_neg (ne_true_of_eq_false h), ite_self]

theorem combine_sum {code : Nat} (c : code = 3) (acc v : W64) (a key : Nat) : combine code acc a key v = (acc + v, a) := by
  subst c
  rfl

/-! ### The obligation -/

theorem State.completed_dtags {n i : Nat} {d : Disp} {s t : State} (h : State.completed n i d s t) :
    (t.part n).seqr.map (·.dtag) = ((s.part n).seqr.map (·.dtag)).eraseIdx i := by
  have e := congrArg (List.map Prod.fst) h.seqr
  rw [List.map_map, List.map_map] at e
  rw [List.eraseIdx_map]
  exact e

theorem State.noted_goesOn {k n i c : Nat} {msg : W128} {d : Disp} {s t : State} (h : State.noted k n i c msg d s t) :
    (t.eport k = { s.eport k with lastRet := msg, held := (s.eport k).held - c } ∧ (∀ q, q ≠ k → t.eport q = s.eport q) ∧
      t.hands (ckey 1 k) = (s.hands (ckey 1 k) + 1) % 2 ^ 32) ∧
    t.part n = { s.part n with seqr := modAt (fun _ => d) i (s.part n).seqr } ∧ (∀ m, m ≠ n → t.part m = s.part m) ∧
      s.only t heardParts ∧ s.objsKept t := ⟨⟨h.self, h.others, h.hands⟩, h.part, h.parts, h.only, h.objs⟩

/-- Settles O30: a message of a live dispatch is taken, noted in its dispatch, and acts once; where the dispatch has then finished its owner goes on. -/
theorem returnMessages : Obligations.ReturnMessages := by
  intro k n i g d l s hr hm heard goesOn put completes
  have ended : ∀ {t : State} {d' : Disp}, d'.mtu = d.mtu → d'.owner = d.owner → (d'.finished = true → State.completed n i d' s t) →
      completes t d' := fun hmtu ho h hf => by
    have c := h hf
    have mtu := c.mtu
    have convoy := c.convoy
    have task := c.task
    rw [hmtu] at mtu
    rw [ho] at convoy task
    exact ⟨mtu, State.completed_dtags c, convoy, task⟩
  refine ⟨fun v open' => ?_, fun unit index v p hp live few asked => ?_, fun first due => ?_, fun v stops first => ?_, fun unit v => ?_⟩
  · obtain ⟨t, ht, done', on⟩ := State.accept_spec hr hm v open'
    exact ⟨t, ht, ended rfl rfl done', fun hf => State.noted_goesOn (on hf)⟩
  · obtain ⟨t, ht, done', on⟩ := State.post_spec hr hm unit index v p hp live few asked
    refine ⟨fun c h => ?_, fun c h => ?_, fun c => ?_, fun c h a => ?_, fun c h => ?_, fun c => ?_, t, ht, ended rfl rfl done',
      fun hf => State.noted_goesOn (on hf)⟩
    · exact (combine_last c _ _ _ _).1 h
    · exact (combine_last c _ _ _ _).2 h
    · exact combine_maxU c _ _ _ _
    · exact (combine_maxF c _ _ _ _).1 h a
    · exact (combine_maxF c _ _ _ _).2 h
    · exact congrArg Prod.fst (combine_sum c _ _ _ _)
  · obtain ⟨t, ht, done', on⟩ := State.wdone_spec hr hm first due
    exact ⟨t, ht, fun calm => ended rfl rfl (done' calm), fun hf calm => State.noted_goesOn (on hf calm)⟩
  · obtain ⟨t, ht, on⟩ := State.abandon_spec hr hm v stops first
    exact ⟨t, ht, fun calm => State.noted_goesOn (on calm)⟩
  · obtain ⟨t, ht, on, kills⟩ := State.fault_spec hr hm unit v
    exact ⟨t, ht, fun stops => State.noted_goesOn (on stops), kills⟩

end Sys2Proof.Machine
end


section
/-! BUNDLE_FETCH and BUNDLE_OFFER (07 R189, R192 to R196). -/

namespace Sys2Proof.Machine

set_option Elab.async false

/-! ### BUNDLE_FETCH (07 R189, R192 to R194) -/

theorem State.brought_prepRead {r gen slot n o len : Nat} {s u : State} (h : s.prepRead (.op r gen slot) r n o len = .ok u) : State.brought r slot s u := by
  unfold State.prepRead at h
  split at h
  · exact nomatch h
  · split at h
    · exact nomatch h
    · split at h
      · exact nomatch h
      · exact State.brought_fetchPages r gen slot _ s h

theorem State.funcsKept_countMoved (s : State) (r rd wr g : Nat) : s.funcsKept (s.countMoved r rd wr g) := by
  unfold State.countMoved
  refine State.funcsKept_trans (State.funcsKept_of_funcs ?_) (State.funcsKept_vfTick _ _ _ _)
  exact (State.only_tickN _ _ _ _ .funcs (by decide)).trans ((State.only_tickN _ _ _ _ .funcs (by decide)).trans
    (State.only_tickN s _ _ _ .funcs (by decide)))

theorem State.funcsKept_moved (s : State) (m r : Nat) (x : Tile) : s.funcsKept (s.moved m r x) := by
  refine State.funcsKept_trans (State.funcsKept_countMoved s r (if x.write then 0 else x.len) (if x.write then x.len else 0)
    (s.bankGrants (s.task r) x)) (State.funcsKept_of_funcs ?_)
  exact (State.only_bankHands _ _ _ .funcs (by decide)).trans (State.only_handshakes _ _ _ _ .funcs (by decide))

/-- A bundle that has been read: its bytes count, and the reader's next translations are asked for. -/
theorem State.fetched_spec (s : State) (r slot n i : Nat) (d : Disp) (len : Nat) : s.only (s.fetched r slot n i d len) [.cnt, .funcs, .tasks, .xl] ∧
    (∀ q, q ≠ r → (s.fetched r slot n i d len).task q = s.task q) ∧ s.funcsKept (s.fetched r slot n i d len) := by
  unfold State.fetched
  dsimp only
  have moved := State.only_moved s d.mtu r ⟨false, d.obj, d.off + 0x40 + d.next * len, len⟩
  have kept := State.funcsKept_moved s d.mtu r ⟨false, d.obj, d.off + 0x40 + d.next * len, len⟩
  generalize s.moved d.mtu r ⟨false, d.obj, d.off + 0x40 + d.next * len, len⟩ = a at *
  have mod := State.only_modOp a r slot fun o => { o with got := [] }
  have others : ∀ q, q ≠ r → (a.modOp r slot fun o => { o with got := [] }).task q = s.task q := fun q hq =>
    (State.modTask_task_ne a r _ hq).trans (State.task_of (moved .tasks (by decide)) q)
  have held := State.funcsKept_trans kept (State.funcsKept_of_funcs (mod .funcs (by decide)))
  have only : s.only (a.modOp r slot fun o => { o with got := [] }) [.cnt, .funcs, .tasks, .xl] := State.only_after mod.sub moved.sub
  generalize (a.modOp r slot fun o => { o with got := [] }) = b at *
  split
  · refine ⟨State.only_after (State.only_window b _ _).sub only, fun q hq => ?_, State.funcsKept_trans held (State.funcsKept_of_funcs ?_)⟩
    · rw [State.task_of (State.only_window b _ _ .tasks (by decide))]
      exact others q hq
    · exact State.only_window b _ _ .funcs (by decide)
  · exact ⟨only, others, held⟩

/-- The running dispatch takes its next bundle: brought, without poison and with checks that hold. -/
theorem State.bundleFetch_spec {n i : Nat} {d : Disp} {s : State} (hi : s.dispIdx n (fun d => d.running && !d.stopping) = some i)
    (hd : (s.part n).seqr[i]? = some d) {r slot : Nat} {u : State} (more : d.wantsMore = true) (reader : s.dispReader n d = some (r, slot))
    (ready : s.prepRead (s.opWho r slot) r d.obj (d.off + 0x40 + d.next * bundleBytes d.nports) (bundleBytes d.nports) = .ok u) :
    let raw := u.taskRead (u.task r) d.obj (d.off + 0x40 + d.next * bundleBytes d.nports) (bundleBytes d.nports)
    let h : W64 := BitVec.ofNat 64 (leAt (plain raw) 0 8)
    let slots := (List.range (4 * d.nports)).map fun j => BitVec.ofNat 32 (leAt (plain raw) (8 + 4 * j) 4)
    let k := resolveCount h d.cbuf
    let b : Bundle := { idx := d.next, last := decide (fld h 47 46 = 1), count := k, hdr := sentHeader h k, slots := slots }
    poisonStatus raw = 0 → d.bundleOk h slots = true → ∃ t, exec (.bundleFetch n) s = .next t ∧
      t.part n = { s.part n with seqr := modAt (fun _ => { d with
        next := d.next + 1, steps := d.steps + k, fetched := if k = 0 then d.fetched else d.fetched ++ [b] }) i (s.part n).seqr } ∧
      (∀ m, m ≠ n → t.part m = s.part m) ∧ (∀ q, q ≠ r → t.task q = s.task q) ∧
      s.only t [.parts, .tasks, .xl, .cnt, .funcs, .out, .freeCtr] ∧ s.funcsKept t := by
  intro raw h slots k b clean ok
  obtain ⟨only, others, -⟩ := State.brought_prepRead ready
  obtain ⟨read, same, kept⟩ := State.fetched_spec u r slot n i d (bundleBytes d.nports)
  have run : exec (.bundleFetch n) s = done s ((u.fetched r slot n i d (bundleBytes d.nports)).takeBundle n i d (plain raw)) := by
    refine congrArg (done s) ?_
    rw [hi]
    dsimp only
    rw [hd]
    dsimp only
    rw [more, reader]
    dsimp only
    rw [ready]
    dsimp only
    exact if_neg (not_not_intro clean)
  rw [run]
  generalize u.fetched r slot n i d (bundleBytes d.nports) = a at *
  have parts : ∀ m, a.part m = s.part m := State.part_of ((read .parts (by decide)).trans (only .parts (by decide)))
  have took : a.takeBundle n i d (plain raw) = a.modDisp n i fun d =>
      { d with next := d.next + 1, steps := d.steps + k, fetched := if k = 0 then d.fetched else d.fetched ++ [b] } := by
    unfold State.takeBundle
    dsimp only
    exact if_neg (by rw [show d.bundleOk (BitVec.ofNat 64 (leAt (plain raw) 0 8)) _ = true from ok]; exact Bool.false_ne_true)
  rw [took]
  have self := State.modPart_part_self a n fun p => { p with seqr := modAt (fun d : Disp =>
    { d with next := d.next + 1, steps := d.steps + k, fetched := if k = 0 then d.fetched else d.fetched ++ [b] }) i p.seqr }
  have ne : ∀ m, m ≠ n → _ = a.part m := fun m hm => State.modPart_part_ne a n (fun p => { p with seqr := modAt (fun d : Disp =>
    { d with next := d.next + 1, steps := d.steps + k, fetched := if k = 0 then d.fetched else d.fetched ++ [b] }) i p.seqr }) hm
  have mod := State.only_modPart a n fun p => { p with seqr := modAt (fun d : Disp =>
    { d with next := d.next + 1, steps := d.steps + k, fetched := if k = 0 then d.fetched else d.fetched ++ [b] }) i p.seqr }
  unfold State.modDisp
  generalize (a.modPart n fun p => { p with seqr := modAt (fun d : Disp =>
    { d with next := d.next + 1, steps := d.steps + k, fetched := if k = 0 then d.fetched else d.fetched ++ [b] }) i p.seqr }) = c at *
  obtain ⟨t, ht, -, -, ends, all⟩ := done_spec s c
  refine ⟨t, ht, ?_, fun m hm => ?_, fun q hq => ?_, all _ (by decide) (State.only_after mod.sub (State.only_after read.sub only.sub)),
    State.funcsKept_trans (State.funcsKept_of_funcs (only .funcs (by decide))) (State.funcsKept_trans kept (State.funcsKept_of_funcs
      ((ends .funcs (by decide)).trans (mod .funcs (by decide)))))⟩
  · rw [State.part_of (ends .parts (by decide)), self, parts, modAt_const _ i _ d hd]
  · rw [State.part_of (ends .parts (by decide)), ne m hm, parts]
  · rw [State.task_of (ends .tasks (by decide)), State.task_of (mod .tasks (by decide)), same q hq, others q hq]

/-! ### BUNDLE_OFFER (07 R195, R196) -/

theorem State.portPgen_sequenced {n : Nat} {s t : State} (h : State.sequenced n s t) (k : Nat) : t.portPgen k = s.portPgen k := by
  have part : ∀ m, { t.part m with seqr := [] } = { s.part m with seqr := [] } := fun m => by
    by_cases hm : m = n
    · subst hm
      exact h.part
    · rw [h.others m hm]
  have cfg : ∀ m, (t.part m).cfg = (s.part m).cfg := fun m => by
    have e := congrArg Part.cfg (part m)
    exact e
  have engines : ∀ m, (t.part m).engines = (s.part m).engines := fun m => by
    have e := congrArg Part.engines (part m)
    exact e
  have pgen : ∀ m, (t.part m).pgen = (s.part m).pgen := fun m => by
    have e := congrArg Part.pgen (part m)
    exact e
  unfold State.portPgen State.portPart State.enabled
  simp only [cfg, engines]
  split
  · exact pgen _
  · rfl

/-- A message of port `k` in state `s` for dispatch tag `dtag`. -/
def State.fwdMsg (s : State) (k dtag kind : Nat) (hdr p0 p1 : W64) : FwdMsg :=
  { hdr := hdr, pgen := s.portPgen k, egen := (s.eport k).egen, dtag := dtag, kind := kind, pay0 := p0, pay1 := p1 }

/-- A port that has been offered the messages `l` of a dispatch. -/
def EPort.sent (e : EPort) (dtag : Nat) (l : List FwdMsg) : EPort := { e with fwd := e.fwd ++ l, lastTag := dtag }

theorem State.fwdMsg_of {s t : State} {k : Nat} (h : t.portPgen k = s.portPgen k) (g : (t.eport k).egen = (s.eport k).egen) (dtag kind : Nat)
    (hdr p0 p1 : W64) : t.fwdMsg k dtag kind hdr p0 p1 = s.fwdMsg k dtag kind hdr p0 p1 := by
  unfold State.fwdMsg
  rw [h, g]

/-- Messages of one kind that carry the dispatch's tag are offered in order. -/
theorem State.forwards_eport (k kind dtag : Nat) (hk : kind = 0 ∨ kind = 1) (f : Nat → W64 × W64 × W64) : ∀ (l : List Nat) (s : State), l ≠ [] →
    (s.each l fun u w => u.forward k kind dtag (f w).1 (f w).2.1 (f w).2.2).eport k =
      (s.eport k).sent dtag (l.map fun w => s.fwdMsg k dtag kind (f w).1 (f w).2.1 (f w).2.2)
  | [], _, h => absurd rfl h
  | w :: l, s, _ => by
    have first : (s.forward k kind dtag (f w).1 (f w).2.1 (f w).2.2).eport k = (s.eport k).sent dtag [s.fwdMsg k dtag kind (f w).1 (f w).2.1 (f w).2.2] := by
      unfold State.forward
      rw [State.modPort_eport, if_pos rfl, if_pos hk]
      rfl
    have gen : (s.forward k kind dtag (f w).1 (f w).2.1 (f w).2.2).portPgen k = s.portPgen k :=
      State.portPgen_of (State.only_forwards s _ _ _ _ _ _ .parts (by decide)) k
    show ((s.forward k kind dtag (f w).1 (f w).2.1 (f w).2.2).each l fun u w => u.forward k kind dtag (f w).1 (f w).2.1 (f w).2.2).eport k = _
    generalize s.forward k kind dtag (f w).1 (f w).2.1 (f w).2.2 = a at *
    cases l with
    | nil => exact first
    | cons x l =>
      rw [State.forwards_eport k kind dtag hk f (x :: l) a (by simp)]
      have same : ∀ w, a.fwdMsg k dtag kind (f w).1 (f w).2.1 (f w).2.2 = s.fwdMsg k dtag kind (f w).1 (f w).2.1 (f w).2.2 := fun w =>
        State.fwdMsg_of gen (by rw [first]; rfl) _ _ _ _ _
      simp only [same]
      rw [first]
      simp [EPort.sent]

theorem State.eport_forward_ne (s : State) {k q : Nat} (hq : q ≠ k) (a b : Nat) (h x y : W64) : (s.forward k a b h x y).eport q = s.eport q := by
  unfold State.forward
  rw [State.modPort_eport, if_neg hq]

/-- The constant buffer as a dispatch sends it to port `k`. -/
def State.cbufMsgs (s : State) (k : Nat) (d : Disp) : List FwdMsg :=
  (List.range 16).map fun w => s.fwdMsg k d.dtag 1 (BitVec.ofNat 64 w) (d.cbuf.getD (2 * w) 0) (d.cbuf.getD (2 * w + 1) 0)

/-- From `s` to `t` port `k` has become `e`, and dispatch `i` of partition `n` is `d`. -/
structure State.offering (n i k : Nat) (d : Disp) (e : EPort) (s t : State) : Prop where
  self : t.eport k = e
  others : ∀ q, q ≠ k → t.eport q = s.eport q
  part : t.part n = { s.part n with seqr := modAt (fun _ => d) i (s.part n).seqr }
  parts : ∀ m, m ≠ n → t.part m = s.part m
  only : s.only t [.parts, .ports, .cnt, .freeCtr]
  gen : t.portPgen k = s.portPgen k

section
variable {n i : Nat} {d : Disp} {s : State} (hd : (s.part n).seqr[i]? = some d)
include hd

theorem State.offering_refl (k : Nat) : State.offering n i k d (s.eport k) s s :=
  ⟨rfl, fun _ _ => rfl, by rw [modAt_same d i _ hd], fun _ _ => rfl, State.only_refl s _, rfl⟩

/-- The dispatch changes. -/
theorem State.offering_modDisp {k : Nat} {d' : Disp} {e : EPort} {u : State} (h : State.offering n i k d' e s u) (g : Disp → Disp) :
    State.offering n i k (g d') e s (u.modDisp n i g) := by
  have self := State.modPart_part_self u n fun p => { p with seqr := modAt g i p.seqr }
  have stands : (modAt (fun _ => d') i (s.part n).seqr)[i]? = some d' := modAt_get (fun _ => d') i _ d hd
  refine ⟨h.self, h.others, ?_, fun m hm => (State.modPart_part_ne u n _ hm).trans (h.parts m hm),
    State.only_after (State.only_modPart u n _).sub h.only, (State.portPgen_sequenced (State.sequenced_modDisp u n i g) k).trans h.gen⟩
  unfold State.modDisp
  rw [self, h.part, modAt_const g i _ d' stands, modAt_modAt_const]

omit hd in
/-- Port `k` changes. -/
theorem State.offering_port {k : Nat} {d' : Disp} {e e' : EPort} {u v : State} (h : State.offering n i k d' e s u) (g : u.only v [.ports])
    (self : v.eport k = e') (others : ∀ q, q ≠ k → v.eport q = u.eport q) : State.offering n i k d' e' s v :=
  ⟨self, fun q hq => (others q hq).trans (h.others q hq), (State.part_of (g .parts (by decide)) n).trans h.part,
    fun m hm => (State.part_of (g .parts (by decide)) m).trans (h.parts m hm), State.only_after g.sub h.only,
    (State.portPgen_of (g .parts (by decide)) k).trans h.gen⟩

/-- A port receives the constant buffer. -/
theorem State.offering_sendCbuf (k : Nat) : State.offering n i k (d.modPort k fun x => { x with cb := true })
    ((s.eport k).sent d.dtag (s.cbufMsgs k d)) s (s.sendCbuf n i k) := by
  unfold State.sendCbuf
  rw [hd]
  dsimp only
  have noted := State.offering_modDisp hd (State.offering_refl hd k) fun d => { d with lps := d.lps.map fun l => if l.port = k then { l with cb := true } else l }
  generalize (s.modDisp n i fun d => { d with lps := d.lps.map fun l => if l.port = k then { l with cb := true } else l }) = a at *
  have sent := State.forwards_eport k 1 d.dtag (.inr rfl)
    (fun w => (BitVec.ofNat 64 w, d.cbuf.getD (2 * w) 0, d.cbuf.getD (2 * w + 1) 0)) (List.range 16) a (by decide)
  refine State.offering_port noted (State.only_each _ (fun u w => State.only_forwards u _ _ _ _ _ _) _ a) (sent.trans ?_) fun q hq => ?_
  · have same : ∀ w, a.fwdMsg k d.dtag 1 (BitVec.ofNat 64 w) (d.cbuf.getD (2 * w) 0) (d.cbuf.getD (2 * w + 1) 0) =
        s.fwdMsg k d.dtag 1 (BitVec.ofNat 64 w) (d.cbuf.getD (2 * w) 0) (d.cbuf.getD (2 * w + 1) 0) := fun w =>
      State.fwdMsg_of noted.gen (by rw [noted.self]) _ _ _ _ _
    simp only [same]
    rw [noted.self]
    rfl
  · exact State.each_keeps (P := fun u : State => u.eport q = a.eport q) (fun u w h => (State.eport_forward_ne u hq _ _ _ _ _).trans h) _ a rfl

/-- The constant buffer where a port has not had it. -/
theorem State.offering_cbuf (l : LPort) : State.offering n i l.port (if l.cb then d else d.modPort l.port fun x => { x with cb := true })
    (if l.cb then s.eport l.port else (s.eport l.port).sent d.dtag (s.cbufMsgs l.port d)) s (if l.cb then s else s.sendCbuf n i l.port) := by
  cases l.cb with
  | true => exact State.offering_refl hd l.port
  | false => exact State.offering_sendCbuf hd l.port

end

/-- A port's entry in a dispatch changed twice. -/
theorem Disp.modPort_modPort (d : Disp) (k : Nat) (f g : LPort → LPort) (h : ∀ x, (f x).port = x.port) :
    (d.modPort k f).modPort k g = d.modPort k fun x => g (f x) := by
  unfold Disp.modPort
  dsimp only
  rw [List.map_map]
  refine congrArg (fun l => { d with lps := l }) (List.map_congr_left fun x _ => ?_)
  show (if (if x.port = k then f x else x).port = k then g (if x.port = k then f x else x) else (if x.port = k then f x else x)) = _
  by_cases e : x.port = k
  · rw [if_pos e, if_pos e, if_pos ((h x).trans e)]
  · rw [if_neg e, if_neg e, if_neg e]

/-- What is counted and tagged beside an offer. -/
theorem State.offering_counted {n i k : Nat} {d : Disp} {e : EPort} {s u v : State} (h : State.offering n i k d e s u) (g : u.only v [.cnt, .freeCtr]) :
    State.offering n i k d e s v :=
  ⟨(State.eport_of (g .ports (by decide)) k).trans h.self, fun q hq => (State.eport_of (g .ports (by decide)) q).trans (h.others q hq),
    (State.part_of (g .parts (by decide)) n).trans h.part, fun m hm => (State.part_of (g .parts (by decide)) m).trans (h.parts m hm),
    State.only_after g.sub h.only, (State.portPgen_of (g .parts (by decide)) k).trans h.gen⟩

/-- A port draws a credit and receives a bundle. -/
theorem State.offering_bundle {n i k : Nat} {d : Disp} {e : EPort} {s u : State} (h : State.offering n i k d e s u)
    (egen : e.egen = (s.eport k).egen) (dtag : Nat) (hdr p0 p1 : W64) :
    State.offering n i k d { e with held := e.held + 1, lastVf := some (s.part n).schVf, lastTag := dtag, fwd := e.fwd ++ [s.fwdMsg k dtag 0 hdr p0 p1] } s
      ((u.modPort k fun p => { p with held := p.held + 1, lastVf := some (u.part n).schVf }).forward k 0 dtag hdr p0 p1) := by
  have drawn := State.modPort_eport u k fun p => { p with held := p.held + 1, lastVf := some (u.part n).schVf }
  have draws := State.only_modPort u k fun p => { p with held := p.held + 1, lastVf := some (u.part n).schVf }
  generalize (u.modPort k fun p => { p with held := p.held + 1, lastVf := some (u.part n).schVf }) = f at *
  have vf : (u.part n).schVf = (s.part n).schVf := by rw [h.part]
  have gen : f.portPgen k = s.portPgen k := (State.portPgen_of (draws .parts (by decide)) k).trans h.gen
  refine State.offering_port h (State.only_trans draws (State.only_forwards f k 0 dtag hdr p0 p1)) ?_
    fun q hq => (State.eport_forward_ne f hq _ _ _ _ _).trans ((drawn q).trans (if_neg hq))
  have self : (f.forward k 0 dtag hdr p0 p1).eport k = (f.eport k).sent dtag [f.fwdMsg k dtag 0 hdr p0 p1] := by
    unfold State.forward
    rw [State.modPort_eport, if_pos rfl]
    rfl
  have same : (f.eport k).egen = (s.eport k).egen := by
    rw [drawn, if_pos rfl, h.self]
    exact egen
  rw [self, State.fwdMsg_of gen same, drawn, if_pos rfl, h.self, vf]
  rfl

/-- A bundle offered to a port, behind the constant buffer where the port has not had it. -/
theorem State.offerBundle_spec {n i : Nat} {d : Disp} {s : State} (hd : (s.part n).seqr[i]? = some d) (j : Nat) (l : LPort) (b : Bundle) :
    State.offering n i l.port
      (d.modPort l.port fun x => { x with cb := if l.cb then x.cb else true, offered := x.offered + 1, posts := x.posts ++ owedPosts b.slots j l.offered })
      { s.eport l.port with
        held := (s.eport l.port).held + 1, lastVf := some (s.part n).schVf, lastTag := d.dtag
        fwd := (s.eport l.port).fwd ++ (if l.cb then [] else s.cbufMsgs l.port d) ++
          [s.fwdMsg l.port d.dtag 0 b.hdr (slotPair b.slots (4 * j)) (slotPair b.slots (4 * j + 2))] } s (s.offerBundle n i d j l b) := by
  unfold State.offerBundle
  dsimp only
  have sent := State.offering_cbuf hd l
  generalize (if l.cb = true then s else s.sendCbuf n i l.port) = a at *
  have counted := State.offering_counted sent (State.only_ite ((d.lps.all fun x => x.offered ≤ l.offered) = true) (State.only_tagItem a
    { bundle := true, part := n, r := ((a.dispReader n d).getD (0, 0)).1, gen := (a.task ((a.dispReader n d).getD (0, 0)).1).gen
      slot := some ((a.dispReader n d).getD (0, 0)).2, opcode := 0, pc := 0
      idx := b.idx, dtag := d.dtag, stall := 0, detail := b.count, thread := 0 }) (State.only_refl a [.cnt, .freeCtr]))
  generalize (if (d.lps.all fun x => x.offered ≤ l.offered) = true then a.tagItem
    { bundle := true, part := n, r := ((a.dispReader n d).getD (0, 0)).1, gen := (a.task ((a.dispReader n d).getD (0, 0)).1).gen
      slot := some ((a.dispReader n d).getD (0, 0)).2, opcode := 0, pc := 0
      idx := b.idx, dtag := d.dtag, stall := 0, detail := b.count, thread := 0 } else a) = c at *
  have noted := State.offering_modDisp hd counted fun d =>
    d.modPort l.port fun x => { x with offered := x.offered + 1, posts := x.posts ++ owedPosts b.slots j l.offered }
  generalize (c.modDisp n i fun d => d.modPort l.port fun x => { x with offered := x.offered + 1, posts := x.posts ++ owedPosts b.slots j l.offered }) = e at *
  have ends := State.offering_bundle noted (by cases l.cb <;> rfl) d.dtag b.hdr (slotPair b.slots (4 * j)) (slotPair b.slots (4 * j + 2))
  cases hc : l.cb with
  | true =>
    rw [hc] at ends
    simp only [if_true] at ends ⊢
    rw [List.append_nil]
    exact ends
  | false =>
    rw [hc] at ends
    simp only [Bool.false_eq_true, if_false] at ends ⊢
    rw [Disp.modPort_modPort d l.port (fun x => { x with cb := true }) _ fun _ => rfl] at ends
    exact ends

/-- Settles O29: the sequencer takes the bundle that it has brought and checked, and a usable port with a free credit is offered the next one. -/
theorem bundlesFetchedAndOffered : Obligations.BundlesFetchedAndOffered := by
  intro n i d s hi hd
  refine ⟨fun r slot u more reader => State.bundleFetch_spec hi hd more reader, fun port j l b hj hl hb usable free => ?_⟩
  obtain ⟨hlt, pred, -⟩ := List.findIdx?_eq_some_iff_getElem.mp hj
  have named : l.port = port := by
    rw [List.getElem?_eq_getElem hlt] at hl
    rw [Option.some.inj hl] at pred
    exact eq_of_beq pred
  subst named
  have run : exec (.bundleOffer n l.port) s = done s (s.offerBundle n i d j l b) := by
    refine congrArg (done s) ?_
    rw [hi]
    dsimp only
    rw [hd]
    dsimp only
    rw [hj]
    dsimp only
    rw [hl]
    dsimp only
    rw [hb]
    dsimp only
    exact if_pos (by simp [usable, free])
  have spec := State.offerBundle_spec hd j l b
  rw [run]
  generalize s.offerBundle n i d j l b = u at *
  obtain ⟨t, ht, -, -, ends, all⟩ := done_spec s u
  refine ⟨t, ht, ?_, fun q hq => ?_, ?_, fun m hm => ?_, all _ (by decide) spec.only⟩
  · rw [State.eport_of (ends .ports (by decide)), spec.self]
    rfl
  · rw [State.eport_of (ends .ports (by decide)), spec.others q hq]
  · rw [State.part_of (ends .parts (by decide)), spec.part]
  · rw [State.part_of (ends .parts (by decide)), spec.parts m hm]

end Sys2Proof.Machine
end


section
/-! HOST_COMPLETION (13 R362, R373; 11 R317). -/

namespace Sys2Proof.Machine

set_option Elab.async false

/-! ### Who waits -/

/-- Whoever asked still waits, where no request of an engine or a peer does, if the tasks and queues say so. -/
theorem State.whoLive_of {s t : State} (ht : t.tasks = s.tasks) (hq : t.queues = s.queues) (hs : s.xl.waiting = []) (hw : t.xl.waiting = []) (w : Who) :
    t.whoLive w = s.whoLive w := by
  have task := State.task_of ht
  have queue := State.queue_of hq
  cases w with
  | op r g k => simp only [State.whoLive, task]
  | prog r g => simp only [State.whoLive, task]
  | slots qk => simp only [State.whoLive, queue]
  | record qk => simp only [State.whoLive, queue]
  | pin n => rfl
  | port id => simp only [State.whoLive, hs, hw, List.any_nil]

/-! ### The translation of a page -/

theorem find?_appended {α : Type} (p : α → Bool) (a : α) (h : p a = true) (l : List α) : (l.filter (fun x => !p x) ++ [a]).find? p = some a := by
  rw [List.find?_append, List.find?_eq_none.mpr fun x hx => by simpa using (List.mem_filter.mp hx).2, Option.none_or, List.find?_cons, h]

/-- A translation that has arrived is held for whoever asked, for a pin while it covers the page. -/
theorem State.translated_spec (s : State) (w : Who) (e : XEnt) : s.only (s.translated w e) [.xl] ∧ (s.translated w e).xl.reqs = s.xl.reqs ∧
    (s.translated w e).xl.waiting = s.xl.waiting ∧ ((∀ n, w ≠ .pin n) → (e.sp, e.page, w) ∈ (s.translated w e).xl.users) ∧
    ((∀ n, w ≠ .pin n) ∨ s.pinHolds e.sp e.page = true → (s.translated w e).findX e.sp e.page = some e) ∧
    ((∃ n, w = .pin n) → s.pinHolds e.sp e.page = false → s.translated w e = s) := by
  have held : ∀ x : Xl, (({ x with ents := (x.ents.filter fun y => !(y.sp == e.sp && y.page == e.page)) ++ [e] } : Xl).ents.find?
      fun y => y.sp == e.sp && y.page == e.page) = some e := fun x => find?_appended (fun y : XEnt => y.sp == e.sp && y.page == e.page) e (by simp) _
  by_cases hw : ∃ n, w = .pin n
  · obtain ⟨n, rfl⟩ := hw
    have same : (s.modXl fun x => { x with ents := (x.ents.filter fun y => !(y.sp == e.sp && y.page == e.page)) ++ [e] }).pinHolds e.sp e.page =
        s.pinHolds e.sp e.page := rfl
    have eq : s.translated (.pin n) e = if s.pinHolds e.sp e.page = true
        then s.modXl fun x => { x with ents := (x.ents.filter fun y => !(y.sp == e.sp && y.page == e.page)) ++ [e] } else s := by
      rw [← same]
      rfl
    rw [eq]
    refine ⟨State.only_ite _ (State.only_modXl s _) (State.only_refl s _), ?_, ?_, fun h => absurd rfl (h n), fun h => ?_, fun _ h => ?_⟩
    · split <;> rfl
    · split <;> rfl
    · rw [if_pos (h.resolve_left fun h => h n rfl)]
      exact held s.xl
    · rw [if_neg (ne_true_of_eq_false h)]
  · have eq : s.translated w e = (s.modXl fun x => { x with ents := (x.ents.filter fun y => !(y.sp == e.sp && y.page == e.page)) ++ [e] }).useX w e.sp e.page := by
      cases w with
      | pin n => exact absurd ⟨n, rfl⟩ hw
      | op r g k => rfl
      | prog r g => rfl
      | slots qk => rfl
      | record qk => rfl
      | port id => rfl
    rw [eq]
    unfold State.useX
    refine ⟨State.only_ite _ (State.only_modXl s _) (State.only_after (State.only_modXl _ _) (State.only_modXl s _)), ?_, ?_, fun _ => ?_, fun _ => ?_,
      fun h => absurd h hw⟩
    · split <;> rfl
    · split <;> rfl
    · split
      · next h => exact List.contains_iff_mem.mp h
      · exact List.mem_append_right _ (List.mem_singleton.mpr rfl)
    · split
      · exact held s.xl
      · exact held s.xl

/-! ### The bytes of a read -/

/-- What a write puts into storage depends on storage alone. -/
theorem State.writeRange_sto (l : List (Option Byte)) : ∀ (s t : State) (x : Loc), t.sto = s.sto → (t.writeRange x l).sto = (s.writeRange x l).sto := by
  induction l with
  | nil => exact fun s t x h => h
  | cons b l ih =>
    refine fun s t x h => ih (s.writeLoc x b) (t.writeLoc x b) (x.add 1) ?_
    unfold State.writeLoc State.modSto
    cases x <;> simp only [h]

theorem State.gotOf_modGot (s : State) (w : Who) (f : List (Space × Nat × Nat) → List (Space × Nat × Nat)) (h : ∃ r g, (∃ k, w = .op r g k) ∨ w = .prog r g) :
    (s.modGot w f).gotOf w = f (s.gotOf w) := by
  obtain ⟨r, g, ⟨k, rfl⟩ | rfl⟩ := h
  · unfold State.modGot State.gotOf
    dsimp only
    rw [State.modTask_task_self]
    cases hk : Tab.get none (s.task r).win k with
    | some o =>
      dsimp only
      rw [Tab.get_set_self]
    | none =>
      dsimp only
      rw [hk]
  · unfold State.modGot State.gotOf
    dsimp only
    rw [State.modTask_task_self]

theorem State.only_modGot' (s : State) (w : Who) (f : List (Space × Nat × Nat) → List (Space × Nat × Nat)) (h : ∀ id, w ≠ .port id) :
    s.only (s.modGot w f) [.tasks] := by
  cases w with
  | op r g k => exact State.only_modTask s r _
  | prog r g => exact State.only_modTask s r _
  | port id => exact absurd rfl (h id)
  | slots qk => exact State.only_refl s _
  | record qk => exact State.only_refl s _
  | pin n => exact State.only_refl s _

theorem State.modGot_other (s : State) {w : Who} (f : List (Space × Nat × Nat) → List (Space × Nat × Nat)) {r g : Nat}
    (h : (∃ k, w = .op r g k) ∨ w = .prog r g) {x : Nat} (hx : x ≠ r) : (s.modGot w f).task x = s.task x := by
  rcases h with ⟨k, rfl⟩ | rfl
  · exact State.modTask_task_ne s r _ hx
  · exact State.modTask_task_ne s r _ hx

/-! ### A request that ends -/

/-- The state in which a request at a host port has ended. -/
def State.reqEnded (s : State) (p : Nat) (q : HostReq) : State := (s.handshakes 5 p 1).endReq q

theorem State.only_reqEnded (s : State) (p : Nat) (q : HostReq) : s.only (s.reqEnded p q) [.xl, .cnt] :=
  State.only_after (State.only_modXl _ _).sub (State.only_handshakes s 5 p 1).sub

/-- What a completion does to its request `q` of kind `k`. -/
def State.takeCompletion (s : State) (p tag : Nat) (q : HostReq) (c : HostCpl) (k : ReqKind) : State := match c, k with
  | .poisoned, _ => (s.handshakes 5 p 1).faultUncorrectable 5 p 0 (.tag tag) none
  | .refused, _ => (s.handshakes 5 p 1).refuseReq q
  | .xlat r w dst, .xlate sp page =>
    if (s.reqEnded p q).whoLive q.who then (s.reqEnded p q).translated q.who { sp := sp, page := page, r := r, w := w, dst := dst } else s.reqEnded p q
  | .data bytes, .read sp a len => if bytes.length ≠ len then s else (s.handshakes 5 p 1).arrive q sp a len (bytes.map some)
  | _, _ => s

section
variable {p tag : Nat} {q : HostReq} {s : State}

/-- A completion is matched by its port and tag. -/
theorem State.completion_open (hq : (s.xl.reqs.find? fun r => r.port == p && r.tag == tag) = some q) (c : HostCpl) {k : ReqKind} (hk : q.kind = k) {u : State}
    (hu : s.takeCompletion p tag q c k = u) (h : u.xl.waiting = []) : exec (.hostCompletion p tag c) s = done s u := by
  have run : exec (.hostCompletion p tag c) s = done s (s.takeCompletion p tag q c q.kind).portsAgain := by
    refine congrArg (done s) ?_
    rw [hq]
    rfl
  rw [run, hk, hu, State.portsAgain_of_none u h]

/-- A fault of a channel that is not retired and cannot be: it is counted, and its transfer detoured. -/
theorem State.faultUncorrectable_spec (s : State) {i : Nat} (unseen : Nat) (x : Transfer) (hr : (s.chan (ckey 5 i)).retired = false)
    (he : (s.chan (ckey 5 i)).evac = false) : s.only (s.faultUncorrectable 5 i unseen x none) [.chans, .cnt] ∧
      ((s.faultUncorrectable 5 i unseen x none).chan (ckey 5 i)).uncorr = satAdd 0xFFFF (s.chan (ckey 5 i)).uncorr 1 ∧
      ((s.chan (ckey 5 i)).detour = none → ((s.faultUncorrectable 5 i unseen x none).chan (ckey 5 i)).detour = some 0 ∧
        ((s.faultUncorrectable 5 i unseen x none).chan (ckey 5 i)).xfer = x) ∧
      ∀ c, c ≠ ckey 5 i → (s.faultUncorrectable 5 i unseen x none).chan c = s.chan c := by
  have stamp : s.stampFault 5 i unseen (fun c => { c with uncorr := satAdd 0xFFFF c.uncorr 1 }) =
      (s.handshakes 5 i unseen).modChan (ckey 5 i) fun c =>
        { c with uncorr := satAdd 0xFFFF c.uncorr 1, stamps := (s.handshakes 5 i unseen).hands (ckey 5 i) :: c.stamps.take 1 } := by
    unfold State.stampFault
    rw [if_neg (ne_true_of_eq_false hr)]
    exact if_neg (by simp [retirable])
  unfold State.faultUncorrectable
  rw [stamp]
  have only : s.only ((s.handshakes 5 i unseen).modChan (ckey 5 i) fun c =>
      { c with uncorr := satAdd 0xFFFF c.uncorr 1, stamps := (s.handshakes 5 i unseen).hands (ckey 5 i) :: c.stamps.take 1 }) [.chans, .cnt] :=
    State.only_after (State.only_modChan _ _ _).sub (State.only_handshakes s 5 i unseen).sub
  have chan := State.modChan_chan (s.handshakes 5 i unseen) (ckey 5 i) fun c =>
    { c with uncorr := satAdd 0xFFFF c.uncorr 1, stamps := (s.handshakes 5 i unseen).hands (ckey 5 i) :: c.stamps.take 1 }
  simp only [State.handshakes_chan] at chan
  generalize (s.handshakes 5 i unseen).modChan (ckey 5 i) (fun c =>
    { c with uncorr := satAdd 0xFFFF c.uncorr 1, stamps := (s.handshakes 5 i unseen).hands (ckey 5 i) :: c.stamps.take 1 }) = u at *
  have self := chan (ckey 5 i)
  rw [if_pos rfl] at self
  unfold State.beginDetour
  dsimp only
  rw [if_neg (by simp [self, hr, he])]
  split
  · next busy =>
    refine ⟨State.only_after (State.only_modChan _ _ _).sub only, ?_, fun none => ?_, fun c hc => ?_⟩
    · rw [State.modChan_chan_self, self]
    · rw [self, none] at busy
      exact absurd busy Bool.false_ne_true
    · rw [State.modChan_chan_ne _ _ _ hc, chan, if_neg hc]
  · have ticks := fun v : State => State.chan_of (State.only_tick v 0x1CA none .chans (by decide))
    refine ⟨State.only_after (State.only_tick _ _ _).sub (State.only_after (State.only_modChan _ _ _).sub only), ?_, fun _ => ⟨?_, ?_⟩, fun c hc => ?_⟩
    · rw [ticks, State.modChan_chan_self, self]
    · rw [ticks, State.modChan_chan_self]
    · rw [ticks, State.modChan_chan_self]
    · rw [ticks, State.modChan_chan_ne _ _ _ hc, chan, if_neg hc]

section
variable (hw : s.xl.waiting = [])
include hw

theorem State.reqEnded_live (w : Who) : (s.reqEnded p q).whoLive w = s.whoLive w := State.whoLive_of rfl rfl hw hw w

/-- A translation that someone awaits arrives. -/
theorem State.xlat_spec (hq : (s.xl.reqs.find? fun r => r.port == p && r.tag == tag) = some q) (r w : Bool) (page dst : Nat) (sp : Space)
    (hk : q.kind = .xlate sp page) (live : s.whoLive q.who = true) :
    ∃ t, exec (.hostCompletion p tag (.xlat r w dst)) s = .next t ∧ t.xl.reqs = s.xl.reqs.erase q ∧ s.only t [.xl, .cnt] ∧
      ((∀ n, q.who ≠ .pin n) → (sp, page, q.who) ∈ t.xl.users) ∧
      ((∀ n, q.who ≠ .pin n) ∨ s.pinHolds sp page = true → t.findX sp page = some { sp := sp, page := page, r := r, w := w, dst := dst }) ∧
      ((∃ n, q.who = .pin n) → s.pinHolds sp page = false → t.findX sp page = s.findX sp page) := by
  obtain ⟨only, reqs, waiting, users, held, gone⟩ :=
    State.translated_spec (s.reqEnded p q) q.who { sp := sp, page := page, r := r, w := w, dst := dst }
  have run := State.completion_open hq (.xlat r w dst) hk (if_pos ((State.reqEnded_live hw q.who).trans live)) (waiting.trans hw)
  have all : s.only ((s.reqEnded p q).translated q.who { sp := sp, page := page, r := r, w := w, dst := dst }) [.xl, .cnt] :=
    State.only_after only.sub (State.only_reqEnded s p q)
  refine ⟨_, run.trans (done_of_only all (congrArg Boot.power (all .boot (by decide)))), reqs, all, users, held, fun h g => ?_⟩
  rw [gone h g]
  rfl

/-- The bytes of a read arrive, for someone who still waits. -/
theorem State.data_spec (hq : (s.xl.reqs.find? fun r => r.port == p && r.tag == tag) = some q) (sp : Space) (a len : Nat) (bytes : List Byte)
    (hk : q.kind = .read sp a len) (hlen : bytes.length = len) (live : s.whoLive q.who = true) (there : s.reach sp a = some (.host q.port q.dst)) :
    ∃ t, exec (.hostCompletion p tag (.data bytes)) s = .next t ∧ t.sto = (s.writeRange (.host q.port q.dst) (bytes.map some)).sto ∧
      (∀ r g k, q.who = .op r g k ∨ q.who = .prog r g → t.gotOf q.who = s.gotOf q.who ++ [(sp, a, len)] ∧ ∀ x, x ≠ r → t.task x = s.task x) ∧
      t.xl = { s.xl with reqs := s.xl.reqs.erase q } ∧ s.only t [.tasks, .sto, .xl, .cnt] := by
  have port : ∀ id, q.who ≠ .port id := fun id h => by
    rw [h] at live
    unfold State.whoLive at live
    rw [hw] at live
    exact absurd live Bool.false_ne_true
  have took : s.takeCompletion p tag q (.data bytes) (.read sp a len) =
      ((s.reqEnded p q).writeRange (.host q.port q.dst) (bytes.map some)).modGot q.who fun g => g ++ [(sp, a, len)] := by
    have reach : (s.reqEnded p q).reach sp a = some (.host q.port q.dst) := there
    have awaited : (s.reqEnded p q).whoLive q.who = true := (State.reqEnded_live hw q.who).trans live
    have open' : (s.handshakes 5 p 1).arrive q sp a len (bytes.map some) = if !(s.reqEnded p q).whoLive q.who then
        (s.reqEnded p q).tick 0x103 (((s.reqEnded p q).whoTask q.who).map fun r => ((s.reqEnded p q).task r).part)
      else if (s.reqEnded p q).reach sp a = some (Loc.host q.port q.dst) then
        ((s.reqEnded p q).writeRange (.host q.port q.dst) (bytes.map some)).modGot q.who fun g => g ++ [(sp, a, len)]
      else s.reqEnded p q := rfl
    refine (if_neg (not_not_intro hlen)).trans (open'.trans ?_)
    rw [awaited, if_neg (by decide), if_pos reach]
  have wrote := State.only_writeRange (bytes.map some) (s.reqEnded p q) (.host q.port q.dst)
  have sto := State.writeRange_sto (bytes.map some) s (s.reqEnded p q) (.host q.port q.dst) rfl
  have ended := State.only_reqEnded s p q
  have xl : (s.reqEnded p q).xl = { s.xl with reqs := s.xl.reqs.erase q } := rfl
  have task : ∀ r, (s.reqEnded p q).task r = s.task r := fun _ => rfl
  generalize s.reqEnded p q = e at *
  generalize e.writeRange (.host q.port q.dst) (bytes.map some) = b at *
  have mod := State.only_modGot' b q.who (fun g => g ++ [(sp, a, len)]) port
  have got := State.gotOf_modGot b q.who fun g => g ++ [(sp, a, len)]
  have others := fun {r g : Nat} h {x : Nat} hx => State.modGot_other (w := q.who) b (fun g => g ++ [(sp, a, len)]) (r := r) (g := g) h (x := x) hx
  generalize (b.modGot q.who fun g => g ++ [(sp, a, len)]) = c at *
  have xl' : c.xl = { s.xl with reqs := s.xl.reqs.erase q } := (mod .xl (by decide)).trans ((wrote .xl (by decide)).trans xl)
  have tasks : ∀ r, b.task r = s.task r := fun r => (State.task_of (wrote .tasks (by decide)) r).trans (task r)
  obtain ⟨t, ht, -, -, ends, all⟩ := done_spec s c
  refine ⟨t, (State.completion_open hq (.data bytes) hk took (by rw [xl']; exact hw)).trans ht, ?_, fun r g k h => ⟨?_, fun x hx => ?_⟩,
    (ends .xl (by decide)).trans xl', all _ (by decide) (State.only_after mod.sub (State.only_after wrote.sub ended.sub))⟩
  · exact (ends .sto (by decide)).trans ((mod .sto (by decide)).trans sto)
  · have who : ∃ r g, (∃ k, q.who = .op r g k) ∨ q.who = .prog r g := ⟨r, g, h.imp_left fun h => ⟨k, h⟩⟩
    have same : ∀ u v : State, (∀ r, u.task r = v.task r) → u.gotOf q.who = v.gotOf q.who := fun u v hv => by
      obtain ⟨r, g, ⟨k, h⟩ | h⟩ := who
      · rw [h]
        simp only [State.gotOf, hv]
      · rw [h]
        simp only [State.gotOf, hv]
    rw [same t c (State.task_of (ends .tasks (by decide))), got who, same b s tasks]
  · rw [State.task_of (ends .tasks (by decide)), others (h.imp_left fun h => ⟨k, h⟩) hx, tasks]

/-- The bytes of a read for which no one waits any more. -/
theorem State.data_discarded (hq : (s.xl.reqs.find? fun r => r.port == p && r.tag == tag) = some q) (sp : Space) (a len : Nat) (bytes : List Byte)
    (hk : q.kind = .read sp a len) (hlen : bytes.length = len) (dead : s.whoLive q.who = false) :
    ∃ t, exec (.hostCompletion p tag (.data bytes)) s = .next t ∧ t.xl = { s.xl with reqs := s.xl.reqs.erase q } ∧ s.only t [.xl, .cnt] := by
  have gone : (s.reqEnded p q).whoLive q.who = false := (State.reqEnded_live hw q.who).trans dead
  have took : s.takeCompletion p tag q (.data bytes) (.read sp a len) =
      (s.reqEnded p q).tick 0x103 (((s.reqEnded p q).whoTask q.who).map fun r => ((s.reqEnded p q).task r).part) := by
    refine (if_neg (not_not_intro hlen)).trans ?_
    exact if_pos (congrArg (fun b => !b) gone)
  have ticks := State.only_tick (s.reqEnded p q) 0x103 (((s.reqEnded p q).whoTask q.who).map fun r => ((s.reqEnded p q).task r).part)
  have xl : ((s.reqEnded p q).tick 0x103 (((s.reqEnded p q).whoTask q.who).map fun r => ((s.reqEnded p q).task r).part)).xl =
    { s.xl with reqs := s.xl.reqs.erase q } := ticks .xl (by decide)
  have all : s.only ((s.reqEnded p q).tick 0x103 (((s.reqEnded p q).whoTask q.who).map fun r => ((s.reqEnded p q).task r).part)) [.xl, .cnt] :=
    State.only_after ticks.sub (State.only_reqEnded s p q)
  exact ⟨_, (State.completion_open hq (.data bytes) hk took (by rw [xl]; exact hw)).trans
    (done_of_only all (congrArg Boot.power (all .boot (by decide)))), xl, all⟩

/-- A request that the host refuses. -/
theorem State.refused_spec (hq : (s.xl.reqs.find? fun r => r.port == p && r.tag == tag) = some q) (live : s.whoLive q.who = true)
    (asks : ∀ n, q.who ≠ .pin n) : ∃ t, exec (.hostCompletion p tag .refused) s = .next t ∧
      t.xl = { s.xl with reqs := s.xl.reqs.erase q, fails := s.xl.fails ++ [(q.who, q.kind)] } ∧ s.only t [.xl, .cnt] := by
  have awaited : (s.reqEnded p q).whoLive q.who = true := (State.reqEnded_live hw q.who).trans live
  have took : s.takeCompletion p tag q .refused q.kind = (s.reqEnded p q).modXl fun x => { x with fails := x.fails ++ [(q.who, q.kind)] } := by
    refine if_pos ?_
    show ((s.reqEnded p q).whoLive q.who && _) = true
    rw [awaited, Bool.true_and]
    split
    · next n h => exact absurd h (asks n)
    · rfl
  have all : s.only ((s.reqEnded p q).modXl fun x => { x with fails := x.fails ++ [(q.who, q.kind)] }) [.xl, .cnt] :=
    State.only_after (State.only_modXl _ _).sub (State.only_reqEnded s p q)
  exact ⟨_, (State.completion_open hq .refused rfl took hw).trans (done_of_only all (congrArg Boot.power (all .boot (by decide)))), rfl, all⟩

/-- A poisoned completion is a fault of the port, and its transfer is detoured. -/
theorem State.poisoned_spec (hq : (s.xl.reqs.find? fun r => r.port == p && r.tag == tag) = some q) (hr : (s.chan (ckey 5 p)).retired = false)
    (he : (s.chan (ckey 5 p)).evac = false) : ∃ t, exec (.hostCompletion p tag .poisoned) s = .next t ∧ t.xl = s.xl ∧
      (t.chan (ckey 5 p)).uncorr = satAdd 0xFFFF (s.chan (ckey 5 p)).uncorr 1 ∧
      ((s.chan (ckey 5 p)).detour = none → (t.chan (ckey 5 p)).detour = some 0 ∧ (t.chan (ckey 5 p)).xfer = .tag tag) ∧
      (∀ c, c ≠ ckey 5 p → t.chan c = s.chan c) ∧ s.only t [.chans, .cnt] := by
  have took := State.faultUncorrectable_spec (s.handshakes 5 p 1) (i := p) 0 (.tag tag) hr he
  obtain ⟨only, uncorr, begins, others⟩ := took
  have all : s.only ((s.handshakes 5 p 1).faultUncorrectable 5 p 0 (.tag tag) none) [.chans, .cnt] :=
    State.only_after only.sub (State.only_handshakes s 5 p 1).sub
  have xl : ((s.handshakes 5 p 1).faultUncorrectable 5 p 0 (.tag tag) none).xl = s.xl := all .xl (by decide)
  exact ⟨_, (State.completion_open hq .poisoned rfl rfl ((congrArg Xl.waiting xl).trans hw)).trans
    (done_of_only all (congrArg Boot.power (all .boot (by decide)))), xl, uncorr, begins, others, all⟩

end

end

/-- Settles O36: a completion ends the request that its port and tag name, for whoever still waits. -/
theorem hostCompletions : Obligations.HostCompletions := by
  intro p tag q s hq hw
  exact ⟨fun r w page dst sp hk live => State.xlat_spec hw hq r w page dst sp hk live,
    fun sp a len bytes hk hlen => ⟨fun live there => State.data_spec hw hq sp a len bytes hk hlen live there,
      fun dead => State.data_discarded hw hq sp a len bytes hk hlen dead⟩,
    fun live asks => State.refused_spec hw hq live asks, fun hr he => State.poisoned_spec hw hq hr he⟩

end Sys2Proof.Machine
end


section
/-! The executor of admin command lists (11 R312 to R315). -/

namespace Sys2Proof.Machine

set_option Elab.async false

/-! ### Waits on a waypoint -/

/-- No operation of the task waits on waypoint `i`. -/
def Task.waitless (t : Task) (i : Nat) : Prop := ∀ y ∈ t.win, ∀ o a c, y.2 = some o → o.kind = .wait a c → wpIndex a ≠ i

/-- No task waits on waypoint `i`. -/
def State.waitless (s : State) (i : Nat) : Prop := ∀ x ∈ s.tasks, x.2.waitless i

theorem Tab.mem_erase {α : Type} (k : Nat) {e : Nat × α} : ∀ {t : Tab α}, e ∈ Tab.erase t k → e ∈ t
  | [], h => h
  | (i, a) :: t, h => by
    unfold Tab.erase at h
    split at h
    · exact List.mem_cons_of_mem _ (Tab.mem_erase k h)
    · rcases List.mem_cons.mp h with h | h
      · exact h ▸ List.mem_cons_self
      · exact List.mem_cons_of_mem _ (Tab.mem_erase k h)

theorem Tab.mem_insert {α : Type} (k : Nat) (v : α) {e : Nat × α} : ∀ {t : Tab α}, e ∈ Tab.insert t k v → e = (k, v) ∨ e ∈ t
  | [], h => .inl (List.mem_singleton.mp h)
  | (i, a) :: t, h => by
    unfold Tab.insert at h
    split at h
    · rcases List.mem_cons.mp h with h | h
      · exact .inr (h ▸ List.mem_cons_self)
      · exact (Tab.mem_insert k v h).imp_right (List.mem_cons_of_mem _)
    · exact List.mem_cons.mp h

theorem Tab.mem_set {α : Type} [DecidableEq α] {d : α} {t : Tab α} {k : Nat} {v : α} {e : Nat × α} (h : e ∈ Tab.set d t k v) : e = (k, v) ∨ e ∈ t := by
  unfold Tab.set at h
  split at h
  · exact .inr (Tab.mem_erase k h)
  · exact (Tab.mem_insert k v h).imp_right (Tab.mem_erase k)

theorem State.waitless_task {s : State} {i : Nat} (h : s.waitless i) (r : Nat) : (s.task r).waitless i := by
  unfold State.task Tab.get
  cases hf : Tab.find? s.tasks r with
  | none => exact fun y hy => absurd hy (by simp)
  | some t => exact h _ (Tab.mem_of_find? s.tasks r t hf)

theorem State.waitless_modTask {s : State} {i r : Nat} {f : Task → Task} (h : s.waitless i) (hf : ∀ t : Task, t.waitless i → (f t).waitless i) :
    (s.modTask r f).waitless i := by
  intro x hx
  rcases Tab.mem_set hx with rfl | hx
  · exact hf _ (State.waitless_task h r)
  · exact h x hx

/-! ### What a list brings -/

/-- A task but for its window and what has been read for it. -/
def Task.listed (t : Task) : Task := { t with lines := [], got := [], win := [] }

/-- From `s` to `u` what the list of record `r` needs has come. -/
structure State.poised (r : Nat) (s u : State) : Prop where
  only : s.only u [.xl, .cnt, .out, .freeCtr, .tasks]
  others : ∀ q, q ≠ r → u.task q = s.task q
  own : (u.task r).listed = (s.task r).listed
  waits : ∀ i, s.waitless i → u.waitless i

theorem State.poised_refl (r : Nat) (s : State) : State.poised r s s := ⟨State.only_refl s _, fun _ _ => rfl, rfl, fun _ h => h⟩

theorem State.poised_trans {r : Nat} {s t u : State} (h : State.poised r s t) (g : State.poised r t u) : State.poised r s u :=
  ⟨State.only_trans h.only g.only, fun q hq => (g.others q hq).trans (h.others q hq), g.own.trans h.own, fun i hi => g.waits i (h.waits i hi)⟩

theorem State.poised_of {r : Nat} {s u : State} (h : s.only u [.xl, .cnt, .out, .freeCtr]) : State.poised r s u := by
  have tasks : u.tasks = s.tasks := h .tasks (by decide)
  have task := State.task_of tasks
  exact ⟨h.sub, fun q _ => task q, by rw [task], fun i hi => by unfold State.waitless; rw [tasks]; exact hi⟩

theorem State.poised_modTask (s : State) (r : Nat) {f : Task → Task} (hl : ∀ t, (f t).listed = t.listed) (hw : ∀ t i, t.waitless i → (f t).waitless i) :
    State.poised r s (s.modTask r f) := by
  refine ⟨(State.only_modTask s r f).sub, fun q hq => State.modTask_task_ne s r f hq, ?_, fun i hi => State.waitless_modTask hi fun t => hw t i⟩
  rw [State.modTask_task_self]
  exact hl _

/-- Whoever asks is the task under record `r`. -/
def Who.isOf (r : Nat) (w : Who) : Prop := ∃ g, (∃ k, w = .op r g k) ∨ w = .prog r g

theorem State.poised_modGot (s : State) {r : Nat} {w : Who} (hw : w.isOf r) (f : List (Space × Nat × Nat) → List (Space × Nat × Nat)) :
    State.poised r s (s.modGot w f) := by
  obtain ⟨g, ⟨k, rfl⟩ | rfl⟩ := hw
  · unfold State.modGot
    refine State.poised_modTask s r ?_ ?_
    · intro t
      split <;> rfl
    · intro t i h
      split
      · next o ho =>
        intro y hy o' a c hy' hk
        have inside : y ∈ Tab.set none t.win k (some { o with got := f o.got }) := hy
        rcases Tab.mem_set inside with rfl | hy
        · cases hy'
          exact h _ (Tab.mem_of_get t.win k o ho) o a c rfl hk
        · exact h y hy o' a c hy' hk
      · exact h
  · unfold State.modGot
    refine State.poised_modTask s r ?_ ?_
    · exact fun _ => rfl
    · exact fun _ _ h => h

theorem State.poised_fetchPages {r : Nat} {w : Who} (hw : w.isOf r) : ∀ (l : List (Space × Nat × Nat)) (s : State) {u : State},
    s.fetchPages w l = .ok u → State.poised r s u := by
  intro l
  induction l with
  | nil =>
    intro s u h
    exact Prep.ok.inj h ▸ State.poised_refl r s
  | cons e l ih =>
    intro s u h
    obtain ⟨sp, a, len⟩ := e
    unfold State.fetchPages at h
    split at h
    · exact nomatch h
    · exact nomatch h
    · next v x hv =>
      refine State.poised_trans (State.poised_of (State.only_tryRange_ok hv).sub) ?_
      split at h
      · exact ih v h
      · split at h
        · exact nomatch h
        · split at h
          · exact nomatch h
          · split at h <;> exact nomatch h
        · next dev x' _ =>
          refine State.poised_trans (State.poised_of (u := ((v.handshakes 4 (dev % 8) 1).send (.deviceRead (dev % 8) dev x' len)).nextFree) ?_)
            (State.poised_trans (State.poised_modGot _ hw fun g => g ++ [(sp, a, len)]) (ih _ h))
          exact State.only_trans (State.only_trans (State.only_handshakes v _ _ _).sub (State.only_send _ _).sub) (State.only_nextFree _).sub
        · exact ih v h

theorem State.poised_tryWrites {r : Nat} (w : Who) : ∀ (l : List (Space × Nat × Nat)) (s : State) {u : State},
    s.tryWrites w l = .ok u → State.poised r s u := by
  intro l
  induction l with
  | nil =>
    intro s u h
    exact Prep.ok.inj h ▸ State.poised_refl r s
  | cons e l ih =>
    intro s u h
    obtain ⟨sp, a, len⟩ := e
    unfold State.tryWrites at h
    split at h
    · exact nomatch h
    · exact nomatch h
    · next v x hv =>
      split at h
      · exact nomatch h
      · exact State.poised_trans (State.poised_of (State.only_tryRange_ok hv).sub) (ih v h)

theorem State.roomFor_of_no_thread {s : State} {r : Nat} (h : (s.task r).thread = none) : s.roomFor r = s := by
  unfold State.roomFor
  rw [h]

theorem State.poised_thread {r : Nat} {s u : State} (h : State.poised r s u) : (u.task r).thread = (s.task r).thread := by
  have e := congrArg Task.thread h.own
  exact e

theorem State.poised_bringLine {s u : State} {r pc : Nat} (hn : (s.task r).thread = none) (h : s.bringLine r pc = .ok u) : State.poised r s u := by
  unfold State.bringLine at h
  dsimp only at h
  split at h
  · exact Prep.ok.inj h ▸ State.poised_refl r s
  · split at h
    · next v hv =>
      have came := State.poised_fetchPages (r := r) ⟨_, .inr rfl⟩ _ s hv
      split at h
      · exact nomatch h
      · rw [← Prep.ok.inj h, State.roomFor_of_no_thread ((State.poised_thread came).trans hn)]
        exact State.poised_trans came (State.poised_modTask v r (fun _ => rfl) fun _ _ h => h)
    · next x hx => exact absurd h (hx u)

/-! ### A command that runs -/

/-- The task of a list that runs, with a command in progress. -/
def Task.busy (t : Task) : Task := { t with st := .running, admBusy := true }

/-- The state in which the list's next command has begun. -/
def State.begun (s : State) (r : Nat) : State := (s.runList r).modTask r fun t => { t with admBusy := true }

theorem State.begun_task (s : State) (r : Nat) : (s.begun r).task r = (s.task r).busy := by
  unfold State.begun
  rw [State.modTask_task_self]
  unfold State.runList
  rw [State.modTask_task_self]
  rfl

theorem State.begun_other (s : State) {r q : Nat} (h : q ≠ r) : (s.begun r).task q = s.task q :=
  (State.modTask_task_ne _ r _ h).trans (State.modTask_task_ne s r _ h)

theorem State.only_begun (s : State) (r : Nat) : s.only (s.begun r) [.tasks] := State.only_trans (State.only_modTask s r _) (State.only_modTask _ r _)

/-- From `s` to `w` the list's next command has begun, and what it needs has come. -/
structure State.awaits (r : Nat) (s w : State) : Prop where
  only : s.only w [.xl, .cnt, .out, .freeCtr, .tasks]
  others : ∀ q, q ≠ r → w.task q = s.task q
  own : (w.task r).listed = (s.task r).busy.listed
  waits : ∀ i, s.waitless i → w.waitless i

theorem State.awaits_of {r : Nat} {s w : State} (h : State.poised r (s.begun r) w) : State.awaits r s w := by
  refine ⟨State.only_after h.only (State.only_begun s r).sub, fun q hq => (h.others q hq).trans (State.begun_other s hq), ?_, fun i hi => h.waits i ?_⟩
  · rw [h.own, State.begun_task]
  · exact State.waitless_modTask (State.waitless_modTask hi fun _ h => h) fun _ h => h

/-- The command of a ready list acts. -/
theorem State.admin_open {s w : State} {r : Nat} {c : AdmCmd} {b : List Byte} (h : s.admReady r c b w) : State.awaits r s w ∧
    ∀ x value, c.act ((s.task r).fk - 1024) (w.queueSpace (s.task r).qk) b w = .ok x value →
      s.admin r c = (x.writeResult (w.queueSpace (s.task r).qk) b 0 0 value).admNext r := by
  obtain ⟨u, v, x, y, runs, thread, whole, first, last, hb, op, layout, rows, result, reads, writes⟩ := h
  have free : ((s.begun r).task r).thread = none := by rw [State.begun_task]; exact thread
  have hu := State.poised_bringLine free first
  have hv := State.poised_trans hu (State.poised_bringLine ((State.poised_thread hu).trans free) last)
  have hx := State.poised_trans hv (State.poised_tryWrites (r := r) _ _ v result)
  have hy := State.poised_trans hx (State.poised_fetchPages (r := r) ⟨_, .inl ⟨_, rfl⟩⟩ _ x reads)
  have hw := State.poised_trans hy (State.poised_tryWrites (r := r) _ _ y writes)
  have fields : (v.task r).fk = (s.task r).fk ∧ (v.task r).qk = (s.task r).qk := by
    have own := hv.own
    rw [State.begun_task] at own
    have fk := congrArg Task.fk own
    have qk := congrArg Task.qk own
    exact ⟨fk, qk⟩
  have space : v.queueSpace (v.task r).qk = w.queueSpace (s.task r).qk := by
    have same : ∀ {a : State}, State.poised r (s.begun r) a → a.funcs = s.funcs ∧ a.queues = s.queues := fun h =>
      ⟨(h.only .funcs (by decide)).trans (State.only_begun s r .funcs (by decide)), (h.only .queues (by decide)).trans (State.only_begun s r .queues (by decide))⟩
    rw [fields.2, State.queueSpace_of (same hv).1 (same hv).2, State.queueSpace_of (same hw).1 (same hw).2]
  refine ⟨State.awaits_of hw, fun z value acts => ?_⟩
  have first' : ((s.runList r).modTask r fun t => { t with admBusy := true }).bringLine r (s.task r).ctx.pc = .ok u := first
  unfold State.admin
  rw [runs]
  dsimp only
  rw [if_neg (by decide), if_neg (not_not_intro whole), first']
  dsimp only
  rw [last]
  dsimp only
  rw [hb, if_pos (.inl op)]
  unfold State.admRun
  dsimp only
  rw [if_pos (show leAt b 0 1 = c.op ∧ layoutOk c.used b = true from ⟨op, layout⟩), rows, result]
  dsimp only
  rw [if_neg (by decide), reads]
  dsimp only
  rw [writes]
  dsimp only
  rw [fields.1, space, acts]

/-- The checks of a ready command hold in a state in which its bytes have come. -/
theorem State.admin_checked {s w : State} {r : Nat} {c : AdmCmd} {b : List Byte} (h : s.admReady r c b w) :
    ∃ v p, State.awaits r s v ∧ firstBad (c.rows p b v) = (0, 0) := by
  obtain ⟨u, v, x, y, -, thread, -, first, last, -, -, -, rows, -⟩ := h
  have free : ((s.begun r).task r).thread = none := by rw [State.begun_task]; exact thread
  have hu := State.poised_bringLine free first
  exact ⟨v, _, State.awaits_of (State.poised_trans hu (State.poised_bringLine ((State.poised_thread hu).trans free) last)), rows⟩

/-- A check that a list of checks makes does not apply where none does. -/
theorem firstBad_none : ∀ {l : List (Bool × Nat × Nat)}, (∀ x ∈ l, x.2 ≠ (0, 0)) → firstBad l = (0, 0) → ∀ x ∈ l, x.1 = false
  | [], _, _, x, hx => absurd hx (by simp)
  | (c, y) :: l, named, h, x, hx => by
    unfold firstBad at h
    cases hc : c with
    | true =>
      rw [hc, if_pos rfl] at h
      exact absurd h (named (c, y) List.mem_cons_self)
    | false =>
      rw [hc, if_neg Bool.false_ne_true] at h
      rcases List.mem_cons.mp hx with rfl | hx
      · exact hc
      · exact firstBad_none (fun x hx => named x (List.mem_cons_of_mem _ hx)) h x hx

/-! ### How a command ends -/

/-- A list whose command has completed: it stands before the next one, or has ended. -/
def Task.stepped (t : Task) : Task :=
  let u := { t with admDone := t.admDone + 1, admBusy := false, ctx := { t.ctx with pc := t.ctx.pc + 4 }, lines := [], got := [] }
  if u.progLen ≤ u.ctx.pc then { u with
    st := .committing, admBusy := false, ending := .admin, released := true, cstat := 0, summary := pack [(32, u.admDone), (8, 0)] }
  else if u.admStop then { u with
    st := .committing, admBusy := false, ending := .admin, released := true, cstat := u.cstat, summary := pack [(32, u.admDone), (8, 0)] }
  else u

theorem State.finishList_task (s : State) (r st dt : Nat) : (s.finishList r st dt).task r = { s.task r with
    st := .committing, admBusy := false, ending := .admin, released := true, cstat := st, summary := pack [(32, (s.task r).admDone), (8, dt)] } := by
  unfold State.finishList
  rw [State.modTask_task_self]
  unfold State.runList
  rw [State.modTask_task_self]

theorem State.only_finishList (s : State) (r st dt : Nat) : s.only (s.finishList r st dt) [.tasks] :=
  State.only_trans (State.only_modTask s r _) (State.only_modTask _ r _)

theorem State.finishList_other (s : State) (st dt : Nat) {r q : Nat} (h : q ≠ r) : (s.finishList r st dt).task q = s.task q :=
  (State.modTask_task_ne _ r _ h).trans (State.modTask_task_ne s r _ h)

theorem State.admNext_spec (s : State) (r : Nat) : s.only (s.admNext r) [.tasks, .xl] ∧ (s.admNext r).task r = (s.task r).stepped ∧
    ∀ q, q ≠ r → (s.admNext r).task q = s.task q := by
  unfold State.admNext
  dsimp only
  have drop := State.only_dropX s (Who.ofTask r (s.task r).gen)
  have task := State.task_of (drop .tasks (by decide))
  generalize s.dropX (Who.ofTask r (s.task r).gen) = a at *
  have mod := State.only_modTask a r fun t =>
    { t with admDone := t.admDone + 1, admBusy := false, ctx := { t.ctx with pc := t.ctx.pc + 4 }, lines := [], got := [] }
  have self := State.modTask_task_self a r fun t =>
    { t with admDone := t.admDone + 1, admBusy := false, ctx := { t.ctx with pc := t.ctx.pc + 4 }, lines := [], got := [] }
  have others := fun q (hq : q ≠ r) => State.modTask_task_ne a r (fun t =>
    { t with admDone := t.admDone + 1, admBusy := false, ctx := { t.ctx with pc := t.ctx.pc + 4 }, lines := [], got := [] }) hq
  rw [task] at self
  generalize (a.modTask r fun t =>
    { t with admDone := t.admDone + 1, admBusy := false, ctx := { t.ctx with pc := t.ctx.pc + 4 }, lines := [], got := [] }) = c at *
  have only : s.only c [.tasks, .xl] := State.only_after mod.sub drop.sub
  have ends : ∀ d, s.only (c.finishList r d 0) [.tasks, .xl] := fun d => State.only_after (State.only_finishList c r d 0).sub only
  have other : ∀ q, q ≠ r → c.task q = s.task q := fun q hq => (others q hq).trans (task q)
  unfold Task.stepped
  dsimp only
  rw [self]
  dsimp only
  split
  · refine ⟨ends _, ?_, fun q hq => (State.finishList_other c _ _ hq).trans (other q hq)⟩
    rw [State.finishList_task, self]
  · split
    · refine ⟨ends _, ?_, fun q hq => (State.finishList_other c _ _ hq).trans (other q hq)⟩
      rw [State.finishList_task, self]
    · exact ⟨only, self, other⟩

theorem State.only_writeResult (s : State) (sp : Space) (b : List Byte) (st dt v : Nat) : s.only (s.writeResult sp b st dt v) [.out, .cnt, .sto] :=
  State.only_ite _ (State.only_refl s _) (State.only_hostWrite s sp _ _)

/-- The parts that the end of a command may reach. -/
def admEndParts : List Field := [.tasks, .sto, .xl, .out, .cnt, .freeCtr]

theorem Task.stepped_facts (t : Task) : t.stepped.admDone = t.admDone + 1 ∧
    (t.ctx.pc + 4 < t.progLen → t.admStop = false → t.stepped.st = t.st ∧ t.stepped.ctx.pc = t.ctx.pc + 4) ∧
    (t.progLen ≤ t.ctx.pc + 4 → t.stepped.st = .committing ∧ t.stepped.cstat = 0 ∧ t.stepped.summary = pack [(32, t.admDone + 1), (8, 0)]) := by
  unfold Task.stepped
  dsimp only
  by_cases h : t.progLen ≤ t.ctx.pc + 4
  · rw [if_pos h]
    exact ⟨rfl, fun g => absurd h (Nat.not_le.mpr g), fun _ => ⟨rfl, rfl, rfl⟩⟩
  · rw [if_neg h]
    refine ⟨by split <;> rfl, fun _ g => ?_, fun g => absurd g h⟩
    rw [g, if_neg Bool.false_ne_true]
    exact ⟨rfl, rfl⟩

/-- A command of a list that has acted in `x` completes with a value. -/
theorem State.admin_ends {s w x : State} {r : Nat} {b : List Byte} (aw : State.awaits r s w) (value : Nat) (f : Task → Task) {l : List Field}
    (only : s.only x (admEndParts ++ l)) (own : ∃ y : Task, y.listed = (w.task r).listed ∧ x.task r = f y)
    (hf : ∀ y, (f y).admDone = y.admDone ∧ (f y).ctx = y.ctx ∧ (f y).progLen = y.progLen ∧ (f y).admStop = y.admStop ∧ (f y).st = y.st)
    (others : ∀ q, q ≠ r → x.task q = f (s.task q)) (reach : ∀ sp a, x.reach sp a = w.reach sp a) :
    ∃ t, done s ((x.writeResult (w.queueSpace (s.task r).qk) b 0 0 value).admNext r) = .next t ∧ s.admEnds w t r b value f ∧
      s.only t (admEndParts ++ l) ∧ (∀ o ∈ x.out, o ∈ t.out) ∧ (resAddr b = 0 → t.sto = x.sto) ∧
      (∀ g, g ∉ [Field.tasks, .sto, .xl, .out, .cnt, .freeCtr, .pending, .latch] → g.same x t) := by
  have stands : (x.task r).admDone = (s.task r).admDone ∧ (x.task r).ctx = (s.task r).ctx ∧ (x.task r).progLen = (s.task r).progLen ∧
      (x.task r).admStop = (s.task r).admStop ∧ (x.task r).st = .running := by
    obtain ⟨y, hy, e⟩ := own
    obtain ⟨admDone, ctx, progLen, admStop, st⟩ := hf y
    have h := hy.trans aw.own
    have h1 := congrArg Task.admDone h
    have h2 := congrArg Task.ctx h
    have h3 := congrArg Task.progLen h
    have h4 := congrArg Task.admStop h
    have h5 := congrArg Task.st h
    rw [e]
    exact ⟨admDone.trans h1, ctx.trans h2, progLen.trans h3, admStop.trans h4, st.trans h5⟩
  have written := State.only_writeResult x (w.queueSpace (s.task r).qk) b 0 0 value
  have sto : resAddr b = 0 → (x.writeResult (w.queueSpace (s.task r).qk) b 0 0 value).sto = x.sto := fun h => by
    unfold State.writeResult
    rw [if_pos (.inl h)]
  have heard : x.hushed (x.writeResult (w.queueSpace (s.task r).qk) b 0 0 value) := by
    unfold State.writeResult
    split
    · exact State.hushed_of_out rfl
    · exact State.hushed_hostWrite x _ _ _
  have wrote : resAddr b ≠ 0 → resBad b = false → w.wroteHost (x.writeResult (w.queueSpace (s.task r).qk) b 0 0 value)
      (w.queueSpace (s.task r).qk) (resAddr b) (leBytes 8 0 ++ leBytes 8 value) := fun hn hg => by
    unfold State.writeResult
    rw [if_neg (fun h => h.elim hn (ne_true_of_eq_false hg))]
    intro c hc p y hr
    exact State.wroteHost_hostWrite x (w.queueSpace (s.task r).qk) (resAddr b) (leBytes 8 0 ++ leBytes 8 value) c hc p y ((reach _ _).trans hr)
  generalize x.writeResult (w.queueSpace (s.task r).qk) b 0 0 value = a at *
  obtain ⟨onlyN, selfN, othersN⟩ := State.admNext_spec a r
  generalize a.admNext r = z at *
  obtain ⟨t, ht, -, -, ends, all⟩ := done_spec s z
  have task := State.task_of (ends .tasks (by decide))
  have taskA := State.task_of (written .tasks (by decide))
  have out : t.out = a.out := (ends .out (by decide)).trans (onlyN .out (by decide))
  obtain ⟨counted, next, last⟩ := Task.stepped_facts (x.task r)
  obtain ⟨admDone, ctx, progLen, admStop, st⟩ := stands
  rw [admDone, ctx, progLen] at last
  rw [ctx, progLen, admStop, st] at next
  have self : t.task r = (x.task r).stepped := by rw [task, selfN, taskA]
  refine ⟨t, ht, ⟨?_, ?_, ?_, fun hn hg => ?_, fun q hq => ?_⟩, ?_, fun o ho => ?_, fun h => ?_, fun g hg => ?_⟩
  · rw [self, counted, admDone]
  · rw [self]
    exact next
  · rw [self]
    exact last
  · exact State.wroteHost_later (wrote hn hg) fun o ho => by rw [out]; exact ho
  · rw [task, othersN q hq, taskA]
    exact others q hq
  · exact all _ (List.mem_append_left _ (by decide)) (State.only_trans only (State.only_mono (l := [.out, .cnt, .sto, .tasks, .xl])
      (State.only_trans written.sub onlyN.sub) fun g hg => List.mem_append_left _ (by revert hg; cases g <;> decide)))
  · rw [out]
    exact State.hushed_mem heard ho
  · exact (ends .sto (by decide)).trans ((onlyN .sto (by decide)).trans (sto h))
  · exact State.only_trans (State.only_mono written (by decide)) (State.only_trans (State.only_mono onlyN (by decide)) (State.only_mono ends (by decide))) g hg

end Sys2Proof.Machine
end


section
/-! Admin commands on imports and waypoints (11 R326; 12 R337 to R339, R345, R347). -/

namespace Sys2Proof.Machine

set_option Elab.async false

/-! ### Commands that change no task -/

/-- What a command leaves behind that changes parts `l` alone, and no task or translation. -/
structure State.adminDone (s w x t : State) (r : Nat) (b : List Byte) (value : Nat) (l : List Field) : Prop where
  ends : s.admEnds w t r b value id
  only : s.only t (admEndParts ++ l)
  out : ∀ o ∈ x.out, o ∈ t.out
  sto : resAddr b = 0 → t.sto = x.sto
  same : ∀ g, g ∉ [Field.tasks, .sto, .xl, .out, .cnt, .freeCtr, .pending, .latch] → g.same x t

theorem State.admin_acts {s w x : State} {r : Nat} {c : AdmCmd} {b : List Byte} {value : Nat} {l : List Field} (h : s.admReady r c b w)
    (act : c.act ((s.task r).fk - 1024) (w.queueSpace (s.task r).qk) b w = .ok x value) (only : w.only x (admEndParts ++ l)) (tasks : x.tasks = w.tasks)
    (reach : ∀ sp a, x.reach sp a = w.reach sp a) : ∃ t, done s (s.admin r c) = .next t ∧ State.adminDone s w x t r b value l := by
  obtain ⟨aw, run⟩ := State.admin_open h
  have task := State.task_of tasks
  have reached : s.only x (admEndParts ++ l) := State.only_trans
    (State.only_mono aw.only fun f hf => List.mem_append_left _ (by revert hf; cases f <;> decide)) only
  obtain ⟨t, ht, ends, all, out, sto, same⟩ := State.admin_ends aw value id reached ⟨w.task r, rfl, task r⟩ (fun _ => ⟨rfl, rfl, rfl, rfl, rfl⟩)
    (fun q hq => (task q).trans (aw.others q hq)) reach
  rw [run x value act]
  exact ⟨t, ht, ends, all, out, sto, same⟩

theorem State.admin_simple {s w x : State} {r : Nat} {c : AdmCmd} {b : List Byte} {value : Nat} {l : List Field} (h : s.admReady r c b w)
    (act : c.act ((s.task r).fk - 1024) (w.queueSpace (s.task r).qk) b w = .ok x value) (only : w.only x l) (tasks : x.tasks = w.tasks)
    (reach : ∀ sp a, x.reach sp a = w.reach sp a) : ∃ t, done s (s.admin r c) = .next t ∧ State.adminDone s w x t r b value l :=
  State.admin_acts h act (State.only_mono only fun _ hf => List.mem_append_right _ hf) tasks reach

/-! ### Imports -/

theorem State.awaits_part {r : Nat} {s w : State} (h : State.awaits r s w) (m : Nat) : w.part m = s.part m := State.part_of (h.only .parts (by decide)) m

theorem State.awaits_func {r : Nat} {s w : State} (h : State.awaits r s w) (f : Nat) : w.func f = s.func f := State.func_of (h.only .funcs (by decide)) f

theorem State.awaits_bindPart {r : Nat} {s w : State} (h : State.awaits r s w) (v : Nat) : w.bindPart v = s.bindPart v := by
  unfold State.bindPart
  rw [State.awaits_func h]

/-- A command that changes one partition. -/
theorem State.admin_part {s w : State} {r : Nat} {c : AdmCmd} {b : List Byte} (h : s.admReady r c b w) (p : Nat) (f : Part → Part)
    (act : c.act ((s.task r).fk - 1024) (w.queueSpace (s.task r).qk) b w = .ok (w.modPart p f) 0) :
    ∃ t, done s (s.admin r c) = .next t ∧ (t.part p = f (s.part p) ∧ ∀ m, m ≠ p → t.part m = s.part m) ∧ s.admEnds w t r b 0 id ∧
      s.only t (admEndParts ++ [.parts]) := by
  obtain ⟨t, ht, ends, only, -, -, same⟩ := State.admin_simple h act (State.only_modPart w p f) rfl fun _ _ => rfl
  have part := State.part_of (same .parts (by decide))
  have was := State.awaits_part (State.admin_open h).1
  refine ⟨t, ht, ⟨?_, fun m hm => ?_⟩, ends, only⟩
  · rw [part, State.modPart_part_self, was]
  · rw [part, State.modPart_part_ne w p f hm, was]

/-! ### Waypoints -/

theorem State.wpLive_of {s w : State} (h : w.wps = s.wps) (x : W64) : w.wpLive x = s.wpLive x := by
  unfold State.wpLive
  rw [State.wp_of h]

theorem State.inScope_of {s w : State} (hf : w.funcs = s.funcs) (f v code : Nat) : w.inScope f v code = s.inScope f v code := by
  unfold State.inScope State.bound State.bindPart State.vfPort State.inRange State.vfBase State.vfCount State.func
  rw [hf]

/-- A change of every listed function reaches each of them. -/
theorem State.each_modFunc {P : Func → Prop} (g : Func → Func) (make : ∀ f, P (g f)) (dflt : P {}) (s : State) (fk : Nat) :
    P ((s.each (s.funcs.map (·.1)) fun u k => u.modFunc k g).func fk) := by
  have keep : ∀ (u : State) (k : Nat), P (u.func fk) → P ((u.modFunc k g).func fk) := fun u k h => by
    rw [State.modFunc_func]
    split
    · exact make _
    · exact h
  by_cases hk : fk ∈ s.funcs.map (·.1)
  · refine State.each_reaches (P := fun u => P (u.func fk)) hk (fun u => ?_) (fun u k h => keep u k h) s
    rw [State.modFunc_func, if_pos rfl]
    exact make _
  · refine State.each_keeps (P := fun u => P (u.func fk)) (fun u k h => keep u k h) _ s ?_
    have none : Tab.find? s.funcs fk = none := by
      cases hf : Tab.find? s.funcs fk with
      | none => rfl
      | some x => exact absurd (List.mem_map.mpr ⟨(fk, x), Tab.mem_of_find? _ _ _ hf, rfl⟩) hk
    have get : s.func fk = (Tab.find? s.funcs fk).getD {} := rfl
    rw [get, none]
    exact dflt

theorem State.only_each_modFunc (g : Func → Func) (l : List Nat) (s : State) : s.only (s.each l fun u k => u.modFunc k g) [.funcs] :=
  State.only_each _ (fun u k => State.only_modFunc u k g) l s

/-- A slot that holds handle `h` disarms. -/
def Slot.disarmFor (h : W64) (x : Slot) : Slot := if x.handle = h then { x with armed := false } else x

/-- The slots of a function that hold handle `h` disarm. -/
def Func.disarm (h : W64) (f : Func) : Func := { f with slots := f.slots.map fun x => (x.1, x.2.disarmFor h) }

theorem Func.disarm_slots (h : W64) (f : Func) (k : Nat) (hh : (Tab.get {} (f.disarm h).slots k : Slot).handle = h) :
    (Tab.get {} (f.disarm h).slots k : Slot).armed = false := by
  have found : Tab.find? (f.disarm h).slots k = (Tab.find? f.slots k).map (Slot.disarmFor h) := Tab.find?_mapVal (Slot.disarmFor h) k f.slots
  unfold Tab.get at hh ⊢
  rw [found] at hh ⊢
  cases hf : Tab.find? f.slots k with
  | none => rfl
  | some x =>
    rw [hf] at hh
    have hold : (x.disarmFor h).handle = h := hh
    show (x.disarmFor h).armed = false
    unfold Slot.disarmFor at hold ⊢
    by_cases e : x.handle = h
    · rw [if_pos e]
    · rw [if_neg e] at hold
      exact absurd hold e

/-- The waypoint of a handle in `s` lives no more. -/
def State.wpDropped (s : State) (i : Nat) : State :=
  (s.modWp i fun w => { w with live := false }).modWps fun w => { w with freed := w.freed ++ [i] }

/-- The slots and lanterns of a waypoint that has been freed. -/
def State.wpForgotten (s : State) (h : W64) : State :=
  (s.each (s.funcs.map (·.1)) fun u fk => u.modFunc fk (Func.disarm h)).modWps fun w => { w with lans := w.lans.filter fun l => l.idx != wpIndex h }

theorem State.wpFree_eq (s : State) (h : W64) : s.wpFree h = ((s.wpDropped (wpIndex h)).failWaits (wpIndex h) 0x18).wpForgotten h := rfl

theorem State.each_of_nil {α : Type} {s : State} {l : List α} {g : State → α → State} (h : l = []) : s.each l g = s := by
  rw [h]
  rfl

theorem State.failWaits_of_none {s : State} {i st : Nat} (h : s.waitless i) : s.failWaits i st = s := by
  unfold State.failWaits
  refine State.each_of_nil (List.filterMap_eq_nil_iff.mpr fun x hx => ?_)
  rw [if_neg]
  intro hit
  obtain ⟨y, hy, e⟩ := List.any_eq_true.mp hit
  split at e
  · next o ho =>
    split at e
    · next a c hk => exact h x hx y hy o a c ho hk (eq_of_beq e)
    · exact absurd e Bool.false_ne_true
  · exact absurd e Bool.false_ne_true

theorem State.only_wpForgotten (s : State) (h : W64) : s.only (s.wpForgotten h) [.funcs, .wps] :=
  State.only_after (State.only_modWps _ _).sub (State.only_each_modFunc _ _ s).sub

theorem State.wpForgotten_wps (s : State) (h : W64) : (s.wpForgotten h).wps = { s.wps with lans := s.wps.lans.filter fun l => l.idx != wpIndex h } := by
  have e := State.only_each_modFunc (Func.disarm h) (s.funcs.map (·.1)) s .wps (by decide)
  exact congrArg (fun w : WpStore => { w with lans := w.lans.filter fun l => l.idx != wpIndex h }) e

theorem State.wpForgotten_slots (s : State) (h : W64) (fk k : Nat) (hh : (Tab.get {} ((s.wpForgotten h).func fk).slots k : Slot).handle = h) :
    (Tab.get {} ((s.wpForgotten h).func fk).slots k : Slot).armed = false :=
  State.each_modFunc (P := fun f => (Tab.get {} f.slots k : Slot).handle = h → (Tab.get {} f.slots k : Slot).armed = false) (Func.disarm h)
    (fun f => Func.disarm_slots h f k) (fun _ => rfl) s fk hh

/-- WP_FREE of a waypoint on which nothing waits. -/
theorem State.wpFree_quiet {s w : State} {r : Nat} {b : List Byte} (h : s.admReady r cmdWpFree b w) (live : s.wpLive (cmdHandle b) = true)
    (quiet : s.waitless (wpIndex (cmdHandle b))) : ∃ t, exec (.wpFree r) s = .next t ∧
      (t.wp (wpIndex (cmdHandle b)) = { s.wp (wpIndex (cmdHandle b)) with live := false } ∧
        (∀ k, k ≠ wpIndex (cmdHandle b) → t.wp k = s.wp k) ∧ t.wps.freed = s.wps.freed ++ [wpIndex (cmdHandle b)] ∧
        t.wps.lans = (s.wps.lans.filter fun l => l.idx != wpIndex (cmdHandle b)) ∧
        ∀ fk k, (Tab.get {} (t.func fk).slots k).handle = cmdHandle b → (Tab.get {} (t.func fk).slots k).armed = false) ∧
      s.admEnds w t r b 0 id ∧ s.only t (admEndParts ++ [.wps, .funcs]) := by
  obtain ⟨aw, -⟩ := State.admin_open h
  have wps : w.wps = s.wps := aw.only .wps (by decide)
  have dropped : (w.wpDropped (wpIndex (cmdHandle b))).waitless (wpIndex (cmdHandle b)) := aw.waits _ quiet
  have free : w.wpFree (cmdHandle b) = (w.wpDropped (wpIndex (cmdHandle b))).wpForgotten (cmdHandle b) := by
    rw [State.wpFree_eq, State.failWaits_of_none dropped]
  have act : cmdWpFree.act ((s.task r).fk - 1024) (w.queueSpace (s.task r).qk) b w =
      .ok ((w.wpDropped (wpIndex (cmdHandle b))).wpForgotten (cmdHandle b)) 0 := by
    rw [← free]
    exact if_pos ((State.wpLive_of wps _).trans live)
  have forgot := State.only_wpForgotten (w.wpDropped (wpIndex (cmdHandle b))) (cmdHandle b)
  have stores := State.wpForgotten_wps (w.wpDropped (wpIndex (cmdHandle b))) (cmdHandle b)
  have slots := State.wpForgotten_slots (w.wpDropped (wpIndex (cmdHandle b))) (cmdHandle b)
  have drop : w.only (w.wpDropped (wpIndex (cmdHandle b))) [.wps] := State.only_trans (State.only_modWp w _ _) (State.only_modWps _ _)
  have self : (w.wpDropped (wpIndex (cmdHandle b))).wp (wpIndex (cmdHandle b)) = { w.wp (wpIndex (cmdHandle b)) with live := false } :=
    State.modWp_wp_self w (wpIndex (cmdHandle b)) fun w => { w with live := false }
  have others : ∀ k, k ≠ wpIndex (cmdHandle b) → (w.wpDropped (wpIndex (cmdHandle b))).wp k = w.wp k := fun k hk =>
    State.modWp_wp_ne w (wpIndex (cmdHandle b)) (fun w => { w with live := false }) hk
  have freed : (w.wpDropped (wpIndex (cmdHandle b))).wps.freed = w.wps.freed ++ [wpIndex (cmdHandle b)] := rfl
  have lans : (w.wpDropped (wpIndex (cmdHandle b))).wps.lans = w.wps.lans := rfl
  generalize w.wpDropped (wpIndex (cmdHandle b)) = a at *
  have only : w.only (a.wpForgotten (cmdHandle b)) [.wps, .funcs] := State.only_after forgot.sub drop.sub
  obtain ⟨t, ht, ends, all, -, -, same⟩ := State.admin_simple h act only (only .tasks (by decide))
    (State.reach_of (only .xl (by decide)) (only .objs (by decide)))
  have wps' : t.wps = { a.wps with lans := a.wps.lans.filter fun l => l.idx != wpIndex (cmdHandle b) } := (same .wps (by decide)).trans stores
  have wp : ∀ k, t.wp k = a.wp k := fun k => by
    unfold State.wp
    rw [wps']
  refine ⟨t, ht, ⟨?_, fun k hk => ?_, ?_, ?_, fun fk k hh => ?_⟩, ends, all⟩
  · rw [wp, self, State.wp_of wps]
  · rw [wp, others k hk, State.wp_of wps]
  · rw [wps', ← wps]
    exact freed
  · rw [wps', ← wps, ← lans]
  · rw [State.func_of (same .funcs (by decide))] at hh ⊢
    exact slots fk k hh

/-- WP_FREE: the waypoint lives no more, and every WAIT on it fails. -/
theorem State.wpFree_kills {s w : State} {r : Nat} {b : List Byte} (h : s.admReady r cmdWpFree b w) (live : s.wpLive (cmdHandle b) = true) :
    ∃ t, exec (.wpFree r) s = .next t ∧ (t.wp (wpIndex (cmdHandle b))).live = false ∧
      ∀ q slot o a c, q ≠ r → (s.task q).op slot = some o → o.kind = .wait a c → wpIndex a = wpIndex (cmdHandle b) → (s.task q).killable = true →
        (t.task q).st = .killed ∧ (t.task q).after = some (.fail 0x18) := by
  obtain ⟨aw, run⟩ := State.admin_open h
  have wps : w.wps = s.wps := aw.only .wps (by decide)
  have act : cmdWpFree.act ((s.task r).fk - 1024) (w.queueSpace (s.task r).qk) b w = .ok (w.wpFree (cmdHandle b)) 0 :=
    if_pos ((State.wpLive_of wps _).trans live)
  have go : exec (.wpFree r) s = done s (((w.wpFree (cmdHandle b)).writeResult (w.queueSpace (s.task r).qk) b 0 0 0).admNext r) :=
    congrArg (done s) (run _ 0 act)
  rw [go, State.wpFree_eq]
  have dead : ((w.wpDropped (wpIndex (cmdHandle b))).wp (wpIndex (cmdHandle b))).live = false :=
    congrArg Wp.live (State.modWp_wp_self w (wpIndex (cmdHandle b)) fun w => { w with live := false })
  have tasks : ∀ q, (w.wpDropped (wpIndex (cmdHandle b))).task q = w.task q := fun _ => rfl
  generalize w.wpDropped (wpIndex (cmdHandle b)) = a at *
  have culls : a.culls (a.failWaits (wpIndex (cmdHandle b)) 0x18) := State.culls_foldl (fun u q => State.culls_failTask u q 0x18) _ a
  have kills : ∀ q slot o x c, (a.task q).op slot = some o → o.kind = .wait x c → wpIndex x = wpIndex (cmdHandle b) → (a.task q).killable = true →
      (a.task q).killedBy ((a.failWaits (wpIndex (cmdHandle b)) 0x18).task q) (.fail 0x18) := fun q slot o x c ho hk hx hkill => by
    refine State.killed_of_mem (fun _ => .fail 0x18) (fun u q => State.culls_failTask u q 0x18) (fun u q => State.reaps_failTask u q 0x18)
      (fun v q _ hf hk' => Task.killedBy_trans hf (State.failTask_spec v q 0x18 (by rw [Task.fewerOps_killable hf]; exact hk'))) _ q ?_ hkill
    refine State.mem_recsWhere a _ q (List.any_eq_true.mpr ⟨(slot, some o), Tab.mem_of_get _ _ _ ho, ?_⟩) rfl
    dsimp only
    rw [hk]
    exact beq_iff_eq.mpr hx
  generalize a.failWaits (wpIndex (cmdHandle b)) 0x18 = k at *
  have keep : k.wp (wpIndex (cmdHandle b)) = a.wp (wpIndex (cmdHandle b)) := by
    have e := congrArg WpStore.tab (State.wps_unended culls.kept)
    exact congrArg (fun t : Tab Wp => Tab.get ({} : Wp) t (wpIndex (cmdHandle b))) e
  have forgot := State.only_wpForgotten k (cmdHandle b)
  have stores := State.wpForgotten_wps k (cmdHandle b)
  generalize k.wpForgotten (cmdHandle b) = x at *
  have written := State.only_writeResult x (w.queueSpace (s.task r).qk) b 0 0 0
  generalize x.writeResult (w.queueSpace (s.task r).qk) b 0 0 0 = y at *
  obtain ⟨only, -, others⟩ := State.admNext_spec y r
  obtain ⟨t, ht, -, -, ends, -⟩ := done_spec s (y.admNext r)
  have wp : t.wp (wpIndex (cmdHandle b)) = k.wp (wpIndex (cmdHandle b)) :=
    (State.wp_of ((ends .wps (by decide)).trans ((only .wps (by decide)).trans (written .wps (by decide)))) _).trans
      (by unfold State.wp; rw [stores])
  refine ⟨t, ht, by rw [wp, keep]; exact dead, fun q slot o z c hq ho hk hx hkill => ?_⟩
  have was : a.task q = s.task q := (tasks q).trans (aw.others q hq)
  have now : t.task q = k.task q := (State.task_of (ends .tasks (by decide)) q).trans ((others q hq).trans
    ((State.task_of (written .tasks (by decide)) q).trans (State.task_of (forgot .tasks (by decide)) q)))
  obtain ⟨st, after, -⟩ := Task.killedBy_fields (kills q slot o z c (by rw [was]; exact ho) hk hx (by rw [was]; exact hkill))
  rw [now]
  exact ⟨st, after⟩

/-- The waypoint that a command creates under generation `g`. -/
def newWp (b : List Byte) (g : Nat) : Wp :=
  { value := BitVec.ofNat 64 (leAt b 0x18 8), live := true, gen := g, owner := leAt b 0x10 2, sigScope := leAt b 0x12 1, waitScope := leAt b 0x13 1
    peer := (leAt b 0x14 1).testBit 0, poisoned := false }

/-- WP_CREATE takes a number. -/
theorem State.wpCreate_spec {s w : State} {r : Nat} {b : List Byte} (h : s.admReady r cmdWpCreate b w) (hs : leAt b 0x12 1 ≤ 3) (hw : leAt b 0x13 1 ≤ 3)
    (op : leAt b 0x12 1 = 3 ∨ leAt b 0x13 1 = 3 → s.isOp ((s.task r).fk - 1024) = true) (i : Nat) (hi : s.wpNumber = some i) :
    let g := if ((s.wp i).gen + 1) % 65536 = 0 then 1 else ((s.wp i).gen + 1) % 65536
    ∃ t, exec (.wpCreate r) s = .next t ∧ (t.wp i = newWp b g ∧
      (∀ k, k ≠ i → t.wp k = s.wp k) ∧ t.wps.next = max s.wps.next (i + 1) ∧ t.wps.lans = s.wps.lans) ∧
      s.admEnds w t r b (g * 2 ^ 48 + i) id ∧ s.only t (admEndParts ++ [.wps]) := by
  intro g
  obtain ⟨aw, -⟩ := State.admin_open h
  have wps : w.wps = s.wps := aw.only .wps (by decide)
  have boot : w.boot = s.boot := aw.only .boot (by decide)
  have number : w.wpNumber = some i := by
    unfold State.wpNumber at hi ⊢
    rw [wps]
    exact hi
  have opened : w.isOp ((s.task r).fk - 1024) = s.isOp ((s.task r).fk - 1024) := by
    unfold State.isOp
    rw [boot]
  have act : cmdWpCreate.act ((s.task r).fk - 1024) (w.queueSpace (s.task r).qk) b w =
      .ok ((w.modWp i fun _ => newWp b g).modWps fun w =>
          { w with next := max w.next (i + 1), freed := w.freed.filter (· != i) }) (g * 2 ^ 48 + i) := by
    show wpCreateAct ((s.task r).fk - 1024) (w.queueSpace (s.task r).qk) b w = _
    unfold wpCreateAct
    dsimp only
    rw [if_neg fun e => by rw [opened, op e.1] at e; exact absurd e.2 (by decide), if_neg (by omega), number]
    dsimp only
    rw [State.wp_of wps]
    rfl
  have only : w.only ((w.modWp i fun _ => newWp b g).modWps fun w =>
      { w with next := max w.next (i + 1), freed := w.freed.filter (· != i) }) [.wps] := State.only_trans (State.only_modWp w _ _) (State.only_modWps _ _)
  obtain ⟨t, ht, ends, all, -, -, same⟩ := State.admin_simple h act only rfl fun _ _ => rfl
  have wp := State.wp_of (same .wps (by decide))
  refine ⟨t, ht, ⟨?_, fun k hk => ?_, ?_, ?_⟩, ends, all⟩
  · rw [wp]
    exact State.modWp_wp_self w i fun _ => newWp b g
  · rw [wp, ← State.wp_of wps]
    exact State.modWp_wp_ne w i (fun _ => newWp b g) hk
  · rw [same .wps (by decide), ← wps]
    rfl
  · rw [same .wps (by decide), ← wps]
    rfl

/-- A slot that records a handle and a vector, or is emptied. -/
def Slot.exported (x : Slot) (h : W64) (vec : Nat) : Slot := if h = 0 then {} else { x with handle := h, vector := vec, armed := false }

/-- WP_EXPORT of a handle in scope, or of none. -/
theorem State.wpExport_spec {s w : State} {r : Nat} {b : List Byte} (h : s.admReady r cmdWpExport b w) :
    let fk := exportFunc ((s.task r).fk - 1024) b
    let k := leAt b 0x12 1
    let vec := leAt b 0x13 1
    let x := s.wp (wpIndex (cmdHandle b))
    (cmdHandle b ≠ 0 → s.wpLive (cmdHandle b) = true ∧ (s.inScope fk x.owner x.sigScope = true ∨ s.inScope fk x.owner x.waitScope = true)) →
    vec ≤ (if 1024 ≤ fk then 15 else 63) → ∃ t, exec (.wpExport r) s = .next t ∧
      (Tab.get {} (t.func fk).slots k = Slot.exported (Tab.get {} (s.func fk).slots k) (cmdHandle b) vec ∧
        (∀ j, j ≠ k → Tab.get {} (t.func fk).slots j = Tab.get {} (s.func fk).slots j) ∧
        (∀ f, f ≠ fk → t.func f = s.func f) ∧ t.wps = { s.wps with lans := t.wps.lans } ∧
        ∀ l, l ∈ t.wps.lans ↔ l ∈ s.wps.lans ∧ l.kind ≠ .slot fk k) ∧
      s.admEnds w t r b 0 id ∧ s.only t (admEndParts ++ [.funcs, .wps]) := by
  intro fk k vec x named few
  obtain ⟨aw, -⟩ := State.admin_open h
  have wps : w.wps = s.wps := aw.only .wps (by decide)
  have funcs : w.funcs = s.funcs := aw.only .funcs (by decide)
  have act : cmdWpExport.act ((s.task r).fk - 1024) (w.queueSpace (s.task r).qk) b w =
      .ok ((w.modWps fun w => { w with lans := w.lans.filter fun l => l.kind != .slot fk k }).modFunc fk fun f =>
        { f with slots := Tab.set {} f.slots k (Slot.exported (Tab.get {} f.slots k) (cmdHandle b) vec) }) 0 := by
    show wpExportAct ((s.task r).fk - 1024) (w.queueSpace (s.task r).qk) b w = _
    unfold wpExportAct
    dsimp only
    rw [State.wpLive_of wps, State.wp_of wps, State.inScope_of funcs, State.inScope_of funcs]
    rw [if_neg fun e => by rw [(named e.1).1] at e; exact absurd e.2 (by decide), if_neg fun e => by
      rcases (named e.1).2 with g | g
      · exact absurd ((Bool.or_eq_false_iff.mp e.2).1.symm.trans g) (by decide)
      · exact absurd ((Bool.or_eq_false_iff.mp e.2).2.symm.trans g) (by decide)]
    exact if_neg (Nat.not_lt.mpr few)
  have only : w.only ((w.modWps fun w => { w with lans := w.lans.filter fun l => l.kind != .slot fk k }).modFunc fk fun f =>
      { f with slots := Tab.set {} f.slots k (Slot.exported (Tab.get {} f.slots k) (cmdHandle b) vec) }) [.funcs, .wps] :=
    State.only_after (State.only_modFunc _ _ _).sub (State.only_modWps w _).sub
  obtain ⟨t, ht, ends, all, -, -, same⟩ := State.admin_simple h act only rfl fun _ _ => rfl
  have func := State.func_of (same .funcs (by decide))
  have self : t.func fk = { s.func fk with slots := Tab.set {} (s.func fk).slots k (Slot.exported (Tab.get {} (s.func fk).slots k) (cmdHandle b) vec) } := by
    rw [func, State.modFunc_func, if_pos rfl, ← State.func_of funcs]
    rfl
  have store : t.wps = { s.wps with lans := s.wps.lans.filter fun l => l.kind != .slot fk k } := by
    rw [same .wps (by decide), ← wps]
    rfl
  refine ⟨t, ht, ⟨?_, fun j hj => ?_, fun f hf => ?_, ?_, fun l => ?_⟩, ends, all⟩
  · rw [self]
    exact Tab.get_set_self _ _ _ _
  · rw [self]
    exact Tab.get_set_ne _ _ _ hj
  · rw [func, State.modFunc_func, if_neg hf]
    exact State.func_of funcs f
  · rw [store]
  · rw [store]
    simp

/-- Settles O48: each command on imports and waypoints acts once on what it names, and its list goes on. -/
theorem adminWaypointCommands : Obligations.AdminWaypointCommands := by
  intro r b s w v p h e ends part
  have bind : ∀ {c : AdmCmd}, s.admReady r c b w → w.bindPart (leAt b 0x10 2) = p := fun ready =>
    State.awaits_bindPart (State.admin_open ready).1 _
  refine ⟨fun ready => ?_, fun ready => ?_, fun ready few => ?_, fun ready hs hw op i hi => State.wpCreate_spec ready hs hw op i hi,
    fun ready live => ⟨fun quiet => State.wpFree_quiet ready live quiet, State.wpFree_kills ready live⟩, fun ready => State.wpExport_spec ready⟩
  · refine State.admin_part ready p (fun q => { q with imports := Tab.set none q.imports (leAt b 0x12 2) (some e) }) ?_
    rw [← bind ready]
    rfl
  · refine State.admin_part ready p (fun q => { q with imports := Tab.set none q.imports (leAt b 0x12 2) none }) ?_
    rw [← bind ready]
    rfl
  · refine State.admin_part ready p (fun q => { q with wpImports := Tab.set none q.wpImports (leAt b 0x12 2) (if h = 0 then none else some e) }) ?_
    rw [← bind ready]
    exact if_neg (Nat.not_le.mpr few)

end Sys2Proof.Machine
end


section
/-! Admin commands on objects and extents (11 R297, R303, R311, R314 to R316). -/

namespace Sys2Proof.Machine

set_option Elab.async false

/-! ### Pages are taken from storage alone -/

/-- The storage, the partitions and the channels are the same. -/
structure State.stocked (s t : State) : Prop where
  sto : t.sto = s.sto
  parts : t.parts = s.parts
  chans : t.chans = s.chans

/-- The state `w` with the storage of `t`. -/
def State.storing (w t : State) : State := { w with sto := t.sto }

/-- What is taken from states with the same stock is the same, and reaches storage alone. -/
def takesStock (take : State → Option (List PageRef × State)) : Prop :=
  ∀ s w, State.stocked s w → take w = (take s).map (fun x => (x.1, w.storing x.2)) ∧ ∀ x, take s = some x → s.only x.2 [.sto]

theorem State.stocked_storing {s w t : State} (h : State.stocked s w) (g : s.only t [.sto]) : State.stocked t (w.storing t) :=
  ⟨rfl, h.parts.trans (g .parts (by decide)).symm, h.chans.trans (g .chans (by decide)).symm⟩

/-- Likewise for one page. -/
def takesPage (take : State → Option (PageRef × State)) : Prop :=
  ∀ s w, State.stocked s w → take w = (take s).map (fun x => (x.1, w.storing x.2)) ∧ ∀ x, take s = some x → s.only x.2 [.sto]

theorem takesPage_pkgPage (n : Nat) : takesPage fun u => u.pkgPage n := by
  intro s w h
  have pool : w.pool n = s.pool n := by
    unfold State.pool
    rw [State.part_of h.parts]
  refine ⟨?_, fun x hx => ?_⟩
  · show w.pkgPage n = (s.pkgPage n).map _
    unfold State.pkgPage
    rw [pool, h.sto]
    dsimp only
    rw [Option.map_map]
    refine congrArg (fun f => Option.map f _) (funext fun p => ?_)
    unfold State.modSto State.storing
    dsimp only [Function.comp]
    rw [h.sto]
  · have hx' : s.pkgPage n = some x := hx
    unfold State.pkgPage at hx'
    obtain ⟨p, -, rfl⟩ := Option.map_eq_some_iff.mp hx'
    exact State.only_modSto s _

theorem State.freeUnits_of {s w : State} (h : State.stocked s w) (n : Nat) : w.freeUnits n = s.freeUnits n := by
  unfold State.freeUnits State.banksOf
  rw [State.part_of h.parts, h.sto]

theorem State.pickUnit_of {s w : State} (h : State.stocked s w) (n : Nat) : w.pickUnit n = s.pickUnit n := by
  have chan := State.chan_of h.chans
  unfold State.pickUnit State.banksOf
  simp only [State.part_of h.parts, h.sto, chan]

theorem State.holdUnit_of {s w : State} (h : State.stocked s w) (u : Nat) (x : WUnit) : w.holdUnit u x = w.storing (s.holdUnit u x) := by
  unfold State.holdUnit State.modSto State.storing
  rw [h.sto]

theorem takesPage_wsPage (n keep : Nat) : takesPage fun u => u.wsPage n keep := by
  intro s w h
  have chan := State.chan_of h.chans
  have hold := State.holdUnit_of h
  refine ⟨?_, fun x hx => ?_⟩
  · show w.wsPage n keep = (s.wsPage n keep).map _
    unfold State.wsPage
    simp only [h.sto, chan, hold, State.freeUnits_of h, State.pickUnit_of h]
    split
    · split <;> rfl
    · split
      · rw [Option.map_map]
        rfl
      · rfl
  · have hx' : s.wsPage n keep = some x := hx
    unfold State.wsPage at hx'
    split at hx'
    · split at hx'
      · exact Option.some.inj hx' ▸ State.only_modSto s _
      · exact absurd hx' (by simp)
    · split at hx'
      · obtain ⟨p, -, rfl⟩ := Option.map_eq_some_iff.mp hx'
        exact State.only_modSto s _
      · exact absurd hx' (by simp)

theorem takesStock_takePages {take : State → Option (PageRef × State)} (ht : takesPage take) : ∀ k, takesStock fun u => u.takePages take k
  | 0 => fun s w h => ⟨congrArg (fun t => some (([] : List PageRef), t)) (by unfold State.storing; rw [← h.sto]), fun x hx => Option.some.inj hx ▸ State.only_refl s _⟩
  | k + 1 => fun s w h => by
    obtain ⟨first, only⟩ := ht s w h
    show w.takePages take (k + 1) = (s.takePages take (k + 1)).map _ ∧ ∀ x, s.takePages take (k + 1) = some x → _
    unfold State.takePages
    rw [first]
    cases hp : take s with
    | none => exact ⟨rfl, fun x hx => absurd hx (by simp)⟩
    | some p =>
      have stock := State.stocked_storing h (only p hp)
      obtain ⟨rest, only'⟩ := takesStock_takePages ht k p.2 (w.storing p.2) stock
      dsimp only [Option.map_some] at rest ⊢
      rw [rest]
      cases hq : p.2.takePages take k with
      | none => exact ⟨rfl, fun x hx => absurd hx (by simp)⟩
      | some q => exact ⟨rfl, fun x hx => Option.some.inj hx ▸ State.only_trans (only p hp) (only' q hq)⟩

theorem takesStock_allocPages (n place keep k : Nat) : takesStock fun u => u.allocPages n place keep k := by
  intro s w h
  obtain ⟨ws, onlyW⟩ := takesStock_takePages (takesPage_wsPage n keep) k s w h
  obtain ⟨pkg, onlyP⟩ := takesStock_takePages (takesPage_pkgPage n) k s w h
  dsimp only at ws pkg onlyW onlyP
  show w.allocPages n place keep k = (s.allocPages n place keep k).map _ ∧ ∀ x, s.allocPages n place keep k = some x → _
  unfold State.allocPages
  rw [ws, pkg]
  have late : (if place = 1 then none else (s.takePages (fun u => u.pkgPage n) k).map fun x => (x.1, w.storing x.2)) =
      (if place = 1 then none else s.takePages (fun u => u.pkgPage n) k).map (fun x => (x.1, w.storing x.2)) ∧
      ∀ x, (if place = 1 then none else s.takePages (fun u => u.pkgPage n) k) = some x → s.only x.2 [.sto] := by
    split
    · exact ⟨rfl, fun x hx => absurd hx (by simp)⟩
    · exact ⟨rfl, onlyP⟩
  by_cases hp : place = 2
  · rw [if_pos hp, if_pos hp]
    exact late
  · rw [if_neg hp, if_neg hp]
    cases hq : s.takePages (fun u => u.wsPage n keep) k with
    | none => exact late
    | some q => exact ⟨rfl, fun x hx => Option.some.inj hx ▸ onlyW q hq⟩

theorem takesStock_allocExts (n place keep span : Nat) : ∀ fuel total, takesStock fun u => u.allocExts n place keep span fuel total
  | 0, _ => fun s w h => ⟨congrArg (fun t => some (([] : List PageRef), t)) (by unfold State.storing; rw [← h.sto]), fun x hx => Option.some.inj hx ▸ State.only_refl s _⟩
  | fuel + 1, total => fun s w h => by
    obtain ⟨first, only⟩ := takesStock_allocPages n place keep (min span total) s w h
    dsimp only at first only
    show w.allocExts n place keep span (fuel + 1) total = (s.allocExts n place keep span (fuel + 1) total).map _ ∧
      ∀ x, s.allocExts n place keep span (fuel + 1) total = some x → _
    unfold State.allocExts
    rw [first]
    by_cases hz : total = 0
    · rw [if_pos hz, if_pos hz]
      exact ⟨congrArg (fun t => some (([] : List PageRef), t)) (by unfold State.storing; rw [← h.sto]), fun x hx => Option.some.inj hx ▸ State.only_refl s _⟩
    · rw [if_neg hz, if_neg hz]
      cases hp : s.allocPages n place keep (min span total) with
      | none => exact ⟨rfl, fun x hx => absurd hx (by simp)⟩
      | some p =>
        have stock := State.stocked_storing h (only p hp)
        obtain ⟨rest, only'⟩ := takesStock_allocExts n place keep span fuel (total - min span total) p.2 (w.storing p.2) stock
        dsimp only [Option.map_some] at rest ⊢
        rw [rest]
        cases hq : p.2.allocExts n place keep span fuel (total - min span total) with
        | none => exact ⟨rfl, fun x hx => absurd hx (by simp)⟩
        | some q => exact ⟨rfl, fun x hx => Option.some.inj hx ▸ State.only_trans (only p hp) (only' q hq)⟩

theorem State.zeroPages_sto : ∀ (l : List PageRef) (s w : State), w.sto = s.sto → (w.zeroPages l).sto = (s.zeroPages l).sto
  | [], _, _, h => h
  | p :: l, s, w, h => State.zeroPages_sto l (s.zeroPage p) (w.zeroPage p) (by
    unfold State.zeroPage State.modSto
    cases p <;> simp only [h])

/-! ### OBJ_CREATE (11 R297, R303, R315) -/

theorem State.runs_of {s w : State} (h : w.objs = s.objs) (n : Nat) : w.runs n = s.runs n := by
  unfold State.runs
  rw [h]

theorem State.findRun_of {s w : State} (hp : w.parts = s.parts) (ho : w.objs = s.objs) (n k : Nat) : w.findRun n k = s.findRun n k := by
  unfold State.findRun
  rw [State.runs_of ho, State.part_of hp]

theorem State.objNumber_of {s w : State} (h : w.objs = s.objs) : w.objNumber = s.objNumber := by
  unfold State.objNumber
  rw [h]

/-- The pages that a creation takes. -/
def State.createPages (s : State) (b : List Byte) : Option (List PageRef × State) :=
  s.allocExts (s.bindPart (leAt b 0x10 2)) (leAt b 0x12 1) (s.wsKeep (s.bindPart (leAt b 0x10 2))) (extSpan (leAt b 0x13 1) (leAt b 0x14 1))
    (leAt b 0x1C 4) (leAt b 0x1C 4)

/-- The object that a creation describes. -/
def createdObj (p n run : Nat) (b : List Byte) (pages : List PageRef) : Obj :=
  { st := .opened, vf := leAt b 0x10 2, part := n, pf := p, place := leAt b 0x12 1, attr := leAt b 0x13 1
    plog := leAt b 0x14 1, reservedPg := leAt b 0x18 4, extMax := leAt b 0x20 2, pasid := BitVec.ofNat 32 (leAt b 0x24 4)
    exts := extsOf (leAt b 0x1C 4) (extSpan (leAt b 0x13 1) (leAt b 0x14 1)) 0 pages, run := run }

theorem State.stocked_of_awaits {r : Nat} {s w : State} (h : State.awaits r s w) : State.stocked s w :=
  ⟨h.only .sto (by decide), h.only .parts (by decide), h.only .chans (by decide)⟩

theorem State.createPages_of {r : Nat} {s w : State} (h : State.awaits r s w) (b : List Byte) :
    w.createPages b = (s.createPages b).map (fun x => (x.1, w.storing x.2)) := by
  unfold State.createPages State.wsKeep
  rw [State.awaits_bindPart h, State.awaits_part h]
  exact (takesStock_allocExts _ _ _ _ _ _ s w (State.stocked_of_awaits h)).1

theorem exists_of_isNone {α : Type} {o : Option α} (h : o.isNone = false) : ∃ a, o = some a := by
  cases o with
  | none => exact nomatch h
  | some a => exact ⟨a, rfl⟩

/-- Number `k` has been taken. -/
def State.numbered (s : State) (k : Nat) : State :=
  { s with objs := { s.objs with next := max s.objs.next (k + 1), released := s.objs.released.filter (· != k) } }

theorem State.only_numbered (s : State) (k : Nat) : s.only (s.numbered k) [.objs] := by
  intro f hf
  cases f with
  | objs => exact absurd List.mem_cons_self hf
  | _ => rfl

/-- A creation whose checks hold finds a number, a run and its pages. -/
theorem State.create_finds {r : Nat} {s w : State} {b : List Byte} (h : s.admReady r cmdObjCreate b w) : ∃ k run pages u, s.objNumber = some k ∧
    s.findRun (s.bindPart (leAt b 0x10 2)) (leAt b 0x20 2) = some run ∧ s.createPages b = some (pages, u) := by
  obtain ⟨v, p, av, rows⟩ := State.admin_checked h
  have clear : ∀ x ∈ createRows p b v, x.1 = false := firstBad_none (by
    intro x hx
    unfold createRows at hx
    fin_cases hx <;> simp) rows
  have number : v.objNumber.isNone = false := clear (v.objNumber.isNone, 0x19, 0x02) (by simp [createRows])
  have run : (v.findRun (v.bindPart (leAt b 0x10 2)) (leAt b 0x20 2)).isNone = false :=
    (Bool.or_eq_false_iff.mp (clear _ (List.mem_cons_of_mem _ (List.mem_cons_of_mem _ (List.mem_cons_of_mem _ (List.mem_cons_of_mem _
      (List.mem_cons_of_mem _ List.mem_cons_self))))))).1
  have pages : (v.createPages b).isNone = false := clear ((v.createPages b).isNone, 0x19, 0x04) (by simp [createRows, State.createPages])
  rw [State.objNumber_of (av.only .objs (by decide))] at number
  rw [State.awaits_bindPart av, State.findRun_of (av.only .parts (by decide)) (av.only .objs (by decide))] at run
  rw [State.createPages_of av, Option.isNone_map] at pages
  obtain ⟨k, hk⟩ := exists_of_isNone number
  obtain ⟨a, ha⟩ := exists_of_isNone run
  obtain ⟨⟨l, u⟩, hl⟩ := exists_of_isNone pages
  exact ⟨k, a, l, u, hk, ha, hl⟩

/-- OBJ_CREATE takes a number, a run of extents and zeroed pages. -/
theorem State.objCreate_spec {r : Nat} {s w : State} {b : List Byte} (h : s.admReady r cmdObjCreate b w) : ∃ k run pages u, s.objNumber = some k ∧
    s.findRun (s.bindPart (leAt b 0x10 2)) (leAt b 0x20 2) = some run ∧ s.createPages b = some (pages, u) ∧
    ∃ t, exec (.objCreate r) s = .next t ∧
      ((t.obj k = createdObj ((s.task r).fk - 1024) (s.bindPart (leAt b 0x10 2)) run b pages ∧ ∀ j, j ≠ k → t.obj j = s.obj j) ∧
        t.objs.next = max s.objs.next (k + 1) ∧ t.objs.released = s.objs.released.filter (· != k) ∧
        (resAddr b = 0 → t.sto = (u.zeroPages pages).sto)) ∧
      s.admEnds w t r b k id ∧ s.only t (admEndParts ++ [.objs]) := by
  obtain ⟨k, run, pages, u, hk, hr, hp⟩ := State.create_finds h
  refine ⟨k, run, pages, u, hk, hr, hp, ?_⟩
  obtain ⟨aw, -⟩ := State.admin_open h
  have objs : w.objs = s.objs := aw.only .objs (by decide)
  have number : w.objNumber = some k := (State.objNumber_of objs).trans hk
  have place : w.findRun (w.bindPart (leAt b 0x10 2)) (leAt b 0x20 2) = some run := by
    rw [State.awaits_bindPart aw, State.findRun_of (aw.only .parts (by decide)) objs]
    exact hr
  have taken : w.createPages b = some (pages, w.storing u) := by
    rw [State.createPages_of aw, hp]
    rfl
  have act : cmdObjCreate.act ((s.task r).fk - 1024) (w.queueSpace (s.task r).qk) b w =
      .ok ((((w.storing u).zeroPages pages).modObj k fun _ => createdObj ((s.task r).fk - 1024) (w.bindPart (leAt b 0x10 2)) run b pages).numbered k) k := by
    show createAct ((s.task r).fk - 1024) (w.queueSpace (s.task r).qk) b w = _
    unfold State.createPages at taken
    unfold createAct
    dsimp only
    rw [number, place, taken]
    rfl
  have zeroed := State.only_zeroPages (w.storing u) pages
  have sto := State.zeroPages_sto pages u (w.storing u) rfl
  have stored : w.only (w.storing u) [.sto] := State.only_modSto w fun _ => u.sto
  generalize w.storing u = a at *
  generalize a.zeroPages pages = z at *
  have only : w.only ((z.modObj k fun _ => createdObj ((s.task r).fk - 1024) (w.bindPart (leAt b 0x10 2)) run b pages).numbered k)
      (admEndParts ++ [.objs]) := State.only_after (State.only_numbered _ k).sub (State.only_after (State.only_modObj z k _).sub
        (State.only_after zeroed.sub stored.sub))
  have same' : z.objs = w.objs := (zeroed .objs (by decide)).trans (stored .objs (by decide))
  have xl : z.xl = w.xl := (zeroed .xl (by decide)).trans (stored .xl (by decide))
  have tasks : z.tasks = w.tasks := (zeroed .tasks (by decide)).trans (stored .tasks (by decide))
  obtain ⟨t, ht, ends, all, -, kept, same⟩ := State.admin_acts h act only tasks fun sp a => State.reach_of (s := w) (t := z) xl same' sp a
  have held := same .objs (by decide)
  refine ⟨t, ht, ⟨⟨?_, fun j hj => ?_⟩, ?_, ?_, fun hz => ?_⟩, ends, all⟩
  · rw [State.obj_of held, ← State.awaits_bindPart aw]
    exact State.modObj_obj_self z k fun _ => createdObj ((s.task r).fk - 1024) (w.bindPart (leAt b 0x10 2)) run b pages
  · rw [State.obj_of held, ← State.obj_of objs, ← State.obj_of same']
    exact State.modObj_obj_ne z k (fun _ => createdObj ((s.task r).fk - 1024) (w.bindPart (leAt b 0x10 2)) run b pages) hj
  · rw [held, ← objs, ← same']
    rfl
  · rw [held, ← objs, ← same']
    rfl
  · exact (kept hz).trans sto

/-! ### OBJ_FREE (11 R311) -/

/-- A window onto object `n` closes. -/
def Win.closeOn (n : Nat) (w : Win) : Win := if w.obj = n then { w with isOpen := false } else w

/-- The windows of a function onto object `n` close. -/
def Func.closeWins (n : Nat) (f : Func) : Func := { f with wins := f.wins.map fun w => (w.1, w.2.closeOn n) }

theorem Func.closeWins_wins (n : Nat) (f : Func) (k : Nat) (h : (Tab.get {} (f.closeWins n).wins k : Win).obj = n) :
    (Tab.get {} (f.closeWins n).wins k : Win).isOpen = false := by
  have found : Tab.find? (f.closeWins n).wins k = (Tab.find? f.wins k).map (Win.closeOn n) := Tab.find?_mapVal (Win.closeOn n) k f.wins
  unfold Tab.get at h ⊢
  rw [found] at h ⊢
  cases hf : Tab.find? f.wins k with
  | none => rfl
  | some x =>
    rw [hf] at h
    have onto : (x.closeOn n).obj = n := h
    show (x.closeOn n).isOpen = false
    unfold Win.closeOn at onto ⊢
    by_cases e : x.obj = n
    · rw [if_pos e]
    · rw [if_neg e] at onto
      exact absurd onto e

theorem State.closeWins_eq (s : State) (n : Nat) : s.closeWins n = s.each (s.funcs.map (·.1)) fun u fk => u.modFunc fk (Func.closeWins n) := rfl

/-- Object `n` is released: its number is free to be taken again. -/
def State.objGone (s : State) (n : Nat) : State :=
  let u := s.modObj n fun o => { st := .released, vf := o.vf, pf := o.pf }
  { u with objs := { u.objs with released := u.objs.released ++ [n] } }

theorem State.only_objGone (s : State) (n : Nat) : s.only (s.objGone n) [.objs] := by
  intro f hf
  cases f with
  | objs => exact absurd List.mem_cons_self hf
  | _ => rfl

theorem State.releaseObj_gone (s : State) (n : Nat) : ∃ u, s.only u [.sto, .parts] ∧ s.releaseObj n = u.objGone n := by
  have freed : ∀ l m, s.only ((s.freePages l).freePages m) [.sto] := fun l m => State.only_trans (State.only_freePages s l) (State.only_freePages _ m)
  exact ⟨_, State.only_after (State.only_modPart _ _ _).sub (State.only_after (State.only_modSto _ _).sub (freed _ _).sub), rfl⟩

/-- An object that is released: its number is RELEASED, and no other object changes. -/
theorem State.releaseObj_spec (s : State) (n : Nat) : s.only (s.releaseObj n) [.sto, .parts, .objs] ∧
    (s.releaseObj n).obj n = { st := .released, vf := (s.obj n).vf, pf := (s.obj n).pf } ∧ (∀ k, k ≠ n → (s.releaseObj n).obj k = s.obj k) ∧
    (s.releaseObj n).objs.released = s.objs.released ++ [n] ∧ ∀ sp a, (s.releaseObj n).reach sp a = s.reach sp a := by
  obtain ⟨u, only, e⟩ := State.releaseObj_gone s n
  have objs : u.objs = s.objs := only .objs (by decide)
  rw [e]
  refine ⟨State.only_after (State.only_objGone u n).sub only.sub, ?_, fun k hk => ?_, ?_, fun sp a => ?_⟩
  · rw [← State.obj_of objs]
    exact State.modObj_obj_self u n fun o => { st := .released, vf := o.vf, pf := o.pf }
  · rw [← State.obj_of objs]
    exact State.modObj_obj_ne u n (fun o => { st := .released, vf := o.vf, pf := o.pf }) hk
  · rw [← objs]
    rfl
  · exact State.reach_of (s := s) (t := u) (only .xl (by decide)) objs sp a

/-- OBJ_FREE: the object is CLOSING, or RELEASED where no task refers to it, and its windows close. -/
theorem State.objFree_spec {r : Nat} {s w : State} {b : List Byte} (h : s.admReady r cmdObjFree b w) :
    let n := leAt b 0x10 4
    ∃ t, exec (.objFree r) s = .next t ∧
      (((s.obj n).held = 0 → t.obj n = { st := .released, vf := (s.obj n).vf, pf := (s.obj n).pf } ∧ t.objs.released = s.objs.released ++ [n]) ∧
        (0 < (s.obj n).held → t.obj n = { s.obj n with st := .closing } ∧ t.parts = s.parts) ∧ (∀ k, k ≠ n → t.obj k = s.obj k) ∧
        ∀ fk k, (Tab.get {} (t.func fk).wins k).obj = n → (Tab.get {} (t.func fk).wins k).isOpen = false) ∧
      s.admEnds w t r b 0 id ∧ s.only t (admEndParts ++ [.objs, .funcs, .parts]) := by
  intro n
  obtain ⟨aw, -⟩ := State.admin_open h
  have objs : w.objs = s.objs := aw.only .objs (by decide)
  have closing := State.only_modObj w n fun o => { o with st := .closing }
  have self := State.modObj_obj_self w n fun o => { o with st := .closing }
  have others := fun k (hk : k ≠ n) => State.modObj_obj_ne w n (fun o => { o with st := .closing }) hk
  have list : (w.modObj n fun o => { o with st := .closing }).objs.released = w.objs.released := rfl
  have same : ∀ sp a, (w.modObj n fun o => { o with st := .closing }).reach sp a = w.reach sp a := fun _ _ => rfl
  have act : cmdObjFree.act ((s.task r).fk - 1024) (w.queueSpace (s.task r).qk) b w =
      .ok (((w.modObj n fun o => { o with st := .closing }).closeWins n).settleObj n) 0 := rfl
  generalize (w.modObj n fun o => { o with st := .closing }) = a at *
  have shut : a.only (a.closeWins n) [.funcs] := State.only_each_modFunc (Func.closeWins n) _ a
  have wins : ∀ fk k, (Tab.get {} ((a.closeWins n).func fk).wins k : Win).obj = n → (Tab.get {} ((a.closeWins n).func fk).wins k : Win).isOpen = false :=
    fun fk k => State.each_modFunc (P := fun f => (Tab.get {} f.wins k : Win).obj = n → (Tab.get {} f.wins k : Win).isOpen = false) (Func.closeWins n)
      (fun f => Func.closeWins_wins n f k) (fun _ => rfl) a fk
  generalize a.closeWins n = c at *
  have obj : ∀ k, c.obj k = a.obj k := State.obj_of (shut .objs (by decide))
  have only : w.only c [.objs, .funcs] := State.only_after shut.sub closing.sub
  have reached : ∀ sp a, c.reach sp a = w.reach sp a := fun sp x =>
    (State.reach_of (s := a) (shut .xl (by decide)) (shut .objs (by decide)) sp x).trans (same sp x)
  have held : (c.obj n).held = (s.obj n).held := by rw [obj, self, State.obj_of objs]
  have st : (c.obj n).st = .closing := by rw [obj, self]
  by_cases hz : (s.obj n).held = 0
  · have settled : c.settleObj n = c.releaseObj n := if_pos (by rw [held, st]; simp [hz])
    obtain ⟨release, gone, rest, released, far⟩ := State.releaseObj_spec c n
    rw [settled] at act
    generalize c.releaseObj n = x at *
    have all : w.only x [.objs, .funcs, .parts, .sto] := State.only_after release.sub only.sub
    obtain ⟨t, ht, ends, reach, -, -, kept⟩ := State.admin_acts (l := [.objs, .funcs, .parts]) h act all.sub (all .tasks (by decide))
      fun sp a => (far sp a).trans (reached sp a)
    have now := kept .objs (by decide)
    have funcs : ∀ f, t.func f = c.func f := State.func_of ((kept .funcs (by decide)).trans (release .funcs (by decide)))
    refine ⟨t, ht, ⟨fun _ => ⟨?_, ?_⟩, fun hp => absurd hp (by omega), fun k hk => ?_, fun fk k hh => ?_⟩, ends, reach⟩
    · rw [State.obj_of now, gone, obj, self, State.obj_of objs]
    · rw [now, released, shut .objs (by decide), list, objs]
    · rw [State.obj_of now, rest k hk, obj, others k hk, State.obj_of objs]
    · rw [funcs] at hh ⊢
      exact wins fk k hh
  · have settled : c.settleObj n = c := if_neg (by rw [held]; simp [hz])
    rw [settled] at act
    obtain ⟨t, ht, ends, reach, -, -, kept⟩ := State.admin_acts (l := [.objs, .funcs, .parts]) h act only.sub (only .tasks (by decide)) reached
    have now := kept .objs (by decide)
    have funcs : ∀ f, t.func f = c.func f := State.func_of (kept .funcs (by decide))
    refine ⟨t, ht, ⟨fun h0 => absurd h0 hz, fun _ => ⟨?_, ?_⟩, fun k hk => ?_, fun fk k hh => ?_⟩, ends, reach⟩
    · rw [State.obj_of now, obj, self, State.obj_of objs]
    · exact (kept .parts (by decide)).trans ((only .parts (by decide)).trans (aw.only .parts (by decide)))
    · rw [State.obj_of now, obj, others k hk, State.obj_of objs]
    · rw [funcs] at hh ⊢
      exact wins fk k hh

/-! ### EXT_SET and EXT_CLEAR (11 R302, R315, R316) -/

theorem foldl_max_le {m : Nat} : ∀ (l : List Nat) (a : Nat), a ≤ m → (∀ x ∈ l, x ≤ m) → l.foldl max a ≤ m
  | [], _, h, _ => h
  | x :: l, a, h, hl => foldl_max_le l (max a x) (Nat.max_le.mpr ⟨h, hl x List.mem_cons_self⟩) fun y hy => hl y (List.mem_cons_of_mem _ hy)

/-- A command that changes one object. -/
theorem State.admin_obj {r : Nat} {s w : State} {c : AdmCmd} {b : List Byte} (h : s.admReady r c b w) (n value : Nat) (f : Obj → Obj)
    (act : c.act ((s.task r).fk - 1024) (w.queueSpace (s.task r).qk) b w = .ok (w.modObj n f) value) :
    ∃ t, done s (s.admin r c) = .next t ∧ (t.obj n = f (s.obj n) ∧ ∀ k, k ≠ n → t.obj k = s.obj k) ∧ s.admEnds w t r b value id ∧
      s.only t (admEndParts ++ [.objs]) := by
  obtain ⟨t, ht, ends, only, -, -, same⟩ := State.admin_simple h act (State.only_modObj w n f) rfl fun _ _ => rfl
  have obj := State.obj_of (same .objs (by decide))
  have was := State.obj_of ((State.admin_open h).1.only .objs (by decide))
  refine ⟨t, ht, ⟨?_, fun k hk => ?_⟩, ends, only⟩
  · rw [obj, State.modObj_obj_self, was]
  · rw [obj, State.modObj_obj_ne w n f hk, was]

/-- EXT_SET puts in every record. -/
theorem State.extSet_spec {r : Nat} {s w : State} {b : List Byte} (h : s.admReady r cmdExtSet b w) (es : List Ext) :
    let n := leAt b 0x10 4
    let data := w.hostGet (w.queueSpace (s.task r).qk) (leAt b 0x18 8) (16 * leAt b 0x14 4)
    let exts := es.foldl (fun a e => insertExt e a) (s.obj n).exts
    poisonStatus data = 0 → extRecords (leAt b 0x14 4) (plain data) = some es → (∀ e ∈ es, e.off + e.len ≤ (s.obj n).reservedPg) →
    extsApart (s.obj n).exts es = true → ∃ t, exec (.extSet r) s = .next t ∧
      (t.obj n = { s.obj n with exts := exts } ∧ ∀ k, k ≠ n → t.obj k = s.obj k) ∧ s.admEnds w t r b exts.length id ∧ s.only t (admEndParts ++ [.objs]) := by
  intro n data exts clean read fits apart
  have obj := State.obj_of ((State.admin_open h).1.only .objs (by decide))
  have most : (es.map fun e => e.off + e.len).foldl max 0 ≤ (s.obj n).reservedPg := foldl_max_le _ 0 (Nat.zero_le _) fun x hx => by
    obtain ⟨e, he, rfl⟩ := List.mem_map.mp hx
    exact fits e he
  refine State.admin_obj h n exts.length (fun o => { o with exts := es.foldl (fun a e => insertExt e a) o.exts }) ?_
  show extSetAct ((s.task r).fk - 1024) (w.queueSpace (s.task r).qk) b w = _
  unfold extSetAct
  dsimp only
  rw [if_neg (not_not_intro clean), read]
  dsimp only
  rw [obj, apart, if_neg (by simp; omega), State.modObj_obj_self, obj]

theorem State.each_modTask {f : Task → Task} (idem : ∀ t, f (f t) = f t) (dflt : f {} = {}) (s : State) (q : Nat) :
    (s.each (s.tasks.map (·.1)) fun u r => u.modTask r f).task q = f (s.task q) := by
  have turn : ∀ (u : State) (k : Nat), (u.modTask k f).task q = if q = k then f (u.task q) else u.task q := fun u k => by
    by_cases e : q = k
    · subst e
      rw [State.modTask_task_self, if_pos rfl]
    · rw [State.modTask_task_ne u k f e, if_neg e]
  have keep : ∀ (u : State) (k : Nat), u.task q = f (s.task q) → (u.modTask k f).task q = f (s.task q) := fun u k h => by
    rw [turn, h]
    split
    · exact idem _
    · rfl
  by_cases hq : q ∈ s.tasks.map (·.1)
  · refine State.each_ends (I := fun u => u.task q = s.task q ∨ u.task q = f (s.task q)) (P := fun u => u.task q = f (s.task q)) hq
      (fun u k h => ?_) (fun u h => ?_) keep s (.inl rfl)
    · rcases h with h | h
      · rw [turn, h]
        split
        · exact .inr rfl
        · exact .inl rfl
      · exact .inr (keep u k h)
    · rw [turn, if_pos rfl]
      rcases h with h | h
      · rw [h]
      · rw [h, idem]
  · have none : s.task q = {} := by
      have get : s.task q = (Tab.find? s.tasks q).getD {} := rfl
      cases hf : Tab.find? s.tasks q with
      | none => rw [get, hf]; rfl
      | some x => exact absurd (List.mem_map.mpr ⟨(q, x), Tab.mem_of_find? _ _ _ hf, rfl⟩) hq
    refine State.each_keeps (P := fun u : State => u.task q = f (s.task q)) (fun u k h => keep u k h) _ s ?_
    rw [none, dflt]

theorem Task.loseDrafts_idem (n : Nat) (gone : List Ext) (t : Task) : (t.loseDrafts n gone).loseDrafts n gone = t.loseDrafts n gone := by
  unfold Task.loseDrafts
  dsimp only
  rw [List.map_map]
  refine congrArg (fun l => { t with drafts := l }) (List.map_congr_left fun d _ => ?_)
  dsimp only [Function.comp]
  by_cases e : d.obj = n ∧ d.kind = .host ∧ (gone.any fun x => x.off == d.off) = true
  · simp only [if_pos e]
  · simp only [if_neg e]

/-- EXT_CLEAR removes the extents that lie wholly in its range. -/
theorem State.extClear_spec {r : Nat} {s w : State} {b : List Byte} (h : s.admReady r cmdExtClear b w) :
    let n := leAt b 0x10 4
    let lo := leAt b 0x14 4
    let hi := lo + leAt b 0x18 4
    let inside (e : Ext) : Bool := lo ≤ e.off && e.off + e.len ≤ hi
    (∀ e ∈ (s.obj n).exts, inside e = true ∨ hi ≤ e.off ∨ e.off + e.len ≤ lo) → ∃ t, exec (.extClear r) s = .next t ∧
      (t.obj n = { s.obj n with exts := (s.obj n).exts.filter fun e => !inside e } ∧ ∀ k, k ≠ n → t.obj k = s.obj k) ∧
      s.admEnds w t r b ((s.obj n).exts.filter inside).length (Task.loseDrafts n ((s.obj n).exts.filter inside)) ∧ s.only t (admEndParts ++ [.objs]) := by
  intro n lo hi inside whole
  obtain ⟨aw, run⟩ := State.admin_open h
  have obj := State.obj_of (aw.only .objs (by decide))
  have act : cmdExtClear.act ((s.task r).fk - 1024) (w.queueSpace (s.task r).qk) b w =
      .ok ((w.each (w.tasks.map (·.1)) fun u q => u.modTask q (Task.loseDrafts n ((s.obj n).exts.filter inside))).modObj n fun o =>
        { o with exts := o.exts.filter fun e => !inside e }) ((s.obj n).exts.filter inside).length := by
    show extClearAct ((s.task r).fk - 1024) (w.queueSpace (s.task r).qk) b w = _
    unfold extClearAct
    dsimp only
    rw [obj, if_neg]
    rw [Bool.not_eq_true, List.any_eq_false]
    intro e he cut
    have cases' := whole e he
    simp [inside] at cases'
    simp at cut
    omega
  have lost := State.each_modTask (f := Task.loseDrafts n ((s.obj n).exts.filter inside)) (Task.loseDrafts_idem _ _) rfl w
  have only : w.only (w.each (w.tasks.map (·.1)) fun u q => u.modTask q (Task.loseDrafts n ((s.obj n).exts.filter inside))) [.tasks] :=
    State.only_each _ (fun u q => State.only_modTask u q _) _ w
  generalize (w.each (w.tasks.map (·.1)) fun u q => u.modTask q (Task.loseDrafts n ((s.obj n).exts.filter inside))) = a at *
  have mod := State.only_modObj a n fun o => { o with exts := o.exts.filter fun e => !inside e }
  have all : s.only (a.modObj n fun o => { o with exts := o.exts.filter fun e => !inside e }) (admEndParts ++ [.objs]) :=
    State.only_after mod.sub (State.only_after only.sub aw.only.sub)
  obtain ⟨t, ht, ends, reach, -, -, same⟩ := State.admin_ends aw ((s.obj n).exts.filter inside).length
    (Task.loseDrafts n ((s.obj n).exts.filter inside)) all ⟨w.task r, rfl, lost r⟩ (fun _ => ⟨rfl, rfl, rfl, rfl, rfl⟩)
    (fun q hq => (lost q).trans (congrArg _ (aw.others q hq)))
    fun sp x => State.reach_of (s := w) (t := a) (only .xl (by decide)) (only .objs (by decide)) sp x
  have now := State.obj_of (same .objs (by decide))
  have was : ∀ k, a.obj k = s.obj k := fun k => (State.obj_of (only .objs (by decide)) k).trans (obj k)
  refine ⟨t, (congrArg (done s) (run _ _ act)).trans ht, ⟨?_, fun k hk => ?_⟩, ends, reach⟩
  · rw [now, State.modObj_obj_self, was]
  · rw [now, State.modObj_obj_ne a n _ hk, was]

/-! ### EXT_READ and OBJ_QUERY (11 R314) -/

/-- A command that writes to its host. -/
theorem State.admin_writes {r : Nat} {s w : State} {c : AdmCmd} {b : List Byte} (h : s.admReady r c b w) (a value : Nat) (data : List Byte)
    (act : c.act ((s.task r).fk - 1024) (w.queueSpace (s.task r).qk) b w = .ok (w.hostWrite (w.queueSpace (s.task r).qk) a data) value) :
    ∃ t, done s (s.admin r c) = .next t ∧ w.wroteHost t (w.queueSpace (s.task r).qk) a data ∧ s.admEnds w t r b value id ∧
      s.only t (admEndParts ++ []) := by
  have sent := State.wroteHost_hostWrite w (w.queueSpace (s.task r).qk) a data
  have only := State.only_hostWrite w (w.queueSpace (s.task r).qk) a data
  generalize w.hostWrite (w.queueSpace (s.task r).qk) a data = x at *
  obtain ⟨t, ht, ends, all, out, -, -⟩ := State.admin_acts (l := []) h act only.sub (only .tasks (by decide))
    (State.reach_of (only .xl (by decide)) (only .objs (by decide)))
  exact ⟨t, ht, State.wroteHost_later sent out, ends, all⟩

theorem State.hostWrite_nil (s : State) (sp : Space) (a : Nat) : s.hostWrite sp a [] = s := by
  refine State.each_of_nil ?_
  unfold pageChunks pagesTouched
  simp

/-- Settles O47: each command on objects and extents acts once on what it names, and its list goes on. -/
theorem adminObjectCommands : Obligations.AdminObjectCommands := by
  intro r b s w n sp ends only
  have obj : ∀ {c : AdmCmd}, s.admReady r c b w → ∀ k, w.obj k = s.obj k := fun ready =>
    State.obj_of ((State.admin_open ready).1.only .objs (by decide))
  refine ⟨fun ready => State.objCreate_spec ready, fun ready => State.objFree_spec ready,
    fun ready es clean read fits apart => State.extSet_spec ready es clean read fits apart, fun ready whole => State.extClear_spec ready whole,
    fun ready => ?_, fun ready => ?_⟩
  · refine State.admin_writes ready (leAt b 0x18 8) _ _ ?_
    have list : extReadList b w = ((s.obj n).exts.drop (leAt b 0x14 2)).take (leAt b 0x16 2) := by
      unfold extReadList
      rw [obj ready]
    show AdmEnd.ok (if (extReadList b w).isEmpty then w else w.hostWrite sp (leAt b 0x18 8) ((extReadList b w).flatMap Ext.bytes)) _ = _
    rw [list]
    split
    · next e =>
      rw [List.isEmpty_iff.mp e]
      exact congrArg (AdmEnd.ok · 0) (State.hostWrite_nil w sp _).symm
    · rfl
  · refine State.admin_writes ready (leAt b 0x18 8) 0 _ ?_
    show AdmEnd.ok (w.hostWrite sp (leAt b 0x18 8) (w.queryBytes n)) 0 = _
    unfold State.queryBytes
    rw [obj ready]

end Sys2Proof.Machine
end


section
/-! Channel faults, detours and handshake timeouts (13 R361 to R365). -/

namespace Sys2Proof.Machine

set_option Elab.async false

/-! ### Stamps (13 R364) -/

/-- A fault stamped `n` would be the third within 2^20 handshakes. -/
def Chan.near (c : Chan) (n : Nat) : Prop := match c.stamps with
  | a :: b :: _ => dist 32 n a < 2 ^ 20 ∧ dist 32 n b < 2 ^ 20
  | _ => False

/-- The channel's count of handshakes with those that a fault's command brings. -/
def State.stampAt (s : State) (k j unseen : Nat) : Nat := (s.hands (ckey k j) + unseen) % 2 ^ 32

/-- A channel that counts a fault by `g` and stamps it. -/
def Chan.stamped (c : Chan) (n : Nat) (g : Chan → Chan) : Chan := { g c with stamps := n :: c.stamps.take 1 }

/-- A fault of a channel, counted and stamped. -/
def State.struck (s : State) (k j unseen : Nat) (g : Chan → Chan) : State :=
  (s.handshakes k j unseen).modChan (ckey k j) fun c => c.stamped (s.stampAt k j unseen) g

theorem State.struck_chan (s : State) (k j unseen : Nat) (g : Chan → Chan) (q : Nat) : (s.struck k j unseen g).chan q =
    if q = ckey k j then (s.chan q).stamped (s.stampAt k j unseen) g else s.chan q := by
  unfold State.struck
  rw [State.modChan_chan]
  by_cases h : q = ckey k j
  · rw [if_pos h, if_pos h, h]
    rfl
  · rw [if_neg h, if_neg h]
    rfl

theorem State.only_struck (s : State) (k j unseen : Nat) (g : Chan → Chan) : s.only (s.struck k j unseen g) [.chans, .cnt] :=
  State.only_after (State.only_modChan _ _ _).sub (State.only_handshakes s k j unseen).sub

theorem State.stampFault_eq {s : State} {k j unseen : Nat} (g : Chan → Chan) (hr : (s.chan (ckey k j)).retired = false) :
    ((s.chan (ckey k j)).near (s.stampAt k j unseen) ∧ retirable k = true → s.stampFault k j unseen g = (s.struck k j unseen g).retireChan k j) ∧
    (¬((s.chan (ckey k j)).near (s.stampAt k j unseen) ∧ retirable k = true) → s.stampFault k j unseen g = s.struck k j unseen g) := by
  have struck : (s.handshakes k j unseen).modChan (ckey k j) (fun c => { g c with stamps := (s.handshakes k j unseen).hands (ckey k j) :: c.stamps.take 1 }) =
      s.struck k j unseen g := by
    rw [State.handshakes_hands_self]
    rfl
  unfold State.stampFault
  rw [if_neg (ne_true_of_eq_false hr)]
  dsimp only
  rw [struck, State.handshakes_hands_self]
  unfold Chan.near State.stampAt
  rcases (s.chan (ckey k j)).stamps with _ | ⟨a, _ | ⟨b, l⟩⟩
  · exact ⟨fun h => h.1.elim, fun _ => if_neg (by simp)⟩
  · exact ⟨fun h => h.1.elim, fun _ => if_neg (by simp)⟩
  · refine ⟨fun h => if_pos ?_, fun h => if_neg fun e => h ?_⟩
    · simpa using h
    · simpa using e

/-! ### Detours (13 R362) -/

/-- A channel whose failed transfer is to be detoured: at once, or behind the detour in progress. -/
def Chan.begun (c : Chan) (held : Bool) (x : Transfer) (w : Option StoredWord) (waits : Bool) : Chan :=
  if c.evac || held then c
  else if c.detour.isSome then { c with queue := c.queue ++ [(x, w, waits)] }
  else { c with detour := some 0, xfer := x, word := w, waits := waits, more := 0 }

/-- From `s` to `t` channel `key` has become `c`. -/
structure State.chanPut (key : Nat) (c : Chan) (s t : State) : Prop where
  self : t.chan key = c
  others : ∀ q, q ≠ key → t.chan q = s.chan q

theorem State.chanPut_of {key : Nat} {c : Chan} {s t u : State} (h : State.chanPut key c s t) (g : u.chans = t.chans) : State.chanPut key c s u :=
  ⟨(State.chan_of g key).trans h.self, fun q hq => (State.chan_of g q).trans (h.others q hq)⟩

theorem State.chanPut_struck (s : State) (k j unseen : Nat) (g : Chan → Chan) :
    State.chanPut (ckey k j) ((s.chan (ckey k j)).stamped (s.stampAt k j unseen) g) s (s.struck k j unseen g) :=
  ⟨by rw [State.struck_chan, if_pos rfl], fun q hq => by rw [State.struck_chan, if_neg hq]⟩

theorem State.beginDetour_spec {s u : State} {k j : Nat} {c : Chan} (h : State.chanPut (ckey k j) c s u) (hr : c.retired = false) (x : Transfer)
    (w : Option StoredWord) (waits : Bool) : u.only (u.beginDetour k j x w waits) [.chans, .cnt] ∧
      State.chanPut (ckey k j) (c.begun (u.rcv.portRet.contains j && k == 1) x w waits) s (u.beginDetour k j x w waits) := by
  have same : (c.retired || c.evac || u.rcv.portRet.contains j && k == 1) = (c.evac || u.rcv.portRet.contains j && k == 1) := by
    rw [hr, Bool.false_or]
  unfold State.beginDetour Chan.begun
  dsimp only
  rw [h.self, same]
  split
  · exact ⟨State.only_refl u _, h⟩
  · split
    · refine ⟨(State.only_modChan u _ _).sub, ?_, fun q hq => ?_⟩
      · rw [State.modChan_chan_self, h.self]
      · rw [State.modChan_chan_ne _ _ _ hq, h.others q hq]
    · have ticks := fun v : State => State.chan_of (State.only_tick v 0x1CA none .chans (by decide))
      refine ⟨State.only_after (State.only_tick _ _ _).sub (State.only_modChan u _ _).sub, ?_, fun q hq => ?_⟩
      · rw [ticks, State.modChan_chan_self, h.self]
      · rw [ticks, State.modChan_chan_ne _ _ _ hq, h.others q hq]

/-! ### Handshake timeouts (13 R361, R378) -/

/-- An engine port counts a handshake timeout. -/
def State.portLate (s : State) (k j : Nat) : State := if k = 1 then s.modPort j fun e => { e with hsTimeout := satAdd 0xFFFF e.hsTimeout 1 } else s

theorem State.only_portLate (s : State) (k j : Nat) : s.only (s.portLate k j) [.ports] := State.only_ite _ (State.only_modPort s j _) (State.only_refl s _)

theorem State.portLate_eport (s : State) (k j q : Nat) : (s.portLate k j).eport q = if k = 1 ∧ q = j
    then { s.eport q with hsTimeout := satAdd 0xFFFF (s.eport q).hsTimeout 1 } else s.eport q := by
  unfold State.portLate
  by_cases hk : k = 1
  · rw [if_pos hk, State.modPort_eport]
    by_cases hq : q = j
    · rw [if_pos hq, if_pos ⟨hk, hq⟩, hq]
    · rw [if_neg hq, if_neg fun h => hq h.2]
  · rw [if_neg hk, if_neg fun h => hk h.1]

theorem State.hsFault_eq (s : State) (k j unseen : Nat) :
    s.hsFault k j unseen = (s.portLate k j).stampFault k j unseen fun c => { c with hsTimeout := satAdd 0xFFFF c.hsTimeout 1 } := rfl

/-- An engine port whose transfer waits too long counts it (07 R201). -/
def State.waitedAt (k j : Nat) (s t : State) : Prop := ∀ q, t.eport q = if k = 1 ∧ q = j
  then { s.eport q with hsTimeout := satAdd 0xFFFF (s.eport q).hsTimeout 1 } else s.eport q

/-! ### The commands -/

theorem exec_channelFault (kind i unseen : Nat) (what : FaultWhat) (x : Transfer) (s : State) {k j : Nat} (hk : s.chargeTo kind i = (k, j)) :
    exec (.channelFault kind i unseen what x) s = done s (match what with
    | .word c => (match pathCheck c with
      | .clean => s
      | .corrected _ => s.faultCorrected k j unseen
      | .uncorrectable => s.faultUncorrectable k j unseen x none)
    | .stored (.bank a e) => s.faultBank k j unseen x a e
    | .stored w => s.faultUncorrectable k j unseen x (some w)
    | _ => s.faultUncorrectable k j unseen x none) := by
  obtain ⟨rfl, rfl⟩ : (s.chargeTo kind i).1 = k ∧ (s.chargeTo kind i).2 = j := by rw [hk]; exact ⟨rfl, rfl⟩
  rfl

theorem exec_handshakeTimeout (kind i unseen : Nat) (x : Transfer) (s : State) {k j : Nat} (hk : s.chargeTo kind i = (k, j)) :
    exec (.handshakeTimeout kind i unseen x) s = done s (if (s.chan (ckey k j)).detour.isSome && (s.chan (ckey k j)).word.isNone &&
      (s.chan (ckey k j)).xfer == x then ((s.hsFault k j unseen).further k j).portsAgain
    else (s.hsFault k j unseen).beginDetour k j x none (k == 1)) := by
  obtain ⟨rfl, rfl⟩ : (s.chargeTo kind i).1 = k ∧ (s.chargeTo kind i).2 = j := by rw [hk]; exact ⟨rfl, rfl⟩
  rfl

/-- The fault that a failed re-issue is: none of a stored word, a handshake timeout of a wait (13 R361, R362). -/
def State.reissueFault (s : State) (k j unseen : Nat) : State :=
  if (s.chan (ckey k j)).word.isSome then s
  else if (s.chan (ckey k j)).waits then s.hsFault k j unseen
  else s.stampFault k j unseen fun c => { c with uncorr := satAdd 0xFFFF c.uncorr 1 }

/-- The codeword that a re-read of a bank's word has proved right stays (13 R362). -/
def State.reread (s : State) : Option StoredWord → State
  | some (.bank a _) => s.modSto fun m => { m with ws := m.ws.settle (a / 32) }
  | _ => s

theorem exec_detourReissue (kind i unseen : Nat) (ok : Bool) (s : State) {k j : Nat} (hk : s.chargeTo kind i = (k, j)) :
    exec (.detourReissue kind i unseen ok) s = done s (if (s.chan (ckey k j)).detour.isNone then s
    else if ok then (s.reread (s.chan (ckey k j)).word).endDetour k j
    else ((s.reissueFault k j unseen).further k j).portsAgain) := by
  obtain ⟨rfl, rfl⟩ : (s.chargeTo kind i).1 = k ∧ (s.chargeTo kind i).2 = j := by rw [hk]; exact ⟨rfl, rfl⟩
  rfl

/-! ### Faults that retire nothing -/

section
variable {k j unseen : Nat} {s : State} (hr : (s.chan (ckey k j)).retired = false)
  (calm : ¬((s.chan (ckey k j)).near (s.stampAt k j unseen) ∧ retirable k = true))
include hr calm

theorem State.faultCorrected_calm : s.only (s.faultCorrected k j unseen) [.chans, .cnt] ∧
    State.chanPut (ckey k j) ((s.chan (ckey k j)).stamped (s.stampAt k j unseen) fun c => { c with corrected := satAdd 0xFFFF c.corrected 1 }) s
      (s.faultCorrected k j unseen) := by
  unfold State.faultCorrected
  rw [(State.stampFault_eq _ hr).2 calm]
  exact ⟨State.only_after (State.only_tick _ _ _).sub (State.only_struck s k j unseen _),
    State.chanPut_of (State.chanPut_struck s k j unseen _) (State.only_tick _ 0x1C8 none .chans (by decide))⟩

/-- A fault that begins a detour. -/
theorem State.faultUncorrectable_calm (x : Transfer) (w : Option StoredWord) : s.only (s.faultUncorrectable k j unseen x w) [.chans, .cnt] ∧
    State.chanPut (ckey k j) (((s.chan (ckey k j)).stamped (s.stampAt k j unseen) fun c => { c with uncorr := satAdd 0xFFFF c.uncorr 1 }).begun
      (s.rcv.portRet.contains j && k == 1) x w false) s (s.faultUncorrectable k j unseen x w) := by
  unfold State.faultUncorrectable
  rw [(State.stampFault_eq _ hr).2 calm]
  obtain ⟨only, put⟩ := State.beginDetour_spec (State.chanPut_struck s k j unseen fun c => { c with uncorr := satAdd 0xFFFF c.uncorr 1 }) hr x w false
  exact ⟨State.only_trans (State.only_struck s k j unseen _) only, put⟩

/-- A handshake timeout, counted at the port and at its channel. -/
theorem State.hsFault_calm : State.chanPut (ckey k j) ((s.chan (ckey k j)).stamped (s.stampAt k j unseen) fun c => { c with hsTimeout := satAdd 0xFFFF c.hsTimeout 1 })
      s (s.hsFault k j unseen) ∧ State.waitedAt k j s (s.hsFault k j unseen) ∧ s.only (s.hsFault k j unseen) [.chans, .ports, .cnt] := by
  have only := s.only_portLate k j
  have port := s.portLate_eport k j
  rw [State.hsFault_eq]
  generalize s.portLate k j = v at *
  have chan := State.chan_of (only .chans (by decide))
  have at' : v.stampAt k j unseen = s.stampAt k j unseen := by
    unfold State.stampAt State.hands
    rw [only .cnt (by decide)]
  rw [(State.stampFault_eq _ (by rw [chan]; exact hr)).2 (by rw [chan, at']; exact calm)]
  have put := State.chanPut_struck v k j unseen fun c => { c with hsTimeout := satAdd 0xFFFF c.hsTimeout 1 }
  have struck := v.only_struck k j unseen fun c => { c with hsTimeout := satAdd 0xFFFF c.hsTimeout 1 }
  generalize v.struck k j unseen (fun c => { c with hsTimeout := satAdd 0xFFFF c.hsTimeout 1 }) = u at *
  refine ⟨⟨by rw [put.self, chan, at'], fun q hq => (put.others q hq).trans (chan q)⟩, fun q => ?_, State.only_after struck.sub only.sub⟩
  exact (State.eport_of (struck .ports (by decide)) q).trans (port q)

end

/-- What an event leaves undone at its channel's detour: nothing but a count of failures. -/
theorem State.further_next {s u : State} {k j d : Nat} {c : Chan} (h : State.chanPut (ckey k j) c s u) (hd : c.detour = some d) (hlt : d + 1 < 3) :
    State.chanPut (ckey k j) { c with detour := some (d + 1) } s (u.further k j) ∧ u.only (u.further k j) [.chans] := by
  unfold State.further
  rw [h.self, hd]
  dsimp only
  rw [if_pos hlt]
  refine ⟨⟨by rw [State.modChan_chan_self, h.self], fun q hq => by rw [State.modChan_chan_ne _ _ _ hq, h.others q hq]⟩, State.only_modChan u _ _⟩

/-- What a read of a bank does, once its word with the upset symbols is checked. -/
def State.bankRead (s : State) (k j unseen : Nat) (x : Transfer) (a : Nat) (e : List (Nat × Byte)) (p : PathResult) : State :=
  let u := s.modSto fun m => { m with ws := m.ws.strike (a / 32) e }
  match p with
  | .clean => u.modSto fun m => { m with ws := m.ws.mend none (a / 32) (u.sto.ws.codeword none (a / 32)).data }
  | .corrected c => (u.modSto fun m => { m with ws := m.ws.mend none (a / 32) c.data }).faultCorrected k j unseen
  | .uncorrectable => u.faultUncorrectable k j unseen x (some (.bank a e))

theorem State.faultBank_eq (s : State) (k j unseen : Nat) (x : Transfer) (a : Nat) (e : List (Nat × Byte)) :
    s.faultBank k j unseen x a e = s.bankRead k j unseen x a e (pathCheck ((s.sto.ws.strike (a / 32) e).codeword none (a / 32))) := rfl

/-- A read of a bank that shows an upset symbol (01 R35, R36). -/
theorem State.faultBank_calm {k j unseen : Nat} {s : State} (hr : (s.chan (ckey k j)).retired = false)
    (calm : ¬((s.chan (ckey k j)).near (s.stampAt k j unseen) ∧ retirable k = true)) (x : Transfer) (a : Nat) (e : List (Nat × Byte)) :
    let m := s.sto.ws.strike (a / 32) e
    let t := s.faultBank k j unseen x a e
    s.only t [.chans, .sto, .cnt] ∧ match pathCheck (m.codeword none (a / 32)) with
      | .clean => State.chanPut (ckey k j) (s.chan (ckey k j)) s t ∧ t.sto = { s.sto with ws := m.mend none (a / 32) (m.codeword none (a / 32)).data }
      | .corrected y => State.chanPut (ckey k j) ((s.chan (ckey k j)).stamped (s.stampAt k j unseen) fun c => { c with corrected := satAdd 0xFFFF c.corrected 1 }) s t ∧
          t.sto = { s.sto with ws := m.mend none (a / 32) y.data }
      | .uncorrectable => State.chanPut (ckey k j) (((s.chan (ckey k j)).stamped (s.stampAt k j unseen) fun c => { c with uncorr := satAdd 0xFFFF c.uncorr 1 }).begun
          (s.rcv.portRet.contains j && k == 1) x (some (.bank a e)) false) s t ∧ t.sto = { s.sto with ws := m } := by
  dsimp only
  rw [State.faultBank_eq]
  have struck := s.only_modSto fun m => { m with ws := m.ws.strike (a / 32) e }
  cases pathCheck ((s.sto.ws.strike (a / 32) e).codeword none (a / 32)) with
  | clean =>
    unfold State.bankRead
    dsimp only
    refine ⟨State.only_after (State.only_modSto _ _).sub struck.sub, ⟨rfl, fun _ _ => rfl⟩, rfl⟩
  | corrected c =>
    unfold State.bankRead
    dsimp only
    obtain ⟨only, put⟩ := State.faultCorrected_calm (s := (s.modSto fun m => { m with ws := m.ws.strike (a / 32) e }).modSto fun m =>
      { m with ws := m.ws.mend none (a / 32) c.data }) (k := k) (j := j) (unseen := unseen) hr calm
    exact ⟨State.only_after only.sub (State.only_after (State.only_modSto _ _).sub struck.sub), ⟨put.self, put.others⟩, only .sto (by decide)⟩
  | uncorrectable =>
    unfold State.bankRead
    dsimp only
    obtain ⟨only, put⟩ := State.faultUncorrectable_calm (s := s.modSto fun m => { m with ws := m.ws.strike (a / 32) e })
      (k := k) (j := j) (unseen := unseen) hr calm x (some (.bank a e))
    exact ⟨State.only_after only.sub struck.sub, ⟨put.self, put.others⟩, only .sto (by decide)⟩

end Sys2Proof.Machine
end


section
/-! Channels that a third fault retires (13 R364, R365; 02 R55; 07 R208). -/

namespace Sys2Proof.Machine

set_option Elab.async false

/-! ### What a retirement does not undo -/

/-- Killed records stay killed, and what waits for a page goes on waiting. -/
structure State.retiring (s t : State) : Prop where
  killed : ∀ r, (s.task r).st = .killed → (t.task r).st = .killed
  waiting : t.xl.waiting = s.xl.waiting

theorem State.retiring_trans {s t u : State} (h : s.retiring t) (g : t.retiring u) : s.retiring u :=
  ⟨fun r hr => g.killed r (h.killed r hr), g.waiting.trans h.waiting⟩

theorem State.retiring_of_only {s t : State} {l : List Field} (h : s.only t l) (ht : .tasks ∉ l := by decide) (hx : .xl ∉ l := by decide) : s.retiring t :=
  ⟨fun r hr => (congrArg Task.st (State.task_of (h .tasks ht) r)).trans hr, congrArg Xl.waiting (h .xl hx)⟩

theorem State.retiring_of_culls {s t : State} (h : s.culls t) : s.retiring t := by
  have waiting := congrArg Xl.waiting (State.xl_unended h.kept)
  refine ⟨fun r hr => ?_, waiting⟩
  rcases h.tasks r with f | ⟨k, -⟩
  · exact (Task.fewerOps_same f Task.st).trans hr
  · rw [Task.killable_of_killed hr] at k
    exact absurd k Bool.false_ne_true

theorem State.culls_geqPost (s : State) (x : GeqRec) (k : Option GKey) : s.culls (s.geqPost x k) := State.culls_of_all fun _ => s.reaps_geqPost x k

theorem State.culls_geqChannel (s : State) (a b c d e : Nat) : s.culls (s.geqChannel a b c d e) := s.culls_geqPost _ _

/-- A list of records is killed for rerun: those that can be are killed. -/
theorem State.killed_killRerun (s : State) (l : List Nat) (q : Nat) (hq : q ∈ l) (h : (s.task q).killable = true) :
    ((l.foldl State.killRerun s).task q).st = .killed := by
  refine (Task.killedBy_fields (State.killed_of_mem s.rerunAfter State.culls_killRerun (fun v q => v.reaps_killRerun q) (fun v q hv hf hk => ?_) l q hq h)).1
  have spec := v.killRerun_spec q (by rw [Task.fewerOps_killable hf]; exact hk)
  have same : v.rerunAfter q = s.rerunAfter q := by
    unfold State.rerunAfter
    rw [Task.fewerOps_same hf Task.part, State.verkai_of_unended hv.kept]
  rw [same] at spec
  exact Task.killedBy_trans hf spec

/-! ### The report -/

/-- A channel that has left service, or is being emptied to leave it, detours nothing. -/
structure Chan.gone (c : Chan) : Prop where
  out : (c.retired || c.evac) = true
  idle : c.detour = none

theorem State.reportRetired_gone (s : State) (k j n : Nat) : ((s.reportRetired k j n).chan (ckey k j)).gone ∧ s.retiring (s.reportRetired k j n) ∧
    ((s.reportRetired k j n).chan (ckey k j)).retired = true := by
  unfold State.reportRetired
  dsimp only
  have chan := State.modChan_chan_self s (ckey k j) fun c => { c.idle with retired := true, evac := false }
  have only := State.only_modChan s (ckey k j) fun c => { c.idle with retired := true, evac := false }
  generalize (s.modChan (ckey k j) fun c => { c.idle with retired := true, evac := false }) = u at *
  have post := u.only_geqChannel 0x1B k j n ((u.chan (ckey k j)).view (u.hands (ckey k j))).toNat
  have culls := u.culls_geqChannel 0x1B k j n ((u.chan (ckey k j)).view (u.hands (ckey k j))).toNat
  have same : _ = _ := (State.chan_of (post .chans (by decide)) (ckey k j)).trans chan
  have out : ({ (s.chan (ckey k j)).idle with retired := true, evac := false } : Chan).gone := ⟨rfl, rfl⟩
  refine ⟨same ▸ out, State.retiring_trans (State.retiring_of_only only) (State.retiring_of_culls culls), by rw [same]⟩

/-! ### An MTU (13 R365) -/

theorem State.mem_mtuHolders (s : State) (m r slot : Nat) (o : Op) (h : (s.task r).op slot = some o) (hm : o.mtu = some m) : r ∈ s.mtuHolders m := by
  refine State.mem_recsWhere s _ r (List.any_eq_true.mpr ⟨(slot, some o), Tab.mem_of_get _ _ _ h, ?_⟩) rfl
  show (o.mtu == some m) = true
  rw [hm]
  exact beq_self_eq_true _

theorem State.retiring_endMtuOps (s : State) (m : Nat) : s.retiring (s.endMtuOps m) := by
  unfold State.endMtuOps
  refine State.each_keeps (P := s.retiring) (fun u r h => State.retiring_trans h (t := u) ?_) _ s ⟨fun _ h => h, rfl⟩
  refine ⟨fun q hq => ?_, rfl⟩
  rw [State.modTask_task]
  split
  · next e => exact e ▸ hq
  · exact hq

theorem State.retireMtu_spec (s : State) (m : Nat) : ((s.retireMtu m).chan (ckey 2 m)).gone ∧ ((s.retireMtu m).chan (ckey 2 m)).retired = true ∧
    (s.retireMtu m).mtuHeld m = 0 ∧ (s.retireMtu m).xl.waiting = s.xl.waiting ∧
    ∀ r slot o, (s.task r).op slot = some o → o.mtu = some m → (s.task r).killable = true → ((s.retireMtu m).task r).st = .killed := by
  have kills := fun r slot o h hm => s.killed_killRerun (s.mtuHolders m) r (s.mem_mtuHolders m r slot o h hm)
  have first := State.culls_each State.culls_killRerun (s.mtuHolders m) s
  unfold State.retireMtu
  dsimp only
  change ∀ (r slot : Nat) (o : Op), _ → _ → _ → ((s.each (s.mtuHolders m) State.killRerun).task r).st = .killed at kills
  generalize s.each (s.mtuHolders m) State.killRerun = a at *
  have second := State.culls_each (g := fun u n => (u.dispTasks n fun d => d.mtu == m).foldl State.killRerun u)
    (fun u n => State.culls_foldl State.culls_killRerun _ u) (List.range 64) a
  generalize a.each (List.range 64) (fun u n => (u.dispTasks n fun d => d.mtu == m).foldl State.killRerun u) = b at *
  have third := State.only_each (l := [.queues]) (fun u k => if (u.queue k).mtu == some m then u.modQueue k fun q => { q with mtu := none } else u)
    (fun u k => State.only_ite _ (State.only_modQueue u k _) (State.only_refl u _)) (b.queues.map (·.1)) b
  generalize b.each (b.queues.map (·.1)) (fun u k => if (u.queue k).mtu == some m then u.modQueue k fun q => { q with mtu := none } else u) = c at *
  have fourth := c.retiring_endMtuOps m
  generalize c.endMtuOps m = d at *
  have free : (d.modMtu m fun _ => 0).mtuHeld m = 0 := by rw [State.modMtu_mtuHeld_self]
  have fifth : d.retiring (d.modMtu m fun _ => 0) := State.retiring_of_only (State.only_modMtu d m _)
  generalize (d.modMtu m fun _ => 0) = e at *
  obtain ⟨gone, sixth, retired⟩ := e.reportRetired_gone 2 m 0xFF
  have only := (e.reportRetired_spec 2 m 0xFF).2.2.1
  generalize e.reportRetired 2 m 0xFF = f at *
  have later : a.retiring f := State.retiring_trans (State.retiring_of_culls second) (State.retiring_trans (State.retiring_of_only third)
    (State.retiring_trans fourth (State.retiring_trans fifth sixth)))
  exact ⟨gone, retired, (State.mtuHeld_of (only .mtus (by decide)) m).trans free, later.waiting.trans (State.retiring_of_culls first).waiting,
    fun r slot o h hm hk => later.killed r (kills r slot o h hm hk)⟩

/-! ### An engine port (13 R365; 07 R208) -/

theorem State.leavePart_engines (s : State) (k : Nat) : s.only (s.leavePart 1 k) [.parts, .rcv] ∧ (s.leavePart 1 k).rcv.waiting = s.rcv.waiting ∧
    ∀ n, s.enabled n = true → ((s.leavePart 1 k).part n).engines = clrBit (s.part n).engines k := by
  have part := State.each_part (f := fun p => { p with engines := clrBit p.engines k }) (g := fun u n => u.modPart n fun p =>
    if (1 : Nat) = 1 then { p with engines := clrBit p.engines k } else { p with banks := clrBit p.banks k })
    (fun u n m => State.modPart_part u n _ m) ((List.range 64).filter s.enabled) (List.nodup_range.filter _) s
  have only := State.only_each (fun (u : State) n => u.modPart n fun p =>
    if (1 : Nat) = 1 then { p with engines := clrBit p.engines k } else { p with banks := clrBit p.banks k })
    (fun u n => State.only_modPart u n _) ((List.range 64).filter s.enabled) s
  unfold State.leavePart
  dsimp only
  generalize (s.each ((List.range 64).filter s.enabled) fun u n => u.modPart n fun p =>
    if (1 : Nat) = 1 then { p with engines := clrBit p.engines k } else { p with banks := clrBit p.banks k }) = t at *
  have engines : ∀ n, s.enabled n = true → (t.part n).engines = clrBit (s.part n).engines k := by
    intro n hn
    have below : n < 64 := by
      unfold State.enabled at hn
      simp only [Bool.and_eq_true, decide_eq_true_eq] at hn
      exact hn.1
    rw [part, if_pos (List.mem_filter.mpr ⟨List.mem_range.mpr below, hn⟩)]
  have waiting : t.rcv.waiting = s.rcv.waiting := congrArg Rcv.waiting (only .rcv (by decide))
  split <;> split
  · exact ⟨State.only_after (State.only_modRcv t _).sub only.sub, waiting, engines⟩
  · exact ⟨only.sub, waiting, engines⟩
  · exact ⟨State.only_after (State.only_modRcv t _).sub only.sub, waiting, engines⟩
  · exact ⟨only.sub, waiting, engines⟩

/-- A port that has been lost, and whose partition, if it has one, uses it no more. -/
structure State.portOut (k : Nat) (s t : State) : Prop where
  retired : (t.eport k).retired = true
  egen : (t.eport k).egen = ((s.eport k).egen + 1) % 65536
  held : (t.eport k).held = 0
  part : ∀ n, s.portPart k = some n → (t.part n).portLost = true ∧ bit (t.part n).engines k = false

theorem State.enabled_of_portPart {s : State} {k n : Nat} (h : s.portPart k = some n) : s.enabled n = true := by
  unfold State.portPart at h
  have found : (s.enabled n && bit (s.part n).engines k) = true := List.find?_some (p := fun n => s.enabled n && bit (s.part n).engines k) h
  exact (Bool.and_eq_true_iff.mp found).1

/-- The dispatches that use a port end. -/
def State.portKilled (s : State) (k : Nat) : Option Nat → State
  | some n => (s.dispTasks n fun d => (d.lport k).isSome).foldl State.killRerun s
  | none => s

/-- The port itself leaves service. -/
def EPort.out (e : EPort) : EPort := { e with retired := true, egen := (e.egen + 1) % 65536, clearing := false, fwd := [], lastVf := none }

/-- The partition has lost a port, and its dispatches that have ended leave. -/
def State.portMissed (s : State) : Option Nat → State
  | some n => (s.modPart n fun p => { p with portLost := true, wsValid := false, cvy := { p.cvy with restart := true } }).settleStops n
  | none => s

/-- A port out of service, out of its partition's bitmap, and the step times recomputed. -/
def State.portLeft (s : State) (k : Nat) : State :=
  let u := (s.losePort k).modPort k EPort.out
  (u.leavePart 1 k).each (u.portParts k) State.recomputeStep

theorem State.retirePort_eq (s : State) (k : Nat) : s.retirePort k =
    (((s.portKilled k (s.portPart k)).portLeft k).portMissed (s.portPart k)).reportRetired 1 k ((s.portPart k).getD 0xFF) := rfl

theorem State.culls_portKilled (s : State) (k : Nat) (pn : Option Nat) : s.culls (s.portKilled k pn) := by
  cases pn with
  | none => exact State.culls_refl s
  | some n => exact State.culls_foldl State.culls_killRerun _ s

theorem State.portLeft_spec (s : State) (k : Nat) : s.only (s.portLeft k) [.parts, .ports, .rcv] ∧ (s.portLeft k).rcv.waiting = s.rcv.waiting ∧
    (s.portLeft k).eport k = { s.eport k with held := 0 }.out ∧
    ∀ n, s.enabled n = true → bit ((s.portLeft k).part n).engines k = false := by
  unfold State.portLeft
  have first := State.porting_trans (s.porting_losePort k) (State.porting_modPort (s.losePort k) k EPort.out)
  have lost : ((s.losePort k).modPort k EPort.out).eport k = { s.eport k with held := 0 }.out := by
    rw [State.modPort_eport_self, State.losePort_eport, if_pos rfl]
  dsimp only
  generalize (s.losePort k).modPort k EPort.out = a at *
  obtain ⟨second, waits, engines⟩ := a.leavePart_engines k
  generalize a.leavePart 1 k = b at *
  have third := State.porting_each State.porting_recomputeStep (a.portParts k) b
  have only := State.only_each State.recomputeStep State.only_recomputeStep (a.portParts k) b
  generalize b.each (a.portParts k) State.recomputeStep = c at *
  have rcv : a.rcv.waiting = s.rcv.waiting := congrArg Rcv.waiting (first.only .rcv (by decide))
  refine ⟨State.only_after only.sub (State.only_after second.sub first.only.sub), (congrArg Rcv.waiting (only .rcv (by decide))).trans (waits.trans rcv), ?_,
    fun n hn => ?_⟩
  · rw [State.eport_of (only .ports (by decide)), State.eport_of (second .ports (by decide)), lost]
  · rw [third.part_same Part.engines n, engines n ((first.enabled n).trans hn), bit_clrBit]

theorem State.portMissed_spec (s : State) (pn : Option Nat) : s.emits (s.portMissed pn) ∧ s.retiring (s.portMissed pn) ∧
    (s.portMissed pn).rcv = s.rcv ∧
    ∀ n, pn = some n → ((s.portMissed pn).part n).portLost = true ∧ ((s.portMissed pn).part n).engines = (s.part n).engines := by
  cases pn with
  | none => exact ⟨State.emits_of_ports rfl, ⟨fun _ h => h, rfl⟩, rfl, fun n hn => (nomatch hn)⟩
  | some n =>
    show s.emits (State.settleStops _ n) ∧ s.retiring (State.settleStops _ n) ∧ (State.settleStops _ n).rcv = s.rcv ∧
      ∀ m, some n = some m → ((State.settleStops _ n).part m).portLost = true ∧ ((State.settleStops _ n).part m).engines = (s.part m).engines
    have only := State.only_modPart s n fun p => { p with portLost := true, wsValid := false, cvy := { p.cvy with restart := true } }
    have part := State.modPart_part_self s n fun p => { p with portLost := true, wsValid := false, cvy := { p.cvy with restart := true } }
    generalize (s.modPart n fun p => { p with portLost := true, wsValid := false, cvy := { p.cvy with restart := true } }) = t at *
    have culls := State.culls_of_all fun r => State.reaps_settleStops (r := r) t n
    have emits := t.emits_settleStops n
    generalize t.settleStops n = u at *
    have lost : (u.part n).portLost = (t.part n).portLost := State.part_same culls.kept Part.portLost n
    have engines : (u.part n).engines = (t.part n).engines := State.part_same culls.kept Part.engines n
    refine ⟨State.emits_trans (State.emits_of_ports (only .ports (by decide))) emits,
      State.retiring_trans (State.retiring_of_only only) (State.retiring_of_culls culls),
      (culls.only .rcv (by decide)).trans (only .rcv (by decide)), fun m hm => ?_⟩
    obtain rfl : n = m := Option.some.inj hm
    exact ⟨by rw [lost, part], by rw [engines, part]⟩

/-- What messages and credits leave of a port. -/
theorem EPort.same_of_unended {α : Type} {e e' : EPort} (h : e'.unended = e.unended) (g : EPort → α) (hg : ∀ x, g x.unended = g x := by intro _; rfl) :
    g e' = g e := (hg e').symm.trans ((congrArg g h).trans (hg e))

theorem State.retirePort_spec (s : State) (k : Nat) : s.portOut k (s.retirePort k) ∧ ((s.retirePort k).chan (ckey 1 k)).gone ∧
    ((s.retirePort k).chan (ckey 1 k)).retired = true ∧ (s.retirePort k).rcv.waiting = s.rcv.waiting ∧
    (s.retirePort k).xl.waiting = s.xl.waiting := by
  rw [State.retirePort_eq]
  have enabled := fun n (h : s.portPart k = some n) => State.enabled_of_portPart h
  generalize hpn : s.portPart k = pn at *
  have first := s.culls_portKilled k pn
  generalize s.portKilled k pn = a at *
  obtain ⟨second, waits, lost, engines⟩ := a.portLeft_spec k
  generalize a.portLeft k = b at *
  obtain ⟨emits, third, rcv, part⟩ := b.portMissed_spec pn
  generalize b.portMissed pn = c at *
  obtain ⟨gone, fourth, retired⟩ := c.reportRetired_gone 1 k (pn.getD 0xFF)
  have only := (c.reportRetired_spec 1 k (pn.getD 0xFF)).2.2.1
  generalize c.reportRetired 1 k (pn.getD 0xFF) = d at *
  have port : d.eport k = c.eport k := State.eport_of (only .ports (by decide)) k
  have same := (emits k).same
  have retires : (c.eport k).retired = (b.eport k).retired := EPort.same_of_unended same EPort.retired
  have egen : (c.eport k).egen = (b.eport k).egen := EPort.same_of_unended same EPort.egen
  have before : (a.eport k).egen = (s.eport k).egen := State.eport_same first.kept EPort.egen k
  have cfg := fun n => State.part_same first.kept Part.cfg n
  refine ⟨⟨by rw [port, retires, lost]; rfl, by rw [port, egen, lost, ← before]; rfl, ?_, fun n hn => ?_⟩, gone, retired, ?_, ?_⟩
  · rw [port]
    refine Nat.le_zero.mp ((emits k).held.trans (Nat.le_of_eq ?_))
    rw [lost]
    rfl
  · obtain rfl : pn = some n := hpn.symm.trans hn
    obtain ⟨missed, same⟩ := part n rfl
    rw [State.part_of (only .parts (by decide)), same]
    refine ⟨missed, engines n ?_⟩
    unfold State.enabled
    rw [cfg n]
    exact enabled n rfl
  · exact (congrArg Rcv.waiting (only .rcv (by decide))).trans ((congrArg Rcv.waiting rcv).trans (waits.trans (congrArg Rcv.waiting (first.only .rcv (by decide)))))
  · exact fourth.waiting.trans (third.waiting.trans ((congrArg Xl.waiting (second .xl (by decide))).trans (State.retiring_of_culls first).waiting))

/-! ### What a retirement owes (13 R365) -/

/-- Channel (`k`, `j`) has been retired, or its evacuation has begun, between `s` and `t`. -/
def State.outOfService (k j : Nat) (s t : State) : Prop :=
  (k = 2 → (t.chan (ckey 2 j)).retired = true ∧ t.mtuHeld j = 0 ∧
    ∀ r slot o, (s.task r).op slot = some o → o.mtu = some j → (s.task r).killable = true → (t.task r).st = .killed) ∧
  (k = 3 → (t.chan (ckey 3 j)).evac = true) ∧
  (k = 1 → j ∉ s.rcv.portRet → bit s.rcv.dumpCfg 25 = false → (t.chan (ckey 1 j)).retired = true ∧
    (t.eport j).retired = true ∧ (t.eport j).egen = ((s.eport j).egen + 1) % 65536 ∧ (t.eport j).held = 0 ∧
    ∀ n, s.portPart j = some n → n ∈ t.rcv.waiting ∧ (t.part n).portLost = true ∧ bit (t.part n).engines j = false)

/-- What is judged by the state before the fault may be judged by the state once it is counted. -/
theorem State.outOfService_of {k j : Nat} {s u t : State} {l : List Field} (h : State.outOfService k j u t) (only : s.only u l) (egen : (u.eport j).egen = (s.eport j).egen)
    (hl : ∀ f ∈ [Field.tasks, .rcv, .parts], f ∉ l := by decide) : State.outOfService k j s t := by
  obtain ⟨mtu, bank, port⟩ := h
  have rcv : u.rcv = s.rcv := only .rcv (hl _ (by decide))
  rw [rcv, egen] at port
  refine ⟨fun hk => ?_, bank, fun hk hj hb => ?_⟩
  · obtain ⟨retired, held, kills⟩ := mtu hk
    refine ⟨retired, held, fun r slot o ho hm hr => ?_⟩
    have same := State.task_of (only .tasks (hl _ (by decide))) r
    exact kills r slot o (by rw [same]; exact ho) hm (by rw [same]; exact hr)
  · obtain ⟨retired, out, gen, held, parts⟩ := port hk hj hb
    exact ⟨retired, out, gen, held, fun n hn => parts n ((State.portPart_of (only .parts (hl _ (by decide))) j).trans hn)⟩

theorem State.outOfService_later {k j : Nat} {s t u : State} {l : List Field} (h : State.outOfService k j s t) (only : t.only u l)
    (hl : ∀ f ∈ [Field.tasks, .rcv, .parts, .chans, .mtus, .ports], f ∉ l := by decide) : State.outOfService k j s u := by
  unfold State.outOfService at *
  simp only [State.chan_of (only .chans (hl _ (by decide))), State.mtuHeld_of (only .mtus (hl _ (by decide))),
    State.task_of (only .tasks (hl _ (by decide))), State.eport_of (only .ports (hl _ (by decide))),
    State.part_of (only .parts (hl _ (by decide))), show u.rcv = t.rcv from only .rcv (hl _ (by decide))]
  exact h

theorem mem_insertRising (l : List Nat) (n : Nat) : n ∈ insertRising l n := by
  induction l with
  | nil => exact List.mem_singleton.mpr rfl
  | cons a l ih =>
    unfold insertRising
    split
    · exact List.mem_cons_of_mem _ ih
    · split
      · next h => exact h ▸ List.mem_cons_self
      · exact List.mem_cons_self

/-- An engine port that no dump holds back retires (13 R365, R374). -/
theorem State.retireChan_port (s : State) (j : Nat) (hr : (s.chan (ckey 1 j)).retired = false) (he : (s.chan (ckey 1 j)).evac = false)
    (hj : j ∉ s.rcv.portRet) (hb : bit s.rcv.dumpCfg 25 = false) : State.outOfService 1 j s (s.retireChan 1 j) ∧
    ((s.retireChan 1 j).chan (ckey 1 j)).gone ∧ (s.retireChan 1 j).xl.waiting = s.xl.waiting := by
  have finish : ∀ u : State, s.only u [.rcv] → (∀ n, s.portPart j = some n → n ∈ u.rcv.waiting) → s.retireChan 1 j = u.retirePort j →
      State.outOfService 1 j s (s.retireChan 1 j) ∧ ((s.retireChan 1 j).chan (ckey 1 j)).gone ∧ (s.retireChan 1 j).xl.waiting = s.xl.waiting := by
    intro u only waits eq
    obtain ⟨out, gone, retired, queued, waiting⟩ := u.retirePort_spec j
    rw [eq]
    refine ⟨⟨(nomatch ·), (nomatch ·), fun _ _ _ => ⟨retired, out.retired, ?_, out.held, fun n hn => ⟨?_, out.part n ?_⟩⟩⟩, gone,
      waiting.trans (congrArg Xl.waiting (only .xl (by decide)))⟩
    · rw [out.egen, State.eport_of (only .ports (by decide))]
    · rw [queued]
      exact waits n hn
    · exact (State.portPart_of (only .parts (by decide)) j).trans hn
  cases hp : s.portPart j with
  | none =>
    refine finish s (State.only_refl s _) (fun n hn => absurd (hp.symm.trans hn) (by simp)) ?_
    unfold State.retireChan
    simp [hr, he, hj, hp]
  | some n =>
    refine finish (s.modRcv fun r => { r with waiting := insertRising r.waiting n }) (State.only_modRcv s _) (fun m hm => ?_) ?_
    · obtain rfl : n = m := Option.some.inj (hp.symm.trans hm)
      exact mem_insertRising _ n
    · unfold State.retireChan
      simp [hr, he, hj, hp, hb]

/-- A channel that a fault retires. -/
theorem State.retireChan_spec (s : State) (k j : Nat) (hk : retirable k = true) (hr : (s.chan (ckey k j)).retired = false) (he : (s.chan (ckey k j)).evac = false)
    (owed : k = 1 → j ∉ s.rcv.portRet ∧ bit s.rcv.dumpCfg 25 = false) : State.outOfService k j s (s.retireChan k j) ∧
    ((s.retireChan k j).chan (ckey k j)).gone ∧ (s.retireChan k j).xl.waiting = s.xl.waiting := by
  have kinds : k = 1 ∨ k = 2 ∨ k = 3 := by
    unfold retirable at hk
    simpa [or_assoc] using hk
  rcases kinds with rfl | rfl | rfl
  · exact s.retireChan_port j hr he (owed rfl).1 (owed rfl).2
  · have eq : s.retireChan 2 j = s.retireMtu j := by
      unfold State.retireChan
      simp [hr, he]
    obtain ⟨gone, retired, held, waiting, kills⟩ := s.retireMtu_spec j
    rw [eq]
    exact ⟨⟨fun _ => ⟨retired, held, kills⟩, (nomatch ·), (nomatch ·)⟩, gone, waiting⟩
  · have eq : s.retireChan 3 j = s.modChan (ckey 3 j) fun c => { c.idle with evac := true } := by
      unfold State.retireChan
      simp [hr, he]
    have chan := State.modChan_chan_self s (ckey 3 j) fun c => { c.idle with evac := true }
    rw [eq, State.outOfService, chan]
    exact ⟨⟨(nomatch ·), fun _ => rfl, (nomatch ·)⟩, ⟨Bool.or_true _, rfl⟩, rfl⟩

end Sys2Proof.Machine
end


section
/-! Detours that are exhausted: stored words that are lost, and transfers that cannot be made (13 R362, R363, R368). -/

namespace Sys2Proof.Machine

set_option Elab.async false

/-! ### What a record for the Operator leaves of objects and of the ring -/

theorem State.ownWrite_obj (s : State) (sp : Space) (a : Nat) (l : List Byte) (n : Nat) : (s.ownWrite sp a l).1.obj n = s.obj n := by
  have put : ∀ u : State, u.obj n = s.obj n → (if u.ctxBad sp a l.length then (u.ctxRefuse, false) else (u.hostWrite sp a l, true)).1.obj n = s.obj n := by
    intro u hu
    split
    · exact hu
    · exact (State.obj_of (State.only_hostWrite u sp a l .objs (by decide)) n).trans hu
  unfold State.ownWrite
  dsimp only
  split
  · rfl
  · split
    · split
      · exact put s rfl
      · rfl
    · split
      · rfl
      · exact put _ rfl

theorem State.geqMirror_obj (s : State) (r : GeqRec) (n : Nat) : (s.geqMirror r).obj n = s.obj n := by
  unfold State.geqMirror
  split
  · split
    · exact State.ownWrite_obj s _ _ _ n
    · rfl
  · rfl

theorem State.geqPost_obj (s : State) (r : GeqRec) (k : Option GKey) (n : Nat) : (s.geqPost r k).obj n = s.obj n := by
  have put : (((s.geqMirror (s.geqStamped r k)).modGeq fun g => g.put s.now (s.geqStamped r k) k).tick 0x1C0 none).obj n = s.obj n :=
    (State.obj_of (State.only_tick _ _ _ .objs (by decide)) n).trans (State.geqMirror_obj s _ n)
  unfold State.geqPost
  dsimp only
  split
  · rfl
  · split
    · rfl
    · split
      · exact put
      · exact (State.obj_of (State.only_geqIrq _ .objs (by decide)) n).trans put

theorem State.geqChannel_obj (s : State) (a b c d e n : Nat) : (s.geqChannel a b c d e).obj n = s.obj n := State.geqPost_obj s _ _ n

/-- A record takes the ring's next place, and no other. -/
theorem State.geqChannel_ring (s : State) (a b c d e n : Nat) (hn : s.geq.tail % 4096 ≠ n) :
    Tab.get none (s.geqChannel a b c d e).geq.ring n = Tab.get none s.geq.ring n := by
  unfold State.geqChannel
  generalize ({ geqRec a 4 with part := d, chanKind := b, chanIndex := c, detail := e } : GeqRec) = r
  cases hf : s.geq.full with
  | true =>
    unfold State.geqPost
    rw [if_neg (by simp), if_pos hf]
    rfl
  | false =>
    rw [State.geqPost_geq s r none rfl hf]
    unfold Geq.put
    dsimp only
    rw [Tab.get_set_ne _ _ _ (Ne.symm hn)]

/-! ### A stored word that is lost (13 R368) -/

theorem State.culls_failWaits (s : State) (i st : Nat) : s.culls (s.failWaits i st) := State.culls_each (fun u r => u.culls_failTask r st) _ s

/-- Channels and what waits for pages are as they were. -/
structure State.bystanding (s t : State) : Prop where
  chans : t.chans = s.chans
  waiting : t.xl.waiting = s.xl.waiting

theorem State.bystanding_trans {s t u : State} (h : s.bystanding t) (g : t.bystanding u) : s.bystanding u :=
  ⟨g.chans.trans h.chans, g.waiting.trans h.waiting⟩

theorem State.bystanding_of_culls {s t : State} (h : s.culls t) : s.bystanding t := ⟨h.only .chans (by decide), (State.retiring_of_culls h).waiting⟩

theorem State.bystanding_of_only {s t : State} {l : List Field} (h : s.only t l) (hc : .chans ∉ l := by decide) (hx : .xl ∉ l := by decide) :
    s.bystanding t := ⟨h .chans hc, congrArg Xl.waiting (h .xl hx)⟩

/-- The loss of a word as its structure shows it (13 R368). -/
def State.wordLost (s t : State) : StoredWord → Prop
  | .record r => (t.task r).withdrawn = true
  | .waypoint n => (t.wp n).poisoned = true
  | .object n => (t.obj n).poisoned = true
  | .extent n pg => ∀ e ∈ (t.obj n).exts, e.off ≤ pg → pg < e.off + e.len → e.bad = true
  | .queue f q => (t.queue (qkey f q)).poisoned = true
  | .geq n => ∀ e, Tab.get none t.geq.ring n = some e → s.geq.tail % 4096 ≠ n → e.flags / 8 % 2 = 1
  | .bank a _ => t.readLoc (.ws a) = none

theorem State.wordLost_later {s t u : State} {l : List Field} {w : StoredWord} (h : State.wordLost s t w) (only : t.only u l)
    (hl : ∀ f ∈ [Field.tasks, .wps, .objs, .queues, .geq, .sto], f ∉ l := by decide) : State.wordLost s u w := by
  cases w with
  | record r => exact (congrArg Task.withdrawn (State.task_of (only .tasks (hl _ (by decide))) r)).trans h
  | waypoint n => exact (congrArg Wp.poisoned (State.wp_of (only .wps (hl _ (by decide))) n)).trans h
  | object n => exact (congrArg Obj.poisoned (State.obj_of (only .objs (hl _ (by decide))) n)).trans h
  | extent n pg =>
    intro e he
    rw [State.obj_of (only .objs (hl _ (by decide)))] at he
    exact h e he
  | queue f q => exact (congrArg Queue.poisoned (State.queue_of (only .queues (hl _ (by decide))) _)).trans h
  | geq n =>
    intro e he
    rw [show u.geq = t.geq from only .geq (hl _ (by decide))] at he
    exact h e he
  | bank a _ =>
    have same : u.sto = t.sto := only .sto (hl _ (by decide))
    show u.sto.ws.read none a = none
    rw [same]
    exact h

/-- An object whose extent word for a page is lost. -/
def Obj.pageLost (pg : Nat) (o : Obj) : Obj :=
  { o with exts := o.exts.map fun e => if e.off ≤ pg && pg < e.off + e.len then { e with bad := true } else e }

theorem Obj.pageLost_bad (pg : Nat) (o : Obj) (e : Ext) (he : e ∈ (o.pageLost pg).exts) (lo : e.off ≤ pg) (hi : pg < e.off + e.len) : e.bad = true := by
  obtain ⟨x, -, rfl⟩ := List.mem_map.mp he
  by_cases h : (x.off ≤ pg && pg < x.off + x.len) = true
  · rw [if_pos h]
  · rw [if_neg h] at lo hi
    exact absurd (by simpa using And.intro lo hi) h

/-- The Global Error Queue with the record at a place marked as lost. -/
def Geq.placeLost (n : Nat) (g : Geq) : Geq :=
  { g with ring := Tab.set none g.ring n ((Tab.get none g.ring n).map fun r => { r with flags := if r.flags / 8 % 2 = 1 then r.flags else r.flags + 8 }) }

theorem Geq.placeLost_flag (n : Nat) (g : Geq) (e : GeqRec) (he : Tab.get none (g.placeLost n).ring n = some e) : e.flags / 8 % 2 = 1 := by
  unfold Geq.placeLost at he
  rw [Tab.get_set_self] at he
  obtain ⟨x, -, rfl⟩ := Option.map_eq_some_iff.mp he
  dsimp only
  split <;> omega

theorem State.storedLost_spec (s : State) (w : StoredWord) : State.wordLost s (s.storedLost w) w ∧ s.bystanding (s.storedLost w) := by
  have post := fun u : State => State.bystanding_of_culls (u.culls_geqChannel 0x17 6 0 0xFF 0)
  cases w with
  | record r =>
    have first : s.culls (if (s.task r).st = .admitted ∨ (s.task r).st = .running then s.killRerun r else s) :=
      State.culls_ite _ (s.culls_killRerun r) (State.culls_refl s)
    show ((State.geqChannel _ _ _ _ _ _).task r).withdrawn = true ∧ s.bystanding (State.geqChannel _ _ _ _ _ _)
    generalize (if (s.task r).st = .admitted ∨ (s.task r).st = .running then s.killRerun r else s) = u at *
    have mark := State.modTask_task_self u r fun t => { t with withdrawn := true }
    have second := State.bystanding_of_only (State.only_modTask u r fun t => { t with withdrawn := true })
    generalize (u.modTask r fun t => { t with withdrawn := true }) = v at *
    have same := State.task_of (v.only_geqChannel 0x17 6 0 0xFF 0 .tasks (by decide)) r
    exact ⟨by rw [same, mark], State.bystanding_trans (State.bystanding_of_culls first) (State.bystanding_trans second (post v))⟩
  | waypoint n =>
    show ((State.geqChannel _ _ _ _ _ _).wp n).poisoned = true ∧ s.bystanding (State.geqChannel _ _ _ _ _ _)
    have mark := State.modWp_wp_self s n fun w => { w with poisoned := true }
    have first := State.bystanding_of_only (State.only_modWp s n fun w => { w with poisoned := true })
    generalize (s.modWp n fun w => { w with poisoned := true }) = u at *
    have second := u.culls_failWaits n 0x17
    generalize u.failWaits n 0x17 = v at *
    have same := State.wp_of (v.only_geqChannel 0x17 6 0 0xFF 0 .wps (by decide)) n
    have kept := State.wp_of_unlit (State.wps_unended second.kept) n
    exact ⟨by rw [same, kept, mark], State.bystanding_trans first (State.bystanding_trans (State.bystanding_of_culls second) (post v))⟩
  | object n =>
    have mark := State.modObj_obj_self s n fun o => { o with poisoned := true }
    have first := State.bystanding_of_only (State.only_modObj s n fun o => { o with poisoned := true })
    show ((State.geqChannel _ _ _ _ _ _).obj n).poisoned = true ∧ s.bystanding (State.geqChannel _ _ _ _ _ _)
    generalize (s.modObj n fun o => { o with poisoned := true }) = u at *
    exact ⟨by rw [State.geqChannel_obj, mark], State.bystanding_trans first (post u)⟩
  | extent n pg =>
    have mark := State.modObj_obj_self s n (Obj.pageLost pg)
    have first := State.bystanding_of_only (State.only_modObj s n (Obj.pageLost pg))
    show (∀ e ∈ ((State.geqChannel (s.modObj n (Obj.pageLost pg)) _ _ _ _ _).obj n).exts, _) ∧ s.bystanding (State.geqChannel (s.modObj n (Obj.pageLost pg)) _ _ _ _ _)
    generalize s.modObj n (Obj.pageLost pg) = u at *
    refine ⟨?_, State.bystanding_trans first (post u)⟩
    rw [State.geqChannel_obj, mark]
    exact Obj.pageLost_bad pg (s.obj n)
  | queue f q =>
    have mark := State.modQueue_queue_self s (qkey f q) fun x => { x with poisoned := true }
    have first := State.bystanding_of_only (State.only_modQueue s (qkey f q) fun x => { x with poisoned := true })
    show ((State.geqChannel _ _ _ _ _ _).queue (qkey f q)).poisoned = true ∧ s.bystanding (State.geqChannel _ _ _ _ _ _)
    generalize (s.modQueue (qkey f q) fun x => { x with poisoned := true }) = u at *
    exact ⟨by rw [State.queue_of (u.only_geqChannel 0x17 6 0 0xFF 0 .queues (by decide)), mark], State.bystanding_trans first (post u)⟩
  | geq n =>
    have mark : (s.modGeq (Geq.placeLost n)).geq = s.geq.placeLost n := State.modGeq_geq s _
    have first := State.bystanding_of_only (State.only_modGeq s (Geq.placeLost n))
    show (∀ e, Tab.get none (State.geqChannel (s.modGeq (Geq.placeLost n)) _ _ _ _ _).geq.ring n = some e → s.geq.tail % 4096 ≠ n → e.flags / 8 % 2 = 1) ∧
      s.bystanding (State.geqChannel (s.modGeq (Geq.placeLost n)) _ _ _ _ _)
    generalize s.modGeq (Geq.placeLost n) = u at *
    refine ⟨fun e he hn => ?_, State.bystanding_trans first (post u)⟩
    rw [State.geqChannel_ring u 0x17 6 0 0xFF 0 n (by rw [mark]; exact hn), mark] at he
    exact Geq.placeLost_flag n s.geq e he
  | bank a e =>
    refine ⟨if_pos (List.contains_iff_mem.mpr (mem_insertRising _ _)), rfl, rfl⟩

/-- A detour of a stored word's read that is exhausted. -/
theorem State.detourOver_word (s : State) (k j : Nat) {w : StoredWord} (h : (s.chan (ckey k j)).word = some w) :
    State.wordLost s (s.detourOver k j) w ∧ State.chanPut (ckey k j) (s.chan (ckey k j)).nextDetour s (s.detourOver k j) ∧
      (s.detourOver k j).xl.waiting = s.xl.waiting := by
  have run : s.detourOver k j = (s.storedLost w).endDetour k j := by
    unfold State.detourOver
    dsimp only
    rw [h]
  obtain ⟨lost, still⟩ := s.storedLost_spec w
  rw [run]
  generalize s.storedLost w = u at *
  obtain ⟨only, chan, -⟩ := u.endDetour_spec k j
  have same := State.chan_of still.chans
  refine ⟨State.wordLost_later lost only, ⟨?_, fun q hq => ?_⟩, (congrArg Xl.waiting (only .xl (by decide))).trans still.waiting⟩
  · rw [chan, if_pos rfl, same]
  · rw [chan, if_neg hq, same]

end Sys2Proof.Machine
end


section
/-! Re-issues that fail, and faults that retire (13 R361 to R365). -/

namespace Sys2Proof.Machine

set_option Elab.async false

/-! ### A fault that retires its channel -/

/-- A way to count a fault leaves alone whether the channel is in service. -/
def Chan.counting (g : Chan → Chan) : Prop := ∀ c, (g c).retired = c.retired ∧ (g c).evac = c.evac

theorem Chan.counting_uncorr : Chan.counting fun c => { c with uncorr := satAdd 0xFFFF c.uncorr 1 } := fun _ => ⟨rfl, rfl⟩

theorem Chan.counting_hsTimeout : Chan.counting fun c => { c with hsTimeout := satAdd 0xFFFF c.hsTimeout 1 } := fun _ => ⟨rfl, rfl⟩

/-- From `s` to `t` channel (`k`, `j`) has left service as it must, and nothing more is to be done at it. -/
structure State.leaves (k j : Nat) (s t : State) : Prop where
  out : State.outOfService k j s t
  gone : (t.chan (ckey k j)).gone
  waiting : t.xl.waiting = s.xl.waiting

section
variable {k j unseen : Nat} {s : State} (hr : (s.chan (ckey k j)).retired = false) (he : (s.chan (ckey k j)).evac = false)
  (hk : retirable k = true) (owed : k = 1 → j ∉ s.rcv.portRet ∧ bit s.rcv.dumpCfg 25 = false)
include hr he hk owed

/-- A counted fault's channel is retired, whether the count or the end of its detour does it. -/
theorem State.struck_leaves {u : State} {g : Chan → Chan} (hg : Chan.counting g) (only : s.only u [.ports]) (egen : (u.eport j).egen = (s.eport j).egen) :
    State.leaves k j s ((u.struck k j unseen g).retireChan k j) := by
  have chan := (State.chanPut_struck u k j unseen g).self
  have struck := u.only_struck k j unseen g
  generalize u.struck k j unseen g = v at *
  have before := State.chan_of (only .chans (by decide)) (ckey k j)
  obtain ⟨keptR, keptE⟩ := hg (u.chan (ckey k j))
  have both : s.only v [.ports, .chans, .cnt] := State.only_after struck.sub only.sub
  have rcv : v.rcv = s.rcv := both .rcv (by decide)
  obtain ⟨out, gone, waiting⟩ := v.retireChan_spec k j hk (by rw [chan]; exact keptR.trans ((congrArg Chan.retired before).trans hr))
    (by rw [chan]; exact keptE.trans ((congrArg Chan.evac before).trans he)) (by rw [rcv]; exact owed)
  exact ⟨State.outOfService_of out both ((congrArg EPort.egen (State.eport_of (struck .ports (by decide)) j)).trans egen), gone,
    waiting.trans (congrArg Xl.waiting (both .xl (by decide)))⟩

theorem State.stampFault_leaves {u : State} {g : Chan → Chan} (hg : Chan.counting g) (only : s.only u [.ports]) (egen : (u.eport j).egen = (s.eport j).egen)
    (near : (s.chan (ckey k j)).near (s.stampAt k j unseen)) : State.leaves k j s (u.stampFault k j unseen g) := by
  have before := State.chan_of (only .chans (by decide)) (ckey k j)
  have at' : u.stampAt k j unseen = s.stampAt k j unseen := by
    unfold State.stampAt State.hands
    rw [only .cnt (by decide)]
  rw [(State.stampFault_eq g (by rw [before]; exact hr)).1 ⟨by rw [before, at']; exact near, hk⟩]
  exact State.struck_leaves hr he hk owed hg only egen

theorem State.hsFault_leaves (near : (s.chan (ckey k j)).near (s.stampAt k j unseen)) : State.leaves k j s (s.hsFault k j unseen) := by
  rw [State.hsFault_eq]
  refine State.stampFault_leaves hr he hk owed Chan.counting_hsTimeout (s.only_portLate k j) ?_ near
  rw [State.portLate_eport]
  split <;> rfl

end

/-- A retirement that no clause speaks of. -/
theorem State.outOfService_unowed {k j : Nat} {s : State} (hk : k = 1) (h : ¬(j ∉ s.rcv.portRet ∧ bit s.rcv.dumpCfg 25 = false)) (t : State) :
    State.outOfService k j s t := by
  subst hk
  exact ⟨(nomatch ·), (nomatch ·), fun _ hj hb => absurd ⟨hj, hb⟩ h⟩

theorem State.beginDetour_gone {u : State} {k j : Nat} (h : (u.chan (ckey k j)).gone) (x : Transfer) (w : Option StoredWord) (v : Bool) :
    u.beginDetour k j x w v = u := by
  unfold State.beginDetour
  refine if_pos ?_
  rw [h.out, Bool.true_or]

theorem State.further_gone {u : State} {k j : Nat} (h : (u.chan (ckey k j)).gone) : u.further k j = u := by
  unfold State.further
  rw [h.idle]

/-- What leaves service by a command stays out of it to the command's end. -/
theorem State.leaves_done {k j : Nat} {s v : State} (h : State.outOfService k j s v) : ∃ t, done s v = .next t ∧ State.outOfService k j s t := by
  obtain ⟨t, ht, -, -, only⟩ := done_next s v
  exact ⟨t, ht, State.outOfService_later h only⟩

theorem State.reqs_of_culls {s t : State} (h : s.culls t) : t.xl.reqs = s.xl.reqs := by
  have := congrArg Xl.reqs (State.xl_unended h.kept)
  exact this

/-! ### A read that delivers poisoned data (13 R363) -/

theorem State.modGot_xl (s : State) (w : Who) (f : List (Space × Nat × Nat) → List (Space × Nat × Nat)) (h : s.xl.waiting = []) :
    (s.modGot w f).xl.reqs = s.xl.reqs ∧ (s.modGot w f).xl.waiting = [] := by
  cases w with
  | port id => exact ⟨rfl, congrArg (List.map _) h⟩
  | op r g k => exact ⟨rfl, h⟩
  | prog r g => exact ⟨rfl, h⟩
  | slots qk => exact ⟨rfl, h⟩
  | record qk => exact ⟨rfl, h⟩
  | pin n => exact ⟨rfl, h⟩

theorem State.refuseReq_xl (s : State) (q : HostReq) (h : s.xl.waiting = []) : (s.refuseReq q).xl.reqs = s.xl.reqs.erase q ∧ (s.refuseReq q).xl.waiting = [] := by
  have ended : (s.endReq q).xl.reqs = s.xl.reqs.erase q ∧ (s.endReq q).xl.waiting = [] := ⟨rfl, h⟩
  have both : ∀ b : Bool, let t := if b then (s.endReq q).modXl fun x => { x with fails := x.fails ++ [(q.who, q.kind)] } else s.endReq q
      t.xl.reqs = s.xl.reqs.erase q ∧ t.xl.waiting = [] := fun b => by
    cases b
    · exact ended
    · exact ended
  exact both _

theorem State.arrive_xl (s : State) (q : HostReq) (sp : Space) (a len : Nat) (data : List (Option Byte)) (h : s.xl.waiting = []) :
    (s.arrive q sp a len data).xl.reqs = s.xl.reqs.erase q ∧ (s.arrive q sp a len data).xl.waiting = [] := by
  have ended : (s.endReq q).xl.reqs = s.xl.reqs.erase q ∧ (s.endReq q).xl.waiting = [] := ⟨rfl, h⟩
  unfold State.arrive
  dsimp only
  generalize s.endReq q = u at *
  split
  · rw [State.only_tick u _ _ .xl (by decide)]
    exact ended
  · split
    · have xl : (u.writeRange (.host q.port q.dst) data).xl = u.xl := State.only_writeRange data u _ .xl (by decide)
      obtain ⟨reqs, waiting⟩ := State.modGot_xl (u.writeRange (.host q.port q.dst) data) q.who (fun g => g ++ [(sp, a, len)]) (by rw [xl]; exact ended.2)
      exact ⟨by rw [reqs, xl, ended.1], waiting⟩
    · exact ended

theorem State.deliverPoison_spec (s : State) {q : HostReq} {j g : Nat} (hq : (s.xl.reqs.find? fun y => y.port == j && y.tag == g) = some q)
    (h : s.xl.waiting = []) : (s.deliverPoison j g).xl.reqs = s.xl.reqs.erase q ∧ (s.deliverPoison j g).xl.waiting = [] := by
  unfold State.deliverPoison
  rw [hq]
  dsimp only
  split
  · exact s.refuseReq_xl q h
  · exact s.arrive_xl q _ _ _ _ h

/-! ### The third failure of a detour (13 R362, R363) -/

theorem State.further_last {u : State} {k j : Nat} (hd : (u.chan (ckey k j)).detour = some 2) : u.further k j = u.detourOver k j := by
  unfold State.further
  rw [hd]
  rfl

section
variable {u : State} {k j : Nat} (hw : (u.chan (ckey k j)).word = none)
include hw

theorem State.detourOver_retires (hk : retirable k = true) : u.detourOver k j = u.retireChan k j := by
  unfold State.detourOver
  dsimp only
  rw [hw]
  exact if_pos hk

variable (hk : retirable k = false)
include hk

theorem State.detourOver_read {r : Nat} (hx : (u.chan (ckey k j)).xfer = .read (some r)) (h7 : k ≠ 7) (h9 : k ≠ 9) (kill : (u.task r).killable = true) :
    ((u.detourOver k j).task r).st = .killed ∧ ((u.detourOver k j).task r).after = some (.fail 0x17) ∧ u.retiring (u.detourOver k j) := by
  have run : u.detourOver k j = (if ((u.geqLost k j).task r).st = .committing then (u.geqLost k j).modTask r (Task.met 0x17 0)
      else (u.geqLost k j).failTask r 0x17).endDetour k j := by
    unfold State.detourOver
    dsimp only
    rw [hw, hx]
    dsimp only
    rw [if_neg (ne_true_of_eq_false hk), if_neg (by simp [h7, h9])]
  have first : u.culls (u.geqLost k j) := u.culls_geqChannel _ _ _ _ _
  have same := State.task_of (u.only_geqChannel 0x17 k j 0xFF 0 .tasks (by decide)) r
  have same : (u.geqLost k j).task r = u.task r := same
  generalize u.geqLost k j = v at *
  have busy : (v.task r).st ≠ .committing := by
    intro h
    rw [← same] at kill
    simp [Task.killable, h] at kill
  rw [run, if_neg busy]
  obtain ⟨st, after, -⟩ := Task.killedBy_fields (v.failTask_spec r 0x17 (by rw [same]; exact kill))
  have second := v.culls_failTask r 0x17
  generalize v.failTask r 0x17 = w at *
  have only := (w.endDetour_spec k j).1
  have task := State.task_of (only .tasks (by decide)) r
  exact ⟨by rw [task]; exact st, by rw [task]; exact after,
    State.retiring_trans (State.retiring_of_culls first) (State.retiring_trans (State.retiring_of_culls second) (State.retiring_of_only only))⟩

theorem State.detourOver_write {r : Nat} (hx : (u.chan (ckey k j)).xfer = .write r) (kill : (u.task r).killable = true) :
    ((u.detourOver k j).task r).st = .killed ∧ ((u.detourOver k j).task r).after = some (u.rerunAfter r) ∧ u.retiring (u.detourOver k j) := by
  have busy : (u.task r).st ≠ .committing := by
    intro h
    simp [Task.killable, h] at kill
  have run : u.detourOver k j = (u.killRerun r).endDetour k j := by
    unfold State.detourOver
    dsimp only
    rw [hw, hx]
    dsimp only
    rw [if_neg (ne_true_of_eq_false hk), if_pos busy]
  rw [run]
  obtain ⟨st, after, -⟩ := Task.killedBy_fields (u.killRerun_spec r kill)
  have first := u.culls_killRerun r
  generalize u.killRerun r = w at *
  have only := (w.endDetour_spec k j).1
  have task := State.task_of (only .tasks (by decide)) r
  exact ⟨by rw [task]; exact st, by rw [task]; exact after, State.retiring_trans (State.retiring_of_culls first) (State.retiring_of_only only)⟩

theorem State.detourOver_committing {r : Nat} (hd : (u.chan (ckey k j)).detour = some 2) (hx : (u.chan (ckey k j)).xfer = .write r) (busy : (u.task r).st = .committing) :
    ((u.detourOver k j).chan (ckey k j)).detour = some 3 ∧ ((u.detourOver k j).chan (ckey k j)).more = 0 ∧ u.only (u.detourOver k j) [.chans] := by
  have two : (u.chan (ckey k j)).detour ≠ some 3 := by
    rw [hd]
    decide
  have run : u.detourOver k j = u.modChan (ckey k j) fun c => { c with detour := some 3, more := if c.detour = some 3 then (c.more + 1) % 3 else 0 } := by
    unfold State.detourOver
    dsimp only
    rw [hw, hx]
    dsimp only
    rw [if_neg (ne_true_of_eq_false hk), if_neg (not_not_intro busy), if_neg (fun h => two h.1)]
  rw [run, State.modChan_chan_self]
  exact ⟨rfl, if_neg two, State.only_modChan u _ _⟩

/-- The data of a read that its tag holds is poisoned, or its translation fails: its request is over (13 R363). -/
theorem State.detourOver_tag {g : Nat} {q : HostReq} (hx : (u.chan (ckey k j)).xfer = .tag g)
    (hq : (u.xl.reqs.find? fun y => y.port == j && y.tag == g) = some q) (hn : u.xl.waiting = []) :
    (u.detourOver k j).xl.reqs = u.xl.reqs.erase q ∧ (u.detourOver k j).xl.waiting = [] := by
  have run : u.detourOver k j = ((u.geqLost k j).deliverPoison j g).endDetour k j := by
    unfold State.detourOver
    dsimp only
    rw [hw, hx]
    dsimp only
    rw [if_neg (ne_true_of_eq_false hk)]
  have first : u.culls (u.geqLost k j) := u.culls_geqChannel _ _ _ _ _
  have reqs : (u.geqLost k j).xl.reqs = u.xl.reqs := State.reqs_of_culls first
  have waiting := (State.retiring_of_culls first).waiting
  rw [run]
  generalize u.geqLost k j = v at *
  obtain ⟨ends, idle⟩ := v.deliverPoison_spec (q := q) (j := j) (g := g) (by rw [reqs]; exact hq) (waiting.trans hn)
  rw [reqs] at ends
  generalize v.deliverPoison j g = w at *
  have xl : (w.endDetour k j).xl = w.xl := (w.endDetour_spec k j).1 .xl (by decide)
  rw [xl]
  exact ⟨ends, idle⟩

end

end Sys2Proof.Machine
end


section
/-! What the three commands about channels do (13 R361 to R365), clause by clause. -/

namespace Sys2Proof.Machine

set_option Elab.async false

/-- A command whose effect on a channel is known, and that reaches neither tasks, partitions nor credits. -/
theorem put_done {c : Instr} {s v : State} {key : Nat} {d : Chan} {l : List Field} (he : exec c s = done s v) (put : State.chanPut key d s v) (only : s.only v l)
    (hl : ∀ f ∈ [Field.boot, .pending, .latch, .tasks, .mtus, .parts], f ∉ l := by decide) :
    exec c s = .next v ∧ (v.chan key = d ∧ ∀ q, q ≠ key → v.chan q = s.chan q) ∧ s.only v l := by
  have boot : v.boot = s.boot := only .boot (hl _ (by decide))
  exact ⟨he.trans (done_of_only only (congrArg Boot.power boot) fun f hf => hl f (List.mem_cons_of_mem _ hf)), ⟨put.self, put.others⟩, only⟩

section
variable {kind i unseen k j : Nat} {x : Transfer} {s : State} (hk : s.chargeTo kind i = (k, j))
include hk

/-! ### CHANNEL_FAULT -/

theorem exec_fault_word (z : Codeword) : exec (.channelFault kind i unseen (.word z) x) s = done s (match pathCheck z with
    | .clean => s
    | .corrected _ => s.faultCorrected k j unseen
    | .uncorrectable => s.faultUncorrectable k j unseen x none) := exec_channelFault kind i unseen _ x s hk

theorem exec_fault_uncorrectable {what : FaultWhat} (h : what ∈ [FaultWhat.bothRails, .poisonedCompletion] ∨ ∃ z, what = .word z ∧ pathCheck z = .uncorrectable) :
    exec (.channelFault kind i unseen what x) s = done s (s.faultUncorrectable k j unseen x none) := by
  rcases h with h | ⟨z, rfl, hz⟩
  · obtain rfl | rfl : what = .bothRails ∨ what = .poisonedCompletion := by simpa using h
    · exact exec_channelFault kind i unseen _ x s hk
    · exact exec_channelFault kind i unseen _ x s hk
  · rw [exec_fault_word hk, hz]

theorem exec_fault_stored {w : StoredWord} (h : ∀ a e, w ≠ .bank a e) :
    exec (.channelFault kind i unseen (.stored w) x) s = done s (s.faultUncorrectable k j unseen x (some w)) := by
  rw [exec_channelFault kind i unseen _ x s hk]
  cases w with
  | bank a e => exact absurd rfl (h a e)
  | record r => rfl
  | waypoint n => rfl
  | object n => rfl
  | extent n pg => rfl
  | queue f q => rfl
  | geq n => rfl

theorem exec_fault_bank (a : Nat) (e : List (Nat × Byte)) : exec (.channelFault kind i unseen (.stored (.bank a e)) x) s = done s (s.faultBank k j unseen x a e) :=
  exec_channelFault kind i unseen _ x s hk

/-! ### HANDSHAKE_TIMEOUT -/

/-- The transfer is the one that the channel detours. -/
def Chan.detours (c : Chan) (x : Transfer) : Prop := c.detour.isSome = true ∧ c.word = none ∧ c.xfer = x

theorem exec_timeout_other (h : ¬(s.chan (ckey k j)).detours x) :
    exec (.handshakeTimeout kind i unseen x) s = done s ((s.hsFault k j unseen).beginDetour k j x none (k == 1)) := by
  rw [exec_handshakeTimeout kind i unseen x s hk]
  refine congrArg (done s) (if_neg fun c => h ?_)
  simpa [Chan.detours, and_assoc] using c

theorem exec_timeout_same (h : (s.chan (ckey k j)).detours x) :
    exec (.handshakeTimeout kind i unseen x) s = done s ((s.hsFault k j unseen).further k j).portsAgain := by
  rw [exec_handshakeTimeout kind i unseen x s hk]
  refine congrArg (done s) (if_pos ?_)
  simpa [Chan.detours, and_assoc] using h

/-! ### DETOUR_REISSUE -/

theorem exec_reissue_idle (h : (s.chan (ckey k j)).detour = none) (ok : Bool) : exec (.detourReissue kind i unseen ok) s = .next s := by
  rw [exec_detourReissue kind i unseen ok s hk, h]
  exact done_self s

theorem exec_reissue_ok {d : Nat} (h : (s.chan (ckey k j)).detour = some d) :
    exec (.detourReissue kind i unseen true) s = done s ((s.reread (s.chan (ckey k j)).word).endDetour k j) := by
  rw [exec_detourReissue kind i unseen true s hk, h]
  rfl

theorem exec_reissue_failed {d : Nat} (h : (s.chan (ckey k j)).detour = some d) :
    exec (.detourReissue kind i unseen false) s = done s ((s.reissueFault k j unseen).further k j).portsAgain := by
  rw [exec_detourReissue kind i unseen false s hk, h]
  rfl

end

theorem State.reread_spec (s : State) (w : Option StoredWord) : s.only (s.reread w) [.sto] ∧ (s.reread w).sto = match w with
    | some (.bank a _) => { s.sto with ws := s.sto.ws.settle (a / 32) }
    | _ => s.sto := by
  cases w with
  | none => exact ⟨State.only_refl s _, rfl⟩
  | some w =>
    cases w with
    | bank a e => exact ⟨State.only_modSto s _, rfl⟩
    | record r => exact ⟨State.only_refl s _, rfl⟩
    | waypoint n => exact ⟨State.only_refl s _, rfl⟩
    | object n => exact ⟨State.only_refl s _, rfl⟩
    | extent n pg => exact ⟨State.only_refl s _, rfl⟩
    | queue f q => exact ⟨State.only_refl s _, rfl⟩
    | geq n => exact ⟨State.only_refl s _, rfl⟩

theorem State.reread_ended (s : State) (k j : Nat) (w : Option StoredWord) : State.chanPut (ckey k j) (s.chan (ckey k j)).nextDetour s ((s.reread w).endDetour k j) ∧
    ((s.reread w).endDetour k j).sto = (s.reread w).sto ∧ s.only ((s.reread w).endDetour k j) [.chans, .sto, .cnt] := by
  have first := (s.reread_spec w).1
  generalize s.reread w = u at *
  obtain ⟨only, chan, -⟩ := u.endDetour_spec k j
  have same := State.chan_of (first .chans (by decide))
  exact ⟨⟨by rw [chan, if_pos rfl, same], fun q hq => by rw [chan, if_neg hq, same]⟩, only .sto (by decide), State.only_after only.sub first.sub⟩

/-! ### A failed re-issue as a fault -/

/-- A channel whose re-issued transfer has failed: a wait counts as a handshake timeout (13 R362). -/
def Chan.failed (c : Chan) (n : Nat) : Chan :=
  if c.waits then c.stamped n fun c => { c with hsTimeout := satAdd 0xFFFF c.hsTimeout 1 } else c.stamped n fun c => { c with uncorr := satAdd 0xFFFF c.uncorr 1 }

theorem Chan.failed_fields (c : Chan) (n : Nat) : (c.failed n).detour = c.detour ∧ (c.failed n).word = c.word ∧ (c.failed n).xfer = c.xfer := by
  unfold Chan.failed
  split
  · exact ⟨rfl, rfl, rfl⟩
  · exact ⟨rfl, rfl, rfl⟩

theorem State.reissueFault_of {k j unseen : Nat} {s : State} (hw : (s.chan (ckey k j)).word = none) : s.reissueFault k j unseen =
    if (s.chan (ckey k j)).waits then s.hsFault k j unseen
    else s.stampFault k j unseen fun c => { c with uncorr := satAdd 0xFFFF c.uncorr 1 } := by
  unfold State.reissueFault
  rw [hw]
  rfl

section
variable {k j unseen : Nat} {s : State} (hr : (s.chan (ckey k j)).retired = false) (hw : (s.chan (ckey k j)).word = none)
include hr hw

theorem State.reissueFault_calm (calm : ¬((s.chan (ckey k j)).near (s.stampAt k j unseen) ∧ retirable k = true)) :
    State.chanPut (ckey k j) ((s.chan (ckey k j)).failed (s.stampAt k j unseen)) s (s.reissueFault k j unseen) ∧
    ((s.chan (ckey k j)).waits = true → State.waitedAt k j s (s.reissueFault k j unseen)) ∧
    ((s.chan (ckey k j)).waits = false → (s.reissueFault k j unseen).ports = s.ports) ∧ s.only (s.reissueFault k j unseen) [.chans, .ports, .cnt] := by
  rw [State.reissueFault_of hw]
  unfold Chan.failed
  cases hv : (s.chan (ckey k j)).waits with
  | true =>
    obtain ⟨put, waited, only⟩ := State.hsFault_calm hr calm
    exact ⟨put, fun _ => waited, (nomatch ·), only⟩
  | false =>
    rw [if_neg Bool.false_ne_true, if_neg Bool.false_ne_true, (State.stampFault_eq _ hr).2 calm]
    have only := s.only_struck k j unseen fun c => { c with uncorr := satAdd 0xFFFF c.uncorr 1 }
    exact ⟨State.chanPut_struck s k j unseen _, (nomatch ·), fun _ => only .ports (by decide), only.sub⟩

/-- A retirable channel whose detour is exhausted leaves service, whether or not the fault alone would have retired it (13 R363 to R365). -/
theorem State.reissue_leaves (he : (s.chan (ckey k j)).evac = false) (hk : retirable k = true) (owed : k = 1 → j ∉ s.rcv.portRet ∧ bit s.rcv.dumpCfg 25 = false)
    (hd : (s.chan (ckey k j)).detour = some 2) : State.leaves k j s ((s.reissueFault k j unseen).further k j) := by
  by_cases near : (s.chan (ckey k j)).near (s.stampAt k j unseen)
  · have left : State.leaves k j s (s.reissueFault k j unseen) := by
      rw [State.reissueFault_of hw]
      split
      · exact State.hsFault_leaves hr he hk owed near
      · exact State.stampFault_leaves hr he hk owed Chan.counting_uncorr (State.only_refl s _) rfl near
    rw [State.further_gone left.gone]
    exact left
  · have calm : ¬((s.chan (ckey k j)).near (s.stampAt k j unseen) ∧ retirable k = true) := fun h => near h.1
    obtain ⟨put, -⟩ := State.reissueFault_calm hr hw calm
    obtain ⟨detour, word, -⟩ := (s.chan (ckey k j)).failed_fields (s.stampAt k j unseen)
    rw [State.further_last (by rw [put.self, detour, hd]), State.detourOver_retires (by rw [put.self, word, hw]) hk]
    rw [State.reissueFault_of hw]
    split
    · rw [State.hsFault_eq]
      have only := s.only_portLate k j
      have before := State.chan_of (only .chans (by decide)) (ckey k j)
      have at' : (s.portLate k j).stampAt k j unseen = s.stampAt k j unseen := by
        unfold State.stampAt State.hands
        rw [only .cnt (by decide)]
      rw [(State.stampFault_eq _ (by rw [before]; exact hr)).2 (by rw [before, at']; exact calm)]
      refine State.struck_leaves hr he hk owed Chan.counting_hsTimeout only ?_
      rw [State.portLate_eport]
      split <;> rfl
    · rw [(State.stampFault_eq _ hr).2 calm]
      exact State.struck_leaves hr he hk owed Chan.counting_uncorr (State.only_refl s _) rfl

end

end Sys2Proof.Machine
end


section
/-! O49: faults, timeouts and detours of channels. -/

namespace Sys2Proof.Machine

set_option Elab.async false

section
variable {kind i unseen k j : Nat} {x : Transfer} {s : State} (hk : s.chargeTo kind i = (k, j)) (hr : (s.chan (ckey k j)).retired = false)
include hk hr

/-- A third fault within 2^20 handshakes, of either command (13 R364, R365). -/
theorem exec_fault_retires (he : (s.chan (ckey k j)).evac = false) (near : (s.chan (ckey k j)).near (s.stampAt k j unseen)) (hb : retirable k = true)
    (hn : s.xl.waiting = []) : ∀ f ∈ [Instr.channelFault kind i unseen .bothRails x, .handshakeTimeout kind i unseen x],
      ∃ t, exec f s = .next t ∧ State.outOfService k j s t := by
  have fault := exec_fault_uncorrectable (unseen := unseen) (x := x) hk (what := .bothRails) (.inl (by simp))
  intro f hf
  obtain rfl | rfl : f = .channelFault kind i unseen .bothRails x ∨ f = .handshakeTimeout kind i unseen x := by simpa using hf
  · rw [fault]
    refine State.leaves_done ?_
    by_cases owed : k = 1 → j ∉ s.rcv.portRet ∧ bit s.rcv.dumpCfg 25 = false
    · have left := State.stampFault_leaves hr he hb owed Chan.counting_uncorr (State.only_refl s _) rfl near
      unfold State.faultUncorrectable
      rw [State.beginDetour_gone left.gone]
      exact left.out
    · exact State.outOfService_unowed (Classical.not_imp.mp owed).1 (Classical.not_imp.mp owed).2 _
  · by_cases same : (s.chan (ckey k j)).detours x
    · rw [exec_timeout_same hk same]
      refine State.leaves_done ?_
      by_cases owed : k = 1 → j ∉ s.rcv.portRet ∧ bit s.rcv.dumpCfg 25 = false
      · have left := State.hsFault_leaves hr he hb owed near
        rw [State.further_gone left.gone, State.portsAgain_of_none _ (left.waiting.trans hn)]
        exact left.out
      · exact State.outOfService_unowed (Classical.not_imp.mp owed).1 (Classical.not_imp.mp owed).2 _
    · rw [exec_timeout_other hk same]
      refine State.leaves_done ?_
      by_cases owed : k = 1 → j ∉ s.rcv.portRet ∧ bit s.rcv.dumpCfg 25 = false
      · have left := State.hsFault_leaves hr he hb owed near
        rw [State.beginDetour_gone left.gone]
        exact left.out
      · exact State.outOfService_unowed (Classical.not_imp.mp owed).1 (Classical.not_imp.mp owed).2 _

/-- An exhausted detour of a retirable channel (13 R363). -/
theorem exec_reissue_retires (he : (s.chan (ckey k j)).evac = false) (hd : (s.chan (ckey k j)).detour = some 2) (hw : (s.chan (ckey k j)).word = none)
    (hb : retirable k = true) (hn : s.xl.waiting = []) : ∃ t, exec (.detourReissue kind i unseen false) s = .next t ∧ State.outOfService k j s t := by
  rw [exec_reissue_failed hk hd]
  refine State.leaves_done ?_
  by_cases owed : k = 1 → j ∉ s.rcv.portRet ∧ bit s.rcv.dumpCfg 25 = false
  · have left := State.reissue_leaves hr hw (unseen := unseen) he hb owed hd
    rw [State.portsAgain_of_none _ (left.waiting.trans hn)]
    exact left.out
  · exact State.outOfService_unowed (Classical.not_imp.mp owed).1 (Classical.not_imp.mp owed).2 _

/-- A handshake timeout of another transfer than the one being detoured begins a detour (13 R362). -/
theorem exec_timeout_begins (calm : ¬((s.chan (ckey k j)).near (s.stampAt k j unseen) ∧ retirable k = true)) (h : ¬(s.chan (ckey k j)).detours x) :
    ∃ t, exec (.handshakeTimeout kind i unseen x) s = .next t ∧
      (t.chan (ckey k j) = ((s.chan (ckey k j)).stamped (s.stampAt k j unseen) fun c => { c with hsTimeout := satAdd 0xFFFF c.hsTimeout 1 }).begun
          (s.rcv.portRet.contains j && k == 1) x none (k == 1) ∧ ∀ q, q ≠ ckey k j → t.chan q = s.chan q) ∧
      State.waitedAt k j s t ∧ s.only t [.chans, .ports, .cnt] := by
  have run := exec_timeout_other (unseen := unseen) hk h
  obtain ⟨put, waited, only⟩ := State.hsFault_calm hr calm
  generalize s.hsFault k j unseen = u at *
  obtain ⟨ends, begun⟩ := State.beginDetour_spec put hr x none (k == 1)
  rw [show u.rcv = s.rcv from only .rcv (by decide)] at begun
  obtain ⟨next, puts, all⟩ := put_done run begun (State.only_after ends.sub only)
  exact ⟨_, next, puts, fun q => (State.eport_of (ends .ports (by decide)) q).trans (waited q), all⟩

/-- A further failure of the transfer that is being detoured. -/
theorem exec_timeout_further (calm : ¬((s.chan (ckey k j)).near (s.stampAt k j unseen) ∧ retirable k = true)) {d : Nat}
    (hd : (s.chan (ckey k j)).detour = some d) (hlt : d + 1 < 3) (hw : (s.chan (ckey k j)).word = none) (hx : (s.chan (ckey k j)).xfer = x)
    (hn : s.xl.waiting = []) : ∃ t, exec (.handshakeTimeout kind i unseen x) s = .next t ∧
      (t.chan (ckey k j) = { (s.chan (ckey k j)).stamped (s.stampAt k j unseen) (fun c => { c with hsTimeout := satAdd 0xFFFF c.hsTimeout 1 }) with
          detour := some (d + 1) } ∧ ∀ q, q ≠ ckey k j → t.chan q = s.chan q) ∧
      State.waitedAt k j s t ∧ s.only t [.chans, .ports, .cnt] := by
  have run := exec_timeout_same (unseen := unseen) hk (x := x) ⟨by rw [hd]; rfl, hw, hx⟩
  obtain ⟨put, waited, only⟩ := State.hsFault_calm hr calm
  generalize s.hsFault k j unseen = u at *
  obtain ⟨next, ends⟩ := State.further_next put (d := d) hd hlt
  generalize u.further k j = v at *
  have all : s.only v [.chans, .ports, .cnt] := State.only_after ends.sub only
  rw [State.portsAgain_of_none v ((congrArg Xl.waiting (all .xl (by decide))).trans hn)] at run
  obtain ⟨next, puts, -⟩ := put_done run next all
  exact ⟨v, next, puts, fun q => (State.eport_of (ends .ports (by decide)) q).trans (waited q), all⟩

omit hr in
/-- The re-read of a stored word fails once more. -/
theorem exec_reissue_word {d : Nat} (hd : (s.chan (ckey k j)).detour = some d) (hlt : d + 1 < 3) (hw : (s.chan (ckey k j)).word.isSome = true)
    (hn : s.xl.waiting = []) : ∃ t, exec (.detourReissue kind i unseen false) s = .next t ∧
      (t.chan (ckey k j) = { s.chan (ckey k j) with detour := some (d + 1) } ∧ ∀ q, q ≠ ckey k j → t.chan q = s.chan q) ∧ s.only t [.chans] := by
  have run := exec_reissue_failed (unseen := unseen) hk hd
  rw [show s.reissueFault k j unseen = s from if_pos hw] at run
  obtain ⟨put, only⟩ := State.further_next (State.chanPut_of (u := s) ⟨rfl, fun _ _ => rfl⟩ rfl) hd hlt
  generalize s.further k j = v at *
  rw [State.portsAgain_of_none v ((congrArg Xl.waiting (only .xl (by decide))).trans hn)] at run
  obtain ⟨next, puts, all⟩ := put_done run put only
  exact ⟨v, next, puts, all⟩

/-- Another transfer fails once more. -/
theorem exec_reissue_further (calm : ¬((s.chan (ckey k j)).near (s.stampAt k j unseen) ∧ retirable k = true)) {d : Nat}
    (hd : (s.chan (ckey k j)).detour = some d) (hlt : d + 1 < 3) (hw : (s.chan (ckey k j)).word = none) (hn : s.xl.waiting = []) :
    ∃ t, exec (.detourReissue kind i unseen false) s = .next t ∧
      (t.chan (ckey k j) = { (s.chan (ckey k j)).failed (s.stampAt k j unseen) with detour := some (d + 1) } ∧ ∀ q, q ≠ ckey k j → t.chan q = s.chan q) ∧
      ((s.chan (ckey k j)).waits = true → State.waitedAt k j s t) ∧ ((s.chan (ckey k j)).waits = false → t.ports = s.ports) ∧
      s.only t [.chans, .ports, .cnt] := by
  have run := exec_reissue_failed (unseen := unseen) hk hd
  obtain ⟨put, waited, still, only⟩ := State.reissueFault_calm hr hw calm
  generalize s.reissueFault k j unseen = u at *
  obtain ⟨next, ends⟩ := State.further_next put (((s.chan (ckey k j)).failed_fields _).1.trans hd) hlt
  generalize u.further k j = v at *
  have all : s.only v [.chans, .ports, .cnt] := State.only_after ends.sub only
  rw [State.portsAgain_of_none v ((congrArg Xl.waiting (all .xl (by decide))).trans hn)] at run
  obtain ⟨next, puts, -⟩ := put_done run next all
  exact ⟨v, next, puts, fun hv q => (State.eport_of (ends .ports (by decide)) q).trans (waited hv q), fun hv => (ends .ports (by decide)).trans (still hv), all⟩

omit hr in
/-- The re-read of a stored word has failed three times (13 R368). -/
theorem exec_reissue_lost (hd : (s.chan (ckey k j)).detour = some 2) {w : StoredWord} (hw : (s.chan (ckey k j)).word = some w) (hn : s.xl.waiting = []) :
    ∃ t, exec (.detourReissue kind i unseen false) s = .next t ∧
      (t.chan (ckey k j) = (s.chan (ckey k j)).nextDetour ∧ ∀ q, q ≠ ckey k j → t.chan q = s.chan q) ∧ State.wordLost s t w := by
  have run := exec_reissue_failed (unseen := unseen) hk hd
  rw [show s.reissueFault k j unseen = s from if_pos (by rw [hw]; rfl), State.further_last hd] at run
  obtain ⟨lost, put, waiting⟩ := s.detourOver_word k j hw
  generalize s.detourOver k j = v at *
  rw [State.portsAgain_of_none v (waiting.trans hn)] at run
  obtain ⟨t, ht, -, -, only⟩ := done_next s v
  have same := State.chan_of (only .chans (by decide))
  exact ⟨t, run.trans ht, ⟨(same _).trans put.self, fun q hq => (same q).trans (put.others q hq)⟩, State.wordLost_later lost only⟩

/-! ### Transfers that cannot be made (13 R363) -/

section
variable (hd : (s.chan (ckey k j)).detour = some 2) (hw : (s.chan (ckey k j)).word = none) (hb : retirable k = false) (hn : s.xl.waiting = [])
include hd hw hb

/-- The third failure of a transfer is counted, and its detour is over. -/
theorem exec_reissue_over : ∃ u, exec (.detourReissue kind i unseen false) s = done s (u.detourOver k j).portsAgain ∧ s.only u [.chans, .ports, .cnt] ∧
    (u.chan (ckey k j)).detour = some 2 ∧ (u.chan (ckey k j)).word = none ∧ (u.chan (ckey k j)).xfer = (s.chan (ckey k j)).xfer := by
  have run := exec_reissue_failed (unseen := unseen) hk hd
  obtain ⟨put, -, -, only⟩ := State.reissueFault_calm hr hw (unseen := unseen) (fun h => Bool.false_ne_true (hb.symm.trans h.2))
  obtain ⟨detour, word, xfer⟩ := (s.chan (ckey k j)).failed_fields (s.stampAt k j unseen)
  generalize s.reissueFault k j unseen = u at *
  have last : (u.chan (ckey k j)).detour = some 2 := by rw [put.self, detour, hd]
  rw [State.further_last last] at run
  exact ⟨u, run, only, last, by rw [put.self, word, hw], by rw [put.self, xfer]⟩

include hn

theorem exec_reissue_read {r : Nat} (hx : (s.chan (ckey k j)).xfer = .read (some r)) (h7 : k ≠ 7) (h9 : k ≠ 9) (kill : (s.task r).killable = true) :
    ∃ t, exec (.detourReissue kind i unseen false) s = .next t ∧ (t.task r).st = .killed ∧ (t.task r).after = some (.fail 0x17) := by
  obtain ⟨u, run, only, -, word, xfer⟩ := exec_reissue_over (unseen := unseen) hk hr hd hw hb
  have task := State.task_of (only .tasks (by decide)) r
  obtain ⟨st, after, kept⟩ := State.detourOver_read word hb (xfer.trans hx) h7 h9 (by rw [task]; exact kill)
  rw [State.portsAgain_of_none _ (kept.waiting.trans ((congrArg Xl.waiting (only .xl (by decide))).trans hn))] at run
  obtain ⟨t, ht, -, -, ends⟩ := done_next s (u.detourOver k j)
  have same := State.task_of (ends .tasks (by decide)) r
  exact ⟨t, run.trans ht, by rw [same]; exact st, by rw [same]; exact after⟩

theorem exec_reissue_write {r : Nat} (hx : (s.chan (ckey k j)).xfer = .write r) (kill : (s.task r).killable = true) :
    ∃ t, exec (.detourReissue kind i unseen false) s = .next t ∧ (t.task r).st = .killed ∧ (t.task r).after = some (s.rerunAfter r) := by
  obtain ⟨u, run, only, -, word, xfer⟩ := exec_reissue_over (unseen := unseen) hk hr hd hw hb
  have task := State.task_of (only .tasks (by decide)) r
  have aft : u.rerunAfter r = s.rerunAfter r := by
    unfold State.rerunAfter State.verkai
    rw [task, State.part_of (only .parts (by decide))]
  obtain ⟨st, after, kept⟩ := State.detourOver_write word hb (xfer.trans hx) (by rw [task]; exact kill)
  rw [State.portsAgain_of_none _ (kept.waiting.trans ((congrArg Xl.waiting (only .xl (by decide))).trans hn))] at run
  obtain ⟨t, ht, -, -, ends⟩ := done_next s (u.detourOver k j)
  have same := State.task_of (ends .tasks (by decide)) r
  exact ⟨t, run.trans ht, by rw [same]; exact st, by rw [same, ← aft]; exact after⟩

theorem exec_reissue_committing {r : Nat} (hx : (s.chan (ckey k j)).xfer = .write r) (busy : (s.task r).st = .committing) :
    ∃ t, exec (.detourReissue kind i unseen false) s = .next t ∧ (t.chan (ckey k j)).detour = some 3 ∧ (t.chan (ckey k j)).more = 0 ∧ t.tasks = s.tasks := by
  obtain ⟨u, run, only, last, word, xfer⟩ := exec_reissue_over (unseen := unseen) hk hr hd hw hb
  have task := State.task_of (only .tasks (by decide)) r
  obtain ⟨detour, more, kept⟩ := State.detourOver_committing word hb last (xfer.trans hx) (by rw [task]; exact busy)
  rw [State.portsAgain_of_none _ ((congrArg Xl.waiting (kept .xl (by decide))).trans ((congrArg Xl.waiting (only .xl (by decide))).trans hn))] at run
  obtain ⟨t, ht, -, -, ends⟩ := done_next s (u.detourOver k j)
  have same := State.chan_of (ends .chans (by decide)) (ckey k j)
  exact ⟨t, run.trans ht, by rw [same]; exact detour, by rw [same]; exact more,
    (ends .tasks (by decide)).trans ((kept .tasks (by decide)).trans (only .tasks (by decide)))⟩

theorem exec_reissue_tag {g : Nat} {q : HostReq} (hx : (s.chan (ckey k j)).xfer = .tag g)
    (hq : (s.xl.reqs.find? fun y => y.port == j && y.tag == g) = some q) :
    ∃ t, exec (.detourReissue kind i unseen false) s = .next t ∧ t.xl.reqs = s.xl.reqs.erase q := by
  obtain ⟨u, run, only, -, word, xfer⟩ := exec_reissue_over (unseen := unseen) hk hr hd hw hb
  have xl : u.xl = s.xl := only .xl (by decide)
  obtain ⟨reqs, waiting⟩ := State.detourOver_tag word hb (xfer.trans hx) (by rw [xl]; exact hq) (by rw [xl]; exact hn)
  rw [State.portsAgain_of_none _ waiting] at run
  obtain ⟨t, ht, -, -, ends⟩ := done_next s (u.detourOver k j)
  exact ⟨t, run.trans ht, (congrArg Xl.reqs (ends .xl (by decide))).trans (reqs.trans (by rw [xl]))⟩

end

end

/-- Settles O49: a channel that leaves service detours nothing more, so what follows its retirement in a command does nothing. -/
theorem channelFaultsAndDetours : Obligations.ChannelFaultsAndDetours := by
  intro kind i unseen x s
  have hk : s.chargeTo kind i = ((s.chargeTo kind i).1, (s.chargeTo kind i).2) := rfl
  refine ⟨fun z hz => ?_, fun hr calm => ⟨fun z y hz => ?_, fun what h => ?_, fun w hw => ?_, fun a e => ?_, fun h => ?_, fun d hd hlt hw hx hn => ?_⟩,
    fun hr he near hb hn => exec_fault_retires hk hr he near hb hn, fun d hd => ?_, fun hd ok => exec_reissue_idle hk hd ok,
    fun d hd hr hlt hn => ⟨fun hw => exec_reissue_word hk hd hlt hw hn, fun hw calm => exec_reissue_further hk hr calm hd hlt hw hn⟩,
    fun hd hr he hn => ⟨fun w hw => exec_reissue_lost hk hd hw hn, fun hw hb => exec_reissue_retires hk hr he hd hw hb hn, fun hw hb =>
      ⟨fun r hx h7 h9 kill => exec_reissue_read hk hr hd hw hb hn hx h7 h9 kill, fun r hx kill => exec_reissue_write hk hr hd hw hb hn hx kill,
        fun r hx busy => exec_reissue_committing hk hr hd hw hb hn hx busy, fun g q hx hq => exec_reissue_tag hk hr hd hw hb hn hx hq⟩⟩⟩
  · rw [exec_fault_word hk, hz]
    exact done_self s
  · have run : exec (.channelFault kind i unseen (.word z) x) s = done s _ := (exec_fault_word hk z).trans (by rw [hz])
    obtain ⟨only, put⟩ := State.faultCorrected_calm hr calm
    exact ⟨_, put_done run put only⟩
  · obtain ⟨only, put⟩ := State.faultUncorrectable_calm hr calm x none
    exact ⟨_, put_done (exec_fault_uncorrectable hk h) put only⟩
  · obtain ⟨only, put⟩ := State.faultUncorrectable_calm hr calm x (some w)
    exact ⟨_, put_done (exec_fault_stored hk hw) put only⟩
  · obtain ⟨only, word⟩ := State.faultBank_calm hr calm x a e
    have run := exec_fault_bank (unseen := unseen) (x := x) hk a e
    have boot : (s.faultBank (s.chargeTo kind i).1 (s.chargeTo kind i).2 unseen x a e).boot = s.boot := only .boot (by decide)
    refine ⟨_, run.trans (done_of_only only (congrArg Boot.power boot)), only, ?_⟩
    generalize pathCheck ((s.sto.ws.strike (a / 32) e).codeword none (a / 32)) = p at word ⊢
    cases p with
    | clean => exact word.imp_left fun put => ⟨put.self, put.others⟩
    | corrected y => exact word.imp_left fun put => ⟨put.self, put.others⟩
    | uncorrectable => exact word.imp_left fun put => ⟨put.self, put.others⟩
  · exact exec_timeout_begins hk hr calm h
  · exact exec_timeout_further hk hr calm hd hlt hw hx hn
  · obtain ⟨put, sto, only⟩ := s.reread_ended (s.chargeTo kind i).1 (s.chargeTo kind i).2 (s.chan (ckey (s.chargeTo kind i).1 (s.chargeTo kind i).2)).word
    obtain ⟨next, puts, all⟩ := put_done (exec_reissue_ok hk hd) put only
    exact ⟨_, next, puts, sto.trans (s.reread_spec _).2, all⟩

end Sys2Proof.Machine
end
